-- ==== Sys2Proof/Word.lean ====
section
/-! DEFINITION. The word types of the K16 (spec/00_scope.md R7, spec/01_machine_state.md R16 and R18). -/

namespace Sys2Proof

/-- A *double* of R7: the width of a general register (R16). -/
abbrev Word := BitVec 64
/-- A *byte* of R7. -/
abbrev Byte := BitVec 8
/-- A *word* of R7: one slot of a line (R92). -/
abbrev Word32 := BitVec 32
/-- A code address (R95): line in [27:4], slot in [3:0]. -/
abbrev CodeAddr := BitVec 28
/-- A register field: names g0 to g31 (R102), or a vector register (R245). -/
abbrev Reg := BitVec 5
/-- A predicate field: names p0 to p7 (R102). -/
abbrev PReg := BitVec 3

end Sys2Proof
end

