-- ==== Sys2Proof/Syntax.lean ====
section
/-! DEFINITION. The abstract syntax: one constructor of `Instr` per row of spec/opcode_table.json. An instruction
word's constructor carries the fields of its encoding (spec/03_instruction_formats.md R102, R105, R106); a row that
is an operation or event of the hardware carries what it is about (which tile, which queue, which packet), and has no
encoding. -/

namespace Sys2Proof

/-- The ports through which the host reaches system registers: BAR0 (R472), and Tailstock 1's management port (R473). -/
inductive HostPort where
  | bar0
  | mctp
  deriving DecidableEq, Repr

/-- An access of the host to a system register: the port, a write or a read, the address there, and its length in bytes. -/
structure SysAccess where
  port : HostPort
  write : Bool
  addr : Word
  len : BitVec 7
  deriving DecidableEq, Repr

/-- The three engine queues (R24); QSEL and the queue codes of R107 and R190. -/
inductive Q where
  | l | x | s
  deriving DecidableEq, Repr

/-- Where a soft error strikes storage (R447, R448): a word of tile SRAM, accumulator SRAM or HBM4E, by physical address; a word of
its copy in L2; a record of a pool in the Headstock's pool store, by its place from the oldest; a value of a pairing object, likewise; a
packet in router buffers; the checksum store of a z tile; a register of a control core or of a vector engine; the buffer of a queue;
an operand slot; XRET. -/
inductive ErrSite where
  | word (pa : Nat)
  | l2 (pa : Nat)
  | record (launch region : Nat) (pri : BitVec 3) (i : Nat) (w : BitVec 2)
  | value (obj i : Nat)
  | packet (rid : Nat) (w : BitVec 6)
  | checksum (tile : Nat) (z : BitVec 4) (w : BitVec 9)
  | reg (tile : Nat) (r : BitVec 5)
  | pred (tile : Nat) (p : BitVec 3)
  | vreg (tile : Nat) (r : BitVec 5)
  | mask (tile : Nat) (m : BitVec 3)
  | queueBuf (tile : Nat) (q : Q)
  | slot (tile : Nat) (n : BitVec 2)
  | xret (tile : Nat)
  deriving DecidableEq, Repr

/-- The token FIFOs (R32), in the order of the FIFO codes of R173. -/
inductive Fifo where
  | lx | xl | xs | sx
  deriving DecidableEq, Repr

/-- Ordering scopes (R104). -/
inductive Scope where
  | tile | die | package | domain
  deriving DecidableEq, Repr

/-- The registers of a loop set that MTS writes (R148). -/
inductive LoopReg where
  | lc | ls | le
  deriving DecidableEq, Repr

/-- The fields of an engine instruction (Table 3.4). MAJ and MIN are the constructor. Vector instructions read ET, MZ
and MK out of `f7` and SC, RM, XR and the rest out of `ext` (Table 7.3). -/
structure Eng where
  /-- Register field A, first word [25:21]. -/
  ga : Reg
  /-- Register field B, first word [20:16]. -/
  gb : Reg
  /-- Register field C, first word [15:11]. -/
  gc : Reg
  /-- Options, first word [6:0]. -/
  f7 : BitVec 7
  /-- PBL, PBR, PAL, PAR: second word [3:0]. -/
  tok : BitVec 4
  /-- TAG, second word [9:4]. -/
  tag : BitVec 6
  /-- BAT, second word [10]. -/
  bat : Bool
  /-- FOL in the control stream, END in an engine-owned line: second word [11]. -/
  fol : Bool
  /-- EXT, second word [31:12]. -/
  ext : BitVec 20
  deriving DecidableEq, Repr

/-- A debug request: the DBG payload of Table 15.1. -/
structure DbgReq where
  /-- Tag of the mailbox message (R470). -/
  tag : BitVec 32
  flg : Byte
  seq : BitVec 32
  queue : Byte
  ltn0 : BitVec 32
  ltn1 : BitVec 32
  arg0 : Word
  arg1 : Word
  arg2 : Word
  /-- Bytes 56 to 71: eight breakpoint codes. -/
  codes : List (BitVec 16)
  /-- Bytes 72 to 103: four address breakpoints. -/
  addrs : List Word
  /-- Bytes 104 to 111: the entry-name watch. -/
  watch : Word
  /-- 1 when one of the fields that Table 15.1 marks zero is not (R474). -/
  bad : Bool
  deriving DecidableEq, Repr

/-- The rows of the opcode table. -/
inductive Instr where
  /-- ADD (R132). Adds two general registers modulo 2^64. -/
  | add (d a b : Reg)
  /-- SUB (R132). Subtracts two general registers modulo 2^64. -/
  | sub (d a b : Reg)
  /-- MUL (R132). Low 64 bits of the product of two registers. -/
  | mul (d a b : Reg)
  /-- MULH (R132). High 64 bits of the signed product. -/
  | mulh (d a b : Reg)
  /-- MULHU (R132). High 64 bits of the unsigned product. -/
  | mulhu (d a b : Reg)
  /-- DIV (R132). Signed division truncating toward zero, all ones on a zero divisor. -/
  | div (d a b : Reg)
  /-- DIVU (R132). Unsigned division, all ones on a zero divisor. -/
  | divu (d a b : Reg)
  /-- REM (R132). Signed remainder, the dividend on a zero divisor. -/
  | rem (d a b : Reg)
  /-- REMU (R132). Unsigned remainder, the dividend on a zero divisor. -/
  | remu (d a b : Reg)
  /-- AND (R132). Bitwise AND of two registers. -/
  | and (d a b : Reg)
  /-- OR (R132). Bitwise OR of two registers. -/
  | or (d a b : Reg)
  /-- XOR (R132). Bitwise XOR of two registers. -/
  | xor (d a b : Reg)
  /-- SHL (R132). Shift left by the low six bits of gB. -/
  | shl (d a b : Reg)
  /-- SHR (R132). Logical shift right by the low six bits of gB. -/
  | shr (d a b : Reg)
  /-- SAR (R132). Arithmetic shift right by the low six bits of gB. -/
  | sar (d a b : Reg)
  /-- MIN (R132). Signed minimum of two registers. -/
  | min (d a b : Reg)
  /-- MAX (R132). Signed maximum of two registers. -/
  | max (d a b : Reg)
  /-- MINU (R132). Unsigned minimum of two registers. -/
  | minu (d a b : Reg)
  /-- MAXU (R132). Unsigned maximum of two registers. -/
  | maxu (d a b : Reg)
  /-- LEA (R132). Adds gB shifted left by SH to gA. -/
  | lea (d a b : Reg) (sh : BitVec 3)
  /-- CLZ (R133). Counts leading zero bits. -/
  | clz (d a : Reg)
  /-- CTZ (R133). Counts trailing zero bits. -/
  | ctz (d a : Reg)
  /-- POPC (R133). Counts one bits. -/
  | popc (d a : Reg)
  /-- BSWAP (R133). Reverses the eight bytes of a register. -/
  | bswap (d a : Reg)
  /-- SEXT_B (R133). Sign-extends the low byte. -/
  | sextB (d a : Reg)
  /-- SEXT_H (R133). Sign-extends the low half. -/
  | sextH (d a : Reg)
  /-- SEXT_W (R133). Sign-extends the low word. -/
  | sextW (d a : Reg)
  /-- ZEXT_B (R133). Zero-extends the low byte. -/
  | zextB (d a : Reg)
  /-- ZEXT_H (R133). Zero-extends the low half. -/
  | zextH (d a : Reg)
  /-- ZEXT_W (R133). Zero-extends the low word. -/
  | zextW (d a : Reg)
  /-- ADDI (R134). Adds a sign-extended immediate to a register. -/
  | addi (d a : Reg) (imm : BitVec 16)
  /-- ANDI (R134). ANDs a zero-extended immediate into a register. -/
  | andi (d a : Reg) (imm : BitVec 16)
  /-- ORI (R134). ORs a zero-extended immediate into a register. -/
  | ori (d a : Reg) (imm : BitVec 16)
  /-- XORI (R134). XORs a zero-extended immediate into a register. -/
  | xori (d a : Reg) (imm : BitVec 16)
  /-- SHLI (R135). Shift left by an immediate amount. -/
  | shli (d a : Reg) (sh : BitVec 6)
  /-- SHRI (R135). Logical shift right by an immediate amount. -/
  | shri (d a : Reg) (sh : BitVec 6)
  /-- SARI (R135). Arithmetic shift right by an immediate amount. -/
  | sari (d a : Reg) (sh : BitVec 6)
  /-- MOVI (R134). Loads a sign-extended immediate into a register. -/
  | movi (d : Reg) (imm : BitVec 16)
  /-- MOVW (R136). Writes a 32-bit immediate to the low or high half of a register. -/
  | movw (d : Reg) (hi : Bool) (imm : BitVec 32)
  /-- CMPEQ (R137). Sets a predicate if two registers are equal. -/
  | cmpeq (pd : PReg) (a b : Reg)
  /-- CMPNE (R137). Sets a predicate if two registers differ. -/
  | cmpne (pd : PReg) (a b : Reg)
  /-- CMPLT (R137). Signed less-than compare into a predicate. -/
  | cmplt (pd : PReg) (a b : Reg)
  /-- CMPLTU (R137). Unsigned less-than compare into a predicate. -/
  | cmpltu (pd : PReg) (a b : Reg)
  /-- CMPGE (R137). Signed greater-or-equal compare into a predicate. -/
  | cmpge (pd : PReg) (a b : Reg)
  /-- CMPGEU (R137). Unsigned greater-or-equal compare into a predicate. -/
  | cmpgeu (pd : PReg) (a b : Reg)
  /-- CMPEQI (R137). Compares a register with a sign-extended immediate for equality. -/
  | cmpeqi (pd : PReg) (a : Reg) (imm : BitVec 15)
  /-- CMPNEI (R137). Compares a register with an immediate for inequality. -/
  | cmpnei (pd : PReg) (a : Reg) (imm : BitVec 15)
  /-- CMPLTI (R137). Signed less-than compare with an immediate. -/
  | cmplti (pd : PReg) (a : Reg) (imm : BitVec 15)
  /-- CMPLTUI (R137). Unsigned less-than compare with a sign-extended immediate. -/
  | cmpltui (pd : PReg) (a : Reg) (imm : BitVec 15)
  /-- CMPGEI (R137). Signed greater-or-equal compare with an immediate. -/
  | cmpgei (pd : PReg) (a : Reg) (imm : BitVec 15)
  /-- CMPGEUI (R137). Unsigned greater-or-equal compare with a sign-extended immediate. -/
  | cmpgeui (pd : PReg) (a : Reg) (imm : BitVec 15)
  /-- PAND (R138). ANDs two predicates. -/
  | pand (pd pa pb : PReg)
  /-- POR (R138). ORs two predicates. -/
  | por (pd pa pb : PReg)
  /-- PXOR (R138). XORs two predicates. -/
  | pxor (pd pa pb : PReg)
  /-- PNOT (R138). Inverts a predicate. -/
  | pnot (pd pa : PReg)
  /-- SEL (R139). Selects one of two registers by a predicate. -/
  | sel (d a b : Reg) (ps : PReg)
  /-- BP (R140). Branches if the predicate is 1. -/
  | bp (ps : PReg) (ld : BitVec 19) (slot : BitVec 4)
  /-- BR (R140). Unconditional branch, BP with PS = 0. -/
  | br (ld : BitVec 19) (slot : BitVec 4)
  /-- BNP (R140). Branches if the predicate is 0. -/
  | bnp (ps : PReg) (ld : BitVec 19) (slot : BitVec 4)
  /-- CALL (R142). Pushes the successor as return address and branches. -/
  | call (ld : BitVec 19) (slot : BitVec 4)
  /-- JI (R141). Jumps to the code address in a register. -/
  | ji (a : Reg)
  /-- CALLI (R142). Calls the code address in a register. -/
  | calli (a : Reg)
  /-- RET (R143). Returns to the most recent return address, refilling from the spill area if needed. -/
  | ret
  /-- LOOP (R146). Starts a hardware loop with a count from a register. -/
  | loop (set : BitVec 1) (a : Reg) (le : CodeAddr)
  /-- LOOPI (R146). Starts a hardware loop with an immediate count. -/
  | loopi (set : BitVec 1) (cnt : BitVec 20) (le : CodeAddr)
  /-- MFS (R152). Reads a special register into a general register. -/
  | mfs (g : Reg) (srn : BitVec 10)
  /-- MTS (R152). Writes a general register to a special register without a behaviour of its own. -/
  | mts (g : Reg) (srn : BitVec 10)
  /-- MTS_TCFG (R23). Writing TCFG at M changes the scratchpad split and invalidates L1, or traps if a queue is non-empty. -/
  | mtsTcfg (g : Reg)
  /-- MTS_QUEUE_NUMBER (R26). Writing an issue or completion number sets both numbers of an idle queue and the sequence mirror. -/
  | mtsQueueNumber (g : Reg) (comp : Bool) (q : Q)
  /-- MTS_QUEUE_LINK (R27). Writing a head or tail link moves an empty queue's head and tail within its fixed region. -/
  | mtsQueueLink (g : Reg) (tail : Bool) (q : Q)
  /-- MTS_TOKC (R33). Writing TOKC at M sets the token counts, trapping above 16. -/
  | mtsTokc (g : Reg)
  /-- MTS_ZWM (R43). Writing a watermark at M takes effect at once for waiting accesses. -/
  | mtsZwm (g : Reg) (z : BitVec 4)
  /-- MTS_DQN (R48). Writing DQN at M sets the deferral queue occupancy. -/
  | mtsDqn (g : Reg)
  /-- MTS_SEQW (R30). Writing SEQW sets the sequence mirror offset, trapping on an invalid value. -/
  | mtsSeqw (g : Reg)
  /-- MTS_SEED (R73). Writing SEED sets the LFSR state for the next rounded element. -/
  | mtsSeed (g : Reg)
  /-- MTS_LOOP_REGISTER (R148). Writing LCn, LSn or LEn changes the loop set, possibly activating it. -/
  | mtsLoopRegister (g : Reg) (set : BitVec 1) (which : LoopReg)
  /-- MTS_EBASE (R433). Writing EBASE sets the trap handler address, faulting on a bad code address. -/
  | mtsEbase (g : Reg)
  /-- INJ_ARM (R454). Writing INJC with ARM arms or disarms one injected error at the unit's home. -/
  | injArm (g : Reg)
  /-- LD (R155). Loads and zero-extends bytes from memory. -/
  | ld (d a : Reg) (sz : BitVec 2) (off : BitVec 14)
  /-- LDS (R155). Loads and sign-extends bytes from memory. -/
  | lds (d a : Reg) (sz : BitVec 2) (off : BitVec 14)
  /-- ST (R155). Stores the low bytes of a register to memory. -/
  | st (d a : Reg) (sz : BitVec 2) (off : BitVec 14)
  /-- LDA (R158). Load with acquire, invalidating L1. -/
  | lda (d a : Reg) (sz : BitVec 2) (off : BitVec 14)
  /-- STL (R158). Store with release. -/
  | stl (d a : Reg) (sz : BitVec 2) (off : BitVec 14)
  /-- PFL (R160). Prefetches a line into L1 and L2 without faulting. -/
  | pfl (a : Reg) (sz : BitVec 2) (off : BitVec 14)
  /-- AADD (R162). Atomic add on the tile's atomic region. -/
  | aadd (d a b : Reg)
  /-- AMIN (R162). Atomic signed minimum. -/
  | amin (d a b : Reg)
  /-- AMAX (R162). Atomic signed maximum. -/
  | amax (d a b : Reg)
  /-- AMINU (R162). Atomic unsigned minimum. -/
  | aminu (d a b : Reg)
  /-- AMAXU (R162). Atomic unsigned maximum. -/
  | amaxu (d a b : Reg)
  /-- AXCHG (R162). Atomic exchange. -/
  | axchg (d a b : Reg)
  /-- ACAS (R162). Atomic compare-and-swap. -/
  | acas (d a b : Reg)
  /-- AAND (R162). Atomic AND. -/
  | aand (d a b : Reg)
  /-- AOR (R162). Atomic OR. -/
  | aor (d a b : Reg)
  /-- AXOR (R162). Atomic XOR. -/
  | axor (d a b : Reg)
  /-- TOKW (R173). Waits for N tokens in a FIFO, optionally removes them, and returns the count. -/
  | tokw (d : Reg) (n : BitVec 5) (fifo : Fifo) (pop : Bool)
  /-- TAGWA (R174). Waits until any tag of the mask is ready. -/
  | tagwa (d a : Reg)
  /-- TAGWL (R174). Waits until every tag of the mask is ready. -/
  | tagwl (d a : Reg)
  /-- TAGFF (R174). Finds the lowest ready tag of the mask, optionally clearing it. -/
  | tagff (d a : Reg) (clr : Bool)
  /-- TAGCLR (R174). Clears the ready bits of the masked tags. -/
  | tagclr (a : Reg)
  /-- BARA (R180). Arrives at a named barrier with a release. -/
  | bara (n : BitVec 6) (scope : Scope)
  /-- BARW (R180). Waits for the release of the open barrier generation with acquire. -/
  | barw (d : Reg) (n : BitVec 6)
  /-- BARAW (R186). Arrives at a barrier and waits for its release. -/
  | baraw (d : Reg) (n : BitVec 6) (scope : Scope)
  /-- BARSET (R178). Configures a barrier's participant set at every tile of the launch. -/
  | barset (a : Reg) (n : BitVec 6)
  /-- FENCE (R183). Orders C-path accesses at domain scope. -/
  | fence
  /-- BCLOSE (R187). Closes the open batch. -/
  | bclose
  /-- WAITB (R188). Closes the batch and waits until at most N batches are outstanding. -/
  | waitb (d : Reg) (n : BitVec 4)
  /-- QDRAIN (R189). Waits until every earlier command of the masked queues has completed. -/
  | qdrain (mask : BitVec 3)
  /-- QSEQ (R190). Waits until a queue's completion number reaches a target and returns it. -/
  | qseq (d a : Reg) (q : Q)
  /-- XRETW (R192). Waits for and pops the oldest XRET entry. -/
  | xretw (d : Reg)
  /-- FENCEP (R184). Orders the accesses of the FROM paths before those of the TO paths at a scope. -/
  | fencep (frm tom : BitVec 6) (scope : Scope)
  /-- SPAWN (R196). Pushes a new continuation record into the current pool. -/
  | spawn (a b : Reg)
  /-- SPAWNJ (R196). Increments a join count and pushes a continuation that joins it. -/
  | spawnj (d a b : Reg)
  /-- JOIN (R197). Decrements a join count and pushes the waiter when it reaches zero. -/
  | join (d a : Reg)
  /-- HALT (R199). Ends the current continuation. -/
  | halt
  /-- YIELD (R196). Pushes a continuation at the successor and ends the current one. -/
  | yield
  /-- LAUNCH (R200). Appends a launch packet to a device launch queue. -/
  | launch (d a b : Reg)
  /-- QPUSH (R203). Pushes a value to a pairing object and waits for the answer. -/
  | qpush (a b : Reg)
  /-- QPOP (R203). Pops a value from a pairing object, or reports EMPTY. -/
  | qpop (d : Reg) (pd : PReg) (a : Reg)
  /-- TRAP (R302). Raises the software trap. -/
  | trap (code : BitVec 12)
  /-- ERET (R303). Returns from a trap, restoring the saved state. -/
  | eret
  /-- BKPT (R302). Raises the breakpoint trap or an armed debug stop. -/
  | bkpt (code : BitVec 12)
  /-- SYNCI (R304). Waits for earlier stores and discards fetched instruction words. -/
  | synci
  /-- TLBINV (R305). Invalidates translations within a scope and waits for pinned beats. -/
  | tlbinv (a : Reg) (kind : BitVec 2) (scope : Scope)
  /-- L1WB (R306). Waits until earlier C-path stores leave the write-through buffer. -/
  | l1wb
  /-- L1INV (R306). Invalidates all of L1 or one line. -/
  | l1inv (a : Reg) (all : Bool)
  /-- PMARK (R307). Writes a code into the trace stream and counts it. -/
  | pmark (code : BitVec 12)
  /-- SRD (R308). Reads a system register. -/
  | srd (d a : Reg)
  /-- SWR (R308). Writes a system register. -/
  | swr (d a : Reg)
  /-- WFE (R309). Waits for one of the masked event latches and clears it. -/
  | wfe (d : Reg) (mask : BitVec 6)
  /-- NOP (R119). Does nothing. -/
  | nop
  /-- SCP (R113). Prefix setting the ordering scope of the next instruction. -/
  | scp (scope : Scope)
  /-- IMX (R112). Prefix supplying a 48-bit immediate to the next instruction. -/
  | imx (x : BitVec 48)
  /-- TOKP (R171). Queue command that pops and pushes tokens and marks completion of earlier commands. -/
  | tokp (e : Eng)
  /-- XCALL (R300). Runs a routine from engine-owned lines as commands of a queue. -/
  | xcall (e : Eng)
  /-- MSHAPE (R211). Sets the matrix shape word. -/
  | mshape (e : Eng)
  /-- MANCH (R212). Sets the accumulator anchor exponent. -/
  | manch (e : Eng)
  /-- MZP (R213). Loads or clears the matrix zero points. -/
  | mzp (e : Eng)
  /-- MPRIV (R214). Sets the privileged-channel bitmap. -/
  | mpriv (e : Eng)
  /-- MCODE (R215). Sets the coding word of coded-operand mode. -/
  | mcode (e : Eng)
  /-- MCSUM (R217). Sets the checksum mode. -/
  | mcsum (e : Eng)
  /-- MLDA (R218). Loads an A operand slot from scratchpad. -/
  | mlda (e : Eng)
  /-- MLDB (R218). Loads a B operand slot from scratchpad. -/
  | mldb (e : Eng)
  /-- MMA (R220). Exact dense product into a z tile. -/
  | mma (e : Eng)
  /-- MMAS (R220). Exact product with a sparse B operand. -/
  | mmas (e : Eng)
  /-- MMAQ (R220). Exact product with zero points applied. -/
  | mmaq (e : Eng)
  /-- MMAP (R220). Product with zero points and fp32 privileged columns. -/
  | mmap (e : Eng)
  /-- MCHK (R228). Checks a z tile against its checksums. -/
  | mchk (e : Eng)
  /-- MDRAIN (R229). Checks and drains a z tile scaled and rounded to scratchpad. -/
  | mdrain (e : Eng)
  /-- MDRAINX (R230). Checks and drains a z tile as exact staging slots. -/
  | mdrainx (e : Eng)
  /-- MZERO (R232). Zeroes the named z tiles and their checksums. -/
  | mzero (e : Eng)
  /-- MWM (R233). Waits until a z tile's watermark reaches a row count. -/
  | mwm (e : Eng)
  /-- MCAP (R234). Pushes the matrix capability word into XRET. -/
  | mcap (e : Eng)
  /-- MSTAT (R234). Pushes a selected matrix status word into XRET. -/
  | mstat (e : Eng)
  /-- SMV (R238). Starts a stack matrix-vector product on a ticket. -/
  | smv (e : Eng)
  /-- SMV_UNIT_DONE (R238). The stack MV unit finishes a product and sets its ticket DONE. -/
  | smvUnitDone (tile : Nat) (ticket : BitVec 2)
  /-- SMVW (R239). Waits for a ticket and writes its results to scratchpad. -/
  | smvw (e : Eng)
  /-- VADD (R249). Elementwise integer add. -/
  | vadd (e : Eng)
  /-- VSUB (R249). Elementwise integer subtract. -/
  | vsub (e : Eng)
  /-- VMUL (R249). Elementwise low product. -/
  | vmul (e : Eng)
  /-- VMULH (R249). Elementwise signed high product. -/
  | vmulh (e : Eng)
  /-- VMULHU (R249). Elementwise unsigned high product. -/
  | vmulhu (e : Eng)
  /-- VMIN (R249). Elementwise signed minimum. -/
  | vmin (e : Eng)
  /-- VMAX (R249). Elementwise signed maximum. -/
  | vmax (e : Eng)
  /-- VMINU (R249). Elementwise unsigned minimum. -/
  | vminu (e : Eng)
  /-- VMAXU (R249). Elementwise unsigned maximum. -/
  | vmaxu (e : Eng)
  /-- VABS (R249). Elementwise absolute value. -/
  | vabs (e : Eng)
  /-- VNEG (R249). Elementwise negation. -/
  | vneg (e : Eng)
  /-- VSADD (R249). Elementwise saturating add. -/
  | vsadd (e : Eng)
  /-- VSSUB (R249). Elementwise saturating subtract. -/
  | vssub (e : Eng)
  /-- VAND (R249). Elementwise AND. -/
  | vand (e : Eng)
  /-- VOR (R249). Elementwise OR. -/
  | vor (e : Eng)
  /-- VXOR (R249). Elementwise XOR. -/
  | vxor (e : Eng)
  /-- VNOT (R250). Elementwise NOT. -/
  | vnot (e : Eng)
  /-- VSHL (R250). Elementwise shift left. -/
  | vshl (e : Eng)
  /-- VSHR (R250). Elementwise logical shift right. -/
  | vshr (e : Eng)
  /-- VSAR (R250). Elementwise arithmetic shift right. -/
  | vsar (e : Eng)
  /-- VPOPC (R250). Elementwise population count. -/
  | vpopc (e : Eng)
  /-- VCLZ (R250). Elementwise leading-zero count. -/
  | vclz (e : Eng)
  /-- VBREV (R250). Elementwise bit reversal. -/
  | vbrev (e : Eng)
  /-- VCLMULL (R251). Low half of the carry-less product. -/
  | vclmull (e : Eng)
  /-- VCLMULH (R251). High half of the carry-less product. -/
  | vclmulh (e : Eng)
  /-- VBCAST (R252). Broadcasts a general register to every element. -/
  | vbcast (e : Eng)
  /-- VRET (R252). Pushes one element into XRET. -/
  | vret (e : Eng)
  /-- VFADD (R253). Floating-point add. -/
  | vfadd (e : Eng)
  /-- VFSUB (R253). Floating-point subtract. -/
  | vfsub (e : Eng)
  /-- VFMUL (R253). Floating-point multiply. -/
  | vfmul (e : Eng)
  /-- VFMA (R253). Fused multiply-add with one rounding. -/
  | vfma (e : Eng)
  /-- VFDIV (R253). Floating-point divide. -/
  | vfdiv (e : Eng)
  /-- VFSQRT (R253). Floating-point square root. -/
  | vfsqrt (e : Eng)
  /-- VFMIN (R253). Floating-point minimum. -/
  | vfmin (e : Eng)
  /-- VFMAX (R253). Floating-point maximum. -/
  | vfmax (e : Eng)
  /-- VFABS (R253). Clears the sign of each element. -/
  | vfabs (e : Eng)
  /-- VFNEG (R253). Inverts the sign of each element. -/
  | vfneg (e : Eng)
  /-- VCMPEQ (R254). Integer equality compare into a mask. -/
  | vcmpeq (e : Eng)
  /-- VCMPLT (R254). Signed less-than compare into a mask. -/
  | vcmplt (e : Eng)
  /-- VCMPLTU (R254). Unsigned less-than compare into a mask. -/
  | vcmpltu (e : Eng)
  /-- VFCMPEQ (R254). Floating-point equality compare into a mask. -/
  | vfcmpeq (e : Eng)
  /-- VFCMPLT (R254). Floating-point less-than compare into a mask. -/
  | vfcmplt (e : Eng)
  /-- VSEL (R255). Selects lanes of two vectors by a mask. -/
  | vsel (e : Eng)
  /-- VMASK (R256). Mask logic, mask set, and mask pushes into XRET. -/
  | vmask (e : Eng)
  /-- VREDADD (R257). Integer sum of active elements. -/
  | vredadd (e : Eng)
  /-- VREDMIN (R257). Minimum of active elements. -/
  | vredmin (e : Eng)
  /-- VREDMAX (R257). Maximum of active elements. -/
  | vredmax (e : Eng)
  /-- VFREDADD (R258). Floating-point sum by the canonical tree. -/
  | vfredadd (e : Eng)
  /-- VPERM (R259). Permutes elements by indices. -/
  | vperm (e : Eng)
  /-- VSLIDE (R259). Slides elements across two vectors. -/
  | vslide (e : Eng)
  /-- VLD (R260). Loads 256 bytes of local memory into a vector. -/
  | vld (e : Eng)
  /-- VST (R260). Stores a vector to local memory. -/
  | vst (e : Eng)
  /-- VGAT (R260). Gathers lanes from local addresses. -/
  | vgat (e : Eng)
  /-- VSCT (R260). Scatters lanes to local addresses, optionally adding. -/
  | vsct (e : Eng)
  /-- VQNT (R264). Quantises a 48-element block to a BSI format. -/
  | vqnt (e : Eng)
  /-- VDQ (R265). Dequantises a block to floating point. -/
  | vdq (e : Eng)
  /-- VCVT (R263). Converts 64 elements between formats. -/
  | vcvt (e : Eng)
  /-- VRANGE (R266). Updates the running HI and LO range. -/
  | vrange (e : Eng)
  /-- VMSE (R267). Adds squared errors of two vectors to MSEA. -/
  | vmse (e : Eng)
  /-- VDEFER (R269). Appends one entry per active lane to the deferral queue. -/
  | vdefer (e : Eng)
  /-- VDRAINQ (R270). Removes up to 64 entries of a path into vectors. -/
  | vdrainq (e : Eng)
  /-- CLD (R283). Copies global rows into local memory. -/
  | cld (e : Eng)
  /-- CLDE (R288). Forms a coded or data A operand from K panels. -/
  | clde (e : Eng)
  /-- CGAT (R284). Gathers global rows through an index array. -/
  | cgat (e : Eng)
  /-- CPF (R285). Prefetches global rows into L2. -/
  | cpf (e : Eng)
  /-- FGET (R283). Fabric get on a route class, optionally ordered. -/
  | fget (e : Eng)
  /-- CST (R287). Copies local rows to global memory. -/
  | cst (e : Eng)
  /-- CSTD (R290). Decodes staging slots by an exact integer combination. -/
  | cstd (e : Eng)
  /-- CSCT (R284). Scatters local rows to global rows through an index array. -/
  | csct (e : Eng)
  /-- CFILL (R287). Fills rows with a repeated pattern. -/
  | cfill (e : Eng)
  /-- FPUT (R292). Fabric put of local rows, optionally counted in a group. -/
  | fput (e : Eng)
  /-- FPUT_OF (R293). Sends an ordered flag stamped with the group's count. -/
  | fputOf (e : Eng)
  /-- CBAT (R295). Applies a batch of remote atomics. -/
  | cbat (e : Eng)
  /-- FACKW (R294). Waits until every put on the masked paths is acknowledged. -/
  | fackw (e : Eng)
  /-- CRED (R297). Canonical-tree reduction across ranks. -/
  | cred (e : Eng)
  /-- CRED_PARTNER_ARRIVAL (R298). A partner's data and header arrive, and the waiting rank reduces the level. -/
  | credPartnerArrival (tile : Nat)
  /-- COPY_COMPLETION (R280). A copy completes, decrementing its tag and firing its token. -/
  | copyCompletion (tile : Nat) (q : Q) (isn : Word)
  /-- COPY_FREEZE (R278). A begun copy's beat faults and the tile's queues and SCC freeze. -/
  | copyFreeze (tile : Nat) (q : Q) (isn : Word)
  /-- ENGINE_FAULT_TRAP (R429). The TCC takes a pending engine fault asynchronously. -/
  | engineFaultTrap (tile : Nat)
  /-- TOKEN_DEADLOCK (R35). All queue heads wait only on token FIFOs, raising the token-deadlock fault. -/
  | tokenDeadlock (tile : Nat)
  /-- QUEUE_GROWTH (R388). After 64 stalled cycles the tile grows its smallest full queue. -/
  | queueGrowth (tile : Nat)
  /-- TICK (R309). The TICK latch sets at every 1 µs boundary of bed time. -/
  | tick
  /-- TAIL_WRITE (R360). A write of a launch queue's TAIL appends packets. -/
  | tailWrite (host : Bool) (queue : BitVec 6) (tail : BitVec 32)
  /-- CRHEAD_WRITE (R360). Software consumes completion records. -/
  | crheadWrite (queue : BitVec 6) (head : BitVec 32)
  /-- LQCFG_WRITE (R359). Configures or enables a launch queue. -/
  | lqcfgWrite (host : Bool) (queue : BitVec 6) (v : Word)
  /-- LAUNCH_PACKET_READ (R368). The Headstock reads a packet and validates it. -/
  | launchPacketRead (queue : BitVec 6)
  /-- LAUNCH_CLAIM (R372). A waiting packet claims a rectangle, loads slot tables, clears tiles and seeds roots. -/
  | launchClaim (launch : Nat)
  /-- TILE_CHOOSE_RECORD (R379). An idle tile takes the oldest record of the best pool. -/
  | tileChooseRecord (tile : Nat)
  /-- POOL_AGEING (R380). A pool left unpopped for AGE µs rises one level. -/
  | poolAgeing (launch region : Nat) (pri : BitVec 3)
  /-- RTIME_BUDGET (R367). A region's runtime exceeds RTIME and its domain ends. -/
  | rtimeBudget (launch region : Nat)
  /-- HALT_TREE_FIRE (R383). Every halt line of the rectangle is high and the launch enters DRAIN. -/
  | haltTreeFire (launch : Nat)
  /-- LAUNCH_DRAIN_DONE (R384). All launch writes are performed, the completion record is written and the tiles released. -/
  | launchDrainDone (launch : Nat)
  /-- CODED_TASK_ARRIVAL (R347). A coded operator's task rectangle halts without fault. -/
  | codedTaskArrival (opr : BitVec 4) (task : BitVec 4)
  /-- CODED_TASK_ERASURE (R347). A task is erased by domain end, die loss or a read error. -/
  | codedTaskErasure (opr : BitVec 4) (task : BitVec 4)
  /-- RAMP_SLOT (R459). At each 250 ns slot boundary the governor grants tile starts. -/
  | rampSlot
  /-- GOVCFG_WRITE (R458). Sets the governor's current-step bound and ballast enable. -/
  | govcfgWrite (v : Word)
  /-- PKT_RD (R393). A read request is served at the target and answered with RDR or ERR. -/
  | pktRd (rid : Nat)
  /-- PKT_WR (R393). A write request is applied at the target and acknowledged. -/
  | pktWr (rid : Nat)
  /-- PKT_ADDW (R282). An add-mode write is applied at the target. -/
  | pktAddw (rid : Nat)
  /-- PKT_ATM (R296). CBAT entries are applied at the target tile in order. -/
  | pktAtm (rid : Nat)
  /-- PKT_PUT (R410). A grouped put packet is written and counted in its arrival entry. -/
  | pktPut (rid : Nat)
  /-- PKT_FLAG (R411). An ordered flag arrives and is held or written. -/
  | pktFlag (rid : Nat)
  /-- PKT_QPUSH_HOME (R203). A QPUSH reaches the object's home and is applied. -/
  | pktQpushHome (rid : Nat)
  /-- PKT_QPOP_HOME (R203). A QPOP reaches the object's home and is answered. -/
  | pktQpopHome (rid : Nat)
  /-- PKT_CTRL (R393). Headstock barrier, launch and management traffic is handled. -/
  | pktCtrl (rid : Nat)
  /-- PKT_RESERVED_TYPE (R393). A router discards a packet of reserved type and logs a fabric error. -/
  | pktReservedType (rid : Nat)
  /-- ROUTER_PAIRING (R416). A push and pop of the same object pair in a bed router. -/
  | routerPairing (router push pop : Nat)
  /-- DWELL_EXPIRE (R415). A held pairing packet's budget runs out and it travels on. -/
  | dwellExpire (rid : Nat)
  /-- PKT_RDR_ANSWER (R393). Read data returns to the issuing engine or TCC. -/
  | pktRdrAnswer (rid : Nat)
  /-- PKT_WACK_ANSWER (R292). A write acknowledgement arrives, counting puts in ACK. -/
  | pktWackAnswer (rid : Nat)
  /-- PKT_ATMR_ANSWER (R296). Old values of CBAT entries arrive and are written locally. -/
  | pktAtmrAnswer (rid : Nat)
  /-- PKT_QRSP_ANSWER (R203). A pairing-object answer arrives at the TCC. -/
  | pktQrspAnswer (rid : Nat)
  /-- PKT_ERR_ANSWER (R408). An error answer arrives, raising a remote or object error. -/
  | pktErrAnswer (rid : Nat)
  /-- PKT_HNAK_ANSWER (R412). A held put or flag is refused for lack of entries. -/
  | pktHnakAnswer (rid : Nat)
  /-- HNAK_RESEND (R412). A refused packet is resent every 1 µs, ending in HOLD after KTO. -/
  | hnakResend (rid : Nat)
  /-- REMOTE_TIMEOUT (R407). A remote request reaches its limit and completes with TIMEOUT. -/
  | remoteTimeout (rid : Nat)
  /-- BED_LINK_RETRY (R394). A flit failing CRC is retried; 8 failures take the link out of service. -/
  | bedLinkRetry (router : Nat) (port : BitVec 3) (ok : Bool)
  /-- KWAUP_FLIT_RECEIVE (R403). A Kwaup flit is received and checked. -/
  | kwaupFlitReceive (port : Nat) (flit : BitVec 1024)
  /-- KWAUP_LNAK (R403). A negative acknowledgement makes the sender resend from a sequence number. -/
  | kwaupLnak (port : Nat) (fseq : BitVec 16)
  /-- HBEAT_SEND (R405). A port idle for 1 µs sends a heartbeat flit. -/
  | hbeatSend (port : Nat)
  /-- PEER_DEAD (R405). A port silent for 10 µs declares its peer package dead. -/
  | peerDead (port : Nat)
  /-- DEATH_NOTICE (R406). A received death notice updates the dead map and is forwarded. -/
  | deathNotice (port : Nat) (dead reporter : BitVec 9) (atPort : BitVec 16) (time : Word)
  /-- DEADMAP_CLEAR (R406). Firmware clears a package's bit in the dead map. -/
  | deadmapClear (i : BitVec 3) (v : Word)
  /-- RS_GO (R422). Starts a re-sharding plan from the two layout records. -/
  | rsGo (eng : BitVec 1)
  /-- RS_RESUME (R426). GO with RESUME continues a plan from the cursor. -/
  | rsResume (eng : BitVec 1)
  /-- RS_HOST_PLAN (R424). GO with HOST executes a host-supplied plan. -/
  | rsHostPlan (eng : BitVec 1)
  /-- RS_PAUSE (R426). Pauses re-sharding after the chunks begun. -/
  | rsPause (eng : BitVec 1)
  /-- RS_ABORT (R426). Stops re-sharding at once. -/
  | rsAbort (eng : BitVec 1)
  /-- RS_CHUNK_DONE (R425). A chunk's writes are performed and the cursor advances. -/
  | rsChunkDone (eng : BitVec 1)
  /-- PRECTL_SOFT (R441). Soft pre-emption lets continuations halt and saves the launch. -/
  | prectlSoft (queue : BitVec 6) (seq : BitVec 32)
  /-- PRECTL_HARD (R440). Hard pre-emption stops and saves every tile of the launch. -/
  | prectlHard (queue : BitVec 6) (seq : BitVec 32)
  /-- PRECTL_RESUME (R443). Restores a saved launch and restarts its tiles. -/
  | prectlResume (queue : BitVec 6) (seq : BitVec 32)
  /-- TEST_SLICE_END (R444). A 20 µs test slice ends, returning or retiring its cluster. -/
  | testSliceEnd (cluster : Nat) (pass : Bool)
  /-- SCRUB_READ (R450). A scrub pass reads, corrects and logs protected words. -/
  | scrubRead (site : ErrSite)
  /-- OBJCMD_CREATE (R471). Creates a pairing object at its home. -/
  | objcmdCreate (home : BitVec 6) (v : Word)
  /-- OBJCMD_DELETE (R471). Deletes a pairing object and its values. -/
  | objcmdDelete (home : BitVec 6) (v : Word)
  /-- MBCTL_H2DF (R470). The host offers a message in the H2D buffer. -/
  | mbctlH2df (msg : BitVec 2048)
  /-- MBCTL_D2HF_CLEAR (R470). The host frees the D2H buffer. -/
  | mbctlD2hfClear
  /-- VAL_ANSWER (R469). The host accepts or refuses a posted packet validation. -/
  | valAnswer (tag : BitVec 32) (code : Byte) (payload : BitVec 1984)
  /-- FLT_ANSWER (R469). The host answers a posted freeze fault with RETRY or END. -/
  | fltAnswer (tag : BitVec 32) (code : Byte) (payload : BitVec 1984)
  /-- DEC_ANSWER (R356). The host answers a coded decode request. -/
  | decAnswer (tag : BitVec 32) (code : Byte) (payload : BitVec 1984)
  /-- SCHED_ANSWER (R469). The host gives a rectangle origin and symmetry, or WAIT. -/
  | schedAnswer (tag : BitVec 32) (code : Byte) (payload : BitVec 1984)
  /-- RETIRE_ANSWER (R469). The host orders a unit retired under host aggregation. -/
  | retireAnswer (tag : BitVec 32) (code : Byte) (payload : BitVec 1984)
  /-- DUTY_WRITE (R469). Selects hardware or host-assisted mode per function. -/
  | dutyWrite (v : Word)
  /-- ERRPTR_HEAD_WRITE (R463). Software consumes error records. -/
  | errptrHeadWrite (head : BitVec 32)
  /-- SYSREG_WRITE (R308, R472, R473). An access of the host to a system register: len bytes at a BAR0 offset, or an SRD or SWR of the
  management port at a system-register address. -/
  | sysregWrite (sa : SysAccess) (v : Word)
  /-- BAR2_ACCESS (R335). A host access to device memory through BAR2. -/
  | bar2Access (write : Bool) (off : Nat) (len : BitVec 7) (data : BitVec 512)
  /-- PACKAGE_RESET (R464). Power good starts the bed clock and the measured boot. -/
  | packageReset
  /-- FWCTL_GO (R467). Starts a live firmware update. -/
  | fwctlGo (v : Word)
  /-- QUIESCE_END (R508). Every launch queue's current packet is finished and VERIFY begins. -/
  | quiesceEnd
  /-- VERIFY_DONE (R467). The staged image is verified, written and handed over, or refused. -/
  | verifyDone
  /-- FWHB_HEARTBEAT (R509). The new image's heartbeat completes the update. -/
  | fwhbHeartbeat (v : Word)
  /-- HEARTBEAT_DEADLINE (R509). No heartbeat by the deadline rolls back to the old image. -/
  | heartbeatDeadline
  /-- SPDM_GET_VERSION (R468). Answers an SPDM GET_VERSION request. -/
  | spdmGetVersion
  /-- SPDM_GET_CAPABILITIES (R468). Answers an SPDM GET_CAPABILITIES request. -/
  | spdmGetCapabilities
  /-- SPDM_NEGOTIATE_ALGORITHMS (R468). Answers an SPDM NEGOTIATE_ALGORITHMS request. -/
  | spdmNegotiateAlgorithms
  /-- SPDM_GET_DIGESTS (R468). Answers an SPDM GET_DIGESTS request. -/
  | spdmGetDigests
  /-- SPDM_GET_CERTIFICATE (R468). Answers an SPDM GET_CERTIFICATE request. -/
  | spdmGetCertificate (off len : BitVec 16)
  /-- SPDM_CHALLENGE (R468). Answers an SPDM CHALLENGE request. -/
  | spdmChallenge (nonce : BitVec 256)
  /-- SPDM_GET_MEASUREMENTS (R468). Answers a signed GET_MEASUREMENTS with MR0 to MR2. -/
  | spdmGetMeasurements (index : Byte) (nonce : BitVec 256)
  /-- SPDM_UNSUPPORTED (R468). Answers session requests with ERROR UnsupportedRequest. -/
  | spdmUnsupported (code : Byte)
  /-- MCTP_CONTROL (R473). Handles an MCTP control message on the management port. -/
  | mctpControl (command : Byte) (data : BitVec 256)
  /-- DBG_STOP (R477). Stops the target tiles at a consistent cut. -/
  | dbgStop (r : DbgReq)
  /-- DBG_TIMED_STOP (R476). A tile stops at the first cycle whose BEDT reaches the requested value. -/
  | dbgTimedStop (tile : Nat)
  /-- DBG_RUN (R479). Resumes stopped tiles. -/
  | dbgRun (r : DbgReq)
  /-- DBG_STEP (R479). Resumes stopped tiles for n retired instructions. -/
  | dbgStep (r : DbgReq)
  /-- DBG_ARM (R476). Replaces the breakpoint and watch arms of target tiles. -/
  | dbgArm (r : DbgReq)
  /-- DBG_DUMP (R480). Writes a save record of a stopped tile. -/
  | dbgDump (r : DbgReq)
  /-- DBG_TRACE (R481). Enables or disables the trace ring. -/
  | dbgTrace (r : DbgReq)
  /-- DBG_CNT (R483). Enables, clears or stops the counter sweeper. -/
  | dbgCnt (r : DbgReq)
  /-- ADDRESS_BREAKPOINT_STOP (R476). A tile stops before executing an armed code address. -/
  | addressBreakpointStop (tile : Nat)
  /-- ENTRY_WATCH_STOP (R476). A tile stops before a watched command begins. -/
  | entryWatchStop (tile : Nat) (q : Q)
  /-- ALL_STOP_PROPAGATE (R476). Another tile's stop under ALL stops this tile. -/
  | allStopPropagate (tile : Nat)
  /-- COUNTER_SWEEP (R483). Every PERIOD µs the sweeper accumulates counters into totals. -/
  | counterSweep (unit : Nat)
  /-- ENGINE_COMMAND_COMPLETION (R26). A matrix, vector, token or routine command completes in its queue, advancing the completion number, firing its push-after and making its effects. -/
  | engineCommandCompletion (tile : Nat) (q : Q) (isn : Word)
  /-- CORE_CYCLE (R39). A core clock cycle of a die, possibly stretched, increments SCC and the per-cycle class counters of each tile. -/
  | coreCycle (die : Nat)
  /-- BED_CYCLE (R456). A cycle of the 2 GHz bed clock increments BEDT. -/
  | bedCycle
  /-- STORAGE_BIT_ERROR (R448). A soft error flips one or more bits of a protected word or register in storage. -/
  | storageBitError (site : ErrSite) (correctable : Bool)
  /-- DOE_DISCOVERY (R468). Answers a PCIe DOE discovery request. -/
  | doeDiscovery (index : Byte)  deriving DecidableEq, Repr

end Sys2Proof
end

