-- ==== Sys2Proof/Machine/Bits.lean ====
section
/-! DEFINITION. Bit fields, sign extension, byte order (R7, R11) and keyed lists. -/

namespace Sys2Proof.Machine

/-- `v[hi:lo]` of a non-negative integer (R11). -/
def bitsN (v hi lo : Nat) : Nat := v / 2 ^ lo % 2 ^ (hi + 1 - lo)

/-- `x[hi:lo]` of a bit pattern, as an integer (R11). -/
def fld (v : BitVec n) (hi lo : Nat) : Nat := bitsN v.toNat hi lo

/-- Bit i of a pattern. -/
def bit (v : BitVec n) (i : Nat) : Bool := v.getLsbD i

/-- `v` with bit i set to b. -/
def setBit (v : BitVec n) (i : Nat) (b : Bool) : BitVec n :=
  if b then v ||| BitVec.ofNat n (2 ^ i) else v &&& ~~~ (BitVec.ofNat n (2 ^ i))

/-- 1 for true, 0 for false. -/
def b2n (b : Bool) : Nat := if b then 1 else 0

/-- S(x) of a w-bit pattern given as an integer (R129's S). -/
def sextN (w v : Nat) : Int :=
  if v % 2 ^ w < 2 ^ (w - 1) then (v % 2 ^ w : Nat) else (v % 2 ^ w : Nat) - (2 ^ w : Nat)

/-- w64(v): the 64-bit pattern of v mod 2^64 (chapter 4's Common rules). -/
def w64 (v : Int) : Word := BitVec.ofInt 64 v

/-- The w-bit pattern of an integer, as an integer. -/
def wrapN (w : Nat) (v : Int) : Nat := (v % (2 ^ w : Nat)).toNat

/-- The n bytes of v, least significant first (R7). -/
def leBytes : (n : Nat) → (v : Nat) → List Byte
  | 0, _ => []
  | n + 1, v => BitVec.ofNat 8 v :: leBytes n (v / 256)

/-- The integer whose little-endian bytes are given (R7). -/
def ofBytes : List Byte → Nat
  | [] => 0
  | b :: bs => b.toNat + 256 * ofBytes bs

/-- Bytes i to i + n - 1 of a byte string, zero beyond its end. -/
def slice (bs : List Byte) (i n : Nat) : List Byte :=
  let t := (bs.drop i).take n
  t ++ List.replicate (n - t.length) 0

/-- The little-endian field of n bytes at byte i. -/
def leAt (bs : List Byte) (i n : Nat) : Nat := ofBytes (slice bs i n)

/-- ceil(a / b). -/
def cdiv (a b : Nat) : Nat := (a + b - 1) / b

/-- The number of binary digits of v, counted with fuel. -/
def bitLen : (fuel : Nat) → (v : Nat) → Nat
  | 0, _ => 0
  | f + 1, v => if v = 0 then 0 else 1 + bitLen f (v / 2)

/-- floor(log2 v) for 0 < v < 2^fuel; 0 for v = 0. -/
def log2 (fuel v : Nat) : Nat := bitLen fuel v - 1

/-- The number of one bits among bits 0 to n - 1. -/
def popc : (n : Nat) → (v : Nat) → Nat
  | 0, _ => 0
  | n + 1, v => v % 2 + popc n (v / 2)

/-- The number of trailing zero bits of v, at most n. -/
def ctzN : (n : Nat) → (v : Nat) → Nat
  | 0, _ => 0
  | n + 1, v => if v % 2 = 1 then 0 else 1 + ctzN n (v / 2)

/-- The number of leading zero bits of v as an n-bit pattern. -/
def clzN (n v : Nat) : Nat := n - bitLen n v

/-- Bits 0 to n - 1 of v in reverse order. -/
def brevN : (n : Nat) → (v : Nat) → Nat
  | 0, _ => 0
  | n + 1, v => v % 2 * 2 ^ n + brevN n (v / 2)

/-! Keyed lists: plain data for what is sparse. -/

/-- A finite map with natural keys, kept as a list; the first entry of a key counts. -/
abbrev AMap (α : Type) := List (Nat × α)

/-- The value of a key. -/
def AMap.find? {α : Type} (m : AMap α) (k : Nat) : Option α :=
  match m with
  | [] => none
  | (k', v) :: r => if k' = k then some v else AMap.find? r k

/-- The value of a key, or d. -/
def AMap.getD {α : Type} (m : AMap α) (k : Nat) (d : α) : α := (AMap.find? m k).getD d

/-- Sets the value of a key, in place when it is present. -/
def AMap.put {α : Type} (m : AMap α) (k : Nat) (v : α) : AMap α :=
  match m with
  | [] => [(k, v)]
  | (k', v') :: r => if k' = k then (k, v) :: r else (k', v') :: AMap.put r k v

/-- Removes a key. -/
def AMap.del {α : Type} (m : AMap α) (k : Nat) : AMap α := List.filter (fun e => decide (e.1 ≠ k)) m

/-- Replaces the elements of a list that satisfy p. -/
def updWhere {α : Type} (p : α → Bool) (f : α → α) (l : List α) : List α := l.map (fun a => if p a then f a else a)

/-- Inserts into a list sorted by `le`, before the first element it stands before. -/
def insertBy {α : Type} (le : α → α → Bool) (a : α) : List α → List α
  | [] => [a]
  | b :: r => if le a b then a :: b :: r else b :: insertBy le a r

/-- Sorts a list by `le`, equal elements in their order. -/
def sortBy {α : Type} (le : α → α → Bool) (l : List α) : List α := l.foldr (insertBy le) []

/-- Sets element i of a list; nothing changes beyond its end. -/
def setAt {α : Type} (l : List α) (i : Nat) (a : α) : List α := l.set i a

end Sys2Proof.Machine
end

