-- ==== Sys2Proof/Machine/Fields.lean ====
section
/-! DEFINITION. The fields of the engine instructions, and the rules of spec/03_instruction_formats.md that an encoding must
satisfy beyond its layout (R34, R103, R105, R107 to R111, R118), and the field rules of each engine instruction's
chapter (spec/05 R170, spec/06, spec/07, spec/08). -/

namespace Sys2Proof

open Sys2Proof.Machine (fld)

/-- The rows of the opcode table that are operations or events of the hardware: they have no encoding. -/
def Instr.isEvent (i : Instr) : Bool :=
  match i with
  | .smvUnitDone _ _ => true
  | .credPartnerArrival _ => true
  | .copyCompletion _ _ _ => true
  | .copyFreeze _ _ _ => true
  | .engineFaultTrap _ => true
  | .tokenDeadlock _ => true
  | .queueGrowth _ => true
  | .tick => true
  | .tailWrite _ _ _ => true
  | .crheadWrite _ _ => true
  | .lqcfgWrite _ _ _ => true
  | .launchPacketRead _ => true
  | .launchClaim _ => true
  | .tileChooseRecord _ => true
  | .poolAgeing _ _ _ => true
  | .rtimeBudget _ _ => true
  | .haltTreeFire _ => true
  | .launchDrainDone _ => true
  | .codedTaskArrival _ _ => true
  | .codedTaskErasure _ _ => true
  | .rampSlot => true
  | .govcfgWrite _ => true
  | .pktRd _ => true
  | .pktWr _ => true
  | .pktAddw _ => true
  | .pktAtm _ => true
  | .pktPut _ => true
  | .pktFlag _ => true
  | .pktQpushHome _ => true
  | .pktQpopHome _ => true
  | .pktCtrl _ => true
  | .pktReservedType _ => true
  | .routerPairing _ _ _ => true
  | .dwellExpire _ => true
  | .pktRdrAnswer _ => true
  | .pktWackAnswer _ => true
  | .pktAtmrAnswer _ => true
  | .pktQrspAnswer _ => true
  | .pktErrAnswer _ => true
  | .pktHnakAnswer _ => true
  | .hnakResend _ => true
  | .remoteTimeout _ => true
  | .bedLinkRetry _ _ _ => true
  | .kwaupFlitReceive _ _ => true
  | .kwaupLnak _ _ => true
  | .hbeatSend _ => true
  | .peerDead _ => true
  | .deathNotice _ _ _ _ _ => true
  | .deadmapClear _ _ => true
  | .rsGo _ => true
  | .rsResume _ => true
  | .rsHostPlan _ => true
  | .rsPause _ => true
  | .rsAbort _ => true
  | .rsChunkDone _ => true
  | .prectlSoft _ _ => true
  | .prectlHard _ _ => true
  | .prectlResume _ _ => true
  | .testSliceEnd _ _ => true
  | .scrubRead _ => true
  | .objcmdCreate _ _ => true
  | .objcmdDelete _ _ => true
  | .mbctlH2df _ => true
  | .mbctlD2hfClear => true
  | .valAnswer _ _ _ => true
  | .fltAnswer _ _ _ => true
  | .decAnswer _ _ _ => true
  | .schedAnswer _ _ _ => true
  | .retireAnswer _ _ _ => true
  | .dutyWrite _ => true
  | .errptrHeadWrite _ => true
  | .sysregWrite _ _ => true
  | .bar2Access _ _ _ _ => true
  | .packageReset => true
  | .fwctlGo _ => true
  | .quiesceEnd => true
  | .verifyDone => true
  | .fwhbHeartbeat _ => true
  | .heartbeatDeadline => true
  | .spdmGetVersion => true
  | .spdmGetCapabilities => true
  | .spdmNegotiateAlgorithms => true
  | .spdmGetDigests => true
  | .spdmGetCertificate _ _ => true
  | .spdmChallenge _ => true
  | .spdmGetMeasurements _ _ => true
  | .spdmUnsupported _ => true
  | .mctpControl _ _ => true
  | .dbgStop _ => true
  | .dbgTimedStop _ => true
  | .dbgRun _ => true
  | .dbgStep _ => true
  | .dbgArm _ => true
  | .dbgDump _ => true
  | .dbgTrace _ => true
  | .dbgCnt _ => true
  | .addressBreakpointStop _ => true
  | .entryWatchStop _ _ => true
  | .allStopPropagate _ => true
  | .counterSweep _ => true
  | .engineCommandCompletion _ _ _ => true
  | .coreCycle _ => true
  | .bedCycle => true
  | .storageBitError _ _ => true
  | .doeDiscovery _ => true
  | _ => false

/-- The fields of an engine instruction (majors 0x20 to 0x32). -/
def Instr.eng? (i : Instr) : Option Eng :=
  match i with
  | .tokp e => some e
  | .xcall e => some e
  | .mshape e => some e
  | .manch e => some e
  | .mzp e => some e
  | .mpriv e => some e
  | .mcode e => some e
  | .mcsum e => some e
  | .mlda e => some e
  | .mldb e => some e
  | .mma e => some e
  | .mmas e => some e
  | .mmaq e => some e
  | .mmap e => some e
  | .mchk e => some e
  | .mdrain e => some e
  | .mdrainx e => some e
  | .mzero e => some e
  | .mwm e => some e
  | .mcap e => some e
  | .mstat e => some e
  | .smv e => some e
  | .smvw e => some e
  | .vadd e => some e
  | .vsub e => some e
  | .vmul e => some e
  | .vmulh e => some e
  | .vmulhu e => some e
  | .vmin e => some e
  | .vmax e => some e
  | .vminu e => some e
  | .vmaxu e => some e
  | .vabs e => some e
  | .vneg e => some e
  | .vsadd e => some e
  | .vssub e => some e
  | .vand e => some e
  | .vor e => some e
  | .vxor e => some e
  | .vnot e => some e
  | .vshl e => some e
  | .vshr e => some e
  | .vsar e => some e
  | .vpopc e => some e
  | .vclz e => some e
  | .vbrev e => some e
  | .vclmull e => some e
  | .vclmulh e => some e
  | .vbcast e => some e
  | .vret e => some e
  | .vfadd e => some e
  | .vfsub e => some e
  | .vfmul e => some e
  | .vfma e => some e
  | .vfdiv e => some e
  | .vfsqrt e => some e
  | .vfmin e => some e
  | .vfmax e => some e
  | .vfabs e => some e
  | .vfneg e => some e
  | .vcmpeq e => some e
  | .vcmplt e => some e
  | .vcmpltu e => some e
  | .vfcmpeq e => some e
  | .vfcmplt e => some e
  | .vsel e => some e
  | .vmask e => some e
  | .vredadd e => some e
  | .vredmin e => some e
  | .vredmax e => some e
  | .vfredadd e => some e
  | .vperm e => some e
  | .vslide e => some e
  | .vld e => some e
  | .vst e => some e
  | .vgat e => some e
  | .vsct e => some e
  | .vqnt e => some e
  | .vdq e => some e
  | .vcvt e => some e
  | .vrange e => some e
  | .vmse e => some e
  | .vdefer e => some e
  | .vdrainq e => some e
  | .cld e => some e
  | .clde e => some e
  | .cgat e => some e
  | .cpf e => some e
  | .fget e => some e
  | .cst e => some e
  | .cstd e => some e
  | .csct e => some e
  | .cfill e => some e
  | .fput e => some e
  | .fputOf e => some e
  | .cbat e => some e
  | .fackw e => some e
  | .cred e => some e
  | _ => none

/-- QSEL of TOKP and XCALL (R107). -/
def Eng.qsel (e : Eng) : Q := if fld e.f7 1 0 = 0 then .l else if fld e.f7 1 0 = 1 then .x else .s

/-- The queue that serves an engine instruction (Table 3.5). -/
def Instr.queue? (i : Instr) : Option Q :=
  match i with
  | .tokp e => some e.qsel
  | .xcall e => some e.qsel
  | .mshape _ => some .x
  | .manch _ => some .x
  | .mzp _ => some .x
  | .mpriv _ => some .x
  | .mcode _ => some .x
  | .mcsum _ => some .x
  | .mlda _ => some .x
  | .mldb _ => some .x
  | .mma _ => some .x
  | .mmas _ => some .x
  | .mmaq _ => some .x
  | .mmap _ => some .x
  | .mchk _ => some .x
  | .mdrain _ => some .x
  | .mdrainx _ => some .x
  | .mzero _ => some .x
  | .mwm _ => some .x
  | .mcap _ => some .x
  | .mstat _ => some .x
  | .smv _ => some .x
  | .smvw _ => some .x
  | .vadd _ => some .x
  | .vsub _ => some .x
  | .vmul _ => some .x
  | .vmulh _ => some .x
  | .vmulhu _ => some .x
  | .vmin _ => some .x
  | .vmax _ => some .x
  | .vminu _ => some .x
  | .vmaxu _ => some .x
  | .vabs _ => some .x
  | .vneg _ => some .x
  | .vsadd _ => some .x
  | .vssub _ => some .x
  | .vand _ => some .x
  | .vor _ => some .x
  | .vxor _ => some .x
  | .vnot _ => some .x
  | .vshl _ => some .x
  | .vshr _ => some .x
  | .vsar _ => some .x
  | .vpopc _ => some .x
  | .vclz _ => some .x
  | .vbrev _ => some .x
  | .vclmull _ => some .x
  | .vclmulh _ => some .x
  | .vbcast _ => some .x
  | .vret _ => some .x
  | .vfadd _ => some .x
  | .vfsub _ => some .x
  | .vfmul _ => some .x
  | .vfma _ => some .x
  | .vfdiv _ => some .x
  | .vfsqrt _ => some .x
  | .vfmin _ => some .x
  | .vfmax _ => some .x
  | .vfabs _ => some .x
  | .vfneg _ => some .x
  | .vcmpeq _ => some .x
  | .vcmplt _ => some .x
  | .vcmpltu _ => some .x
  | .vfcmpeq _ => some .x
  | .vfcmplt _ => some .x
  | .vsel _ => some .x
  | .vmask _ => some .x
  | .vredadd _ => some .x
  | .vredmin _ => some .x
  | .vredmax _ => some .x
  | .vfredadd _ => some .x
  | .vperm _ => some .x
  | .vslide _ => some .x
  | .vld _ => some .x
  | .vst _ => some .x
  | .vgat _ => some .x
  | .vsct _ => some .x
  | .vqnt _ => some .x
  | .vdq _ => some .x
  | .vcvt _ => some .x
  | .vrange _ => some .x
  | .vmse _ => some .x
  | .vdefer _ => some .x
  | .vdrainq _ => some .x
  | .cld _ => some .l
  | .clde _ => some .l
  | .cgat _ => some .l
  | .cpf _ => some .l
  | .fget _ => some .l
  | .cst _ => some .s
  | .cstd _ => some .s
  | .csct _ => some .s
  | .cfill _ => some .s
  | .fput _ => some .s
  | .fputOf _ => some .s
  | .cbat _ => some .s
  | .fackw _ => some .s
  | .cred _ => some .s
  | _ => none

/-- A copy: an instruction of majors 0x31 and 0x32, each of which names a tag (R108). -/
def Instr.isCopy (i : Instr) : Bool :=
  match i with
  | .cld _ => true
  | .clde _ => true
  | .cgat _ => true
  | .cpf _ => true
  | .fget _ => true
  | .cst _ => true
  | .cstd _ => true
  | .csct _ => true
  | .cfill _ => true
  | .fput _ => true
  | .fputOf _ => true
  | .cbat _ => true
  | .fackw _ => true
  | .cred _ => true
  | _ => false

/-- BAT = 1 is allowed (R108). -/
def Instr.mayBatch (i : Instr) : Bool :=
  match i with
  | .cld _ => true
  | .clde _ => true
  | .cgat _ => true
  | .fget _ => true
  | .cst _ => true
  | .cstd _ => true
  | .csct _ => true
  | .cfill _ => true
  | .fput _ => true
  | .fputOf _ => true
  | .cbat _ => true
  | _ => false

/-- FOL = 1 is allowed in the control stream (R109). -/
def Instr.mayFollow (i : Instr) : Bool :=
  match i with
  | .cld _ => true
  | .clde _ => true
  | .cgat _ => true
  | _ => false

/-- LQ has no left neighbour and SQ no right one (R34): token bits PBL, PBR, PAL, PAR. -/
def tokLegal (q : Q) (tok : BitVec 4) : Bool :=
  match q with
  | .l => !tok.getLsbD 0 && !tok.getLsbD 2
  | .x => true
  | .s => !tok.getLsbD 1 && !tok.getLsbD 3

/-- The special register numbers whose MTS has a constructor of its own. -/
def srnOwn (n : Nat) : Bool :=
  (0x010 ≤ n && n ≤ 0x015) || (0x020 ≤ n && n ≤ 0x026) || (0x028 ≤ n && n ≤ 0x02D) || n = 0x030 || n = 0x035 ||
  n = 0x039 || n = 0x03B || (0x050 ≤ n && n ≤ 0x05F) || n = 0x073 || n = 0x081

/-- The rules of the control instructions: slot 0 (R103, R105), R118, R302's WFE mask, TLBINV's KIND 3 (R305), L1INV ALL
(Table 8.8), and one constructor for each MTS. -/
def Instr.controlRule (i : Instr) : Bool :=
  match i with
  | .bp ps _ slot => ps ≠ 0 && slot ≠ 0
  | .br _ slot => slot ≠ 0
  | .bnp ps _ slot => ps ≠ 0 && slot ≠ 0
  | .call _ slot => slot ≠ 0
  | .loop _ _ le => fld le 3 0 ≠ 0
  | .loopi _ _ le => fld le 3 0 ≠ 0
  | .lds _ _ sz _ => sz ≠ 3
  | .mts _ srn => !srnOwn srn.toNat
  | .tokw _ n _ _ => n.toNat ≤ 16
  | .qdrain mask => mask ≠ 0
  | .tlbinv _ kind _ => kind ≠ 3
  | .l1inv a all => !all || a = 0
  | .wfe _ mask => mask ≠ 0
  | _ => true

/-- Majors 0x29 to 0x30, whose register fields name vector registers or lane masks (R106). -/
def Instr.isVector (i : Instr) : Bool :=
  match i with
  | .vadd _ => true
  | .vsub _ => true
  | .vmul _ => true
  | .vmulh _ => true
  | .vmulhu _ => true
  | .vmin _ => true
  | .vmax _ => true
  | .vminu _ => true
  | .vmaxu _ => true
  | .vabs _ => true
  | .vneg _ => true
  | .vsadd _ => true
  | .vssub _ => true
  | .vand _ => true
  | .vor _ => true
  | .vxor _ => true
  | .vnot _ => true
  | .vshl _ => true
  | .vshr _ => true
  | .vsar _ => true
  | .vpopc _ => true
  | .vclz _ => true
  | .vbrev _ => true
  | .vclmull _ => true
  | .vclmulh _ => true
  | .vbcast _ => true
  | .vret _ => true
  | .vfadd _ => true
  | .vfsub _ => true
  | .vfmul _ => true
  | .vfma _ => true
  | .vfdiv _ => true
  | .vfsqrt _ => true
  | .vfmin _ => true
  | .vfmax _ => true
  | .vfabs _ => true
  | .vfneg _ => true
  | .vcmpeq _ => true
  | .vcmplt _ => true
  | .vcmpltu _ => true
  | .vfcmpeq _ => true
  | .vfcmplt _ => true
  | .vsel _ => true
  | .vmask _ => true
  | .vredadd _ => true
  | .vredmin _ => true
  | .vredmax _ => true
  | .vfredadd _ => true
  | .vperm _ => true
  | .vslide _ => true
  | .vld _ => true
  | .vst _ => true
  | .vgat _ => true
  | .vsct _ => true
  | .vqnt _ => true
  | .vdq _ => true
  | .vcvt _ => true
  | .vrange _ => true
  | .vmse _ => true
  | .vdefer _ => true
  | .vdrainq _ => true
  | _ => false

/-! ### Fields of the vector instructions (Table 7.3) -/

/-- MK, F7[2:0]. -/
def Eng.mk_ (e : Eng) : BitVec 3 := e.f7.truncate 3
/-- MZ, F7[3]. -/
def Eng.mz (e : Eng) : Bool := e.f7.getLsbD 3
/-- ET, F7[6:4]. -/
def Eng.et (e : Eng) : Nat := fld e.f7 6 4
/-- SC, second word [12]. -/
def Eng.sc (e : Eng) : Bool := e.ext.getLsbD 0
/-- RM, second word [14:13]. -/
def Eng.rm (e : Eng) : Nat := fld e.ext 2 1
/-- XR, second word [15]. -/
def Eng.xr (e : Eng) : Bool := e.ext.getLsbD 3
/-- Bits [hi:lo] of the second word, for hi ≥ lo ≥ 12. -/
def Eng.w1 (e : Eng) (hi lo : Nat) : Nat := fld e.ext (hi - 12) (lo - 12)

/-- GB of a vector instruction names a general register (Table 7.3): the memory forms, VBCAST and VMASK OP 5. -/
def Instr.gbGeneral (i : Instr) : Bool :=
  match i with
  | .vld _ => true
  | .vst _ => true
  | .vgat _ => true
  | .vsct _ => true
  | .vbcast _ => true
  | .vmask e => decide (e.w1 18 16 = 5)
  | _ => false

/-- GC of a vector instruction names a general register: SC = 1 (Table 7.3). -/
def Instr.gcGeneral (i : Instr) : Bool := i.isVector && (match i.eng? with
  | some e => e.sc
  | none => false)

/-- ET within lo … hi. -/
def Eng.etIn (e : Eng) (lo hi : Nat) : Bool := decide (lo ≤ e.et) && decide (e.et ≤ hi)

/-- GC and SC are zero: the instruction has no operand b. -/
def Eng.noB (e : Eng) : Bool := e.gc = 0 && !e.sc

/-- RM and XR are zero. -/
def Eng.noRmXr (e : Eng) : Bool := e.rm = 0 && !e.xr

/-- The number of elements of an ET (Table 7.2). -/
def elemCount (et : Nat) : Nat := match et with
  | 0 => 64
  | 1 => 128
  | 2 => 256
  | 3 => 64
  | _ => 128

/-- VINT with two operands (R249), and the two-operand VBIT forms (R250). -/
def Eng.vintRule (e : Eng) : Bool := e.etIn 0 2 && e.noRmXr && e.w1 31 16 = 0

/-- The one-operand VINT and VBIT forms. -/
def Eng.vint1Rule (e : Eng) : Bool := e.vintRule && e.noB

/-- The arithmetic VFLT forms (R253). -/
def Eng.vfltRule (e : Eng) : Bool := e.etIn 3 4 && e.rm ≠ 3 && !e.xr && e.w1 31 16 = 0

/-- The VFLT forms that do not round (R253). -/
def Eng.vfltExactRule (e : Eng) : Bool := e.vfltRule && e.rm = 0

/-- The compares (R254). -/
def Eng.vcmpRule (e : Eng) (et : Nat) : Bool := e.et = et && fld e.ga 4 3 = 0 && e.noRmXr && e.w1 31 16 = 0

/-- The integer reductions (R257); UNS for MIN and MAX only. -/
def Eng.vredRule (e : Eng) (uns : Bool) : Bool :=
  e.etIn 0 2 && e.noB && !e.mz && e.rm = 0 && e.w1 31 17 = 0 && (uns || e.w1 16 16 = 0)

/-- Element width of a VCVT format code (R263). -/
def cvtWidth (c : Nat) : Nat := match c with
  | 0 => 32
  | 1 => 16
  | 2 => 8
  | 3 => 32
  | 4 => 16
  | _ => 8

/-- The field rules of the vector instructions (R246, R249 to R270). -/
def Instr.vectorRule (i : Instr) : Bool :=
  match i with
  | .vadd e => e.vintRule
  | .vsub e => e.vintRule
  | .vmul e => e.vintRule
  | .vmulh e => e.vintRule
  | .vmulhu e => e.vintRule
  | .vmin e => e.vintRule
  | .vmax e => e.vintRule
  | .vminu e => e.vintRule
  | .vmaxu e => e.vintRule
  | .vabs e => e.vint1Rule
  | .vneg e => e.vint1Rule
  | .vsadd e => e.vintRule
  | .vssub e => e.vintRule
  | .vand e => e.vintRule
  | .vor e => e.vintRule
  | .vxor e => e.vintRule
  | .vnot e => e.vint1Rule
  | .vshl e => e.vintRule
  | .vshr e => e.vintRule
  | .vsar e => e.vintRule
  | .vpopc e => e.vint1Rule
  | .vclz e => e.vint1Rule
  | .vbrev e => e.vint1Rule
  | .vclmull e => e.vintRule
  | .vclmulh e => e.vintRule
  | .vbcast e => e.vint1Rule
  | .vret e =>
    e.etIn 0 4 && e.ga = 0 && e.noB && e.mk_ = 0 && !e.mz && e.noRmXr && decide (e.w1 23 16 < elemCount e.et) &&
    e.w1 31 24 = 0
  | .vfadd e => e.vfltRule
  | .vfsub e => e.vfltRule
  | .vfmul e => e.vfltRule
  | .vfma e => e.vfltRule
  | .vfdiv e => e.vfltRule
  | .vfsqrt e => e.vfltRule && e.noB
  | .vfmin e => e.vfltExactRule
  | .vfmax e => e.vfltExactRule
  | .vfabs e => e.vfltExactRule && e.noB
  | .vfneg e => e.vfltExactRule && e.noB
  | .vcmpeq e => e.vcmpRule 0
  | .vcmplt e => e.vcmpRule 0
  | .vcmpltu e => e.vcmpRule 0
  | .vfcmpeq e => e.vcmpRule 3
  | .vfcmplt e => e.vcmpRule 3
  | .vsel e => e.et = 0 && !e.mz && e.noRmXr && e.w1 31 16 = 0
  | .vmask e =>
    e.f7 = 0 && !e.sc && e.noRmXr && e.w1 31 19 = 0 && fld e.ga 4 3 = 0 && fld e.gc 4 3 = 0 &&
    (e.w1 18 16 = 5 || fld e.gb 4 3 = 0) && (decide (e.w1 18 16 < 4) || e.gc = 0) && (decide (e.w1 18 16 < 6) || e.ga = 0)
  | .vredadd e => e.vredRule false
  | .vredmin e => e.vredRule true
  | .vredmax e => e.vredRule true
  | .vfredadd e => e.etIn 3 4 && e.noB && !e.mz && e.rm ≠ 3 && e.w1 31 16 = 0
  | .vperm e => e.etIn 0 4 && e.noRmXr && e.w1 31 16 = 0
  | .vslide e => e.etIn 0 4 && !e.sc && e.noRmXr && e.w1 31 25 = 0
  | .vld e => e.et = 0 && e.noB && e.noRmXr
  | .vst e => e.et = 0 && e.noB && !e.mz && e.noRmXr
  | .vgat e => e.et = 0 && !e.mz && !e.sc && e.noRmXr && e.w1 31 18 = 0
  | .vsct e => e.et = 0 && !e.mz && !e.sc && e.noRmXr && e.w1 31 19 = 0
  | .vqnt e =>
    e.etIn 3 4 && e.noB && e.mk_ = 0 && !e.mz && !e.xr && e.rm ≠ 3 && decide (e.w1 18 16 ≤ 4) && e.w1 20 19 ≠ 3 &&
    e.w1 31 21 = 0
  | .vdq e =>
    e.etIn 3 4 && e.noB && e.mk_ = 0 && !e.mz && !e.xr && e.rm ≠ 3 && decide (e.w1 18 16 ≤ 4) && e.w1 31 19 = 0
  | .vcvt e =>
    let sf := e.w1 18 16
    let tf := e.w1 21 19
    e.et = 0 && e.noB && !e.xr && e.rm ≠ 3 && decide (sf ≤ 5) && decide (tf ≤ 5) && sf ≠ tf &&
    (if sf = 5 || tf = 5 then e.w1 24 22 ≠ 0 else e.w1 26 22 = 0) &&
    decide (e.w1 28 27 < 32 / cvtWidth sf) && decide (e.w1 30 29 < 32 / cvtWidth tf) && e.w1 31 31 = 0
  | .vrange e => e.etIn 3 4 && e.ga = 0 && e.noB && !e.mz && e.rm = 0 && e.w1 31 17 = 0
  | .vmse e => e.etIn 3 4 && e.ga = 0 && !e.mz && !e.sc && e.rm = 0 && e.w1 31 16 = 0
  | .vdefer e =>
    e.ga = 0 && e.noB && e.et = 0 && !e.mz && e.rm = 0 && e.w1 19 16 ≠ 0 && decide (e.gb.toNat + e.w1 19 16 ≤ 32) &&
    e.w1 31 28 = 0
  | .vdrainq e =>
    fld e.gc 4 3 = 0 && e.gb = 0 && e.f7 = 0 && !e.sc && e.rm = 0 && e.w1 19 16 ≠ 0 &&
    decide (e.ga.toNat + e.w1 19 16 ≤ 31) && e.w1 31 28 = 0
  | _ => true

/-- The field rules of TOKP, XCALL and the copies (R170, R300, Table 8.1, R293 to R297). -/
def Instr.copyRule (i : Instr) : Bool :=
  match i with
  | .tokp e => e.ga = 0 && e.gb = 0 && e.gc = 0 && fld e.f7 6 2 = 0 && e.ext = 0 && fld e.f7 1 0 ≠ 3
  | .xcall e => fld e.f7 6 2 = 0 && fld e.f7 1 0 ≠ 3
  | .cld e => fld e.f7 6 1 = 0 && e.ext = 0
  | .clde e => e.f7 = 0 && e.ext = 0
  | .cgat e => e.f7 = 0 && e.ext = 0
  | .cpf e => e.ga = 0 && e.f7 = 0 && e.ext = 0
  | .fget e => fld e.f7 0 0 = 0 && fld e.f7 6 4 = 0 && e.ext = 0
  | .cst e => fld e.f7 6 1 = 0 && e.ext = 0
  | .cstd e => e.gc = 0 && e.f7 = 0 && e.ext = 0
  | .csct e => fld e.f7 6 1 = 0 && e.ext = 0
  | .cfill e => fld e.f7 2 0 = 0 && fld e.f7 6 4 = 0 && e.ext = 0
  | .fput e => e.ext = 0
  | .fputOf e => e.gc = 0 && fld e.f7 0 0 = 0 && fld e.f7 6 3 ≠ 0 && e.ext = 0
  | .cbat e =>
    fld e.f7 6 5 = 0 && decide (fld e.f7 3 0 ≤ 9) && fld e.ext 19 8 = 0 &&
    (fld e.f7 4 4 = 0 || (fld e.f7 3 0 ≠ 6 && e.gc = 0))
  | .fackw e => e.gb = 0 && e.gc = 0 && fld e.f7 6 4 = 0 && fld e.f7 3 0 ≠ 0 && e.ext = 0
  | .cred e =>
    decide (fld e.f7 2 0 ≤ 4) && fld e.f7 6 3 = 0 && decide (fld e.ext 1 0 ≤ 1) && fld e.ext 19 2 = 0 &&
    (decide (fld e.f7 2 0 ≤ 1) || fld e.ext 1 0 = 0)
  | _ => true

/-- GB and GC are zero. -/
def Eng.onlyGa (e : Eng) : Bool := e.gb = 0 && e.gc = 0

/-- The register fields and EXT are zero. -/
def Eng.noRegs (e : Eng) : Bool := e.ga = 0 && e.onlyGa && e.ext = 0

/-- The field rules of the matrix instructions (R211 to R219, R228 to R237). -/
def Instr.matrixRule (i : Instr) : Bool :=
  match i with
  | .mshape e => e.onlyGa && e.f7 = 0 && e.ext = 0
  | .manch e => e.onlyGa && e.f7 = 0 && e.w1 31 28 = 0
  | .mzp e => e.gc = 0 && fld e.f7 6 3 = 0 && e.ext = 0
  | .mpriv e => e.gc = 0 && e.f7 = 0 && e.ext = 0
  | .mcode e => e.onlyGa && e.f7 = 0 && e.ext = 0
  | .mcsum e => e.noRegs && fld e.f7 6 2 = 0 && fld e.f7 1 0 ≠ 3
  | .mlda e => e.gc = 0 && fld e.f7 6 1 = 0 && e.w1 31 20 = 0
  | .mldb e => fld e.f7 6 1 = 0 && e.w1 31 20 = 0
  | .mma e => e.noRegs
  | .mmas e => e.noRegs
  | .mmaq e => e.noRegs
  | .mmap e => e.noRegs
  | .mchk e => e.noRegs && fld e.f7 2 1 = 0
  | .mdrain e =>
    e.gb = 0 && e.w1 13 12 ≠ 3 && e.w1 15 14 ≠ 3 && e.w1 31 21 = 0 &&
    (if e.w1 15 14 = 2 then e.w1 18 16 ≠ 0 else e.w1 20 16 = 0)
  | .mdrainx e => e.onlyGa && fld e.f7 1 1 = 0 && e.ext = 0
  | .mzero e => e.ga = 0 && e.onlyGa && e.f7 = 0 && e.w1 27 12 ≠ 0 && e.w1 31 28 = 0
  | .mwm e =>
    e.ga = 0 && e.onlyGa && fld e.f7 2 0 = 0 && e.w1 19 12 ≠ 0 && decide (e.w1 19 12 ≤ 128) && e.w1 31 20 = 0
  | .mcap e => e.noRegs && e.f7 = 0
  | .mstat e => e.noRegs && decide (fld e.f7 2 0 ≤ 3) && (fld e.f7 2 0 = 2 || fld e.f7 6 3 = 0)
  | .smv e => e.onlyGa && fld e.f7 6 2 = 0 && e.ext = 0
  | .smvw e => e.noRegs && fld e.f7 6 2 = 0
  | _ => true

/-- The field rules of one engine instruction: its unused bits and numeric fields. -/
def Instr.fieldRule (i : Instr) : Bool := i.vectorRule && i.copyRule && i.matrixRule


/-- A register field of an engine-owned line: 0 to 3 (R111). -/
def routineField (r : Reg) : Bool := r.toNat ≤ 3

/-- The token, tag, batch and follow-on rules of the control stream (R34, R108, R109). -/
def Instr.streamRule (i : Instr) : Bool :=
  match i.eng?, i.queue? with
  | some e, some q =>
    tokLegal q e.tok && (i.isCopy || e.tag = 0) && (i.mayBatch || !e.bat) && (i.mayFollow || !e.fol)
  | _, _ => true

/-- The rules of an engine-owned line of queue q (R111): NOP, or an engine instruction of q other than TOKP and XCALL
with token bits, TAG and BAT zero, and 0 to 3 in the fields that name general registers. -/
def Instr.routineRule (i : Instr) (q : Q) : Bool :=
  match i with
  | .nop => true
  | .tokp _ => false
  | .xcall _ => false
  | _ => match i.eng?, i.queue? with
    | some e, some q' =>
      decide (q' = q) && e.tok = 0 && e.tag = 0 && !e.bat &&
      (if i.isVector then (!i.gbGeneral || routineField e.gb) && (!i.gcGeneral || routineField e.gc)
       else routineField e.ga && routineField e.gb && routineField e.gc)
    | _, _ => false

end Sys2Proof
end

