-- ==== Sys2Proof/WellFormed.lean ====
section
/-! DEFINITION. Which instructions are well formed: the rules of spec/03_instruction_formats.md that an encoding must
satisfy beyond its layout, and the field rules of each engine instruction (both in Machine/Fields.lean). -/

namespace Sys2Proof

/-- Well formed in the control stream (R34, R103, R105, R108, R109, R118, and the field rules of spec/05 to spec/08). -/
def Instr.wf (i : Instr) : Bool := !i.isEvent && i.controlRule && i.fieldRule && i.streamRule

/-- Well formed in an engine-owned line of queue q (R111). -/
def Instr.wfRoutine (i : Instr) (q : Q) : Bool := !i.isEvent && i.fieldRule && i.routineRule q

end Sys2Proof
end

