-- ==== Sys2Proof/Decode.lean ====
section
/-! DEFINITION. Decoding of instruction words (spec/03_instruction_formats.md R101 to R121: Tables 3.2 to 3.6) and,
after it, the encoder. A word whose encoding is reserved is rejected by name; rejecting never falls through to a
neighbouring instruction. -/

namespace Sys2Proof

open Sys2Proof.Machine (bitsN leAt)

/-- Why a pair of words is no instruction. Every one of them is the illegal-instruction trap (R117, R121). -/
inductive DecodeError where
  /-- Fewer bytes than the instruction has. -/
  | tooShort
  /-- A major opcode that Table 3.6 reserves (order 3 of Table 3.7). -/
  | reservedMajor
  /-- A minor, KIND, OP, AOP, FN or QSEL that Table 3.5 does not assign (order 5). -/
  | reservedMinor
  /-- A field that a layout marks zero is not zero (R102, R105). -/
  | nonZeroField
  /-- A rule of `Instr.wf`: slot 0, R118, the field rules of the instruction's chapter (orders 5, 7 and 8). -/
  | reservedForm
  deriving DecidableEq, Repr

/-- True for the majors of 64-bit forms (R101). -/
def longMajor (maj : Nat) : Bool :=
  maj = 0x09 || maj = 0x12 || maj = 0x13 || (0x20 ≤ maj && maj ≤ 0x32) || maj = 0x3F

/-- The number of words of the instruction whose first word is w0 (R101). -/
def wordsOf (w0 : Nat) : Nat := if longMajor (bitsN w0 31 26) then 2 else 1

/-! ### Fields (Table 3.2) -/

/-- D, [25:21]. -/
def fD (w : Nat) : Reg := BitVec.ofNat 5 (bitsN w 25 21)
/-- A, [20:16]. -/
def fA (w : Nat) : Reg := BitVec.ofNat 5 (bitsN w 20 16)
/-- B, [15:11]. -/
def fB (w : Nat) : Reg := BitVec.ofNat 5 (bitsN w 15 11)
/-- PD and PS, [25:23]. -/
def fP (w : Nat) : PReg := BitVec.ofNat 3 (bitsN w 25 23)
/-- Scope codes of R104. -/
def scopeOf (n : Nat) : Scope := if n = 0 then .tile else if n = 1 then .die else if n = 2 then .package else .domain
/-- FIFO codes of R173. -/
def fifoOf (n : Nat) : Fifo := if n = 0 then .lx else if n = 1 then .xl else if n = 2 then .xs else .sx
/-- Queue codes of R107 and R190. -/
def queueOf (n : Nat) : Q := if n = 0 then .l else if n = 1 then .x else .s

/-- `i` when the field named is zero. -/
def need (z : Nat) (i : Instr) : Except DecodeError Instr := if z = 0 then .ok i else .error .nonZeroField

/-! ### The majors of the control core -/

/-- Major 0x01 (Table 3.5). -/
def parseAlu (w : Nat) : Except DecodeError Instr :=
  let d := fD w
  let a := fA w
  let b := fB w
  let fn := bitsN w 10 0
  match fn with
  | 0x000 => .ok (.add d a b)
  | 0x001 => .ok (.sub d a b)
  | 0x002 => .ok (.mul d a b)
  | 0x003 => .ok (.mulh d a b)
  | 0x004 => .ok (.mulhu d a b)
  | 0x005 => .ok (.div d a b)
  | 0x006 => .ok (.divu d a b)
  | 0x007 => .ok (.rem d a b)
  | 0x008 => .ok (.remu d a b)
  | 0x009 => .ok (.and d a b)
  | 0x00a => .ok (.or d a b)
  | 0x00b => .ok (.xor d a b)
  | 0x00c => .ok (.shl d a b)
  | 0x00d => .ok (.shr d a b)
  | 0x00e => .ok (.sar d a b)
  | 0x00f => .ok (.min d a b)
  | 0x010 => .ok (.max d a b)
  | 0x011 => .ok (.minu d a b)
  | 0x012 => .ok (.maxu d a b)
  | _ => if 0x020 ≤ fn ∧ fn ≤ 0x027 then .ok (.lea d a b (BitVec.ofNat 3 (fn % 8))) else .error .reservedMinor

/-- Major 0x02 (Table 3.5). -/
def parseAlu1 (w : Nat) : Except DecodeError Instr :=
  let d := fD w
  let a := fA w
  let z := bitsN w 15 11
  match bitsN w 10 0 with
  | 0 => need z (.clz d a)
  | 1 => need z (.ctz d a)
  | 2 => need z (.popc d a)
  | 3 => need z (.bswap d a)
  | 4 => need z (.sextB d a)
  | 5 => need z (.sextH d a)
  | 6 => need z (.sextW d a)
  | 7 => need z (.zextB d a)
  | 8 => need z (.zextH d a)
  | 9 => need z (.zextW d a)
  | _ => .error .reservedMinor

/-- Major 0x07 (R135). -/
def parseShi (w : Nat) : Except DecodeError Instr :=
  let d := fD w
  let a := fA w
  let sh := BitVec.ofNat 6 (bitsN w 5 0)
  let z := bitsN w 15 8
  match bitsN w 7 6 with
  | 0 => need z (.shli d a sh)
  | 1 => need z (.shri d a sh)
  | 2 => need z (.sari d a sh)
  | _ => .error .reservedMinor

/-- Majors 0x0A and 0x0B (R137). -/
def parseCmp (w : Nat) : Except DecodeError Instr :=
  let p := fP w
  let a := BitVec.ofNat 5 (bitsN w 19 15)
  let b := BitVec.ofNat 5 (bitsN w 14 10)
  let z := bitsN w 9 0
  match bitsN w 22 20 with
  | 0 => need z (.cmpeq p a b)
  | 1 => need z (.cmpne p a b)
  | 2 => need z (.cmplt p a b)
  | 3 => need z (.cmpltu p a b)
  | 4 => need z (.cmpge p a b)
  | 5 => need z (.cmpgeu p a b)
  | _ => .error .reservedMinor

/-- Major 0x0B (R137). -/
def parseCmpi (w : Nat) : Except DecodeError Instr :=
  let p := fP w
  let a := BitVec.ofNat 5 (bitsN w 19 15)
  let i := BitVec.ofNat 15 (bitsN w 14 0)
  match bitsN w 22 20 with
  | 0 => .ok (.cmpeqi p a i)
  | 1 => .ok (.cmpnei p a i)
  | 2 => .ok (.cmplti p a i)
  | 3 => .ok (.cmpltui p a i)
  | 4 => .ok (.cmpgei p a i)
  | 5 => .ok (.cmpgeui p a i)
  | _ => .error .reservedMinor

/-- Major 0x0C (R138). -/
def parsePred (w : Nat) : Except DecodeError Instr :=
  let pd := fP w
  let pa := BitVec.ofNat 3 (bitsN w 19 17)
  let pb := BitVec.ofNat 3 (bitsN w 16 14)
  let z := bitsN w 13 0
  match bitsN w 22 20 with
  | 0 => need z (.pand pd pa pb)
  | 1 => need z (.por pd pa pb)
  | 2 => need z (.pxor pd pa pb)
  | 3 => need (z + bitsN w 16 14) (.pnot pd pa)
  | _ => .error .reservedMinor

/-- Majors 0x0E to 0x10 (R103, R140). BP with PS = 0 is BR. -/
def parseBranch (maj w : Nat) : Except DecodeError Instr :=
  let p := fP w
  let ld := BitVec.ofNat 19 (bitsN w 22 4)
  let slot := BitVec.ofNat 4 (bitsN w 3 0)
  match maj with
  | 0x0E => if p = 0 then .ok (.br ld slot) else .ok (.bp p ld slot)
  | 0x0F => .ok (.bnp p ld slot)
  | _ => if p = 0 then .ok (.call ld slot) else .error .reservedForm

/-- Major 0x11 (R141). -/
def parseJmp (w : Nat) : Except DecodeError Instr :=
  let a := fA w
  let z := bitsN w 25 21 + bitsN w 15 2
  match bitsN w 1 0 with
  | 0 => need z (.ji a)
  | 1 => need z (.calli a)
  | 2 => need (z + bitsN w 20 16) .ret
  | _ => .error .reservedMinor

/-- MTS by its special register number: the numbers whose write has a rule of its own (R23, R26, R27, R33, R43, R48,
R30, R148, R153, R433, R454). -/
def mtsOf (g : Reg) (srn : Nat) : Instr :=
  match srn with
  | 0x035 => .mtsTcfg g
  | 0x020 => .mtsQueueNumber g true .l
  | 0x021 => .mtsQueueNumber g true .x
  | 0x022 => .mtsQueueNumber g true .s
  | 0x023 => .mtsQueueNumber g false .l
  | 0x024 => .mtsQueueNumber g false .x
  | 0x025 => .mtsQueueNumber g false .s
  | 0x028 => .mtsQueueLink g false .l
  | 0x029 => .mtsQueueLink g true .l
  | 0x02A => .mtsQueueLink g false .x
  | 0x02B => .mtsQueueLink g true .x
  | 0x02C => .mtsQueueLink g false .s
  | 0x02D => .mtsQueueLink g true .s
  | 0x030 => .mtsTokc g
  | 0x03B => .mtsDqn g
  | 0x026 => .mtsSeqw g
  | 0x039 => .mtsSeed g
  | 0x010 => .mtsLoopRegister g 0 .lc
  | 0x011 => .mtsLoopRegister g 0 .ls
  | 0x012 => .mtsLoopRegister g 0 .le
  | 0x013 => .mtsLoopRegister g 1 .lc
  | 0x014 => .mtsLoopRegister g 1 .ls
  | 0x015 => .mtsLoopRegister g 1 .le
  | 0x073 => .mtsEbase g
  | 0x081 => .injArm g
  | _ => if 0x050 ≤ srn ∧ srn ≤ 0x05F then .mtsZwm g (BitVec.ofNat 4 (srn - 0x050)) else .mts g (BitVec.ofNat 10 srn)

/-- Major 0x14 (R152). -/
def parseSpr (w : Nat) : Except DecodeError Instr :=
  let g := fD w
  let srn := bitsN w 20 11
  let z := bitsN w 10 1
  if bitsN w 0 0 = 0 then need z (.mfs g (BitVec.ofNat 10 srn)) else need z (mtsOf g srn)

/-- Majors 0x15 to 0x1A (R155). -/
def parseMem (maj w : Nat) : Except DecodeError Instr :=
  let d := fD w
  let a := fA w
  let sz := BitVec.ofNat 2 (bitsN w 15 14)
  let off := BitVec.ofNat 14 (bitsN w 13 0)
  match maj with
  | 0x15 => .ok (.ld d a sz off)
  | 0x16 => if sz = 3 then .error .reservedMinor else .ok (.lds d a sz off)
  | 0x17 => .ok (.st d a sz off)
  | 0x18 => .ok (.lda d a sz off)
  | 0x19 => .ok (.stl d a sz off)
  | _ => need (bitsN w 25 21) (.pfl a sz off)

/-- Major 0x1B (R162). -/
def parseAtom (w : Nat) : Except DecodeError Instr :=
  let d := fD w
  let a := fA w
  let b := fB w
  let z := bitsN w 10 4
  match bitsN w 3 0 with
  | 0 => need z (.aadd d a b)
  | 1 => need z (.amin d a b)
  | 2 => need z (.amax d a b)
  | 3 => need z (.aminu d a b)
  | 4 => need z (.amaxu d a b)
  | 5 => need z (.axchg d a b)
  | 6 => need z (.acas d a b)
  | 7 => need z (.aand d a b)
  | 8 => need z (.aor d a b)
  | 9 => need z (.axor d a b)
  | _ => .error .reservedMinor

/-- Major 0x1C (R173, R174, R178 to R193). -/
def parseSync (w : Nat) : Except DecodeError Instr :=
  let d := fD w
  let a := fA w
  let arg := bitsN w 15 6
  let zd := bitsN w 25 21
  let za := bitsN w 20 16
  match bitsN w 5 0 with
  | 0x00 => need (za + arg / 256) (.tokw d (BitVec.ofNat 5 arg) (fifoOf (bitsN arg 6 5)) (bitsN arg 7 7 == 1))
  | 0x01 => need arg (.tagwa d a)
  | 0x02 => need arg (.tagwl d a)
  | 0x03 => need (arg / 2) (.tagff d a (arg % 2 == 1))
  | 0x04 => need (zd + arg) (.tagclr a)
  | 0x05 => need (zd + za + arg / 256) (.bara (BitVec.ofNat 6 arg) (scopeOf (bitsN arg 7 6)))
  | 0x06 => need (za + arg / 64) (.barw d (BitVec.ofNat 6 arg))
  | 0x07 => need (za + arg / 256) (.baraw d (BitVec.ofNat 6 arg) (scopeOf (bitsN arg 7 6)))
  | 0x08 => need (zd + arg / 64) (.barset a (BitVec.ofNat 6 arg))
  | 0x09 => need (zd + za + arg) .fence
  | 0x0A => need (zd + za + arg) .bclose
  | 0x0B => need (za + arg / 16) (.waitb d (BitVec.ofNat 4 arg))
  | 0x0C => need (zd + za + arg / 8) (.qdrain (BitVec.ofNat 3 arg))
  | 0x0D => if arg % 4 = 3 then .error .reservedForm else need (arg / 4) (.qseq d a (queueOf (arg % 4)))
  | 0x0E => need (za + arg) (.xretw d)
  | _ => .error .reservedMinor

/-- Major 0x1D (R183). -/
def parseFencep (w : Nat) : Except DecodeError Instr :=
  need (bitsN w 11 0)
    (.fencep (BitVec.ofNat 6 (bitsN w 25 20)) (BitVec.ofNat 6 (bitsN w 19 14)) (scopeOf (bitsN w 13 12)))

/-- Major 0x1E (R196). -/
def parseWork (w : Nat) : Except DecodeError Instr :=
  let d := fD w
  let a := fA w
  let b := fB w
  let z := bitsN w 10 4
  let zd := bitsN w 25 21
  let za := bitsN w 20 16
  let zb := bitsN w 15 11
  match bitsN w 3 0 with
  | 0 => need (z + zd) (.spawn a b)
  | 1 => need z (.spawnj d a b)
  | 2 => need (z + zb) (.join d a)
  | 3 => need (z + zd + za + zb) .halt
  | 4 => need (z + zd + za + zb) .yield
  | 5 => need z (.launch d a b)
  | _ => .error .reservedMinor

/-- Major 0x1F (R202). -/
def parseQobj (w : Nat) : Except DecodeError Instr :=
  let z := bitsN w 7 1
  if bitsN w 0 0 = 0 then need (z + bitsN w 25 21 + bitsN w 10 8) (.qpush (fA w) (fB w))
  else need (z + bitsN w 15 11) (.qpop (fD w) (BitVec.ofNat 3 (bitsN w 10 8)) (fA w))

/-- Major 0x33 (R301, Table 8.8). -/
def parseSys (w : Nat) : Except DecodeError Instr :=
  let d := fD w
  let a := fA w
  let arg := bitsN w 15 4
  let zd := bitsN w 25 21
  let za := bitsN w 20 16
  match bitsN w 3 0 with
  | 0 => need (zd + za) (.trap (BitVec.ofNat 12 arg))
  | 1 => need (zd + za + arg) .eret
  | 2 => need (zd + za) (.bkpt (BitVec.ofNat 12 arg))
  | 3 => need (zd + za + arg) .synci
  | 4 => need (zd + arg / 16) (.tlbinv a (BitVec.ofNat 2 arg) (scopeOf (bitsN arg 3 2)))
  | 5 => need (zd + za + arg) .l1wb
  | 6 => need (zd + arg / 2) (.l1inv a (arg % 2 == 1))
  | 7 => need (zd + za) (.pmark (BitVec.ofNat 12 arg))
  | 8 => need arg (.srd d a)
  | 9 => need arg (.swr d a)
  | 10 => need (za + arg / 64) (.wfe d (BitVec.ofNat 6 arg))
  | _ => .error .reservedMinor

/-! ### The engine format (Table 3.4) -/

/-- The fields of an engine instruction. -/
def engOf (w0 w1 : Nat) : Eng :=
  { ga := fD w0, gb := fA w0, gc := fB w0, f7 := BitVec.ofNat 7 (bitsN w0 6 0), tok := BitVec.ofNat 4 (bitsN w1 3 0),
    tag := BitVec.ofNat 6 (bitsN w1 9 4), bat := bitsN w1 10 10 == 1, fol := bitsN w1 11 11 == 1,
    ext := BitVec.ofNat 20 (bitsN w1 31 12) }

/-- Major 0x20: TOKP and XCALL with QSEL in F7[1:0], 3 reserved (R107). -/
def parseQctl (min : Nat) (e : Eng) : Except DecodeError Instr :=
  if e.f7.toNat % 4 = 3 then .error .reservedMinor
  else match min with
  | 0 => .ok (.tokp e)
  | 1 => .ok (.xcall e)
  | _ => .error .reservedMinor

/-- Major 0x21 (Table 3.5). -/
def parseMajor21 (min : Nat) (e : Eng) : Except DecodeError Instr :=
  match min with
  | 0 => .ok (.mshape e)
  | 1 => .ok (.manch e)
  | 2 => .ok (.mzp e)
  | 3 => .ok (.mpriv e)
  | 4 => .ok (.mcode e)
  | 5 => .ok (.mcsum e)
  | _ => .error .reservedMinor

/-- Major 0x22 (Table 3.5). -/
def parseMajor22 (min : Nat) (e : Eng) : Except DecodeError Instr :=
  match min with
  | 0 => .ok (.mlda e)
  | 1 => .ok (.mldb e)
  | _ => .error .reservedMinor

/-- Major 0x23 (Table 3.5). -/
def parseMajor23 (min : Nat) (e : Eng) : Except DecodeError Instr :=
  match min with
  | 0 => .ok (.mma e)
  | 1 => .ok (.mmas e)
  | 2 => .ok (.mmaq e)
  | 3 => .ok (.mmap e)
  | _ => .error .reservedMinor

/-- Major 0x24 (Table 3.5). -/
def parseMajor24 (min : Nat) (e : Eng) : Except DecodeError Instr :=
  match min with
  | 0 => .ok (.mchk e)
  | 1 => .ok (.mdrain e)
  | 2 => .ok (.mdrainx e)
  | 3 => .ok (.mzero e)
  | 4 => .ok (.mwm e)
  | _ => .error .reservedMinor

/-- Major 0x25 (Table 3.5). -/
def parseMajor25 (min : Nat) (e : Eng) : Except DecodeError Instr :=
  match min with
  | 0 => .ok (.mcap e)
  | 1 => .ok (.mstat e)
  | _ => .error .reservedMinor

/-- Major 0x26 (Table 3.5). -/
def parseMajor26 (min : Nat) (e : Eng) : Except DecodeError Instr :=
  match min with
  | 0 => .ok (.smv e)
  | 1 => .ok (.smvw e)
  | _ => .error .reservedMinor

/-- Major 0x29 (Table 3.5). -/
def parseMajor29 (min : Nat) (e : Eng) : Except DecodeError Instr :=
  match min with
  | 0 => .ok (.vadd e)
  | 1 => .ok (.vsub e)
  | 2 => .ok (.vmul e)
  | 3 => .ok (.vmulh e)
  | 4 => .ok (.vmulhu e)
  | 5 => .ok (.vmin e)
  | 6 => .ok (.vmax e)
  | 7 => .ok (.vminu e)
  | 8 => .ok (.vmaxu e)
  | 9 => .ok (.vabs e)
  | 10 => .ok (.vneg e)
  | 11 => .ok (.vsadd e)
  | 12 => .ok (.vssub e)
  | 13 => .ok (.vand e)
  | 14 => .ok (.vor e)
  | 15 => .ok (.vxor e)
  | _ => .error .reservedMinor

/-- Major 0x2a (Table 3.5). -/
def parseMajor2A (min : Nat) (e : Eng) : Except DecodeError Instr :=
  match min with
  | 0 => .ok (.vnot e)
  | 1 => .ok (.vshl e)
  | 2 => .ok (.vshr e)
  | 3 => .ok (.vsar e)
  | 4 => .ok (.vpopc e)
  | 5 => .ok (.vclz e)
  | 6 => .ok (.vbrev e)
  | 7 => .ok (.vclmull e)
  | 8 => .ok (.vclmulh e)
  | 9 => .ok (.vbcast e)
  | 10 => .ok (.vret e)
  | _ => .error .reservedMinor

/-- Major 0x2b (Table 3.5). -/
def parseMajor2B (min : Nat) (e : Eng) : Except DecodeError Instr :=
  match min with
  | 0 => .ok (.vfadd e)
  | 1 => .ok (.vfsub e)
  | 2 => .ok (.vfmul e)
  | 3 => .ok (.vfma e)
  | 4 => .ok (.vfdiv e)
  | 5 => .ok (.vfsqrt e)
  | 6 => .ok (.vfmin e)
  | 7 => .ok (.vfmax e)
  | 8 => .ok (.vfabs e)
  | 9 => .ok (.vfneg e)
  | _ => .error .reservedMinor

/-- Major 0x2c (Table 3.5). -/
def parseMajor2C (min : Nat) (e : Eng) : Except DecodeError Instr :=
  match min with
  | 0 => .ok (.vcmpeq e)
  | 1 => .ok (.vcmplt e)
  | 2 => .ok (.vcmpltu e)
  | 3 => .ok (.vfcmpeq e)
  | 4 => .ok (.vfcmplt e)
  | 5 => .ok (.vsel e)
  | 6 => .ok (.vmask e)
  | _ => .error .reservedMinor

/-- Major 0x2d (Table 3.5). -/
def parseMajor2D (min : Nat) (e : Eng) : Except DecodeError Instr :=
  match min with
  | 0 => .ok (.vredadd e)
  | 1 => .ok (.vredmin e)
  | 2 => .ok (.vredmax e)
  | 3 => .ok (.vfredadd e)
  | 4 => .ok (.vperm e)
  | 5 => .ok (.vslide e)
  | _ => .error .reservedMinor

/-- Major 0x2e (Table 3.5). -/
def parseMajor2E (min : Nat) (e : Eng) : Except DecodeError Instr :=
  match min with
  | 0 => .ok (.vld e)
  | 1 => .ok (.vst e)
  | 2 => .ok (.vgat e)
  | 3 => .ok (.vsct e)
  | _ => .error .reservedMinor

/-- Major 0x2f (Table 3.5). -/
def parseMajor2F (min : Nat) (e : Eng) : Except DecodeError Instr :=
  match min with
  | 0 => .ok (.vqnt e)
  | 1 => .ok (.vdq e)
  | 2 => .ok (.vcvt e)
  | 3 => .ok (.vrange e)
  | 4 => .ok (.vmse e)
  | _ => .error .reservedMinor

/-- Major 0x30 (Table 3.5). -/
def parseMajor30 (min : Nat) (e : Eng) : Except DecodeError Instr :=
  match min with
  | 0 => .ok (.vdefer e)
  | 1 => .ok (.vdrainq e)
  | _ => .error .reservedMinor

/-- Major 0x31 (Table 3.5). -/
def parseMajor31 (min : Nat) (e : Eng) : Except DecodeError Instr :=
  match min with
  | 0 => .ok (.cld e)
  | 1 => .ok (.clde e)
  | 2 => .ok (.cgat e)
  | 3 => .ok (.cpf e)
  | 4 => .ok (.fget e)
  | _ => .error .reservedMinor

/-- Major 0x32 (Table 3.5). -/
def parseMajor32 (min : Nat) (e : Eng) : Except DecodeError Instr :=
  match min with
  | 0 => .ok (.cst e)
  | 1 => .ok (.cstd e)
  | 2 => .ok (.csct e)
  | 3 => .ok (.cfill e)
  | 4 => .ok (.fput e)
  | 5 => .ok (.fputOf e)
  | 6 => .ok (.cbat e)
  | 7 => .ok (.fackw e)
  | 8 => .ok (.cred e)
  | _ => .error .reservedMinor

/-- Majors 0x20 to 0x32 (Table 3.6). -/
def parseEngine (maj w0 w1 : Nat) : Except DecodeError Instr :=
  let min := bitsN w0 10 7
  let e := engOf w0 w1
  match maj with
  | 0x20 => parseQctl min e
  | 0x21 => parseMajor21 min e
  | 0x22 => parseMajor22 min e
  | 0x23 => parseMajor23 min e
  | 0x24 => parseMajor24 min e
  | 0x25 => parseMajor25 min e
  | 0x26 => parseMajor26 min e
  | 0x29 => parseMajor29 min e
  | 0x2a => parseMajor2A min e
  | 0x2b => parseMajor2B min e
  | 0x2c => parseMajor2C min e
  | 0x2d => parseMajor2D min e
  | 0x2e => parseMajor2E min e
  | 0x2f => parseMajor2F min e
  | 0x30 => parseMajor30 min e
  | 0x31 => parseMajor31 min e
  | 0x32 => parseMajor32 min e
  | _ => .error .reservedMajor

/-- The 64-bit control forms and prefixes (R105, R112). -/
def parseLong (maj w0 w1 : Nat) : Except DecodeError Instr :=
  let le := BitVec.ofNat 28 (bitsN w1 27 0)
  match maj with
  | 0x09 => need (bitsN w0 20 1) (.movw (fD w0) (bitsN w0 0 0 == 1) (BitVec.ofNat 32 w1))
  | 0x12 => need (bitsN w0 19 0 + bitsN w1 31 28)
      (.loop (BitVec.ofNat 1 (bitsN w0 25 25)) (BitVec.ofNat 5 (bitsN w0 24 20)) le)
  | 0x13 => need (bitsN w0 24 20 + bitsN w1 31 28)
      (.loopi (BitVec.ofNat 1 (bitsN w0 25 25)) (BitVec.ofNat 20 (bitsN w0 19 0)) le)
  | 0x3F => need (bitsN w0 25 16) (.imx (BitVec.ofNat 48 (w1 * 65536 + bitsN w0 15 0)))
  | _ => parseEngine maj w0 w1

/-- The major map (Table 3.6): w0 is the first word, w1 the word after it (looked at by 64-bit forms only). -/
def parse (w0 w1 : Nat) : Except DecodeError Instr :=
  let maj := bitsN w0 31 26
  let d := fD w0
  let a := fA w0
  let imm := BitVec.ofNat 16 (bitsN w0 15 0)
  match maj with
  | 0x01 => parseAlu w0
  | 0x02 => parseAlu1 w0
  | 0x03 => .ok (.addi d a imm)
  | 0x04 => .ok (.andi d a imm)
  | 0x05 => .ok (.ori d a imm)
  | 0x06 => .ok (.xori d a imm)
  | 0x07 => parseShi w0
  | 0x08 => need (bitsN w0 20 16) (.movi d imm)
  | 0x0A => parseCmp w0
  | 0x0B => parseCmpi w0
  | 0x0C => parsePred w0
  | 0x0D => need (bitsN w0 7 0) (.sel d a (fB w0) (BitVec.ofNat 3 (bitsN w0 10 8)))
  | 0x0E => parseBranch maj w0
  | 0x0F => parseBranch maj w0
  | 0x10 => parseBranch maj w0
  | 0x11 => parseJmp w0
  | 0x14 => parseSpr w0
  | 0x15 => parseMem maj w0
  | 0x16 => parseMem maj w0
  | 0x17 => parseMem maj w0
  | 0x18 => parseMem maj w0
  | 0x19 => parseMem maj w0
  | 0x1A => parseMem maj w0
  | 0x1B => parseAtom w0
  | 0x1C => parseSync w0
  | 0x1D => parseFencep w0
  | 0x1E => parseWork w0
  | 0x1F => parseQobj w0
  | 0x33 => parseSys w0
  | 0x34 => need (bitsN w0 25 0) .nop
  | 0x3E => need (bitsN w0 25 2) (.scp (scopeOf (bitsN w0 1 0)))
  | _ => parseLong maj w0 w1

/-- Decoding in the control stream, orders 3 to 8 of Table 3.7. -/
def decode (w0 w1 : Nat) : Except DecodeError Instr :=
  match parse w0 w1 with
  | .error e => .error e
  | .ok i => if i.wf then .ok i else .error .reservedForm

/-- Decoding in an engine-owned line (R111): the engine instructions of queue q other than TOKP and XCALL, and NOP. -/
def decodeRoutine (q : Q) (w0 w1 : Nat) : Except DecodeError Instr :=
  match parse w0 w1 with
  | .error e => .error e
  | .ok i => if i.wfRoutine q then .ok i else .error .reservedForm

/-- Decoding of any bytes: the instruction at their start and the bytes after it. -/
def decodeBytes (bs : List Byte) : Except DecodeError (Instr × List Byte) :=
  if bs.length < 4 then .error .tooShort
  else
    let w0 := leAt bs 0 4
    if bs.length < 4 * wordsOf w0 then .error .tooShort
    else match decode w0 (leAt bs 4 4) with
    | .error e => .error e
    | .ok i => .ok (i, bs.drop (4 * wordsOf w0))

/-- What the decoder reads from the bits w of an instruction of nbits bits, numbered from the first word's bit 0. -/
def decodeTableWord (nbits w : Nat) : Option Instr :=
  let v := w % 2 ^ nbits
  match decodeBytes (Machine.leBytes 8 v) with
  | .ok (i, _) => some i
  | .error _ => none

/-! ### The encoder -/

/-- Codes of R104. -/
def Scope.code : Scope → Nat
  | .tile => 0
  | .die => 1
  | .package => 2
  | .domain => 3

/-- Codes of R173. -/
def Fifo.code : Fifo → Nat
  | .lx => 0
  | .xl => 1
  | .xs => 2
  | .sx => 3

/-- Codes of R107. -/
def Q.code : Q → Nat
  | .l => 0
  | .x => 1
  | .s => 2

/-- 1 for true. -/
def bcode (b : Bool) : Nat := if b then 1 else 0

/-- Layout D, A, B, [10:0] of a major. -/
def encDab (maj : Nat) (d a b : Reg) (low : Nat) : Nat × Nat :=
  (maj * 0x4000000 + d.toNat * 0x200000 + a.toNat * 0x10000 + b.toNat * 0x800 + low, 0)

/-- Layout D, A, [15:0] of a major. -/
def encDa (maj : Nat) (d a : Reg) (low : Nat) : Nat × Nat :=
  (maj * 0x4000000 + d.toNat * 0x200000 + a.toNat * 0x10000 + low, 0)

/-- Layout of CMP, CMPI and PRED: PD, KIND or OP, [19:0]. -/
def encP (maj : Nat) (p : PReg) (kind low : Nat) : Nat × Nat :=
  (maj * 0x4000000 + p.toNat * 0x800000 + kind * 0x100000 + low, 0)

/-- Layout of the branches. -/
def encBr (maj : Nat) (p : PReg) (ld : BitVec 19) (slot : BitVec 4) : Nat × Nat :=
  (maj * 0x4000000 + p.toNat * 0x800000 + ld.toNat * 0x10 + slot.toNat, 0)

/-- Layout of the memory instructions. -/
def encMem (maj : Nat) (d a : Reg) (sz : BitVec 2) (off : BitVec 14) : Nat × Nat :=
  (maj * 0x4000000 + d.toNat * 0x200000 + a.toNat * 0x10000 + sz.toNat * 0x4000 + off.toNat, 0)

/-- Layout of SPR. -/
def encSpr (g : Reg) (srn dir : Nat) : Nat × Nat := (0x14 * 0x4000000 + g.toNat * 0x200000 + srn * 0x800 + dir, 0)

/-- Layout of SYNC: D, A, ARG, FN. -/
def encSync (d a : Reg) (arg fn : Nat) : Nat × Nat := encDa 0x1C d a (arg * 0x40 + fn)

/-- Layout of SYS: D, A, ARG, FN. -/
def encSys (d a : Reg) (arg fn : Nat) : Nat × Nat := encDa 0x33 d a (arg * 0x10 + fn)

/-- The engine format. -/
def encEng (maj min : Nat) (e : Eng) : Nat × Nat :=
  (maj * 0x4000000 + e.ga.toNat * 0x200000 + e.gb.toNat * 0x10000 + e.gc.toNat * 0x800 + min * 0x80 + e.f7.toNat,
   e.tok.toNat + e.tag.toNat * 0x10 + bcode e.bat * 0x400 + bcode e.fol * 0x800 + e.ext.toNat * 0x1000)

/-- Special register numbers of the queue numbers: xSEQ, then xISN (Table 1.1). -/
def srnQueueNumber (comp : Bool) (q : Q) : Nat := (if comp then 0x020 else 0x023) + q.code

/-- Special register numbers of the chain links: LQH, LQT, XQH, … (Table 1.1). -/
def srnQueueLink (tail : Bool) (q : Q) : Nat := 0x028 + 2 * q.code + bcode tail

/-- Special register numbers of the loop sets (Table 1.1). -/
def srnLoop (set : BitVec 1) (which : LoopReg) : Nat :=
  0x010 + 3 * set.toNat + (match which with | .lc => 0 | .ls => 1 | .le => 2)

/-- The two words of an instruction; the second is 0 for a 32-bit form, and both are 0 for an operation or event,
which has no encoding. -/
def encode (i : Instr) : Nat × Nat :=
  match i with
  | .add d a b => encDab 0x01 d a b 0x000
  | .sub d a b => encDab 0x01 d a b 0x001
  | .mul d a b => encDab 0x01 d a b 0x002
  | .mulh d a b => encDab 0x01 d a b 0x003
  | .mulhu d a b => encDab 0x01 d a b 0x004
  | .div d a b => encDab 0x01 d a b 0x005
  | .divu d a b => encDab 0x01 d a b 0x006
  | .rem d a b => encDab 0x01 d a b 0x007
  | .remu d a b => encDab 0x01 d a b 0x008
  | .and d a b => encDab 0x01 d a b 0x009
  | .or d a b => encDab 0x01 d a b 0x00a
  | .xor d a b => encDab 0x01 d a b 0x00b
  | .shl d a b => encDab 0x01 d a b 0x00c
  | .shr d a b => encDab 0x01 d a b 0x00d
  | .sar d a b => encDab 0x01 d a b 0x00e
  | .min d a b => encDab 0x01 d a b 0x00f
  | .max d a b => encDab 0x01 d a b 0x010
  | .minu d a b => encDab 0x01 d a b 0x011
  | .maxu d a b => encDab 0x01 d a b 0x012
  | .lea d a b sh => encDab 0x01 d a b (0x020 + sh.toNat)
  | .clz d a => encDa 0x02 d a 0
  | .ctz d a => encDa 0x02 d a 1
  | .popc d a => encDa 0x02 d a 2
  | .bswap d a => encDa 0x02 d a 3
  | .sextB d a => encDa 0x02 d a 4
  | .sextH d a => encDa 0x02 d a 5
  | .sextW d a => encDa 0x02 d a 6
  | .zextB d a => encDa 0x02 d a 7
  | .zextH d a => encDa 0x02 d a 8
  | .zextW d a => encDa 0x02 d a 9
  | .addi d a imm => encDa 0x03 d a imm.toNat
  | .andi d a imm => encDa 0x04 d a imm.toNat
  | .ori d a imm => encDa 0x05 d a imm.toNat
  | .xori d a imm => encDa 0x06 d a imm.toNat
  | .shli d a sh => encDa 0x07 d a (0 * 0x40 + sh.toNat)
  | .shri d a sh => encDa 0x07 d a (1 * 0x40 + sh.toNat)
  | .sari d a sh => encDa 0x07 d a (2 * 0x40 + sh.toNat)
  | .movi d imm => encDa 0x08 d 0 imm.toNat
  | .movw d hi imm => (0x09 * 0x4000000 + d.toNat * 0x200000 + bcode hi, imm.toNat)
  | .cmpeq p a b => encP 0x0A p 0 (a.toNat * 0x8000 + b.toNat * 0x400)
  | .cmpne p a b => encP 0x0A p 1 (a.toNat * 0x8000 + b.toNat * 0x400)
  | .cmplt p a b => encP 0x0A p 2 (a.toNat * 0x8000 + b.toNat * 0x400)
  | .cmpltu p a b => encP 0x0A p 3 (a.toNat * 0x8000 + b.toNat * 0x400)
  | .cmpge p a b => encP 0x0A p 4 (a.toNat * 0x8000 + b.toNat * 0x400)
  | .cmpgeu p a b => encP 0x0A p 5 (a.toNat * 0x8000 + b.toNat * 0x400)
  | .cmpeqi p a imm => encP 0x0B p 0 (a.toNat * 0x8000 + imm.toNat)
  | .cmpnei p a imm => encP 0x0B p 1 (a.toNat * 0x8000 + imm.toNat)
  | .cmplti p a imm => encP 0x0B p 2 (a.toNat * 0x8000 + imm.toNat)
  | .cmpltui p a imm => encP 0x0B p 3 (a.toNat * 0x8000 + imm.toNat)
  | .cmpgei p a imm => encP 0x0B p 4 (a.toNat * 0x8000 + imm.toNat)
  | .cmpgeui p a imm => encP 0x0B p 5 (a.toNat * 0x8000 + imm.toNat)
  | .pand p a b => encP 0x0C p 0 (a.toNat * 0x20000 + b.toNat * 0x4000)
  | .por p a b => encP 0x0C p 1 (a.toNat * 0x20000 + b.toNat * 0x4000)
  | .pxor p a b => encP 0x0C p 2 (a.toNat * 0x20000 + b.toNat * 0x4000)
  | .pnot p a => encP 0x0C p 3 (a.toNat * 0x20000)
  | .sel d a b ps => encDab 0x0D d a b (ps.toNat * 0x100)
  | .bp p ld slot => encBr 0x0E p ld slot
  | .br ld slot => encBr 0x0E 0 ld slot
  | .bnp p ld slot => encBr 0x0F p ld slot
  | .call ld slot => encBr 0x10 0 ld slot
  | .ji a => encDa 0x11 0 a 0
  | .calli a => encDa 0x11 0 a 1
  | .ret => encDa 0x11 0 0 2
  | .loop set a le => (0x12 * 0x4000000 + set.toNat * 0x2000000 + a.toNat * 0x100000, le.toNat)
  | .loopi set cnt le => (0x13 * 0x4000000 + set.toNat * 0x2000000 + cnt.toNat, le.toNat)
  | .mfs g srn => encSpr g srn.toNat 0
  | .mts g srn => encSpr g srn.toNat 1
  | .mtsTcfg g => encSpr g 0x035 1
  | .mtsQueueNumber g comp q => encSpr g (srnQueueNumber comp q) 1
  | .mtsQueueLink g tail q => encSpr g (srnQueueLink tail q) 1
  | .mtsTokc g => encSpr g 0x030 1
  | .mtsZwm g z => encSpr g (0x050 + z.toNat) 1
  | .mtsDqn g => encSpr g 0x03B 1
  | .mtsSeqw g => encSpr g 0x026 1
  | .mtsSeed g => encSpr g 0x039 1
  | .mtsLoopRegister g set which => encSpr g (srnLoop set which) 1
  | .mtsEbase g => encSpr g 0x073 1
  | .injArm g => encSpr g 0x081 1
  | .ld d a sz off => encMem 0x15 d a sz off
  | .lds d a sz off => encMem 0x16 d a sz off
  | .st d a sz off => encMem 0x17 d a sz off
  | .lda d a sz off => encMem 0x18 d a sz off
  | .stl d a sz off => encMem 0x19 d a sz off
  | .pfl a sz off => encMem 0x1A 0 a sz off
  | .aadd d a b => encDab 0x1B d a b 0
  | .amin d a b => encDab 0x1B d a b 1
  | .amax d a b => encDab 0x1B d a b 2
  | .aminu d a b => encDab 0x1B d a b 3
  | .amaxu d a b => encDab 0x1B d a b 4
  | .axchg d a b => encDab 0x1B d a b 5
  | .acas d a b => encDab 0x1B d a b 6
  | .aand d a b => encDab 0x1B d a b 7
  | .aor d a b => encDab 0x1B d a b 8
  | .axor d a b => encDab 0x1B d a b 9
  | .tokw d n fifo pop => encSync d 0 (n.toNat + fifo.code * 0x20 + bcode pop * 0x80) 0x00
  | .tagwa d a => encSync d a 0 0x01
  | .tagwl d a => encSync d a 0 0x02
  | .tagff d a clr => encSync d a (bcode clr) 0x03
  | .tagclr a => encSync 0 a 0 0x04
  | .bara n sc => encSync 0 0 (n.toNat + sc.code * 0x40) 0x05
  | .barw d n => encSync d 0 n.toNat 0x06
  | .baraw d n sc => encSync d 0 (n.toNat + sc.code * 0x40) 0x07
  | .barset a n => encSync 0 a n.toNat 0x08
  | .fence => encSync 0 0 0 0x09
  | .bclose => encSync 0 0 0 0x0A
  | .waitb d n => encSync d 0 n.toNat 0x0B
  | .qdrain mask => encSync 0 0 mask.toNat 0x0C
  | .qseq d a q => encSync d a q.code 0x0D
  | .xretw d => encSync d 0 0 0x0E
  | .fencep frm tom sc => (0x1D * 0x4000000 + frm.toNat * 0x100000 + tom.toNat * 0x4000 + sc.code * 0x1000, 0)
  | .spawn a b => encDab 0x1E 0 a b 0
  | .spawnj d a b => encDab 0x1E d a b 1
  | .join d a => encDab 0x1E d a 0 2
  | .halt => encDab 0x1E 0 0 0 3
  | .yield => encDab 0x1E 0 0 0 4
  | .launch d a b => encDab 0x1E d a b 5
  | .qpush a b => encDab 0x1F 0 a b 0
  | .qpop d pd a => encDab 0x1F d a 0 (pd.toNat * 0x100 + 1)
  | .trap code => encSys 0 0 code.toNat 0
  | .eret => encSys 0 0 0 1
  | .bkpt code => encSys 0 0 code.toNat 2
  | .synci => encSys 0 0 0 3
  | .tlbinv a kind sc => encSys 0 a (kind.toNat + sc.code * 4) 4
  | .l1wb => encSys 0 0 0 5
  | .l1inv a all => encSys 0 a (bcode all) 6
  | .pmark code => encSys 0 0 code.toNat 7
  | .srd d a => encSys d a 0 8
  | .swr d a => encSys d a 0 9
  | .wfe d mask => encSys d 0 mask.toNat 10
  | .nop => (0x34 * 0x4000000, 0)
  | .scp sc => (0x3E * 0x4000000 + sc.code, 0)
  | .imx x => (0x3F * 0x4000000 + x.toNat % 0x10000, x.toNat / 0x10000)
  | .tokp e => encEng 0x20 0 e
  | .xcall e => encEng 0x20 1 e
  | .mshape e => encEng 0x21 0 e
  | .manch e => encEng 0x21 1 e
  | .mzp e => encEng 0x21 2 e
  | .mpriv e => encEng 0x21 3 e
  | .mcode e => encEng 0x21 4 e
  | .mcsum e => encEng 0x21 5 e
  | .mlda e => encEng 0x22 0 e
  | .mldb e => encEng 0x22 1 e
  | .mma e => encEng 0x23 0 e
  | .mmas e => encEng 0x23 1 e
  | .mmaq e => encEng 0x23 2 e
  | .mmap e => encEng 0x23 3 e
  | .mchk e => encEng 0x24 0 e
  | .mdrain e => encEng 0x24 1 e
  | .mdrainx e => encEng 0x24 2 e
  | .mzero e => encEng 0x24 3 e
  | .mwm e => encEng 0x24 4 e
  | .mcap e => encEng 0x25 0 e
  | .mstat e => encEng 0x25 1 e
  | .smv e => encEng 0x26 0 e
  | .smvw e => encEng 0x26 1 e
  | .vadd e => encEng 0x29 0 e
  | .vsub e => encEng 0x29 1 e
  | .vmul e => encEng 0x29 2 e
  | .vmulh e => encEng 0x29 3 e
  | .vmulhu e => encEng 0x29 4 e
  | .vmin e => encEng 0x29 5 e
  | .vmax e => encEng 0x29 6 e
  | .vminu e => encEng 0x29 7 e
  | .vmaxu e => encEng 0x29 8 e
  | .vabs e => encEng 0x29 9 e
  | .vneg e => encEng 0x29 10 e
  | .vsadd e => encEng 0x29 11 e
  | .vssub e => encEng 0x29 12 e
  | .vand e => encEng 0x29 13 e
  | .vor e => encEng 0x29 14 e
  | .vxor e => encEng 0x29 15 e
  | .vnot e => encEng 0x2a 0 e
  | .vshl e => encEng 0x2a 1 e
  | .vshr e => encEng 0x2a 2 e
  | .vsar e => encEng 0x2a 3 e
  | .vpopc e => encEng 0x2a 4 e
  | .vclz e => encEng 0x2a 5 e
  | .vbrev e => encEng 0x2a 6 e
  | .vclmull e => encEng 0x2a 7 e
  | .vclmulh e => encEng 0x2a 8 e
  | .vbcast e => encEng 0x2a 9 e
  | .vret e => encEng 0x2a 10 e
  | .vfadd e => encEng 0x2b 0 e
  | .vfsub e => encEng 0x2b 1 e
  | .vfmul e => encEng 0x2b 2 e
  | .vfma e => encEng 0x2b 3 e
  | .vfdiv e => encEng 0x2b 4 e
  | .vfsqrt e => encEng 0x2b 5 e
  | .vfmin e => encEng 0x2b 6 e
  | .vfmax e => encEng 0x2b 7 e
  | .vfabs e => encEng 0x2b 8 e
  | .vfneg e => encEng 0x2b 9 e
  | .vcmpeq e => encEng 0x2c 0 e
  | .vcmplt e => encEng 0x2c 1 e
  | .vcmpltu e => encEng 0x2c 2 e
  | .vfcmpeq e => encEng 0x2c 3 e
  | .vfcmplt e => encEng 0x2c 4 e
  | .vsel e => encEng 0x2c 5 e
  | .vmask e => encEng 0x2c 6 e
  | .vredadd e => encEng 0x2d 0 e
  | .vredmin e => encEng 0x2d 1 e
  | .vredmax e => encEng 0x2d 2 e
  | .vfredadd e => encEng 0x2d 3 e
  | .vperm e => encEng 0x2d 4 e
  | .vslide e => encEng 0x2d 5 e
  | .vld e => encEng 0x2e 0 e
  | .vst e => encEng 0x2e 1 e
  | .vgat e => encEng 0x2e 2 e
  | .vsct e => encEng 0x2e 3 e
  | .vqnt e => encEng 0x2f 0 e
  | .vdq e => encEng 0x2f 1 e
  | .vcvt e => encEng 0x2f 2 e
  | .vrange e => encEng 0x2f 3 e
  | .vmse e => encEng 0x2f 4 e
  | .vdefer e => encEng 0x30 0 e
  | .vdrainq e => encEng 0x30 1 e
  | .cld e => encEng 0x31 0 e
  | .clde e => encEng 0x31 1 e
  | .cgat e => encEng 0x31 2 e
  | .cpf e => encEng 0x31 3 e
  | .fget e => encEng 0x31 4 e
  | .cst e => encEng 0x32 0 e
  | .cstd e => encEng 0x32 1 e
  | .csct e => encEng 0x32 2 e
  | .cfill e => encEng 0x32 3 e
  | .fput e => encEng 0x32 4 e
  | .fputOf e => encEng 0x32 5 e
  | .cbat e => encEng 0x32 6 e
  | .fackw e => encEng 0x32 7 e
  | .cred e => encEng 0x32 8 e
  | _ => (0, 0)

/-- The instruction's words (R101). -/
def Instr.words (i : Instr) : List Word32 :=
  if i.isEvent then []
  else if wordsOf (encode i).1 = 2 then [BitVec.ofNat 32 (encode i).1, BitVec.ofNat 32 (encode i).2]
  else [BitVec.ofNat 32 (encode i).1]

end Sys2Proof
end

