-- ==== Sys2Proof/Config.lean ====
section
/-! DEFINITION. The free values: what the spec leaves open, as constants with no body that Lean could evaluate
(assumption log, entries 2, 3 and those named at each constant). -/

namespace Sys2Proof

/-- Free choice number n: whether an L1 line held at a C-path load has been replaced meanwhile (R313: replacement is
not architectural). Log entry 12. -/
opaque Config.l1Replaced : Nat → Bool
/-- Free choice number n: whether a fetch of a word changed since the last SYNCI sees its new value (R100). Log entry 13. -/
opaque Config.fetchSeesNew : Nat → Bool
/-- Free choice number n: which value a POOL object hands out (R203: "any one"), as an index to be reduced modulo the
number held. Log entry 14. -/
opaque Config.poolPick : Nat → Nat
/-- The verdict of the Ed25519 check of a header under root key `key` (R465): the spec gives no root public key. Log entry 15. -/
opaque Config.signatureOk : (key : Nat) → (message signature : List Byte) → Bool
/-- The device's Ed25519 signature with its identity key (R465, R468): the key comes from a physically unclonable
function. Log entry 15. -/
opaque Config.deviceSign : List Byte → List Byte
/-- The bytes an opaque section of a tile save record holds (R442: its internal layout is not architectural). Log entry 16. -/
opaque Config.opaqueSection : (sec : Nat) → (i : Nat) → Byte
/-- What a field of a wrong or unstated kind holds: the value of operand-dependent results to which the spec gives
none, by site number and operands. Log entry 17. -/
opaque Config.unstated : (site : Nat) → List Word → Word
/-- The answer bytes of an MCTP control message (R473: DSP0236 defines them, the spec does not). Log entry 18. -/
opaque Config.mctpControl : (command : Byte) → List Byte → List Byte
/-- Free choice number n: whether a written block leaves its home slice now, or stays in it (R321). Log entry 79. -/
opaque Config.blockLeaves : Nat → Bool
/-- Free choice number n: the state, large enough to hold it, that a compressible block gets (R321). Log entry 79. -/
opaque Config.blockState : Nat → BitVec 2
/-- Free choice number n: whether the metadata cache still holds the state of a block that it held (R321). Log entry 79. -/
opaque Config.metaHeld : Nat → Bool
/-- The pattern a test slice leaves in the memories it overwrites (R444). Log entry 19. -/
opaque Config.testPattern : Nat → Byte

end Sys2Proof
end

