-- ==== Sys2Proof/Machine/State.lean ====
section
/-! DEFINITION. The state of one K16 package as plain data: the tiles, the management cores, the Headstock, the
memories, the fabric, the host interface; and `State.reset`. Every field's rule of spec/ stands in its docstring;
reset values marked DESIGN CHOICE or PRESUMED name their entry of the assumption log. -/

namespace Sys2Proof.Machine

/-- Memory bytes by canonical address (`Place.key`); an address that is not listed reads as zero (log entry 1). -/
abbrev Memory := List Host.Cell

/-! ### The control cores -/

/-- A prefix unit awaiting its instruction (R112 to R115). -/
structure Pfx where
  /-- The 48-bit value of an IMX. -/
  imx : Option (BitVec 48)
  /-- The scope of an SCP. -/
  scp : Option Scope
  /-- The code address of the first prefix (EPC of every trap before the unit retires, R115). -/
  start : CodeAddr
  /-- First word of the first prefix (EWORD[31:0], R114). -/
  w0 : Word32
  /-- First word of the word after the first prefix (EWORD[63:32], R114); zero while it is not known. -/
  w1 : Word32
  deriving DecidableEq, Repr

/-- A hardware-loop set (R18, R146): lc, ls, le and the armed end ae. -/
structure LoopSet where
  lc : BitVec 32
  ls : CodeAddr
  le : CodeAddr
  ae : CodeAddr
  deriving DecidableEq, Repr

/-- EPC to EWORD (Table 13.1). -/
structure TrapRegs where
  epc : Word
  ecause : Word
  einfo : Word
  ebase : Word
  estatus : Word
  eword : Word
  deriving DecidableEq, Repr

/-- The error-injection pair INJA, INJC (Tables 13.9 and 13.10). -/
structure Inj where
  inja : Word
  injc : Word
  deriving DecidableEq, Repr

/-- A translation held in a cache (R319): the space it belongs to (`Space.key`), the page's first virtual address and its size
(R316), its first physical address, and the leaf. -/
structure TlbEnt where
  space : Nat
  va : Nat
  size : Nat
  pa : Nat
  ent : Word
  deriving DecidableEq, Repr

/-- An outstanding QPUSH or QPOP of a TCC (R203): its request, and the answer once it is there. -/
structure ObjWait where
  rid : Nat
  /-- EMPTY and the value of the answer. -/
  ans : Option (Bool × Word)
  /-- The fabric error code and EFFECT of an ERR answer (R408). -/
  err : Option (Nat × Bool)
  deriving DecidableEq, Repr

/-- An access to another package that waits for its answer (R393): its request, what it names, and the answer. -/
structure FarReq where
  rid : Nat
  pa : Nat
  len : Nat
  wr : Bool
  ans : Option (List Byte)
  /-- The fabric error code and EFFECT of an ERR answer (R408). -/
  err : Option (Nat × Bool)
  deriving DecidableEq, Repr

/-- A trap or fault being raised: cause and sub-code (Table 13.4), EINFO, the code address for EPC where the cause's rule
gives one, EFFECT of a remote error (R279), and EWORD where it is not the unit's own words (R109). -/
structure TrapI where
  cause : Nat
  sub : Nat
  info : Word
  epc : Option CodeAddr
  effect : Bool
  eword : Option Word
  deriving DecidableEq, Repr

/-- A control core: the TCC of a tile, or a management core. -/
structure Tcc where
  /-- g0 to g31 (R16); g0 is read as zero by `Tcc.g`. -/
  regs : Vector Word 32
  /-- p0 to p7 (R17); p0 is read as 1 by `Tcc.pr`. -/
  preds : BitVec 8
  /-- The code address of the next word to execute. -/
  pc : CodeAddr
  /-- The image the stream runs in: 0xFFFF is the firmware trap image (R433). -/
  img : BitVec 16
  /-- The successor of the instruction in hand (set by the fetch); none past the end of a chain. -/
  succ : Option CodeAddr
  /-- The words of the instruction in hand: first word in [31:0], second in [63:32]. -/
  iw : Word
  /-- The line at pc has been entered, its link word checked (R97). -/
  lined : Bool
  /-- The prefixes read so far of a prefix unit (R112 to R115). -/
  pfx : Option Pfx
  /-- STATUS.PFXP as an ERET has restored it (R303), until the next unit is read or retires. -/
  pfxp : Bool
  loop0 : LoopSet
  loop1 : LoopSet
  /-- The return-address store, most recent entry first, at most 16 (R19). -/
  ras : List CodeAddr
  rsp : Word
  rsc : BitVec 32
  spillb : Word
  /-- STATUS.PRIV: true = M (Table 1.2). -/
  atM : Bool
  /-- STATUS.INTRAP. -/
  intrap : Bool
  trap : TrapRegs
  inj : Inj
  /-- The *arrived* mark of a BARAW (R186): the next BARAW makes only the wait. -/
  arrived : Bool
  /-- The six event latches of WFE (R309). -/
  latches : BitVec 6
  /-- The instruction in hand waits (R168); it is executed again when its turn comes. -/
  waiting : Bool
  /-- Flags held at the tile, by request, that a FENCEP in hand waits for: those accepted before it began (R184). -/
  fenceOn : List Nat
  /-- An outstanding QPUSH or QPOP. -/
  obj : Option ObjWait
  /-- Accesses of the instruction in hand to other packages. -/
  far : List FarReq
  /-- Lines of other packages that the fetch of the unit in hand reads (R100). -/
  ffar : List FarReq
  /-- Instruction words fetched since the last SYNCI, by physical address (R100). -/
  ibuf : AMap Word32
  /-- A management core stopped under R513, or held before the cores start (Table 14.3 step 2). -/
  stopped : Bool
  /-- Instructions left until a STEP stops the core (R479). -/
  stepLeft : Option Nat
  /-- A trap that waits at trap entry while a firmware update runs (R467), with its EPC and EWORD. -/
  pend : Option (TrapI × CodeAddr × Word)
  deriving DecidableEq, Repr

/-! ### Queues and engines -/

/-- Where a command stands: issued and unbegun, begun, or completed but not yet freed (R26, R29). -/
inductive CmdSt where
  | waiting | begun | done
  deriving DecidableEq, Repr

/-- A queue entry (Table 1.4) with the engine's progress in it. -/
structure QEntry where
  /-- CMD: first word in [31:0], second in [63:32]. -/
  cmd : Word
  opv0 : Word
  opv1 : Word
  opv2 : Word
  ximm : Word
  /-- The issue number (R26). -/
  isn : Word
  /-- The link that names this entry: [23:0] index, [31] POOL. -/
  at_ : BitVec 32
  /-- The privilege level at issue (R276). -/
  atM : Bool
  /-- The region the command is charged to (R435), and the image of the continuation that issued it (R300). -/
  region : Nat
  img : BitVec 16
  /-- The scope in force: domain, or the SCP prefix's (R113, R273). -/
  scope : Scope
  /-- The issue number of the LQ copy this XQ command follows on (R286). -/
  fol : Option Word
  st : CmdSt
  /-- The pop-before tokens have been taken (R32). -/
  popped : Bool
  /-- The engine last found the command waiting on a token, tag, range, watermark or XRET (QSTAT, Table 1.7). -/
  held : Bool
  /-- Inside a routine (R300): the line:slot of the next routine instruction; `none` once END is expanded. -/
  rpc : Option CodeAddr
  /-- The line:slot of the routine instruction in hand (the micro-PC of KIND 1, Table 1.8), and the line that the routine is in,
  its link word checked (R97). -/
  rcur : CodeAddr
  rline : Option Nat
  /-- The command being run: `cmd`, or the routine instruction in hand with its operand values. -/
  run : Word
  /-- The routine instruction in hand: 0 none, 1 expanded and unbegun, 2 begun. -/
  sub : Nat
  r0 : Word
  r1 : Word
  r2 : Word
  /-- The next beat or step of the command (the micro-PC step, R49), and the row and byte a copy has reached. -/
  beat : Nat
  row : Nat
  off : Nat
  /-- Values captured at the begin: a copy's row indices (R284), CBAT's entries (R295), the coding word (R288). -/
  cap : List Word
  /-- Bytes of the row in hand that a copy has read and not yet written: less than one word of its destination (R44, R276). -/
  carry : List Byte
  /-- The copy takes its global parts by ascending address, as R276 asks of SO pages; then `parts` says of each row how far it has come
  and what it carries. A CLDE keeps there how far it has read each stream, with the bytes it still needs. -/
  asc : Bool
  parts : List (Nat × List Byte)
  /-- Everything that the command or routine instruction in hand does has been done; it completes when it may (R33, R280). -/
  made : Bool
  /-- The value of a command whose other effects are made, waiting for room in XRET (R47, R241). -/
  park : Option Word
  /-- Flags collected while the command runs (R75). -/
  flags : BitVec 5
  /-- Reads of the beat in hand from other packages. -/
  far : List FarReq
  /-- A write, add or atomic of the command has been acknowledged by another agent (EFFECT, R279). -/
  eff : Bool
  deriving DecidableEq, Repr

/-- An engine fault waiting to be taken (R429, R431). -/
structure EngFault where
  q : Q
  cause : Nat
  sub : Nat
  info : Word
  word : Word
  isn : Word
  frz : Bool
  region : Nat
  /-- DUTY.FLT was set when it arose: a translation or permission fault of a freeze is the host's (R469). -/
  host : Bool
  deriving DecidableEq, Repr

/-- One engine queue (R24 to R29). -/
structure Queue where
  /-- Entries not yet freed, oldest first. -/
  ents : List QEntry
  /-- LISN, XISN or SISN. -/
  isn : Word
  /-- LSEQ, XSEQ or SSEQ. -/
  seq : Word
  head : BitVec 32
  tail : BitVec 32
  /-- Extension segments taken from the die's pool: (first index, the link the segment was inserted after, the link it
  leads on to, the region charged) (R388, R389). -/
  segs : List (Nat × BitVec 32 × BitVec 32 × Nat)
  /-- The queue is stopped by an engine fault until ERET (R429). -/
  stopped : Bool
  /-- MPCL, MPCX or MPCS (Table 1.8). -/
  mpc : Word
  deriving DecidableEq, Repr

/-- One mantissa block of an operand slot (R57, R64): its scale code, its 48 element values (zero where dropped), and
for a sparse block which elements are kept. -/
structure Block where
  e : Byte
  m : List Int
  kept : List Bool
  deriving DecidableEq, Repr

/-- An operand slot (Table 6.1). -/
structure Slot where
  full : Bool
  /-- Recorded M or N, KB, format and SPN (R218). -/
  cnt : Nat
  kb : Nat
  fmt : Nat
  spn : Nat
  /-- Blocks in the order of R60. -/
  blocks : List Block
  deriving DecidableEq, Repr

/-- The state of one z tile beside its words (Table 6.1, R42, R223, R224). -/
structure ZTile where
  /-- ZWMn (R42); the tile is open while it is below 128 (Table 1.10; log entry 36). -/
  wm : Nat
  zanc : BitVec 16
  cvalid : Bool
  /-- The bitmap of the last product into the tile; none when the tile has no recorded bitmap (R224). -/
  bm : Option (BitVec 128)
  /-- The checksum store: predicted column sums CR_j and row sums CC_i (R223). Empty lists stand for 128 zeros. -/
  cr : List Int
  cc : List Int
  deriving DecidableEq, Repr

/-- A ticket of the stack MV unit (Table 6.1, R237 to R240). -/
structure Ticket where
  /-- 0 IDLE, 1 BUSY, 2 DONE. -/
  st : Nat
  /-- The descriptor and the anchor captured at SMV. -/
  bva : Word
  bsva : Word
  kb : Nat
  n : Nat
  yoff : Nat
  anchor : Int
  /-- The captured vector blocks. -/
  vec : List Block
  /-- Translations pinned since the SMV, as in `Tile.tlb` (R238, R305). -/
  pins : List TlbEnt
  /-- Result words, or the cause, sub-code and EINFO found by the unit (R239). -/
  res : List Int
  err : Option (Nat × Nat × Word)
  deriving DecidableEq, Repr

/-- The matrix engine (Table 6.1). -/
structure Mxe where
  shape : Word
  za : List Int
  zb : List Int
  bitmap : BitVec 128
  coding : Word
  /-- Checksum mode: 0 OFF, 1 DETECT, 2 CORRECT. -/
  csMode : Nat
  a0 : Slot
  a1 : Slot
  b0 : Slot
  b1 : Slot
  z : Vector ZTile 16
  tickets : Vector Ticket 4
  cscor : BitVec 32
  csflt : BitVec 32
  /-- ANCHOR[15:0] (R45). -/
  anchor : BitVec 16
  deriving DecidableEq, Repr

/-- The vector engine (Table 7.1). -/
structure Vxe where
  v : Vector (BitVec 2048) 32
  /-- m0 to m7; m0 is read as all ones by `Vxe.mask`. -/
  m : Vector Word 8
  hi : Word32
  lo : Word32
  empty : Bool
  deriving DecidableEq, Repr

/-! ### The tile -/

/-- BSTn (Table 1.6). -/
structure Bst where
  cfg : Bool
  member : Bool
  arr : Bool
  gen : BitVec 8
  /-- A generation in which the tile arrived has been released, and no BARW has completed since (R181; log entry 83). -/
  rel : Bool
  deriving DecidableEq, Repr

/-- An arrival entry at a destination tile (R410): the key and the counts P, E, U. -/
structure Arrival where
  /-- Source tile's gid with its package in the high part, GRP, EPOCH. -/
  src : Nat
  grp : Nat
  epoch : Nat
  p : Nat
  e : Nat
  u : Nat
  /-- The launch and region of the command that sent the last put counted (R413); none for a sender of another package. -/
  own : Option (Nat × Nat)
  deriving DecidableEq, Repr

/-- A flag held at a destination tile (R411). -/
structure HeldFlag where
  src : Nat
  grp : Nat
  epoch : Nat
  cnt : Nat
  pa : Nat
  val : Word
  /-- The request to acknowledge once the flag is written. -/
  rid : Nat
  /-- The launch and region of the command that sent it (R413); none for a sender of another package. -/
  own : Option (Nat × Nat)
  deriving DecidableEq, Repr

/-- A fabric group of the sending tile (R292, R293, R410). -/
structure Group where
  c : BitVec 32
  /-- The recorded tile: its window base physical address. -/
  tile : Option Nat
  /-- FPUT.OFs of the group begun so far, and those not yet acknowledged (their numbers). -/
  flags : Nat
  pend : List Nat
  deriving DecidableEq, Repr

/-- The continuation a tile runs (R194, R379): its launch and its region; FRM, JCA, RCBA, CPRI are registers. -/
structure Cont where
  launch : Nat
  img : BitVec 16
  region : Nat
  deriving DecidableEq, Repr

/-- The debug state of a tile (R476 to R479). -/
structure Dbg where
  stopped : Bool
  /-- ALL of the request that stopped the tile, of the one that armed it and of the one that steps it (R476). -/
  allStop : Bool
  allArm : Bool
  allStep : Bool
  /-- A pending STOP at a BEDT value. -/
  stopAt : Option Word
  /-- The arms, by their places in the request (Table 15.1). -/
  codes : List (Option (BitVec 12))
  addrs : List (Option Word)
  watch : Option Word
  /-- Instances that have just caused a stop and do not fire again (R476). -/
  passAddr : Option CodeAddr
  passEntry : Option Word
  /-- The trigger of the last stop, in the row order of R476. -/
  trigger : Nat
  /-- RUN or STEP waits for the restart's ramp slot (R479); a stop under ALL is due (R476). -/
  restart : Bool
  allDue : Bool
  deriving DecidableEq, Repr

/-- One tile (chapter 1). Its scratchpad, z tiles and atomic region are bytes of `State.mem` in its physical window. -/
structure Tile where
  tcc : Tcc
  /-- The running continuation; none while the TCC is idle (R379). -/
  cont : Option Cont
  /-- The launch the tile is bound to. -/
  bound : Option Nat
  ltn : Nat
  lrect : Word
  lid : Word
  rcba : Word
  cpri : Word
  frm : Word
  jca : Word
  lq : Queue
  xq : Queue
  sq : Queue
  seqw : Word
  /-- TOKC counts of lx, xl, xs, sx (R32). -/
  lx : Nat
  xl : Nat
  xs : Nat
  sx : Nat
  tags : BitVec 64
  /-- TAGN: 64 counts of 8 bits, tag t in byte t. -/
  tagn : BitVec 512
  bst : AMap Bst
  scc : Word
  tcfg : Word
  fstat : BitVec 5
  msea : Word
  seed : BitVec 32
  /-- SEEDs written while commands that use SR were in XQ, oldest first: the last issue number that each does not apply to, and its value
  (R73). -/
  seedNext : List (Word × BitVec 32)
  mcap : Word
  dqn : Nat
  /-- XRET, oldest first, at most 16 (R47). -/
  xret : List Word
  mxe : Mxe
  vxe : Vxe
  /-- STATUS.FRZ (R278). -/
  frz : Bool
  /-- Engine faults pending (R431). -/
  faults : List EngFault
  /-- ISS_p and ACK_p (R291). -/
  iss : Vector (BitVec 32) 4
  ack : Vector (BitVec 32) 4
  groups : AMap Group
  /-- Members of the open batch, by queue and issue number; the outstanding batches, oldest first (R187). -/
  openBatch : List (Q × Word)
  batches : List (List (Q × Word))
  /-- L1: lines present, by physical line address, with the bytes they hold (R311, R313). -/
  l1 : AMap (List Byte)
  /-- Translations held (R319). -/
  tlb : List TlbEnt
  arrivals : List Arrival
  held : List HeldFlag
  /-- The tile waits for a ramp slot before its first instruction or before its barrier wait returns (R459). -/
  gated : Bool
  /-- Bed time at which ballast began (R460). -/
  ballast : Option Word
  /-- The barrier the TCC waits on since it began waiting, for R459; and tapering has ended ballast in this wait (R460). -/
  barWait : Option Nat
  tapered : Bool
  dbg : Dbg
  /-- Counters of Table 15.7. -/
  counters : AMap (BitVec 32)
  /-- Out of service: at once, or when its launch reaches DONE (Table 13.7). -/
  oos : Bool
  oosLater : Bool
  /-- Cycles the tile has been stalled on capacity (R388). -/
  stall : Nat
  /-- MCAP from the next launch entry on (R235). -/
  mcapNext : Word
  /-- The MXE's physical rows (r) and columns (256 + c) that had been retired at launch entry (R235). -/
  linesOut : List Nat
  /-- The region charged with a fault whose trap was taken while idle (R432). -/
  trapRegion : Nat
  /-- The tile has run no instruction of its launch yet (R459). -/
  fresh : Bool
  deriving DecidableEq, Repr

/-! ### The fabric -/

/-- The packet types (Table 12.3). -/
inductive PktT where
  | rd | rdr | wr | wack | addw | atm | atmr | put | flag | qpush | qpop | qrsp | err | hnak | ctrl | reserved
  deriving DecidableEq, Repr

/-- Who made a request. -/
inductive Agent where
  | tile (gid : Nat)
  | core (n : Nat)
  | reshard (n : Nat)
  | headstock
  deriving DecidableEq, Repr

/-- A packet in flight, or held in a router (Table 12.2, R415). -/
structure Pkt where
  typ : PktT
  path : Nat
  rid : Nat
  src : Agent
  /-- The queue and issue number of the command that sent it. -/
  q : Q
  isn : Word
  /-- The control core made the request, not an engine. -/
  tcc : Bool
  /-- The region and the words of the command that sent it, and whether an earlier packet of it has been applied (R279). -/
  region : Nat
  /-- The launch of the command, where the sender is an engine of this package (R413, R435). -/
  launch : Option Nat
  cmd : Word
  eff : Bool
  /-- A packet of an FPUT or FPUT.OF, whose acknowledgement counts in ACK_p (R291). -/
  counts : Bool
  /-- Destination package; and for a request from another package its number, source field and request identifier. -/
  dpkg : Nat
  spkg : Nat
  srct : Nat
  frid : Nat
  addr : Nat
  len : Nat
  data : List Byte
  /-- FLAG: C_g. PUT with LAST: the put's packet count. QPUSH and QRSP: the value. CTRL: the barrier. -/
  cnt : Nat
  last : Bool
  /-- AUXF: AOP, GRP and EPOCH, the error code, ADDW's word size. -/
  aop : Nat
  grp : Nat
  epoch : Nat
  code : Nat
  /-- EMPTY of a QRSP; EFFECT of an ERR. -/
  flagBit : Bool
  scope : Scope
  /-- 80-bit words of an ADDW. -/
  wide : Bool
  /-- An add-mode write (R282). -/
  add : Bool
  /-- The page kind is SO (R326), or UO (R328). -/
  so : Bool
  uo : Bool
  /-- The translation by which a beat of the command was sent: it stays pinned until the packet has been performed (R305). -/
  pin : Option TlbEnt
  /-- Where the answer's bytes go in the issuer's local map. -/
  dst : Nat
  /-- The router that holds it, and its dwell budget (R415); for a put its number among those of its path (R291). -/
  router : Option Nat
  budget : Nat
  /-- Bed time it was first sent, and last sent (R407, R412). -/
  sent : Word
  resent : Word
  /-- Refused by HNAK and waiting to be resent (R412). -/
  refused : Bool
  /-- The pairing object that it is for was deleted while it was in flight (R471). -/
  objGone : Bool
  deriving DecidableEq, Repr

/-- A pairing object (R414, R203): capacity and values, newest first. -/
structure Obj where
  cap : Nat
  vals : List Word
  deriving DecidableEq, Repr

/-- A Kwaup port (R402 to R405). -/
structure Port where
  up : Bool
  /-- Next FSEQ expected, and next to send. -/
  rxSeq : BitVec 16
  txSeq : BitVec 16
  /-- Flits sent and not yet acknowledged, oldest first. -/
  txq : List (BitVec 1024)
  /-- The last LACK or LNAK sent. -/
  ack : BitVec 1024
  /-- Bytes received of a packet that is not yet whole (Table 12.5 BODY). -/
  rxBuf : List Byte
  /-- Times the oldest flit has been resent in a row, and resends counted in all (R403). -/
  resends : Nat
  retries : Nat
  /-- Bed cycles of the last flit sent and of the last valid flit received. -/
  lastTx : Word
  lastRx : Word
  /-- The peer package. -/
  peer : Nat
  deriving DecidableEq, Repr

/-! ### Launches -/

/-- A continuation record (Table 5.3). -/
structure Rec where
  code : CodeAddr
  img : BitVec 16
  frame : Word
  jca : Word
  region : Nat
  pri : Nat
  /-- Its place in the region's spill area, in records, while it is spilled (R378). -/
  spill : Option Nat := none
  /-- Its words in the pool store hold flipped bits, which ECC can correct or not (R448). -/
  ecc : List (Nat × Bool) := []
  deriving DecidableEq, Repr

/-- A region of a launch, with effective field values (R365, R366). -/
structure Region where
  parent : Nat
  pri : Nat
  /-- The region that roots its fault domain (R367). -/
  dom : Nat
  pw : Nat
  pin : Bool
  dla : Bool
  age : Nat
  tmax : Nat
  growkb : Nat
  pent : Nat
  rtime : Nat
  x0 : Nat
  y0 : Nat
  rw : Nat
  rh : Nat
  spmin : Nat
  psva : Word
  pslen : Nat
  /-- Bed time in ns at which its first continuation started, less the time saved (R367, R443). -/
  started : Option Nat
  /-- KiB of buffer pool charged to it (R389). -/
  grown : Nat
  ended : Bool
  deriving DecidableEq, Repr

/-- A continuation pool (R378, R380): records oldest first with the time each has waited since, its level, its timer. -/
structure Pool where
  region : Nat
  pri : Nat
  recs : List (Rec × Word)
  level : Nat
  timer : Word
  deriving DecidableEq, Repr

/-- The states of a launch (Table 11.6) from WAIT on, with the saved state of R443. -/
inductive LSt where
  | wait | run | drain | done | saved
  deriving DecidableEq, Repr

/-- A barrier's participant set at the Headstock (R178) and who has arrived, with the arrival's scope. -/
structure BarSet where
  x0 : Nat
  y0 : Nat
  w : Nat
  h : Nat
  arrived : List (Nat × Scope)
  deriving DecidableEq, Repr

/-- What a launch packet asks for (Table 11.4). -/
structure Packet where
  kind : Nat
  sym : Nat
  launchId : Nat
  ptroot : Nat
  rtva : Word
  nreg : Nat
  nimg : Nat
  imgt : Word
  w : Nat
  h : Nat
  ox : Nat
  oy : Nat
  tcfgv : Word
  seqw : Nat
  seedb : Nat
  spbase : Word
  spstr : Nat
  entry : Nat
  eimg : Nat
  rootn : Nat
  frbase : Word
  frstr : Word
  stva : Word
  opdva : Word
  afterQ : Nat
  av : Bool
  afterSeq : Nat
  /-- Its bytes as read. -/
  raw : List Byte
  deriving DecidableEq, Repr

/-- An operator descriptor as read (Table 10.1). -/
structure OpDesc where
  ctl : Nat
  k : Nat
  cr : Nat
  fin : Nat
  fb : Nat
  spn : Nat
  anch : Int
  mp : Nat
  n : Nat
  kb : Nat
  base : Nat
  ava : Word
  pstr : Word
  sva : Word
  sstr : Nat
  bva : Word
  bsva : Word
  bpstr : Word
  cva : Word
  stva : Word
  ststr : Nat
  kcode : Nat
  img : Nat
  trect : Nat
  dies : Nat
  drwva : Word
  inva : Word
  pkgs : List Nat
  deriving DecidableEq, Repr

/-- What an inner operator works for in another package: that package, its coding register, the task, and the outer descriptor. -/
structure Remote where
  pkg : Nat
  opr : Nat
  task : Nat
  outer : OpDesc
  deriving DecidableEq, Repr

/-- A launch. -/
structure Launch where
  queue : Nat
  seq : Nat
  fw : Bool
  pkt : Packet
  st : LSt
  regions : List Region
  /-- Image bases and line counts (Table 11.4). -/
  images : List (Word × Nat)
  roots : List Rec
  pools : List Pool
  /-- The slot-table image read at validation. -/
  slots : List Byte
  /-- The binding (R373): origin and symmetry; the physical tiles in LTN order. -/
  originX : Nat
  originY : Nat
  sigma : Nat
  tiles : List Nat
  bars : AMap BarSet
  /-- Bed time in ns at READ, and the number of the READ (R459). -/
  readAt : Nat
  readNo : Nat
  nerr : Nat
  ndom : Nat
  faulted : Bool
  aborted : Bool
  /-- KIND 1: the coding register (R339). A task rectangle: the register and task it serves. -/
  opr : Option Nat
  task : Option (Nat × Nat)
  /-- The launch of the operator that a task's launch serves; its task record has been written (R342). -/
  op : Nat
  recorded : Bool
  /-- An inner operator of another package's outer one (R357). -/
  remote : Option Remote
  /-- KIND 1: the descriptor read at validation, the inner descriptors it names (nothing where one is bad), and OST once it is decided (R337, R355). -/
  opDesc : Option OpDesc
  inner : List (Option OpDesc)
  ost : Nat
  /-- Pre-emption asked for (R439): 1 soft, 2 hard, 3 resume; 0 none. -/
  preempt : Nat
  /-- Saved tiles (R442): gid, what the opaque sections keep, and the address and length of its tile save
  record; bed time of the save. -/
  saved : List (Nat × Tile × Nat × Nat)
  savedAt : Nat
  /-- Clusters whose test slice still runs (R444), and the bed time at which it ends. -/
  slices : List (Nat × Word)
  deriving DecidableEq, Repr

/-- A launch queue (Tables 11.1 to 11.3). -/
structure LQueue where
  cfg : Word
  base : Word
  crbase : Word
  tail : BitVec 32
  head : BitVec 32
  crtail : BitVec 32
  crhead : BitVec 32
  /-- Completion records waiting for ring space (R386), oldest first, each with the bed time in ns of its READ, from which TRUN
  counts (R385). -/
  waiting : List (List Byte × Nat)
  deriving DecidableEq, Repr

/-- A coding register with the operator it serves (R339, Table 10.2). -/
structure Opr where
  /-- OPST.STATE: 0 FREE, 1 RUN, 2 DONE, 3 FAILED. -/
  st : Nat
  opd : Word
  arr : Nat
  eras : Nat
  susp : Nat
  bas : Nat
  nsur : Nat
  ost : Nat
  opdie : Word
  nsyn : Nat
  ncor : Nat
  desc : Option OpDesc
  launch : Nat
  fout : Nat
  /-- Events that arrived after the decision and whose late check is done (R353). -/
  late : List Nat
  /-- A decode request posted to the host (R356). -/
  posted : Bool
  /-- Tasks whose injected errors went into the decision unseen (R455). -/
  inj : Nat
  /-- The decided words of C, panel by panel (R353). -/
  c : List Int
  /-- The outer operator's descriptor and task, for an inner operator (R357); the inner descriptors of an outer one. -/
  outer : Option (OpDesc × Nat)
  inner : List (Option OpDesc)
  /-- The status bytes with which inner operators have completed, by outer task; outer tasks whose package is lost. -/
  tst : AMap Nat
  gone : Nat
  deriving DecidableEq, Repr

/-- A tile start waiting for its ramp slot (R459, R461): tile, pinned group number (none = staggered). -/
structure Start where
  tile : Nat
  /-- The bed cycle of the request; the number of its launch's READ, the launch, and the tile's LTN in it. -/
  req : Word
  readNo : Nat
  launch : Nat
  ltn : Nat
  /-- The start of a launch entry, not of a release (R461). -/
  entry : Bool
  group : Option Nat
  /-- Domains (launch, root region) that end once this start is granted (ramp violation at a release, R461). -/
  ends : List (Nat × Nat)
  deriving DecidableEq, Repr

/-- The load-step governor (R458 to R461). -/
structure Gov where
  rate : Nat
  itile : Nat
  balen : Bool
  /-- A RATE and BALEN written while starts are pending (R458). -/
  next : Option (Nat × Bool)
  pending : List Start
  /-- Groups numbered so far; tiles of ballast cycles counted. -/
  groups : Nat
  ballast : Word
  /-- The slot last granted in, and the starts it holds (R459). -/
  slot : Nat
  used : Nat
  deriving DecidableEq, Repr

/-! ### Reliability, boot, host -/

/-- A 128-byte block of HBM4E in the compressible range of its stack (R320, R321): its 2-bit state, whether the lathe die's
metadata cache holds that state, and, while a written block has not left its home slice, whether it was written with CMP = 1. -/
structure Blk where
  st : BitVec 2
  held : Bool
  dirty : Option Bool
  deriving DecidableEq, Repr

/-- Which storage holds a word with flipped bits (R447, R448): a home (tile SRAM, accumulator SRAM, HBM4E), L2's copy of a word of
HBM4E, a value of a pairing object, a packet in router buffers, a checksum store, a register of a control core or a vector engine, a
queue buffer, an operand slot, XRET. -/
inductive Mark where
  | home | l2 | value | packet | checksum | reg | pred | vreg | mask | queueBuf | slot | xret
  deriving DecidableEq, Repr

/-- A word of storage with flipped bits (R447, R448): where, first byte (for a home and L2) or index, length, and whether ECC can
correct it; under parity, whether a replay reads it right. -/
structure BadWord where
  mark : Mark
  pa : Nat
  len : Nat
  corr : Bool
  inj : Bool
  deriving DecidableEq, Repr

/-- An armed injection (R453): the agent whose INJC it belongs to. -/
structure Armed where
  agent : Agent
  unit : Nat
  len : Nat
  bit0 : Nat
  bit1 : Nat
  kind : Nat
  deriving DecidableEq, Repr

/-- A record of an error log (R451). -/
structure LogRec where
  time : Word
  loc : Word
  kind : Nat
  inj : Bool
  src : Nat
  /-- Logged under DUTY.AGG: its unit's retirement is the host's (R469). -/
  agg : Bool
  deriving DecidableEq, Repr

/-- A firmware image in a slot, or staged (R465): SVN, key index, the digest, the body. -/
structure FwImage where
  svn : Nat
  key : Nat
  digest : List Byte
  header : List Byte
  body : List Byte
  deriving DecidableEq, Repr

/-- What the body of a configuration record says (R464 step 4), as far as a rule uses it. -/
structure CfgRec where
  minsvn : Nat
  itile : Nat
  /-- MCAP of each tile (R235); a tile that is not listed has 0. -/
  mcaps : AMap Word
  /-- Spare rows of each stack (spare maps, Table 13.7). -/
  spares : AMap Nat
  /-- Tiles (gid), and sockets that are out of service (lathe dies 1 to 16, stacks 17 to 32, Tailstocks 33 and 34). -/
  oosTiles : List Nat
  oosSocks : List Nat
  px : Nat
  py : Nat
  /-- The compressible range of each stack, first offset and length (R321), and the save region (R442). -/
  comp : AMap (Nat × Nat)
  savePa : Nat
  saveLen : Nat
  /-- Route tables of each package of the domain, this one being 0: key 512 p + q, mask of ports (R404). -/
  tables : AMap (AMap (BitVec 24))
  /-- The package at the other end of port i of package p, at key 24 p + i. -/
  peers : AMap Nat
  certs : List Byte
  deriving DecidableEq, Repr

/-- A copy of the configuration record in module flash (R464, R465): its header and body, and what the body says; the spec does
not give the body's layout (log entry 85). -/
structure CfgCopy where
  header : List Byte
  body : List Byte
  fields : CfgRec
  deriving DecidableEq, Repr

/-- Boot and live update (R464 to R467, R507 to R511). -/
structure Fw where
  /-- 0 before the boot, 1 running, 2 RECOVERY. -/
  boot : Nat
  flashA : Option CfgCopy
  flashB : Option CfgCopy
  /-- Lathe dies whose memory or links do not come up at a boot (Table 14.3 step 5). -/
  initFails : List Nat
  cfg : Option CfgRec
  slot0 : Option FwImage
  slot1 : Option FwImage
  act : Bool
  bootSlot : Bool
  st : Nat
  result : Nat
  svn : Nat
  fwimg : Word
  hova : Word
  fwhb : Word
  ctl : Word
  /-- FWHB at HANDOVER, and the deadline. -/
  beat0 : Word
  deadline : Word
  /-- VERIFY has ended well: the image stands in its slot, and the cores stop (R467 step 4). The heartbeat has been made in this bed
  cycle (R509). -/
  verified : Bool
  beat : Bool
  mr0 : BitVec 512
  mr1 : BitVec 512
  mr2 : BitVec 512
  /-- The running firmware's own translation and image (R433): root table, image base, line count; and the trap image. -/
  root : Nat
  base : Word
  lines : Nat
  /-- The body of the running image, whose lines the cores execute (R507, log entry 102); none before the boot. -/
  code : List Byte
  trapBase : Word
  trapLines : Nat
  /-- The value EBASE is given at launch entry (R433). -/
  trapEntry : CodeAddr
  deriving DecidableEq, Repr

/-- A request posted to the host (R469): its tag, function, and the packet, launch, tile or operator it is about. -/
structure HostReq where
  tag : Nat
  fn : Nat
  about : Nat
  data : List Byte
  deriving DecidableEq, Repr

/-- DUTY, the mailbox and the outside ports (R469 to R473). -/
structure Mbox where
  duty : BitVec 6
  h2d : BitVec 2048
  d2h : BitVec 2048
  h2df : Bool
  d2hf : Bool
  /-- Messages waiting for the D2H buffer, requests outstanding, the next tag. -/
  d2hWait : List (BitVec 2048)
  reqs : List HostReq
  nextTag : Nat
  /-- Messages offered while H2DF is set, oldest first (R470). -/
  h2dWait : List (BitVec 2048)
  /-- DBG requests held while an update runs, with their OP (R510); host-assisted requests held with them: function, what each is
  about, payload (R467). -/
  dbgHeld : List (Nat × DbgReq)
  reqHeld : List (Nat × Nat × List Byte)
  /-- Answers sent to the outside: SPDM, DOE, MCTP and PCIe completions, newest first. -/
  out : List (List Byte)
  /-- MSI-X vectors raised, newest first, and the words of the MSI-X table (R472). -/
  msix : List Nat
  msixTab : AMap Word
  deriving DecidableEq, Repr

/-- The error-record ring (R436, R463). -/
structure ErrRing where
  en : Bool
  sz : Nat
  base : Word
  tail : BitVec 32
  head : BitVec 32
  lost : Nat
  deriving DecidableEq, Repr

/-- Debug, trace and counters (chapter 15). -/
structure Trace where
  on : Bool
  pa : Nat
  sz : Nat
  n : Nat
  cntOn : Bool
  cntPa : Nat
  period : Nat
  /-- Bed cycle at which the sweeper was enabled, and the sweeps each unit has made since (0 Headstock, 1 to 16 dies). -/
  swept : Word
  sweeps : AMap Nat
  /-- Sweeps that stand in SWEEPS since the sweeper was enabled. -/
  headed : Nat
  /-- The first offset of the area that a unit's sweep in hand has still to add. -/
  swAt : AMap Nat
  /-- Last values by counter-area offset (Table 15.6). -/
  last : AMap (BitVec 32)
  /-- PAIRS of router r at key r; FALLS of home h at key 512 + h; package counters of R485 at key 1024 + i. -/
  pkg : AMap (BitVec 32)
  /-- Debug requests still to be answered: tag, targets on which the operation has yet to take effect, answer code. -/
  stops : List (BitVec 32 × List Nat × Nat)
  deriving DecidableEq, Repr

/-- A re-sharding engine (Table 12.9, R420 to R426). -/
structure Reshard where
  src : Word
  dst : Word
  cur : Word
  plan : Word
  pcnt : Word
  st : Nat
  err : Nat
  /-- The chunks of the plan: source, destination, length; how many are done; a host plan or a generated one. -/
  chunks : List (Nat × Nat × Nat)
  done : Nat
  host : Bool
  /-- PAUSE was written while a chunk was begun; accesses of the chunk in hand to other packages. -/
  pausing : Bool
  far : List FarReq
  /-- The layout records or the host plan are still to be read; and the run continues from the cursor. -/
  loading : Bool
  resume : Bool
  deriving DecidableEq, Repr

/-- PRSTAT (Table 13.6). -/
structure PrStat where
  st : Nat
  refd : Bool
  tfail : Bool
  deriving DecidableEq, Repr

/-! ### The machine -/

/-- A move still to be made: the turn of a control core, a step of an engine, or what the package does by itself. -/
inductive Move where
  | run (a : Agent)
  | engine (tile : Nat) (q : Q)
  /-- A command behind others of its queue, which wait for rows of z tiles (R43), or an MWM (R233). -/
  | ahead (tile : Nat) (q : Q) (isn : Word)
  /-- Package reset and boot (R464). -/
  | boot
  /-- A unit of the stack MV unit, an idle tile, a stalled one, one in a token deadlock, the debugger's stops. -/
  | smv (tile : Nat) (k : BitVec 2)
  | choose (tile : Nat)
  | grow (tile : Nat)
  | deadlock (tile : Nat)
  | timedStop (tile : Nat)
  | allStop (tile : Nat)
  /-- A packet is served or answered; meets another in a router; leaves it; is resent; times out. -/
  | packet (rid : Nat)
  | pair (router push pop : Nat)
  | dwell (rid : Nat)
  | resend (rid : Nat)
  | timeout (rid : Nat)
  /-- A launch claims, its pools age, a region's budget, its halt tree, its drain. -/
  | claim (launch : Nat)
  | age (launch region : Nat) (pri : BitVec 3)
  | budget (launch region : Nat)
  | halt (launch : Nat)
  | drain (launch : Nat)
  /-- The next step of a pre-emption that has been asked for, or of a resumption (R440, R441, R443). -/
  | save (launch : Nat)
  /-- A task of a coded operator arrives or is erased. -/
  | arrival (opr task : BitVec 4)
  | erasure (opr task : BitVec 4)
  | readPacket (queue : BitVec 6)
  /-- The device takes the message in H2D, or a debug request that it held (R470, R510). -/
  | message
  /-- The steps of a firmware update. -/
  | quiesced
  | verified
  | deadline
  | reshard (eng : BitVec 1)
  | hbeat (port : Nat)
  | peerDead (port : Nat)
  | sweep (unit : Nat)
  | slice (cluster : Nat) (pass : Bool)
  | bedCycle
  | tick
  | rampSlot
  | coreCycle (die : Nat)
  deriving DecidableEq, Repr

/-- The whole package. -/
structure State where
  /-- All memory bytes by canonical physical address (`canon`): HBM and tile windows (R314, R52). Canonical list. -/
  mem : Memory
  /-- Blocks of compressible ranges by key / 128; a block that is not listed is in state 3, its state not in the cache (R321). -/
  blocks : AMap Blk
  /-- Tiles by gid; a gid that is not listed is `Tile.reset`. -/
  tiles : AMap Tile
  cores : Vector Tcc 4
  /-- The agent that has had its turn last. -/
  who : Agent
  agenda : List Move
  /-- BEDT (R456). -/
  bedt : Word
  /-- The Headstock's own translations (R305), held as in `Tile.tlb`. -/
  htlb : List TlbEnt
  /-- Accesses of the Headstock to other packages. -/
  hfar : List FarReq
  /-- Launch queues 0 to 63, those not listed at their reset value. -/
  lqs : AMap LQueue
  /-- Launches by key, in the order they entered READ; the next key; the queue served last (R362). -/
  launches : AMap Launch
  nextLaunch : Nat
  rrQueue : Nat
  /-- The launch queue whose packet is in READ, its bytes still under way (R362), and the READs made so far. -/
  reading : Option Nat
  reads : Nat
  oprs : AMap Opr
  gov : Gov
  objs : AMap Obj
  objstat : AMap Nat
  /-- Packets in flight or held; the next request identifier. -/
  net : List Pkt
  nextRid : Nat
  /-- Slot tables by router, 256 entries each (R397). -/
  slotTabs : AMap (List Word)
  /-- Bed links out of service (key 8 r + port) and failed retries in a row (R394). -/
  linkDown : List Nat
  linkFails : AMap Nat
  ports : AMap Port
  /-- The dead map (R405) and the route tables (R404). -/
  dead : BitVec 512
  routes : AMap (BitVec 24)
  ftmo : AMap Word
  /-- Error logs (R451: the records made so far, and the last 64, newest first), windows (R452) and SCRUB registers (R450), by
  level and instance (`logKey`, `windowKey`). -/
  logs : AMap (Nat × List LogRec)
  windows : AMap Word
  scrubs : AMap Word
  bad : List BadWord
  armed : List Armed
  ring : ErrRing
  /-- Suspect counts by lathe die (R354); dies excluded (Table 13.7); lines never allocated; rows remapped. -/
  suspects : AMap Nat
  diesOut : List Nat
  retired : List (Nat × Nat)
  /-- Free segments of each die's buffer pool, by die (R388); 256 when not listed. -/
  segsFree : AMap (List Nat)
  /-- Pattern index of each cluster (R444), and clusters out of service. -/
  patterns : AMap (BitVec 32)
  reshard0 : Reshard
  reshard1 : Reshard
  pr : PrStat
  fw : Fw
  mbox : Mbox
  trace : Trace
  /-- The model's own field: the number of the next free choice (log entry 3). -/
  free : Nat
  deriving DecidableEq, Repr

/-! ### Faults and refusals of the model -/

/-- Why a step stops the model. -/
inductive Fault where
  /-- Raised by a turn of `step` for an agent that is no tile or core of a package (`Agent.tile` above 255, `Agent.core`
  above 3), and by the move of a queue of such a tile: no state of the hardware is like that. Safe. -/
  | noSuchAgent
  deriving DecidableEq, Repr

/-- Why an instruction has no meaning. -/
inductive Refusal where
  /-- Raised by an arm of `exec` whose instruction has no meaning yet. Safe. -/
  | notModelled (mnemonic : String)
  deriving DecidableEq, Repr

/-! ### Reset -/

/-- An empty loop set (Table 1.1: reset 0). -/
def LoopSet.zero : LoopSet := { lc := 0, ls := 0, le := 0, ae := 0 }

/-- A control core after package reset: Tables 1.1 and 1.2 (PRIV 1, the rest 0); registers with no reset value are 0
(log entry 4). -/
def Tcc.reset : Tcc :=
  { regs := Vector.replicate 32 0, preds := 0, pc := 0, img := 0, succ := none, iw := 0, lined := false, pfx := none, pfxp := false,
    loop0 := LoopSet.zero, loop1 := LoopSet.zero, ras := [], rsp := 0, rsc := 0, spillb := 0, atM := true,
    intrap := false, trap := { epc := 0, ecause := 0, einfo := 0, ebase := 0, estatus := 0, eword := 0 },
    inj := { inja := 0, injc := 0 }, arrived := false, latches := 0, waiting := false, fenceOn := [], obj := none, far := [], ffar := [], ibuf := [],
    stopped := false, stepLeft := none, pend := none }

/-- An empty queue whose fixed region starts at entry index i (R27, R54). -/
def Queue.empty (i : Nat) : Queue :=
  { ents := [], isn := 0, seq := 0, head := BitVec.ofNat 32 i, tail := BitVec.ofNat 32 i, segs := [], stopped := false,
    mpc := 0 }

/-- An empty operand slot. -/
def Slot.empty : Slot := { full := false, cnt := 0, kb := 0, fmt := 0, spn := 0, blocks := [] }

/-- A closed z tile with valid zero predictions (Table 6.1, Table 1.10). -/
def ZTile.reset : ZTile :=
  { wm := 128, zanc := 0, cvalid := true, bm := none, cr := [], cc := [] }

/-- An IDLE ticket. -/
def Ticket.idle : Ticket :=
  { st := 0, bva := 0, bsva := 0, kb := 0, n := 0, yoff := 0, anchor := 0, vec := [], pins := [],
    res := [], err := none }

/-- The matrix engine at launch entry (Table 6.1). -/
def Mxe.reset : Mxe :=
  { shape := 0, za := List.replicate 128 0, zb := List.replicate 128 0, bitmap := 0, coding := 0, csMode := 0,
    a0 := Slot.empty, a1 := Slot.empty, b0 := Slot.empty, b1 := Slot.empty, z := Vector.replicate 16 ZTile.reset,
    tickets := Vector.replicate 4 Ticket.idle, cscor := 0, csflt := 0, anchor := 0 }

/-- The vector engine at launch entry (Table 7.1); HI and LO of an EMPTY RNG hold 0, which the spec does not say (log entry 90). -/
def Vxe.reset : Vxe :=
  { v := Vector.replicate 32 0, m := Vector.replicate 8 0, hi := 0, lo := 0, empty := true }

/-- No arms, not stopped. -/
def Dbg.none : Dbg :=
  { stopped := false, allStop := false, allArm := false, allStep := false, stopAt := Option.none, codes := [], addrs := [], watch := Option.none,
    passAddr := Option.none, passEntry := Option.none, trigger := 0, restart := false, allDue := false }

/-- The first entry index of a queue's fixed region for a TCFG value (R27): offsets S - 48, S - 32, S - 16 KiB. -/
def ringBase (tcfg : Word) (q : Q) : Nat :=
  fld tcfg 3 0 * 8192 - (match q with | .l => 768 | .x => 512 | .s => 256)

/-- A tile after package reset: Table 1.1's reset values, TCFG 2, everything else empty or zero. MCAP is the
configuration record's; before the record is applied it is 0 (log entry 5). -/
def Tile.reset : Tile :=
  { tcc := Tcc.reset, cont := none, bound := none, ltn := 0, lrect := 0, lid := 0, rcba := 0, cpri := 0, frm := 0,
    jca := 0, lq := Queue.empty (ringBase 2 .l), xq := Queue.empty (ringBase 2 .x), sq := Queue.empty (ringBase 2 .s),
    seqw := 0, lx := 0, xl := 0, xs := 0, sx := 0, tags := 0, tagn := 0, bst := [], scc := 0, tcfg := 2, fstat := 0,
    msea := 0, seed := 0, seedNext := [], mcap := 0, dqn := 0, xret := [], mxe := Mxe.reset, vxe := Vxe.reset, frz := false,
    faults := [], iss := Vector.replicate 4 0, ack := Vector.replicate 4 0, groups := [], openBatch := [],
    batches := [], l1 := [], tlb := [], arrivals := [], held := [], gated := false, ballast := none,
    barWait := none, tapered := false, dbg := Dbg.none, counters := [], oos := false, oosLater := false, stall := 0, mcapNext := 0, linesOut := [], trapRegion := 0,
    fresh := false }

/-- A launch queue after reset (Tables 11.1 to 11.3). -/
def LQueue.reset : LQueue :=
  { cfg := 0, base := 0, crbase := 0, tail := 0, head := 0, crtail := 0, crhead := 0, waiting := [] }

/-- A FREE coding register. -/
def Opr.free : Opr :=
  { inj := 0, st := 0, opd := 0, arr := 0, eras := 0, susp := 0, bas := 0, nsur := 0, ost := 0, opdie := 0, nsyn := 0, ncor := 0,
    desc := none, launch := 0, fout := 3, late := [], posted := false, c := [],
    outer := none, inner := [], tst := [], gone := 0 }

/-- An idle re-sharding engine (Table 12.9). -/
def Reshard.idle : Reshard :=
  { src := 0, dst := 0, cur := 0, plan := 0, pcnt := 0, st := 0, err := 0, chunks := [], done := 0, host := false,
    pausing := false, far := [], loading := false, resume := false }

/-- Boot state at power good: nothing in the flash and slots of a bare module (log entry 6). -/
def Fw.reset : Fw :=
  { boot := 0, flashA := none, flashB := none, initFails := [], cfg := none, slot0 := none, slot1 := none, act := false,
    bootSlot := false, st := 0, result := 0, svn := 0, fwimg := 0, hova := 0, fwhb := 0, ctl := 0, beat0 := 0,
    deadline := 0, verified := false, beat := false, mr0 := 0, mr1 := 0, mr2 := 0, root := 0, base := 0, lines := 0, code := [], trapBase := 0, trapLines := 0,
    trapEntry := 0 }

/-- The mailbox at reset (R469, R470). -/
def Mbox.reset : Mbox :=
  { duty := 0, h2d := 0, d2h := 0, h2df := false, d2hf := false, d2hWait := [], reqs := [], nextTag := 0,
    h2dWait := [], dbgHeld := [], reqHeld := [], out := [], msix := [], msixTab := [] }

/-- No trace, no sweeper (R481, R483). -/
def Trace.reset : Trace :=
  { on := false, pa := 0, sz := 0, n := 0, cntOn := false, cntPa := 0, period := 0, swept := 0, sweeps := [], headed := 0, swAt := [],
    last := [], pkg := [], stops := [] }

/-- The package right after reset (R9's Reset columns, R464): step 1 of Table 14.3 has started the bed clock, the boot
ROM has not yet run, the management cores are held. -/
def State.reset : State :=
  { mem := [], blocks := [], tiles := [], cores := Vector.replicate 4 { Tcc.reset with stopped := true }, who := .core 0,
    agenda := [], bedt := 0, htlb := [], hfar := [], lqs := [], launches := [], nextLaunch := 0, rrQueue := 0, reading := none, reads := 0, oprs := [],
    gov := { rate := 600, itile := 12, balen := true, next := none, pending := [], groups := 0, ballast := 0, slot := 0, used := 0 },
    objs := [], objstat := [], net := [], nextRid := 0, slotTabs := [], linkDown := [], linkFails := [], ports := [],
    dead := 0, routes := [], ftmo := [], logs := [], windows := [], scrubs := [], bad := [], armed := [],
    ring := { en := false, sz := 0, base := 0, tail := 0, head := 0, lost := 0 }, suspects := [], diesOut := [],
    retired := [], segsFree := [], patterns := [], reshard0 := Reshard.idle, reshard1 := Reshard.idle,
    pr := { st := 0, refd := false, tfail := false }, fw := Fw.reset,
    mbox := Mbox.reset, trace := Trace.reset,
    free := 0 }

end Sys2Proof.Machine
end

