-- ==== Sys2Proof/Machine/Mem.lean ====
section
/-! DEFINITION. Memory: the list of cells in its canonical form, the physical address map (R52, R314, R315) and the
bytes behind a physical address. -/

namespace Sys2Proof.Machine

/-- The canonical form: addresses strictly rising from `lo`, no entry that holds zero. -/
def Memory.wfFrom : Nat → Memory → Bool
  | _, [] => true
  | lo, (a, b) :: r => decide (lo ≤ a) && decide (b ≠ 0) && Memory.wfFrom (a + 1) r

/-- The canonical form of a memory. -/
def Memory.wf (m : Memory) : Bool := Memory.wfFrom 0 m

/-- The byte at an address. -/
def Memory.get : Memory → Nat → Byte
  | [], _ => 0
  | (a, b) :: r, k => if a = k then b else Memory.get r k

/-- Writes one byte and keeps the canonical form. -/
def Memory.set : Memory → Nat → Byte → Memory
  | [], k, v => if v = 0 then [] else [(k, v)]
  | (a, b) :: r, k, v =>
    if k < a then (if v = 0 then (a, b) :: r else (k, v) :: (a, b) :: r)
    else if k = a then (if v = 0 then r else (k, v) :: r)
    else (a, b) :: Memory.set r k v

/-- The n bytes from an address. -/
def Memory.getN (m : Memory) (k : Nat) : (n : Nat) → List Byte
  | 0 => []
  | n + 1 => m.get k :: Memory.getN m (k + 1) n

/-- Writes a byte string. -/
def Memory.setN (m : Memory) (k : Nat) : List Byte → Memory
  | [] => m
  | b :: bs => Memory.setN (m.set k b) (k + 1) bs

/-- Zeroes the n bytes from an address. -/
def Memory.clear : Memory → Nat → Nat → Memory
  | [], _, _ => []
  | (a, b) :: r, k, n => if k ≤ a ∧ a < k + n then Memory.clear r k n else (a, b) :: Memory.clear r k n

/-! ### Physical addresses -/

/-- What a 52-bit physical address names (Table 9.2, R52). -/
inductive Place where
  /-- A byte of HBM4E of this package: stack and stack offset (R315). -/
  | hbm (stack off : Nat)
  /-- A byte of a tile window of this package: gid and local offset. -/
  | tile (gid off : Nat)
  /-- Another package. -/
  | far (pkg : Nat)
  /-- A byte behind a lathe die that is out of service (R396; R2 for its stack). -/
  | out
  | reserved
  deriving DecidableEq, Repr

/-- 48 GiB: the bytes of one stack (Table 9.2). -/
def stackBytes : Nat := 48 * 2 ^ 30

/-- The compressible range of a stack (R321): first offset and length. -/
def State.compRange (s : State) (st : Nat) : Nat × Nat :=
  match s.fw.cfg with
  | some c => AMap.getD c.comp st (0, 0)
  | none => (0, 0)

/-- Bytes of a stack's metadata area (R321): 2 bits for each block of its compressible range. -/
def State.metaBytes (s : State) (st : Nat) : Nat := cdiv (s.compRange st).2 512

/-- The configuration record leaves a socket out of service (R464). -/
def State.sockOut (s : State) (sock : Nat) : Bool :=
  match s.fw.cfg with
  | some c => c.oosSocks.contains sock
  | none => false

/-- The stack and the stack offset of an HBM4E address, interleaved or stack-linear (R315, Table 9.2). -/
def stackOf (pa : Nat) : Nat × Nat :=
  if bitsN pa 50 49 = 0 then (bitsN pa 15 12 ^^^ bitsN pa 27 24, bitsN pa 39 16 * 2 ^ 12 + bitsN pa 11 0)
  else (bitsN pa 39 36, bitsN pa 35 0)

/-- The physical address map (Table 9.2). -/
def State.mapped (s : State) (pa : Nat) : Place :=
  if pa / 2 ^ 51 % 2 = 0 then
    let r := bitsN pa 50 49
    let p := bitsN pa 48 40
    if r = 0 then
      let o := bitsN pa 39 0
      if 768 * 2 ^ 30 ≤ o then .reserved
      else if p ≠ 0 then .far p
      else .hbm (stackOf pa).1 (stackOf pa).2
    else if r = 1 then
      let off := bitsN pa 35 0
      if stackBytes - s.metaBytes (bitsN pa 39 36) ≤ off then .reserved
      else if p ≠ 0 then .far p
      else .hbm (stackOf pa).1 (stackOf pa).2
    else .reserved
  else if bitsN pa 51 44 = 0xFF ∧ bitsN pa 43 41 = 0 then
    if bitsN pa 40 32 ≠ 0 then .far (bitsN pa 40 32) else .tile (bitsN pa 31 24) (bitsN pa 23 0)
  else .reserved

/-- The storage that a physical address names: the map, but for what stands in or behind a socket that is out of service (R396). Stack s
is socket s + 17 and is reached through die s + 1 (R2, R315), tile gid stands on die gid / 16 + 1. -/
def State.home (s : State) (pa : Nat) : Place :=
  match s.mapped pa with
  | .hbm st off => if s.sockOut (st + 1) || s.sockOut (st + 17) then .out else .hbm st off
  | .tile g off => if s.sockOut (g / 16 + 1) then .out else .tile g off
  | .far p => .far p
  | .out => .out
  | .reserved => .reserved

/-- A tile that a pre-emption has saved and that no other launch has taken since (R443). -/
def State.savedTile (s : State) (g : Nat) : Bool :=
  (AMap.getD s.tiles g Tile.reset).bound.isNone && s.launches.any (fun e => decide (e.2.st = .saved) && e.2.tiles.contains g)

/-- What an access at a physical address reaches. The window of a saved tile is reached by a packet (`far 0`), which is held until the
tile is restored, with its timeout running (R443, R407). -/
def State.place (s : State) (pa : Nat) : Place :=
  match s.home pa with
  | .hbm st off => .hbm st off
  | .tile g off => if s.savedTile g then .far 0 else .tile g off
  | .far p => .far p
  | .out => .out
  | .reserved => .reserved

/-- The physical window of a tile (R52). -/
def tileBase (gid : Nat) : Nat := 0xFF * 2 ^ 44 + gid * 2 ^ 24

/-- The canonical address of a place: the stack-linear address, or the window address. -/
def Place.key : Place → Nat
  | .hbm st off => 2 ^ 49 + st * 2 ^ 36 + off
  | .tile g off => tileBase g + off
  | .far _ => 0
  | .out => 0
  | .reserved => 0

/-- The physical address of a stored word w, in the form in which an access named its bytes: pa names the byte of key (the
EINFO of a memory error, Table 13.4; log entry 35). -/
def wordPa (pa key w : Nat) : BitVec 64 := BitVec.ofNat 64 (pa + w - key)

/-- The pieces of an access that do not cross a multiple of `al`: (address, length) pairs, at most `fuel` of them. -/
def pieces (al : Nat) : (fuel : Nat) → (va n : Nat) → List (Nat × Nat)
  | 0, _, _ => []
  | f + 1, va, n =>
    if n = 0 then []
    else
      let m := Nat.min n (al - va % al)
      (va, m) :: pieces al f (va + m) (n - m)

/-! ### Tiles and local offsets -/

/-- Tile gid. -/
def State.tile (s : State) (g : Nat) : Tile := AMap.getD s.tiles g Tile.reset

/-- Replaces tile gid. -/
def State.setTile (s : State) (g : Nat) (t : Tile) : State := { s with tiles := AMap.put s.tiles g t }

/-- Changes tile gid. -/
def State.updTile (s : State) (g : Nat) (f : Tile → Tile) : State := s.setTile g (f (s.tile g))

/-- S of R27: the size of the scratchpad in bytes. -/
def Tile.spBytes (t : Tile) : Nat := fld t.tcfg 3 0 * 524288

/-- DQON. -/
def Tile.dqon (t : Tile) : Bool := bit t.tcfg 4

/-- First byte of the z tiles, of the atomic region, and the first reserved byte after it (Table 1.9). -/
def zBase : Nat := 0x600000
/-- First byte of the atomic region. -/
def atomBase : Nat := 0x880000
/-- First byte after the atomic region. -/
def atomEnd : Nat := 0x8C0000

/-- Two byte ranges overlap. -/
def overlap (a n b m : Nat) : Bool := decide (a < b + m) && decide (b < a + n) && decide (0 < n) && decide (0 < m)

/-- A range touches a local offset that has no memory (R46, R50). -/
def Tile.offBad (t : Tile) (off n : Nat) : Bool :=
  overlap off n t.spBytes (zBase - t.spBytes) || decide (atomEnd < off + n)

/-- A range touches a chain region, or the deferral area while it is reserved (R28, R48). -/
def Tile.inQueues (t : Tile) (off n : Nat) : Bool :=
  let lo := t.spBytes - (if t.dqon then 304 * 1024 else 48 * 1024)
  overlap off n lo (t.spBytes - lo)

/-- A range touches the z tiles. -/
def inZ (off n : Nat) : Bool := overlap off n zBase (atomBase - zBase)

/-- A range is whole accumulator words (R44). -/
def wholeWords (off n : Nat) : Bool := decide (zBase ≤ off) && decide ((off - zBase) % 10 = 0) && decide (n % 10 = 0)

/-- Some row of a z tile in the range is not yet final (R43). -/
def Tile.rowOpen (t : Tile) (off n : Nat) : Bool :=
  let lo := Nat.max off zBase
  let hi := Nat.min (off + n) atomBase
  inZ off n &&
  (List.finRange 16).any (fun z =>
    let zt := t.mxe.z[z]
    let b := zBase + z.val * 0x28000 + zt.wm * 1280
    overlap lo (hi - lo) b (zBase + (z.val + 1) * 0x28000 - b))

/-- Offset of accumulator word (row, col) of zn (R40). -/
def zOff (n row col : Nat) : Nat := zBase + n * 0x28000 + (row * 128 + col) * 10

/-! ### Storage errors (R448 to R455) -/

/-- The protected word that holds a byte: 8 bytes in a tile, a 64-byte codeword in HBM4E (R448). -/
def protWord (key : Nat) : Nat × Nat :=
  if 0xFF * 2 ^ 44 ≤ key then (key / 8 * 8, 8) else (key / 64 * 64, 64)

/-! ### Blocks of the compressible ranges (R320, R321) -/

/-- A canonical address lies in the compressible range of its stack. -/
def State.compressible (s : State) (key : Nat) : Bool :=
  decide (key < 0xFF * 2 ^ 44) &&
  (let r := s.compRange (bitsN key 39 36)
   decide (r.1 ≤ bitsN key 35 0) && decide (bitsN key 35 0 < r.1 + r.2))

/-- The block that holds a byte. -/
def State.block (s : State) (key : Nat) : Blk := AMap.getD s.blocks (key / 128) { st := 3, held := false, dirty := none }

/-- Replaces the block that holds a byte. -/
def State.setBlock (s : State) (key : Nat) (b : Blk) : State := { s with blocks := AMap.put s.blocks (key / 128) b }

/-- A block leaves its home slice: written with CMP = 1 it gets a state that is large enough, else state 3 (R321). -/
def State.blockLeave (s : State) (key : Nat) : State :=
  let b := s.block key
  match b.dirty with
  | none => s
  | some c =>
    { s with free := s.free + 1 }.setBlock key { b with dirty := none, st := if c then Config.blockState s.free else 3 }

/-- Visits the blocks of n bytes that lie in a compressible range. -/
def State.eachBlock (s : State) (key n : Nat) (f : State → Nat → State) : State :=
  if s.fw.cfg.isNone || n = 0 then s
  else (List.range ((key + n - 1) / 128 - key / 128 + 1)).foldl (fun s i =>
    let k := (key / 128 + i) * 128
    if s.compressible k then f s k else s) s

/-- An access through a page with CMP = 1 fills the states of its blocks (R321). -/
def State.blockRead (s : State) (cmp : Bool) (key n : Nat) : State :=
  if !cmp then s else s.eachBlock key n (fun s k => s.setBlock k { s.block k with held := true })

/-- A write through a page with or without CMP = 1; the block may leave its slice now (R321). -/
def State.blockWrite (s : State) (cmp : Bool) (key n : Nat) : State :=
  s.eachBlock key n (fun s k =>
    let b := s.block k
    let s := s.setBlock k { b with held := b.held || cmp, dirty := some cmp }
    if Config.blockLeaves s.free then { s with free := s.free + 1 }.blockLeave k else { s with free := s.free + 1 })

/-- A compressed-page miss (R321): the page has CMP = 1 and the metadata cache does not hold the state of the block, or has
replaced it. A block outside the range, always in state 3, never misses (log entry 79). -/
def State.blockMiss (s : State) (cmp : Bool) (key : Nat) : Bool × State :=
  if !cmp || !s.compressible key then (false, s)
  else
    let b := s.block key
    if b.held && Config.metaHeld s.free then (false, { s with free := s.free + 1 })
    else (true, { s with free := s.free + 1 }.setBlock key { b with held := false })

/-- The home slice rewrites the blocks of a range in state 3 (R321, R238). -/
def State.blockFlat (s : State) (key n : Nat) : State :=
  s.eachBlock key n (fun s k => s.setBlock k { s.block k with dirty := none, st := 3 })

/-- Bed time in nanoseconds (R456). -/
def State.ns (s : State) : Nat := s.bedt.toNat / 2

end Sys2Proof.Machine
end

