-- ==== Sys2Proof/Machine/Net.lean ====
section
/-! DEFINITION. Packets and Kwaup flits (spec/12_fabric_pairing_resharding.md R393, R402 to R405): how a request is sent,
inside the package as a record in `State.net`, to another package as flits of a port besides. -/

namespace Sys2Proof.Machine

/-- A packet with every field empty but its type, its sender and its address. -/
def Pkt.make (typ : PktT) (rid : Nat) (src : Agent) (addr : Nat) (now : Word) : Pkt :=
  { typ := typ, path := 0, rid := rid, src := src, q := .l, isn := 0, tcc := true, region := 0, launch := none,
    cmd := 0, eff := false, counts := false, dpkg := 0, spkg := 0,
    srct := 0, frid := 0, addr := addr, len := 0, data := [], cnt := 0, last := false, aop := 0, grp := 0, epoch := 0,
    code := 0, flagBit := false, scope := .domain, wide := false, add := false, so := false, uo := false,
    pin := none, dst := 0, router := none,
    budget := 0, sent := now, resent := now, refused := false, objGone := false }

/-- Puts a packet into the network. -/
def State.send (s : State) (p : Pkt) : State := { s with net := s.net ++ [p] }

/-- Changes the packet of a request identifier. -/
def State.updPkt (s : State) (rid : Nat) (f : Pkt → Pkt) : State :=
  { s with net := updWhere (fun p => decide (p.rid = rid)) f s.net }

/-- The packet of a request identifier. -/
def State.pkt? (s : State) (rid : Nat) : Option Pkt := s.net.find? (fun p => decide (p.rid = rid))

/-- Takes a packet out of the network. -/
def State.dropPkt (s : State) (rid : Nat) : State := { s with net := s.net.filter (fun p => decide (p.rid ≠ rid)) }

/-! ### Headers (Tables 12.2 and 12.3) -/

/-- TYPE of a packet. -/
def PktT.code : PktT → Nat
  | .rd => 1 | .rdr => 2 | .wr => 3 | .wack => 4 | .addw => 5 | .atm => 6 | .atmr => 7 | .put => 8 | .flag => 9
  | .qpush => 10 | .qpop => 11 | .qrsp => 12 | .err => 13 | .hnak => 14 | .ctrl => 15 | .reserved => 0

/-- The type of a TYPE byte. -/
def PktT.ofCode (c : Nat) : PktT :=
  match c with
  | 1 => .rd | 2 => .rdr | 3 => .wr | 4 => .wack | 5 => .addw | 6 => .atm | 7 => .atmr | 8 => .put | 9 => .flag
  | 10 => .qpush | 11 => .qpop | 12 => .qrsp | 13 => .err | 14 => .hnak | 15 => .ctrl | _ => .reserved

/-- An answer (the response class RSP). -/
def PktT.isAnswer : PktT → Bool
  | .rdr => true | .wack => true | .atmr => true | .qrsp => true | .err => true | .hnak => true
  | .rd => false | .wr => false | .addw => false | .atm => false | .put => false | .flag => false | .qpush => false
  | .qpop => false | .ctrl => false | .reserved => false

/-- What the request asked for has been performed, or refused for good: an answer is on its way, but for HNAK (R412). -/
def PktT.performed (t : PktT) : Bool := t.isAnswer && decide (t ≠ .hnak)

/-- What the request asked for has not been performed: it is on its way, or an ERR that ends the domain is (R279). -/
def PktT.undone (t : PktT) : Bool := !t.performed || decide (t = .err)

/-- An effect that DEAD and TIMEOUT leave unknown (R408). -/
def PktT.effects : PktT → Bool
  | .wr => true | .addw => true | .put => true | .flag => true | .atm => true | .qpush => true
  | .rd => false | .rdr => false | .wack => false | .atmr => false | .qpop => false | .qrsp => false | .err => false
  | .hnak => false | .ctrl => false | .reserved => false

/-- WHERE of a tile (Table 13.5): socket of its lathe die, tile within the die. -/
def whereTile (gid : Nat) : Nat := gid / 16 + 1 + gid % 16 * 64

/-- SRCT of an agent: socket and tile (R393). -/
def Agent.srct : Agent → Nat
  | .tile g => whereTile g
  | .core n => n * 64
  | .reshard n => 33 + n
  | .headstock => 0

/-- The socket and tile that a physical address names, within its own package. -/
def State.homeOf (s : State) (addr : Nat) : Nat :=
  let clean := if addr / 2 ^ 51 % 2 = 0 then addr - bitsN addr 48 40 * 2 ^ 40 else addr - bitsN addr 40 32 * 2 ^ 32
  match s.mapped clean with
  | .hbm st _ => 17 + st
  | .tile g _ => whereTile g
  | .far _ => 0
  | .out => 0
  | .reserved => 0

/-- The socket and tile to which a request goes: an object's home (R202), the register's socket (R462), or what its physical
address names. -/
def State.dstOf (s : State) (p : Pkt) : Nat :=
  match p.typ with
  | .qpush => bitsN p.addr 25 20
  | .qpop => bitsN p.addr 25 20
  | .ctrl => bitsN p.addr 31 26 + bitsN p.addr 25 22 * 64
  | _ => s.homeOf p.addr

/-- AUXF (Table 12.2). -/
def Pkt.auxf (p : Pkt) : Nat :=
  match p.typ with
  | .addw => b2n p.wide
  | .atm => p.aop
  | .put => p.grp + p.epoch % 16 * 16
  | .flag => p.grp + p.epoch % 16 * 16
  | .err => p.code
  | _ => 0

/-- The payload of a packet. QRSP carries its value and EMPTY, ERR its EFFECT (log entry 25). -/
def Pkt.payload (p : Pkt) : List Byte :=
  match p.typ with
  | .qrsp => leBytes 8 p.cnt ++ [BitVec.ofNat 8 (b2n p.flagBit)]
  | .err => [BitVec.ofNat 8 (b2n p.flagBit)]
  | _ => p.data

/-- The bytes of a packet on a Kwaup link, given both ends and its identifier there. -/
def Pkt.bytes (p : Pkt) (srct dstt spkg dpkg rid : Nat) : List Byte :=
  let pay := p.payload
  let inl := decide (pay.length ≤ 32)
  let nfl := if inl then 1 else 1 + cdiv pay.length 64
  let len := if p.typ = .rd || (p.typ = .ctrl && pay.isEmpty) then p.len else pay.length
  leBytes 1 p.typ.code ++ leBytes 1 (p.path % 4 + b2n p.typ.isAnswer * 4 + b2n (p.last && decide (p.typ = .put)) * 16) ++ leBytes 2 srct ++
  leBytes 2 dstt ++ leBytes 2 spkg ++ leBytes 2 dpkg ++ leBytes 2 rid ++ leBytes 2 len ++ leBytes 1 nfl ++
  leBytes 1 p.auxf ++ leBytes 8 p.addr ++ leBytes 8 p.cnt ++
  (if inl then slice pay 0 32 else List.replicate 32 0 ++ slice pay 0 (64 * (nfl - 1)))

/-! ### Kwaup flits (Table 12.5) -/

/-- One bit of the CRC-64 of R402: ECMA-182, most significant bit first, start value 0 (log entry 26). -/
def crcBit (c : BitVec 64) : BitVec 64 := if c.msb then (c <<< 1) ^^^ 0x42F0E1EBA9EA3693 else c <<< 1

/-- One byte of the CRC. -/
def crcByte (c : BitVec 64) (b : Byte) : BitVec 64 :=
  (List.range 8).foldl (fun c _ => crcBit c) (c ^^^ ((b.zeroExtend 64) <<< 56))

/-- The CRC of a byte string. -/
def crc64 (bs : List Byte) : BitVec 64 := bs.foldl crcByte 0

/-- A flit of a kind, lane byte, sequence number and body. -/
def flitOf (ktype vl seq : Nat) (body : List Byte) : BitVec 1024 :=
  let h := leBytes 1 ktype ++ leBytes 1 vl ++ leBytes 2 seq ++ leBytes 2 0 ++ leBytes 2 0 ++ slice body 0 112
  BitVec.ofNat 1024 (ofBytes (h ++ leBytes 8 (crc64 h).toNat))

/-- A port that is down. -/
def Port.down : Port :=
  { up := false, rxSeq := 0, txSeq := 0, txq := [], ack := 0, rxBuf := [], resends := 0, retries := 0, lastTx := 0, lastRx := 0, peer := 0 }

/-- Port n. -/
def State.port (s : State) (n : Nat) : Port := AMap.getD s.ports n Port.down

/-- Replaces port n. -/
def State.setPort (s : State) (n : Nat) (p : Port) : State := { s with ports := AMap.put s.ports n p }

/-- Sends one flit from a port. -/
def State.sendFlit (s : State) (n ktype vl : Nat) (body : List Byte) : State :=
  let p := s.port n
  s.setPort n { p with txq := p.txq ++ [flitOf ktype vl p.txSeq.toNat body], txSeq := p.txSeq + 1, lastTx := s.bedt }

/-- Sends bytes from a port as DATA flits of 112 body bytes, the last one padded with zeros. -/
def State.sendBytes (s : State) (n vl : Nat) : (fuel : Nat) → List Byte → State
  | 0, _ => s
  | f + 1, bs => if bs.isEmpty then s else State.sendBytes (s.sendFlit n 0 vl (bs.take 112)) n vl f (bs.drop 112)

/-- The port by which a packet of a class leaves for a package: the set port that is up, with the shortest transmit queue, ties to
the lower port (R404, R405). -/
def State.routePort (s : State) (path pkg : Nat) : Option Nat :=
  let mask := AMap.getD s.routes (512 * path + pkg) 0
  ((List.range 24).filter (fun i => mask.getLsbD i && (s.port i).up)).foldl (fun (a : Option Nat) i => match a with
    | none => some i
    | some j => if (s.port i).txq.length < (s.port j).txq.length then some i else some j) none

/-- VL of the flits of a packet (Table 12.5): its class, RSP, and MGT for the CTRL traffic of the Headstock (R403). -/
def vlOf (typ : PktT) (path : Nat) : Nat := b2n (decide (typ = .ctrl)) + path % 4 * 2 + b2n typ.isAnswer * 8

/-- Sends the bytes of a packet to another package; nothing without a route. -/
def State.kwaup (s : State) (p : Pkt) (srct dstt dpkg rid : Nat) : Option State :=
  match s.routePort (p.path % 4) dpkg with
  | none => none
  | some n =>
    let bs := p.bytes srct dstt 0 dpkg rid
    some (s.sendBytes n (vlOf p.typ p.path) (bs.length + 1) bs)

/-- The answer to a request that could not be sent. -/
def Pkt.refuse (p : Pkt) (code : Nat) (effect : Bool) : Pkt := { p with typ := .err, code := code, flagBit := effect, router := none }

/-- Sends the flits of a request to another package, or answers it DEAD or NOROUTE (R404, R405). -/
def State.depart (s : State) (p : Pkt) : State :=
  if s.dead.getLsbD p.dpkg then s.updPkt p.rid (fun x => x.refuse 3 p.typ.effects)
  else match s.kwaup p p.src.srct (s.dstOf p) p.dpkg (p.rid % 65536) with
    | none => s.updPkt p.rid (fun x => x.refuse 2 false)
    | some s' => s'

/-- The package that a physical address or object ID names. -/
def farPkg (pa : Nat) : Nat := if pa / 2 ^ 51 % 2 = 0 then bitsN pa 48 40 else bitsN pa 40 32

/-- A package that the route tables of a class reach, and that is not known to be dead. -/
def State.reaches (s : State) (path pkg : Nat) : Bool := !s.dead.getLsbD pkg && (s.routePort (path % 4) pkg).isSome

/-- Sends a request: its record enters the network with a fresh identifier; one for another package departs, unless a router holds it
(R415). One for a package that cannot be reached is answered at once (R314). -/
def State.request (s : State) (p : Pkt) : State :=
  let p := { p with rid := s.nextRid, sent := s.bedt, resent := s.bedt }
  let s := { s with nextRid := s.nextRid + 1 }.send p
  if p.dpkg = 0 || (p.router.isSome && s.reaches p.path p.dpkg) then s else s.depart p

end Sys2Proof.Machine
end

