-- ==== Sys2Proof/Machine/Records.lean ====
section
/-! DEFINITION. What the device reports: counters (R483), trace records (R481), error records and their ring (R436,
R463), error logs with their windows and retirement (R451, R452), and mailbox messages (R470). -/

namespace Sys2Proof.Machine

/-- Advances a counter of a tile (Table 15.7). -/
def Tile.bump (t : Tile) (i : Nat) : Tile := { t with counters := AMap.put t.counters i (AMap.getD t.counters i 0 + 1) }

/-- PTILE (Table 1.1) of package 0. -/
def ptile (gid : Nat) : Nat := gid % 16 + gid / 16 * 16

/-- A word with flipped bits lies among n bytes of memory from an address on. -/
def BadWord.hits (w : BadWord) (key n : Nat) : Bool :=
  (decide (w.mark = .home) || decide (w.mark = .l2)) && overlap key n w.pa w.len

/-- A word fully covered by a write. -/
def covers (key n : Nat) (w : BadWord) : Bool := decide (key ≤ w.pa) && decide (w.pa + w.len ≤ key + n)

/-- A write that the machine itself makes, which no agent waits on: words it replaces whole are good again, and the bytes that
fall in an uncorrectable word which it covers in part are refused (R449, log entry 100). -/
def State.storeHome (s : State) (key : Nat) (bytes : List Byte) : State :=
  if s.bad.isEmpty then { s with mem := s.mem.setN key bytes }
  else
    let n := bytes.length
    let kept := s.bad.filter (fun w => w.hits key n && !covers key n w && !w.corr)
    { s with mem := kept.foldl (fun m w => m.setN w.pa (s.mem.getN w.pa w.len)) (s.mem.setN key bytes),
             bad := s.bad.filter (fun w => !w.hits key n || kept.contains w) }

/-- Writes bytes of the Headstock's own rings and areas at a physical address: at once in this package, by a packet to another one. -/
def State.putPa (s : State) (pa : Nat) (bs : List Byte) : State :=
  match s.place pa with
  | .hbm st off => (s.storeHome (Place.hbm st off).key bs).blockWrite false (Place.hbm st off).key bs.length
  | .tile g off => if (s.tile g).offBad off bs.length then s else s.storeHome (Place.tile g off).key bs
  | .far p => s.request { Pkt.make .wr 0 .headstock pa s.bedt with dpkg := p, len := bs.length, data := bs }
  | .out => s
  | .reserved => s

/-- Writes one trace record while TRACE is enabled (R481, Table 15.5). -/
def State.traceRec (s : State) (gid kind info : Nat) : State :=
  let r := s.trace
  if !r.on then s
  else
    let t := s.tile gid
    let phase := 1 - r.n / 2 ^ r.sz % 2
    let seq := match t.bound with
      | none => 0
      | some k => match AMap.find? s.launches k with
        | none => 0
        | some l => l.seq
    let bytes := leBytes 8 s.bedt.toNat ++ leBytes 8 t.scc.toNat ++ leBytes 4 t.ltn ++ leBytes 2 (whereTile gid) ++
      leBytes 1 kind ++ leBytes 1 (phase * 128) ++ leBytes 4 info ++ leBytes 4 seq
    let s := (s.updTile gid (fun t => t.bump 140)).putPa (r.pa + 32 * (r.n % 2 ^ r.sz)) bytes
    { s with trace := { r with n := r.n + 1 } }

/-- An error record (Table 13.5) before PHASE, TIME and LOST are filled in. -/
structure ErrRec where
  typ : Nat
  flg : Nat
  cause : Nat
  sub : Nat
  launchId : Nat
  seq : Nat
  region : Nat
  loc : Nat
  info : Nat
  cmd : Nat
  pc : Nat
  count : Nat
  deriving DecidableEq, Repr

/-- A record with every field zero but its type. -/
def ErrRec.ofType (t : Nat) : ErrRec :=
  { typ := t, flg := 0, cause := 0, sub := 0, launchId := 0, seq := 0, region := 0, loc := 0, info := 0, cmd := 0,
    pc := 0, count := 0 }

/-- The 64 bytes of a record. -/
def ErrRec.bytes (r : ErrRec) (phase time lost : Nat) : List Byte :=
  leBytes 1 r.typ ++ leBytes 1 (r.flg + phase * 128) ++ leBytes 1 r.cause ++ leBytes 1 r.sub ++ leBytes 4 r.launchId ++
  leBytes 4 r.seq ++ leBytes 2 r.region ++ leBytes 2 r.loc ++ leBytes 8 r.info ++ leBytes 8 r.cmd ++ leBytes 8 r.pc ++
  leBytes 8 time ++ leBytes 2 (Nat.min lost 65535) ++ leBytes 2 r.count ++ leBytes 12 0

/-- Raises an MSI-X vector (R472). -/
def State.msix (s : State) (v : Nat) : State := { s with mbox := { s.mbox with msix := v :: s.mbox.msix } }

/-- Sends an error record: written into the ring, or dropped and counted when the ring is full or off (R436, R463). -/
def State.sendRecord (s : State) (r : ErrRec) : State :=
  let g := s.ring
  if !g.en || decide (2 ^ g.sz ≤ (g.tail - g.head).toNat) then { s with ring := { g with lost := g.lost + 1 } }
  else
    let n := g.tail.toNat
    let phase := 1 - n / 2 ^ g.sz % 2
    let s := (s.msix 64).putPa (g.base.toNat + 64 * (n % 2 ^ g.sz)) (r.bytes phase s.ns g.lost)
    { s with ring := { g with tail := g.tail + 1, lost := 0 } }

/-- A record about a launch: LAUNCHID, SEQ, and NERR of its completion record (Table 11.8). -/
def State.sendLaunchRecord (s : State) (k : Nat) (r : ErrRec) : State :=
  match AMap.find? s.launches k with
  | none => s.sendRecord r
  | some l =>
    let s := { s with launches := AMap.put s.launches k { l with nerr := Nat.min (l.nerr + 1) (2 ^ 32 - 1) } }
    s.sendRecord { r with launchId := l.pkt.launchId, seq := l.seq }

/-! ### Logs, windows and retirement -/

/-- The key of a log: level of Table 13.7 and instance (gid, die - 1, stack, Tailstock). -/
def logKey (level inst : Nat) : Nat := level * 4096 + inst

/-- The reset value of a window register: N = 4, T = 1,000,000 (R452). -/
def windowReset : Word := BitVec.ofNat 64 (4 + 1000000 * 64)

/-- The key of a window register: one for each of levels 0 to 4 of a lathe die, one for each instance else (Table 14.2). -/
def windowKey (level inst : Nat) : Nat := logKey level (if level ≤ 2 then inst / 16 else inst)

/-- A window register. -/
def State.window (s : State) (key : Nat) : Word := AMap.getD s.windows key windowReset

/-- WHERE of a log's instance. -/
def whereLevel (level inst : Nat) : Nat :=
  if level ≤ 2 then whereTile inst
  else if level = 3 then inst + 1
  else if level = 4 then inst + 17
  else if level = 6 then inst + 33
  else 0

/-- Two records are about one unit (R452): LOC for most kinds; for a checksum correction at (i, j), i = LOC[7:0] and
j = LOC[15:8], its row or its column. -/
def sameUnit (row : Bool) (a b : LogRec) : Bool :=
  if a.kind = 4 then
    decide (b.kind = 4) && (if row then decide (fld a.loc 7 0 = fld b.loc 7 0) else decide (fld a.loc 15 8 = fld b.loc 15 8))
  else decide (b.kind ≠ 4) && decide (a.loc = b.loc)

/-- The row or column that a checksum correction is about, as `State.retired` holds it. -/
def lineOfMxe (inst : Nat) (loc : Word) (row : Bool) : Nat × Nat :=
  (logKey 2 inst, if row then fld loc 7 0 else 256 + fld loc 15 8)

/-- Takes a port out of every route-table mask. -/
def State.unroute (s : State) (port : Nat) : State :=
  { s with routes := s.routes.map (fun (k, m) => (k, setBit m port false)) }

/-- Takes a port down, as a dead peer's port (R405). -/
def State.portDown (s : State) (port : Nat) : State :=
  let s := match AMap.find? s.ports port with
    | none => s
    | some p => { s with ports := AMap.put s.ports port { p with up := false } }
  s.unroute port

/-- Takes a tile out of service, or, where it is bound to a launch or a saved launch holds it in its binding, once that launch has
reached DONE (Table 13.7, R443). -/
def State.tileOut (s : State) (g : Nat) : State :=
  if (s.tile g).bound.isSome then s.updTile g (fun t => { t with oosLater := true })
  else
    let holds := fun (l : Launch) => l.saved.any (fun x => decide (x.1 = g))
    if s.launches.any (fun e => holds e.2) then
      { s with launches := s.launches.map (fun (k, l) => (k, if holds l then
          { l with saved := l.saved.map (fun x => if x.1 = g then (x.1, { x.2.1 with oosLater := true }, x.2.2) else x) } else l)) }
    else s.updTile g (fun t => { t with oos := true })

/-- Retires a unit whose fault is lasting (Table 13.7); one that has been retired stays as it is. A row of a stack needs a spare; a
port goes down; LOC of level 7 is a lathe die up to 16, and a block of the pool store above (log entry 29). -/
def State.retireUnit (s : State) (level inst : Nat) (r : LogRec) (row : Bool) : State :=
  if level ≤ 2 then
    if r.kind = 4 then
      let u := lineOfMxe inst r.loc row
      if s.retired.contains u then s else
      { s with retired := u :: s.retired }.updTile inst (fun t =>
        let m := t.mcapNext
        let rows := fld m 7 0
        let cols := fld m 15 8
        let ret := Nat.min (fld m 31 24 + 1) 255
        let rows' := if row then rows - 1 else rows
        let cols' := if row then cols else cols - 1
        { t with mcapNext := BitVec.ofNat 64 (rows' + cols' * 256 + fld m 17 16 * 65536 + ret * 2 ^ 24) })
    else s.tileOut inst
  else if level = 5 then (if s.linkDown.contains r.loc.toNat then s else { s with linkDown := r.loc.toNat :: s.linkDown })
  else if level = 6 then s.portDown r.loc.toNat
  else if level = 7 then
    (if 16 < r.loc.toNat then { s with retired := (7, r.loc.toNat) :: s.retired }
     else if s.diesOut.contains r.loc.toNat then s
     else { s with diesOut := r.loc.toNat :: s.diesOut })
  else
    let k := logKey level inst
    let spares := match s.fw.cfg with
      | some c => AMap.getD c.spares inst 0
      | none => 0
    if s.retired.contains (k, r.loc.toNat) || (decide (level = 4) && decide (spares ≤ (s.retired.filter (fun x => decide (x.1 = k))).length))
    then s else { s with retired := (k, r.loc.toNat) :: s.retired }

/-- Appends a log record (R451) and applies the window of its level (R452), or sends a TYPE 2 record under host
aggregation (R469). -/
def State.logEvent (s : State) (level inst : Nat) (loc : Word) (kind : Nat) (inj : Bool) (src : Nat) : State :=
  let k := logKey level inst
  let r : LogRec := { time := BitVec.ofNat 64 s.ns, loc := loc, kind := kind, inj := inj, src := src, agg := bit s.mbox.duty 4 }
  let old := AMap.getD s.logs k (0, [])
  let log := (r :: old.2).take 64
  let s := { s with logs := AMap.put s.logs k (old.1 + 1, log) }
  let er : ErrRec := { ErrRec.ofType 2 with flg := b2n inj * 8, cause := level, loc := whereLevel level inst,
                                             info := loc.toNat }
  let win := s.window (windowKey level inst)
  let t0 := s.ns - fld win 37 6 * 1000
  let count := fun (row : Bool) =>
    (log.filter (fun q => sameUnit row r q && !q.inj && decide (t0 ≤ q.time.toNat))).length
  if r.agg then s.sendRecord { er with count := Nat.max (count true) (count false) }
  else if inj then s
  else
    let check := fun (row : Bool) (s : State) =>
      if fld win 5 0 < count row then
        (s.sendRecord { er with typ := 3, count := count row }).retireUnit level inst r row
      else s
    let s := if kind = 4 && decide (fld loc 7 0 = 255) then s else check true s
    if kind = 4 && decide (fld loc 15 8 ≠ 255) then check false s else s

/-! ### Reads and writes at the home -/

/-- Level and instance of the log of a byte's storage (Table 13.7). -/
def storeLevel (key : Nat) : Nat × Nat :=
  if 0xFF * 2 ^ 44 ≤ key then
    (if key % 2 ^ 24 < zBase then 1 else 2, bitsN key 31 24)
  else (4, bitsN key 39 36)

/-- The reader of a word in a log record (R451 bytes 18 and 19, R492): path C of a tile by its bit position in R104; the
spec gives no codes for the other agents (log entry 24). -/
def Agent.code : Agent → Nat
  | .tile _ => 0
  | .core n => 0x100 + n
  | .reshard n => 0x200 + n
  | .headstock => 0x300

/-- A word with flipped bits is one of a tile's own storage beside its memories. -/
def BadWord.ofTile (w : BadWord) (g : Nat) : Bool :=
  match w.mark with
  | .home => false
  | .l2 => false
  | .value => false
  | .packet => false
  | .checksum => decide (w.pa / 8192 = g)
  | .reg => decide (w.pa / 32 = g)
  | .pred => decide (w.pa / 8 = g)
  | .vreg => decide (w.pa / 32 = g)
  | .mask => decide (w.pa / 8 = g)
  | .queueBuf => decide (w.pa / 4 = g)
  | .slot => decide (w.pa / 4 = g)
  | .xret => decide (w.pa = g)

/-- Level and instance of the log of a word of memory (Table 13.7): L2's is the lathe die's that owns the stack (R2). -/
def BadWord.level (w : BadWord) : Nat × Nat := if w.mark = .l2 then (3, bitsN w.pa 39 36) else storeLevel w.pa

/-- The unit of a level 4 record is a row (Table 13.7); the spec gives no row size (log entry 17). -/
def locOf (key : Nat) : Word :=
  if 0xFF * 2 ^ 44 ≤ key then BitVec.ofNat 64 (bitsN key 31 24) else Config.unstated 1 [BitVec.ofNat 64 key]

/-- LOC of a word of memory: L2's unit is the 128-byte line. -/
def BadWord.loc (w : BadWord) : Word := if w.mark = .l2 then BitVec.ofNat 64 (w.pa / 128 * 128) else locOf w.pa

/-- Changes the INJA and INJC pair of an agent. -/
def State.updInj (s : State) (a : Agent) (f : Inj → Inj) : State :=
  match a with
  | .tile g => s.updTile g (fun t => { t with tcc := { t.tcc with inj := f t.tcc.inj } })
  | .core n => if h : n < 4 then { s with cores := s.cores.set n { s.cores[n] with inj := f s.cores[n].inj } } else s
  | .reshard _ => s
  | .headstock => s

/-- INJC once its error has struck: ARM := 0, FIRED := 1 (R455). -/
def injFired (i : Inj) : Inj := { i with injc := setBit (setBit i.injc 31 false) 30 true }

/-- What a read at the home gives: its bytes, the protected word that cannot be corrected if there is one, and the
state after it. -/
structure HomeRead where
  bytes : List Byte
  bad : Option Nat
  /-- An injected error of the read path changed the bytes (R455 KIND 3). -/
  inj : Bool
  s : State

/-- Flips bit b of a unit that starts at byte `u`, in the bytes read from `key`. -/
def flipAt (key : Nat) (bytes : List Byte) (u b : Nat) : List Byte :=
  let i := u + b / 8
  if i < key then bytes else bytes.modify (i - key) (fun x => x ^^^ BitVec.ofNat 8 (2 ^ (b % 8)))

/-- One armed error strikes a read of its unit (R455). KIND 2 stays in the unit of R453, which is the word that a write repairs (log
entry 37). -/
def strike (src : Nat) (key : Nat) (a : Armed) (h : HomeRead) : HomeRead :=
  let s := h.s.updInj a.agent injFired
  let s := { s with armed := s.armed.filter (fun x => decide (x ≠ a)) }
  let lv := storeLevel a.unit
  if a.kind = 1 then { h with s := s.logEvent lv.1 lv.2 (locOf a.unit) 1 true src }
  else if a.kind = 2 then
    { h with s := { s with bad := { mark := .home, pa := a.unit, len := a.len, corr := false, inj := true } :: s.bad } }
  else { h with s := s, inj := true, bytes := flipAt key h.bytes a.unit a.bit0 }

/-- A stored error meets a read: a correctable word is corrected and written back, an uncorrectable one is reported
(R448, R449). -/
def meetBad (src : Nat) (w : BadWord) (h : HomeRead) : HomeRead :=
  let s := h.s.logEvent w.level.1 w.level.2 w.loc (if w.corr then 1 else 2) w.inj src
  if w.corr then { h with s := { s with bad := s.bad.filter (fun x => decide (x ≠ w)) } }
  else { h with s := s, bad := some w.pa }

/-- A read of n bytes at their home by any access path (R312, R448, R455). -/
def State.readHome (s : State) (src : Nat) (key n : Nat) : HomeRead :=
  let h : HomeRead := { bytes := s.mem.getN key n, bad := none, inj := false, s := s }
  if s.armed.isEmpty && s.bad.isEmpty then h
  else
    let h := (s.armed.filter (fun a => overlap key n a.unit a.len)).foldr (strike src key) h
    (h.s.bad.filter (fun w => w.hits key n)).foldr (meetBad src) h

/-- A fault or an answer is caused by an injected error (R455): a memory error whose word, or a remote error MEM whose first
uncorrectable word from the accessed address on (an access is at most 256 bytes), holds an injected one. -/
def State.injCaused (s : State) (cause sub pa : Nat) : Bool :=
  if (cause = 9 ∧ sub = 1) ∨ (cause = 35 ∧ sub = 8) then
    let key := (s.home pa).key
    let ws := s.bad.filter (fun w => !w.corr && w.hits key (if cause = 9 then 1 else 256))
    ws.any (fun w => w.inj && ws.all (fun v => decide (w.pa ≤ v.pa)))
  else false

/-- The INJ flag of the record of a fault (Table 13.5). -/
def State.injFlag (s : State) (t : TrapI) : Nat := b2n (s.injCaused t.cause t.sub t.info.toNat) * 8

/-- A write of bytes at their home: a word it replaces whole is good again; a partial write of an uncorrectable word is
refused as a read would be (R449). -/
def State.writeHome (s : State) (key : Nat) (bytes : List Byte) : Except Nat State :=
  if s.bad.isEmpty then .ok { s with mem := s.mem.setN key bytes }
  else
    let n := bytes.length
    let hit := s.bad.filter (fun w => w.hits key n && !covers key n w && !w.corr)
    match hit with
    | w :: _ => .error w.pa
    | [] =>
      .ok { s with mem := s.mem.setN key bytes,
                   bad := s.bad.filter (fun w => !w.hits key n) }

/-! ### Messages to the host -/

/-- Offers a message in D2H; it waits while D2HF is set (R470). -/
def State.postD2h (s : State) (bytes : List Byte) : State :=
  let m : BitVec 2048 := BitVec.ofNat 2048 (ofBytes (bytes.take 256))
  let b := s.mbox
  if b.d2hf then { s with mbox := { b with d2hWait := b.d2hWait ++ [m] } }
  else State.msix { s with mbox := { b with d2h := m, d2hf := true } } 65

/-- Posts a request of a function to the host (R469): FN, a fresh tag, the payload. -/
def State.postNow (s : State) (fn about : Nat) (payload : List Byte) : State :=
  let tag := s.mbox.nextTag
  let s := s.postD2h (leBytes 4 fn ++ leBytes 4 tag ++ payload)
  { s with mbox := { s.mbox with reqs := s.mbox.reqs ++ [{ tag := tag, fn := fn, about := about, data := payload }],
                                 nextTag := (tag + 1) % 2 ^ 32 } }

/-- Posts a request, or holds it while a firmware update runs (R467, R510); one of VAL, which QUIESCE waits for, is posted (R508, log
entry 103). -/
def State.postRequest (s : State) (fn about : Nat) (payload : List Byte) : State :=
  if s.fw.st = 0 || decide (fn = 1) then s.postNow fn about payload
  else { s with mbox := { s.mbox with reqHeld := s.mbox.reqHeld ++ [(fn, about, payload)] } }

/-- A request of a function about a thing is posted, or held. -/
def Mbox.asked (b : Mbox) (fn about : Nat) : Bool :=
  b.reqs.any (fun r => decide (r.fn = fn) && decide (r.about = about)) || b.reqHeld.any (fun r => decide (r.1 = fn) && decide (r.2.1 = about))

/-- Posts the requests that were held. -/
def State.postHeld (s : State) : State :=
  s.mbox.reqHeld.foldl (fun s r => s.postNow r.1 r.2.1 r.2.2) { s with mbox := { s.mbox with reqHeld := [] } }

end Sys2Proof.Machine
end

