-- ==== Sys2Proof/Machine/Translate.lean ====
section
/-! DEFINITION. Translation (R52, R316 to R319): the page-table walk, the translation caches, the launch window. -/

namespace Sys2Proof.Machine

/-- A trap with its EINFO. -/
def TrapI.mk3 (cause sub : Nat) (info : Word) : TrapI :=
  { cause := cause, sub := sub, info := info, epc := none, effect := false, eword := none }

/-- What an operation gives: a value and the next state; a trap or fault, with the state it leaves; or a wait, with the
state it waits in (R168). -/
inductive Res (α : Type) where
  | ok (a : α) (s : State)
  | trap (t : TrapI) (s : State)
  | wait (s : State)

/-- Runs f after an operation that succeeded. -/
def Res.andThen {α β : Type} (r : Res α) (f : α → State → Res β) : Res β :=
  match r with
  | .ok a s => f a s
  | .trap t s => .trap t s
  | .wait s => .wait s

/-- Whose page tables translate: those of a launch (its root from the packet, R316), or the firmware's own (R120, R433). -/
inductive Space where
  | launch (key : Nat)
  | firmware
  deriving DecidableEq, Repr

/-- What an access does (R317). -/
inductive AccKind where
  | rd | wr | ex
  deriving DecidableEq, Repr

/-- Page kinds (R317 ORD). -/
inductive PageKind where
  | so | rc | uo
  deriving DecidableEq, Repr

/-- A translated address: the physical address, the leaf entry, whether it came through the launch window, and the
translation used, which what is sent under it pins (R305). -/
structure Xlat where
  pa : Nat
  ent : Word
  win : Bool
  pin : Option TlbEnt
  deriving DecidableEq, Repr

/-- ORD of a leaf. -/
def Xlat.kind (x : Xlat) : PageKind := if fld x.ent 7 6 = 0 then .so else if fld x.ent 7 6 = 1 then .rc else .uo

/-- NL1 of a leaf; a window is never held in L1 (R53). -/
def Xlat.nl1 (x : Xlat) : Bool := x.win || bit x.ent 9

/-- The entry that stands for the launch window: R, W, PA, RC, no execute permission (R53, R100). -/
def winEntry : Word := 0x6F

/-- CMP of a leaf (R317). -/
def Xlat.cmp (x : Xlat) : Bool := bit x.ent 8

/-- The 8-byte entry i of the table at a physical address, read at its home in a walk for va (R318); a table outside this
package's HBM4E breaks R317, a word that cannot be corrected makes the walking access fault (R449). -/
def State.readPte (s : State) (src table i va : Nat) : Res Word :=
  let pa := table + 8 * i
  match s.place pa with
  | .hbm st off =>
    let key := (Place.hbm st off).key
    let h := s.readHome src key 8
    (match h.bad with
     | some w => .trap (TrapI.mk3 9 1 (wordPa pa key w)) h.s
     | none => .ok (BitVec.ofNat 64 (ofBytes h.bytes)) h.s)
  | .tile _ _ => .trap (TrapI.mk3 7 2 (BitVec.ofNat 64 va)) s
  | .far _ => .trap (TrapI.mk3 7 2 (BitVec.ofNat 64 va)) s
  | .out => .trap (TrapI.mk3 7 2 (BitVec.ofNat 64 va)) s
  | .reserved => .trap (TrapI.mk3 7 2 (BitVec.ofNat 64 va)) s

/-- The rules of R317 for a non-leaf entry. -/
def badBranch (lvl : Nat) (e : Word) : Bool := lvl = 0 || fld e 11 2 ≠ 0 || bit e 63

/-- The rules of R317 for a leaf, but for alignment. -/
def badLeaf (lvl : Nat) (e : Word) : Bool :=
  let ord := fld e 7 6
  decide (3 ≤ lvl) || (bit e 3 && !bit e 2) || ord = 3 || bit e 63 ||
  (fld e 51 44 = 0xFF && (ord ≠ 1 || bit e 8)) || (ord = 0 && bit e 8)

/-- Bytes mapped by a leaf of a level (R316). -/
def leafBytes (lvl : Nat) : Nat := 2 ^ (12 + 9 * lvl)

/-- The entries of a group agree with e but for SW (R318). -/
def State.contOk (s : State) (src table va : Nat) (e : Word) : List Nat → Res Bool
  | [] => .ok true s
  | i :: r =>
    (s.readPte src table i va).andThen fun x s =>
      let m : Word := ~~~(BitVec.ofNat 64 (2 ^ 63 - 2 ^ 52))
      if x &&& m = e &&& m then State.contOk s src table va e r else .ok false s

/-- The walk from a table at a level (R318): the translation of the page that holds va, or the translation fault. -/
def State.walk (s : State) (src : Nat) : (lvl : Nat) → (table va : Nat) → Res TlbEnt
  | lvl, table, va =>
    let i := va / 2 ^ (12 + 9 * lvl) % 512
    let bad := fun (sub : Nat) (s : State) => Res.trap (TrapI.mk3 7 sub (BitVec.ofNat 64 va)) s
    (s.readPte src table i va).andThen fun e s =>
      if !bit e 0 then bad 1 s
      else if bit e 1 then
        if badLeaf lvl e then bad 2 s
        else
          let size := leafBytes lvl * (if bit e 11 then 16 else 1)
          let ppn := fld e 51 12 * 4096
          if ppn % size ≠ 0 then bad 3 s
          else
            (if bit e 11 then s.contOk src table va e ((List.range 16).map (fun k => i / 16 * 16 + k)) else .ok true s).andThen
              fun ok s => if !ok then bad 4 s else .ok { space := 0, va := va / size * size, size := size, pa := ppn, ent := e } s
      else if badBranch lvl e then bad 2 s
      else match lvl with
        | 0 => bad 2 s
        | l + 1 => State.walk s src l (fld e 51 12 * 4096) va

/-- The root table of a space. -/
def State.rootOf (s : State) (sp : Space) : Nat :=
  match sp with
  | .launch k => match AMap.find? s.launches k with
    | some l => l.pkt.ptroot
    | none => 0
  | .firmware => s.fw.root

/-- The key under which a cache holds a space's translations. -/
def Space.key : Space → Nat
  | .launch k => k + 1
  | .firmware => 0

/-- The translations an agent holds (R319): a tile's, or the Headstock's own. -/
def State.tlbOf (s : State) (a : Agent) : List TlbEnt :=
  match a with
  | .tile g => (s.tile g).tlb
  | .core _ => s.htlb
  | .reshard _ => s.htlb
  | .headstock => s.htlb

/-- Adds a translation to those an agent holds. -/
def State.addTlb (s : State) (a : Agent) (e : TlbEnt) : State :=
  match a with
  | .tile g => s.updTile g (fun t => { t with tlb := e :: t.tlb })
  | .core _ => { s with htlb := e :: s.htlb }
  | .reshard _ => { s with htlb := e :: s.htlb }
  | .headstock => { s with htlb := e :: s.htlb }

/-- A translation is the one of a virtual address of a space. -/
def TlbEnt.covers (e : TlbEnt) (space va : Nat) : Bool := decide (e.space = space ∧ e.va ≤ va ∧ va < e.va + e.size)

/-- The address to which a translation leads va. -/
def TlbEnt.xlat (e : TlbEnt) (va : Nat) : Xlat := { pa := e.pa + (va - e.va), ent := e.ent, win := false, pin := some e }

/-- The permission check of a leaf (R318): M only first, then the missing read, write or execute permission. -/
def permFault (e : Word) (k : AccKind) (atM : Bool) (va : Nat) : Option TrapI :=
  if !atM && !bit e 5 then some (TrapI.mk3 8 4 (BitVec.ofNat 64 va))
  else match k with
    | .rd => if bit e 2 then none else some (TrapI.mk3 8 1 (BitVec.ofNat 64 va))
    | .wr => if bit e 3 then none else some (TrapI.mk3 8 2 (BitVec.ofNat 64 va))
    | .ex => if bit e 4 then none else some (TrapI.mk3 8 3 (BitVec.ofNat 64 va))

/-- Translation of one virtual address for an access of an agent (R52, R316 to R319). The value found is kept, and is used
until a TLBINV covers it. -/
def State.translate (s : State) (a : Agent) (sp : Space) (va : Nat) (k : AccKind) (atM : Bool) : Res Xlat :=
  let iv := BitVec.ofNat 64 va
  if 2 ^ 57 ≤ va then .trap (TrapI.mk3 5 0 iv) s
  else if bitsN va 56 48 = 0x1FF then
    let ltn := bitsN va 47 24
    let gid : Option Nat := match sp with
      | .launch key => match AMap.find? s.launches key with
        | some l => if l.st = .saved then none else l.tiles[ltn]?
        | none => none
      | .firmware => none
    match gid with
    | none =>
      (match sp with
       | .launch key => match AMap.find? s.launches key with
         | some l => if l.st = .saved then .wait s else .trap (TrapI.mk3 7 5 iv) s
         | none => .trap (TrapI.mk3 7 5 iv) s
       | .firmware => .trap (TrapI.mk3 7 5 iv) s)
    | some g =>
      match permFault winEntry k atM va with
      | some t => .trap t s
      | none => .ok { pa := tileBase g + bitsN va 23 0, ent := winEntry, win := true, pin := none } s
  else
    match (s.tlbOf a).find? (fun e => e.covers sp.key va) with
    | some e =>
      (match permFault e.ent k atM va with
       | some t => .trap t s
       | none => .ok (e.xlat va) s)
    | none =>
      (s.walk a.code 4 (s.rootOf sp) va).andThen fun e s =>
        let e := { e with space := sp.key }
        let s' := s.addTlb a e
        match permFault e.ent k atM va with
        | some t => .trap t s'
        | none => .ok (e.xlat va) s'

/-! ### Accesses of a control core to another package -/

/-- The access of the instruction in hand to another package (R314, R393): a request is sent once, the instruction waits,
and is executed again with the answer. -/
def farAccess (s : State) (far : List FarReq) (setFar : State → List FarReq → State) (p : Pkt) (wr : Bool) : Res (List Byte) :=
  match far.find? (fun r => decide (r.pa = p.addr) && decide (r.len = p.len) && (r.wr == wr)) with
  | none =>
    let r : FarReq := { rid := s.nextRid, pa := p.addr, len := p.len, wr := wr, ans := none, err := none }
    .wait ((setFar s (far ++ [r])).request p)
  | some r =>
    match r.err, r.ans with
    | some (e, eff), _ => .trap { (TrapI.mk3 35 e (BitVec.ofNat 64 p.addr)) with effect := eff } s
    | none, some bs => .ok bs s
    | none, none => .wait s

end Sys2Proof.Machine
end

