-- ==== Sys2Proof/Machine/Ops.lean ====
section
/-! DEFINITION. The shared operations of the control cores: registers, queues' completion, fault domains (R435), taking
a trap (R428) and returning from one (R303), retiring with the loop boundaries (R147 to R150), instruction fetch (R97 to
R101), and the accesses of the C path (R155 to R160). -/

namespace Sys2Proof.Machine

/-- What a step answers. -/
abbrev Out := Host.Outcome State Fault Refusal

/-! ### The control core that runs -/

/-- The control core of an agent. -/
def State.tccOf (s : State) (a : Agent) : Tcc :=
  match a with
  | .tile g => (s.tile g).tcc
  | .core n => if h : n < 4 then s.cores[n] else Tcc.reset
  | .reshard _ => Tcc.reset
  | .headstock => Tcc.reset

/-- Replaces the control core of an agent. -/
def State.setTcc (s : State) (a : Agent) (c : Tcc) : State :=
  match a with
  | .tile g => s.setTile g { s.tile g with tcc := c }
  | .core n => if h : n < 4 then { s with cores := s.cores.set n c } else s
  | .reshard _ => s
  | .headstock => s

/-- The control core that executes. -/
def State.cur (s : State) : Tcc := s.tccOf s.who

/-- Replaces the control core that executes. -/
def State.setCur (s : State) (c : Tcc) : State := s.setTcc s.who c

/-- Changes the control core that executes. -/
def State.updCur (s : State) (f : Tcc → Tcc) : State := s.setCur (f s.cur)

/-- True when a management core executes (R120). -/
def State.onCore (s : State) : Bool :=
  match s.who with
  | .tile _ => false
  | .core _ => true
  | .reshard _ => true
  | .headstock => true

/-- The gid of the executing tile (0 on a management core). -/
def State.gid (s : State) : Nat :=
  match s.who with
  | .tile g => g
  | .core _ => 0
  | .reshard _ => 0
  | .headstock => 0

/-- The executing tile. -/
def State.me (s : State) : Tile := s.tile s.gid

/-- Changes the executing tile. -/
def State.updMe (s : State) (f : Tile → Tile) : State := s.updTile s.gid f

/-- gr: g0 reads as zero (R16). -/
def Tcc.g (c : Tcc) (r : Reg) : Word := if r = 0 then 0 else c.regs[r.toNat]

/-- Writes gr: a write to g0 is discarded (R16). -/
def Tcc.setG (c : Tcc) (r : Reg) (v : Word) : Tcc := if r = 0 then c else { c with regs := c.regs.set r.toNat v }

/-- pr: p0 reads as 1 (R17). -/
def Tcc.pr (c : Tcc) (p : PReg) : Bool := if p = 0 then true else c.preds.getLsbD p.toNat

/-- Writes pr: a write to p0 is discarded (R17). -/
def Tcc.setP (c : Tcc) (p : PReg) (v : Bool) : Tcc := if p = 0 then c else { c with preds := setBit c.preds p.toNat v }

/-- Register r of the executing core. -/
def State.g (s : State) (r : Reg) : Word := s.cur.g r

/-- Predicate p of the executing core. -/
def State.pd (s : State) (p : PReg) : Bool := s.cur.pr p

/-- Writes register r of the executing core. -/
def State.setG (s : State) (r : Reg) (v : Word) : State := s.updCur (fun c => c.setG r v)

/-- Writes predicate p of the executing core. -/
def State.setP (s : State) (p : PReg) (v : Bool) : State := s.updCur (fun c => c.setP p v)

/-- Loop set n. -/
def Tcc.loop (c : Tcc) (n : Nat) : LoopSet := if n = 0 then c.loop0 else c.loop1

/-- Replaces loop set n. -/
def Tcc.setLoop (c : Tcc) (n : Nat) (l : LoopSet) : Tcc := if n = 0 then { c with loop0 := l } else { c with loop1 := l }

/-- STATUS (Table 1.2), with FRZ of the tile. -/
def Tcc.status (c : Tcc) (frz : Bool) : Word :=
  BitVec.ofNat 64 (b2n c.atM + (b2n (decide (c.loop0.lc ≠ 0)) + b2n (decide (c.loop1.lc ≠ 0))) * 2 + b2n frz * 8 +
    b2n c.intrap * 16 + b2n (c.pfx.isSome || c.pfxp) * 32)

/-- FRZ of the executing agent's tile. -/
def State.frzOf (s : State) (a : Agent) : Bool :=
  match a with
  | .tile g => (s.tile g).frz
  | .core _ => false
  | .reshard _ => false
  | .headstock => false

/-- Sets an event latch of a tile (R309). -/
def Tile.latch (t : Tile) (i : Nat) : Tile := { t with tcc := { t.tcc with latches := setBit t.tcc.latches i true } }

/-! ### Queues and completion (R24 to R31) -/

/-- Queue q of a tile. -/
def Tile.queue (t : Tile) (q : Q) : Queue :=
  match q with
  | .l => t.lq
  | .x => t.xq
  | .s => t.sq

/-- Replaces queue q. -/
def Tile.setQueue (t : Tile) (q : Q) (x : Queue) : Tile :=
  match q with
  | .l => { t with lq := x }
  | .x => { t with xq := x }
  | .s => { t with sq := x }

/-- Changes one queue of a tile. -/
def State.updQueue (s : State) (g : Nat) (q : Q) (f : Queue → Queue) : State :=
  s.updTile g (fun t => t.setQueue q (f (t.queue q)))

/-- Frees the completed entries at the head and moves the completion sequence number (R26, R29). -/
def Queue.settle (x : Queue) : Queue :=
  let r := x.ents.dropWhile (fun e => decide (e.st = .done))
  match r with
  | [] => { x with ents := [], seq := x.isn, head := x.tail }
  | e :: _ => { x with ents := r, seq := e.isn - 1, head := e.at_ }

/-- The command of a queue that has a number is uncompleted. -/
def Queue.pending (x : Queue) (isn : Word) : Bool := x.ents.any (fun e => decide (e.isn = isn) && decide (e.st ≠ .done))

/-- The capacity of a queue in entries (R27, QCAP). -/
def Queue.cap (x : Queue) : Nat := 256 + 256 * x.segs.length

/-- Entries not yet freed fill the queue (R29). -/
def Queue.isFull (x : Queue) : Bool := decide (x.cap ≤ x.ents.length)

/-- Writes the sequence mirror of one queue (R30). -/
def State.mirror (s : State) (g : Nat) (q : Q) : State :=
  let t := s.tile g
  if t.seqw = 0 then s
  else s.storeHome (tileBase g + t.seqw.toNat + 8 * q.code) (leBytes 8 (t.queue q).seq.toNat)

/-- A link lies in the segment of the shared buffer pool that starts at an index. -/
def inSeg (first : Nat) (at_ : BitVec 32) : Bool := bit at_ 31 && decide (fld at_ 23 0 / 256 * 256 = first)

/-- Takes one segment out of a chain (R389): links that led into it lead past it. -/
def Queue.dropSeg (x : Queue) (sg : Nat × BitVec 32 × BitVec 32 × Nat) : Queue :=
  { x with segs := (x.segs.filter (fun y => decide (y.1 ≠ sg.1))).map (fun y =>
      (y.1, (if inSeg sg.1 y.2.1 then sg.2.1 else y.2.1), (if inSeg sg.1 y.2.2.1 then sg.2.2.1 else y.2.2.1),
       y.2.2.2)) }

/-- Free segments of a die's shared buffer pool: 256 of 16 KiB each (R388). -/
def State.freeSegs (s : State) (die : Nat) : List Nat :=
  AMap.getD s.segsFree die ((List.range 256).map (fun i => i * 256))

/-- Returns the segments of a queue whose entries are all freed and which the tail has left (R389). -/
def State.returnSegs (s : State) (g : Nat) (q : Q) : State :=
  let t := s.tile g
  let x := t.queue q
  if x.segs.isEmpty then s
  else
    let out := x.segs.filter (fun sg => x.ents.isEmpty ||
      (!inSeg sg.1 x.tail && x.ents.all (fun e => !inSeg sg.1 e.at_)))
    let y := out.foldl Queue.dropSeg x
    let s := s.updTile g (fun t => t.setQueue q y)
    let s := { s with segsFree := AMap.put s.segsFree (g / 16) (s.freeSegs (g / 16) ++ out.map (fun sg => sg.1)) }
    match t.bound with
    | none => s
    | some k => match AMap.find? s.launches k with
      | none => s
      | some l =>
        let regs := out.foldl (fun rs sg => rs.modify sg.2.2.2 (fun r => { r with grown := r.grown - 16 })) l.regions
        { s with launches := AMap.put s.launches k { l with regions := regs } }

/-- A SEED written while commands that use SR were in XQ takes effect once they have all completed (R73). -/
def Tile.settleSeed (t : Tile) : Tile :=
  let due := t.seedNext.takeWhile (fun p => t.xq.ents.all (fun e => decide (e.st = .done) || decide (p.1 < e.isn)))
  match due.getLast? with
  | none => t
  | some p => { t with seed := p.2, seedNext := t.seedNext.drop due.length }

/-- A queue whose last entry has been freed: its head and tail return to the first entry of its fixed region (R389, log entry 47). -/
def Queue.home (x y : Queue) (base : Nat) : Queue :=
  if !x.ents.isEmpty && y.ents.isEmpty then { y with head := BitVec.ofNat 32 base, tail := BitVec.ofNat 32 base } else y

/-- Settles a queue; when its completion sequence number advances, the mirror is written (R30) and latch 4 set (R309). -/
def State.settleQueue (s : State) (g : Nat) (q : Q) : State :=
  let x := (s.tile g).queue q
  let y := Queue.home x x.settle (ringBase (s.tile g).tcfg q)
  let s := ((s.updTile g (fun t => t.setQueue q y)).returnSegs g q).updTile g Tile.settleSeed
  if y.seq = x.seq then s else (s.updTile g (fun t => t.latch 4)).mirror g q

/-- TAG of a command word, and whether it names one (majors 0x31 and 0x32, R108). -/
def tagOf (cmd : Word) : Option Nat :=
  if fld cmd 31 26 = 0x31 ∨ fld cmd 31 26 = 0x32 then some (fld cmd 41 36) else none

/-- The outstanding count of tag t (R36). -/
def Tile.tagCount (t : Tile) (i : Nat) : Nat := bitsN t.tagn.toNat (8 * i + 7) (8 * i)

/-- Sets the outstanding count of a tag. -/
def Tile.setTagCount (t : Tile) (i n : Nat) : Tile :=
  { t with tagn := BitVec.ofNat 512 (t.tagn.toNat - t.tagCount i * 2 ^ (8 * i) + n % 256 * 2 ^ (8 * i)) }

/-- Writes that a command sent to other agents and that have not been performed (R280). -/
def State.sentBy (s : State) (g : Nat) (q : Q) (isn : Word) : Bool :=
  s.net.any (fun p => decide (p.src = .tile g) && !p.tcc && decide (p.q = q) && decide (p.isn = isn) && p.typ.undone)

/-- A member of a batch is still open: it has not completed, or what it sent has not been performed (R188, R280). -/
def State.memberOpen (s : State) (g : Nat) (m : Q × Word) : Bool :=
  ((s.tile g).queue m.1).pending m.2 || s.sentBy g m.1 m.2

/-- Batches in close order, without those that are complete and have no open batch before them (R188). -/
def State.openBatches (s : State) (g : Nat) (bs : List (List (Q × Word))) : List (List (Q × Word)) :=
  (bs.map (fun b => b.filter (s.memberOpen g))).dropWhile (fun b => b.isEmpty)

/-- Takes the members that have ended out of a tile's outstanding batches (R188). -/
def State.batchSettle (s : State) (g : Nat) : State :=
  s.updTile g (fun t => { t with batches := s.openBatches g t.batches })

/-- The count of a token FIFO (R32). -/
def Tile.fifo (t : Tile) (f : Fifo) : Nat :=
  match f with
  | .lx => t.lx
  | .xl => t.xl
  | .xs => t.xs
  | .sx => t.sx

/-- Sets the count of a token FIFO. -/
def Tile.setFifo (t : Tile) (f : Fifo) (n : Nat) : Tile :=
  match f with
  | .lx => { t with lx := n }
  | .xl => { t with xl := n }
  | .xs => { t with xs := n }
  | .sx => { t with sx := n }

/-! ### Fault domains (R435) -/

/-- Region r of a launch belongs to the fault domain rooted at dom (R367). -/
def Launch.inDomain (l : Launch) (dom r : Nat) : Bool :=
  match l.regions[r]? with
  | some x => decide (x.dom = dom)
  | none => false

/-- The root of the fault domain of a region. -/
def Launch.domOf (l : Launch) (r : Nat) : Nat :=
  match l.regions[r]? with
  | some x => x.dom
  | none => 0

/-- Discards the commands of a queue that are charged to a domain: they count as completed, their tags' counts fall and
no tag is set (R435 step 2). -/
def State.discardQueue (s : State) (l : Launch) (dom g : Nat) (q : Q) : State :=
  let x := (s.tile g).queue q
  let gone := x.ents.filter (fun e => decide (e.st ≠ .done) && l.inDomain dom e.region)
  let s := s.updTile g (fun t => gone.foldl (fun t e =>
    match tagOf e.cmd with
    | some i => t.setTagCount i (t.tagCount i - 1)
    | none => t) t)
  let s := s.updQueue g q (fun x =>
    { x with ents := x.ents.map (fun e => if l.inDomain dom e.region then { e with st := .done } else e),
             stopped := x.stopped && gone.isEmpty })
  (s.settleQueue g q).batchSettle g

/-- A control core that has become idle (R435 step 4, R379). -/
def Tcc.idle (c : Tcc) : Tcc :=
  { c with pfx := none, pfxp := false, intrap := false, atM := false, waiting := false, obj := none, far := [], ffar := [], arrived := false, stepLeft := none,
             pend := none }

/-- Releases the queues and the freeze of a tile but for those that a fault still waiting to be taken holds (R435 step 4). -/
def Tile.unstop (t : Tile) : Tile :=
  let frozen := t.faults.any (fun f => f.frz)
  let run := fun (q : Q) (x : Queue) => { x with stopped := x.stopped && (frozen || t.faults.any (fun f => decide (f.q = q))) }
  { t with frz := t.frz && frozen, lq := run .l t.lq, xq := run .x t.xq, sq := run .s t.sq }

/-- One tile at the end of a domain (R435). -/
def State.endTile (s : State) (l : Launch) (dom g : Nat) : State :=
  let t := s.tile g
  let runs := match t.cont with
    | some c => l.inDomain dom c.region
    | none => t.tcc.intrap && l.inDomain dom t.trapRegion
  let s := [Q.l, Q.x, Q.s].foldl (fun s q => s.discardQueue l dom g q) s
  s.updTile g (fun t =>
    let thaws := t.faults.any (fun f => f.frz && l.inDomain dom f.region)
    let t := { t with faults := t.faults.filter (fun f => !l.inDomain dom f.region) }
    let t := if runs || thaws then t.unstop else t
    if runs then { t with cont := none, tcc := t.tcc.idle, barWait := none, ballast := none, gated := false,
                          dbg := { t.dbg with stopped := false, stopAt := none, restart := false, allDue := false } } else t)

/-- What was sent for a region of launch k (R413) belongs to the domain rooted at dom. -/
def Launch.owns (l : Launch) (k dom : Nat) (own : Option (Nat × Nat)) : Bool :=
  match own with
  | some (j, r) => decide (j = k) && l.inDomain dom r
  | none => false

/-- Whose command sent a packet: its launch and region. -/
def Pkt.own (p : Pkt) : Option (Nat × Nat) := p.launch.map (fun k => (k, p.region))

/-- The flags held and the arrival entries of a domain of launch k are discarded at their destinations, and its puts and flags that
HNAK has refused are not resent (R413). -/
def State.dropHeld (s : State) (k dom : Nat) (l : Launch) : State :=
  let rids := s.tiles.flatMap (fun (_, t) => (t.held.filter (fun h => l.owns k dom h.own)).map (fun h => h.rid))
  { s with
    net := s.net.filter (fun p => !rids.contains p.rid && !((p.refused || decide (p.typ = .hnak)) && l.owns k dom p.own)),
    tiles := s.tiles.map (fun (g, t) =>
      (g, { t with held := t.held.filter (fun h => !l.owns k dom h.own),
                   arrivals := t.arrivals.filter (fun a => !l.owns k dom a.own) })) }

/-- Ends the fault domain rooted at dom of a launch, and sends the record (R435). -/
def State.endDomain (s : State) (k dom : Nat) (r : ErrRec) : State :=
  match AMap.find? s.launches k with
  | none => s.sendRecord r
  | some l =>
    let mine := l.tiles.filter (fun g => match (s.tile g).cont with
      | some c => l.inDomain dom c.region
      | none => false)
    let s := l.tiles.foldl (fun s g => s.endTile l dom g) s
    let s := s.dropHeld k dom l
    let l := (AMap.find? s.launches k).getD l
    let l' := { l with
      regions := l.regions.map (fun x => if x.dom = dom then { x with ended := true } else x),
      pools := l.pools.map (fun p => if l.inDomain dom p.region then { p with recs := [] } else p),
      ndom := l.ndom + 1,
      faulted := l.faulted || l.task.isNone }
    let s := { s with launches := AMap.put s.launches k l',
                      gov := { s.gov with pending := s.gov.pending.filter (fun p => !mine.contains p.tile) } }
    s.sendLaunchRecord k { r with region := dom }

/-! ### Taking a trap (R427 to R433) -/

/-- Causes of disposition D (Table 13.4): the device ends the domain and enters no handler. -/
def causeEnds (c : Nat) : Bool := c = 9 || (34 ≤ c && c ≤ 37)

/-- ECAUSE (Table 13.2). -/
def ecauseOf (t : TrapI) (src : Nat) (frz : Bool) : Word :=
  BitVec.ofNat 64 (t.cause + t.sub * 256 + src * 2 ^ 16 + b2n frz * 2 ^ 18)

/-- Trap entry in one step (R428, Tables 13.1 to 13.3). -/
def State.enterTrap (s : State) (t : TrapI) (epc : CodeAddr) (eword : Word) (src : Nat) (frz : Bool) (cisn : Nat)
    (idle : Bool) : State :=
  let c := s.cur
  let est := (c.status (s.frzOf s.who)).toNat % 64 + b2n c.arrived * 64 + b2n idle * 128 + cisn % 2 ^ 32 * 2 ^ 32
  let c' := { c with
    trap := { c.trap with epc := BitVec.ofNat 64 epc.toNat, ecause := ecauseOf t src frz, einfo := t.info,
                          eword := eword, estatus := BitVec.ofNat 64 est },
    atM := true, intrap := true, pfx := none, pfxp := false, arrived := false, waiting := false, lined := false,
    img := if s.onCore then c.img else 0xFFFF,
    pc := c.trap.ebase.truncate 28 }
  let s := s.setCur c'
  if s.onCore then s else s.traceRec s.gid 4 ((ecauseOf t src frz).toNat % 65536)

/-- Stops a management core with its state kept, and sends the record (R513). -/
def State.stopCore (s : State) (n : Nat) (t : TrapI) (epc : CodeAddr) (cmd : Word) (nested : Bool) : State :=
  let s := s.updCur (fun c => { c with stopped := true, waiting := false })
  s.sendRecord { ErrRec.ofType 1 with cause := t.cause, sub := t.sub, region := 0xFFFF, loc := n * 64,
                                      flg := b2n nested * 4 + b2n t.effect + s.injFlag t, info := t.info.toNat, cmd := cmd.toNat,
                                      pc := epc.toNat }

/-- The device ends the domain of the executing core, or stops the management core (R432, R434, R513). -/
def State.endMine (s : State) (t : TrapI) (epc : CodeAddr) (eword : Word) (nested : Bool) : State :=
  let cmd := if nested then s.cur.trap.ecause else eword
  match s.who with
  | .core n => s.stopCore n t epc cmd nested
  | .reshard _ => s
  | .headstock => s
  | .tile g =>
    let ti := s.tile g
    match ti.bound with
    | none => s.updMe (fun t => { t with tcc := t.tcc.idle, cont := none })
    | some k =>
      let region := match ti.cont with
        | some c => c.region
        | none => ti.trapRegion
      let dom := match AMap.find? s.launches k with
        | some l => l.domOf region
        | none => 0
      s.endDomain k dom { ErrRec.ofType 1 with cause := t.cause, sub := t.sub, loc := whereTile g,
                                               flg := b2n nested * 4 + b2n t.effect + s.injFlag t, info := t.info.toNat,
                                               cmd := cmd.toNat, pc := epc.toNat }

/-- EWORD of a TCC cause: the words of the unit (R114, R122; log entry 22). -/
def Tcc.ewordOf (c : Tcc) : Word :=
  match c.pfx with
  | some p => BitVec.ofNat 64 (p.w0.toNat + p.w1.toNat * 2 ^ 32)
  | none => c.iw

/-- A synchronous trap of the executing core: its own unit's address is EPC unless the cause's rule gives another (R115,
Table 13.1); a cause of disposition D and a nested trap end the domain (R432, R434). While a firmware update runs, a tile
that traps waits at trap entry (R467): its instruction is executed again. -/
def State.raise (s : State) (t : TrapI) : State :=
  let s := s.updCur (fun c => { c with far := [], ffar := [] })
  let c := s.cur
  let epc : CodeAddr := match t.epc with
    | some a => a
    | none => match c.pfx with
      | some p => p.start
      | none => c.pc
  let ew := t.eword.getD c.ewordOf
  if causeEnds t.cause then s.endMine t epc ew false
  else if c.intrap then s.endMine t epc ew true
  else if !s.onCore && decide (s.fw.st ≠ 0) then s.updCur (fun c => { c with waiting := true, pend := some (t, epc, ew) })
  else if s.onCore && c.trap.ebase = 0 then s.endMine t epc ew false
  else s.enterTrap t epc ew 0 false 0 false

/-- The illegal-instruction trap. -/
def trapIllegal : TrapI := TrapI.mk3 1 0 0
/-- The privilege trap. -/
def trapPrivilege : TrapI := TrapI.mk3 2 0 0
/-- The code-address fault with its rejected target. -/
def trapCode (v : Word) : TrapI := TrapI.mk3 4 0 v

/-! ### Images and code addresses (R92 to R99) -/

/-- The launch a tile is bound to. -/
def State.launchOf (s : State) (g : Nat) : Option Launch :=
  match (s.tile g).bound with
  | none => none
  | some k => AMap.find? s.launches k

/-- Base and line count of the image that runs: the launch's image table, the firmware trap image (R433), or the
firmware image of a management core. -/
def State.image (s : State) : Nat × Nat :=
  match s.who with
  | .tile g =>
    if (s.tile g).tcc.img = 0xFFFF then (s.fw.trapBase.toNat, s.fw.trapLines)
    else match s.launchOf g with
      | none => (0, 0)
      | some l => match l.images[(s.tile g).tcc.img.toNat]? with
        | some (b, n) => (b.toNat, n)
        | none => (0, 0)
  | .core _ => (s.fw.base.toNat, s.fw.lines)
  | .reshard _ => (0, 0)
  | .headstock => (0, 0)

/-- A management core stands at an instruction boundary outside its trap handler, with no access under way (R467 step 4). -/
def Tcc.atBoundary (c : Tcc) : Bool := !c.intrap && c.pfx.isNone && c.obj.isNone && c.far.isEmpty && c.ffar.isEmpty

/-- An update holds a management core: at the boundary where it stops for the new image, and from the deadline that it missed on (R467,
R509). -/
def State.coreHeld (s : State) (c : Tcc) : Bool :=
  (decide (s.fw.st = 2) && s.fw.verified && c.atBoundary) || (decide (s.fw.st = 3) && !s.fw.beat && decide (s.fw.deadline ≤ s.bedt))

/-- Line of a code address. -/
def lineOf (a : CodeAddr) : Nat := a.toNat / 16

/-- Slot of a code address. -/
def slotOf (a : CodeAddr) : Nat := a.toNat % 16

/-- The code address line:slot. -/
def mkCode (line slot : Nat) : CodeAddr := BitVec.ofNat 28 (line * 16 + slot)

/-- R99 for a register or computed target, in the image that runs. In a trap handler that is the firmware trap image, also where the
target is a new record's (SPAWN, SPAWNJ; log entry 94). -/
def State.checkCode (s : State) (v : Word) : Option CodeAddr :=
  if v.toNat < 2 ^ 28 ∧ v.toNat % 16 ≠ 0 ∧ v.toNat / 16 < s.image.2 then some (v.truncate 28) else none

/-- The target of a branch format (R103), checked by R99. -/
def State.branchTarget (s : State) (ld : BitVec 19) (slot : BitVec 4) : Except TrapI CodeAddr :=
  let line : Int := (lineOf s.cur.pc : Int) + ld.toInt
  if 0 ≤ line ∧ line < s.image.2 then .ok (mkCode line.toNat slot.toNat)
  else .error (trapCode (w64 (line * 16 + slot.toNat)))

/-! ### Retiring (R94, R98, R147 to R150) -/

/-- How an instruction leaves the stream: at its successor, at a target, at the address to which a trap returns (STATUS.PFXP
is then as it was restored, R303), or with the stream ended or left elsewhere. -/
inductive Flow where
  | seq
  | goto (a : CodeAddr)
  | resume (a : CodeAddr)
  | gone
  deriving DecidableEq, Repr

/-- A stop under ALL is due on the other tiles of the launch (R476). -/
def State.stopOthers (s : State) (g : Nat) : State :=
  match s.launchOf g with
  | none => s
  | some l => (l.tiles.filter (fun h => decide (h ≠ g))).foldl (fun s h =>
      s.updTile h (fun t => if t.dbg.stopped then t else { t with dbg := { t.dbg with allDue := true } })) s

/-- Goes back to the start of the unit in hand: a prefix and its instruction are one unit for stops (R115). -/
def Tcc.unitStart (c : Tcc) : Tcc :=
  match c.pfx with
  | none => c
  | some p => { c with pc := p.start, pfx := none, lined := false }

/-- ALL of the request that a trigger belongs to (R476): a STOP, a STEP, or the ARM of the breakpoints and the watch. -/
def Dbg.allOf (d : Dbg) (trigger : Nat) : Bool :=
  match trigger with
  | 0 => d.allStop
  | 4 => d.allStep
  | 5 => false
  | _ => d.allArm

/-- Stops a tile for the debugger (R477): its TCC at the boundary before the unit in hand (R115), its queues and SCC. -/
def State.stopTile (s : State) (g trigger : Nat) : State :=
  let s := s.updTile g (fun t => { t with
    dbg := { t.dbg with stopped := true, stopAt := none, trigger := trigger, allDue := false, restart := false },
    tcc := { t.tcc.unitStart with waiting := false, stepLeft := none } })
  (if (s.tile g).dbg.allOf trigger then s.stopOthers g else s).traceRec g 2 trigger

/-- Counts a retired instruction (Table 15.7) and a step (R479). -/
def State.countRetired (s : State) : State :=
  if s.onCore then s
  else
    let s := s.updMe (fun t => t.bump 134)
    match s.cur.stepLeft with
    | none => s
    | some n => if n ≤ 1 then s.stopTile s.gid 4 else s.updCur (fun c => { c with stepLeft := some (n - 1) })

/-- A boundary of loop set n (R147): its effect on the set, and where it continues, or the trap that it raises. -/
inductive Bound where
  /-- No boundary, or the loop has ended. -/
  | on (c : Tcc)
  | back (c : Tcc) (a : CodeAddr)
  | bad (t : TrapI)
  deriving DecidableEq, Repr

/-- The boundary of set n at the retirement of the instruction at code address a, in an image of so many lines. A loop back to a
line beyond the image is a code-address fault (R99; log entry 84). The address of a prefixed instruction is that of its own first
word, not of its prefix (log entry 113). -/
def Tcc.boundary (c : Tcc) (lines n : Nat) (a : CodeAddr) : Bound :=
  let l := c.loop n
  if l.ae = a ∧ l.lc ≠ 0 ∧ c.intrap = false then
    if l.lc = 1 then .on (c.setLoop n { l with lc := 0 })
    else if l.le < l.ls then .bad (TrapI.mk3 11 0 (BitVec.ofNat 64 (n + (if c.succ.isNone then 256 else 0))))
    else if lines ≤ lineOf l.ls then .bad (trapCode (BitVec.ofNat 64 l.ls.toNat))
    else .back (c.setLoop n { l with lc := l.lc - 1, ae := l.le }) l.ls
  else .on c

/-- Both sets' boundaries, set 1 first (R149); `Sum.inl` is the trap that one of them raises. -/
def Tcc.boundaries (c : Tcc) (lines : Nat) (a : CodeAddr) : Sum (TrapI × Tcc) (Tcc × Option CodeAddr) :=
  match c.boundary lines 1 a with
  | .bad t => .inl (t, c)
  | .back c' b => .inr (c', some b)
  | .on c' => match c'.boundary lines 0 a with
    | .bad t => .inl (t, c')
    | .back c'' b => .inr (c'', some b)
    | .on c'' => .inr (c'', none)

/-- The line at a code address has been entered already when execution goes on there from the line in hand: slot 1 is reached
through NEXT, which enters a line anew (R97). -/
def Tcc.sameLine (c : Tcc) (a : CodeAddr) : Bool :=
  c.lined && decide (lineOf a = lineOf c.pc) && decide (slotOf a ≠ 1)

/-- Continues at the successor, or raises what falling off the chain or the image raises (R98). -/
def State.fallOn (s : State) : State :=
  let c := s.cur
  let slot15 := mkCode (lineOf c.pc) 15
  match c.succ with
  | none => s.raise { TrapI.mk3 3 0 1 with epc := some slot15 }
  | some a =>
    if s.image.2 ≤ lineOf a then s.raise { trapCode (BitVec.ofNat 64 a.toNat) with epc := some slot15 }
    else s.setCur { c with pc := a, lined := c.sameLine a }

/-- Retires the instruction in hand. -/
def State.retire (s : State) (f : Flow) : State :=
  match f with
  | .gone => s.countRetired
  | .goto a =>
    (s.updCur (fun c => { c with pfx := none, pfxp := false, waiting := false, pc := a, lined := false })).countRetired
  | .resume a => (s.updCur (fun c => { c with pfx := none, waiting := false, pc := a, lined := false })).countRetired
  | .seq =>
    let s := s.updCur (fun c => { c with pfx := none, pfxp := false, waiting := false })
    let c := s.cur
    match c.boundaries s.image.2 c.pc with
    | .inl (t, c') => ((s.setCur c').raise { t with epc := some (c.succ.getD c.pc) }).countRetired
    | .inr (c', some a) => (s.setCur { c' with pc := a, lined := false }).countRetired
    | .inr (c', none) => (s.setCur c').fallOn.countRetired

/-- Runs the body of an instruction of the control core: the prefix rule (R114), then its effect, then what the effect
gives: retirement, a trap, or a wait. `imx` and `scp` say which prefixes it takes. -/
def State.run (s : State) (imx scp : Bool) (body : State → Res Flow) : Out :=
  let bad := match s.cur.pfx with
    | none => false
    | some p => (p.imx.isSome && !imx) || (p.scp.isSome && !scp)
  if bad then .next (s.raise trapIllegal)
  else match body s with
    | .ok f s' => .next ((s'.updCur (fun c => { c with far := [], ffar := [] })).retire f)
    | .trap t s' => .next (s'.raise t)
    | .wait s' => .next (s'.updCur (fun c => { c with waiting := true }))

/-- An instruction that takes no prefix and only computes. -/
def State.simple (s : State) (f : State → State) : Out := s.run false false (fun s => .ok .seq (f s))

/-- The immediate in force: the IMX value, sign-extended, or the instruction's own (R118). -/
def State.simm (s : State) (own : Int) : Word :=
  match s.cur.pfx with
  | some p => match p.imx with
    | some x => w64 x.toInt
    | none => w64 own
  | none => w64 own

/-- The immediate in force, zero-extended (R118). -/
def State.zimm (s : State) (own : Nat) : Word :=
  match s.cur.pfx with
  | some p => match p.imx with
    | some x => BitVec.ofNat 64 x.toNat
    | none => BitVec.ofNat 64 own
  | none => BitVec.ofNat 64 own

/-- The scope in force: the SCP prefix's, or the default (R113). -/
def State.scope (s : State) (dflt : Scope) : Scope :=
  match s.cur.pfx with
  | some p => p.scp.getD dflt
  | none => dflt

/-- Return from trap (R303, R430): EPC is checked, STATUS restored but that a management core stays at M (R14); the queues and
the freeze are released but for those that a fault still to be taken holds (R429, R431). -/
def State.eret (s : State) : Res Flow :=
  let c := s.cur
  let e := c.trap.estatus
  let c1 := { c with atM := s.onCore || bit e 0, intrap := false, arrived := bit e 6, pfx := none, pfxp := bit e 5, lined := false,
                     img := match s.who with
                       | .tile g => (match (s.tile g).cont with
                         | some k => k.img
                         | none => c.img)
                       | _ => c.img }
  let free := fun (s : State) => if s.onCore then s else s.updMe Tile.unstop
  if !s.onCore && bit e 7 then .ok .gone (free (s.setCur c1))
  else
    match (s.setCur { c with img := c1.img }).checkCode c.trap.epc with
    | none => .trap (trapCode c.trap.epc) s
    | some a => .ok (.resume a) (free (s.setCur c1))

/-! ### Other packages -/

/-- An access of the executing core to another package, under a translation (R305). -/
def State.tccFar (s : State) (pin : Option TlbEnt) (pkg pa n : Nat) (wr : Bool) (data : List Byte) : Res (List Byte) :=
  farAccess s s.cur.far (fun s l => s.updCur (fun c => { c with far := l }))
    { Pkt.make (if wr then .wr else .rd) 0 s.who pa s.bedt with dpkg := pkg, len := n, data := data, pin := pin } wr

/-! ### Instruction fetch (R96 to R101, R111) -/

/-- Whose pages a fetch or an access of the executing core goes through. -/
def State.space (s : State) : Space :=
  match s.who with
  | .tile g => .launch ((s.tile g).bound.getD 0)
  | .core _ => .firmware
  | .reshard _ => .firmware
  | .headstock => .firmware

/-- The space of a fetch: the firmware trap image is fetched through the firmware's own translation (R433). -/
def State.fetchSpace (s : State) : Space := if !s.onCore && s.cur.img = 0xFFFF then .firmware else s.space

/-- The instruction word that a fetch of an agent's core gets, where memory now holds `new`: a word that has changed since the
last SYNCI is old or new (R100, log entry 13). -/
def State.fetchSees (s : State) (a : Agent) (key : Nat) (new : BitVec 32) : BitVec 32 × State :=
  let c := s.tccOf a
  match AMap.find? c.ibuf key with
  | none => (new, s.setTcc a { c with ibuf := AMap.put c.ibuf key new })
  | some o =>
    if o = new then (new, s)
    else (if Config.fetchSeesNew s.free then new else o, { s with free := s.free + 1 })

/-- The key under which a core buffers a word that lies in another package. -/
def farWord (pa : Nat) : Nat := 2 ^ 60 + pa

/-- One instruction word at its home, for a fetch of an agent's core by a path (R100, R449). -/
def State.fetchHome (s : State) (a : Agent) (src pa key : Nat) : Res Nat :=
  let h := s.readHome src key 4
  match h.bad with
  | some w => .trap (TrapI.mk3 9 1 (wordPa pa key w)) h.s
  | none =>
    let r := h.s.fetchSees a key (BitVec.ofNat 32 (ofBytes h.bytes))
    .ok r.1.toNat r.2

/-- The line of another package in which an instruction word of the executing core lies (R100, R305). -/
def State.lineFar (s : State) (x : Xlat) (pkg : Nat) : Res (List Byte) :=
  farAccess s s.cur.ffar (fun s l => s.updCur (fun c => { c with ffar := l }))
    { Pkt.make .rd 0 s.who (x.pa / 64 * 64) s.bedt with dpkg := pkg, len := 64, pin := x.pin } false

/-- A word of the firmware image that a management core runs: its lines are the bytes of the image's body (R507, log entry 102). -/
def State.ownWord (s : State) (va : Nat) : Option Nat :=
  match s.who with
  | .core _ => if s.fw.code.isEmpty then none else some (leAt s.fw.code (va - s.fw.base.toNat) 4)
  | .tile _ => none
  | .reshard _ => none
  | .headstock => none

/-- One instruction word at a virtual address, through the fetching agent's translation. -/
def State.fetchXlat (s : State) (va : Nat) : Res Nat :=
  (s.translate s.who s.fetchSpace va .ex s.cur.atM).andThen fun x s =>
    match s.place x.pa with
    | .hbm st off => s.fetchHome s.who s.who.code x.pa (Place.hbm st off).key
    | .tile g off => if (s.tile g).offBad off 4 then .trap (TrapI.mk3 5 0 (BitVec.ofNat 64 va)) s
                     else s.fetchHome s.who s.who.code x.pa (Place.tile g off).key
    | .far p =>
      (s.lineFar x p).andThen fun bs s =>
        let r := s.fetchSees s.who (farWord x.pa) (BitVec.ofNat 32 (leAt bs (x.pa % 64) 4))
        .ok r.1.toNat r.2
    | .out => .trap (TrapI.mk3 35 1 (BitVec.ofNat 64 x.pa)) s
    | .reserved => .trap (TrapI.mk3 5 0 (BitVec.ofNat 64 va)) s

/-- One instruction word (R100). -/
def State.fetchWord (s : State) (va : Nat) : Res Nat :=
  match s.ownWord va with
  | some w => .ok w s
  | none => s.fetchXlat va

/-- The words of a line that a core buffers from a key on, but for those that it holds already. -/
def bufferWords (key : Nat) (bs : List Byte) (b : AMap Word32) : AMap Word32 :=
  (List.range 16).foldl (fun b i =>
    if (AMap.find? b (key + 4 * i)).isSome then b
    else AMap.put b (key + 4 * i) (BitVec.ofNat 32 (leAt bs (4 * i) 4))) b

/-- Buffers the other words of a line that an agent's core or an engine of its tile enters, as they stand: from now on a fetch
of one of them may see this value (R100). It is no access; each word that is executed is read at its home by its own fetch. A line of
another package is buffered as the read of its first word has brought it. -/
def State.bufferLine (s : State) (a : Agent) (x : Xlat) (far : List FarReq) : State :=
  let put := fun (key : Nat) (bs : List Byte) => s.setTcc a { s.tccOf a with ibuf := bufferWords key bs (s.tccOf a).ibuf }
  match s.place x.pa with
  | .far _ => (match (far.find? (fun r => decide (r.pa = x.pa / 64 * 64))).bind (fun r => r.ans) with
    | some bs => put (farWord (x.pa / 64 * 64)) bs
    | none => s)
  | .out => s
  | .reserved => s
  | p => put p.key (s.mem.getN p.key 64)

/-- Buffers the line that the executing core enters. -/
def State.enterLine (s : State) (base : Nat) : State :=
  match s.translate s.who s.fetchSpace base .ex s.cur.atM with
  | .trap _ _ => s
  | .wait _ => s
  | .ok x _ => s.bufferLine s.who x s.cur.ffar

/-- The link word of a line breaks R97 for a fetching agent of an owner. -/
def badLink (w owner : Nat) : Bool :=
  decide (bitsN w 31 28 ≠ owner) || decide (bitsN w 26 24 ≠ 0) || (bitsN w 27 27 = 1 && decide (bitsN w 23 0 ≠ 0))

/-- The successor of an instruction whose last word is in a slot of a line with the given link word (chapter 4). -/
def succOf (line slot link : Nat) : Option CodeAddr :=
  if slot < 15 then some (mkCode line (slot + 1))
  else if bitsN link 27 27 = 1 then none
  else some (mkCode (bitsN link 23 0) 1)

/-- Notes the first word of the word that follows the first prefix (R114). -/
def Tcc.noteWord (c : Tcc) (w : Nat) : Tcc :=
  match c.pfx with
  | none => c
  | some p => if p.imx.isSome && p.scp.isSome then c else { c with pfx := some { p with w1 := BitVec.ofNat 32 w } }

/-- Fetches and decodes the instruction at pc (orders 1 to 5, 7 and 8 of Table 3.7). A trap raised before a word of the unit was fetched
has EWORD 0 (log entry 112). -/
def State.fetch (s : State) : Res Instr :=
  let s := s.updCur (fun c => { c with iw := 0 })
  let pc := s.cur.pc
  let line := lineOf pc
  let slot := slotOf pc
  let base := s.image.1 + line * 64
  if !s.onCore && s.cur.img = 0xFFFF && !s.cur.atM then .trap (TrapI.mk3 8 4 (BitVec.ofNat 64 base)) s
  else
    (s.fetchWord base).andThen fun link s =>
      if !s.cur.lined && badLink link (if s.onCore then 4 else 0) then .trap (TrapI.mk3 3 0 0) s
      else
        let s := if s.cur.lined then s else (s.enterLine base).updCur (fun c => { c with lined := true })
        (s.fetchWord (base + 4 * slot)).andThen fun w0 s =>
          let s := s.updCur (fun c => { c.noteWord w0 with iw := BitVec.ofNat 64 w0 })
          if longMajor (bitsN w0 31 26) then
            if slot = 15 then .trap trapIllegal s
            else
              (s.fetchWord (base + 4 * (slot + 1))).andThen fun w1 s =>
                let s := s.updCur (fun c => { c with iw := BitVec.ofNat 64 (w0 + w1 * 2 ^ 32),
                                                     succ := succOf line (slot + 1) link })
                match decode w0 w1 with
                | .ok i => .ok i s
                | .error _ => .trap trapIllegal s
          else
            let s := s.updCur (fun c => { c with succ := succOf line slot link })
            match decode w0 0 with
            | .ok i => .ok i s
            | .error _ => .trap trapIllegal s

/-! ### Accesses of the C path (R155 to R160) -/

/-- The canonical address of a byte of another package, by which L1 holds it: beyond the addresses of this package, the same for both
addresses of one HBM4E byte (R315). -/
def farHome (pa : Nat) : Nat :=
  2 ^ 52 * (1 + farPkg pa) + (if pa / 2 ^ 51 % 2 = 0 then (Place.hbm (stackOf pa).1 (stackOf pa).2).key else pa % 2 ^ 52)

/-- The canonical address of a byte, of this package or of another one. -/
def State.lineKey (s : State) (pa : Nat) : Nat :=
  match s.place pa with
  | .far _ => farHome pa
  | p => p.key

/-- One checked part of a C-path access: its home address and what its page says. -/
structure CPart where
  key : Nat
  n : Nat
  kind : PageKind
  /-- Its line may be held in L1 (R311); the page has CMP = 1 (R321). -/
  l1 : Bool
  cmp : Bool
  /-- The bytes belong to another tile: an uncorrectable error is then a remote error (R449). -/
  remote : Bool
  pa : Nat
  /-- The package that holds the bytes, where it is another one. -/
  far : Option Nat
  /-- The bytes stand behind a socket out of service: their requests are answered at once with RSVSOCK (R396). -/
  out : Bool
  /-- The translation used, and the virtual address. -/
  pin : Option TlbEnt
  va : Nat
  deriving DecidableEq, Repr

/-- The window rules for a C-path access to a tile's window (R28, R43, R44, R46, R50). -/
def State.cWindow (s : State) (g off n va pa : Nat) (write : Bool) : Res Unit :=
  let t := s.tile g
  let mine := !s.onCore && decide (s.gid = g)
  let iv := BitVec.ofNat 64 va
  if t.offBad off n then
    (if mine then .trap (TrapI.mk3 5 0 iv) s else .trap (TrapI.mk3 35 5 (BitVec.ofNat 64 pa)) s)
  else if write && inZ off n then .trap (TrapI.mk3 6 0 iv) s
  else if write && t.inQueues off n then
    (if mine then .trap (TrapI.mk3 12 0 (BitVec.ofNat 64 off)) s else .trap (TrapI.mk3 35 7 (BitVec.ofNat 64 pa)) s)
  else if t.rowOpen off n then .wait s
  else .ok () s

/-- Translates and places one part of a C-path access (R156 check 3). L1 serves the RC and UO pages of HBM4E, of every package, to
the tiles (R311). -/
def State.cPart (s : State) (va n : Nat) (write : Bool) : Res CPart :=
  (s.translate s.who s.space va (if write then .wr else .rd) s.cur.atM).andThen fun x s =>
    let l1 := !s.onCore && !x.nl1 && decide (x.kind ≠ .so)
    let at_ := fun (key : Nat) (kind : PageKind) => (
      { key := key, n := n, kind := kind, l1 := false, cmp := false, remote := true, pa := x.pa, far := none, out := false, pin := x.pin,
        va := va } : CPart)
    match s.place x.pa with
    | .hbm st off => .ok { at_ (Place.hbm st off).key x.kind with remote := false, l1 := l1, cmp := x.cmp } s
    | .tile g off => .ok { at_ (Place.tile g off).key .rc with remote := s.onCore || decide (s.gid ≠ g) } s
    | .far p => .ok { at_ (farHome x.pa) x.kind with far := some p, l1 := l1 && decide (x.pa / 2 ^ 51 % 2 = 0) } s
    | .out => .ok { at_ (farHome x.pa) x.kind with out := true } s
    | .reserved => .trap (TrapI.mk3 5 0 (BitVec.ofNat 64 va)) s

/-- Translates and places every part (R157). -/
def State.cParts (s : State) (write : Bool) : List (Nat × Nat) → Res (List CPart)
  | [] => .ok [] s
  | (va, n) :: r =>
    (s.cPart va n write).andThen fun p s =>
      (State.cParts s write r).andThen fun ps s => .ok (p :: ps) s

/-- The window rules for one part (R156 check 4). Of a window in another package, or of a die out of service, the sender tests what the
address alone decides: no store of the C path covers whole accumulator words (R44). The other rules are tested at that package. -/
def State.cPartRules (s : State) (write : Bool) (p : CPart) : Res Unit :=
  if p.far.isSome || p.out then
    (if write && decide (p.pa / 2 ^ 51 % 2 = 1) && inZ (p.pa % 2 ^ 24) p.n then .trap (TrapI.mk3 6 0 (BitVec.ofNat 64 p.va)) s
     else .ok () s)
  else if p.key < 0xFF * 2 ^ 44 then .ok () s
  else s.cWindow (bitsN p.key 31 24) (p.key % 2 ^ 24) p.n p.va p.pa write

/-- The window rules for every part. -/
def State.cRules (s : State) (write : Bool) : List CPart → Res Unit
  | [] => .ok () s
  | p :: r => (s.cPartRules write p).andThen fun _ s => State.cRules s write r

/-- Two parts of a store that stand together in one window of another package are one (R157: that package tests the whole before
any of it is performed). -/
def CPart.join : List CPart → List CPart
  | [p, q] =>
    if p.far.isSome ∧ p.far = q.far ∧ p.pin = q.pin ∧ p.pa / 2 ^ 51 % 2 = 1 ∧ q.pa = p.pa + p.n ∧ q.pa / 2 ^ 24 = p.pa / 2 ^ 24 then
      [{ p with n := p.n + q.n }]
    else [p, q]
  | ps => ps

/-- The checks of R156 in their order, for n bytes at ea; a part whose socket is out of service then answers with its error (R396). -/
def State.cCheck (s : State) (ea : Word) (n : Nat) (write aligned : Bool) : Res (List CPart) :=
  if 2 ^ 57 ≤ ea.toNat ∨ 2 ^ 57 < ea.toNat + n then .trap (TrapI.mk3 5 0 ea) s
  else if aligned && ea.toNat % n ≠ 0 then .trap (TrapI.mk3 6 0 ea) s
  else
    (s.cParts write (pieces 128 4 ea.toNat n)).andThen fun ps s =>
      (s.cRules write ps).andThen fun _ s =>
        match ps.find? CPart.out with
        | some p => .trap (TrapI.mk3 35 1 (BitVec.ofNat 64 p.pa)) s
        | none => .ok (if write then CPart.join ps else ps) s

/-- The error a part's uncorrectable word raises: memory-error, or a remote error at another tile (R161, R449). -/
def memTrap (remote : Bool) (w key pa : Nat) : TrapI :=
  if remote then TrapI.mk3 35 8 (BitVec.ofNat 64 pa) else TrapI.mk3 9 1 (wordPa pa key w)

/-- The 128-byte line of L1 that holds a byte. -/
def l1Line (key : Nat) : Nat := key / 128 * 128

/-- Puts a line that has been read at its home into the executing tile's L1 (R311). -/
def State.l1Put (s : State) (key : Nat) (line : List Byte) : State :=
  s.updMe (fun t => { t with l1 := AMap.put t.l1 (l1Line key) line })

/-- Fills a line of the executing tile's L1 with what a read at its home gives (R311); a line with a word that cannot be
corrected is not filled (R449). -/
def State.l1Fill (s : State) (key : Nat) : State :=
  let h := s.readHome s.who.code (l1Line key) 128
  match h.bad with
  | some _ => h.s
  | none => h.s.l1Put key h.bytes

/-- Invalidates the executing tile's L1 (R313). -/
def State.l1Drop (s : State) : State := if s.onCore then s else s.updMe (fun t => { t with l1 := [] })

/-- Reads n bytes at their home; an uncorrectable word is a memory error, or a remote error at another tile. -/
def State.cHome (s : State) (p : CPart) : Res (List Byte) :=
  let h := s.readHome s.who.code p.key p.n
  match h.bad with
  | some w => .trap (memTrap p.remote w p.key p.pa) h.s
  | none => .ok h.bytes h.s

/-- A load that misses L1 reads its line at the home and fills it (R311); where the line holds an uncorrectable word, the bytes
alone are read. -/
def State.cMiss (s : State) (p : CPart) : Res (List Byte) :=
  let h := s.readHome s.who.code (l1Line p.key) 128
  match h.bad with
  | some _ => h.s.cHome p
  | none => .ok (slice h.bytes (p.key - l1Line p.key) p.n) (h.s.l1Put p.key h.bytes)

/-- The executing tile's access at a home puts its bytes into the line of L1 that holds them, if it is present: a store (R311), and a
load that does not go through L1, so that no later load returns an earlier write (R324). No line of a tile window is in L1. -/
def State.l1Update (s : State) (key : Nat) (bs : List Byte) : State :=
  if s.onCore || (decide (0xFF * 2 ^ 44 ≤ key) && decide (key < 2 ^ 52)) then s
  else match AMap.find? s.me.l1 (l1Line key) with
    | none => s
    | some line =>
      let i := key - l1Line key
      s.l1Put key (line.take i ++ bs ++ line.drop (i + bs.length))

/-- A load of another package's bytes that misses L1 reads their line at its home and fills it (R311); where the line holds an
uncorrectable word, the bytes alone are read. -/
def State.cFarMiss (s : State) (p : CPart) (pkg : Nat) : Res (List Byte) :=
  match s.tccFar p.pin pkg (p.pa / 128 * 128) 128 false [] with
  | .ok bs s => .ok (slice bs (p.pa % 128) p.n) (s.l1Put p.key bs)
  | .wait s => .wait s
  | .trap t s => if t.sub = 8 then s.tccFar p.pin pkg p.pa p.n false [] else .trap { t with info := BitVec.ofNat 64 p.pa } s

/-- Reads the bytes of one part at their home, past L1. -/
def State.cPast (s : State) (p : CPart) : Res (List Byte) :=
  (match p.far with
   | some k => s.tccFar p.pin k p.pa p.n false []
   | none => s.cHome p).andThen fun bs s => .ok bs (s.l1Update p.key bs)

/-- Reads one part: from the L1 line held, unless the line has been replaced meanwhile (log entry 12), or at the home. -/
def State.cRead (s : State) (p : CPart) (bypass : Bool) : Res (List Byte) :=
  let s := if p.far.isSome then s else s.blockRead p.cmp p.key p.n
  let miss := fun (s : State) => match p.far with
    | some k => s.cFarMiss p k
    | none => s.cMiss p
  if !p.l1 || bypass then s.cPast p
  else match AMap.find? s.me.l1 (l1Line p.key) with
    | none => miss s
    | some line =>
      let old := slice line (p.key - l1Line p.key) p.n
      if p.far.isNone && decide (old = s.mem.getN p.key p.n) then .ok old s
      else if Config.l1Replaced s.free then miss { s with free := s.free + 1 }
      else .ok old { s with free := s.free + 1 }

/-- Reads the parts in ascending order. -/
def State.cReads (s : State) (bypass : Bool) : List CPart → Res (List Byte)
  | [] => .ok [] s
  | p :: r =>
    (s.cRead p bypass).andThen fun b s => (State.cReads s bypass r).andThen fun bs s => .ok (b ++ bs) s

/-- A load of n bytes by the C path; `acq` for LDA (R155 to R158). -/
def State.cLoad (s : State) (ea : Word) (n : Nat) (acq : Bool) : Res Nat :=
  (s.cCheck ea n false acq).andThen fun ps s =>
    let fresh := acq && ps.all (fun p => decide (p.kind = .rc))
    (s.cReads fresh ps).andThen fun bs s => .ok (ofBytes bs) (if fresh then s.l1Drop else s)

/-- Writes one part at its home (R311), or in another package. -/
def State.cWrite (s : State) (p : CPart) (bs : List Byte) : Res Unit :=
  match p.far with
  | some k => (s.tccFar p.pin k p.pa p.n true bs).andThen fun _ s => .ok () (s.l1Update p.key bs)
  | none =>
    match s.writeHome p.key bs with
    | .error w => .trap (memTrap p.remote w p.key p.pa) s
    | .ok s' => .ok () ((s'.blockWrite p.cmp p.key p.n).l1Update p.key bs)

/-- Writes parts in ascending order, each with its bytes. -/
def State.cWriteAll (s : State) : List (CPart × List Byte) → Res Unit
  | [] => .ok () s
  | (p, bs) :: r => (s.cWrite p bs).andThen fun _ s => State.cWriteAll s r

/-- The parts of a store, each with its bytes. -/
def cSplit : List CPart → List Byte → List (CPart × List Byte)
  | [], _ => []
  | p :: r, bs => (p, bs.take p.n) :: cSplit r (bs.drop p.n)

/-- Writes the parts (R157): where a word of this package refuses its write, nothing is written; the parts in other packages are
performed first, windows before HBM4E, and those of this package once, when the others are acknowledged (log entry 108). -/
def State.cWrites (s : State) (bs : List Byte) (ps : List CPart) : Res Unit :=
  let parts := cSplit ps bs
  let near := parts.filter (fun x => x.1.far.isNone)
  match s.cWriteAll near with
  | .trap t _ => .trap t s
  | .wait s' => .wait s'
  | .ok u s' =>
    if near.length = parts.length then .ok u s'
    else
      let far := parts.filter (fun x => x.1.far.isSome)
      let window := fun (x : CPart × List Byte) => decide (x.1.pa / 2 ^ 51 % 2 = 1)
      (s.cWriteAll (far.filter window ++ far.filter (fun x => !window x))).andThen fun _ s => s.cWriteAll near

/-- A store of the n low bytes of v by the C path; `rel` for STL (R155 to R158). -/
def State.cStore (s : State) (ea : Word) (n v : Nat) (rel : Bool) : Res Unit :=
  (s.cCheck ea n true rel).andThen fun ps s =>
    match s.cWrites (leBytes n v) ps with
    | .trap t _ => .trap t s
    | .ok u s' => .ok u s'
    | .wait s' => .wait s'

end Sys2Proof.Machine
end

