-- ==== Sys2Proof/Machine/Alu.lean ====
section
/-! DEFINITION. Integer arithmetic, compares, predicates and select (spec/04_control_instructions.md R132 to R139, R119's
NOP). -/

namespace Sys2Proof.Machine

/-- trunc(S(a) / S(b)) with the rule for b = 0 (Table 4.1 DIV). -/
def divS (a b : Word) : Word := if b = 0 then ~~~0 else w64 (Int.tdiv a.toInt b.toInt)

/-- REM of Table 4.1. -/
def remS (a b : Word) : Word := if b = 0 then a else w64 (a.toInt - b.toInt * Int.tdiv a.toInt b.toInt)

/-- DIVU of Table 4.1. -/
def divU (a b : Word) : Word := if b = 0 then ~~~0 else BitVec.ofNat 64 (a.toNat / b.toNat)

/-- REMU of Table 4.1. -/
def remU (a b : Word) : Word := if b = 0 then a else BitVec.ofNat 64 (a.toNat % b.toNat)

/-- The shift amount of a register shift: U(b[5:0]) (R132). -/
def shAmt (b : Word) : Nat := b.toNat % 64

/-- An instruction gD := f(gA, gB) (R132). -/
def State.alu2 (s : State) (d a b : Reg) (f : Word → Word → Word) : Out :=
  s.simple (fun s => s.setG d (f (s.g a) (s.g b)))

/-- An instruction gD := f(gA) (R133, R135). -/
def State.alu1 (s : State) (d a : Reg) (f : Word → Word) : Out := s.simple (fun s => s.setG d (f (s.g a)))

/-- An instruction that takes an IMX prefix when its own immediate is zero (R112, R114). -/
def State.runImm (s : State) (own : Nat) (scp : Bool) (body : State → Res Flow) : Out :=
  s.run (decide (own = 0)) scp body

/-- An immediate form gD := f(gA, i) with a sign-extended immediate (R134, R118). -/
def State.immS (s : State) (d a : Reg) (imm : BitVec 16) (f : Word → Word → Word) : Out :=
  s.runImm imm.toNat false (fun s => .ok .seq (s.setG d (f (s.g a) (s.simm imm.toInt))))

/-- An immediate form with a zero-extended immediate (R134, R118). -/
def State.immZ (s : State) (d a : Reg) (imm : BitVec 16) (f : Word → Word → Word) : Out :=
  s.runImm imm.toNat false (fun s => .ok .seq (s.setG d (f (s.g a) (s.zimm imm.toNat))))

/-- CMP (R137). -/
def State.cmp2 (s : State) (pd : PReg) (a b : Reg) (f : Word → Word → Bool) : Out :=
  s.simple (fun s => s.setP pd (f (s.g a) (s.g b)))

/-- CMPI (R137): the immediate is sign-extended for every kind. -/
def State.cmpI (s : State) (pd : PReg) (a : Reg) (imm : BitVec 15) (f : Word → Word → Bool) : Out :=
  s.runImm imm.toNat false (fun s => .ok .seq (s.setP pd (f (s.g a) (s.simm imm.toInt))))

/-- ADD (R132, Table 4.1). -/
def execAdd (d a b : Reg) (s : State) : Out := s.alu2 d a b (fun x y => x + y)

/-- SUB (R132, Table 4.1). -/
def execSub (d a b : Reg) (s : State) : Out := s.alu2 d a b (fun x y => x - y)

/-- MUL (R132, Table 4.1). -/
def execMul (d a b : Reg) (s : State) : Out := s.alu2 d a b (fun x y => x * y)

/-- MULH (R132, Table 4.1). -/
def execMulh (d a b : Reg) (s : State) : Out := s.alu2 d a b (fun x y => w64 (x.toInt * y.toInt / 2 ^ 64))

/-- MULHU (R132, Table 4.1). -/
def execMulhu (d a b : Reg) (s : State) : Out := s.alu2 d a b (fun x y => BitVec.ofNat 64 (x.toNat * y.toNat / 2 ^ 64))

/-- DIV (R132, Table 4.1). -/
def execDiv (d a b : Reg) (s : State) : Out := s.alu2 d a b (fun x y => divS x y)

/-- DIVU (R132, Table 4.1). -/
def execDivu (d a b : Reg) (s : State) : Out := s.alu2 d a b (fun x y => divU x y)

/-- REM (R132, Table 4.1). -/
def execRem (d a b : Reg) (s : State) : Out := s.alu2 d a b (fun x y => remS x y)

/-- REMU (R132, Table 4.1). -/
def execRemu (d a b : Reg) (s : State) : Out := s.alu2 d a b (fun x y => remU x y)

/-- AND (R132, Table 4.1). -/
def execAnd (d a b : Reg) (s : State) : Out := s.alu2 d a b (fun x y => x &&& y)

/-- OR (R132, Table 4.1). -/
def execOr (d a b : Reg) (s : State) : Out := s.alu2 d a b (fun x y => x ||| y)

/-- XOR (R132, Table 4.1). -/
def execXor (d a b : Reg) (s : State) : Out := s.alu2 d a b (fun x y => x ^^^ y)

/-- SHL (R132, Table 4.1). -/
def execShl (d a b : Reg) (s : State) : Out := s.alu2 d a b (fun x y => x <<< shAmt y)

/-- SHR (R132, Table 4.1). -/
def execShr (d a b : Reg) (s : State) : Out := s.alu2 d a b (fun x y => x >>> shAmt y)

/-- SAR (R132, Table 4.1). -/
def execSar (d a b : Reg) (s : State) : Out := s.alu2 d a b (fun x y => x.sshiftRight (shAmt y))

/-- MIN (R132, Table 4.1). -/
def execMin (d a b : Reg) (s : State) : Out := s.alu2 d a b (fun x y => if y.toInt < x.toInt then y else x)

/-- MAX (R132, Table 4.1). -/
def execMax (d a b : Reg) (s : State) : Out := s.alu2 d a b (fun x y => if x.toInt < y.toInt then y else x)

/-- MINU (R132, Table 4.1). -/
def execMinu (d a b : Reg) (s : State) : Out := s.alu2 d a b (fun x y => if y.toNat < x.toNat then y else x)

/-- MAXU (R132, Table 4.1). -/
def execMaxu (d a b : Reg) (s : State) : Out := s.alu2 d a b (fun x y => if x.toNat < y.toNat then y else x)

/-- LEA (R132, Table 4.1). -/
def execLea (d a b : Reg) (sh : BitVec 3) (s : State) : Out := s.alu2 d a b (fun x y => x + y * BitVec.ofNat 64 (2 ^ sh.toNat))

/-- CLZ (R133). -/
def execClz (d a : Reg) (s : State) : Out := s.alu1 d a (fun x => BitVec.ofNat 64 (clzN 64 x.toNat))

/-- CTZ (R133). -/
def execCtz (d a : Reg) (s : State) : Out := s.alu1 d a (fun x => BitVec.ofNat 64 (ctzN 64 x.toNat))

/-- POPC (R133). -/
def execPopc (d a : Reg) (s : State) : Out := s.alu1 d a (fun x => BitVec.ofNat 64 (popc 64 x.toNat))

/-- BSWAP (R133). -/
def execBswap (d a : Reg) (s : State) : Out := s.alu1 d a (fun x => BitVec.ofNat 64 (ofBytes (leBytes 8 x.toNat).reverse))

/-- SEXTB (R133). -/
def execSextB (d a : Reg) (s : State) : Out := s.alu1 d a (fun x => (x.truncate 8).signExtend 64)

/-- SEXTH (R133). -/
def execSextH (d a : Reg) (s : State) : Out := s.alu1 d a (fun x => (x.truncate 16).signExtend 64)

/-- SEXTW (R133). -/
def execSextW (d a : Reg) (s : State) : Out := s.alu1 d a (fun x => (x.truncate 32).signExtend 64)

/-- ZEXTB (R133). -/
def execZextB (d a : Reg) (s : State) : Out := s.alu1 d a (fun x => (x.truncate 8).zeroExtend 64)

/-- ZEXTH (R133). -/
def execZextH (d a : Reg) (s : State) : Out := s.alu1 d a (fun x => (x.truncate 16).zeroExtend 64)

/-- ZEXTW (R133). -/
def execZextW (d a : Reg) (s : State) : Out := s.alu1 d a (fun x => (x.truncate 32).zeroExtend 64)

/-- ADDI (R134). -/
def execAddi (d a : Reg) (imm : BitVec 16) (s : State) : Out := s.immS d a imm (fun x i => x + i)

/-- ANDI (R134). -/
def execAndi (d a : Reg) (imm : BitVec 16) (s : State) : Out := s.immZ d a imm (fun x i => x &&& i)

/-- ORI (R134). -/
def execOri (d a : Reg) (imm : BitVec 16) (s : State) : Out := s.immZ d a imm (fun x i => x ||| i)

/-- XORI (R134). -/
def execXori (d a : Reg) (imm : BitVec 16) (s : State) : Out := s.immZ d a imm (fun x i => x ^^^ i)

/-- MOVI (R134). -/
def execMovi (d : Reg) (imm : BitVec 16) (s : State) : Out := s.immS d 0 imm (fun _ i => i)

/-- SHLI (R135). -/
def execShli (d a : Reg) (sh : BitVec 6) (s : State) : Out := s.alu1 d a (fun x => x <<< sh.toNat)

/-- SHRI (R135). -/
def execShri (d a : Reg) (sh : BitVec 6) (s : State) : Out := s.alu1 d a (fun x => x >>> sh.toNat)

/-- SARI (R135). -/
def execSari (d a : Reg) (sh : BitVec 6) (s : State) : Out := s.alu1 d a (fun x => x.sshiftRight sh.toNat)

/-- MOVW (R136): the low half zero-extended, or the high half in place. -/
def execMovw (d : Reg) (hi : Bool) (imm : BitVec 32) (s : State) : Out :=
  s.alu1 d d (fun x => if hi then imm ++ x.truncate 32 else imm.zeroExtend 64)

/-- CMPEQ (R137). -/
def execCmpeq (pd : PReg) (a b : Reg) (s : State) : Out := s.cmp2 pd a b (fun x y => decide (x = y))

/-- CMPNE (R137). -/
def execCmpne (pd : PReg) (a b : Reg) (s : State) : Out := s.cmp2 pd a b (fun x y => decide (x ≠ y))

/-- CMPLT (R137). -/
def execCmplt (pd : PReg) (a b : Reg) (s : State) : Out := s.cmp2 pd a b (fun x y => decide (x.toInt < y.toInt))

/-- CMPLTU (R137). -/
def execCmpltu (pd : PReg) (a b : Reg) (s : State) : Out := s.cmp2 pd a b (fun x y => decide (x.toNat < y.toNat))

/-- CMPGE (R137). -/
def execCmpge (pd : PReg) (a b : Reg) (s : State) : Out := s.cmp2 pd a b (fun x y => decide (y.toInt ≤ x.toInt))

/-- CMPGEU (R137). -/
def execCmpgeu (pd : PReg) (a b : Reg) (s : State) : Out := s.cmp2 pd a b (fun x y => decide (y.toNat ≤ x.toNat))

/-- CMPEQI (R137). -/
def execCmpeqi (pd : PReg) (a : Reg) (imm : BitVec 15) (s : State) : Out := s.cmpI pd a imm (fun x y => decide (x = y))

/-- CMPNEI (R137). -/
def execCmpnei (pd : PReg) (a : Reg) (imm : BitVec 15) (s : State) : Out := s.cmpI pd a imm (fun x y => decide (x ≠ y))

/-- CMPLTI (R137). -/
def execCmplti (pd : PReg) (a : Reg) (imm : BitVec 15) (s : State) : Out := s.cmpI pd a imm (fun x y => decide (x.toInt < y.toInt))

/-- CMPLTUI (R137). -/
def execCmpltui (pd : PReg) (a : Reg) (imm : BitVec 15) (s : State) : Out := s.cmpI pd a imm (fun x y => decide (x.toNat < y.toNat))

/-- CMPGEI (R137). -/
def execCmpgei (pd : PReg) (a : Reg) (imm : BitVec 15) (s : State) : Out := s.cmpI pd a imm (fun x y => decide (y.toInt ≤ x.toInt))

/-- CMPGEUI (R137). -/
def execCmpgeui (pd : PReg) (a : Reg) (imm : BitVec 15) (s : State) : Out := s.cmpI pd a imm (fun x y => decide (y.toNat ≤ x.toNat))

/-- PAND (R138). -/
def execPand (pd pa pb : PReg) (s : State) : Out := s.simple (fun s => s.setP pd (s.pd pa && s.pd pb))

/-- POR (R138). -/
def execPor (pd pa pb : PReg) (s : State) : Out := s.simple (fun s => s.setP pd (s.pd pa || s.pd pb))

/-- PXOR (R138). -/
def execPxor (pd pa pb : PReg) (s : State) : Out := s.simple (fun s => s.setP pd (s.pd pa != s.pd pb))

/-- PNOT (R138). -/
def execPnot (pd pa : PReg) (s : State) : Out := s.simple (fun s => s.setP pd (!s.pd pa))

/-- SEL (R139). -/
def execSel (d a b : Reg) (ps : PReg) (s : State) : Out := s.simple (fun s => s.setG d (if s.pd ps then s.g a else s.g b))

/-- NOP (R119). -/
def execNop (s : State) : Out := s.simple (fun s => s)

end Sys2Proof.Machine
end

