-- ==== Sys2Proof/Machine/Flags.lean ====
section
/-! DEFINITION. Numbers: exact values, the rounding modes and the LFSR (R72, R73), the sticky flags (R74), fp32 and bf16
(R71, R253), the binary8 family (R66 to R70), scale application (R85, R86), the error statistic (R89), and quantisation
(R87, R88). -/

namespace Sys2Proof.Machine

/-! ### Flags (Table 2.8) -/

/-- UFL. -/
def fUFL : BitVec 5 := 1
/-- OVS. -/
def fOVS : BitVec 5 := 2
/-- OVF. -/
def fOVF : BitVec 5 := 4
/-- INV. -/
def fINV : BitVec 5 := 8
/-- INX. -/
def fINX : BitVec 5 := 16

/-- A flag when a condition holds. -/
def flagIf (b : Bool) (f : BitVec 5) : BitVec 5 := if b then f else 0

/-! ### The LFSR (R73) -/

/-- One step of the LFSR. -/
def lfsrStep (seed : BitVec 32) : BitVec 32 :=
  let s := if seed = 0 then 1 else seed
  let t := s >>> 1
  if s.getLsbD 0 then t ^^^ 0x80200003 else t

/-- The state after rounding one element, and u: a step is taken under SR only (R73). -/
def rndStep (rm : Nat) (seed : BitVec 32) : BitVec 32 × Nat :=
  if rm = 2 then (lfsrStep seed, fld (lfsrStep seed) 15 0) else (seed, 0)

/-! ### Exact values -/

/-- A value: NaN, an infinity, or (-1)^neg × num / den × 2^ex with den > 0; zero keeps its sign. -/
inductive Val where
  | nan
  | inf (neg : Bool)
  | fin (neg : Bool) (num den : Nat) (ex : Int)
  deriving DecidableEq, Repr

/-- An integer times a power of two. -/
def Val.ofInt (i : Int) (ex : Int) : Val := .fin (decide (i < 0)) i.natAbs 1 ex

/-- Zero with a sign. -/
def Val.zero (neg : Bool) : Val := .fin neg 0 1 0

/-- True for +0 and -0. -/
def Val.isZero : Val → Bool
  | .fin _ n _ _ => decide (n = 0)
  | .nan => false
  | .inf _ => false

/-- True for NaN. -/
def Val.isNan : Val → Bool
  | .nan => true
  | .inf _ => false
  | .fin .. => false

/-- True for a finite value. -/
def Val.isFin : Val → Bool
  | .fin .. => true
  | .nan => false
  | .inf _ => false

/-- The sign inverted. -/
def Val.neg : Val → Val
  | .nan => .nan
  | .inf s => .inf (!s)
  | .fin s n d e => .fin (!s) n d e

/-- The sign cleared. -/
def Val.abs : Val → Val
  | .nan => .nan
  | .inf _ => .inf false
  | .fin _ n d e => .fin false n d e

/-- num and den of a finite magnitude over the common exponent `e0`, which is at most its own. -/
def alignTo (n : Nat) (ex e0 : Int) : Nat := n * 2 ^ (ex - e0).toNat

/-- The exact sum of two values, and INV (R253). An exact zero sum is +0 unless both addends are -0. -/
def Val.add (a b : Val) : Val × BitVec 5 :=
  match a, b with
  | .nan, _ => (.nan, 0)
  | _, .nan => (.nan, 0)
  | .inf s, .inf t => if s = t then (.inf s, 0) else (.nan, fINV)
  | .inf s, .fin .. => (.inf s, 0)
  | .fin .., .inf t => (.inf t, 0)
  | .fin s n d e, .fin t m c f =>
    let e0 := if e < f then e else f
    let x : Int := (if s then -1 else 1) * (alignTo n e e0 * c : Nat)
    let y : Int := (if t then -1 else 1) * (alignTo m f e0 * d : Nat)
    let z := x + y
    if z = 0 then (.zero (s && t && decide (n = 0) && decide (m = 0)), 0)
    else (.fin (decide (z < 0)) z.natAbs (d * c) e0, 0)

/-- The exact product, and INV. -/
def Val.mul (a b : Val) : Val × BitVec 5 :=
  match a, b with
  | .nan, _ => (.nan, 0)
  | _, .nan => (.nan, 0)
  | .inf s, .inf t => (.inf (s != t), 0)
  | .inf s, .fin t m _ _ => if m = 0 then (.nan, fINV) else (.inf (s != t), 0)
  | .fin s n _ _, .inf t => if n = 0 then (.nan, fINV) else (.inf (s != t), 0)
  | .fin s n d e, .fin t m c f => (.fin (s != t) (n * m) (d * c) (e + f), 0)

/-- The exact quotient, and INV. -/
def Val.div (a b : Val) : Val × BitVec 5 :=
  match a, b with
  | .nan, _ => (.nan, 0)
  | _, .nan => (.nan, 0)
  | .inf _, .inf _ => (.nan, fINV)
  | .inf s, .fin t _ _ _ => (.inf (s != t), 0)
  | .fin s _ _ _, .inf t => (.zero (s != t), 0)
  | .fin s n d e, .fin t m c f =>
    if m = 0 then (if n = 0 then (.nan, fINV) else (.inf (s != t), 0))
    else (.fin (s != t) (n * c) (d * m) (e - f), 0)

/-- The integer square root, one bit at a time from bit `k` down. -/
def isqrt : (k : Nat) → (v acc : Nat) → Nat
  | 0, _, acc => acc
  | k + 1, v, acc => if (acc + 2 ^ k) * (acc + 2 ^ k) ≤ v then isqrt k v (acc + 2 ^ k) else isqrt k v acc

/-- The square root with at least 60 significant bits, a last bit that is 1 when bits were lost, and INV. -/
def Val.sqrt (a : Val) : Val × BitVec 5 :=
  match a with
  | .nan => (.nan, 0)
  | .inf s => if s then (.nan, fINV) else (.inf false, 0)
  | .fin s n _ e =>
    if n = 0 then (.zero s, 0)
    else if s then (.nan, fINV)
    else
      let sh : Nat := 128 + (if e % 2 = 0 then 0 else 1)
      let v := n * 2 ^ sh
      let r := isqrt 100 v 0
      let sticky := if r * r = v then 0 else 1
      (.fin false (r * 2 + sticky) 1 ((e - sh) / 2 - 1), 0)

/-- Compares two values that are not NaN: less (0), equal (1, with +0 = -0) or greater (2). -/
def Val.cmp (a b : Val) : Nat :=
  match a, b with
  | .inf s, .inf t => if s = t then 1 else if s then 0 else 2
  | .inf s, _ => if s then 0 else 2
  | _, .inf t => if t then 2 else 0
  | .fin s n d e, .fin t m c f =>
    let e0 := if e < f then e else f
    let x : Int := (if s then -1 else 1) * (alignTo n e e0 * c : Nat)
    let y : Int := (if t then -1 else 1) * (alignTo m f e0 * d : Nat)
    if x < y then 0 else if x = y then 1 else 2
  | _, _ => 1

/-- The sign bit of a value. -/
def Val.sign : Val → Bool
  | .nan => false
  | .inf s => s
  | .fin s _ _ _ => s

/-- a < b with -0 < +0; neither is NaN. -/
def Val.ltz (a b : Val) : Bool :=
  if a.isZero && b.isZero then a.sign && !b.sign else decide (a.cmp b = 0)

/-! ### Rounding -/

/-- floor(log2(num / den)) + ex for num > 0. -/
def magLog (num den : Nat) (ex : Int) : Int :=
  let d : Int := (bitLen (num + 1) num : Int) - (bitLen (den + 1) den : Int)
  let ge := if 0 ≤ d then den * 2 ^ d.toNat ≤ num else den ≤ num * 2 ^ (-d).toNat
  (if ge then d else d - 1) + ex

/-- Rounds num / den × 2^ex in units of 2^q by a mode: the integer and whether it is inexact (R72, R73). -/
def roundUnit (num den : Nat) (ex q : Int) (rm u : Nat) : Nat × Bool :=
  let n := if q ≤ ex then num * 2 ^ (ex - q).toNat else num
  let d := if q ≤ ex then den else den * 2 ^ (q - ex).toNat
  let k := n / d
  let r := n % d
  let up := match rm with
    | 0 => decide (d < 2 * r) || (decide (2 * r = d) && decide (k % 2 = 1))
    | 1 => false
    | _ => decide (u < r * 65536 / d)
  (if up then k + 1 else k, decide (r ≠ 0))

/-- Rounds a magnitude to p significant bits, in units no smaller than 2^qmin where one is given: integer, unit exponent,
inexact. -/
def roundSig (num den : Nat) (ex : Int) (p : Nat) (qmin : Option Int) (rm u : Nat) : Nat × Int × Bool :=
  let q := magLog num den ex - (p - 1 : Nat)
  let q := match qmin with
    | some m => if q < m then m else q
    | none => q
  let (k, x) := roundUnit num den ex q rm u
  (k, q, x)

/-- Rounds a value to an integer (R263, R87). -/
def roundInt (neg : Bool) (num den : Nat) (ex : Int) (rm u : Nat) : Int × Bool :=
  let (k, x) := roundUnit num den ex 0 rm u
  (if neg then -(k : Int) else k, x)

/-- What happens above max finite: R253's arithmetic, R85's scale application, R89's statistic. -/
inductive Over where
  | arith | scale | stat
  deriving DecidableEq, Repr

/-- fp32 and bf16, by their precision p: 24 or 8 significant bits, exponent -126 … 127. -/
def fpMax (p : Nat) : Nat := (255 * 2 ^ (p - 1)) - 1

/-- The pattern of infinity without its sign. -/
def fpInf (p : Nat) : Nat := 255 * 2 ^ (p - 1)

/-- The canonical NaN (R71). -/
def fpNan (p : Nat) : Nat := 255 * 2 ^ (p - 1) + 2 ^ (p - 2)

/-- The sign bit's weight. -/
def fpSign (p : Nat) (neg : Bool) : Nat := if neg then 2 ^ (p + 7) else 0

/-- The value of an fp32 (p = 24) or bf16 (p = 8) pattern; subnormals are used exactly (R71). -/
def fpVal (p : Nat) (c : Nat) : Val :=
  let neg := decide (c / 2 ^ (p + 7) % 2 = 1)
  let e := c / 2 ^ (p - 1) % 256
  let t := c % 2 ^ (p - 1)
  if e = 255 then (if t = 0 then .inf neg else .nan)
  else if e = 0 then .fin neg t 1 (-126 - (p - 1 : Nat))
  else .fin neg (2 ^ (p - 1) + t) 1 ((e : Int) - 127 - (p - 1 : Nat))

/-- Rounds a value once to fp32 or bf16 (R71, R85, R89, R253): the pattern and the flags. -/
def fpRound (p : Nat) (pol : Over) (rm u : Nat) (v : Val) : Nat × BitVec 5 :=
  match v with
  | .nan => (fpNan p, 0)
  | .inf s => (fpInf p + fpSign p s, 0)
  | .fin s n d e =>
    if n = 0 then (fpSign p s, 0)
    else
      let (k, q, x) := roundSig n d e p none rm u
      let (k, q) := if k = 2 ^ p then (k / 2, q + 1) else (k, q)
      let ex := q + (p - 1 : Nat)
      let above := match pol with
        | .scale => decide (Val.cmp (.fin false n d e) (.fin false (2 ^ p - 1) 1 (127 - (p - 1 : Nat))) = 2)
        | .arith => decide (127 < ex)
        | .stat => decide (127 < ex)
      if above then
        (match pol with
         | .scale => (fpMax p + fpSign p s, fOVS ||| fINX)
         | .stat => (fpMax p + fpSign p s, fOVF)
         | .arith => (if rm = 0 then fpInf p + fpSign p s else fpMax p + fpSign p s, fOVF ||| fINX))
      else if ex < -126 then
        (match pol with
         | .stat => (fpSign p s, 0)
         | .arith => (fpSign p s, fUFL ||| fINX)
         | .scale => (fpSign p s, fUFL ||| fINX))
      else
        ((ex + 127).toNat * 2 ^ (p - 1) + (k - 2 ^ (p - 1)) + fpSign p s,
         match pol with
         | .stat => 0
         | .arith => flagIf x fINX
         | .scale => flagIf x fINX)

/-! ### binary8 (R66 to R70) -/

/-- Trailing bits t of a format descriptor. -/
def b8t (f8 : Nat) : Nat := f8 % 8 - 1
/-- UNS. -/
def b8uns (f8 : Nat) : Bool := decide (f8 / 8 % 2 = 1)
/-- INF. -/
def b8inf (f8 : Nat) : Bool := decide (f8 / 16 % 2 = 1)
/-- Exponent width w. -/
def b8w (f8 : Nat) : Nat := (if b8uns f8 then 9 else 8) - f8 % 8
/-- The bias 2^(w - 1). -/
def b8bias (f8 : Nat) : Int := ((2 ^ (b8w f8 - 1) : Nat) : Int)
/-- The NaN code. -/
def b8nan (f8 : Nat) : Nat := if b8uns f8 then 0xFF else 0x80
/-- The code of the largest finite magnitude. -/
def b8max (f8 : Nat) : Nat :=
  if b8uns f8 then (if b8inf f8 then 0xFD else 0xFE) else (if b8inf f8 then 0x7E else 0x7F)

/-- The magnitude of a finite code without its sign. -/
def b8mag (f8 c : Nat) : Val :=
  let t := b8t f8
  let e := c / 2 ^ t
  let m := c % 2 ^ t
  if e = 0 then .fin false m 1 (1 - b8bias f8 - t) else .fin false (2 ^ t + m) 1 ((e : Int) - b8bias f8 - t)

/-- The value of a binary8 code (R67). -/
def b8Val (f8 c : Nat) : Val :=
  if c = b8nan f8 then .nan
  else if b8uns f8 then (if b8inf f8 && c = 0xFE then .inf false else b8mag f8 c)
  else if b8inf f8 && c % 128 = 0x7F then .inf (decide (128 ≤ c))
  else if 128 ≤ c then (b8mag f8 (c - 128)).neg else b8mag f8 c

/-- The fp32 pattern of a value that fp32 holds exactly, subnormals included; NaN is canonical (R71). -/
def fpExact (v : Val) : Nat :=
  let r := fpRound 24 .arith 0 0 v
  match v with
  | .fin s n _ e => if r.2 = 0 then r.1 else fpSign 24 s + n * 2 ^ (e + 149).toNat
  | .nan => r.1
  | .inf _ => r.1

/-- Conversion into binary8 (Table 2.6), or scale application (R85). A value below 0 for an unsigned format gives NaN with INV and INX,
also where R85 would saturate it (log entry 111). -/
def b8Round (f8 : Nat) (pol : Over) (rm u : Nat) (v : Val) : Nat × BitVec 5 :=
  let sg := fun (s : Bool) => if s then 128 else 0
  match v with
  | .nan => (b8nan f8, 0)
  | .inf s =>
    if b8inf f8 && !(s && b8uns f8) then (if b8uns f8 then 0xFE else 0x7F + sg s, 0) else (b8nan f8, fINV)
  | .fin s n d e =>
    if n = 0 then (0, 0)
    else if s && b8uns f8 then (b8nan f8, fINV ||| fINX)
    else
      let t := b8t f8
      let (k, q, x) := roundSig n d e (t + 1) (some (1 - b8bias f8 - t)) rm u
      let top := b8mag f8 (b8max f8)
      let above := match pol with
        | .scale => decide (Val.cmp (.fin false n d e) top = 2)
        | .arith => decide (Val.cmp (.fin false k 1 q) top = 2)
        | .stat => decide (Val.cmp (.fin false k 1 q) top = 2)
      if above then
        (match pol with
         | .scale => (b8max f8 + sg s, fOVS ||| fINX)
         | _ => (if rm = 0 && b8inf f8 then (if b8uns f8 then 0xFE else 0x7F + sg s) else b8max f8 + sg s,
                 fOVF ||| fINX))
      else if k = 0 then (0, fINX)
      else
        let (k, q) := if k = 2 ^ (t + 1) then (k / 2, q + 1) else (k, q)
        let c := if k < 2 ^ t then k else (q + b8bias f8 + t).toNat * 2 ^ t + (k - 2 ^ t)
        (c + sg s, flagIf x fINX)

/-! ### The error statistic (R89) -/

/-- One rounding of the statistic. -/
def statRound (v : Val) : Nat × BitVec 5 := fpRound 24 .stat 0 0 v

/-- MSEA after an element with value x and reconstruction x' (R89, R263). -/
def mseAdd (msea : Word) (x x' : Val) : Word × BitVec 5 :=
  if !x.isFin || !x'.isFin then (msea, 0)
  else
    let (d, f1) := statRound (x.add x'.neg).1
    let dv := fpVal 24 d
    let (d2, f2) := statRound (dv.mul dv).1
    let (sum, f3) := statRound ((fpVal 24 (fld msea 31 0)).add (fpVal 24 d2)).1
    let cnt := Nat.min (fld msea 63 32 + 1) (2 ^ 32 - 1)
    (BitVec.ofNat 64 (sum + cnt * 2 ^ 32), f1 ||| f2 ||| f3)

/-! ### Quantisation (R87, R88) -/

/-- num × 2^ex ≤ q × 2^e for integers num and q. -/
def leScaled (num : Nat) (ex : Int) (q : Nat) (e : Int) : Bool :=
  if e ≤ ex then decide (num * 2 ^ (ex - e).toNat ≤ q) else decide (num ≤ q * 2 ^ (e - ex).toNat)

/-- The least e with num × 2^ex ≤ q × 2^e, for num, q > 0. -/
def leastExp (num : Nat) (ex : Int) (q : Nat) : Int :=
  let l : Int := (bitLen (num + 1) num : Int) - (bitLen (q + 1) q : Int) + ex
  if leScaled num ex q (l - 1) then l - 1 else if leScaled num ex q l then l else l + 1

/-- An integer clamped to lo … hi, and whether it was. -/
def clampInt (lo hi v : Int) : Int × Bool := if v < lo then (lo, true) else if hi < v then (hi, true) else (v, false)

end Sys2Proof.Machine
end

