-- ==== Sys2Proof/Machine/Issue.lean ====
section
/-! DEFINITION. Issue of engine instructions into the queues (R24 to R29, R36, R106 to R110), follow-on commands (R109,
R286), tokens (R32, R33) and the completion of a command (R26, R36, R188). -/

namespace Sys2Proof.Machine

/-- The position after an entry of a queue's chain (R27, R388). -/
def nextPos (tcfg : Word) (q : Q) (x : Queue) (at_ : BitVec 32) : BitVec 32 :=
  let i := fld at_ 23 0
  match x.segs.find? (fun sg => decide (sg.2.1 = at_)) with
  | some sg => BitVec.ofNat 32 (sg.1 + 2 ^ 31)
  | none =>
    if bit at_ 31 then
      (if i % 256 = 255 then
        (match x.segs.find? (fun sg => decide (sg.1 = i / 256 * 256)) with
         | some sg => sg.2.2.1
         | none => at_)
       else at_ + 1)
    else
      let b := ringBase tcfg q
      BitVec.ofNat 32 (b + (i - b + 1) % 256)

/-- The 64 bytes of a queue entry (Table 1.4). -/
def QEntry.bytes (e : QEntry) (link : BitVec 32) : List Byte :=
  leBytes 8 e.cmd.toNat ++ leBytes 8 e.opv0.toNat ++ leBytes 8 e.opv1.toNat ++ leBytes 8 e.opv2.toNat ++
  leBytes 8 e.ximm.toNat ++ leBytes 4 link.toNat ++ leBytes 4 (e.isn.toNat % 2 ^ 32) ++ leBytes 16 0

/-- A new entry of queue q for a command word and its captured operands, issued by the continuation that runs. -/
def State.newEntry (s : State) (q : Q) (cmd o0 o1 o2 ximm : Word) (sc : Scope) (fol : Option Word) : QEntry :=
  let t := s.me
  let x := t.queue q
  { cmd := cmd, opv0 := o0, opv1 := o1, opv2 := o2, ximm := ximm, isn := x.isn + 1, at_ := x.tail, atM := t.tcc.atM,
    region := match t.cont with
      | some c => c.region
      | none => t.trapRegion,
    img := match t.cont with
      | some c => c.img
      | none => t.tcc.img,
    scope := sc, fol := fol, st := .waiting, popped := false, held := false, rpc := none, rcur := 0, rline := none, run := cmd, sub := 0, r0 := o0, r1 := o1, r2 := o2,
    beat := 0, row := 0, off := 0, cap := [], carry := [], asc := false, parts := [], made := false, park := none, flags := 0,
    far := [], eff := false }

/-- Appends an entry at the tail of a queue of the executing tile: the entry's bytes go into its chain, the issue number
and the tail advance (R24, R26, R27). -/
def State.append (s : State) (q : Q) (e : QEntry) : State :=
  let t := s.me
  let x := t.queue q
  let nx := nextPos t.tcfg q x x.tail
  let x' := { x with ents := x.ents ++ [e], isn := e.isn, tail := nx,
                     head := match x.ents with
                       | [] => x.tail
                       | _ :: _ => x.head }
  let s := s.updMe (fun t => (t.setQueue q x').bump (128 + q.code))
  if bit x.tail 31 then s
  else s.storeHome (tileBase s.gid + fld x.tail 23 0 * 64) (e.bytes nx)

/-- Issue of a copy on tag i: its count rises and its ready bit falls (R36). -/
def Tile.tagIssue (t : Tile) (i : Nat) : Tile :=
  let t := t.setTagCount i (t.tagCount i + 1)
  { t with tags := setBit t.tags i false }

/-- BCLOSE (R187): a non-empty open batch becomes the newest outstanding one; nothing when it must wait for the oldest. -/
def State.bclose (s : State) : Option Tile :=
  let t := s.me
  let t := { t with batches := s.openBatches s.gid t.batches }
  if t.openBatch.isEmpty then some t
  else if 16 ≤ t.batches.length then none
  else some { t with openBatch := [], batches := s.openBatches s.gid (t.batches ++ [t.openBatch]) }

/-- The XIMM a copy takes from an IMX prefix: the 48-bit value sign-extended, else zero (R273). -/
def State.ximm (s : State) : Word :=
  match s.cur.pfx with
  | some p => match p.imx with
    | some x => w64 x.toInt
    | none => 0
  | none => 0

/-- The operands an engine instruction captures, given how its register fields are read: OPV0 to OPV2 from GA, GB, GC
(Table 1.4); for majors 0x29 to 0x30 OPV0 from GB and OPV1 from GC, where they name general registers (R245). -/
def captureWith (rd : Reg → Word) (i : Instr) (e : Eng) : Word × Word × Word :=
  if i.isVector then (if i.gbGeneral then rd e.gb else 0, if i.gcGeneral then rd e.gc else 0, 0)
  else (rd e.ga, rd e.gb, rd e.gc)

/-- The operands captured at issue in the control stream (R25). -/
def State.capture (s : State) (i : Instr) (e : Eng) : Word × Word × Word := captureWith s.g i e

/-- The instruction that a command word holds. -/
def cmdInstr (cmd : Word) : Option Instr :=
  match parse (fld cmd 31 0) (fld cmd 63 32) with
  | .ok i => some i
  | .error _ => none

/-- A command rounds under SR (R73); a routine may. -/
def usesSr (cmd : Word) : Bool :=
  match cmdInstr cmd with
  | none => false
  | some i => match i with
    | .xcall _ => true
    | .mdrain e => decide (e.w1 13 12 = 2)
    | _ => i.isVector && (match i.eng? with
      | some e => decide (e.rm = 2)
      | none => false)

/-- Some command that uses SR is in the queue (R73). -/
def Queue.usesSr (x : Queue) : Bool := x.ents.any (fun e => decide (e.st ≠ .done) && Machine.usesSr e.cmd)

/-- The command word of an engine instruction (Table 1.4, CMD). -/
def cmdWord (i : Instr) : Word := BitVec.ofNat 64 ((encode i).1 + (encode i).2 * 2 ^ 32)

/-- The follow-on of a copy with FOL = 1: the next instruction of the stream, which must be of majors 0x21 to 0x30 and
carry no prefix (R109). Gives it with the state in which it has been fetched. Where it would stand in a line beyond the image, the copy
is illegal as where there is none (log entry 92). -/
def State.followOn (s : State) : Res (Instr × Eng) :=
  let w0 := s.cur.iw.toNat % 2 ^ 32
  let c := s.cur
  let bad := fun (w1 : Nat) (s' : State) =>
    Res.trap { trapIllegal with eword := some (BitVec.ofNat 64 (w0 + w1 * 2 ^ 32)) } s'
  match c.succ with
  | none => bad 0 s
  | some a =>
    if s.image.2 ≤ lineOf a then bad 0 s
    else
      let s1 := s.setCur { c with pc := a, lined := c.sameLine a, pfx := none }
      match s1.fetch with
      | .wait s2 => .wait (s2.setCur c)
      | .trap t s2 => if t.cause = 1 then bad (s2.cur.iw.toNat % 2 ^ 32) (s2.setCur c) else .trap t (s2.setCur c)
      | .ok i s2 =>
        match i.eng?, i.queue? with
        | some e, some .x =>
          (match i with
           | .tokp _ => bad (s2.cur.iw.toNat % 2 ^ 32) (s2.setCur c)
           | .xcall _ => bad (s2.cur.iw.toNat % 2 ^ 32) (s2.setCur c)
           | _ => .ok (i, e) s2)
        | _, _ => bad (s2.cur.iw.toNat % 2 ^ 32) (s2.setCur c)

/-- The issue of an engine instruction once its queue has room: the entry, the tag, the batch. -/
def State.issueOne (s : State) (i : Instr) (e : Eng) (q : Q) : State :=
  let (o0, o1, o2) := s.capture i e
  let en := s.newEntry q (cmdWord i) o0 o1 o2 s.ximm (s.scope .domain) none
  let s := s.append q en
  let s := if i.isCopy then s.updMe (fun t => t.tagIssue e.tag.toNat) else s
  if e.bat then s.updMe (fun t => { t with openBatch := t.openBatch ++ [(q, en.isn)] }) else s

/-- A copy and its follow-on issued as one unit (R109, R286): two entries, the second linked to the first. The unit
retires at the follow-on's address, unless an active loop ends at the copy (log entry 23). -/
def State.issuePair (s : State) (i : Instr) (e : Eng) (q : Q) : Res Flow :=
  let c := s.cur
  s.followOn.andThen fun p s1 =>
    let c1 := s1.cur
    if (s1.me.queue .x).isFull then .wait (s1.setCur c)
    else
      let s2 := (s1.setCur c).issueOne i e q
      let isn := (s2.me.queue q).isn
      let (o0, o1, o2) := s2.capture p.1 p.2
      let en := s2.newEntry .x (cmdWord p.1) o0 o1 o2 0 .domain (some isn)
      let s3 := s2.append .x en
      let atCopy := (decide (c.loop0.lc ≠ 0) && decide (c.loop0.ae = c.pc)) ||
        (decide (c.loop1.lc ≠ 0) && decide (c.loop1.ae = c.pc))
      .ok .seq (s3.updCur (fun c2 => { c2 with succ := c1.succ, pc := if atCopy then c.pc else c1.pc,
                                               lined := c1.lined, ibuf := c1.ibuf }))

/-- The issue of an engine instruction by the control core (R110): a full queue, a tag at 255 and a batch that cannot be
closed stall it (R29, R36, R187). -/
def issueBody (i : Instr) (e : Eng) (q : Q) (s : State) : Res Flow :=
  if s.onCore then .trap trapIllegal s
  else
    let t := s.me
    if (t.queue q).isFull then .wait s
    else if i.isCopy && t.tagCount e.tag.toNat = 255 then .wait s
    else
      let go := fun (s : State) => if e.fol then s.issuePair i e q else Res.ok Flow.seq (s.issueOne i e q)
      if e.bat && decide (65535 ≤ t.openBatch.length) then
        (match s.bclose with
         | none => .wait s
         | some t' => go (s.updMe (fun _ => t')))
      else go s

/-- The issue of an engine instruction: copies take both prefixes, other commands none (R112, R113). -/
def issue (i : Instr) (e : Eng) (q : Q) (s : State) : Out := s.run i.isCopy i.isCopy (issueBody i e q)

/-! ### Tokens and completion -/

/-- The FIFO a pop-before or push-after bit names (R107): left = bits 0 and 2, right = bits 1 and 3. -/
def popFifo (q : Q) (left : Bool) : Option Fifo :=
  match q, left with
  | .l, true => none
  | .l, false => some .xl
  | .x, true => some .lx
  | .x, false => some .sx
  | .s, true => some .xs
  | .s, false => none

/-- The FIFO a push-after bit names (R107). -/
def pushFifo (q : Q) (left : Bool) : Option Fifo :=
  match q, left with
  | .l, true => none
  | .l, false => some .lx
  | .x, true => some .xl
  | .x, false => some .xs
  | .s, true => some .sx
  | .s, false => none

/-- The FIFOs a command pops before it begins. -/
def popsOf (q : Q) (cmd : Word) : List Fifo :=
  (if bit cmd 32 then (popFifo q true).toList else []) ++ (if bit cmd 33 then (popFifo q false).toList else [])

/-- The FIFOs a command pushes when it completes. -/
def pushesOf (q : Q) (cmd : Word) : List Fifo :=
  (if bit cmd 34 then (pushFifo q true).toList else []) ++ (if bit cmd 35 then (pushFifo q false).toList else [])

/-- Every FIFO of a command's pops holds a token (R32). -/
def Tile.canPop (t : Tile) (q : Q) (cmd : Word) : Bool := (popsOf q cmd).all (fun f => decide (0 < t.fifo f))

/-- Every FIFO of a command's pushes has room (R33). -/
def Tile.canPush (t : Tile) (q : Q) (cmd : Word) : Bool := (pushesOf q cmd).all (fun f => decide (t.fifo f < 16))

/-- Takes the pop-before tokens. -/
def Tile.pops (t : Tile) (q : Q) (cmd : Word) : Tile :=
  (popsOf q cmd).foldl (fun t f => t.setFifo f (t.fifo f - 1)) t

/-- Makes the push-after tokens enter, with event latch 1 (R309). -/
def Tile.pushes (t : Tile) (q : Q) (cmd : Word) : Tile :=
  (pushesOf q cmd).foldl (fun t f => (t.setFifo f (t.fifo f + 1)).latch 1) t

/-- A copy on tag i completes: its count falls, and at zero its ready bit is set (R36, R309). A count that an MTS at M has set to 0
stays 0, and the bit and the latch are set as at any other completion (log entry 91). -/
def Tile.tagComplete (t : Tile) (i : Nat) : Tile :=
  let t := { t.setTagCount i (t.tagCount i - 1) with stall := 0 }
  if t.tagCount i = 0 then { t with tags := setBit t.tags i true }.latch 0 else t

/-- Changes the entry of a queue that has a number. -/
def State.updEntry (s : State) (g : Nat) (q : Q) (isn : Word) (f : QEntry → QEntry) : State :=
  s.updQueue g q (fun x => { x with ents := updWhere (fun e => decide (e.isn = isn)) f x.ents })

/-- The entry of a queue that has a number. -/
def Queue.entry (x : Queue) (isn : Word) : Option QEntry := x.ents.find? (fun e => decide (e.isn = isn))

/-- The ACT bit of a queue's micro-PC falls when the command it names ends (Table 1.8). -/
def Queue.mpcIdle (isn : Word) (x : Queue) : Queue :=
  if fld x.mpc 62 32 = isn.toNat % 2 ^ 31 then { x with mpc := setBit x.mpc 31 false } else x

/-- Completion of a command: push-after, tag, completion number, mirror, latches, batch, counters (R26, R32, R36, R188). A
push into a full FIFO keeps it uncompleted (R33). -/
def State.complete (s : State) (g : Nat) (q : Q) (isn : Word) : State :=
  match ((s.tile g).queue q).entry isn with
  | none => s
  | some e =>
    if !(s.tile g).canPush q e.cmd then s.updEntry g q isn (fun e => { e with held := true })
    else
      let s := s.updTile g (fun t =>
        let t := (t.pushes q e.cmd).bump (131 + q.code)
        let t := match tagOf e.cmd with
          | some i => t.tagComplete i
          | none => t
        { t with fstat := t.fstat ||| e.flags, stall := 0 })
      let s := (s.updEntry g q isn (fun e => { e with st := .done })).updQueue g q (Queue.mpcIdle isn)
      let s := s.settleQueue g q
      s.batchSettle g

/-! ### Engine faults (R278, R429) -/

/-- An engine fault at a command: the queue stops with the command at its micro-PC, and the fault waits to be taken
(R429), the flags that it has collected are kept (R75); a fault of disposition D ends the charged domain (R435). A fault in a routine
has the words of its XCALL in EWORD (R111, log entry 114). -/
def State.engineFault (s : State) (g : Nat) (q : Q) (e : QEntry) (t : TrapI) : State :=
  let word := e.cmd
  if causeEnds t.cause then
    match (s.tile g).bound with
    | none => s
    | some k =>
      let dom := match AMap.find? s.launches k with
        | some l => l.domOf e.region
        | none => 0
      s.endDomain k dom { ErrRec.ofType 1 with cause := t.cause, sub := t.sub, loc := whereTile g,
                                               flg := b2n t.effect + s.injFlag t, info := t.info.toNat, cmd := word.toNat,
                                               pc := e.isn.toNat % 2 ^ 32 }
  else
    let f : EngFault := { q := q, cause := t.cause, sub := t.sub, info := t.info, word := word, isn := e.isn,
                          frz := false, region := e.region, host := false }
    let fl := match ((s.tile g).queue q).entry e.isn with
      | some k => k.flags
      | none => 0
    (s.updQueue g q (fun x => { x with stopped := true })).updTile g (fun t =>
      { t with faults := t.faults ++ [f], fstat := t.fstat ||| fl })

/-- A copy-fault freeze (R278): all three queues stop, STATUS.FRZ := 1, the fault waits to be taken. Answers that the beat has had
from other packages are forgotten: it is made again as a whole (R334). -/
def State.freeze (s : State) (g : Nat) (q : Q) (e : QEntry) (t : TrapI) : State :=
  if causeEnds t.cause then s.engineFault g q e t
  else
    let f : EngFault := { q := q, cause := t.cause, sub := t.sub, info := t.info, word := e.cmd, isn := e.isn,
                          frz := true, region := e.region, host := bit s.mbox.duty 1 && (t.cause = 7 || t.cause = 8) }
    (s.updEntry g q e.isn (fun k => { k with far := [] })).updTile g (fun t => { t with
      frz := true, faults := t.faults ++ [f], lq := { t.lq with stopped := true }, xq := { t.xq with stopped := true },
      sq := { t.sq with stopped := true } })

/-- The micro-PC of a command at step n of a fixed sequence, or at a routine's line:slot (Table 1.8). -/
def mpcOf (isn : Word) (rpc : Option CodeAddr) (n : Nat) : Word :=
  let c := isn.toNat % 2 ^ 31 * 2 ^ 32 + 2 ^ 31
  match rpc with
  | none => BitVec.ofNat 64 (c + n % 65536)
  | some a => BitVec.ofNat 64 (c + a.toNat + 2 ^ 63)

end Sys2Proof.Machine
end

