-- ==== Sys2Proof/Machine/Operands.lean ====
section
/-! DEFINITION. Operand forms of the engines: vector elements, masks and broadcast operands (R242 to R247), local offsets
(R51, R275), packed mantissas and scale groups (R57 to R65), accumulator words and staging slots (R76). -/

namespace Sys2Proof.Machine

/-- What a command of an engine gives when it is run: its effects with the flags it collects and the value it pushes into
XRET; an engine fault; or nothing yet (it is held). -/
inductive XRes where
  | done (s : State) (flags : BitVec 5) (push : Option Word)
  /-- A step of the command has been made; it goes on with the next one. -/
  | more (s : State)
  | fault (t : TrapI) (s : State)
  | hold

/-! ### Vector elements (R244) -/

/-- Element width of an ET code (Table 7.2). -/
def etWidth (et : Nat) : Nat := match et with
  | 0 => 32
  | 1 => 16
  | 2 => 8
  | 3 => 32
  | _ => 16

/-- Element e of width w. -/
def vel (v : BitVec 2048) (w e : Nat) : Nat := v.toNat / 2 ^ (w * e) % 2 ^ w

/-- A register from its elements of width w, the first lowest. -/
def vpack (w : Nat) : List Nat → Nat
  | [] => 0
  | x :: r => x % 2 ^ w + 2 ^ w * vpack w r

/-- A register from its elements. -/
def vecOf (w : Nat) (xs : List Nat) : BitVec 2048 := BitVec.ofNat 2048 (vpack w xs)

/-- The lane of element e of width w. -/
def laneOf (w e : Nat) : Nat := w * e / 32

/-- Vector register r. -/
def Vxe.reg (x : Vxe) (r : Reg) : BitVec 2048 := x.v[r.toNat]

/-- Writes vector register r. -/
def Vxe.setReg (x : Vxe) (r : Reg) (v : BitVec 2048) : Vxe := { x with v := x.v.set r.toNat v }

/-- Mask mk: m0 reads as all ones (R243). -/
def Vxe.mask (x : Vxe) (k : BitVec 3) : Word := if k = 0 then ~~~0 else x.m[k.toNat]

/-- Writes a mask; a write to m0 is discarded. -/
def Vxe.setMask (x : Vxe) (k : BitVec 3) (v : Word) : Vxe := if k = 0 then x else { x with m := x.m.set k.toNat v }

/-- A mask register named by the low bits of a register field. -/
def maskField (r : Reg) : BitVec 3 := r.truncate 3

/-- Operand b: the vector, or the general register broadcast when SC = 1 (R247). -/
def bElem (x : Vxe) (e : Eng) (r1 : Word) (w i : Nat) : Nat :=
  if e.sc then r1.toNat % 2 ^ w else vel (x.reg e.gc) w i

/-- Writes the results of the active elements (R247): inactive ones are zeroed under MZ, else kept. -/
def maskedWrite (x : Vxe) (e : Eng) (w : Nat) (res : List Nat) : Vxe :=
  let old := x.reg e.ga
  let m := x.mask e.mk_
  let xs := res.zipIdx.map (fun (v, i) =>
    if m.getLsbD (laneOf w i) then v else if e.mz then 0 else vel old w i)
  x.setReg e.ga (vecOf w xs)

/-- Element i is active. -/
def activeEl (x : Vxe) (e : Eng) (w i : Nat) : Bool := (x.mask e.mk_).getLsbD (laneOf w i)

/-! ### Local offsets (R51) -/

/-- Canonical address of a local offset of a tile. -/
def localKey (g off : Nat) : Nat := tileBase g + off

/-- A read of local bytes on the X path of the tile (3 in R104); an uncorrectable word is reported (R449). -/
def State.localRead (s : State) (g off n : Nat) : Except TrapI (List Byte) × State :=
  let h := s.readHome 3 (localKey g off) n
  match h.bad with
  | some w => (.error (TrapI.mk3 9 1 (BitVec.ofNat 64 w)), h.s)
  | none => (.ok h.bytes, h.s)

/-- A write of local bytes by an engine of the tile. -/
def State.localWrite (s : State) (g off : Nat) (bs : List Byte) : Except TrapI State :=
  match s.writeHome (localKey g off) bs with
  | .error w => .error (TrapI.mk3 9 1 (BitVec.ofNat 64 w))
  | .ok s' => .ok s'

/-- Several local writes, none of them made when one would be refused. -/
def State.localWrites (s : State) (g : Nat) : List (Nat × List Byte) → Except TrapI State
  | [] => .ok s
  | (off, bs) :: r =>
    match s.localWrite g off bs with
    | .error t => .error t
    | .ok s' => State.localWrites s' g r

/-- A local range lies wholly in memory of Table 1.9 (R46, R50). -/
def Tile.localOk (t : Tile) (off n : Nat) : Bool := !t.offBad off n

/-! ### Packed mantissas (R59, R64) and scale groups (R62) -/

/-- Width of a BSI format code 0 to 4: BSI4, BSI6, BSI8, BSI12, BSI16. -/
def bsiWidth (f : Nat) : Nat := match f with
  | 0 => 4
  | 1 => 6
  | 2 => 8
  | 3 => 12
  | _ => 16

/-- Element i of a packed bit string of width w (R59), as an unsigned pattern. -/
def packed (w : Nat) (bits i : Nat) : Nat := bits / 2 ^ (w * i) % 2 ^ w

/-- The c mantissas of a packed block. -/
def mantissas (w c : Nat) (bytes : List Byte) : List Int :=
  let bits := ofBytes bytes
  (List.range c).map (fun i => sextN w (packed w bits i))

/-- Packs mantissas into ceil(c·w / 8) bytes, pad bits zero (R59). -/
def packMant (w : Nat) (ms : List Int) : List Byte :=
  leBytes (cdiv (ms.length * w) 8) (vpack w (ms.map (fun m => wrapN w m)))

/-- The scale of block b of a stream of groups whose bytes are given (Table 2.2). -/
def scaleAt (bytes : List Byte) (b : Nat) : Byte := bytes.getD (b / 15 * 16 + 1 + b % 15) 0

/-- Number of scale groups of n blocks. -/
def groupsOf (n : Nat) : Nat := cdiv n 15

/-- Bytes of an accumulator word (R76). -/
def accBytes (a : Int) : List Byte := leBytes 10 (wrapN 80 a)

/-- Bytes of a staging slot (R76): bits [127:80] copy bit 79. -/
def slotBytes (a : Int) : List Byte := leBytes 16 (wrapN 128 a)

/-- The value of an accumulator word. -/
def accVal (bs : List Byte) : Int := sextN 80 (ofBytes (bs.take 10))

/-- True when an exact sum fits an accumulator word (R79). -/
def accFits (a : Int) : Bool := decide (-(2 ^ 79 : Int) ≤ a) && decide (a ≤ 2 ^ 79 - 1)

end Sys2Proof.Machine
end

