-- ==== Sys2Proof/Machine/VecOps.lean ====
section
/-! DEFINITION. What the vector instructions compute (spec/07_vector_instructions.md R247 to R272). Each function gives all
effects of a command in one step at its completion (R248). r0 is the value of GB's general register, r1 that of GC's. -/

namespace Sys2Proof.Machine

/-- A vector command that changes only the vector engine of its tile. -/
def State.vdone (s : State) (g : Nat) (x : Vxe) : XRes := .done (s.updTile g (fun t => { t with vxe := x })) 0 none

/-! ### Integer and bit instructions -/

/-- VINT and VBIT with two operands: f of the width and the two patterns (R249, R250). -/
def vint2 (s : State) (g : Nat) (e : Eng) (r1 : Word) (f : Nat → Nat → Nat → Nat) : XRes :=
  let x := (s.tile g).vxe
  let w := etWidth e.et
  let res := (List.range (2048 / w)).map (fun i => f w (vel (x.reg e.gb) w i) (bElem x e r1 w i))
  s.vdone g (maskedWrite x e w res)

/-- The one-operand forms. -/
def vint1 (s : State) (g : Nat) (e : Eng) (f : Nat → Nat → Nat) : XRes := vint2 s g e 0 (fun w a _ => f w a)

/-- S(v) clamped to w bits. -/
def satN (w : Nat) (v : Int) : Nat := wrapN w (clampInt (-(2 ^ (w - 1) : Int)) (2 ^ (w - 1) - 1) v).1

/-- The shift amount of a vector shift: U(b[log2(w) - 1 : 0]) (R250). -/
def vshAmt (w b : Nat) : Nat := b % w

/-- The carry-less product (R251), bit by bit from bit `k - 1` of b down. -/
def clmul : (k : Nat) → (a b : Nat) → Nat
  | 0, _, _ => 0
  | k + 1, a, b => (if b / 2 ^ k % 2 = 1 then a * 2 ^ k else 0) ^^^ clmul k a b

/-- VRET (R252): element IDX is pushed into XRET. -/
def vret (s : State) (g : Nat) (e : Eng) : XRes :=
  .done s 0 (some (BitVec.ofNat 64 (vel ((s.tile g).vxe.reg e.gb) (etWidth e.et) (e.w1 23 16))))

/-! ### Floating point -/

/-- Significant bits of an ET: fp32 or bf16. -/
def etPrec (et : Nat) : Nat := if et = 3 then 24 else 8

/-- Elements one at a time in ascending order, with the LFSR and the collected flags: f gives an element's pattern, its
flags and the LFSR after it (R73, R75). Inactive elements take no step. -/
def foldElems (n : Nat) (act : Nat → Bool) (seed : BitVec 32) (f : Nat → BitVec 32 → Nat × BitVec 5 × BitVec 32) :
    List Nat × BitVec 5 × BitVec 32 :=
  let (r, fl, sd) := (List.range n).foldl (fun (acc : List Nat × BitVec 5 × BitVec 32) i =>
    if act i then
      let (c, fl, sd) := f i acc.2.2
      (c :: acc.1, acc.2.1 ||| fl, sd)
    else (0 :: acc.1, acc.2.1, acc.2.2)) ([], 0, seed)
  (r.reverse, fl, sd)

/-- The end of a floating-point command: the vector written, SEED and the flags. -/
def State.fdone (s : State) (g : Nat) (x : Vxe) (seed : BitVec 32) (fl : BitVec 5) (push : Option Word) : XRes :=
  .done (s.updTile g (fun t => { t with vxe := x, seed := seed })) fl push

/-- A VFLT form: the exact result of a, b and the old vd, with INV; rounded once by RM (R253). -/
def vflt (s : State) (g : Nat) (e : Eng) (r1 : Word) (f : Val → Val → Val → Val × BitVec 5) : XRes :=
  let t := s.tile g
  let x := t.vxe
  let w := etWidth e.et
  let p := etPrec e.et
  let (res, fl, sd) := foldElems (2048 / w) (activeEl x e w) t.seed (fun i sd =>
    let (v, f1) := f (fpVal p (vel (x.reg e.gb) w i)) (fpVal p (bElem x e r1 w i)) (fpVal p (vel (x.reg e.ga) w i))
    let (sd, u) := rndStep e.rm sd
    let (c, f2) := fpRound p .arith e.rm u v
    (c, f1 ||| f2, sd))
  s.fdone g (maskedWrite x e w res) sd fl none

/-- a × b + d with one rounding: 0 × infinity is INV even when d is NaN (R253). -/
def fmaVal (a b d : Val) : Val × BitVec 5 :=
  let (m, f1) := a.mul b
  let (v, f2) := m.add d
  (v, f1 ||| f2)

/-- VFMIN and VFMAX (R253): -0 < +0; one NaN gives the other operand. -/
def fminVal (max : Bool) (a b : Val) : Val × BitVec 5 :=
  if a.isNan then (b, 0)
  else if b.isNan then (a, 0)
  else if max then (if a.ltz b then b else a, 0) else (if b.ltz a then b else a, 0)

/-! ### Compares and masks -/

/-- A compare: one bit per lane, and the flags of the active lanes (R254). -/
def vcmp (s : State) (g : Nat) (e : Eng) (r1 : Word) (f : Nat → Nat → Bool × BitVec 5) : XRes :=
  let x := (s.tile g).vxe
  let m := x.mask e.mk_
  let k := maskField e.ga
  let old := x.mask k
  let r := (List.range 64).map (fun l => f (vel (x.reg e.gb) 32 l) (bElem x e r1 32 l))
  let v := r.zipIdx.foldl (fun (a : Nat) (c, l) =>
    a + (if m.getLsbD l then b2n c.1 else if e.mz then 0 else b2n (old.getLsbD l)) * 2 ^ l) 0
  let fl := r.zipIdx.foldl (fun (a : BitVec 5) (c, l) => if m.getLsbD l then a ||| c.2 else a) 0
  .done (s.updTile g (fun t => { t with vxe := x.setMask k (BitVec.ofNat 64 v) })) fl none

/-- VFCMPEQ and VFCMPLT on two fp32 patterns. -/
def fcmpEq (a b : Nat) : Bool × BitVec 5 :=
  let x := fpVal 24 a
  let y := fpVal 24 b
  (!x.isNan && !y.isNan && decide (x.cmp y = 1), 0)

/-- See `fcmpEq`. -/
def fcmpLt (a b : Nat) : Bool × BitVec 5 :=
  let x := fpVal 24 a
  let y := fpVal 24 b
  if x.isNan || y.isNan then (false, fINV) else (decide (x.cmp y = 0), 0)

/-- VSEL (R255). -/
def vsel (s : State) (g : Nat) (e : Eng) (r1 : Word) : XRes :=
  let x := (s.tile g).vxe
  let m := x.mask e.mk_
  let res := (List.range 64).map (fun l => if m.getLsbD l then vel (x.reg e.gb) 32 l else bElem x e r1 32 l)
  s.vdone g (x.setReg e.ga (vecOf 32 res))

/-- VMASK (R256). -/
def vmask (s : State) (g : Nat) (e : Eng) (r0 : Word) : XRes :=
  let x := (s.tile g).vxe
  let a := x.mask (maskField e.gb)
  let b := x.mask (maskField e.gc)
  let put := fun (v : Word) => s.vdone g (x.setMask (maskField e.ga) v)
  match e.w1 18 16 with
  | 0 => put (a &&& b)
  | 1 => put (a ||| b)
  | 2 => put (a ^^^ b)
  | 3 => put (a &&& ~~~ b)
  | 4 => put (~~~ a)
  | 5 => put r0
  | 6 => .done s 0 (some a)
  | _ => .done s 0 (some (BitVec.ofNat 64 (popc 64 a.toNat)))

/-! ### Reductions and permutes -/

/-- A vector that is 0 but for element 0. -/
def only0 (w r : Nat) : BitVec 2048 := BitVec.ofNat 2048 (r % 2 ^ w)

/-- The integer reductions (R257): a start value and a step on patterns of width w. -/
def vred (s : State) (g : Nat) (e : Eng) (init : Nat → Nat) (f : Nat → Nat → Nat → Nat) : XRes :=
  let x := (s.tile g).vxe
  let w := etWidth e.et
  let ins := ((List.range (2048 / w)).filter (activeEl x e w)).map (fun i => vel (x.reg e.gb) w i)
  let r := match ins with
    | [] => init w
    | a :: r => r.foldl (f w) a
  let uns := decide (e.w1 16 16 = 1)
  let push := if e.xr then some (if uns then BitVec.ofNat 64 r else w64 (sextN w r)) else none
  .done (s.updTile g (fun t => { t with vxe := x.setReg e.ga (only0 w r) })) 0 push

/-- The smaller or larger of two patterns, signed or unsigned; the first when they are equal. -/
def pickN (max uns : Bool) (w a b : Nat) : Nat :=
  let lt := if uns then decide (a < b) else decide (sextN w a < sextN w b)
  let gt := if uns then decide (b < a) else decide (sextN w b < sextN w a)
  if max then (if lt then b else a) else (if gt then b else a)

/-- One level of the canonical tree (R90): adjacent pairs are summed in ascending order, an odd last one is kept. -/
def treeLevel (p rm : Nat) : List Nat → BitVec 32 → BitVec 5 → List Nat × BitVec 32 × BitVec 5
  | a :: b :: r, sd, fl =>
    let (v, f1) := (fpVal p a).add (fpVal p b)
    let (sd, u) := rndStep rm sd
    let (c, f2) := fpRound p .arith rm u v
    let (cs, sd, fl) := treeLevel p rm r sd (fl ||| f1 ||| f2)
    (c :: cs, sd, fl)
  | l, sd, fl => (l, sd, fl)

/-- The canonical tree over a list (R90), level by level. -/
def tree (p rm : Nat) : (fuel : Nat) → List Nat → BitVec 32 → BitVec 5 → Nat × BitVec 32 × BitVec 5
  | _, [], sd, fl => (0, sd, fl)
  | 0, a :: _, sd, fl => (a, sd, fl)
  | f + 1, a :: b :: r, sd, fl =>
    let (l, sd, fl) := treeLevel p rm (a :: b :: r) sd fl
    tree p rm f l sd fl
  | _, [a], sd, fl => (a, sd, fl)

/-- VFREDADD (R258): an inactive element enters the tree as -0. -/
def vfredadd (s : State) (g : Nat) (e : Eng) : XRes :=
  let t := s.tile g
  let x := t.vxe
  let w := etWidth e.et
  let p := etPrec e.et
  let ins := (List.range (2048 / w)).map (fun i =>
    if activeEl x e w i then vel (x.reg e.gb) w i else 2 ^ (w - 1))
  let (r, sd, fl) := tree p e.rm 8 ins t.seed 0
  s.fdone g (x.setReg e.ga (only0 w r)) sd fl (if e.xr then some (BitVec.ofNat 64 r) else none)

/-- VPERM (R259). -/
def vperm (s : State) (g : Nat) (e : Eng) (r1 : Word) : XRes :=
  let x := (s.tile g).vxe
  let w := etWidth e.et
  let n := 2048 / w
  s.vdone g (maskedWrite x e w ((List.range n).map (fun i => vel (x.reg e.gb) w (bElem x e r1 w i % n))))

/-- VSLIDE (R259). -/
def vslide (s : State) (g : Nat) (e : Eng) : XRes :=
  let x := (s.tile g).vxe
  let w := etWidth e.et
  let n := 2048 / w
  let k := sextN 9 (e.w1 24 16)
  s.vdone g (maskedWrite x e w ((List.range n).map (fun i =>
    let j : Int := i + k
    if 0 ≤ j ∧ j < n then vel (x.reg e.gb) w j.toNat
    else if (n : Int) ≤ j ∧ j < 2 * n then vel (x.reg e.gc) w (j - n).toNat
    else 0)))

/-! ### Memory instructions -/

/-- The active lanes of a memory instruction with their addresses (R260). -/
def vlanes (x : Vxe) (e : Eng) (addr : Nat → Word) : List (Nat × Word) :=
  ((List.range 64).filter (fun l => (x.mask e.mk_).getLsbD l)).map (fun l => (l, addr l))

/-- The first failing lane of a check, as a fault (R261, Table 13.4). The lane stands in EINFO[63:56] for every cause, the queue-region
fault too (log entry 89). -/
def laneFault (ls : List (Nat × Word)) (cause : Nat) (bad : Word → Bool) : Option TrapI :=
  match ls.find? (fun p => bad p.2) with
  | some (l, a) => some (TrapI.mk3 cause 0 (BitVec.ofNat 64 (fld a 23 0 + l * 2 ^ 56)))
  | none => none

/-- The checks of R261 in their order. -/
def Tile.laneChecks (t : Tile) (ls : List (Nat × Word)) (write add : Bool) : Option TrapI :=
  let n := if add then 8 else 4
  let c1 := laneFault ls 6 (fun a => decide (a.toNat % n ≠ 0))
  let c2 := laneFault ls 5 (fun a =>
    decide (2 ^ 24 ≤ a.toNat) || t.offBad a.toNat n || (write && inZ a.toNat n) ||
    (add && (decide (a.toNat < atomBase) || decide (atomEnd < a.toNat + 8))))
  let c3 := if write then laneFault ls 12 (fun a => t.inQueues a.toNat n) else none
  match c1, c2, c3 with
  | some t, _, _ => some t
  | none, some t, _ => some t
  | none, none, r => r

/-- Reads the lanes' words in ascending order. -/
def State.laneReads (s : State) (g : Nat) : List (Nat × Word) → Except TrapI (List (Nat × Nat)) × State
  | [] => (.ok [], s)
  | (l, a) :: r =>
    match s.localRead g a.toNat 4 with
    | (.error t, s) => (.error t, s)
    | (.ok bs, s) => match State.laneReads s g r with
      | (.error t, s) => (.error t, s)
      | (.ok rs, s) => (.ok ((l, ofBytes bs) :: rs), s)

/-- VLD and VGAT: the lanes read are written into vd (R260, R261); open rows are waited for (R262). -/
def vload (s : State) (g : Nat) (e : Eng) (addr : Nat → Word) : XRes :=
  let t := s.tile g
  let x := t.vxe
  let ls := vlanes x e addr
  match t.laneChecks ls false false with
  | some f => .fault f s
  | none =>
    if ls.any (fun p => t.rowOpen p.2.toNat 4) then .hold
    else match s.laneReads g ls with
      | (.error f, s) => .fault f s
      | (.ok rs, s) =>
        let res := (List.range 64).map (fun l => match rs.find? (fun p => decide (p.1 = l)) with
          | some p => p.2
          | none => 0)
        s.vdone g (maskedWrite x e 32 res)

/-- The bytes that lane writes cover hold a byte. -/
def laneCovers (g : Nat) (ws : List (Nat × List Byte)) (k : Nat) : Bool :=
  ws.any (fun p => decide (localKey g p.1 ≤ k) && decide (k < localKey g p.1 + p.2.length))

/-- Writes the lanes, all of them or none: a word with uncorrectable check bits must be covered whole (R261, R449). -/
def State.laneWrites (s : State) (g : Nat) (ws : List (Nat × List Byte)) : Except TrapI State :=
  let s' := { s with mem := ws.foldl (fun (m : Memory) (p : Nat × List Byte) => m.setN (localKey g p.1) p.2) s.mem }
  let hit := s.bad.filter (fun w => w.hits w.pa w.len && (List.range w.len).any (fun i => laneCovers g ws (w.pa + i)))
  match hit.find? (fun w => !w.corr && !(List.range w.len).all (fun i => laneCovers g ws (w.pa + i))) with
  | some w => .error (TrapI.mk3 9 1 (BitVec.ofNat 64 w.pa))
  | none => .ok { s' with bad := s.bad.filter (fun w => !hit.contains w) }

/-- VST and VSCT without ADD. -/
def vstore (s : State) (g : Nat) (e : Eng) (addr : Nat → Word) : XRes :=
  let t := s.tile g
  let x := t.vxe
  let ls := vlanes x e addr
  match t.laneChecks ls true false with
  | some f => .fault f s
  | none =>
    match s.laneWrites g (ls.map (fun p => (p.2.toNat, leBytes 4 (vel (x.reg e.ga) 32 p.1)))) with
    | .error f => .fault f s
    | .ok s' => .done s' 0 none

/-- VSCT with ADD: every lane is added into its word of the atomic region, in ascending order, on the value that was read (R260,
R455). -/
def vscatAdd (s : State) (g : Nat) (e : Eng) (addr : Nat → Word) : XRes :=
  let t := s.tile g
  let x := t.vxe
  let ls := vlanes x e addr
  match t.laneChecks ls true true with
  | some f => .fault f s
  | none =>
    match s.laneReads g (ls.flatMap (fun p => [p, (p.1, p.2 + 4)])) with
    | (.error f, s) => .fault f s
    | (.ok rs, s) =>
      let olds := ls.zipIdx.map (fun p => (p.1.2.toNat, (rs.getD (2 * p.2) (0, 0)).2 + (rs.getD (2 * p.2 + 1) (0, 0)).2 * 2 ^ 32))
      let first := olds.foldl (fun (m : AMap Nat) p => if (AMap.find? m p.1).isSome then m else AMap.put m p.1 p.2) []
      let sums := ls.foldl (fun (m : AMap Nat) p =>
        let a := p.2.toNat
        AMap.put m a (wrapN 64 ((AMap.getD m a 0 : Nat) + sextN 32 (vel (x.reg e.ga) 32 p.1)))) first
      match s.laneWrites g (sums.map (fun p => (p.1, leBytes 8 p.2))) with
      | .error f => .fault f s
      | .ok s => .done s 0 none

/-- The address of lane l for VLD and VST (R260). The spec says of ea that it wraps; the model wraps the lane's address too (log entry
88). -/
def addrLin (e : Eng) (r0 : Word) (l : Nat) : Word := r0 + w64 (sextN 16 (e.w1 31 16)) + BitVec.ofNat 64 (4 * l)

/-- The address of lane l for VGAT and VSCT (R260). -/
def addrIdx (x : Vxe) (e : Eng) (r0 : Word) (l : Nat) : Word :=
  r0 + BitVec.ofNat 64 (vel (x.reg e.gc) 32 l * 2 ^ e.w1 17 16)

/-! ### Conversion, quantisation and statistics -/

/-- Width of a VCVT format code (R263). -/
def cvtW (f : Nat) : Nat := match f with
  | 0 => 32
  | 1 => 16
  | 2 => 8
  | 3 => 32
  | 4 => 16
  | _ => 8

/-- The value of a source element. -/
def cvtVal (sf f8 c : Nat) : Val :=
  if sf < 3 then Val.ofInt (sextN (cvtW sf) c) 0
  else if sf = 3 then fpVal 24 c
  else if sf = 4 then fpVal 8 c
  else b8Val f8 c

/-- A conversion of the table of R263 rounds. -/
def cvtRounds (sf tf : Nat) : Bool :=
  if tf < 3 then decide (3 ≤ sf)
  else if tf = 5 then true
  else if sf < 3 then true
  else sf = 3 && tf = 4

/-- The nearest end of a target range for a value out of it. -/
def endOf (w : Nat) (neg : Bool) : Int := if neg then -(2 ^ (w - 1) : Int) else 2 ^ (w - 1) - 1

/-- One conversion (R263, R69, R70): the pattern and its flags. -/
def cvtOne (sf tf f8 rm u : Nat) (v : Val) : Nat × BitVec 5 :=
  let w := cvtW tf
  if tf < 3 then
    match v with
    | .nan => (0, fINV)
    | .inf s => (wrapN w (endOf w s), fINV)
    | .fin s n d ex =>
      let (k, x) := roundInt s n d ex rm u
      let (q, c) := clampInt (endOf w true) (endOf w false) k
      (wrapN w q, if c then (if sf < 3 then fINX else fINV) else flagIf x fINX)
  else if tf = 3 then (if sf = 4 then (fpExact v, 0) else fpRound 24 .arith rm u v)
  else if tf = 4 then fpRound 8 .arith rm u v
  else b8Round f8 .arith rm u v

/-- The value of a result, for the error statistic. -/
def cvtBack (tf f8 c : Nat) : Val := cvtVal tf f8 c

/-- VCVT (R263). -/
def vcvt (s : State) (g : Nat) (e : Eng) : XRes :=
  let t := s.tile g
  let x := t.vxe
  let sf := e.w1 18 16
  let tf := e.w1 21 19
  let f8 := e.w1 26 22
  let sp := e.w1 28 27
  let dp := e.w1 30 29
  let ws := cvtW sf
  let wt := cvtW tf
  let m := x.mask e.mk_
  let src := fun i => vel (x.reg e.gb) ws (sp * 64 + i)
  let (res, fl, sd) := foldElems 64 (fun i => m.getLsbD i) t.seed (fun i sd =>
    let (sd, u) := if cvtRounds sf tf then rndStep e.rm sd else (sd, 0)
    let (c, fl) := cvtOne sf tf f8 e.rm u (cvtVal sf f8 (src i))
    (c, fl, sd))
  let stat := (sf = 3 || sf = 4) && decide (tf ≠ 3)
  let (msea, f2) := (res.zipIdx.filter (fun p => stat && m.getLsbD p.2)).foldl
    (fun (a : Word × BitVec 5) p =>
      let (w, f) := mseAdd a.1 (cvtVal sf f8 (src p.2)) (cvtBack tf f8 p.1)
      (w, a.2 ||| f)) (t.msea, 0)
  let old := x.reg e.ga
  let out := (List.range (2048 / wt)).map (fun i =>
    if dp * 64 ≤ i ∧ i < dp * 64 + 64 then
      (if m.getLsbD (i - dp * 64) then res.getD (i - dp * 64) 0 else if e.mz then 0 else vel old wt i)
    else vel old wt i)
  .done (s.updTile g (fun t => { t with vxe := x.setReg e.ga (vecOf wt out), seed := sd, msea := msea })) (fl ||| f2) none

/-- The largest (or smallest) of the values that are not NaN. -/
def extremum (max : Bool) (vs : List Val) : Option Val :=
  (vs.filter (fun v => !v.isNan)).foldl (fun (a : Option Val) v => match a with
    | none => some v
    | some b => some (if max then (if b.ltz v then v else b) else (if v.ltz b then v else b))) none

/-- round(v / 2^e) of a finite value. -/
def roundAt (v : Val) (e : Int) (rm u : Nat) : Int × Bool :=
  match v with
  | .fin s n d ex => roundInt s n d (ex - e) rm u
  | .nan => (0, false)
  | .inf _ => (0, false)

/-- The least e with |v| ≤ q × 2^e, 127 for an infinite v, clamped to -127 … 127, and whether it was clamped. -/
def expFor (v : Val) (q : Nat) : Int × Bool :=
  match v with
  | .fin _ n _ ex => if n = 0 then (0, false) else clampInt (-127) 127 (leastExp n ex q)
  | .inf _ => (127, false)
  | .nan => (0, false)

/-- The scale and zero point of a block (R87, R264): e, Z as fp32, round(lo / 2^e) where it is used, M = 0 in symmetric mode, the LFSR
after it, and the flags of e and Z. -/
structure QuantBase where
  e : Int
  z : Nat
  lq : Option Int
  zero : Bool
  seed : BitVec 32
  flags : BitVec 5

/-- Z of an asymmetric block with hi > lo: fp32, with zero for a result below 2^-126 (R71); a Z that takes more than 24 bits, or
exceeds fp32, is not given by the spec (log entry 53). -/
def quantZ (w : Nat) (lq e : Int) : Nat × BitVec 5 :=
  let r := fpRound 24 .arith 0 0 (Val.ofInt (lq + 2 ^ (w - 1)) e)
  if r.2 = 0 || decide (r.2 &&& fUFL ≠ 0) then r
  else ((Config.unstated 3 [w64 lq, w64 e, BitVec.ofNat 64 w]).toNat % 2 ^ 32, 0)

/-- M of a shared block: of RNG, 0 when it is EMPTY (R264). -/
def Vxe.sharedMax (x : Vxe) : Val :=
  if x.empty then Val.zero false
  else
    let h := (fpVal 24 x.hi.toNat).abs
    let l := (fpVal 24 x.lo.toNat).abs
    if h.ltz l then l else h

/-- The scale and zero point of a block of w-bit mantissas (R87, R264). Where hi = lo, Z is hi itself, a zero with
its sign (log entry 109). -/
def quantBase (t : Tile) (w rm : Nat) (asym shr : Bool) (xs : List Val) : QuantBase :=
  let hi := (extremum true xs).getD (Val.zero false)
  let lo := (extremum false xs).getD (Val.zero false)
  if asym then
    if hi.cmp lo = 1 then
      { e := 0, z := fpExact hi, lq := none, zero := false, seed := t.seed, flags := 0 }
    else
      let (e, c) := expFor (hi.add lo.neg).1 (2 ^ w - 1)
      let (sd, u) := rndStep rm t.seed
      let lq := match lo with
        | .fin .. => (roundAt lo e rm u).1
        | _ => (Config.unstated 2 [BitVec.ofNat 64 w]).toInt
      let z := quantZ w lq e
      { e := e, z := z.1, lq := some lq, zero := false, seed := sd, flags := flagIf c fINX ||| z.2 }
  else
    let big := if shr then t.vxe.sharedMax else if hi.abs.ltz lo.abs then lo.abs else hi.abs
    let (e, c) := expFor big (2 ^ (w - 1) - 1)
    { e := e, z := 0, lq := none, zero := big.isZero, seed := t.seed, flags := flagIf c fINX }

/-- One quantised element (R87, R264): q, whether it is inexact or clamped, and INV. In symmetric mode every q is 0 where M = 0, also
in a shared block whose elements are not (log entry 87). -/
def quantOne (w rm u : Nat) (asym : Bool) (b : QuantBase) (x : Val) : Int × Bool × Bool :=
  let half : Int := 2 ^ (w - 1)
  let base : Int := match b.lq with
    | some l => -l - half
    | none => 0
  let low : Int := if b.lq.isSome then -half else -(half - 1)
  if asym && b.lq.isNone then (0, false, x.isNan)
  else if b.zero then (0, !x.isZero && !x.isNan, x.isNan)
  else match x with
    | .nan =>
      let (q, c) := clampInt low (half - 1) base
      (q, c, true)
    | .inf s => (if s then low else half - 1, true, false)
    | .fin .. =>
      let (k, i) := roundAt x b.e rm u
      let (q, c) := clampInt low (half - 1) (k + base)
      (q, i || c, false)

/-- VQNT (R264). -/
def vqnt (s : State) (g : Nat) (e : Eng) : XRes :=
  let t := s.tile g
  let x := t.vxe
  let p := etPrec e.et
  let w := bsiWidth (e.w1 18 16)
  let asym := decide (e.w1 19 19 = 1)
  let shr := decide (e.w1 20 20 = 1)
  let xs := (List.range 48).map (fun i => fpVal p (vel (x.reg e.gb) (etWidth e.et) i))
  let b := quantBase t w e.rm asym shr xs
  let zv := fpVal 24 b.z
  let (qs, fl, sd, msea) := xs.foldl (fun (a : List Int × BitVec 5 × BitVec 32 × Word) v =>
    let (qs, fl, sd, ms) := a
    let (sd, u) := rndStep e.rm sd
    let (q, inx, inv) := quantOne w e.rm u asym b v
    let (ms, f2) := mseAdd ms v ((Val.ofInt q b.e).add zv).1
    (q :: qs, fl ||| flagIf inx fINX ||| flagIf inv fINV ||| f2, sd, ms)) ([], b.flags, b.seed, t.msea)
  let bytes := packMant w qs.reverse
  let out := bytes ++ List.replicate (248 - bytes.length) 0 ++ leBytes 4 (b.e + 127).toNat ++ leBytes 4 b.z
  .done (s.updTile g (fun t => { t with vxe := x.setReg e.ga (BitVec.ofNat 2048 (ofBytes out)), seed := sd, msea := msea }))
    fl none

/-- VDQ (R265). -/
def vdq (s : State) (g : Nat) (e : Eng) : XRes :=
  let t := s.tile g
  let x := t.vxe
  let v := x.reg e.gb
  let w := bsiWidth (e.w1 18 16)
  let ec := vel v 8 248
  if ec = 255 then .fault (TrapI.mk3 27 0 0) s
  else
    let p := etPrec e.et
    let z := fpVal 24 (vel v 32 63)
    let (res, fl, sd) := foldElems 48 (fun _ => true) t.seed (fun i sd =>
      let m := sextN w (packed w v.toNat i)
      let (sd, u) := rndStep e.rm sd
      let (c, f) := fpRound p .scale e.rm u ((Val.ofInt m ((ec : Int) - 127)).add z).1
      (c, f, sd))
    s.fdone g (x.setReg e.ga (vecOf (etWidth e.et) res)) sd fl none

/-- The fp32 pattern of an element of an ET. -/
def asFp32 (et c : Nat) : Nat := if et = 4 then c * 65536 else c

/-- VRANGE (R266). -/
def vrange (s : State) (g : Nat) (e : Eng) : XRes :=
  let x := (s.tile g).vxe
  let w := etWidth e.et
  let clr := decide (e.w1 16 16 = 1)
  let x0 := if clr then { x with empty := true } else x
  let y := ((List.range (2048 / w)).filter (activeEl x e w)).foldl (fun (y : Vxe) i =>
    let c := asFp32 e.et (vel (x.reg e.gb) w i)
    let v := fpVal 24 c
    let b : Word32 := BitVec.ofNat 32 c
    if v.isNan then y
    else if y.empty then { y with hi := b, lo := b, empty := false }
    else { y with hi := if (fpVal 24 y.hi.toNat).ltz v then b else y.hi,
                  lo := if v.ltz (fpVal 24 y.lo.toNat) then b else y.lo }) x0
  let push := if e.xr then
      some (if y.empty then 0x7F800000FF800000 else BitVec.ofNat 64 (y.hi.toNat + y.lo.toNat * 2 ^ 32))
    else none
  .done (s.updTile g (fun t => { t with vxe := y })) 0 push

/-- VMSE (R267). -/
def vmse (s : State) (g : Nat) (e : Eng) : XRes :=
  let t := s.tile g
  let x := t.vxe
  let w := etWidth e.et
  let p := etPrec e.et
  let (ms, fl) := ((List.range (2048 / w)).filter (activeEl x e w)).foldl (fun (a : Word × BitVec 5) i =>
    let (m, f) := mseAdd a.1 (fpVal p (vel (x.reg e.gb) w i)) (fpVal p (vel (x.reg e.gc) w i))
    (m, a.2 ||| f)) (t.msea, 0)
  .done (s.updTile g (fun t => { t with msea := ms })) fl (if e.xr then some ms else none)

/-! ### The deferral queue -/

/-- Offset of the entry at queue position q (R268). -/
def Tile.deferOff (t : Tile) (q : Nat) : Nat := t.spBytes - 304 * 1024 + 64 * q

/-- VDEFER (R268, R269). -/
def vdefer (s : State) (g : Nat) (e : Eng) : XRes :=
  let t := s.tile g
  let x := t.vxe
  let k := e.w1 19 16
  let path := e.w1 27 20
  let ls := (List.range 64).filter (fun l => (x.mask e.mk_).getLsbD l)
  if !t.dqon then .fault trapIllegal s
  else if 4096 < t.dqn + ls.length then .fault (TrapI.mk3 33 1 (BitVec.ofNat 64 t.dqn)) s
  else
    let entry := fun (l : Nat) =>
      leBytes 4 (path + l * 2 ^ 8 + k * 2 ^ 16) ++
      (List.range 15).flatMap (fun i => leBytes 4 (if i < k then vel (x.reg (e.gb + BitVec.ofNat 5 i)) 32 l else 0))
    let n := t.dqn + ls.length
    match s.localWrite g (t.deferOff t.dqn) (ls.flatMap entry) with
    | .error f => .fault f s
    | .ok s => .done (s.updTile g (fun t => { t with dqn := n })) 0 (if e.xr then some (BitVec.ofNat 64 n) else none)

/-- VDRAINQ (R270). -/
def vdrainq (s : State) (g : Nat) (e : Eng) : XRes :=
  let t := s.tile g
  let x := t.vxe
  let k := e.w1 19 16
  let path := e.w1 27 20
  if !t.dqon then .fault trapIllegal s
  else
    match s.localRead g (t.deferOff 0) (64 * t.dqn) with
    | (.error f, s) => .fault f s
    | (.ok bs, s) =>
      let ents := (List.range t.dqn).map (fun i => slice bs (64 * i) 64)
      let hits := (ents.zipIdx.filter (fun p => decide (leAt p.1 0 1 = path))).take 64
      let out := hits.map (fun p => p.2)
      let rest := (ents.zipIdx.filter (fun p => !out.contains p.2)).map (fun p => p.1)
      let c := hits.length
      let word := fun (i : Nat) => vecOf 32 (hits.map (fun p => leAt p.1 (4 * i) 4))
      let x := (List.range (k + 1)).foldl (fun (y : Vxe) i => y.setReg (e.ga + BitVec.ofNat 5 i) (word i)) x
      let x := x.setMask (maskField e.gc) (BitVec.ofNat 64 (2 ^ c - 1))
      match s.localWrite g (t.deferOff 0) (if c = 0 then [] else rest.flatten) with
      | .error f => .fault f s
      | .ok s =>
        .done (s.updTile g (fun t => { t with vxe := x, dqn := t.dqn - c })) 0 (if e.xr then some (BitVec.ofNat 64 c) else none)

/-- What a vector instruction does when it completes; nothing for an instruction that is none. -/
def vecRun (s : State) (g : Nat) (i : Instr) (r0 r1 : Word) : Option XRes :=
  match i with
  | .vadd e => some (vint2 s g e r1 (fun w a b => (a + b) % 2 ^ w))
  | .vsub e => some (vint2 s g e r1 (fun w a b => wrapN w (a - b)))
  | .vmul e => some (vint2 s g e r1 (fun w a b => a * b % 2 ^ w))
  | .vmulh e => some (vint2 s g e r1 (fun w a b => wrapN w (sextN w a * sextN w b / 2 ^ w)))
  | .vmulhu e => some (vint2 s g e r1 (fun w a b => a * b / 2 ^ w))
  | .vmin e => some (vint2 s g e r1 (fun w a b => pickN false false w a b))
  | .vmax e => some (vint2 s g e r1 (fun w a b => pickN true false w a b))
  | .vminu e => some (vint2 s g e r1 (fun w a b => pickN false true w a b))
  | .vmaxu e => some (vint2 s g e r1 (fun w a b => pickN true true w a b))
  | .vabs e => some (vint1 s g e (fun w a => wrapN w (sextN w a).natAbs))
  | .vneg e => some (vint1 s g e (fun w a => wrapN w (-(sextN w a))))
  | .vsadd e => some (vint2 s g e r1 (fun w a b => satN w (sextN w a + sextN w b)))
  | .vssub e => some (vint2 s g e r1 (fun w a b => satN w (sextN w a - sextN w b)))
  | .vand e => some (vint2 s g e r1 (fun _ a b => a &&& b))
  | .vor e => some (vint2 s g e r1 (fun _ a b => a ||| b))
  | .vxor e => some (vint2 s g e r1 (fun _ a b => a ^^^ b))
  | .vnot e => some (vint1 s g e (fun w a => 2 ^ w - 1 - a))
  | .vshl e => some (vint2 s g e r1 (fun w a b => a * 2 ^ vshAmt w b % 2 ^ w))
  | .vshr e => some (vint2 s g e r1 (fun w a b => a / 2 ^ vshAmt w b))
  | .vsar e => some (vint2 s g e r1 (fun w a b => wrapN w (sextN w a / 2 ^ vshAmt w b)))
  | .vpopc e => some (vint1 s g e (fun w a => popc w a))
  | .vclz e => some (vint1 s g e (fun w a => clzN w a))
  | .vbrev e => some (vint1 s g e (fun w a => brevN w a))
  | .vclmull e => some (vint2 s g e r1 (fun w a b => clmul w a b % 2 ^ w))
  | .vclmulh e => some (vint2 s g e r1 (fun w a b => clmul w a b / 2 ^ w))
  | .vbcast e => some (vint1 s g e (fun w _ => r0.toNat % 2 ^ w))
  | .vret e => some (vret s g e)
  | .vfadd e => some (vflt s g e r1 (fun a b _ => a.add b))
  | .vfsub e => some (vflt s g e r1 (fun a b _ => a.add b.neg))
  | .vfmul e => some (vflt s g e r1 (fun a b _ => a.mul b))
  | .vfma e => some (vflt s g e r1 fmaVal)
  | .vfdiv e => some (vflt s g e r1 (fun a b _ => a.div b))
  | .vfsqrt e => some (vflt s g e r1 (fun a _ _ => a.sqrt))
  | .vfmin e => some (vflt s g e r1 (fun a b _ => fminVal false a b))
  | .vfmax e => some (vflt s g e r1 (fun a b _ => fminVal true a b))
  | .vfabs e => some (vflt s g e r1 (fun a _ _ => (a.abs, 0)))
  | .vfneg e => some (vflt s g e r1 (fun a _ _ => (a.neg, 0)))
  | .vcmpeq e => some (vcmp s g e r1 (fun a b => (decide (a = b), 0)))
  | .vcmplt e => some (vcmp s g e r1 (fun a b => (decide (sextN 32 a < sextN 32 b), 0)))
  | .vcmpltu e => some (vcmp s g e r1 (fun a b => (decide (a < b), 0)))
  | .vfcmpeq e => some (vcmp s g e r1 fcmpEq)
  | .vfcmplt e => some (vcmp s g e r1 fcmpLt)
  | .vsel e => some (vsel s g e r1)
  | .vmask e => some (vmask s g e r0)
  | .vredadd e => some (vred s g e (fun _ => 0) (fun w a b => (a + b) % 2 ^ w))
  | .vredmin e =>
    let u := decide (e.w1 16 16 = 1)
    some (vred s g e (fun w => if u then 2 ^ w - 1 else 2 ^ (w - 1) - 1) (fun w a b => pickN false u w a b))
  | .vredmax e =>
    let u := decide (e.w1 16 16 = 1)
    some (vred s g e (fun w => if u then 0 else 2 ^ (w - 1)) (fun w a b => pickN true u w a b))
  | .vfredadd e => some (vfredadd s g e)
  | .vperm e => some (vperm s g e r1)
  | .vslide e => some (vslide s g e)
  | .vld e => some (vload s g e (addrLin e r0))
  | .vst e => some (vstore s g e (addrLin e r0))
  | .vgat e => some (vload s g e (addrIdx (s.tile g).vxe e r0))
  | .vsct e =>
    some (if e.w1 18 18 = 1 then vscatAdd s g e (addrIdx (s.tile g).vxe e r0)
          else vstore s g e (addrIdx (s.tile g).vxe e r0))
  | .vqnt e => some (vqnt s g e)
  | .vdq e => some (vdq s g e)
  | .vcvt e => some (vcvt s g e)
  | .vrange e => some (vrange s g e)
  | .vmse e => some (vmse s g e)
  | .vdefer e => some (vdefer s g e)
  | .vdrainq e => some (vdrainq s g e)
  | _ => none

end Sys2Proof.Machine
end

