-- ==== Sys2Proof/Machine/MatOps.lean ====
section
/-! DEFINITION. What the matrix instructions do (spec/06_matrix_instructions.md R206 to R242): `matBegin` is the begin of a
command with its checks, `matRun` its effects: those of a product row by row, all others in one step. In an entry r0, r1 and r2 are the values
of GA, GB and GC. -/

namespace Sys2Proof

/-- ZD of a product, and ZN of the result commands. -/
def Eng.zn (e : Eng) : Nat := Machine.fld e.f7 6 3
/-- ACC of a product. -/
def Eng.acc (e : Eng) : Bool := e.f7.getLsbD 0
/-- CLR of the drains. -/
def Eng.clr (e : Eng) : Bool := e.f7.getLsbD 2
/-- Ticket K of SMV and SMVW. -/
def Eng.ticket (e : Eng) : BitVec 2 := e.f7.truncate 2

end Sys2Proof

namespace Sys2Proof.Machine

/-! ### State of the engine -/

/-- z tile n. -/
def Mxe.zt (x : Mxe) (n : Nat) : ZTile := if h : n < 16 then x.z[n] else ZTile.reset

/-- Replaces z tile n. -/
def Mxe.setZt (x : Mxe) (n : Nat) (z : ZTile) : Mxe := if h : n < 16 then { x with z := x.z.set n z } else x

/-- Changes z tile n of a tile. -/
def State.updZt (s : State) (g n : Nat) (f : ZTile → ZTile) : State :=
  s.updTile g (fun t => { t with mxe := t.mxe.setZt n (f (t.mxe.zt n)),
                                 stall := if (f (t.mxe.zt n)).wm = (t.mxe.zt n).wm then t.stall else 0 })

/-- Changes the matrix engine of a tile. -/
def State.updMxe (s : State) (g : Nat) (f : Mxe → Mxe) : State := s.updTile g (fun t => { t with mxe := f t.mxe })

/-- MC + 1, NC + 1, KBC + 1 of the shape in force (Table 6.2). -/
def Mxe.dims (x : Mxe) : Nat × Nat × Nat := (fld x.shape 7 0 + 1, fld x.shape 15 8 + 1, fld x.shape 19 16 + 1)

/-- A matrix fault. -/
def mxFault (cause sub : Nat) : TrapI := TrapI.mk3 cause sub 0

/-- A fault with a local offset or an index in EINFO. -/
def ixFault (cause : Nat) (v : Nat) : TrapI := TrapI.mk3 cause 0 (BitVec.ofNat 64 v)

/-- MROWS, MCOLS, CSUM and SMVOK of MCAP (Table 6.9). -/
def Tile.mrows (t : Tile) : Nat := fld t.mcap 7 0
/-- MCOLS. -/
def Tile.mcols (t : Tile) : Nat := fld t.mcap 15 8

/-- ANCHOR as the command captured it when it began (R45, R208). -/
def QEntry.anc (e : QEntry) : Int := sextN 16 (e.cap.headD 0).toNat

/-- A range of the scratchpad by an engine: alignment, then the address (R218, R229); for a write, the queue regions (R28). -/
def Tile.spad (t : Tile) (off : Word) (n al : Nat) (write : Bool) : Option TrapI :=
  if off.toNat % al ≠ 0 then some (TrapI.mk3 6 0 off)
  else if t.spBytes < off.toNat + n then some (TrapI.mk3 5 0 off)
  else if write && t.inQueues off.toNat n then some (TrapI.mk3 12 0 off)
  else none

/-! ### Setup instructions (R211 to R217) -/

/-- MSHAPE (R211). -/
def mshapeBegin (s : State) (g : Nat) (v : Word) : Except (TrapI × State) State :=
  let t := s.tile g
  let fa := fld v 22 20
  let fb := fld v 25 23
  let spn := fld v 27 26
  if fld v 63 28 ≠ 0 ∨ 4 < fa ∨ fb = 3 ∨ 4 < fb ∨ 7 < fld v 19 16 ∨ (spn ≠ 0 ∧ 2 < fb) ∨ t.mrows < fld v 7 0 + 1 ∨
      t.mcols < fld v 15 8 + 1 then .error (mxFault 21 1, s)
  else .ok (s.updMxe g (fun x => { x with shape := v }))

/-- MANCH (R212). -/
def manchBegin (s : State) (g : Nat) (e : Eng) (v : Word) : Except (TrapI × State) State :=
  .ok (s.updMxe g (fun x => { x with anchor := v.truncate 16 + BitVec.ofNat 16 (e.w1 27 12) }))

/-- The n halves at a scratchpad offset, sign-extended. -/
def halves (bs : List Byte) (n : Nat) : List Int := (List.range n).map (fun i => sextN 16 (leAt bs (2 * i) 2))

/-- One source vector of MZP, read when it is asked for. -/
def mzpRead (s : State) (g : Nat) (on : Bool) (off : Word) (old : List Int) : Except (TrapI × State) (List Int × State) :=
  if !on then .ok (old, s)
  else match (s.tile g).spad off 256 2 false with
    | some t => .error (t, s)
    | none => match s.localRead g off.toNat 256 with
      | (.error t, s) => .error (t, s)
      | (.ok bs, s) => .ok (halves bs 128, s)

/-- MZP (R213). -/
def mzpBegin (s : State) (g : Nat) (e : Eng) (r0 r1 : Word) : Except (TrapI × State) State :=
  let x := (s.tile g).mxe
  let clr := e.f7.getLsbD 2
  let zero := List.replicate 128 (0 : Int)
  (mzpRead s g (e.f7.getLsbD 0) r0 (if clr then zero else x.za)).bind fun (za, s) =>
    (mzpRead s g (e.f7.getLsbD 1) r1 (if clr then zero else x.zb)).bind fun (zb, s) =>
      .ok (s.updMxe g (fun x => { x with za := za, zb := zb }))

/-- ON of the coding word. -/
def Mxe.coded (x : Mxe) : Bool := bit x.coding 0

/-- MPRIV (R214). -/
def mprivBegin (s : State) (g : Nat) (r0 r1 : Word) : Except (TrapI × State) State :=
  let bm : BitVec 128 := BitVec.ofNat 128 (r0.toNat + r1.toNat * 2 ^ 64)
  if (s.tile g).mxe.coded && bm ≠ 0 then .error (trapIllegal, s)
  else .ok (s.updMxe g (fun x => { x with bitmap := bm }))

/-- MCODE (R215). -/
def mcodeBegin (s : State) (g : Nat) (v : Word) : Except (TrapI × State) State :=
  let k := fld v 11 8
  let cr := fld v 14 12
  if !bit v 0 then
    (if v ≠ 0 then .error (mxFault 21 2, s) else .ok (s.updMxe g (fun x => { x with coding := 0 })))
  else if fld v 3 1 ≠ 0 ∨ bit v 15 ∨ fld v 63 20 ≠ 0 ∨ k = 0 ∨ 8 < k ∨ 4 < cr ∨ k + cr ≤ fld v 7 4 then
    .error (mxFault 21 2, s)
  else if (s.tile g).mxe.bitmap ≠ 0 then .error (trapIllegal, s)
  else .ok (s.updMxe g (fun x => { x with coding := v }))

/-- MCSUM (R217). -/
def mcsumBegin (s : State) (g : Nat) (e : Eng) : Except (TrapI × State) State :=
  let m := fld e.f7 1 0
  if m ≠ 0 && !bit (s.tile g).mcap 16 then .error (mxFault 21 3, s)
  else .ok (s.updMxe g (fun x => { x with csMode := m }))

/-! ### Scale groups (R61 to R63) -/

/-- The first group whose CHK is not the low byte expected (R63). -/
def badGroup (base : Nat) (bs : List Byte) (blocks : Nat) : Option TrapI :=
  match (List.range (groupsOf blocks)).find? (fun g => decide ((bs.getD (16 * g) 0).toNat ≠ (base + 15 * g) % 256)) with
  | some g => some (ixFault 26 g)
  | none => none

/-- The first block whose scale code is 0xFF (R61). -/
def badScale (bs : List Byte) (blocks : Nat) : Option TrapI :=
  match (List.range blocks).find? (fun b => decide (scaleAt bs b = 0xFF)) with
  | some b => some (ixFault 27 b)
  | none => none

/-! ### Operand loads (R218) -/

/-- Kept elements of a group: 2^SPN, or 0 for a dense operand. -/
def spnKept (spn : Nat) : Nat := if spn = 0 then 0 else 2 ^ spn

/-- The indices of a sparse block: 3N of 4 bits. -/
def sparseIdx (n : Nat) (bytes : List Byte) : List Nat := (List.range (3 * n)).map (fun i => packed 4 (ofBytes bytes) i)

/-- Indices strictly increase within each group (R65). -/
def idxOk (n : Nat) (ix : List Nat) : Bool :=
  (List.range (3 * n)).all (fun i => decide (i % n = 0) || decide (ix.getD (i - 1) 0 < ix.getD i 0))

/-- A dense block of 48 mantissas. -/
def denseBlock (e : Byte) (ms : List Int) : Block := { e := e, m := ms, kept := List.replicate 48 true }

/-- A sparse block expanded to 48 elements (R64). -/
def sparseBlock (e : Byte) (n : Nat) (ms : List Int) (ix : List Nat) : Block :=
  let at_ := fun (p : Nat) => (List.range (3 * n)).find? (fun i => decide (i / n * 16 + ix.getD i 0 = p))
  { e := e,
    m := (List.range 48).map (fun p => match at_ p with
      | some i => ms.getD i 0
      | none => 0),
    kept := (List.range 48).map (fun p => (at_ p).isSome) }

/-- Operand slot: false = A, true = B, and its number. -/
def Mxe.slot (x : Mxe) (b : Bool) (n : Nat) : Slot := if b then (if n = 0 then x.b0 else x.b1) else if n = 0 then x.a0 else x.a1

/-- Replaces an operand slot. -/
def Mxe.setSlot (x : Mxe) (b : Bool) (n : Nat) (v : Slot) : Mxe :=
  if b then (if n = 0 then { x with b0 := v } else { x with b1 := v })
  else if n = 0 then { x with a0 := v } else { x with a1 := v }

/-- Reads a byte range of the scratchpad, or gives the fault. -/
def State.spRead (s : State) (g off n : Nat) : Except (TrapI × State) (List Byte × State) :=
  match s.localRead g off n with
  | (.error t, s) => .error (t, s)
  | (.ok bs, s) => .ok (bs, s)

/-- MLDA and MLDB (R218). -/
def mldRun (s : State) (g : Nat) (isB : Bool) (e : Eng) (r0 r1 r2 : Word) : XRes :=
  let t := s.tile g
  let x := t.mxe
  let (m, n, kb) := x.dims
  let cnt := if isB then n else m
  let fmt := if isB then fld x.shape 25 23 else fld x.shape 22 20
  let spn := if isB then fld x.shape 27 26 else 0
  let kn := spnKept spn
  let c := if spn = 0 then 48 else 3 * kn
  let w := bsiWidth fmt
  let bb := cdiv (c * w) 8
  let ib := cdiv (3 * kn) 2
  let nb := cnt * kb
  let aligned := fun (v : Word) (al : Nat) => if v.toNat % al ≠ 0 then some (TrapI.mk3 6 0 v) else none
  let inside := fun (v : Word) (k : Nat) => if t.spBytes < v.toNat + k then some (TrapI.mk3 5 0 v) else none
  let idx := spn ≠ 0
  let checks := [aligned r0 4, aligned r1 16, if idx then aligned r2 4 else none, inside r0 (nb * bb),
                 inside r1 (16 * groupsOf nb), if idx then inside r2 (nb * ib) else none]
  if isB && spn = 0 && decide (e.gc ≠ 0) then .fault trapIllegal s
  else match checks.findSome? id with
    | some f => .fault f s
    | none =>
      let r := (s.spRead g r0.toNat (nb * bb)).bind fun (mb, s) =>
        (s.spRead g r1.toNat (16 * groupsOf nb)).bind fun (sb, s) =>
          (s.spRead g r2.toNat (if idx then nb * ib else 0)).bind fun (xb, s) => .ok (mb, sb, xb, s)
      match r with
      | .error e => .fault e.1 e.2
      | .ok (mb, sb, xb, s') =>
        let ixs := (List.range nb).map (fun b => sparseIdx kn (slice xb (b * ib) ib))
        let badIx := (List.range nb).find? (fun b => idx && !idxOk kn (ixs.getD b []))
        match badGroup (e.w1 19 12) sb nb, badScale sb nb, badIx with
        | some f, _, _ => .fault f s'
        | none, some f, _ => .fault f s'
        | none, none, some b => .fault (ixFault 28 b) s'
        | none, none, none =>
          let blocks := (List.range nb).map (fun b =>
            let ms := mantissas w c (slice mb (b * bb) bb)
            if idx then sparseBlock (scaleAt sb b) kn ms (ixs.getD b []) else denseBlock (scaleAt sb b) ms)
          let sl : Slot := { full := true, cnt := cnt, kb := kb, fmt := fmt, spn := spn, blocks := blocks }
          .done (s'.updMxe g (fun x => x.setSlot isB (fld e.f7 0 0) sl)) 0 none

/-! ### Accumulator words -/

/-- n accumulator words of a byte string. -/
def accWords : (n : Nat) → List Byte → List Int
  | 0, _ => []
  | n + 1, bs => accVal bs :: accWords n (bs.drop 10)

/-- Reads rows of a z tile: for each row i from `i0` on, the words lo … hi - 1 that `want` gives, the others as 0. Gives
also whether an injected error changed a word read (R455). -/
def State.zRows (s : State) (g z : Nat) (want : Nat → Nat × Nat) : (n : Nat) → (i0 : Nat) →
    Except TrapI (List (List Int)) × State × Bool
  | 0, _ => (.ok [], s, false)
  | n + 1, i0 =>
    let (lo, hi) := want i0
    let h := s.readHome 3 (localKey g (zOff z i0 lo)) (10 * (hi - lo))
    match h.bad with
    | some w => (.error (TrapI.mk3 9 1 (BitVec.ofNat 64 w)), h.s, h.inj)
    | none =>
      match State.zRows h.s g z want n (i0 + 1) with
      | (.error t, s', j) => (.error t, s', j || h.inj)
      | (.ok rs, s', j) =>
        (.ok ((List.replicate lo 0 ++ accWords (hi - lo) h.bytes ++ List.replicate (128 - hi) 0) :: rs), s', j || h.inj)

/-- Word (i, j) of rows read. -/
def wordOf (rows : List (List Int)) (i j : Nat) : Int := (rows.getD i []).getD j 0

/-- The sum of a list of integers. -/
def isum (l : List Int) : Int := l.foldl (· + ·) 0

/-- Column sums and row sums over the columns that a bitmap leaves unprivileged (R223). -/
def zSums (bm : BitVec 128) (rows : List (List Int)) : List Int × List Int :=
  let cols := (List.range 128).filter (fun j => !bm.getLsbD j)
  ((List.range 128).map (fun j => if bm.getLsbD j then 0 else isum (rows.map (fun r => r.getD j 0))),
   rows.map (fun r => isum (cols.map (fun j => r.getD j 0))))

/-- Entry i of a stored prediction list, in which missing entries are 0. -/
def predAt (l : List Int) (i : Nat) : Int := l.getD i 0

/-- Adds two lists of 128. -/
def predAdd (a b : List Int) : List Int := (List.range 128).map (fun i => predAt a i + predAt b i)

/-! ### Products (R219 to R224) -/

/-- Block i of a slot. -/
def Slot.block (s : Slot) (i : Nat) : Block := s.blocks.getD i { e := 0, m := [], kept := [] }

/-- The corrected block sum (R82, R83): dropped elements of B are zero. -/
def blockSum (a b : Block) (za zb : Int) : Int :=
  isum ((List.range 48).map (fun k => if b.kept.getD k false then (a.m.getD k 0 - za) * (b.m.getD k 0 - zb) else 0))

/-- The shift of a block pair (R77). -/
def shiftOf (a b : Block) (anc : Int) : Int := (a.e.toNat : Int) + b.e.toNat - 254 - anc

/-- Bits that BSI16 operands take from the window (R77). -/
def limbBits (a b : Slot) : Nat := (if a.fmt = 4 then 8 else 0) + (if b.fmt = 4 then 8 else 0)

/-- The exponent-window check of a product over unprivileged columns (R220 check 8): the K-block of the first failure. -/
def windowFault (a b : Slot) (bm : BitVec 128) (anc : Int) : Option TrapI :=
  let pairs := (List.range a.cnt).flatMap (fun i =>
    ((List.range b.cnt).filter (fun j => !bm.getLsbD j)).flatMap (fun j => (List.range a.kb).map (fun k => (i, j, k))))
  match pairs.find? (fun p =>
    let sh := shiftOf (a.block (p.1 * a.kb + p.2.2)) (b.block (p.2.1 * b.kb + p.2.2)) anc
    decide (sh < 0) || decide (31 < sh + limbBits a b)) with
  | some p => some (ixFault 24 p.2.2)
  | none => none

/-- The range of a BSI format. -/
def inFmt (f : Nat) (v : Int) : Bool := decide (-(2 ^ (bsiWidth f - 1) : Int) ≤ v) && decide (v < 2 ^ (bsiWidth f - 1))

/-- The slots, the destination and ACC of a product. -/
def Mxe.prodA (x : Mxe) (e : Eng) : Slot := x.slot false (fld e.f7 1 1)
/-- The B slot. -/
def Mxe.prodB (x : Mxe) (e : Eng) : Slot := x.slot true (fld e.f7 2 2)

/-- The checks of a product of form f (0 MMA, 1 MMAS, 2 MMAQ, 3 MMAP), in the order of R220. -/
def prodCheck (t : Tile) (e : Eng) (f : Nat) : Option TrapI :=
  let x := t.mxe
  let a := x.prodA e
  let b := x.prodB e
  let anc := x.anchor.toInt
  let zp := decide (2 ≤ f)
  if t.mrows = 0 then some (mxFault 21 1)
  else if zp && x.coded then some trapIllegal
  else if !a.full || !b.full then some (mxFault 22 1)
  else if a.kb ≠ b.kb then some (mxFault 22 2)
  else if (f = 0 && b.spn ≠ 0) || (f = 1 && b.spn = 0) then some (mxFault 22 3)
  else if f ≠ 3 && x.bitmap ≠ 0 then some (mxFault 22 4)
  else if e.acc && (x.zt e.zn).zanc ≠ x.anchor then some (mxFault 22 5)
  else if zp && !((x.za.take a.cnt).all (inFmt a.fmt) && (x.zb.take b.cnt).all (inFmt b.fmt)) then some (mxFault 22 6)
  else windowFault a b x.bitmap anc

/-- An operand element expanded to fp32 (R84). -/
def expand (m z : Int) (e : Byte) : Nat × BitVec 5 := fpRound 24 .scale 0 0 (Val.ofInt (m - z) ((e.toNat : Int) - 127))

/-- One rounding of a privileged column: RNE, saturating (R84). -/
def privRound (r : Val × BitVec 5) : Nat × BitVec 5 :=
  let (c, f) := fpRound 24 .scale 0 0 r.1
  (c, r.2 ||| f)

/-- A privileged word after one block (R84). -/
def privBlock (a b : Block) (za zb : Int) (w : Nat × BitVec 5) : Nat × BitVec 5 :=
  (List.range 48).foldl (fun (w : Nat × BitVec 5) k =>
    let (x, f1) := expand (a.m.getD k 0) za a.e
    let (y, f2) := if b.kept.getD k false then expand (b.m.getD k 0) zb b.e else (0, 0)
    let (p, f3) := privRound ((fpVal 24 x).mul (fpVal 24 y))
    let (q, f4) := privRound ((fpVal 24 w.1).add (fpVal 24 p))
    (q, w.2 ||| f1 ||| f2 ||| f3 ||| f4)) w

/-- A word after the K-blocks of a command: nothing when a sum overflows (R79). -/
def intWord (a b : Slot) (i j : Nat) (za zb anc : Int) : (ks : List Nat) → Int → Option Int
  | [], w => some w
  | k :: ks, w =>
    let ba := a.block (i * a.kb + k)
    let bb := b.block (j * b.kb + k)
    let w' := w + blockSum ba bb za zb * 2 ^ (shiftOf ba bb anc).toNat
    if accFits w' then intWord a b i j za zb anc ks w' else none

/-- What words of a product come to: (index, old, new) of the words written, newest first; the privileged flags; the index of
a word that overflows. -/
structure ProdOut where
  ws : List (Nat × Int × Int)
  flags : BitVec 5
  ovf : Option Nat
  deriving DecidableEq, Repr

/-- One word of a product (R220), in a row of which the old words are given. -/
def prodWord (x : Mxe) (a b : Slot) (f : Nat) (acc : Bool) (anc : Int) (row : List Int) (o : ProdOut) (ix : Nat) : ProdOut :=
  if o.ovf.isSome then o
  else
    let i := ix / 128
    let j := ix % 128
    let za := if 2 ≤ f then x.za.getD i 0 else 0
    let zb := if 2 ≤ f then x.zb.getD j 0 else 0
    let w := if acc then row.getD j 0 else 0
    if f = 3 && x.bitmap.getLsbD j then
      let r := (List.range a.kb).foldl (fun w k => privBlock (a.block (i * a.kb + k)) (b.block (j * b.kb + k)) za zb w)
        (wrapN 32 w, 0)
      { o with ws := (ix, w, (r.1 : Int)) :: o.ws, flags := o.flags ||| r.2 }
    else match intWord a b i j za zb anc (List.range a.kb) w with
      | some v => { o with ws := (ix, w, v) :: o.ws }
      | none => { o with ovf := some ix }

/-- The indices of the words of an M × N region, row-major. -/
def regionIx (m n : Nat) : List Nat := (List.range m).flatMap (fun i => (List.range n).map (fun j => i * 128 + j))

/-- Rows with the words of a product in place. -/
def applyWords (rows : List (List Int)) (ws : List (Nat × Int × Int)) : List (List Int) :=
  ws.foldl (fun rs p => rs.modify (p.1 / 128) (fun r => r.set (p.1 % 128) p.2.2)) rows

/-- Column and row sums of the changes that a product makes over unprivileged columns. -/
def prodDelta (bm : BitVec 128) (ws : List (Nat × Int × Int)) : List Int × List Int :=
  let on := ws.filter (fun p => !bm.getLsbD (p.1 % 128))
  ((List.range 128).map (fun j => isum ((on.filter (fun p => decide (p.1 % 128 = j))).map (fun p => p.2.2 - p.2.1))),
   (List.range 128).map (fun i => isum ((on.filter (fun p => decide (p.1 / 128 = i))).map (fun p => p.2.2 - p.2.1))))

/-- The first step of a product into a tile: the predictions it goes on from (R224). They are those of the tile where it adds to a
tile whose predictions hold under its bitmap, else the sums of the words that it leaves or adds to. -/
def prodSeed (s : State) (g : Nat) (e : Eng) : Except (TrapI × State) State :=
  let x := (s.tile g).mxe
  let zt := x.zt e.zn
  let m := (x.prodA e).cnt
  let n := (x.prodB e).cnt
  let z : ZTile := { zt with bm := some x.bitmap, cvalid := decide (x.csMode ≠ 0) }
  if x.csMode = 0 || (e.acc && zt.cvalid && (zt.bm = none || zt.bm = some x.bitmap)) then .ok (s.updZt g e.zn (fun _ => z))
  else match s.zRows g e.zn (fun i => (if i < m && !e.acc then n else 0, 128)) 128 0 with
    | (.error t, s, _) => .error (t, s)
    | (.ok rows, s, _) =>
      let sums := zSums x.bitmap rows
      .ok (s.updZt g e.zn (fun _ => { z with cr := sums.1, cc := sums.2 }))

/-- The end of a product (R42, R212): the tile closes, and holds the product's anchor unless it was added to. -/
def prodEnd (s : State) (g : Nat) (e : Eng) (anc : Int) : XRes :=
  .done (s.updZt g e.zn (fun z => { z with wm := 128, zanc := if e.acc then z.zanc else BitVec.ofInt 16 anc })) 0 none

/-- One row of a product, from the word on at which the entry stands (R220, R224). Words written count as steps of the micro-PC; where
one overflows, those before it stay, and the product stands at it (R79, R221). -/
def prodRow (s : State) (g : Nat) (en : QEntry) (e : Eng) (f : Nat) (anc : Int) : XRes :=
  let x := (s.tile g).mxe
  let a := x.prodA e
  let b := x.prodB e
  let i := en.beat / b.cnt
  let shut := fun (s : State) => s.updZt g e.zn (fun z => { z with wm := 128 })
  match s.zRows g e.zn (fun _ => if e.acc then (en.beat % b.cnt, b.cnt) else (0, 0)) 1 i with
  | (.error t, s, _) => .fault t (shut s)
  | (.ok rows, s, _) =>
    let o := (((List.range b.cnt).drop (en.beat % b.cnt)).map (fun j => i * 128 + j)).foldl
      (prodWord x a b f e.acc anc (rows.headD [])) { ws := [], flags := 0, ovf := none }
    match s.laneWrites g (o.ws.reverse.map (fun p => (zOff e.zn (p.1 / 128) (p.1 % 128), accBytes p.2.2))) with
    | .error t => .fault t (shut s)
    | .ok s =>
      let d := prodDelta x.bitmap o.ws
      let s := s.updEntry g .x en.isn (fun k => { k with beat := k.beat + o.ws.length, flags := k.flags ||| o.flags })
      match o.ovf with
      | some ix => .fault (ixFault 25 ix) (s.updZt g e.zn (fun z => { z with wm := 128, cvalid := false }))
      | none => .more (s.updZt g e.zn (fun z => { z with wm := i + 1, cr := if z.cvalid then predAdd z.cr d.1 else z.cr,
                                                         cc := if z.cvalid then predAdd z.cc d.2 else z.cc }))

/-- The next step of a product (R220, R221, R224): its predictions, its rows, its end. -/
def prodRun (s : State) (g : Nat) (en : QEntry) (e : Eng) (f : Nat) (anc : Int) : XRes :=
  let x := (s.tile g).mxe
  if en.cap.length < 2 then
    match prodSeed s g e with
    | .error x => .fault x.1 (x.2.updZt g e.zn (fun z => { z with wm := 128 }))
    | .ok s => .more (s.updEntry g .x en.isn (fun k => { k with cap := k.cap ++ [1] }))
  else if en.beat < (x.prodA e).cnt * (x.prodB e).cnt then prodRow s g en e f anc
  else prodEnd s g e anc

/-! ### Checks and results (R225 to R233) -/

/-- What a check gives: the words as they count, the state, and the status word of Table 6.8. -/
structure CheckOut where
  rows : List (List Int)
  status : Word
  deriving DecidableEq, Repr

/-- The indices of the differences that are not zero. -/
def diffs (act pred : List Int) : List (Nat × Int) :=
  ((List.range 128).map (fun i => (i, predAt act i - predAt pred i))).filter (fun p => decide (p.2 ≠ 0))

/-- A status word (Table 6.8). -/
def statusWord (verd row col : Nat) (d : Int) : Word :=
  BitVec.ofNat 64 (verd + row * 2 ^ 8 + col * 2 ^ 16 + wrapN 32 d * 2 ^ 32)

/-- A saturating 32-bit count. -/
def satInc (v : BitVec 32) : BitVec 32 := if v = 0xFFFFFFFF then v else v + 1

/-- The physical line that stands at place n of a list of healthy ones: places take free choices one after another. -/
def pickLine (pick : Nat → Nat) : List Nat → Nat → Nat
  | [], n => n
  | a :: r, 0 => ((a :: r)[pick 0 % (r.length + 1)]?).getD a
  | a :: r, n + 1 =>
    let x := ((a :: r)[pick (n + 1) % (r.length + 1)]?).getD a
    pickLine pick ((a :: r).erase x) n

/-- The physical row or column of a logical one (R235): the same on an engine without retirements (R492); else a healthy one, which the
spec leaves open (log entry 101). 255 stands for the checksum row or column. -/
def Tile.physLine (t : Tile) (g : Nat) (row : Bool) (i : Nat) : Nat :=
  if fld t.mcap 31 24 = 0 || decide (128 ≤ i) then i
  else
    let base := if row then 0 else 256
    pickLine (fun n => (Config.unstated 21 [BitVec.ofNat 64 g, BitVec.ofNat 64 (b2n row), t.mcap, BitVec.ofNat 64 (i - n)]).toNat)
      ((List.range 128).filter (fun k => !t.linesOut.contains (base + k))) i

/-- A verdict 1 or 2 is counted and logged, with the physical row and column (R225, R492). -/
def State.correction (s : State) (g z verd row col : Nat) (inj : Bool) : State :=
  let s := s.updTile g (fun t => { t with mxe := { t.mxe with cscor := satInc t.mxe.cscor } }.bump (137 + verd))
  let t := s.tile g
  s.logEvent 2 g (BitVec.ofNat 64 (t.physLine g true row + t.physLine g false col * 256 + z * 65536)) 4 inj 3

/-- A check of a z tile (R225). -/
def zCheck (s : State) (g z : Nat) : Except TrapI CheckOut × State :=
  let x := (s.tile g).mxe
  let zt := x.zt z
  match s.zRows g z (fun _ => (0, 128)) 128 0 with
  | (.error t, s, _) => (.error t, s)
  | (.ok rows, s, inj) =>
    if x.csMode = 0 || !zt.cvalid then (.ok { rows := rows, status := statusWord 3 0 0 0 }, s)
    else
      let (sr, sc) := zSums (zt.bm.getD 0) rows
      let fail := fun (sub : Nat) =>
        (Except.error (TrapI.mk3 23 sub (BitVec.ofNat 64 z)),
         s.updTile g (fun t => { t with mxe := { t.mxe with csflt := satInc t.mxe.csflt } }.bump 141))
      match diffs sr zt.cr, diffs sc zt.cc with
      | [], [] => (.ok { rows := rows, status := 0 }, s)
      | [(j, d)], [(i, d')] =>
        if d ≠ d' then fail 2
        else if x.csMode = 1 then fail 1
        else
          let v := wordOf rows i j - d
          (match s.localWrite g (zOff z i j) (accBytes v) with
           | .error t => (.error t, s)
           | .ok s => (.ok { rows := applyWords rows [(i * 128 + j, 0, v)], status := statusWord 1 i j d },
                       s.correction g z 1 i j inj))
      | [(j, _)], [] =>
        if x.csMode = 1 then fail 1
        else (.ok { rows := rows, status := statusWord 2 255 j 0 },
              (s.updZt g z (fun t => { t with cr := (List.range 128).map (fun k => if k = j then predAt sr j else predAt t.cr k) })).correction
                g z 2 255 j inj)
      | [], [(i, _)] =>
        if x.csMode = 1 then fail 1
        else (.ok { rows := rows, status := statusWord 2 i 255 0 },
              (s.updZt g z (fun t => { t with cc := (List.range 128).map (fun k => if k = i then predAt sc i else predAt t.cc k) })).correction
                g z 2 i 255 inj)
      | _, _ => fail 2

/-- A z tile zeroed, its checksum store too (R224, R232). -/
def State.zeroTile (s : State) (g z : Nat) (anc : Int) : State :=
  let k := localKey g (zOff z 0 0)
  let s := { s with mem := s.mem.clear k 0x28000, bad := s.bad.filter (fun w => !w.hits k 0x28000 && !(decide (w.mark = Mark.checksum) && decide (w.pa / 512 = g * 16 + z))) }
  s.updZt g z (fun _ => { ZTile.reset with zanc := BitVec.ofInt 16 anc })

/-- The status word is pushed when XR = 1. -/
def xrPush (e : Eng) (v : Word) : Option Word := if e.f7.getLsbD 0 then some v else none

/-- MCHK (R228). -/
def mchkRun (s : State) (g : Nat) (e : Eng) : XRes :=
  match zCheck s g e.zn with
  | (.error t, s) => .fault t s
  | (.ok c, s) => .done s 0 (xrPush e c.status)

/-- A command that failed after it had opened its tile closes it. -/
def State.closeZ (s : State) (g : Nat) (e : Eng) (clr : Bool) : State :=
  if clr then s.updZt g e.zn (fun z => { z with wm := 128 }) else s

/-- The end of a drain: the output whole, then CLR, then the status word (R229 to R231). CLR makes the predictions valid zeros in every
checksum mode, as MZERO does (log entry 95). -/
def drainEnd (s : State) (g : Nat) (e : Eng) (off : Nat) (out : List Byte) (seed : BitVec 32) (fl : BitVec 5) (anc : Int)
    (status : Word) : XRes :=
  match s.localWrite g off out with
  | .error t => .fault t (s.closeZ g e e.clr)
  | .ok s =>
    let s := s.updTile g (fun t => { t with seed := seed })
    .done (if e.clr then s.zeroTile g e.zn anc else s) fl (xrPush e status)

/-- The target of a drain: precision 24 or 8, or binary8. -/
def drainTo (tf f8 rm u : Nat) (v : Val) : Nat × BitVec 5 :=
  if tf = 0 then fpRound 24 .scale rm u v else if tf = 1 then fpRound 8 .scale rm u v else b8Round f8 .scale rm u v

/-- One element of a scaled drain (R85, R229): the pattern, the flags and the LFSR after it. -/
def drainOne (tf f8 rm : Nat) (priv : Bool) (v : Int) (zanc : Int) (f : Nat) (seed : BitVec 32) :
    Nat × BitVec 5 × BitVec 32 :=
  let fv := fpVal 24 f
  if priv then
    let (p, f1) := privRound ((fpVal 24 (wrapN 32 v)).mul fv)
    if tf = 0 then (p, f1, seed)
    else
      let (sd, u) := rndStep rm seed
      let (c, f2) := drainTo tf f8 rm u (fpVal 24 p)
      (c, f1 ||| f2, sd)
  else
    let (sd, u) := rndStep rm seed
    let (c, f1) := if v = 0 then (0, 0) else drainTo tf f8 rm u ((Val.ofInt v zanc).mul fv).1
    (c, f1, sd)

/-- Bytes of an element of a drain. -/
def drainSize (tf : Nat) : Nat := if tf = 0 then 4 else if tf = 1 then 2 else 1

/-- The checks of MDRAIN before its factor is read (R216, R229, R236). -/
def mdrainCheck (t : Tile) (e : Eng) (r0 : Word) : Option TrapI :=
  let (m, n, _) := t.mxe.dims
  if t.mrows = 0 then some (mxFault 21 1)
  else if t.mxe.coded then some trapIllegal
  else t.spad r0 (m * n * drainSize (e.w1 15 14)) 16 true

/-- The factors of MDRAIN as fp32 patterns (R229). -/
def mdrainFactors (s : State) (g : Nat) (e : Eng) (r2 : Word) : Except (TrapI × State) (List Nat × State) :=
  let t := s.tile g
  let n := t.mxe.dims.2.1
  let fin := fun (fs : List Nat) (s : State) =>
    if fs.all (fun f => (fpVal 24 f).isFin) then Except.ok (fs, s) else .error (mxFault 22 7, s)
  if e.f7.getLsbD 1 then
    match t.spad r2 (4 * n) 4 false with
    | some t => .error (t, s)
    | none => (s.spRead g r2.toNat (4 * n)).bind fun (bs, s) => fin ((List.range n).map (fun j => leAt bs (4 * j) 4)) s
  else fin (List.replicate n (fld r2 31 0)) s

/-- MDRAIN (R229). -/
def mdrainRun (s : State) (g : Nat) (e : Eng) (r0 r2 : Word) (anc : Int) : XRes :=
  match mdrainFactors s g e r2 with
  | .error x => .fault x.1 (x.2.closeZ g e e.clr)
  | .ok (fs, s) =>
    match zCheck s g e.zn with
    | (.error t, s) => .fault t (s.closeZ g e e.clr)
    | (.ok c, s) =>
      let t := s.tile g
      let x := t.mxe
      let (m, n, _) := x.dims
      let tf := e.w1 15 14
      let zanc := (x.zt e.zn).zanc.toInt
      let (out, fl, sd) := (regionIx m n).foldl (fun (a : List (List Byte) × BitVec 5 × BitVec 32) ix =>
        let j := ix % 128
        let (p, f, sd) := drainOne tf (e.w1 20 16) (e.w1 13 12) (x.bitmap.getLsbD j) (wordOf c.rows (ix / 128) j) zanc
          (fs.getD j 0) a.2.2
        (leBytes (drainSize tf) p :: a.1, a.2.1 ||| f, sd)) ([], 0, t.seed)
      drainEnd s g e r0.toNat out.reverse.flatten sd fl anc c.status

/-- The checks of MDRAINX (R230, R236). -/
def mdrainxCheck (t : Tile) (r0 : Word) : Option TrapI :=
  let (m, n, _) := t.mxe.dims
  if t.mrows = 0 then some (mxFault 21 1) else t.spad r0 (16 * m * n) 16 true

/-- MDRAINX (R230). -/
def mdrainxRun (s : State) (g : Nat) (e : Eng) (r0 : Word) (anc : Int) : XRes :=
  match zCheck s g e.zn with
  | (.error t, s) => .fault t (s.closeZ g e e.clr)
  | (.ok c, s) =>
    let t := s.tile g
    let (m, n, _) := t.mxe.dims
    let out := (regionIx m n).flatMap (fun ix =>
      let v := wordOf c.rows (ix / 128) (ix % 128)
      if t.mxe.bitmap.getLsbD (ix % 128) then leBytes 16 (wrapN 80 v) else slotBytes v)
    drainEnd s g e r0.toNat out t.seed 0 anc c.status

/-- The tiles that MZERO names. -/
def mzeroTiles (e : Eng) : List Nat := (List.range 16).filter (fun n => decide (e.w1 27 12 / 2 ^ n % 2 = 1))

/-- MSTAT's words (R234). -/
def mstatWord (x : Mxe) (e : Eng) : Word :=
  match fld e.f7 2 0 with
  | 0 => x.shape
  | 1 =>
    BitVec.ofNat 64 (x.csMode + b2n x.coded * 4 + fld x.coding 7 4 * 2 ^ 4 + fld x.coding 11 8 * 2 ^ 8 +
      fld x.coding 14 12 * 2 ^ 12 + fld x.coding 19 16 * 2 ^ 16 + b2n (decide (x.bitmap ≠ 0)) * 2 ^ 20)
  | 2 =>
    let z := x.zt e.zn
    let tk := (List.finRange 4).foldl (fun (a : Nat) k => a + (x.tickets[k]).st * 4 ^ k.val) 0
    BitVec.ofNat 64 (z.zanc.toNat + b2n z.cvalid * 2 ^ 16 + z.wm * 2 ^ 24 + b2n x.a0.full * 2 ^ 32 + b2n x.a1.full * 2 ^ 33 +
      b2n x.b0.full * 2 ^ 34 + b2n x.b1.full * 2 ^ 35 + tk * 2 ^ 36)
  | _ => BitVec.ofNat 64 (x.cscor.toNat + x.csflt.toNat * 2 ^ 32)

/-! ### Stack MV (R237 to R240) -/

/-- Ticket k. -/
def Mxe.tk (x : Mxe) (k : BitVec 2) : Ticket := x.tickets[k.toNat]'(by have := k.isLt; omega)

/-- Replaces ticket k. -/
def Mxe.setTk (x : Mxe) (k : BitVec 2) (t : Ticket) : Mxe := { x with tickets := x.tickets.set k.toNat t (by have := k.isLt; omega) }

/-- Translates the pages of a range for a read: what is found, and the places of their first bytes. -/
def State.pinPages (s : State) (g : Nat) (sp : Space) (atM : Bool) : (n : Nat) → (va : Nat) → Res (List (Xlat × Place))
  | 0, _ => .ok [] s
  | n + 1, va =>
    (s.translate (.tile g) sp va .rd atM).andThen fun x s =>
      (State.pinPages s g sp atM n (va / 4096 * 4096 + 4096)).andThen fun ps s => .ok ((x, s.place x.pa) :: ps) s

/-- Number of 4 KiB pages that a range touches. -/
def pageCount (va n : Nat) : Nat := if n = 0 then 0 else (va + n - 1) / 4096 + 1 - va / 4096

/-- The pages of SMV's ranges lie in one stack of this package, none of them SO or compressed (R238). -/
def oneStack (ps : List (Xlat × Place)) : Bool :=
  match ps with
  | (_, .hbm st _) :: _ => ps.all (fun p => (match p.2 with
      | .hbm st' _ => decide (st' = st)
      | _ => false) && decide (p.1.kind ≠ .so) && !p.1.cmp)
  | _ => false

/-- SMV (R238): the whole command, made when it begins. A walk cannot wait on this package's tables. A descriptor offset that is not
16-byte aligned raises the alignment fault (log entry 96). -/
def smvBegin (s : State) (g : Nat) (e : Eng) (en : QEntry) : Except (TrapI × State) State :=
  let t := s.tile g
  let x := t.mxe
  let d := en.r0
  if !bit t.mcap 17 then .error (mxFault 22 10, s)
  else if (x.tk e.ticket).st ≠ 0 then .error (mxFault 22 8, s)
  else match t.spad d 64 16 false with
    | some f => .error (f, s)
    | none => (s.spRead g d.toNat 64).bind fun (bs, s) =>
      let bva := leAt bs 0 8
      let bsva := leAt bs 8 8
      let kb := leAt bs 16 4
      let n := leAt bs 20 4
      let aoff := leAt bs 24 4
      let asoff := leAt bs 28 4
      let yoff := leAt bs 32 4
      let groups := groupsOf (kb * n)
      if leAt bs 36 28 ≠ 0 ∨ kb = 0 ∨ 65535 < kb ∨ n = 0 ∨ 16384 < n ∨ bva % 64 ≠ 0 ∨ bsva % 16 ≠ 0 ∨ aoff % 4 ≠ 0 ∨
          asoff % 16 ≠ 0 ∨ yoff % 16 ≠ 0 then .error (mxFault 22 9, s)
      else
        let sp := Space.launch (t.bound.getD 0)
        let pins := (s.pinPages g sp en.atM (pageCount bva (48 * kb * n)) bva).andThen fun ps s =>
          (s.pinPages g sp en.atM (pageCount bsva (16 * groups)) bsva).andThen fun qs s => .ok (ps ++ qs) s
        match pins with
        | .trap f s => .error (f, s)
        | .wait _ => .error (mxFault 22 10, s)
        | .ok ps s =>
          if !oneStack ps then .error (mxFault 22 10, s)
          else
            let w := fun (v : Nat) => BitVec.ofNat 64 v
            match t.spad (w aoff) (48 * kb) 4 false, t.spad (w asoff) (16 * groupsOf kb) 16 false,
                  t.spad (w yoff) (16 * n) 16 false with
            | some f, _, _ => .error (f, s)
            | none, some f, _ => .error (f, s)
            | none, none, some f => .error (f, s)
            | none, none, none =>
              (s.spRead g aoff (48 * kb)).bind fun (mb, s) =>
                (s.spRead g asoff (16 * groupsOf kb)).bind fun (sb, s) =>
                  match badGroup 0 sb kb, badScale sb kb with
                  | some f, _ => .error (f, s)
                  | none, some f => .error (f, s)
                  | none, none =>
                    let vec := (List.range kb).map (fun b =>
                      denseBlock (scaleAt sb b) (mantissas 8 48 (slice mb (48 * b) 48)))
                    let tk : Ticket := { st := 1, bva := w bva, bsva := w bsva, kb := kb, n := n, yoff := yoff,
                                         anchor := x.anchor.toInt, vec := vec, pins := ps.filterMap (fun p => p.1.pin), res := [],
                                         err := none }
                    .ok (s.updMxe g (fun x => x.setTk e.ticket tk))

/-- Bytes of B through the pinned translations; the home slice has rewritten their blocks in state 3 (R321). -/
def State.pinRead (s : State) (pins : List TlbEnt) : List (Nat × Nat) → Except TrapI (List Byte) × State
  | [] => (.ok [], s)
  | (va, n) :: r =>
    let pa := match pins.find? (fun p => p.covers p.space va) with
      | some p => (p.xlat va).pa
      | none => 0
    let s := s.blockFlat (s.place pa).key n
    let h := s.readHome 3 (s.place pa).key n
    match h.bad with
    | some w => (.error (TrapI.mk3 9 1 (wordPa pa (s.place pa).key w)), h.s)
    | none => match State.pinRead h.s pins r with
      | (.error t, s) => (.error t, s)
      | (.ok bs, s) => (.ok (h.bytes ++ bs), s)

/-- The result of one column of a stack MV product (R238): nothing more than the window can fail (R80). -/
def smvCol (tk : Ticket) (blocks : Nat → Block) (j : Nat) : Except TrapI Int :=
  (List.range tk.kb).foldl (fun (a : Except TrapI Int) k =>
    a.bind fun y =>
      let va := tk.vec.getD k { e := 0, m := [], kept := [] }
      let vb := blocks (j * tk.kb + k)
      let sh := shiftOf va vb tk.anchor
      if sh < 0 ∨ 31 < sh then .error (ixFault 24 k) else .ok (y + blockSum va vb 0 0 * 2 ^ sh.toNat)) (.ok 0)

/-- SMV_UNIT_DONE (R238, R239): the unit of the stack finishes a product. -/
def State.smvDone (s : State) (g : Nat) (k : BitVec 2) : State :=
  let tk := (s.tile g).mxe.tk k
  if tk.st ≠ 1 then s
  else
    let nb := tk.kb * tk.n
    let fin := fun (s : State) (res : List Int) (err : Option TrapI) =>
      s.updMxe g (fun x => x.setTk k { tk with st := 2, res := res, err := err.map (fun t => (t.cause, t.sub, t.info)) })
    match s.pinRead tk.pins (pieces 4096 (48 * nb + 1) tk.bva.toNat (48 * nb)) with
    | (.error t, s) => fin s [] (some t)
    | (.ok mb, s) =>
      match s.pinRead tk.pins (pieces 4096 (16 * groupsOf nb + 1) tk.bsva.toNat (16 * groupsOf nb)) with
      | (.error t, s) => fin s [] (some t)
      | (.ok sb, s) =>
        match badGroup 0 sb nb, badScale sb nb with
        | some t, _ => fin s [] (some t)
        | none, some t => fin s [] (some t)
        | none, none =>
          let blocks := fun (b : Nat) => denseBlock (scaleAt sb b) (mantissas 8 48 (slice mb (48 * b) 48))
          let r := (List.range tk.n).foldl (fun (a : Except TrapI (List Int)) j =>
            a.bind fun ys => (smvCol tk blocks j).bind fun y => .ok (ys ++ [y])) (.ok [])
          match r with
          | .error t => fin s [] (some t)
          | .ok ys => fin s ys none

/-- SMVW (R239). -/
def smvwRun (s : State) (g : Nat) (e : Eng) : XRes :=
  let t := s.tile g
  let tk := t.mxe.tk e.ticket
  let idle := fun (s : State) => s.updMxe g (fun x => x.setTk e.ticket Ticket.idle)
  if tk.st = 0 then .fault (mxFault 22 8) s
  else if tk.st = 1 then .hold
  else match tk.err with
    | some (c, sub, info) => .fault (TrapI.mk3 c sub info) (idle s)
    | none =>
      if t.inQueues tk.yoff (16 * tk.n) then .fault (TrapI.mk3 12 0 (BitVec.ofNat 64 tk.yoff)) s
      else match s.localWrite g tk.yoff (tk.res.flatMap slotBytes) with
        | .error f => .fault f s
        | .ok s => .done (idle s) 0 none

/-! ### Begin and run -/

/-- Opens z tiles that a command writes (R42). -/
def State.openZ (s : State) (g : Nat) (zs : List Nat) : State :=
  zs.foldl (fun s z => s.updZt g z (fun t => { t with wm := 0 })) s

/-- A check, then the opening of z tiles. -/
def checkOpen (s : State) (g : Nat) (f : Option TrapI) (zs : List Nat) : Except (TrapI × State) State :=
  match f with
  | some t => .error (t, s)
  | none => .ok (s.openZ g zs)

/-- The begin of a matrix command: its checks, the effects of a setup command (R208), the opening of the tiles it writes. -/
def matBegin (s : State) (g : Nat) (en : QEntry) (i : Instr) : Except (TrapI × State) State :=
  let t := s.tile g
  match i with
  | .mshape _ => mshapeBegin s g en.r0
  | .manch e => manchBegin s g e en.r0
  | .mzp e => mzpBegin s g e en.r0 en.r1
  | .mpriv _ => mprivBegin s g en.r0 en.r1
  | .mcode _ => mcodeBegin s g en.r0
  | .mcsum e => mcsumBegin s g e
  | .mma e => checkOpen s g (prodCheck t e 0) [e.zn]
  | .mmas e => checkOpen s g (prodCheck t e 1) [e.zn]
  | .mmaq e => checkOpen s g (prodCheck t e 2) [e.zn]
  | .mmap e => checkOpen s g (prodCheck t e 3) [e.zn]
  | .mchk _ => checkOpen s g (if t.mrows = 0 then some (mxFault 21 1) else none) []
  | .mdrain e => checkOpen s g (mdrainCheck t e en.r0) (if e.clr then [e.zn] else [])
  | .mdrainx e => checkOpen s g (mdrainxCheck t en.r0) (if e.clr then [e.zn] else [])
  | .mzero e => .ok (s.openZ g (mzeroTiles e))
  | .smv e => smvBegin s g e en
  | _ => .ok s

/-- The run of a matrix command; nothing for an instruction that is none. -/
def matRun (s : State) (g : Nat) (en : QEntry) (i : Instr) : Option XRes :=
  let x := (s.tile g).mxe
  let anc := en.anc
  match i with
  | .mshape _ => some (.done s 0 none)
  | .manch _ => some (.done s 0 none)
  | .mzp _ => some (.done s 0 none)
  | .mpriv _ => some (.done s 0 none)
  | .mcode _ => some (.done s 0 none)
  | .mcsum _ => some (.done s 0 none)
  | .mlda e => some (mldRun s g false e en.r0 en.r1 en.r2)
  | .mldb e => some (mldRun s g true e en.r0 en.r1 en.r2)
  | .mma e => some (prodRun s g en e 0 anc)
  | .mmas e => some (prodRun s g en e 1 anc)
  | .mmaq e => some (prodRun s g en e 2 anc)
  | .mmap e => some (prodRun s g en e 3 anc)
  | .mchk e => some (mchkRun s g e)
  | .mdrain e => some (mdrainRun s g e en.r0 en.r2 anc)
  | .mdrainx e => some (mdrainxRun s g e en.r0 anc)
  | .mzero e => some (.done ((mzeroTiles e).foldl (fun s z => s.zeroTile g z anc) s) 0 none)
  | .mwm e => some (if e.w1 19 12 ≤ (x.zt e.zn).wm then .done s 0 none else .hold)
  | .mcap _ => some (.done s 0 (some (s.tile g).mcap))
  | .mstat e => some (.done s 0 (some (mstatWord x e)))
  | .smv _ => some (.done s 0 none)
  | .smvw e => some (smvwRun s g e)
  | _ => none

end Sys2Proof.Machine
end

