-- ==== Sys2Proof/Machine/CopyOps.lean ====
section
/-! DEFINITION. What the copy commands do (spec/08_copy_system_instructions.md R273 to R299): `copyBegin` makes the checks
of R277 and what a command does at its begin, `copyBeat` its next beat. In an entry r0, r1 and r2 are the values of GA, GB
and GC; row and off say how far the command has come, carry what it has read and not yet written. -/

namespace Sys2Proof.Machine

/-- What the begin of a copy gives: the begun command; a wait, unbegun; an engine fault; a freeze. -/
inductive BegRes where
  | ok (s : State) (en : QEntry)
  | hold
  | fault (t : TrapI) (s : State)
  | freeze (t : TrapI) (s : State)

/-- What a beat gives: it was made; all beats have been made; it waits; a freeze or a remote error; an engine fault. -/
inductive BeatRes where
  | more (s : State)
  | fin (s : State)
  | hold (s : State)
  | freeze (t : TrapI) (s : State)
  | fault (t : TrapI) (s : State)

/-! ### Writes at a target tile (R44, R46, R50, R275, R279, R282) -/

/-- What a tile's window answers to a write: done; an error code of Table 12.7, nothing being written (R409); a wait for an open
row. -/
inductive TgtRes where
  | ok (s : State)
  | err (code : Nat) (s : State)
  | wait

/-- The checks of a write into a tile's window, but for those of an add (Table 12.7): ADDR, ALIGN, QREG. -/
def Tile.storeErr (t : Tile) (off n : Nat) : Option Nat :=
  if t.offBad off n then some 5
  else if inZ off n && !wholeWords off n then some 6
  else if t.inQueues off n then some 7
  else none

/-- The checks of an add (R282): a z tile or the atomic region, in whole words. -/
def Tile.addErr (t : Tile) (off n : Nat) : Option Nat :=
  if t.offBad off n || !decide (zBase ≤ off) then some 5
  else if inZ off n then (if wholeWords off n && decide (off + n ≤ atomBase) then none else some 6)
  else if off % 8 ≠ 0 ∨ n % 8 ≠ 0 then some 6
  else none

/-- CVALID of the z tiles that a write from a path other than X touches falls (R44, R224). -/
def State.zTouched (s : State) (g off n : Nat) : State :=
  if !inZ off n then s
  else (List.range 16).foldl (fun s z =>
    if overlap off n (zOff z 0 0) 0x28000 then s.updZt g z (fun t => { t with cvalid := false }) else s) s

/-- Adds words of w bytes at a local offset, one after another: nothing from the first on that overflows or cannot be read,
of which the error code and the place are given (R79, R282). -/
def State.addWords (s : State) (path g w : Nat) : (n : Nat) → (off : Nat) → List Byte → State × Option (Nat × Nat)
  | 0, _, _ => (s, none)
  | n + 1, off, bs =>
    let k := localKey g off
    let h := s.readHome path k w
    match h.bad with
    | some _ => (h.s, some (8, off))
    | none =>
      let sum : Int := if w = 10 then accVal h.bytes + accVal bs else ((ofBytes h.bytes + ofBytes (bs.take 8) : Nat) : Int)
      if w = 10 && !accFits sum then (h.s, some (9, off))
      else
        let new := if w = 10 then accBytes sum else leBytes 8 (wrapN 64 sum)
        match h.s.writeHome k new with
        | .error _ => (h.s, some (8, off))
        | .ok s' => State.addWords s' path g w n (off + w) (bs.drop w)

/-- Bytes of the word in which a local offset takes an add, or whole words. -/
def addWidth (off : Nat) : Nat := if inZ off 1 then 10 else 8

/-- A write or an add at a tile's window by a path other than X, whole or not at all (R409). -/
def State.tileWrite (s : State) (path g off : Nat) (bs : List Byte) (add : Bool) : TgtRes :=
  let t := s.tile g
  let n := bs.length
  match if add then t.addErr off n else t.storeErr off n with
  | some c => .err c s
  | none =>
    if t.rowOpen off n then .wait
    else if add then
      match (s.zTouched g off n).addWords path g (addWidth off) (n / addWidth off) off bs with
      | (s', none) => .ok s'
      | (_, some (c, _)) => .err c s
    else match (s.zTouched g off n).writeHome (localKey g off) bs with
      | .error _ => .err 8 s
      | .ok s' => .ok s'

/-- A write, add or atomic of a command has been applied (EFFECT, R279): the entry and what the command has sent note it
(log entry 119). -/
def State.noteEff (s : State) (g : Nat) (q : Q) (isn : Word) : State :=
  let s := s.updEntry g q isn (fun e => { e with eff := true })
  let own := fun (x : Pkt) => decide (x.src = .tile g) && !x.tcc && decide (x.q = q) && decide (x.isn = isn)
  { s with net := updWhere own (fun x => { x with eff := true }) s.net }

/-- EFFECT of a command (R279): the entry says so, or one of its packets has been applied and is being acknowledged. -/
def State.effOf (s : State) (g : Nat) (q : Q) (isn : Word) : Bool :=
  (match ((s.tile g).queue q).entry isn with
   | some e => e.eff
   | none => false) ||
  s.net.any (fun p => decide (p.src = .tile g) && !p.tcc && decide (p.q = q) && decide (p.isn = isn) &&
    (p.eff || decide (p.typ = .wack) || decide (p.typ = .atmr)))

/-- A remote error at a physical address (R279). -/
def remote (code pa : Nat) (effect : Bool) : TrapI := { (TrapI.mk3 35 code (BitVec.ofNat 64 pa)) with effect := effect }

/-! ### The global side (R276 to R279) -/

/-- The path number of a queue in R104: L 1, S 2, X 3. -/
def pathNo : Q → Nat
  | .l => 1 | .s => 2 | .x => 3

/-- Whose pages a command's global beats go through. -/
def State.qSpace (s : State) (g : Nat) : Space := .launch ((s.tile g).bound.getD 0)

/-- What identifies a byte for R276: the canonical address, or the address in another package. -/
def State.gKey (s : State) (pa : Nat) : Nat :=
  match s.place pa with
  | .far _ => pa + 2 ^ 60
  | p => p.key

/-- A packet that a command of the queue sent earlier, that still has its effect to make, shares a byte (R276). -/
def State.conflict (s : State) (g : Nat) (q : Q) (pa n : Nat) : Bool :=
  s.net.any (fun p => decide (p.src = .tile g) && !p.tcc && decide (p.q = q) && !p.typ.isAnswer && decide (p.spkg = 0) &&
    overlap (s.gKey p.addr) (Nat.max p.len p.data.length) (s.gKey pa) n)

/-- A packet of a command of a tile's queue, sent under a translation (R305, R326, R328). -/
def QEntry.pkt (en : QEntry) (s : State) (g : Nat) (q : Q) (typ : PktT) (x : Xlat) (dpkg : Nat) : Pkt :=
  { Pkt.make typ 0 (.tile g) x.pa s.bedt with
    tcc := false, q := q, isn := en.isn, dpkg := dpkg, scope := en.scope, region := en.region, launch := (s.tile g).bound,
    cmd := en.cmd, eff := en.eff, so := decide (x.kind = .so), uo := decide (x.kind = .uo), pin := x.pin }

/-- An earlier SO access of the path has not been performed (R326); the read that the command in hand makes does not count. -/
def State.soBusy (s : State) (g : Nat) (q : Q) (isn : Word) : Bool :=
  s.net.any (fun p => decide (p.src = .tile g) && !p.tcc && decide (p.q = q) && p.so && p.typ.undone &&
    !(decide (p.isn = isn) && decide (p.typ = .rd)))

/-- A global access of a command must wait: for a conflicting packet (R276), or, on an SO page, for the path's earlier SO access. -/
def State.gBusy (s : State) (g : Nat) (q : Q) (en : QEntry) (x : Xlat) (n : Nat) : Bool :=
  s.conflict g q x.pa n || (decide (x.kind = .so) && s.soBusy g q en.isn)

/-- Reads a piece of global memory for a command. -/
def State.gRead (s : State) (g : Nat) (q : Q) (en : QEntry) (path : Nat) (va n : Nat) : Res (List Byte) :=
  (s.translate (.tile g) (s.qSpace g) va .rd en.atM).andThen fun x s =>
    let eff := s.effOf g q en.isn
    let read := fun (key : Nat) (err : Nat → TrapI) =>
      let h := (s.blockRead x.cmp key n).readHome (pathNo q) key n
      match h.bad with
      | some w => Res.trap (err w) h.s
      | none => Res.ok h.bytes h.s
    if s.gBusy g q en x n then .wait s
    else match s.place x.pa with
      | .hbm st off => read (Place.hbm st off).key (fun w => TrapI.mk3 9 1 (wordPa x.pa (Place.hbm st off).key w))
      | .tile g' off =>
        if (s.tile g').offBad off n then .trap (remote 5 x.pa eff) s
        else if (s.tile g').rowOpen off n then .wait s
        else read (localKey g' off) (fun _ => remote 8 x.pa eff)
      | .far p =>
        let far := match ((s.tile g).queue q).entry en.isn with
          | some e => e.far
          | none => []
        farAccess s far (fun s l => s.updEntry g q en.isn (fun e => { e with far := l }))
          { en.pkt s g q .rd x p with len := n, path := path } false
      | .out => .trap (remote 1 x.pa eff) s
      | .reserved => .trap (remote 5 x.pa eff) s

/-- Writes a piece of global memory for a command: at once in this package, by a packet in another one. -/
def State.gWrite (s : State) (g : Nat) (q : Q) (en : QEntry) (va : Nat) (bs : List Byte) (add : Bool) : Res Unit :=
  let n := bs.length
  let eff := s.effOf g q en.isn
  (s.translate (.tile g) (s.qSpace g) va .wr en.atM).andThen fun x s =>
    if s.gBusy g q en x n then .wait s
    else match s.place x.pa with
      | .hbm st off =>
        let key := (Place.hbm st off).key
        if add then .trap (remote 5 x.pa eff) s
        else match s.writeHome key bs with
          | .error w => .trap (TrapI.mk3 9 1 (wordPa x.pa key w)) s
          | .ok s' => .ok () ((s'.blockWrite x.cmp key n).noteEff g q en.isn)
      | .tile g' off =>
        (match s.tileWrite (pathNo q) g' off bs add with
         | .ok s' => .ok () (s'.noteEff g q en.isn)
         | .err c s' => .trap (remote c x.pa eff) s'
         | .wait => .wait s)
      | .far p =>
        .ok () (s.request { en.pkt s g q (if add then .addw else .wr) x p with
          len := n, data := bs, add := add, wide := inZ (x.pa % 2 ^ 24) 1 })
      | .out => .trap (remote 1 x.pa eff) s
      | .reserved => .trap (remote 5 x.pa eff) s

/-! ### Beats (R276, R333) -/

/-- The tile window that a physical address lies in, as the window's number. -/
def windowOf (pa : Nat) : Option Nat := if bitsN pa 51 44 = 0xFF ∧ bitsN pa 43 41 = 0 then some (pa / 2 ^ 24) else none

/-- How much of n bytes from a virtual address on one access covers: a page ends it, unless the next page leads on to the next
physical address (R333). -/
def State.gSpan (s : State) (g : Nat) (en : QEntry) (k : AccKind) (va n : Nat) : Nat :=
  let m := 4096 - va % 4096
  if n ≤ m then n
  else match s.translate (.tile g) (s.qSpace g) va k en.atM, s.translate (.tile g) (s.qSpace g) (va + m) k en.atM with
    | .ok x _, .ok y _ => if y.pa = x.pa + m then n else m
    | _, _ => m

/-- Whole words of the z tiles from an offset on, up to a multiple of `al` bytes; of a row that is not whole words a part that its
target refuses before any byte is written (R44). -/
def zLen (al off rem : Nat) : Nat :=
  let o := off - zBase
  let r := Nat.min rem (atomBase - off)
  if o % 10 ≠ 0 ∨ r % 10 ≠ 0 then Nat.min r 7 else Nat.min r (al - o % al)

/-- Up to the next multiple of `al`. -/
def upTo (al a rem : Nat) : Nat := Nat.min rem (al - a % al)

/-- One word of a row that adds into a tile (R163, R282), or of a row that is not whole words a part that its target refuses before
any word is added. -/
def addLen (off rem : Nat) : Nat :=
  if inZ off 1 then zLen 10 off rem
  else if off % 8 ≠ 0 ∨ rem % 8 ≠ 0 then Nat.min rem 7
  else Nat.min rem 8

/-- Bytes of the next beat into global memory: up to a multiple of `al` of the address, one aligned 8-byte part to an SO page
(R276); in a z tile whole words in groups that are whole 8-byte parts too; one word of an add. `al` is 64 for a beat of a copy (the
worked example after R437), 256 for a packet of an FPUT (R393; log entry 9). -/
def State.storeLen (s : State) (g : Nat) (en : QEntry) (al va rem : Nat) (add : Bool) : Nat :=
  match s.translate (.tile g) (s.qSpace g) va .wr en.atM with
  | .ok x _ =>
    s.gSpan g en .wr va
      (if add then addLen (x.pa % 2 ^ 24) rem
       else if (windowOf x.pa).isSome && inZ (x.pa % 2 ^ 24) 1 then zLen (al / 40 * 40) (x.pa % 2 ^ 24) rem
       else upTo (if x.kind = .so then 8 else al) va rem)
  | .trap _ _ => upTo al va rem
  | .wait _ => upTo al va rem

/-- Bytes of the next beat from global memory. -/
def State.loadLen (s : State) (g : Nat) (en : QEntry) (va rem : Nat) : Nat :=
  match s.translate (.tile g) (s.qSpace g) va .rd en.atM with
  | .ok x _ => upTo (if x.kind = .so then 8 else 64) va rem
  | .trap _ _ => upTo 64 va rem
  | .wait _ => upTo 64 va rem

/-- Some page of a global range is an SO page, or does not translate now, so that it may become one. -/
def State.mayBeSo (s : State) (g : Nat) (en : QEntry) (k : AccKind) (va n : Nat) : Bool :=
  (pieces 4096 (n / 4096 + 2) va n).any (fun p => match s.translate (.tile g) (s.qSpace g) p.1 k en.atM with
    | .ok x _ => decide (x.kind = .so)
    | .trap _ _ => true
    | .wait _ => true)

/-! ### The local side (R275) -/

/-- Reads local bytes on the path of a queue. -/
def State.lRead (s : State) (g : Nat) (q : Q) (off n : Nat) : Res (List Byte) :=
  if (s.tile g).rowOpen off n then .wait s
  else
    let h := s.readHome (pathNo q) (localKey g off) n
    match h.bad with
    | some w => .trap (TrapI.mk3 9 1 (BitVec.ofNat 64 w)) h.s
    | none => .ok h.bytes h.s

/-- The trap of a local write that its tile refuses. -/
def localTrap (g : Nat) (e : Nat × Nat) : TrapI :=
  if e.1 = 9 then TrapI.mk3 25 0 (BitVec.ofNat 64 ((e.2 - zBase) / 10 % 16384)) else TrapI.mk3 9 1 (BitVec.ofNat 64 (localKey g e.2))

/-- Writes local bytes on the path of a queue. -/
def State.lWrite (s : State) (g : Nat) (q : Q) (off : Nat) (bs : List Byte) : Res Unit :=
  match s.tileWrite (pathNo q) g off bs false with
  | .ok s' => .ok () s'
  | .err c s' => .trap (localTrap g (c, off)) s'
  | .wait => .wait s

/-- Writes local bytes, or adds them word by word: how many have been written, and the fault that stopped it (R282). The rows are
final. -/
def State.lPut (s : State) (g : Nat) (q : Q) (off : Nat) (bs : List Byte) (add : Bool) : State × Nat × Option TrapI :=
  if add then
    let w := addWidth off
    match (s.zTouched g off bs.length).addWords (pathNo q) g w (bs.length / w) off bs with
    | (s', none) => (s', bs.length, none)
    | (s', some e) => (s', e.2 - off, some (localTrap g e))
  else match (s.zTouched g off bs.length).writeHome (localKey g off) bs with
    | .error _ => (s, 0, some (localTrap g (8, off)))
    | .ok s' => (s', bs.length, none)

/-- Writes bytes of a packed block, which in a z tile need not be whole words: the copy's range as a whole is (R275, R289). -/
def State.lBlock (s : State) (g : Nat) (q : Q) (off : Nat) (bs : List Byte) : Res Unit :=
  if (s.tile g).rowOpen off bs.length then .wait s
  else match s.lPut g q off bs false with
    | (s', _, none) => .ok () s'
    | (s', _, some t) => .trap t s'

/-! ### Row copies (R274, R283 to R287, R292) -/

/-- The rows of a copy: the global side where there is one, the local side, and what they share. -/
structure RowCopy where
  glob : Option Word
  loc : Option Nat
  lwrite : Bool
  /-- Local distance of two rows. -/
  lstr : Word
  len : Nat
  rows : Nat
  str : Word
  /-- Offset of the index array of CGAT and CSCT. -/
  idx : Option Nat
  add : Bool
  deriving DecidableEq, Repr

/-- STR (R274). -/
def QEntry.str (en : QEntry) : Word := if en.ximm ≠ 0 then en.ximm else BitVec.ofNat 64 (fld en.r2 23 0)

/-- The rows of a copy command of the shape-word kind. -/
def rowCopy (en : QEntry) (i : Instr) : Option RowCopy :=
  let len := fld en.r2 23 0
  let base : RowCopy := { glob := none, loc := none, lwrite := false, lstr := BitVec.ofNat 64 len, len := len,
                          rows := fld en.r2 39 24, str := en.str, idx := none, add := false }
  let load := { base with glob := some en.r1, loc := some en.r0.toNat, lwrite := true }
  let store := { base with glob := some en.r0, loc := some en.r1.toNat }
  match i with
  | .cld e => some { load with add := e.f7.getLsbD 0 }
  | .fget _ => some load
  | .cgat _ => some { load with idx := some (fld en.r2 63 40) }
  | .cst e => some { store with add := e.f7.getLsbD 0 }
  | .csct e => some { store with add := e.f7.getLsbD 0, idx := some (fld en.r2 63 40) }
  | .fput e => some { store with add := e.f7.getLsbD 0 }
  | .cfill e =>
    if e.f7.getLsbD 3 then some { base with loc := some en.r0.toNat, lwrite := true, lstr := en.str }
    else some { base with glob := some en.r0 }
  | _ => none

/-- A null copy (R274). -/
def RowCopy.null (c : RowCopy) : Bool := c.len = 0 || c.rows = 0

/-- Local offset of row r. -/
def RowCopy.lrow (c : RowCopy) (r : Nat) : Nat := (BitVec.ofNat 64 (c.loc.getD 0) + BitVec.ofNat 64 r * c.lstr).toNat

/-- Global address of row r, given the index array. -/
def RowCopy.grow (c : RowCopy) (ixs : List Word) (r : Nat) : Nat :=
  let j := if c.idx.isSome then ixs.getD r 0 else BitVec.ofNat 64 r
  (c.glob.getD 0 + j * c.str).toNat

/-- The first row of a copy that a condition finds. -/
def RowCopy.first (c : RowCopy) (p : Nat → Bool) : Option Nat := (List.range c.rows).find? p

/-- A fault that names a local offset or virtual address. -/
def vaFault (cause : Nat) (va : Nat) : TrapI := TrapI.mk3 cause 0 (BitVec.ofNat 64 va)

/-- Checks 2 to 5 of R277 on a copy's rows. -/
def RowCopy.localCheck (c : RowCopy) (t : Tile) : Option TrapI :=
  let idxOff := c.idx.getD 0
  let ladd := c.add && c.lwrite
  let misadd := fun r => ladd && decide (atomBase ≤ c.lrow r) && (c.lrow r % 8 ≠ 0 || c.len % 8 ≠ 0 || c.str.toNat % 8 ≠ 0)
  let badAddr := fun r => !t.localOk (c.lrow r) c.len || (ladd && !decide (zBase ≤ c.lrow r))
  let badZ := fun r => c.lwrite && inZ (c.lrow r) c.len && !(wholeWords (c.lrow r) c.len && (!ladd || c.str.toInt % 10 = 0))
  if idxOff % 4 ≠ 0 then some (vaFault 6 idxOff)
  else match (if c.loc.isSome then c.first misadd else none), (if c.loc.isSome then c.first badAddr else none) with
    | some r, _ => some (vaFault 6 (c.lrow r))
    | none, some r => some (vaFault 5 (c.lrow r))
    | none, none =>
      if c.idx.isSome && !t.localOk idxOff (4 * c.rows) then some (vaFault 5 idxOff)
      else if c.loc.isNone then none
      else match (if c.lwrite then c.first (fun r => t.inQueues (c.lrow r) c.len) else none), c.first badZ with
        | some r, _ => some (vaFault 12 (c.lrow r))
        | none, some r => some (vaFault 6 (c.lrow r))
        | none, none => none

/-- Check 6 of R277: bits [63:57] of the first and last global byte of each row. -/
def RowCopy.globalCheck (c : RowCopy) (ixs : List Word) : Option TrapI :=
  if c.glob.isNone then none
  else match c.first (fun r => decide (2 ^ 57 ≤ c.grow ixs r) || decide (2 ^ 57 < c.grow ixs r + c.len)) with
    | some r => some (vaFault 5 (c.grow ixs r))
    | none => none

/-- The index array of CGAT and CSCT, read when the copy begins (R284). -/
def RowCopy.indices (c : RowCopy) (s : State) (g : Nat) (q : Q) : Res (List Word) :=
  match c.idx with
  | none => .ok [] s
  | some o => (s.lRead g q o (4 * c.rows)).andThen fun bs s =>
      .ok ((List.range c.rows).map (fun r => BitVec.ofNat 64 (leAt bs (4 * r) 4))) s

/-- The tile window that holds a global range, for a write: translation faults are precise (R292). -/
def State.groupTile (s : State) (g : Nat) (en : QEntry) (va n : Nat) : Except (TrapI × State) (Option Nat) :=
  let tr := fun (v : Nat) => match s.translate (.tile g) (s.qSpace g) v .wr en.atM with
    | .trap t s' => Except.error (t, s')
    | .wait _ => .ok none
    | .ok x _ => .ok (windowOf x.pa)
  (tr va).bind fun a => (tr (va + n - 1)).bind fun b => .ok (if a = b then a else none)

/-- All ranges of a grouped put lie in one window, the recorded one where there is one. -/
def State.groupCheck (s : State) (g : Nat) (en : QEntry) : List (Nat × Nat) → Option Nat → Except (TrapI × State) (Option Nat)
  | [], w => .ok w
  | (va, n) :: r, w =>
    (s.groupTile g en va n).bind fun t =>
      match t, w with
      | none, _ => .error (mxFault 30 3, s)
      | some t, none => State.groupCheck s g en r (some t)
      | some t, some w => if t = w then State.groupCheck s g en r (some w) else .error (mxFault 30 3, s)

/-- Fabric group n of a tile. -/
def Tile.group (t : Tile) (n : Nat) : Group := AMap.getD t.groups n { c := 0, tile := none, flags := 0, pend := [] }

/-- Replaces fabric group n. -/
def Tile.setGroup (t : Tile) (n : Nat) (x : Group) : Tile := { t with groups := AMap.put t.groups n x }

/-- An earlier flag of the group with the epoch of the next command has not been acknowledged (R410). -/
def Group.epochBusy (x : Group) : Bool := x.pend.any (fun n => decide (n % 16 = x.flags % 16))

/-- ISS_p := ISS_p + 1 (R291). -/
def Tile.issued (t : Tile) (p : Nat) : Tile := if h : p < 4 then { t with iss := t.iss.set p (t.iss[p] + 1) } else t

/-- ACK_p := ACK_p + 1. -/
def Tile.acked (t : Tile) (p : Nat) : Tile := if h : p < 4 then { t with ack := t.ack.set p (t.ack[p] + 1) } else t

/-- PATH of FGET, FPUT and FPUT.OF. -/
def pathOf (e : Eng) : Nat := fld e.f7 2 1
/-- GRP of FPUT and FPUT.OF. -/
def grpOf (e : Eng) : Nat := fld e.f7 6 3

/-- The number, never 0, that an FPUT beginning now gets among the puts of its path; its packets carry it in `budget`. -/
def Tile.putNo (t : Tile) (p : Nat) : Word := if h : p < 4 then BitVec.ofNat 64 ((t.iss[p]).toNat + 1) else 1

/-- The begin of an FPUT that has passed the checks of R277 (R291, R292, R410). The entry keeps its group's epoch and its
number. -/
def fputBegin (s : State) (g : Nat) (en : QEntry) (e : Eng) (c : RowCopy) : BegRes :=
  let p := pathOf e
  let n := grpOf e
  let no := (s.tile g).putNo p
  if c.null || n = 0 then .ok (s.updTile g (fun t => t.issued p)) { en with cap := [0, no] }
  else
    let x := (s.tile g).group n
    match s.groupCheck g en ((List.range c.rows).map (fun r => (c.grow [] r, c.len))) x.tile with
    | .error e => .fault e.1 e.2
    | .ok w =>
      if x.c = 0xFFFFFFFF then .fault (mxFault 30 4) s
      else if x.epochBusy then .hold
      else .ok (s.updTile g (fun t => (t.issued p).setGroup n { x with c := x.c + 1, tile := w }))
                { en with cap := [BitVec.ofNat 64 x.flags, no] }

/-- The row whose next byte stands at the lowest global address, ties to the lower row, given how far each row has come; `rows`
where all are done. -/
def RowCopy.lowest (c : RowCopy) (ixs : List Word) (ps : List (Nat × List Byte)) : Nat :=
  (ps.zipIdx.foldl (fun (a : Nat × Nat) p =>
    let va := c.grow ixs p.2 + p.1.1
    if p.1.1 < c.len ∧ va < a.2 then (p.2, va) else a) (c.rows, 2 ^ 64)).1

/-- An entry whose rows go on by ascending address turns to the row of the lowest one (R276). -/
def RowCopy.turnTo (c : RowCopy) (e : QEntry) : QEntry :=
  let r := c.lowest e.cap e.parts
  let p := e.parts.getD r (0, [])
  { e with row := r, off := p.1, carry := p.2 }

/-- The entry has moved past a beat of n bytes of its row, of which `carry` are still to be written. -/
def RowCopy.past (c : RowCopy) (n : Nat) (carry : List Byte) (e : QEntry) : QEntry :=
  let e := { e with beat := e.beat + 1, far := [], carry := carry }
  if e.asc then c.turnTo { e with parts := e.parts.set e.row (e.off + n, carry) }
  else if e.off + n < c.len then { e with off := e.off + n } else { e with off := 0, row := e.row + 1 }

/-- A row copy that begins: rows that touch SO pages are taken in parts by ascending address (R276, log entry 119). -/
def RowCopy.start (c : RowCopy) (s : State) (g : Nat) (en : QEntry) : QEntry :=
  let so := c.glob.isSome && (List.range c.rows).any (fun r =>
    s.mayBeSo g en (if c.lwrite then .rd else .wr) (c.grow en.cap r) c.len)
  if so then c.turnTo { en with asc := true, parts := List.replicate c.rows (0, []) } else en

/-- The begin of a copy of the shape-word kind. -/
def rowBegin (s : State) (g : Nat) (q : Q) (en : QEntry) (i : Instr) (c : RowCopy) : BegRes :=
  let fin := fun (s : State) (en : QEntry) => match i with
    | .fput e => fputBegin s g en e c
    | _ => BegRes.ok s en
  if c.idx.isNone && fld en.r2 63 40 ≠ 0 then .fault (mxFault 30 1) s
  else if c.null then fin s en
  else match c.localCheck (s.tile g) with
    | some t => .fault t s
    | none => match c.indices s g q with
      | .trap t s => .freeze t s
      | .wait _ => .hold
      | .ok ixs s => match c.globalCheck ixs with
        | some t => .fault t s
        | none => fin s (c.start s g { en with cap := ixs })

/-- A result of a beat's accesses; overflow of a local add is an engine fault, all else a freeze or remote error. -/
def Res.toBeat {α : Type} (r : Res α) (f : α → State → BeatRes) : BeatRes :=
  match r with
  | .ok a s => f a s
  | .wait s => .hold s
  | .trap t s => if t.cause = 25 then .fault t s else .freeze t s

/-- Pattern bytes of CFILL from byte b of a row on (R287). -/
def fillBytes (v : Word) (b n : Nat) : List Byte :=
  (List.range n).map (fun k => BitVec.ofNat 8 (v.toNat / 2 ^ (8 * ((b + k) % 8))))

/-- The last packet of a row copy is the one of n bytes at the entry's place. -/
def QEntry.lastBeat (en : QEntry) (c : RowCopy) (n : Nat) : Bool := decide (c.rows ≤ (c.past n [] en).row)

/-- A packet of an FPUT (R292, R393, R410). -/
def fputSend (s : State) (g : Nat) (en : QEntry) (e : Eng) (c : RowCopy) (va : Nat) (bs : List Byte) : Res Unit :=
  let n := bs.length
  (s.translate (.tile g) (s.qSpace g) va .wr en.atM).andThen fun x s =>
    if s.gBusy g .s en x n then .wait s
    else
      let go := fun (d : Nat) =>
        let last := decide (grpOf e ≠ 0) && en.lastBeat c n
        let typ := if grpOf e ≠ 0 then PktT.put else if c.add then .addw else .wr
        Res.ok () (s.request { en.pkt s g .s typ x d with
          counts := true, len := n, data := bs, add := c.add, wide := inZ (x.pa % 2 ^ 24) 1, path := pathOf e,
          grp := grpOf e, epoch := (en.cap.headD 0).toNat, last := last, cnt := if last then en.beat + 1 else 0,
          budget := (en.cap.getD 1 0).toNat })
      match s.place x.pa with
      | .hbm _ _ => go 0
      | .tile _ _ => go 0
      | .far p => go p
      | .out => .trap (remote 1 x.pa (s.effOf g .s en.isn)) s
      | .reserved => .trap (remote 5 x.pa (s.effOf g .s en.isn)) s

/-- Bytes of the word in which a load's destination takes what is written: whole accumulator words (R44), the words of an add
(R282). -/
def RowCopy.word (c : RowCopy) (off : Nat) : Nat := if inZ off 1 then 10 else if c.add then 8 else 1

/-- Writes whole words of what a load has read, `n` bytes of it now; the rest it carries on. After an overflow it carries the words
from the failing one on (R79), and its beat is not yet made. -/
def loadPut (s : State) (g : Nat) (q : Q) (en : QEntry) (c : RowCopy) (n : Nat) (data : List Byte) : BeatRes :=
  let dst := c.lrow en.row + en.off - en.carry.length
  let w := c.word dst
  match s.lPut g q dst (data.take (data.length / w * w)) c.add with
  | (s, m, some t) =>
    let s := (if m = 0 then s else s.noteEff g q en.isn).updEntry g q en.isn
      (fun e => { e with off := e.off + n, carry := data.drop m, far := [] })
    if t.cause = 25 then .fault t s else .freeze t s
  | (s, m, none) =>
    .more ((if m = 0 then s else s.noteEff g q en.isn).updEntry g q en.isn (c.past n (data.drop m)))

/-- Bytes of the row that the next beat of a row copy takes. -/
def State.rowLen (s : State) (g : Nat) (en : QEntry) (i : Instr) (c : RowCopy) : Nat :=
  let rem := c.len - en.off
  let lo := c.lrow en.row + en.off
  let ga := c.grow en.cap en.row + en.off
  if c.glob.isNone then (if inZ lo 1 then zLen 40 lo rem else upTo 64 lo rem)
  else if c.lwrite then s.loadLen g en ga (if inZ lo 1 then Nat.min rem (atomBase - lo) else rem)
  else match i with
    | .fput _ => s.storeLen g en 256 ga rem false
    | _ => s.storeLen g en 64 ga rem c.add

/-- One beat of a row load: what it carries is written first where that makes a word; else global bytes are read, once each
(R276). -/
def loadBeat (s : State) (g : Nat) (q : Q) (en : QEntry) (path n : Nat) (c : RowCopy) : BeatRes :=
  let k := en.carry.length
  let dst := c.lrow en.row + en.off - k
  if (s.tile g).rowOpen dst (k + n) then .hold s
  else if k ≠ 0 && decide (c.word dst ≤ k) then loadPut s g q en c 0 en.carry
  else (s.gRead g q en path (c.grow en.cap en.row + en.off) n).toBeat fun bs s => loadPut s g q en c n (en.carry ++ bs)

/-- One beat of a row copy. -/
def rowBeat (s : State) (g : Nat) (q : Q) (en : QEntry) (i : Instr) (c : RowCopy) : BeatRes :=
  if c.null || decide (c.rows ≤ en.row) then .fin s
  else
    let n := s.rowLen g en i c
    let lo := c.lrow en.row + en.off
    let ga := c.grow en.cap en.row + en.off
    let next := fun (s : State) => BeatRes.more (s.updEntry g q en.isn (c.past n []))
    match i with
    | .cfill _ =>
      let bs := fillBytes en.r1 en.off n
      if c.glob.isSome then (s.gWrite g q en ga bs false).toBeat fun _ s => next s
      else (s.lWrite g q lo bs).toBeat fun _ s => next (s.noteEff g q en.isn)
    | .fput e => (s.lRead g q lo n).toBeat fun bs s => (fputSend s g en e c ga bs).toBeat fun _ s => next s
    | .fget e => loadBeat s g q en (pathOf e) n c
    | _ =>
      if c.lwrite then loadBeat s g q en 0 n c
      else (s.lRead g q lo n).toBeat fun bs s => (s.gWrite g q en ga bs c.add).toBeat fun _ s => next s

/-! ### CLDE (R288, R289) -/

/-- A CLDE descriptor (Table 8.4). -/
structure CldeDesc where
  ava : Word
  pstr : Word
  sva : Word
  sstr : Word
  nb : Nat
  fin : Nat
  fout : Nat
  base : Nat
  deriving DecidableEq, Repr

/-- The fields of a descriptor in 32 bytes. -/
def cldeFields (bs : List Byte) : CldeDesc :=
  let fmt := leAt bs 30 1
  { ava := BitVec.ofNat 64 (leAt bs 0 8), pstr := BitVec.ofNat 64 (leAt bs 8 8), sva := BitVec.ofNat 64 (leAt bs 16 8),
    sstr := BitVec.ofNat 64 (leAt bs 24 4), nb := leAt bs 28 2, fin := bitsN fmt 2 0, fout := bitsN fmt 5 3, base := leAt bs 31 1 }

/-- FOUT is a format of Table 8.4. -/
def CldeDesc.outOk (d : CldeDesc) : Bool := d.fout = 3 || d.fout = 4

/-- The descriptor in 32 bytes; nothing when a reserved value or a limit is broken (R289). -/
def cldeDesc (bs : List Byte) : Option CldeDesc :=
  let d := cldeFields bs
  if d.sva.toNat % 16 ≠ 0 ∨ d.sstr.toNat % 16 ≠ 0 ∨ d.nb = 0 ∨ 2 < d.fin ∨ d.outOk = false ∨ bitsN (leAt bs 30 1) 7 6 ≠ 0 then none
  else some d

/-- K of a coding word. -/
def codeK (w : Word) : Nat := fld w 11 8

/-- Coefficient c[i] of the task of a coding word (R289). -/
def codeCoef (w : Word) (i : Nat) : Nat :=
  let t := fld w 7 4
  let k := codeK w
  if t < k then (if i = t then 1 else 0) else (t - k + 1) ^ i

/-- Bytes of a block of 48 elements of a BSI format. -/
def blockBytes (f : Nat) : Nat := cdiv (48 * bsiWidth f) 8

/-- The descriptor of a CLDE that has begun, kept in the entry. -/
def QEntry.cldeD (en : QEntry) : Option CldeDesc := cldeDesc ((en.cap.drop 1).take 32 |>.map (fun w => w.truncate 8))

/-- The panels whose mantissas a task reads: those with a coefficient that is not 0 (R289). -/
def usedPanels (code : Word) : List Nat := (List.range (codeK code)).filter (fun i => decide (codeCoef code i ≠ 0))

/-- Addresses of the scale streams of all panels. -/
def CldeDesc.scaleVas (x : CldeDesc) (code : Word) : List Word :=
  (List.range (codeK code)).map (fun i => x.sva + BitVec.ofNat 64 i * x.sstr)

/-- Addresses of the mantissa streams that are read. -/
def CldeDesc.mantVas (x : CldeDesc) (code : Word) : List Word := (usedPanels code).map (fun i => x.ava + BitVec.ofNat 64 i * x.pstr)

/-- Bits [63:57] of a byte range that a command accesses (check 6 of R277). -/
def rangeFault (va : Word) (n : Nat) : Option TrapI :=
  if 2 ^ 57 ≤ va.toNat ∨ 2 ^ 57 < va.toNat + n then some (vaFault 5 va.toNat) else none

/-- Checks 3 to 5 of R277 on the two destinations of a CLDE. -/
def cldeLocal (t : Tile) (x : CldeDesc) (m c : Nat) : Option TrapI :=
  let ml := x.nb * blockBytes x.fout
  let sl := 16 * groupsOf x.nb
  let zbad := fun (o n : Nat) => inZ o n && !wholeWords o n
  if !t.localOk m ml then some (vaFault 5 m)
  else if !t.localOk c sl then some (vaFault 5 c)
  else if t.inQueues m ml then some (vaFault 12 m)
  else if t.inQueues c sl then some (vaFault 12 c)
  else if zbad m ml then some (vaFault 6 m)
  else if zbad c sl then some (vaFault 6 c)
  else none

/-- Check 6 of R277 on the streams of a CLDE. -/
def cldeGlobal (x : CldeDesc) (code : Word) : Option TrapI :=
  match (x.scaleVas code).findSome? (fun a => rangeFault a (16 * groupsOf x.nb)) with
  | some t => some t
  | none => (x.mantVas code).findSome? (fun a => rangeFault a (x.nb * blockBytes x.fin))

/-- The streams of a CLDE, address and bytes: the K scale streams, then the mantissa streams that are read. -/
def CldeDesc.streams (x : CldeDesc) (code : Word) : List (Nat × Nat) :=
  (x.scaleVas code).map (fun a => (a.toNat, 16 * groupsOf x.nb)) ++ (x.mantVas code).map (fun a => (a.toNat, x.nb * blockBytes x.fin))

/-- A CLDE that begins: streams with SO pages are read in ascending address order, before any block is made (R276). -/
def CldeDesc.start (x : CldeDesc) (s : State) (g : Nat) (code : Word) (en : QEntry) : QEntry :=
  { en with parts := (x.streams code).map (fun _ => (0, [])),
            asc := (x.streams code).any (fun p => s.mayBeSo g en .rd p.1 p.2) }

/-- The begin of CLDE: checks 2 to 6 of R277 as far as the descriptor gives what they need, then its own (R288, R289). -/
def cldeBegin (s : State) (g : Nat) (q : Q) (en : QEntry) : BegRes :=
  let t := s.tile g
  let d := en.r1.toNat
  let code := t.mxe.coding
  if d % 16 ≠ 0 then .fault (vaFault 6 d) s
  else if !t.localOk d 32 then .fault (vaFault 5 d) s
  else match s.lRead g q d 32 with
    | .trap t s => .freeze t s
    | .wait _ => .hold
    | .ok bs s =>
      let x := cldeFields bs
      match if x.outOk then cldeLocal t x en.r0.toNat en.r2.toNat else none with
      | some f => .fault f s
      | none => match if bit code 0 then cldeGlobal x code else none with
        | some f => .fault f s
        | none =>
          if !bit code 0 then .fault (mxFault 31 1) s
          else match cldeDesc bs with
            | none => .fault (mxFault 30 2) s
            | some _ =>
              if en.r0.toNat % 4 ≠ 0 then .fault (vaFault 6 en.r0.toNat) s
              else if en.r2.toNat % 16 ≠ 0 then .fault (vaFault 6 en.r2.toNat) s
              else .ok s (x.start s g code { en with cap := code :: bs.map (fun b => b.zeroExtend 64) })

/-- How many bytes of stream j, or all, a CLDE at its row must have read: the scales first, then the mantissas of its block. -/
def CldeDesc.need (x : CldeDesc) (code : Word) (en : QEntry) (j : Nat) : Nat :=
  if j < codeK code then (if en.row = 0 then 16 * groupsOf x.nb else 0)
  else if en.asc then x.nb * blockBytes x.fin
  else Nat.min en.row x.nb * blockBytes x.fin

/-- The stream of which a CLDE reads next: the first that lacks bytes, or, in ascending order, the one at the lowest address. -/
def CldeDesc.next (x : CldeDesc) (code : Word) (en : QEntry) : Option Nat :=
  let lacks := (x.streams code).zipIdx.filterMap (fun p =>
    let o := (en.parts.getD p.2 (0, [])).1
    if o < x.need code en p.2 then some (p.2, p.1.1 + o) else none)
  (lacks.foldl (fun (a : Option (Nat × Nat)) p => match a with
    | none => some p
    | some b => if en.asc && decide (p.2 < b.2) then some p else a) none).map Prod.fst

/-- Where a stream from `va` on goes on so that the packed block at byte o is read anew as a whole, each aligned 8-byte part of the
stream by one access (R276, R334). -/
def blockStart (va unit o : Nat) : Nat := o / unit * unit - Nat.min (o / unit * unit) ((va + o / unit * unit) % 8)

/-- A stream forgets what it has read of a block that is not whole (R334). -/
def CldeDesc.unread (x : CldeDesc) (code : Word) (j : Nat) (p : Nat × List Byte) : Nat × List Byte :=
  let va := ((x.streams code).getD j (0, 0)).1
  let o := blockStart va (if j < codeK code then 16 else blockBytes x.fin) p.1
  (o, p.2.take (p.2.length - (p.1 - o)))

/-- n bytes of a stream from byte o on, of what a CLDE has read of it. -/
def streamAt (p : Nat × List Byte) (o n : Nat) : List Byte := slice p.2 (o - (p.1 - p.2.length)) n

/-- A stream gives up its bytes before o. -/
def streamDrop (o : Nat) (p : Nat × List Byte) : Nat × List Byte := (p.1, p.2.drop (o - (p.1 - p.2.length)))

/-- The first fault of the K scale streams (R289). -/
def panelFault (x : CldeDesc) (panels : List (List Byte)) : Option TrapI :=
  let one := fun (p : List Byte × Nat) => match badGroup (x.base + p.2 * x.nb) p.1 x.nb with
    | some t => some t
    | none => badScale p.1 x.nb
  match panels.zipIdx.findSome? one with
  | some t => some t
  | none =>
    let p0 := panels.headD []
    match (List.range x.nb).find? (fun b => panels.any (fun p => decide (scaleAt p b ≠ scaleAt p0 b))) with
    | some b => some (ixFault 29 b)
    | none => none

/-- One beat of CLDE: a piece of a stream that it needs; else the check of the scales, a block, or the scale groups. Its step is the
block (R334). -/
def cldeBeat (s : State) (g : Nat) (q : Q) (en : QEntry) : BeatRes :=
  match en.cldeD with
  | none => .fin s
  | some x =>
    let code := en.cap.headD 0
    let step := fun (f : QEntry → QEntry) (s : State) =>
      BeatRes.more (s.updEntry g q en.isn (fun e => { f e with row := e.row + 1, beat := e.beat + 1, far := [] }))
    match x.next code en with
    | some j =>
      let (va, len) := (x.streams code).getD j (0, 0)
      let (o, data) := en.parts.getD j (0, [])
      let n := s.loadLen g en (va + o) (len - o)
      (match s.gRead g q en 0 (va + o) n with
       | .ok bs s => .more (s.updEntry g q en.isn (fun e => { e with parts := e.parts.set j (o + n, data ++ bs), far := [] }))
       | .wait s => .hold s
       | .trap t s => .freeze t (s.updEntry g q en.isn (fun e =>
          { e with parts := e.parts.zipIdx.map (fun p => x.unread code p.2 p.1) })))
    | none =>
      if en.row = 0 then
        let ps := (en.parts.take (codeK code)).map Prod.snd
        match panelFault x ps with
        | some t => .fault t s
        | none => step (fun e => { e with cap := e.cap ++ (ps.headD []).map (fun b => b.zeroExtend 64) }) s
      else if en.row ≤ x.nb then
        let b := en.row - 1
        let bb := blockBytes x.fin
        let ms := (en.parts.drop (codeK code)).map (fun p => mantissas (bsiWidth x.fin) 48 (streamAt p (b * bb) bb))
        let sum := (List.range 48).map (fun e => isum (((usedPanels code).zip ms).map (fun p => (codeCoef code p.1 : Int) * p.2.getD e 0)))
        if !sum.all (inFmt x.fout) then .fault (TrapI.mk3 31 2 (BitVec.ofNat 64 b)) s
        else (s.lBlock g q (en.r0.toNat + b * blockBytes x.fout) (packMant (bsiWidth x.fout) sum)).toBeat fun _ s =>
          step (fun e => { e with parts := e.parts.take (codeK code) ++ (e.parts.drop (codeK code)).map (streamDrop (en.row * bb)) })
            (s.noteEff g q en.isn)
      else if en.row = x.nb + 1 then
        let bs : List Byte := (en.cap.drop 33).map (fun w => w.truncate 8)
        let out := bs.zipIdx.map (fun p => if p.2 % 16 = 0 then BitVec.ofNat 8 (x.base + 15 * (p.2 / 16)) else p.1)
        (s.lBlock g q en.r2.toNat out).toBeat fun _ s => step id (s.noteEff g q en.isn)
      else .fin s

/-! ### CSTD (R290) -/

/-- A CSTD descriptor (Table 8.5). -/
structure CstdDesc where
  src : List Nat
  c : List Int
  den : Nat
  nw : Nat
  nin : Nat
  out : Nat
  deriving DecidableEq, Repr

/-- The descriptor in 96 bytes; nothing when it breaks a rule. -/
def cstdDesc (bs : List Byte) : Option CstdDesc :=
  let d : CstdDesc := { src := (List.range 8).map (fun i => leAt bs (4 * i) 4),
                        c := (List.range 8).map (fun i => sextN 32 (leAt bs (32 + 4 * i) 4)),
                        den := leAt bs 64 8, nw := leAt bs 72 4, nin := leAt bs 76 1, out := leAt bs 77 1 }
  let tail := (List.range 8).all (fun i => decide (i < d.nin) || (d.src.getD i 0 = 0 && d.c.getD i 0 = 0))
  if d.den = 0 ∨ 2 ^ 63 ≤ d.den ∨ d.nw = 0 ∨ 1048576 < d.nw ∨ d.nin = 0 ∨ 8 < d.nin ∨ 1 < d.out ∨ leAt bs 78 18 ≠ 0 ∨
      tail = false ∨ d.src.any (fun o => decide (o % 16 ≠ 0)) then none
  else some d

/-- The descriptor kept in the entry. -/
def QEntry.cstdD (en : QEntry) : Option CstdDesc := cstdDesc (en.cap.map (fun w => w.truncate 8))

/-- The begin of CSTD. -/
def cstdBegin (s : State) (g : Nat) (q : Q) (en : QEntry) : BegRes :=
  let t := s.tile g
  let d := en.r1.toNat
  if d % 16 ≠ 0 then .fault (vaFault 6 d) s
  else if !t.localOk d 96 then .fault (vaFault 5 d) s
  else match s.lRead g q d 96 with
    | .trap t s => .freeze t s
    | .wait _ => .hold
    | .ok bs s => match cstdDesc bs with
      | none => .fault (mxFault 30 2) s
      | some x =>
        let w := if x.out = 0 then 16 else 10
        match (x.src.take x.nin).find? (fun o => !t.localOk o (16 * x.nw)) with
        | some o => .fault (vaFault 5 o) s
        | none =>
          match rangeFault en.r0 (x.nw * w) with
          | some f => .fault f s
          | none => .ok s { en with cap := bs.map (fun b => b.zeroExtend 64) }

/-- The value of slot w of each input (bits [127:80] ignored). -/
def State.slotVals (s : State) (g : Nat) (q : Q) (w : Nat) : List Nat → Res (List Int)
  | [] => .ok [] s
  | o :: r => (s.lRead g q (o + 16 * w) 16).andThen fun b s =>
      (State.slotVals s g q w r).andThen fun vs s => .ok (accVal b :: vs) s

/-- How many of n bytes from a global address on end at a whole 8-byte part, or in a z tile at a whole group of words. -/
def State.wholeParts (s : State) (g : Nat) (en : QEntry) (va n : Nat) : Nat :=
  match s.translate (.tile g) (s.qSpace g) va .wr en.atM with
  | .ok x _ =>
    if (windowOf x.pa).isSome && inZ (x.pa % 2 ^ 24) 1 then n - (x.pa % 2 ^ 24 - zBase + n) % 40 else n - (va + n) % 8
  | .trap _ _ => n
  | .wait _ => n

/-- Bytes of a word that CSTD writes. -/
def CstdDesc.width (x : CstdDesc) : Nat := if x.out = 0 then 16 else 10

/-- Where the bytes that a CSTD has computed and not yet written begin. -/
def QEntry.cstdVa (en : QEntry) (x : CstdDesc) : Nat := en.r0.toNat + en.row * x.width - en.carry.length

/-- CSTD writes the next piece of the first k bytes that it carries. -/
def cstdPut (s : State) (g : Nat) (q : Q) (en : QEntry) (x : CstdDesc) (k : Nat) : BeatRes :=
  let m := s.storeLen g en 64 (en.cstdVa x) k false
  (s.gWrite g q en (en.cstdVa x) (en.carry.take m) false).toBeat fun _ s =>
    .more (s.updEntry g q en.isn (fun e => { e with carry := en.carry.drop m, far := [] }))

/-- One beat of CSTD: whole parts of what it has computed are written, one at a time (R276); else one word is computed. Where a word
faults, those before it are written first (R290). A CSTD that goes on inside a word has written `off` bytes of it. -/
def cstdBeat (s : State) (g : Nat) (q : Q) (en : QEntry) : BeatRes :=
  match en.cstdD with
  | none => .fin s
  | some x =>
    let k := s.wholeParts g en (en.cstdVa x) en.carry.length
    let flush := fun (r : BeatRes) => if en.carry.isEmpty then r else cstdPut s g q en x en.carry.length
    if 0 < k then cstdPut s g q en x k
    else if x.nw ≤ en.row then flush (.fin s)
    else (s.slotVals g q en.row (x.src.take x.nin)).toBeat fun vs s =>
      let sum := isum ((x.c.zip vs).map (fun p => p.1 * p.2))
      let v := sum / (x.den : Int)
      let bs := if x.out = 0 then slotBytes v else accBytes v
      let bad := if sum % (x.den : Int) ≠ 0 then some 3 else if accFits v then none else some 2
      match bad with
      | some sub => flush (.fault (TrapI.mk3 31 sub (BitVec.ofNat 64 en.row)) s)
      | none => .more (s.updEntry g q en.isn (fun e =>
          { e with row := e.row + 1, beat := e.beat + 1, off := 0, far := [], carry := en.carry ++ bs.drop en.off }))

/-! ### FPUT.OF and FACKW (R293, R294) -/

/-- The begin of FPUT.OF: the flag packet, stamped, leaves at once. -/
def fputOfBegin (s : State) (g : Nat) (en : QEntry) (e : Eng) : BegRes :=
  let va := en.r0.toNat
  let n := grpOf e
  let x := (s.tile g).group n
  if 2 ^ 57 < va + 8 then .fault (vaFault 5 va) s
  else if va % 8 ≠ 0 then .fault (vaFault 6 va) s
  else match s.groupCheck g en [(va, 8)] x.tile with
    | .error e => .fault e.1 e.2
    | .ok _ =>
      if x.epochBusy then .hold
      else match s.translate (.tile g) (s.qSpace g) va .wr en.atM with
        | .trap t s => .fault t s
        | .wait _ => .hold
        | .ok a s => if s.gBusy g .s en a 8 then .hold else
          let d := match s.place a.pa with
            | .far p => p
            | _ => 0
          let s := s.updTile g (fun t => (t.issued (pathOf e)).setGroup n
            { x with c := 0, tile := none, flags := x.flags + 1, pend := x.pend ++ [x.flags] })
          .ok (s.request { en.pkt s g .s .flag a d with
            counts := true, len := 8, data := leBytes 8 en.r1.toNat, cnt := x.c.toNat, path := pathOf e, grp := n,
            epoch := x.flags }) en

/-- The begin of FACKW: its checks, then the wait for the acknowledgements of its paths. -/
def fackwBegin (s : State) (g : Nat) (en : QEntry) (e : Eng) : BegRes :=
  let t := s.tile g
  let o := en.r0.toNat
  let rec_ := decide (e.ga ≠ 0)
  if rec_ && o % 8 ≠ 0 then .fault (vaFault 6 o) s
  else if rec_ && !t.localOk o 32 then .fault (vaFault 5 o) s
  else if rec_ && t.inQueues o 32 then .fault (vaFault 12 o) s
  else if rec_ && inZ o 32 && !wholeWords o 32 then .fault (vaFault 6 o) s
  else if (List.finRange 4).all (fun p => !e.f7.getLsbD p.val || decide (t.iss[p] = t.ack[p])) then .ok s en
  else .hold

/-- The record of FACKW. -/
def fackwBeat (s : State) (g : Nat) (q : Q) (en : QEntry) (e : Eng) : BeatRes :=
  let t := s.tile g
  if e.ga = 0 || en.row ≠ 0 then .fin s
  else
    let bs := (List.finRange 4).flatMap (fun p => leBytes 4 (t.iss[p]).toNat ++ leBytes 4 (t.ack[p]).toNat)
    (s.lWrite g q en.r0.toNat bs).toBeat fun _ s =>
      .more ((s.noteEff g q en.isn).updEntry g q en.isn (fun e => { e with row := 1, beat := 1 }))

/-! ### CBAT (R295, R296) -/

/-- AOP, NORET and N of CBAT. -/
def cbatAop (e : Eng) : Nat := fld e.f7 3 0
/-- NORET. -/
def cbatNoret (e : Eng) : Bool := e.f7.getLsbD 4
/-- N. -/
def cbatN (e : Eng) : Nat := fld e.ext 7 0 + 1

/-- Entries per packet: 16, and 10 under ACAS, whose expected values travel too (R393; log entry 25). -/
def cbatPer (e : Eng) : Nat := if cbatAop e = 6 then 10 else 16

/-- The begin of CBAT: the checks of R277 and R295. Results of 8 bytes each do not go into a z tile (R44, log entry 116). -/
def cbatBegin (s : State) (g : Nat) (q : Q) (en : QEntry) (e : Eng) : BegRes :=
  let t := s.tile g
  let n := cbatN e
  let a := en.r0.toNat
  let b := en.r1.toNat
  let c := en.r2.toNat
  let ret := !cbatNoret e
  if b % 16 ≠ 0 then .fault (vaFault 6 b) s
  else if ret && c % 8 ≠ 0 then .fault (vaFault 6 c) s
  else if !t.localOk b (16 * n) then .fault (vaFault 5 b) s
  else if ret && !t.localOk c (8 * n) then .fault (vaFault 5 c) s
  else if ret && t.inQueues c (8 * n) then .fault (vaFault 12 c) s
  else if ret && inZ c (8 * n) then .fault (vaFault 6 c) s
  else if 2 ^ 57 ≤ a then .fault (vaFault 5 a) s
  else if a % 8 ≠ 0 then .fault (vaFault 6 a) s
  else match s.lRead g q b (16 * n) with
    | .trap t s => .freeze t s
    | .wait _ => .hold
    | .ok bs s =>
      if (List.range n).any (fun i => decide (leAt bs (16 * i + 4) 4 ≠ 0)) then .fault (mxFault 30 2) s
      else match s.translate (.tile g) (s.qSpace g) a .wr en.atM with
        | .trap t s => .freeze t s
        | .wait _ => .hold
        | .ok x s =>
          let off := x.pa % 2 ^ 24
          let bad := (windowOf x.pa).isNone || decide (off < atomBase) ||
            (List.range n).any (fun i => decide (atomEnd < off + 8 * leAt bs (16 * i) 4 + 8))
          if bad then .fault (vaFault 5 a) s else .ok s en

/-- One beat of CBAT: one packet of entries, or its answer taken. -/
def cbatBeat (s : State) (g : Nat) (q : Q) (en : QEntry) (e : Eng) : BeatRes :=
  let n := cbatN e
  let i := en.row
  let per := cbatPer e
  if n ≤ i then .fin s
  else
    let m := Nat.min per (n - i)
    (s.lRead g q (en.r1.toNat + 16 * i) (16 * m)).toBeat fun bs s =>
      (s.lRead g q (en.r2.toNat + 8 * i) (if cbatAop e = 6 then 8 * m else 0)).toBeat fun es s =>
        (s.translate (.tile g) (s.qSpace g) en.r0.toNat .wr en.atM).toBeat fun x s =>
          let far := match ((s.tile g).queue q).entry en.isn with
            | some k => k.far
            | none => []
          let d := match s.place x.pa with
            | .far p => p
            | _ => 0
          (farAccess s far (fun s l => s.updEntry g q en.isn (fun k => { k with far := l }))
            { en.pkt s g q .atm x d with len := 8 * m, data := bs ++ es, aop := cbatAop e, flagBit := cbatNoret e,
                                            dst := en.r2.toNat + 8 * i } true).toBeat fun _ s =>
            .more (s.updEntry g q en.isn (fun k => { k with row := k.row + m, beat := k.beat + 1, far := [] }))

/-! ### CRED (R297 to R299) -/

/-- Bytes of an element of CRED. -/
def credSize (et : Nat) : Nat := match et with
  | 0 => 4 | 1 => 2 | 2 => 4 | 3 => 8 | _ => 16

/-- ET of CRED. -/
def credEt (e : Eng) : Nat := fld e.f7 2 0

/-- D, A and Lv of a CRED of c elements among n ranks (R297). -/
def credD (e : Eng) (c : Nat) : Nat := cdiv (c * credSize (credEt e)) 64 * 64

/-- Lv. -/
def credLv (n : Nat) : Nat := bitLen 17 (n - 1)

/-- The level at which rank i sends: the number of its trailing zeros. -/
def credLevel (i : Nat) : Nat := ctzN 17 i

/-- The 16 bytes of a header straddle two pages (R333): they are not under one translation. -/
def State.straddles (s : State) (g : Nat) (en : QEntry) (va : Nat) : Bool :=
  decide (va / 4096 ≠ (va + 15) / 4096) &&
  (match s.translate (.tile g) (s.qSpace g) va .wr en.atM, s.translate (.tile g) (s.qSpace g) (va + 15) .wr en.atM with
   | .ok x _, .ok y _ => decide (x.pin ≠ y.pin)
   | _, _ => false)

/-- Check 6 of R277 and the alignment of the release on the send of rank i of n ranks (R298, R333), given its table entry. -/
def credSendFault (s : State) (g : Nat) (en : QEntry) (d i : Nat) (base : Word) : Option TrapI :=
  if i = 0 then none
  else
    let va := base.toNat + (credLevel i + 1) * (d + 64)
    if 2 ^ 57 < va + d + 16 then some (vaFault 5 va)
    else if s.straddles g en (va + d) then some (vaFault 6 (va + d)) else none

/-- The begin of CRED: N and ME of the rank table are kept in the entry. -/
def credBegin (s : State) (g : Nat) (q : Q) (en : QEntry) (e : Eng) : BegRes :=
  let t := s.tile g
  let x := en.r0.toNat
  let b := en.r1.toNat
  let c := en.r2.toNat
  if c = 0 ∨ 2 ^ 24 < c then .fault (mxFault 30 2) s
  else if b % 8 ≠ 0 then .fault (vaFault 6 b) s
  else if x % 64 ≠ 0 then .fault (vaFault 6 x) s
  else if !t.localOk b 16 then .fault (vaFault 5 b) s
  else match s.lRead g q b 16 with
    | .trap t s => .freeze t s
    | .wait _ => .hold
    | .ok bs s =>
      let n := leAt bs 0 4
      let me := leAt bs 4 4
      let len := (credLv n + 1) * (credD e c + 64)
      if n = 0 ∨ 65535 < n ∨ n ≤ me ∨ leAt bs 8 8 ≠ 0 then .fault (mxFault 30 2) s
      else if !t.localOk b (16 + 8 * n) then .fault (vaFault 5 b) s
      else if t.spBytes < x + len then .fault (vaFault 5 x) s
      else if t.inQueues x len then .fault (vaFault 12 x) s
      else match s.lRead g q (b + 16 + 8 * (me - 2 ^ credLevel me)) 8 with
        | .trap t s => .freeze t s
        | .wait _ => .hold
        | .ok ab s => match credSendFault s g en (credD e c) me (BitVec.ofNat 64 (ofBytes ab)) with
          | some f => .fault f s
          | none => .ok s { en with cap := [BitVec.ofNat 64 n, BitVec.ofNat 64 me] }

/-- The header of a send (R297). -/
def credHeader (c me n l et : Nat) : List Byte :=
  leBytes 4 c ++ leBytes 4 me ++ leBytes 4 n ++ leBytes 1 l ++ leBytes 1 et ++ leBytes 1 0 ++ leBytes 1 1

/-- One element of a level: the left operand is x (R298). -/
def credAdd (et rm : Nat) (x y : List Byte) : Option (List Byte × BitVec 5) :=
  let p := if et = 0 then 24 else 8
  if et ≤ 1 then
    let (v, f1) := (fpVal p (ofBytes x)).add (fpVal p (ofBytes y))
    let (c, f2) := fpRound p .arith rm 0 v
    some (leBytes (credSize et) c, f1 ||| f2)
  else if et ≤ 3 then some (leBytes (credSize et) ((ofBytes x + ofBytes y) % 2 ^ (8 * credSize et)), 0)
  else
    let v := accVal x + accVal y
    if accFits v then some (slotBytes v, 0) else none

/-- The sums of a level from element e on, until one overflows: the bytes, the flags, and the element that overflowed. -/
def credSums (et rm : Nat) (xs ys : List Byte) : (n : Nat) → (e : Nat) → List Byte × BitVec 5 × Option Nat
  | 0, _ => ([], 0, none)
  | n + 1, e =>
    let k := credSize et
    match credAdd et rm (slice xs (e * k) k) (slice ys (e * k) k) with
    | none => ([], 0, some e)
    | some (b, f) =>
      let (bs, fl, o) := credSums et rm xs ys n (e + 1)
      (b ++ bs, f ||| fl, o)

/-- The partner's header stands in the receive area of the level that a CRED waits at. -/
def credArrived (s : State) (g : Nat) (en : QEntry) (e : Eng) : Bool :=
  let a := credD e en.r2.toNat + 64
  s.mem.get (localKey g (en.r0.toNat + (en.row + 1) * a + credD e en.r2.toNat + 15)) == 1

/-- The rank's CRED receives at its level. -/
def credReceives (en : QEntry) : Bool :=
  let n := (en.cap.getD 0 0).toNat
  let i := (en.cap.getD 1 0).toNat
  decide (en.row < credLv n) && decide (i % 2 ^ (en.row + 1) ≠ 2 ^ en.row) && decide (i + 2 ^ en.row < n)

/-- The reduction of one level (R298). -/
def credReduce (s : State) (g : Nat) (q : Q) (en : QEntry) (e : Eng) : BeatRes :=
  let n := (en.cap.getD 0 0).toNat
  let i := (en.cap.getD 1 0).toNat
  let l := en.row
  let c := en.r2.toNat
  let et := credEt e
  let d := credD e c
  let x := en.r0.toNat
  let area := x + (l + 1) * (d + 64)
  let len := c * credSize et
  if !credArrived s g en e then .hold s
  else (s.lRead g q (area + d) 16).toBeat fun h s =>
    if leAt h 0 4 ≠ c ∨ leAt h 8 4 ≠ n ∨ leAt h 13 1 ≠ et ∨ leAt h 12 1 ≠ l ∨ leAt h 4 4 ≠ i + 2 ^ l then
      .fault (TrapI.mk3 32 1 (BitVec.ofNat 64 l)) s
    else (s.lRead g q x len).toBeat fun xs s => (s.lRead g q area len).toBeat fun ys s =>
      let (out, fl, o) := credSums et (fld e.ext 1 0) xs ys c 0
      (s.lWrite g q x out).toBeat fun _ s =>
        let s := if out.isEmpty then s else s.noteEff g q en.isn
        match o with
        | some k => .fault (TrapI.mk3 25 0 (BitVec.ofNat 64 k)) s
        | none => (s.lWrite g q (area + d) (List.replicate 16 0)).toBeat fun _ s =>
          .more (s.updEntry g q en.isn (fun k => { k with row := k.row + 1, beat := k.beat + 1, far := [],
                                                          flags := k.flags ||| fl }))

/-- One beat of CRED: a piece of a send or of its header, or a level. -/
def credBeat (s : State) (g : Nat) (q : Q) (en : QEntry) (e : Eng) : BeatRes :=
  let n := (en.cap.getD 0 0).toNat
  let i := (en.cap.getD 1 0).toNat
  let l := en.row
  let c := en.r2.toNat
  let d := credD e c
  let len := c * credSize (credEt e)
  if credLv n ≤ l then .fin s
  else if i % 2 ^ (l + 1) = 2 ^ l then
    if len + 16 ≤ en.off then .fin s
    else (s.lRead g q (en.r1.toNat + 16 + 8 * (i - 2 ^ l)) 8).toBeat fun ab s =>
      let base := ofBytes ab + (l + 1) * (d + 64)
      if en.off < len then
        let va := base + en.off
        let k := s.storeLen g en 64 va (len - en.off) false
        (s.lRead g q (en.r0.toNat + en.off) k).toBeat fun bs s => (s.gWrite g q en va bs false).toBeat fun _ s =>
          .more (s.updEntry g q en.isn (fun x => { x with off := x.off + k, beat := x.beat + 1, far := [] }))
      else if en.off = len && s.sentBy g q en.isn then .hold s
      else if en.off = len && s.straddles g en (base + d) then .fault (vaFault 6 (base + d)) s
      else
        let h := en.off - len
        let k := s.storeLen g en 16 (base + d + h) (16 - h) false
        (s.gWrite g q en (base + d + h) (slice (credHeader c i n l (credEt e)) h k) false).toBeat fun _ s =>
          .more (s.updEntry g q en.isn (fun x => { x with off := x.off + k, beat := x.beat + 1, far := [] }))
  else if i + 2 ^ l < n then credReduce s g q en e
  else .more (s.updEntry g q en.isn (fun x => { x with row := x.row + 1, beat := x.beat + 1 }))

/-! ### Ranges of a copy (R31, R276) -/

/-- The byte ranges of a copy, each with whether it is written: local offsets, and virtual addresses. -/
structure Ranges where
  loc : List (Nat × Nat × Bool)
  glob : List (Nat × Nat × Bool)
  deriving DecidableEq, Repr

/-- The ranges of a row copy; the index array as it was read, or stands. -/
def RowCopy.ranges (c : RowCopy) (s : State) (g : Nat) (en : QEntry) : Ranges :=
  if c.null then { loc := [], glob := [] }
  else
    let rs := List.range c.rows
    let ixs := if en.st = .begun then en.cap else match c.idx with
      | none => []
      | some o => rs.map (fun r => BitVec.ofNat 64 (ofBytes (s.mem.getN (localKey g (o + 4 * r)) 4)))
    { loc := (if c.loc.isSome then rs.map (fun r => (c.lrow r, c.len, c.lwrite)) else []) ++
             (match c.idx with
              | some o => [(o, 4 * c.rows, false)]
              | none => []),
      glob := if c.glob.isSome then rs.map (fun r => (c.grow ixs r, c.len, !c.lwrite)) else [] }

/-- The ranges of a copy command, as its registers and its descriptor or table give them. -/
def State.ranges (s : State) (g : Nat) (en : QEntry) (i : Instr) : Ranges :=
  let a := en.r0.toNat
  let b := en.r1.toNat
  let c := en.r2.toNat
  let tab := fun (o n : Nat) => s.mem.getN (localKey g o) n
  match rowCopy en i with
  | some x => x.ranges s g en
  | none =>
    match i with
    | .clde _ =>
      let x := cldeFields (tab b 32)
      let code := if en.st = .begun then en.cap.headD 0 else (s.tile g).mxe.coding
      { loc := [(b, 32, false), (a, x.nb * blockBytes x.fout, true), (c, 16 * groupsOf x.nb, true)],
        glob := (x.scaleVas code).map (fun v => (v.toNat, 16 * groupsOf x.nb, false)) ++
                (x.mantVas code).map (fun v => (v.toNat, x.nb * blockBytes x.fin, false)) }
    | .cstd _ =>
      match cstdDesc (tab b 96) with
      | none => { loc := [(b, 96, false)], glob := [] }
      | some x => { loc := (b, 96, false) :: (x.src.take x.nin).map (fun o => (o, 16 * x.nw, false)),
                    glob := [(a, x.nw * (if x.out = 0 then 16 else 10), true)] }
    | .fputOf _ => { loc := [], glob := [(a, 8, true)] }
    | .fackw e => { loc := if e.ga = 0 then [] else [(a, 32, true)], glob := [] }
    | .cbat e => { loc := [(b, 16 * cbatN e, false)] ++ (if cbatNoret e then [] else [(c, 8 * cbatN e, true)]),
                   glob := (List.range (cbatN e)).map (fun k => (a + 8 * leAt (tab (b + 16 * k) 4) 0 4, 8, true)) }
    | .cred e =>
      let n := leAt (tab b 4) 0 4
      let i := leAt (tab (b + 4) 4) 0 4
      let d := credD e c
      { loc := [(b, 16 + 8 * n, false), (a, (credLv n + 1) * (d + 64), true)],
        glob := if i = 0 then []
          else [(ofBytes (tab (b + 16 + 8 * (i - 2 ^ credLevel i)) 8) + (credLevel i + 1) * (d + 64), d + 16, true)] }
    | _ => { loc := [], glob := [] }

/-- Two lists of ranges share a byte that one of them writes. -/
def clashes (xs ys : List (Nat × Nat × Bool)) : Bool :=
  xs.any (fun x => ys.any (fun y => (x.2.2 || y.2.2) && overlap x.1 x.2.1 y.1 y.2.1))

/-- A virtual range as the ranges of its pages' physical bytes; what does not translate has none. -/
def State.physRanges (s : State) (g : Nat) (en : QEntry) (r : Nat × Nat × Bool) : List (Nat × Nat × Bool) :=
  (pieces 4096 (r.2.1 / 4096 + 2) r.1 r.2.1).filterMap (fun p =>
    match s.translate (.tile g) (s.qSpace g) p.1 (if r.2.2 then .wr else .rd) en.atM with
    | .ok x _ => some (s.gKey x.pa, p.2, r.2.2)
    | .trap _ _ => none
    | .wait _ => none)

/-- Some global range of a copy may touch an SO page. -/
def State.rangesSo (s : State) (g : Nat) (en : QEntry) (r : Ranges) : Bool :=
  r.glob.any (fun x => s.mayBeSo g en (if x.2.2 then .wr else .rd) x.1 x.2.1)

/-- A later copy of a queue must wait for an earlier one: they share a local byte (R31) or a global one (R276) that one of them
writes, or both make SO accesses, which keep the path's order (R326). -/
def State.copyClash (s : State) (g : Nat) (a b : QEntry) (i j : Instr) : Bool :=
  let x := s.ranges g a i
  let y := s.ranges g b j
  clashes x.loc y.loc || (s.rangesSo g a x && s.rangesSo g b y) ||
  ((x.glob.any (fun r => r.2.2) || y.glob.any (fun r => r.2.2)) &&
    clashes (x.glob.flatMap (s.physRanges g a)) (y.glob.flatMap (s.physRanges g b)))

/-! ### Where a copy goes on (R49) -/

/-- A row copy at a place is put back to the words of its destination: of one that has been read in part the row reads it again. -/
def RowCopy.atWord (c : RowCopy) (r off : Nat) : Nat := off - (if c.lwrite then off % c.word (c.lrow r + off) else 0)

/-- The entry of a row copy after k beats. -/
def State.rowsTo (s : State) (g : Nat) (i : Instr) (c : RowCopy) : (k : Nat) → QEntry → QEntry
  | 0, e =>
    if e.asc then c.turnTo { e with parts := e.parts.zipIdx.map (fun p => (c.atWord p.2 p.1.1, [])) }
    else { e with off := c.atWord e.row e.off }
  | k + 1, e => if c.null || decide (c.rows ≤ e.row) then e else State.rowsTo s g i c k (c.past (s.rowLen g e i c) [] e)

/-- The entry of a CSTD whose words before k have been computed, and written as far as they made whole parts (R276). -/
def State.cstdTo (s : State) (g : Nat) (x : CstdDesc) (k : Nat) (e : QEntry) : QEntry :=
  let n := k * x.width
  let w := if x.nw ≤ k then n else s.wholeParts g e e.r0.toNat n
  { e with row := w / x.width, beat := w / x.width, off := w % x.width }

/-- The entry of a CLDE at row k. -/
def QEntry.cldeTo (e : QEntry) (x : CldeDesc) (k : Nat) : QEntry :=
  let code := e.cap.headD 0
  { e with row := k, beat := k, cap := if k = 0 then e.cap.take 33 else e.cap,
           parts := (x.streams code).zipIdx.map (fun p =>
             if p.2 < codeK code then (if k = 0 then 0 else 16 * groupsOf x.nb, [])
             else (blockStart p.1.1 (blockBytes x.fin) (Nat.min (k - 1) x.nb * blockBytes x.fin), [])) }

/-- A begun copy that is to go on at step k of its sequence. -/
def State.copyTo (s : State) (g : Nat) (i : Instr) (k : Nat) (e : QEntry) : QEntry :=
  let e := { e with beat := 0, row := 0, off := 0, carry := [], made := false, far := [] }
  match rowCopy e i with
  | some c => s.rowsTo g i c k (if e.asc then c.turnTo { e with parts := e.parts.map (fun _ => (0, [])) } else e)
  | none =>
    match i with
    | .clde _ => (match e.cldeD with
      | some x => e.cldeTo x (if e.cap.length ≤ 33 then 0 else k)
      | none => e)
    | .cstd _ => (match e.cstdD with
      | some x => s.cstdTo g x k e
      | none => e)
    | .cbat x => { e with row := k * cbatPer x, beat := k }
    | _ => { e with row := k, beat := k }

/-! ### Begin and beat -/

/-- The begin of a copy command. -/
def copyBegin (s : State) (g : Nat) (q : Q) (en : QEntry) (i : Instr) : BegRes :=
  match rowCopy en i with
  | some c => rowBegin s g q en i c
  | none =>
    match i with
    | .clde _ => cldeBegin s g q en
    | .cstd _ => cstdBegin s g q en
    | .fputOf e => fputOfBegin s g en e
    | .fackw e => fackwBegin s g en e
    | .cbat e => cbatBegin s g q en e
    | .cred e => credBegin s g q en e
    | _ => .ok s en

/-- The next beat of a begun copy command; CPF fills no memory and ends at once (R285). -/
def copyBeat (s : State) (g : Nat) (q : Q) (en : QEntry) (i : Instr) : BeatRes :=
  if en.made then .fin s
  else match rowCopy en i with
  | some c => rowBeat s g q en i c
  | none =>
    match i with
    | .clde _ => cldeBeat s g q en
    | .cstd _ => cstdBeat s g q en
    | .fackw e => fackwBeat s g q en e
    | .cbat e => cbatBeat s g q en e
    | .cred e => credBeat s g q en e
    | _ => .fin s

/-! ### What a copy touches next (R43) -/

/-- Local ranges that the begin of a copy reads: an index array, a descriptor, an operand tile, a rank table. -/
def QEntry.beginBytes (s : State) (g : Nat) (en : QEntry) (i : Instr) : List (Nat × Nat) :=
  let b := en.r1.toNat
  match i with
  | .cgat _ => [(fld en.r2 63 40, 4 * fld en.r2 39 24)]
  | .csct _ => [(fld en.r2 63 40, 4 * fld en.r2 39 24)]
  | .clde _ => [(b, 32)]
  | .cstd _ => [(b, 96)]
  | .cbat e => [(b, 16 * cbatN e)]
  | .cred _ =>
    let me := ofBytes (s.mem.getN (localKey g (b + 4)) 4)
    [(b, 16), (b + 16 + 8 * (me - 2 ^ credLevel me), 8)]
  | _ => []

/-- The local ranges that the next beat of a begun copy touches, and the global ones on which it waits; a packet of a put waits at its
target. -/
def State.nextBytes (s : State) (g : Nat) (en : QEntry) (i : Instr) : List (Nat × Nat) × List (Nat × Nat × AccKind) :=
  let a := en.r0.toNat
  let b := en.r1.toNat
  match rowCopy en i with
  | some c =>
    if c.null || decide (c.rows ≤ en.row) then ([], [])
    else
      let n := s.rowLen g en i c
      let k := en.carry.length
      let put := match i with
        | .fput _ => true
        | _ => false
      (if c.loc.isSome then [(c.lrow en.row + en.off - k, k + n)] else [],
       if c.glob.isSome && !put then [(c.grow en.cap en.row + en.off, n, if c.lwrite then .rd else .wr)] else [])
  | none =>
    match i with
    | .clde _ => (match en.cldeD with
      | none => ([], [])
      | some x => match x.next (en.cap.headD 0) en with
        | some j =>
          let p := (x.streams (en.cap.headD 0)).getD j (0, 0)
          let o := (en.parts.getD j (0, [])).1
          ([], [(p.1 + o, s.loadLen g en (p.1 + o) (p.2 - o), .rd)])
        | none =>
          if en.row = 0 then ([], [])
          else if en.row ≤ x.nb then ([(a + (en.row - 1) * blockBytes x.fout, blockBytes x.fout)], [])
          else ([(en.r2.toNat, 16 * groupsOf x.nb)], []))
    | .cstd _ => (match en.cstdD with
      | none => ([], [])
      | some x =>
        let k := s.wholeParts g en (en.cstdVa x) en.carry.length
        let put := fun (k : Nat) => [(en.cstdVa x, s.storeLen g en 64 (en.cstdVa x) k false, AccKind.wr)]
        if 0 < k then ([], put k)
        else if x.nw ≤ en.row then ([], if en.carry.isEmpty then [] else put en.carry.length)
        else ((x.src.take x.nin).map (fun o => (o + 16 * en.row, 16)), []))
    | .fackw e => (if e.ga = 0 || en.row ≠ 0 then [] else [(a, 32)], [])
    | .cbat e =>
      let m := Nat.min (cbatPer e) (cbatN e - en.row)
      (if m = 0 then [] else (b + 16 * en.row, 16 * m) ::
        (if cbatAop e = 6 || !cbatNoret e then [(en.r2.toNat + 8 * en.row, 8 * m)] else []), [])
    | .cred e =>
      let n := (en.cap.getD 0 0).toNat
      let me := (en.cap.getD 1 0).toNat
      let d := credD e en.r2.toNat
      let len := en.r2.toNat * credSize (credEt e)
      if credLv n ≤ en.row || me % 2 ^ (en.row + 1) ≠ 2 ^ en.row || decide (len + 16 ≤ en.off) then ([], [])
      else
        let slot := b + 16 + 8 * (me - 2 ^ en.row)
        let va := ofBytes (s.mem.getN (localKey g slot) 8) + (en.row + 1) * (d + 64) + (if en.off < len then en.off else d + (en.off - len))
        ([(slot, 8)], [(va, s.storeLen g en (if en.off < len then 64 else 16) va
          (if en.off < len then len - en.off else len + 16 - en.off) false, .wr)])
    | _ => ([], [])

/-- Rows of a z tile that are not final hold a global access of a command. -/
def State.gRowOpen (s : State) (g : Nat) (en : QEntry) (va n : Nat) (k : AccKind) : Bool :=
  match s.translate (.tile g) (s.qSpace g) va k en.atM with
  | .ok x _ => (match s.place x.pa with
    | .tile g' off => (s.tile g').rowOpen off n
    | _ => false)
  | .trap _ _ => false
  | .wait _ => false

/-- A copy waits for a row of a z tile that is not final (R43): with its next beat, or with what it reads when it begins. -/
def State.rowWaits (s : State) (g : Nat) (en : QEntry) : Bool :=
  match cmdInstr en.run with
  | none => false
  | some i =>
    let x := if en.st = .begun ∧ en.sub ≠ 1 then s.nextBytes g en i else (QEntry.beginBytes s g en i, [])
    i.isCopy && !en.made &&
    (x.1.any (fun r => (s.tile g).rowOpen r.1 r.2) || x.2.any (fun r => s.gRowOpen g en r.1 r.2.1 r.2.2))

end Sys2Proof.Machine
end

