-- ==== Sys2Proof/Machine/Engine.lean ====
section
/-! DEFINITION. The engines (R24 to R35, R49, R171, R276 to R280, R300): the begin of the command at a queue's head, its
beats or its effects, its completion, routines; and the events that end or stop commands. -/

namespace Sys2Proof.Machine

/-- The first command of a queue that has not completed. -/
def Queue.headEnt (x : Queue) : Option QEntry := x.ents.find? (fun e => decide (e.st ≠ .done))

/-- A queue may run: its tile is bound and neither stopped nor frozen (R278, R429, R477). -/
def Tile.qOpen (t : Tile) (q : Q) : Bool := !(t.queue q).stopped && !t.frz && t.bound.isSome

/-- A queue runs: it is open and the debugger has not stopped its tile (R477). -/
def Tile.qRuns (t : Tile) (q : Q) : Bool := t.qOpen q && !t.dbg.stopped

/-- The entry name of a command (Table 15.3). -/
def entryName (g : Nat) (q : Q) (isn : Word) : Word :=
  BitVec.ofNat 64 (isn.toNat % 2 ^ 32 + q.code * 2 ^ 32 + g % 16 * 2 ^ 36 + (g / 16 + 1) * 2 ^ 40)

/-- The armed entry-name watch names a command that may not yet begin (R476). -/
def Tile.watchHit (t : Tile) (g : Nat) (q : Q) (en : QEntry) : Bool :=
  t.dbg.watch = some (entryName g q en.isn) && t.dbg.passEntry ≠ some (entryName g q en.isn)

/-- Marks the command as waiting or not (QSTAT). -/
def State.setHeld (s : State) (g : Nat) (q : Q) (en : QEntry) (b : Bool) : State :=
  s.updEntry g q en.isn (fun e => { e with held := b })

/-- Writes the micro-PC of a queue's engine (R49). -/
def State.setMpc (s : State) (g : Nat) (q : Q) (v : Word) : State := s.updQueue g q (fun x => { x with mpc := v })

/-- The command of an entry runs a routine (R300). -/
def QEntry.isCall (en : QEntry) : Bool :=
  match cmdInstr en.cmd with
  | some (.xcall _) => true
  | _ => false

/-- The micro-PC of a begun command (Table 1.8): the line:slot of the routine instruction in hand, the level of a CRED (R299), or
the step. -/
def QEntry.mpcNow (en : QEntry) : Word :=
  match cmdInstr en.cmd with
  | some (.xcall _) => mpcOf en.isn (some en.rcur) 0
  | some (.cred _) => mpcOf en.isn none en.row
  | _ => mpcOf en.isn none en.beat

/-- The micro-PC follows the command that has just moved (R49). -/
def State.noteMpc (s : State) (g : Nat) (q : Q) (isn : Word) : State :=
  match ((s.tile g).queue q).entry isn with
  | some e => if e.st = .begun then s.setMpc g q e.mpcNow else s
  | none => s

/-- What a turn gives, with f applied to a next state. -/
def Out.map (o : Out) (f : State → State) : Out :=
  match o with
  | .next s => .next (f s)
  | .fault x => .fault x
  | .refused r => .refused r

/-! ### Begin -/

/-- The begin of a command or of a routine instruction: its checks and what it does when it begins. -/
def State.cmdBegin (s : State) (g : Nat) (q : Q) (en : QEntry) (i : Instr) : BegRes :=
  let en := { en with cap := [BitVec.ofNat 64 (s.tile g).mxe.anchor.toNat], beat := 0, row := 0, off := 0, carry := [],
                      asc := false, parts := [], made := false, park := none }
  if i.isCopy then copyBegin s g q { en with cap := [] } i
  else match matBegin s g en i with
    | .error e => .fault e.1 e.2
    | .ok s => .ok s en

/-- The image of an entry: base and line count (R300); the firmware trap image for a command of a handler. -/
def State.imageOf (s : State) (g : Nat) (img : BitVec 16) : Nat × Nat :=
  if img = 0xFFFF then (s.fw.trapBase.toNat, s.fw.trapLines)
  else match s.launchOf g with
    | some l => match l.images[img.toNat]? with
      | some (b, n) => (b.toNat, n)
      | none => (0, 0)
    | none => (0, 0)

/-- The begin of XCALL: its entry line (R300). -/
def State.xcallBegin (s : State) (g : Nat) (en : QEntry) (e : Eng) : BegRes :=
  let line := e.ext.toNat
  if (s.imageOf g en.img).2 ≤ line then .fault (TrapI.mk3 4 0 (BitVec.ofNat 64 (line * 16 + 1))) s
  else .ok s { en with rpc := some (mkCode line 1), rcur := mkCode line 1, rline := none, sub := 0 }

/-! ### Effects of commands that are no copies -/

/-- What a command of XQ does, or TOKP and NOP. -/
def State.unitRun (s : State) (g : Nat) (en : QEntry) (i : Instr) : XRes :=
  match matRun s g en i with
  | some r => r
  | none => match vecRun s g i en.r0 en.r1 with
    | some r => r
    | none => .done s 0 none

/-- A value enters XRET, with event latch 2; nothing into a full XRET (R47, R309). -/
def Tile.pushXret (t : Tile) (v : Word) : Option Tile :=
  if 16 ≤ t.xret.length then none else some ({ t with xret := t.xret ++ [v] }.latch 2)

/-- A routine instruction has ended: the next one may be expanded. -/
def QEntry.unitEnd (e : QEntry) : QEntry :=
  { e with sub := 0, beat := 0, row := 0, off := 0, cap := [], carry := [], asc := false, parts := [], made := false, park := none, far := [],
           run := e.cmd,
           flags := 0 }

/-- The instruction in hand of an entry. -/
def QEntry.instr (en : QEntry) : Option Instr := cmdInstr en.run

/-- The command in hand of a queue's head is a routine's. -/
def QEntry.inRoutine (en : QEntry) : Bool := decide (en.sub ≠ 0)

/-- The command or routine instruction in hand has ended; the flags of a routine instruction go into FSTAT with it (R75). -/
def State.endUnit (s : State) (g : Nat) (q : Q) (en : QEntry) : State :=
  if !en.inRoutine then s.complete g q en.isn
  else
    let fl := match ((s.tile g).queue q).entry en.isn with
      | some k => k.flags
      | none => 0
    (s.updTile g (fun t => { t with fstat := t.fstat ||| fl })).updEntry g q en.isn QEntry.unitEnd

/-- All effects of the unit in hand are made but for a value that waits for room in XRET; it ends where it may. -/
def State.madeUnit (s : State) (g : Nat) (q : Q) (en : QEntry) (fl : BitVec 5) (park : Option Word) : State :=
  let s := s.updEntry g q en.isn (fun e => { e with made := true, park := park, held := park.isSome, flags := e.flags ||| fl })
  if park.isSome then s else s.endUnit g q en

/-- A unit whose effects are made ends: a value that waits enters XRET first. -/
def State.parked (s : State) (g : Nat) (q : Q) (en : QEntry) : State :=
  match en.park with
  | none => s.endUnit g q en
  | some v => match (s.tile g).pushXret v with
    | none => s.setHeld g q en true
    | some t => ((s.setTile g t).updEntry g q en.isn (fun e => { e with park := none, held := false })).endUnit g q en

/-- A command that waits does so on something that QSTAT reports (Table 1.7): not on a ticket of the stack MV unit. -/
def tableWait (i : Instr) : Bool :=
  match i with
  | .smvw _ => false
  | _ => true

/-- The next effects of a command that is no copy. A vector command makes all of its own in one step (R248): while a push-after
finds no room it makes none. -/
def State.applyUnit (s : State) (g : Nat) (q : Q) (en : QEntry) (i : Instr) : State :=
  if en.made then s.parked g q en
  else match s.unitRun g en i with
    | .hold => s.setHeld g q en (tableWait i)
    | .fault t s' => s'.engineFault g q en t
    | .more s' => (s'.setHeld g q en false).updTile g (fun t => { t with stall := 0 })
    | .done s' fl push =>
      if i.isVector && !en.inRoutine && !(s.tile g).canPush q en.cmd then s.setHeld g q en true
      else match push with
        | none => s'.madeUnit g q en fl none
        | some v => match (s'.tile g).pushXret v with
          | none => s.setHeld g q en true
          | some t => (s'.setTile g t).madeUnit g q en fl none

/-- A begun vector command, when XQ stops (R271): one that waits returns to its unbegun state with step 0 of its micro-PC, having
made no change; any other runs to completion. Pop-before tokens that a command has taken stay taken, and ACT stays 1 (log entry
86). One that only a full push-after FIFO holds is taken as waiting (log entry 115). -/
def State.settleX (s : State) (g : Nat) (en : QEntry) (i : Instr) : State :=
  let s' := s.applyUnit g .x en i
  let waits := match (s'.tile g).xq.entry en.isn with
    | some e => decide (e.st = .begun) && e.held && !e.made && decide (e.sub = en.sub)
    | none => false
  if !waits then s'
  else (s.updEntry g .x en.isn (fun e =>
    if en.inRoutine then { e with sub := 1, held := true } else { e with st := .waiting, held := true })).setMpc g .x
      (mpcOf en.isn (if en.isCall then some en.rcur else none) 0)

/-- A begun matrix command runs to completion before a save without z tiles (R241); a ticket that it waits for reaches DONE
(R240). A value that finds XRET full waits with the command, whose other effects are made. -/
def State.runOut (s : State) (g : Nat) (isn : Word) (i : Instr) : (fuel : Nat) → State
  | 0 => s
  | f + 1 =>
    match (s.tile g).xq.entry isn with
    | none => s
    | some en => match s.unitRun g en i with
      | .more s' => State.runOut s' g isn i f
      | .fault t s' => s'.engineFault g .x en t
      | .hold => (match i with
        | .smvw e => State.runOut (s.smvDone g e.ticket) g isn i f
        | _ => s)
      | .done s' fl push => match push with
        | none => s'.madeUnit g .x en fl none
        | some v => match (s'.tile g).pushXret v with
          | none => s'.madeUnit g .x en fl (some v)
          | some t => (s'.setTile g t).madeUnit g .x en fl none

/-- An XCALL with no routine instruction in hand. -/
def QEntry.xcallHead (en : QEntry) : Bool := en.isCall && decide (en.sub = 0)

/-- One begun command of XQ when XQ stops: vector commands settle unless XQ stands already; where z tiles are not saved, matrix
commands run out, also on a frozen tile, but for one that stands at a fault of its own. -/
def State.settleOne (s : State) (g : Nat) (all : Bool) (en : QEntry) : State :=
  match en.instr with
  | none => s
  | some i =>
    let t := s.tile g
    if en.sub = 1 || en.made || i.isCopy || en.xcallHead then s
    else if i.isVector then (if t.xq.stopped || t.frz then s else s.settleX g en i)
    else if !all || t.faults.any (fun f => decide (f.q = .x) && decide (f.isn = en.isn)) then s
    else s.runOut g en.isn i 20000

/-- Brings XQ to where it may stop: vector commands (R271), or all commands that are no copies (R241). -/
def State.settleXq (s : State) (g : Nat) (all : Bool) : State :=
  ((s.tile g).xq.ents.filter (fun e => decide (e.st = .begun))).foldl (fun s e => s.settleOne g all e) s

/-- A freeze (R278): vector commands of XQ settle first (R271). -/
def State.freezeTile (s : State) (g : Nat) (q : Q) (en : QEntry) (t : TrapI) : State :=
  if causeEnds t.cause then s.freeze g q en t else (s.settleXq g false).freeze g q en t

/-- Some packet of a put, by its path and its number, has not been acknowledged. -/
def State.putInFlight (s : State) (g path no : Nat) : Bool :=
  s.net.any (fun p => p.counts && decide (p.src = .tile g) && decide (p.path = path) && decide (p.budget = no) &&
    decide (p.typ ≠ .flag))

/-- An FPUT has sent its last packet: it is acknowledged now if it is null or every packet has been (R274, R292). -/
def State.putSent (s : State) (g : Nat) (en : QEntry) (i : Instr) : State :=
  match i with
  | .fput e =>
    if s.putInFlight g (pathOf e) (en.cap.getD 1 0).toNat then s else s.updTile g (fun t => t.acked (pathOf e))
  | _ => s

/-- The command of a queue with a number, where it is a begun copy or has one in hand, with the copy's instruction. -/
def State.copyAt (s : State) (g : Nat) (q : Q) (isn : Word) : Option (QEntry × Instr) :=
  match ((s.tile g).queue q).entry isn with
  | none => none
  | some en =>
    if en.st ≠ .begun || en.sub = 1 || !(s.tile g).qOpen q then none
    else match en.instr with
      | some i => if i.isCopy then some (en, i) else none
      | none => none

/-- An FGET with ORD = 1 (R283, F7[3]). -/
def isOrdered (cmd : Word) : Bool :=
  match cmdInstr cmd with
  | some (.fget e) => e.f7.getLsbD 3
  | _ => false

/-- An ordered FGET waits for the earlier ones of its queue (R283). -/
def Queue.ordWait (x : Queue) (en : QEntry) : Bool :=
  isOrdered en.cmd && (x.ents.takeWhile (fun e => decide (e.isn ≠ en.isn))).any (fun e => decide (e.st ≠ .done) && isOrdered e.cmd)

/-- A copy whose beats have all been made completes; its tag's count falls, its push-after fires (R280). -/
def State.copyFinish (s : State) (g : Nat) (q : Q) (isn : Word) : State :=
  match s.copyAt g q isn with
  | none => s
  | some (en, i) =>
    match copyBeat s g q en i with
    | .fin s' =>
      let s' := if en.made then s' else s'.putSent g en i
      if ((s.tile g).queue q).ordWait en then s
      else (s'.updEntry g q isn (fun e => { e with made := true })).endUnit g q en
    | .more _ => s
    | .hold _ => s
    | .freeze _ _ => s
    | .fault _ _ => s

/-- COPY_COMPLETION (R280): also of a copy of a stopped tile whose last beat ended at the stop or with an answer (R477, R478). -/
def execCopyCompletion (tile : Nat) (q : Q) (isn : Word) (s : State) : Out := .next (s.copyFinish tile q isn)

/-- What a stop of a tile lets end (R477): vector commands settle (R271), and a copy whose last step ends there completes. -/
def State.settleStop (s : State) (g : Nat) : State :=
  let s := s.settleXq g false
  [Q.l, Q.x, Q.s].foldl (fun s q =>
    (((s.tile g).queue q).ents.filter (fun e => decide (e.st = .begun))).foldl (fun s e => s.copyFinish g q e.isn) s) s

/-- A copy that cannot begin waits on something that QSTAT reports (Table 1.7): a put and FACKW wait for acknowledgements. -/
def beginWait (i : Instr) : Bool :=
  match i with
  | .fput _ => false
  | .fputOf _ => false
  | .fackw _ => false
  | _ => true

/-- A command tries to begin: it waits for the copy it follows and for its tokens, makes its checks, then takes
the tokens (R32, R277, R286, R429). -/
def State.engineBegin (s : State) (g : Nat) (q : Q) (en : QEntry) : State :=
  let t := s.tile g
  let follow := match en.fol with
    | some n => t.lq.pending n
    | none => false
  if t.watchHit g q en then
    ((s.settleStop g).updTile g (fun t =>
      { t with dbg := { t.dbg with passEntry := some (entryName g q en.isn) } })).stopTile g 3
  else if follow || (!en.popped && !t.canPop q en.cmd) then s.setHeld g q en true
  else
    match cmdInstr en.cmd with
    | none => s.engineFault g q en trapIllegal
    | some i =>
      let r := match i with
        | .xcall e => s.xcallBegin g en e
        | .tokp _ => .ok s en
        | _ => s.cmdBegin g q en i
      match r with
      | .hold => s.setHeld g q en (beginWait i)
      | .fault t s => s.engineFault g q en t
      | .freeze t s => s.freezeTile g q en t
      | .ok s en' =>
        let s := s.updTile g (fun t => { (if en.popped then t else t.pops q en.cmd) with stall := 0 })
        let s := s.updEntry g q en.isn (fun _ => { en' with st := .begun, popped := true, held := false })
        s.noteMpc g q en.isn

/-- An XCALL whose routine has been expanded and has ended. -/
def QEntry.xcallDone (en : QEntry) (i : Instr) : Bool :=
  match i with
  | .xcall _ => en.rpc.isNone && decide (en.sub = 0)
  | _ => false

/-- ENGINE_COMMAND_COMPLETION (R26, R32, R171): a begun command of a queue, no copy, makes its next effects and completes when
all are made; nothing where there is none. -/
def execEngineCommandCompletion (tile : Nat) (q : Q) (isn : Word) (s : State) : Out :=
  let t := s.tile tile
  match (t.queue q).entry isn with
  | none => .next s
  | some en =>
    if en.st ≠ .begun || !t.qRuns q then .next s
    else match en.instr with
      | none => .next s
      | some i =>
        if i.isCopy then .next s
        else match i with
          | .xcall _ => .next (if en.xcallDone i then s.complete tile q isn else s)
          | _ => if en.sub = 1 then .next s else .next (s.applyUnit tile q en i)

/-! ### Copies -/

/-- A put is still sending. -/
def State.putSending (s : State) (g path no : Nat) : Bool :=
  (s.tile g).sq.ents.any (fun en => decide (en.st = .begun) && !en.made && (match en.instr with
    | some (.fput e) => decide (pathOf e = path) && decide ((en.cap.getD 1 0).toNat = no)
    | _ => false))

/-- COPY_FREEZE (R278, R279): a beat of a begun copy meets a translation or permission fault, and all queues of the tile
stop; an uncorrectable error or a remote error ends the domain. -/
def execCopyFreeze (tile : Nat) (q : Q) (isn : Word) (s : State) : Out :=
  match s.copyAt tile q isn with
  | none => .next s
  | some (en, i) =>
    if !(s.tile tile).qRuns q && en.far.isEmpty then .next s
    else match copyBeat s tile q en i with
    | .freeze t s' => .next (s'.freezeTile tile q en t)
    | .more _ => .next s
    | .hold _ => .next s
    | .fin _ => .next s
    | .fault _ _ => .next s

/-- The begun CRED that stands at a level in a tile's SQ. -/
def State.credAt (s : State) (g : Nat) : Option (QEntry × Eng) :=
  match (s.tile g).sq.headEnt with
  | none => none
  | some en => match s.copyAt g .s en.isn with
    | some (en, .cred e) => if credReceives en && (s.tile g).qRuns .s then some (en, e) else none
    | _ => none

/-- CRED_PARTNER_ARRIVAL (R298): the begun CRED at the head of a tile's SQ finds its partner's header and reduces its level. -/
def execCredPartnerArrival (tile : Nat) (s : State) : Out :=
  match s.credAt tile with
  | none => .next s
  | some (en, e) =>
    match credReduce s tile .s en e with
    | .more s' => .next (s'.noteMpc tile .s en.isn)
    | .fault t s' => .next (s'.engineFault tile .s en t)
    | .freeze t s' => .next (s'.freezeTile tile .s en t)
    | .hold _ => .next s
    | .fin _ => .next s

/-- One beat of a begun copy. -/
def State.copyMove (s : State) (g : Nat) (q : Q) (en : QEntry) (i : Instr) : Out :=
  match copyBeat s g q en i with
  | .more s' => .next (s'.setHeld g q en false)
  | .fin _ => execCopyCompletion g q en.isn s
  | .freeze _ _ => execCopyFreeze g q en.isn s
  | .fault t s' => .next (s'.engineFault g q en t)
  | .hold s' => .next (s'.setHeld g q en (s'.rowWaits g en))

/-- A begun copy stands within a step: what it has begun in another package is not yet taken in. -/
def State.midStep (s : State) (g : Nat) (q : Q) (isn : Word) : Bool :=
  match s.copyAt g q isn with
  | some (en, _) => !en.far.isEmpty
  | none => false

/-- A begun copy of a stopped tile: it goes on to the end of the step that it stands in, with the answers that have come, and it
completes where that step is its last (R477, R478). -/
def State.stoppedMove (s : State) (g : Nat) (q : Q) (isn : Word) : Out :=
  match s.copyAt g q isn with
  | none => .next s
  | some (en, i) => if en.far.isEmpty then execCopyCompletion g q isn s else s.copyMove g q en i

/-! ### Routines (R111, R300) -/

/-- The owner number of a queue's lines (R97). -/
def ownerOf (q : Q) : Nat := q.code + 1

/-- One word of an engine-owned line; a word that has changed since the last SYNCI is old or new (R100). -/
def State.qFetch (s : State) (g : Nat) (q : Q) (en : QEntry) (va : Nat) : Res Nat :=
  let sp := if en.img = 0xFFFF then Space.firmware else s.qSpace g
  (s.translate (.tile g) sp va .ex en.atM).andThen fun x s =>
    match s.place x.pa with
    | .hbm st off => s.fetchHome (.tile g) (pathNo q) x.pa (Place.hbm st off).key
    | .tile g' off =>
      if (s.tile g').offBad off 4 then .trap (remote 5 x.pa false) s
      else s.fetchHome (.tile g) (pathNo q) x.pa (localKey g' off)
    | .far p =>
      (farAccess s en.far (fun s l => s.updEntry g q en.isn (fun e => { e with far := l }))
        { en.pkt s g q .rd x p with addr := x.pa / 64 * 64, len := 64 } false).andThen fun bs s =>
          let r := s.fetchSees (.tile g) (farWord x.pa) (BitVec.ofNat 32 (leAt bs (x.pa % 64) 4))
          .ok r.1.toNat r.2
    | .out => .trap (remote 1 x.pa false) s
    | .reserved => .trap (remote 5 x.pa false) s

/-- Buffers the line that a routine enters (R100). -/
def State.qEnterLine (s : State) (g : Nat) (en : QEntry) (base : Nat) : State :=
  match s.translate (.tile g) (if en.img = 0xFFFF then Space.firmware else s.qSpace g) base .ex en.atM with
  | .ok x _ => s.bufferLine (.tile g) x en.far
  | .trap _ _ => s
  | .wait _ => s

/-- The routine instruction at a code address: its words and its successor. The link word is checked where the routine enters the
line (R97). -/
def State.routineFetch (s : State) (g : Nat) (q : Q) (en : QEntry) (a : CodeAddr) : Res (Instr × Word × Option CodeAddr) :=
  let (base, lines) := s.imageOf g en.img
  let line := lineOf a
  let slot := slotOf a
  let inLine := decide (en.rline = some line) && decide (slot ≠ 1)
  if lines ≤ line then .trap (TrapI.mk3 4 0 (BitVec.ofNat 64 a.toNat)) s
  else
    (s.qFetch g q en (base + line * 64)).andThen fun link s =>
      if !inLine && badLink link (ownerOf q) then .trap (TrapI.mk3 3 0 0) s
      else
        let s := if inLine then s else s.qEnterLine g en (base + line * 64)
        (s.qFetch g q en (base + line * 64 + 4 * slot)).andThen fun w0 s =>
          let long := longMajor (bitsN w0 31 26)
          if long && decide (slot = 15) then .trap trapIllegal s
          else
            let fin := fun (w1 n : Nat) (s : State) =>
              match decodeRoutine q w0 w1 with
              | .error _ => Res.trap trapIllegal s
              | .ok i => Res.ok (i, BitVec.ofNat 64 (w0 + w1 * 2 ^ 32), succOf line n link) s
            if long then (s.qFetch g q en (base + line * 64 + 4 * (slot + 1))).andThen fun w1 s => fin w1 (slot + 1) s
            else fin 0 slot s

/-- The value that a register field of a routine instruction reads (R111). -/
def QEntry.rreg (en : QEntry) (r : Reg) : Word :=
  match r.toNat with
  | 1 => en.opv0
  | 2 => en.opv1
  | 3 => en.opv2
  | _ => 0

/-- Puts the routine instruction at a code address in hand, with the values its register fields read (R111), and the address after
it; the slot 0 of a line stands for the end of a chain without END. -/
def loadUnit (e : QEntry) (i : Instr) (w : Word) (a : CodeAddr) (nx : Option CodeAddr) : QEntry :=
  let o := match i.eng? with
    | some x => captureWith e.rreg i x
    | none => (0, 0, 0)
  { e with run := w, sub := 1, rpc := nx, rcur := a, rline := some (lineOf a), r0 := o.1, r1 := o.2.1, r2 := o.2.2, beat := 0,
           row := 0, off := 0, cap := [], carry := [], asc := false, parts := [], made := false, park := none, far := [], held := false }

/-- A routine faults at a line:slot, which its micro-PC holds (R111). -/
def State.routineFault (s : State) (g : Nat) (q : Q) (en : QEntry) (a : CodeAddr) (t : TrapI) : State :=
  ((s.updEntry g q en.isn (fun e => { e with rcur := a })).noteMpc g q en.isn).engineFault g q en t

/-- Expands the next routine instruction of an XCALL. A NOP is skipped and takes no step (R119); `fuel` bounds how many in one
move. -/
def State.routineNext (s : State) (g : Nat) (q : Q) (en : QEntry) : (fuel : Nat) → CodeAddr → State
  | 0, _ => s
  | f + 1, a =>
    if slotOf a = 0 then s.routineFault g q en (mkCode (lineOf a) 15) (TrapI.mk3 3 0 1)
    else match s.routineFetch g q en a with
      | .wait s => s.setHeld g q en false
      | .trap t s => s.routineFault g q en a t
      | .ok (i, w, nx) s =>
        let nx := nx.getD (mkCode (lineOf a) 0)
        match i.eng? with
        | none =>
          let en' := { en with rpc := some nx, rline := some (lineOf a), far := [], held := false }
          State.routineNext (s.updEntry g q en.isn (fun _ => en')) g q en' f nx
        | some x => s.updEntry g q en.isn (fun e => loadUnit e i w a (if x.fol then none else some nx))

/-! ### The step of an engine -/

/-- The begin of a routine instruction: it has no tokens of its own (R300). -/
def State.unitBegin (s : State) (g : Nat) (q : Q) (en : QEntry) : State :=
  match en.instr with
  | none => s.engineFault g q en trapIllegal
  | some i => match s.cmdBegin g q en i with
    | .hold => s.setHeld g q en (beginWait i)
    | .fault t s => s.engineFault g q en t
    | .freeze t s => s.freezeTile g q en t
    | .ok s en' => s.updEntry g q en.isn (fun _ => { en' with sub := 2, held := false })

/-- A command that is no product makes its effects in one step. -/
def isProduct (i : Instr) : Bool :=
  match i with
  | .mma _ => true
  | .mmas _ => true
  | .mmaq _ => true
  | .mmap _ => true
  | _ => false

/-- A begun entry that is to go on at a place of its micro-PC. -/
def State.entryTo (s : State) (g : Nat) (pcv : Nat) (e : QEntry) : QEntry :=
  if e.isCall then
    { e.unitEnd with rpc := some (BitVec.ofNat 28 pcv), rcur := BitVec.ofNat 28 pcv, rline := none }
  else match cmdInstr e.cmd with
    | none => e
    | some i => if i.isCopy then s.copyTo g i pcv e else { e with beat := pcv, made := !isProduct i && decide (pcv ≠ 0) }

/-- A command goes on where the micro-PC of its queue stands: firmware may have written it, or a restore (R49). -/
def State.seek (s : State) (g : Nat) (q : Q) (en : QEntry) : State :=
  let m := ((s.tile g).queue q).mpc
  if !bit m 31 || fld m 62 32 ≠ en.isn.toNat % 2 ^ 31 || m = en.mpcNow || (bit m 63 != en.isCall) then s
  else s.updEntry g q en.isn (s.entryTo g (fld m 27 0))

/-- One move of a begun command: the next instruction of a routine, a beat, or effects and the completion. -/
def State.begunMove (s : State) (g : Nat) (q : Q) (isn : Word) : Out :=
  match ((s.tile g).queue q).entry isn with
  | none => .next s
  | some en =>
    match en.sub, en.isCall, en.rpc with
    | 0, true, some a => .next (s.routineNext g q en 64 a)
    | 1, _, _ => .next (s.unitBegin g q en)
    | _, _, _ =>
      match s.copyAt g q isn with
      | some (en, i) => s.copyMove g q en i
      | none => execEngineCommandCompletion g q isn s

/-- A command of a queue waits for room in a token FIFO (R33): its effects are made, or it is a vector command, which makes
them with its push (R248), and waits for nothing else. -/
def State.pushWait (s : State) (g : Nat) (q : Q) (en : QEntry) : Bool :=
  let ready := match cmdInstr en.cmd with
    | none => false
    | some i => (en.made && en.park.isNone) || en.xcallDone i || (i.isVector && (match s.unitRun g en i with
      | .hold => false
      | .done _ _ p => p.isNone || decide ((s.tile g).xret.length < 16)
      | .more _ => false
      | .fault _ _ => false))
  decide (en.st = .begun) && !en.inRoutine && ready && !(s.tile g).canPush q en.cmd

/-- Another command of the queue holds its engine: it has done its work and waits for room in a token FIFO (R33). -/
def State.engineHeld (s : State) (g : Nat) (q : Q) (isn : Word) : Bool :=
  ((s.tile g).queue q).ents.any (fun e => decide (e.isn ≠ isn) && decide (e.st = .begun) && s.pushWait g q e)

/-- One move of a command of a queue that runs (R26, R31, R49, R300). -/
def State.cmdMove (s : State) (g : Nat) (q : Q) (en : QEntry) : Out :=
  if !(s.tile g).qRuns q || s.engineHeld g q en.isn then .next s
  else if en.st = .waiting then .next (s.engineBegin g q en)
  else ((s.seek g q en).begunMove g q en.isn).map (fun s => s.noteMpc g q en.isn)

/-- One step of the engine of a queue: its head command moves. -/
def State.engineMove (s : State) (g : Nat) (q : Q) : Out :=
  if 256 ≤ g then .fault .noSuchAgent
  else match ((s.tile g).queue q).headEnt with
    | none => .next s
    | some en => s.cmdMove g q en

/-- The commands of a queue that have not completed and stand before one. -/
def Queue.before (x : Queue) (isn : Word) : List QEntry :=
  (x.ents.takeWhile (fun e => decide (e.isn ≠ isn))).filter (fun e => decide (e.st ≠ .done))

/-- An earlier copy of a queue lets a later one pass (R31, R43, R276, R326): it waits for rows of z tiles, begun or at its begin, and
the two do not clash. -/
def State.letsPass (s : State) (g : Nat) (q : Q) (e en : QEntry) (j : Instr) : Bool :=
  match cmdInstr e.cmd with
  | none => false
  | some i => i.isCopy && (decide (e.st = .begun) || e.popped || (s.tile g).canPop q e.cmd) && s.rowWaits g e && !s.copyClash g e en i j

/-- The FIFOs that a command pops hold a token for it besides those of the earlier commands that have not taken theirs. -/
def Tile.tokensFor (t : Tile) (q : Q) (before : List QEntry) (en : QEntry) : Bool :=
  en.popped || (popsOf q en.cmd).all (fun f =>
    decide ((before.filter (fun e => decide (e.st = .waiting) && !e.popped && (popsOf q e.cmd).contains f)).length < t.fifo f))

/-- Nothing of a routine is still to begin (R300). -/
def QEntry.allBegun (e : QEntry) : Bool := decide (e.st = .begun) && (!e.isCall || (e.rpc.isNone && decide (e.sub ≠ 1)))

/-- A command may move although others of its queue stand before it. It has begun itself; or it is an MWM and those before it,
with all that their routines hold, have begun (R233); or it is a copy that those before it let pass. -/
def State.mayPass (s : State) (g : Nat) (q : Q) (en : QEntry) : Bool :=
  let before := ((s.tile g).queue q).before en.isn
  !before.isEmpty &&
  (decide (en.st = .begun) ||
   (match cmdInstr en.cmd with
    | none => false
    | some (.mwm _) => before.all QEntry.allBegun
    | some j => j.isCopy && before.all (fun e => s.letsPass g q e en j) && (s.tile g).tokensFor q before en))

/-- A command moves ahead of others of its queue, where it may. -/
def State.aheadMove (s : State) (g : Nat) (q : Q) (isn : Word) : Out :=
  match ((s.tile g).queue q).entry isn with
  | none => .next s
  | some en => if en.st ≠ .done && s.mayPass g q en then s.cmdMove g q en else .next s

/-! ### Traps of engine faults (R429 to R431) -/

/-- The pending engine fault that is taken first: LQ, XQ, SQ (R431). -/
def Tile.firstFault (t : Tile) : Option EngFault :=
  match t.faults.find? (fun f => decide (f.q = .l)), t.faults.find? (fun f => decide (f.q = .x)) with
  | some f, _ => some f
  | none, some f => some f
  | none, none => t.faults.head?

/-- Removes the first occurrence of a fault. -/
def dropFault (f : EngFault) : List EngFault → List EngFault
  | [] => []
  | x :: r => if x = f then r else x :: dropFault f r

/-- ENGINE_FAULT_TRAP (R429 to R431): the TCC of a tile takes its first pending engine fault, in the tile's handler; a wait
is abandoned, an idle core enters with EPC 0 and IDLE. A translation or permission fault of a freeze that arose under DUTY FLT is
posted to the host instead (R469), and during a firmware update the trap waits (R467). -/
def execEngineFaultTrap (tile : Nat) (s : State) : Out :=
  let t := s.tile tile
  match t.firstFault with
  | none => .next s
  | some f =>
    if t.tcc.intrap || t.bound.isNone || t.dbg.stopped || decide (s.fw.st ≠ 0) then .next s
    else if f.host then
      .next (if s.mbox.reqs.any (fun r => decide (r.fn = 2) && decide (r.about = tile)) then s
        else s.postRequest 2 tile (leBytes 8 (entryName tile f.q f.isn).toNat ++ leBytes 8 f.info.toNat ++
          leBytes 1 f.cause ++ leBytes 1 f.sub))
    else
      let idle := t.cont.isNone
      let s := s.updTile tile (fun t => { t with
        faults := dropFault f t.faults, barWait := none, ballast := none,
        trapRegion := f.region, tcc := { t.tcc with far := [], ffar := [] } })
      let s := { s with who := .tile tile }
      let epc : CodeAddr := if idle then 0 else match t.tcc.pfx with
        | some p => p.start
        | none => t.tcc.pc
      .next (s.enterTrap { (TrapI.mk3 f.cause f.sub f.info) with epc := none } epc f.word (f.q.code + 1) f.frz
        (f.isn.toNat % 2 ^ 32) idle)

/-! ### Deadlock and time -/

/-- The head command of a queue waits only on token FIFOs (R35). -/
def State.tokenWait (s : State) (g : Nat) (q : Q) : Bool :=
  let t := s.tile g
  match (t.queue q).headEnt with
  | none => false
  | some en =>
    let follow := match en.fol with
      | some n => t.lq.pending n
      | none => false
    (decide (en.st = .waiting) && !en.popped && !follow && !t.canPop q en.cmd) || s.pushWait g q en

/-- TOKEN_DEADLOCK (R35): all three queues hold a command and every head waits only on token FIFOs. -/
def execTokenDeadlock (tile : Nat) (s : State) : Out :=
  let t := s.tile tile
  match t.xq.headEnt with
  | none => .next s
  | some en =>
    if [Q.l, Q.x, Q.s].all (fun q => s.tokenWait tile q && t.qRuns q) then
      .next (s.engineFault tile .x en (TrapI.mk3 13 0 0))
    else .next s

/-- SMV_UNIT_DONE (R238, R239). -/
def execSmvUnitDone (tile : Nat) (k : BitVec 2) (s : State) : Out := .next (s.smvDone tile k)

/-- TICK (R309): on a bed cycle whose number is a multiple of 2,000 the TICK latch of every control core is set. -/
def execTick (s : State) : Out :=
  if s.bedt.toNat % 2000 ≠ 0 then .next s
  else
    let lat := fun (c : Tcc) => { c with latches := setBit c.latches 5 true }
    .next { s with tiles := s.tiles.map (fun (g, t) => (g, { t with tcc := lat t.tcc })),
                   cores := s.cores.map lat }

/-- The instruction with which a control core waits. -/
def Tcc.waitsWith (c : Tcc) : Option Instr := if c.waiting then cmdInstr c.iw else none

/-- The tag whose counter a TAG cycle advances (R484). -/
def lowestTag (m : Word) : Nat := Nat.min (ctzN 64 m.toNat) 63

/-- The counter of the TOKEN cycles on a FIFO (Table 15.7). -/
def fifoCounter (f : Fifo) : Nat := match f with
  | .lx => 24
  | .xl => 25
  | .xs => 26
  | .sx => 27

/-- The counters that a cycle of the control core advances (R484, Table 15.7). -/
def Tile.tccClass (t : Tile) : List Nat :=
  if t.tcc.intrap then [40]
  else if t.cont.isNone then [39]
  else match t.tcc.waitsWith with
    | none => if t.tcc.ffar.any (fun r => r.ans.isNone && r.err.isNone) then [38] else [32]
    | some i => match i.eng? with
      | some _ => [33]
      | none => match i with
        | .tagwa _ a => [34, 64 + lowestTag (t.tcc.g a)]
        | .tagwl _ a => [34, 64 + lowestTag (t.tcc.g a &&& ~~~ t.tags)]
        | .tokw _ _ f _ => [35, fifoCounter f]
        | .bara _ _ => [36]
        | .barw _ _ => [36]
        | .baraw _ _ _ => [36]
        | .fence => [37]
        | .fencep _ _ _ => [37]
        | .qdrain _ => [37]
        | .qseq _ _ _ => [37]
        | .waitb _ _ => [37]
        | .xretw _ => [37]
        | .wfe _ _ => [37]
        | _ => [38]

/-- What a held command of XQ that is no copy waits for: XRET, a row of a z tile, or another answer. -/
def xqHold (i : Instr) : Nat :=
  match i with
  | .mwm _ => 5
  | .vld _ => 5
  | .vst _ => 5
  | .vgat _ => 5
  | .vsct _ => 5
  | .mcap _ => 6
  | .mstat _ => 6
  | .mchk _ => 6
  | .mdrain _ => 6
  | .mdrainx _ => 6
  | _ => if i.isVector then 6 else 1

/-- The class of a queue's head: 0 EMPTY, 1 BUSY, 2 TOKEN, 5 WMARK, 6 XRET, 7 FROZEN. No earlier command stands before a head, so it
never waits on a range (R31) or a slot (R209). -/
def State.headClass (s : State) (g : Nat) (q : Q) : Nat :=
  let t := s.tile g
  if t.frz then 7
  else match (t.queue q).headEnt with
    | none => 0
    | some en =>
      if en.st = .waiting && !en.popped && !t.canPop q en.cmd then 2
      else if s.rowWaits g en then 5
      else if !en.held then 1
      else match en.instr with
        | none => 1
        | some i => if q = .x && !i.isCopy && !s.pushWait g q en then xqHold i else 1

/-- The FIFOs whose TOKEN counters a head in class TOKEN advances: those it pops that are empty. -/
def Tile.tokenCounters (t : Tile) (q : Q) : List Nat :=
  match (t.queue q).headEnt with
  | none => []
  | some en => ((popsOf q en.cmd).filter (fun f => decide (t.fifo f = 0))).map fifoCounter

/-- The tile stalls on capacity in this cycle (R388): its TCC waits to issue into a full queue, a copy with its follow-on into two of
them (R286), or XQ's head waits on XRET while it waits to issue. -/
def State.stalls (s : State) (g : Nat) : Bool :=
  let t := s.tile g
  match t.tcc.waitsWith with
  | none => false
  | some i => match i.queue? with
    | none => false
    | some q =>
      let pair := match i.eng? with
        | some e => e.fol && t.xq.isFull
        | none => false
      !t.dbg.stopped && ((t.queue q).isFull || pair || decide (s.headClass g .x = 6))

/-- Hard pre-emption holds a tile (R439, R440). -/
def State.hardHeld (s : State) (g : Nat) : Bool :=
  match s.launchOf g with
  | some l => decide (l.preempt = 2)
  | none => false

/-- One core cycle of one tile (R39, R388, R460, R484). -/
def State.tileCycle (s : State) (g : Nat) : State :=
  let t := s.tile g
  if t.dbg.stopped then s
  else
    let bumps := [Q.l, Q.x, Q.s].flatMap (fun q =>
      let c := s.headClass g q
      (8 * q.code + c) :: (if c = 2 then t.tokenCounters q else [])) ++ t.tccClass
    let b := t.ballast.isSome && t.xq.ents.all (fun e => decide (e.st ≠ .begun))
    let stall := if s.stalls g then t.stall + 1 else 0
    let held := s.hardHeld g
    let s := s.updTile g (fun t =>
      let t := bumps.foldl Tile.bump t
      { t with scc := if t.frz || held then t.scc else t.scc + 1, stall := stall })
    if b then { s with gov := { s.gov with ballast := s.gov.ballast + 1 } } else s

/-- CORE_CYCLE (R39, R484): one cycle of the core clock of a lathe die (1 to 16). -/
def execCoreCycle (die : Nat) (s : State) : Out :=
  if die = 0 ∨ 16 < die then .next s
  else .next ((List.range 16).foldl (fun s i => s.tileCycle (16 * (die - 1) + i)) s)

end Sys2Proof.Machine
end

