-- ==== Sys2Proof/Machine/Branch.lean ====
section
/-! DEFINITION. Branches, calls, returns and hardware loops (spec/04_control_instructions.md R140 to R149), the
return-address store (R19, R20), and the prefixes (R112 to R115). -/

namespace Sys2Proof.Machine

/-- EINFO of a code-address fault that has no rejected target, because the instruction has no successor (log entry 17,
site 4). -/
def noSucc (s : State) : TrapI := trapCode (Config.unstated 4 [BitVec.ofNat 64 s.cur.pc.toNat])

/-- A conditional branch: the target is formed and checked whether or not it is taken (R140). -/
def State.branch (s : State) (taken : Bool) (ld : BitVec 19) (slot : BitVec 4) : Res Flow :=
  match s.branchTarget ld slot with
  | .error t => .trap t s
  | .ok a => .ok (if taken then .goto a else .seq) s

/-- BP (R140). -/
def execBp (ps : PReg) (ld : BitVec 19) (slot : BitVec 4) (s : State) : Out :=
  s.run false false (fun s => s.branch (s.pd ps) ld slot)

/-- BR (R140). -/
def execBr (ld : BitVec 19) (slot : BitVec 4) (s : State) : Out := s.run false false (fun s => s.branch true ld slot)

/-- BNP (R140). -/
def execBnp (ps : PReg) (ld : BitVec 19) (slot : BitVec 4) (s : State) : Out :=
  s.run false false (fun s => s.branch (!s.pd ps) ld slot)

/-- A push into the return-address store; with 16 entries the oldest is spilled to memory first (R20, R144). -/
def State.pushRa (s : State) (a : CodeAddr) : Res Unit :=
  let c := s.cur
  match c.ras.getLast? with
  | none => .ok () (s.setCur { c with ras := [a] })
  | some old =>
    if c.ras.length < 16 then .ok () (s.setCur { c with ras := a :: c.ras })
    else
      let sp := c.rsp - 8
      (s.cCheck sp 8 true true).andThen fun ps s =>
        (s.cWrites (leBytes 8 old.toNat) ps).andThen fun _ s =>
          .ok () (s.updCur (fun c => { c with ras := a :: c.ras.dropLast, rsp := sp, rsc := c.rsc + 1 }))

/-- The steps of a call after its target has been checked (R142 steps 2 to 4). -/
def State.callTo (s : State) (a : CodeAddr) : Res Flow :=
  match s.cur.succ with
  | none => .trap (noSucc s) s
  | some r => (s.pushRa r).andThen fun _ s => .ok (.goto a) s

/-- CALL (R140, R142). -/
def execCall (ld : BitVec 19) (slot : BitVec 4) (s : State) : Out :=
  s.run false false (fun s =>
    match s.branchTarget ld slot with
    | .error t => .trap t s
    | .ok a => s.callTo a)

/-- JI (R141). -/
def execJi (a : Reg) (s : State) : Out :=
  s.run false false (fun s =>
    match s.checkCode (s.g a) with
    | none => .trap (trapCode (s.g a)) s
    | some t => .ok (.goto t) s)

/-- CALLI (R141, R142). -/
def execCalli (a : Reg) (s : State) : Out :=
  s.run false false (fun s =>
    match s.checkCode (s.g a) with
    | none => .trap (trapCode (s.g a)) s
    | some t => s.callTo t)

/-- The address that a return pops, with the state in which it has been popped (R20, R143 step 1). -/
def State.popRa (s : State) : Res Word :=
  let c := s.cur
  match c.ras with
  | a :: r => .ok (BitVec.ofNat 64 a.toNat) (s.setCur { c with ras := r })
  | [] =>
    if c.rsc = 0 then .trap (TrapI.mk3 10 0 0) s
    else
      (s.cCheck c.rsp 8 false true).andThen fun ps s =>
        (s.cReads false ps).andThen fun bs s =>
          .ok (BitVec.ofNat 64 (ofBytes bs)) (s.updCur (fun c => { c with rsp := c.rsp + 8, rsc := c.rsc - 1 }))

/-- RET (R141, R143): a popped address that fails R99 leaves the store, RSP and RSC as they were. -/
def execRet (s : State) : Out :=
  s.run false false (fun s =>
    let c := s.cur
    s.popRa.andThen fun v s' =>
      match s'.checkCode v with
      | some a => .ok (.goto a) s'
      | none => .trap (trapCode v) (s'.updCur (fun c' => { c' with ras := c.ras, rsp := c.rsp, rsc := c.rsc })))

/-- The length of the instruction whose first word is at a code address, as its successor (R146). -/
def State.succAt (s : State) (le : CodeAddr) : Res (Option CodeAddr) :=
  let line := lineOf le
  let slot := slotOf le
  let base := s.image.1 + line * 64
  (s.fetchWord base).andThen fun link s =>
    if badLink link (if s.onCore then 4 else 0) then .trap (TrapI.mk3 3 0 0) s
    else
      (s.fetchWord (base + 4 * slot)).andThen fun w s =>
        .ok (succOf line (if longMajor (bitsN w 31 26) && decide (slot < 15) then slot + 1 else slot) link) s

/-- LOOP and LOOPI (R146). Where a count of 0 skips to a line beyond the image, the loop set is written, then the code-address fault is
raised with EPC at slot 15 of the line of LE, as for falling through there (R98; log entry 93). -/
def State.loopStart (s : State) (set : BitVec 1) (count : BitVec 32) (le : CodeAddr) : Res Flow :=
  let n := set.toNat
  match s.cur.succ with
  | none => .trap (noSucc s) s
  | some body =>
    if le < body then .trap (TrapI.mk3 11 0 (BitVec.ofNat 64 n)) s
    else
      let fill := fun (s : State) =>
        s.updCur (fun c => c.setLoop n { lc := count, ls := body, le := le, ae := le })
      if count ≠ 0 then .ok .seq (fill s)
      else
        (s.succAt le).andThen fun k s =>
          match k with
          | none => .trap (noSucc s) s
          | some skip =>
            let s := fill s
            if s.image.2 ≤ lineOf skip then
              .trap { trapCode (BitVec.ofNat 64 skip.toNat) with epc := some (mkCode (lineOf le) 15) } s
            else .ok .seq (s.updCur (fun c => { c with succ := some skip }))

/-- LOOP (R146). -/
def execLoop (set : BitVec 1) (a : Reg) (le : CodeAddr) (s : State) : Out :=
  s.run false false (fun s => s.loopStart set ((s.g a).truncate 32) le)

/-- LOOPI (R146). -/
def execLoopi (set : BitVec 1) (cnt : BitVec 20) (le : CodeAddr) (s : State) : Out :=
  s.run false false (fun s => s.loopStart set (cnt.zeroExtend 32) le)

/-! ### Prefixes -/

/-- The first prefix of a unit, noting its address and words (R114, R115). -/
def State.pfxOr (s : State) : Pfx :=
  let c := s.cur
  match c.pfx with
  | some p => p
  | none => { imx := none, scp := none, start := c.pc, w0 := c.iw.truncate 32, w1 := 0 }

/-- Reads on after a prefix: the unit has not retired, so no boundary occurs; a prefix that is the last word of a chain,
or whose chain leaves the image, traps (R98, R114). -/
def State.prefixed (s : State) (p : Pfx) : Out :=
  let s := s.updCur (fun c => { c with pfx := some p, waiting := false })
  let c := s.cur
  match c.succ with
  | none => .next (s.raise trapIllegal)
  | some a =>
    if s.image.2 ≤ lineOf a then .next (s.raise (trapCode (BitVec.ofNat 64 a.toNat)))
    else .next (s.setCur { c with pc := a, lined := c.sameLine a })

/-- SCP (R113, R114). -/
def execScp (scope : Scope) (s : State) : Out :=
  let p := s.pfxOr
  if p.scp.isSome then .next (s.raise trapIllegal) else s.prefixed { p with scp := some scope }

/-- IMX (R112, R114). -/
def execImx (x : BitVec 48) (s : State) : Out :=
  let p := s.pfxOr
  if p.imx.isSome then .next (s.raise trapIllegal) else s.prefixed { p with imx := some x }

end Sys2Proof.Machine
end

