-- ==== Sys2Proof/Machine/HsMem.lean ====
section
/-! DEFINITION. The Headstock's reads and writes of memory (spec/09_memory_model.md R316; R363, R396): by pieces, through a
root table, a launch's tables, or at physical addresses. -/

namespace Sys2Proof.Machine

/-- A packet of the Headstock. -/
def State.hsPkt (s : State) (typ : PktT) (pa dpkg : Nat) : Pkt := { Pkt.make typ 0 .headstock pa s.bedt with dpkg := dpkg }

/-- An error of a read or write of the Headstock. -/
def hsBad : TrapI := TrapI.mk3 0 0 0

/-- Reads a piece at a physical address. -/
def State.hsReadPa (s : State) (pa n : Nat) : Res (List Byte) :=
  let read := fun (key : Nat) =>
    let h := s.readHome Agent.headstock.code key n
    match h.bad with
    | some _ => Res.trap hsBad h.s
    | none => Res.ok h.bytes h.s
  match s.place pa with
  | .hbm st off => read (Place.hbm st off).key
  | .tile g off => if (s.tile g).offBad off n then .trap hsBad s else if (s.tile g).rowOpen off n then .wait s else read (localKey g off)
  | .far p =>
    farAccess s s.hfar (fun s l => { s with hfar := l }) { s.hsPkt .rd pa p with len := n } false
  | .out => .trap hsBad s
  | .reserved => .trap hsBad s

/-- Writes a piece at a physical address; a write to another package is sent off, and is performed once it is answered. -/
def State.hsWritePa (s : State) (pa : Nat) (bs : List Byte) : Res Unit :=
  match s.place pa with
  | .hbm st off => (match s.writeHome (Place.hbm st off).key bs with
    | .error _ => .trap hsBad s
    | .ok s' => .ok () (s'.blockWrite false (Place.hbm st off).key bs.length))
  | .tile g off => (match s.tileWrite Agent.headstock.code g off bs false with
    | .ok s' => .ok () s'
    | .err _ s' => .trap hsBad s'
    | .wait => .wait s)
  | .far p => .ok () (s.request { s.hsPkt .wr pa p with len := bs.length, data := bs })
  | .out => .trap hsBad s
  | .reserved => .trap hsBad s

/-- Writes bytes at a physical address; a write that fails is lost. -/
def State.hsPut (s : State) (pa : Nat) (bs : List Byte) : State :=
  match s.hsWritePa pa bs with
  | .ok _ s => s
  | .trap _ s => s
  | .wait s => s

/-- Reads pieces, each at the address that `tr` gives. -/
def State.hsReads (s : State) (tr : State → Nat → Res Nat) : List (Nat × Nat) → Res (List Byte)
  | [] => .ok [] s
  | (va, n) :: r =>
    (tr s va).andThen fun pa s => (s.hsReadPa pa n).andThen fun b s =>
      (State.hsReads s tr r).andThen fun bs s => .ok (b ++ bs) s

/-- Writes pieces. -/
def State.hsWrites (s : State) (tr : State → Nat → Res Nat) (bs : List Byte) : List (Nat × Nat) → Res Unit
  | [] => .ok () s
  | (va, n) :: r =>
    (tr s va).andThen fun pa s => (s.hsWritePa pa (bs.take n)).andThen fun _ s => State.hsWrites s tr (bs.drop n) r

/-- Translation through a root table before a launch is bound (R363): a walk; pages of M only serve firmware queues. -/
def viaRoot (root : Nat) (atM : Bool) (s : State) (va : Nat) : Res Nat :=
  if 2 ^ 57 ≤ va ∨ bitsN va 56 48 = 0x1FF then .trap hsBad s
  else match s.walk Agent.headstock.code 4 root va with
    | .trap _ s => .trap hsBad s
    | .wait s => .wait s
    | .ok e s => match permFault e.ent .rd atM va with
      | some _ => .trap hsBad s
      | none => .ok (e.xlat va).pa s

/-- Translation through a launch's tables and binding. -/
def viaLaunch (k : Nat) (w : Bool) (s : State) (va : Nat) : Res Nat :=
  let atM := match AMap.find? s.launches k with
    | some l => l.fw
    | none => false
  (s.translate .headstock (.launch k) va (if w then .wr else .rd) atM).andThen fun x s => .ok x.pa s

/-- Physical addresses as they stand. -/
def viaPa (s : State) (pa : Nat) : Res Nat := .ok pa s

/-- Reads n bytes. -/
def State.hsRead (s : State) (tr : State → Nat → Res Nat) (va n : Nat) : Res (List Byte) :=
  s.hsReads tr (pieces 256 (n / 256 + 2) va n)

/-- Writes bytes. -/
def State.hsWrite (s : State) (tr : State → Nat → Res Nat) (va : Nat) (bs : List Byte) : Res Unit :=
  s.hsWrites tr bs (pieces 256 (bs.length / 256 + 2) va bs.length)

/-- What a Headstock operation leaves: an error leaves the state it met, a wait the requests it sent. -/
def Res.after {α : Type} (r : Res α) (f : α → State → State) (bad : State → State) : State :=
  match r with
  | .ok a s => f a { s with hfar := [] }
  | .trap _ s => bad { s with hfar := [] }
  | .wait s => s

end Sys2Proof.Machine
end

