-- ==== Sys2Proof/Machine/Governor.lean ====
section
/-! DEFINITION. The load-step governor (spec/14_power_clocks_boot.md R458 to R461). -/

namespace Sys2Proof.Machine

/-- GS (R459). -/
def Gov.gs (g : Gov) : Nat := Nat.max 1 (g.rate / (4 * Nat.max 1 g.itile))

/-- GOVCFG as a word (Table 14.1). -/
def Gov.word (g : Gov) : Word := BitVec.ofNat 64 (g.rate + g.itile * 2 ^ 15 + b2n g.balen * 2 ^ 19)

/-- The region a tile runs is pinned (R461). -/
def State.pinned (s : State) (g : Nat) : Bool :=
  match (s.tile g).cont, s.launchOf g with
  | some c, some l => match l.regions[c.region]? with
    | some r => r.pin
    | none => false
  | _, _ => false

/-- The root of the fault domain of the continuation that a tile runs. -/
def State.domainOf (s : State) (g : Nat) : Option (Nat × Nat) :=
  match (s.tile g).cont, s.launchOf g with
  | some c, some l => some (c.launch, l.domOf c.region)
  | _, _ => none

/-- The record of a ramp violation (R461, Table 13.4). -/
def rampRecord : ErrRec := { ErrRec.ofType 1 with cause := 37 }

/-- Ends a domain by ramp violation, unless it has ended already. -/
def State.endRamp (s : State) (d : Nat × Nat) : State :=
  match AMap.find? s.launches d.1 with
  | none => s
  | some l => match l.regions[d.2]? with
    | some r => if r.ended then s else s.endDomain d.1 d.2 rampRecord
    | none => s

/-- Start a stands before start b in the sequence of requests, or with it: by cycle, launch in the order of READ, and LTN (R459). -/
def Start.before (a b : Start) : Bool :=
  if a.req ≠ b.req then decide (a.req < b.req)
  else if a.readNo ≠ b.readNo then decide (a.readNo < b.readNo)
  else if a.launch ≠ b.launch then decide (a.launch < b.launch)
  else decide (a.ltn ≤ b.ltn)

/-- Requests the starts of one event, a launch entry or a release, for tiles in LTN order: unpinned ones one by one, the pinned ones
as one group at the place of the first (R459, R461). A release whose group is larger than GS is staggered, and with its last start
the domains of the group end. -/
def State.requestStarts (s : State) (entry : Bool) (tiles : List Nat) : State :=
  let pins := tiles.filter s.pinned
  let big := decide (s.gov.gs < pins.length)
  let n := s.gov.groups
  let ltnOf := fun (g : Nat) => (s.tile g).ltn
  let readNo := fun (g : Nat) => match s.launchOf g with
    | some l => l.readNo
    | none => 0
  let mk := fun (g ltn : Nat) => ({ tile := g, req := s.bedt, readNo := readNo g, launch := (s.tile g).bound.getD 0, ltn := ltn,
                                    entry := entry, group := none,
                                    ends := [] } : Start)
  let pend := tiles.map (fun g =>
    if !pins.contains g then mk g (ltnOf g)
    else if !big then { mk g (ltnOf (pins.headD g)) with group := some n }
    else if pins.getLast? = some g then { mk g (ltnOf g) with ends := pins.filterMap s.domainOf }
    else mk g (ltnOf g))
  let s := tiles.foldl (fun s g => s.updTile g (fun t => { t with gated := true })) s
  { s with gov := { s.gov with pending := sortBy Start.before (s.gov.pending ++ pend), groups := n + 1 } }

/-- A pending group that a new RATE leaves larger than GS (R458, R461): the domains of a launch entry end; the starts of a release
are staggered, and its domains end with the last. -/
def State.regroup (s : State) (n : Nat) : State :=
  let mine := fun (p : Start) => decide (p.group = some n)
  let grp := s.gov.pending.filter mine
  if grp.length ≤ s.gov.gs then s
  else
    let doms := grp.filterMap (fun p => s.domainOf p.tile)
    if grp.any (fun p => p.entry) then
      doms.foldl State.endRamp { s with gov := { s.gov with pending := s.gov.pending.filter (fun p => !mine p) } }
    else
      let last := (grp.map (fun p => p.tile)).getLast?
      { s with gov := { s.gov with pending := s.gov.pending.map (fun p =>
          if mine p then { p with group := none, ends := if some p.tile = last then doms else [] } else p) } }

/-- The starts granted from the head of the pending list, with `room` left in the slot: a group is granted whole, and no
start goes ahead of an earlier one (R459, R461). -/
def grants : (fuel room : Nat) → List Start → List Start × List Start
  | 0, _, ps => ([], ps)
  | _, _, [] => ([], [])
  | f + 1, room, p :: ps =>
    match p.group with
    | none =>
      if room = 0 then ([], p :: ps)
      else
        let (a, b) := grants f (room - 1) ps
        (p :: a, b)
    | some n =>
      let grp := (p :: ps).takeWhile (fun x => decide (x.group = some n))
      let rest := (p :: ps).dropWhile (fun x => decide (x.group = some n))
      if room < grp.length then ([], p :: ps)
      else
        let (a, b) := grants f (room - grp.length) rest
        (grp ++ a, b)

/-- Tiles in ballast, the longest-running first, that began before now (R460). -/
def State.ballastTiles (s : State) : List Nat :=
  let c := s.tiles.filterMap (fun (g, t) => match t.ballast with
    | some b => if b < s.bedt then some (b.toNat, g) else none
    | none => none)
  (sortBy (fun (a b : Nat × Nat) => decide (a.1 ≤ b.1)) c).map (fun p => p.2)

/-- Writes that the Headstock has sent to other packages are not all performed. -/
def State.hsPosted (s : State) : Bool := s.net.any (fun p => decide (p.src = .headstock) && p.typ.effects)

/-- The answer to a debug request in D2H: FN 8, the code, the tag (R474). -/
def State.dbgSend (s : State) (tag : BitVec 32) (code : Nat) : State :=
  s.postD2h (leBytes 1 8 ++ leBytes 1 code ++ leBytes 2 0 ++ leBytes 4 tag.toNat)

/-- The debug operations that have taken effect on every target tile are answered (R474), once the trace records and the dumps written
before are performed (R480, R482). -/
def State.dbgSettle (s : State) : State :=
  if s.hsPosted then s
  else
    let due := fun (x : BitVec 32 × List Nat × Nat) => x.2.1.all (fun g =>
      let d := (s.tile g).dbg
      d.stopAt.isNone && !d.restart)
    let ready := s.trace.stops.filter due
    let s := { s with trace := { s.trace with stops := s.trace.stops.filter (fun x => !due x) } }
    ready.foldl (fun s x => s.dbgSend x.1 x.2.2) s

/-- Answers a debug request: at once, or once what the Headstock has written in other packages is performed. -/
def State.dbgAnswer (s : State) (tag : BitVec 32) (code : Nat) : State :=
  if s.hsPosted then { s with trace := { s.trace with stops := s.trace.stops ++ [(tag, [], code)] } } else s.dbgSend tag code

/-- A start is granted: the tile runs; one that the debugger restarts leaves its stop (R479). -/
def State.grant (s : State) (g : Nat) : State :=
  let d := (s.tile g).dbg
  let s := s.updTile g (fun t => { t with gated := false })
  if d.restart then
    (s.updTile g (fun t => { t with dbg := { t.dbg with stopped := false, restart := false } })).traceRec g 3 0
  else s

/-- RAMP_SLOT (R458 to R461): at a slot boundary a pending write of GOVCFG takes effect, ballast ends on at most GS tiles,
and starts are granted; starts requested in the boundary's own cycle may still join its slot. Away from a boundary nothing happens. -/
def execRampSlot (s : State) : Out :=
  if s.bedt.toNat % 500 ≠ 0 then .next s
  else
    let j := s.bedt.toNat / 500
    let fresh := decide (s.gov.slot ≠ j)
    let gv := s.gov
    let gv := match gv.next with
      | some (r, b) => if fresh then { gv with rate := r, balen := b, next := none } else gv
      | none => gv
    let gv := if fresh then { gv with slot := j, used := 0 } else gv
    let s := { s with gov := gv }
    let s := if fresh then
        (s.ballastTiles.take gv.gs).foldl (fun s g => s.updTile g (fun t => { t with ballast := none, tapered := true }))
          ((gv.pending.filterMap (fun p => p.group)).eraseDups.foldl State.regroup s)
      else s
    let gv := s.gov
    let (a, b) := grants (gv.pending.length + 1) (gv.gs - gv.used) gv.pending
    let s := { s with gov := { gv with pending := b, used := gv.used + a.length } }
    let s := (a.foldl (fun s p => s.grant p.tile) s).dbgSettle
    .next ((a.flatMap (fun p => p.ends)).foldl State.endRamp s)

/-- A write of GOVCFG (R458). -/
def State.writeGovcfg (s : State) (v : Word) : State :=
  let r := fld v 10 0
  if r < 50 ∨ 2000 < r then s
  else if s.gov.pending.isEmpty then { s with gov := { s.gov with rate := r, balen := bit v 19 } }
  else { s with gov := { s.gov with next := some (r, bit v 19) } }

/-- GOVCFG_WRITE (R458). -/
def execGovcfgWrite (v : Word) (s : State) : Out := .next (s.writeGovcfg v)

end Sys2Proof.Machine
end

