-- ==== Sys2Proof/Machine/Special.lean ====
section
/-! DEFINITION. The special registers (Table 1.1, R21 to R56, R152 to R154, R453 to R454, R462's registers of a management
core): MFS, and MTS with a row of its own for every register whose write does something. -/

namespace Sys2Proof.Machine

/-- How a level may access a special register: not at all (reserved), M only, read-only at both levels, writable at M,
writable at both. -/
inductive SrAcc where
  | reserved | mOnly | ro | rwM | rw
  deriving DecidableEq, Repr

/-- The access column of Table 1.1 for a tile. -/
def srAcc (n : Nat) : SrAcc :=
  if n ≤ 0x004 ∨ n = 0x006 ∨ n = 0x01A ∨ n = 0x02E ∨ n = 0x032 ∨ n = 0x03A then .ro
  else if n = 0x005 ∨ n = 0x007 ∨ n = 0x008 ∨ n = 0x019 ∨ n = 0x01B then .rwM
  else if (0x010 ≤ n ∧ n ≤ 0x015) ∨ n = 0x018 ∨ n = 0x026 ∨ (0x037 ≤ n ∧ n ≤ 0x039) then .rw
  else if (0x020 ≤ n ∧ n ≤ 0x025) ∨ (0x028 ≤ n ∧ n ≤ 0x02D) ∨ n = 0x030 ∨ n = 0x031 ∨ n = 0x034 ∨ n = 0x035 ∨
      n = 0x036 ∨ n = 0x03B ∨ (0x040 ≤ n ∧ n ≤ 0x047) ∨ (0x050 ≤ n ∧ n ≤ 0x05F) ∨ (0x060 ≤ n ∧ n ≤ 0x062) ∨
      (0x100 ≤ n ∧ n ≤ 0x13F) then .rwM
  else if (0x070 ≤ n ∧ n ≤ 0x075) ∨ n = 0x080 ∨ n = 0x081 then .mOnly
  else .reserved

/-- The same for a management core (R462): every number it does not hold is reserved. -/
def srAccCore (n : Nat) : SrAcc :=
  if n = 0x000 ∨ n = 0x00A ∨ n = 0x01A then .ro
  else if (0x010 ≤ n ∧ n ≤ 0x015) ∨ n = 0x018 then .rw
  else if n = 0x019 ∨ n = 0x01B then .rwM
  else if (0x070 ≤ n ∧ n ≤ 0x075) ∨ n = 0x080 ∨ n = 0x081 then .mOnly
  else .reserved

/-- The access column for the executing core. -/
def State.srAcc (s : State) (n : Nat) : SrAcc := if s.onCore then srAccCore n else Sys2Proof.Machine.srAcc n

/-- The trap of an MFS, if it is not allowed (R15, R21). -/
def State.mfsTrap (s : State) (n : Nat) : Option TrapI :=
  match s.srAcc n with
  | .reserved => some trapIllegal
  | .mOnly => if s.cur.atM then none else some trapPrivilege
  | .ro => none
  | .rwM => none
  | .rw => none

/-- The trap of an MTS, if it is not allowed. -/
def State.mtsTrap (s : State) (n : Nat) : Option TrapI :=
  match s.srAcc n with
  | .reserved => some trapIllegal
  | .mOnly => if s.cur.atM then none else some trapPrivilege
  | .rwM => if s.cur.atM then none else some trapPrivilege
  | .ro => none
  | .rw => none

/-! ### Reading -/

/-- TOKC (Table 1.5). -/
def Tile.tokc (t : Tile) : Word := BitVec.ofNat 64 (t.lx + t.xl * 2 ^ 8 + t.xs * 2 ^ 16 + t.sx * 2 ^ 24)

/-- The head command of a queue waits (Table 1.7). -/
def Queue.headWaits (x : Queue) : Bool :=
  match x.ents.find? (fun e => decide (e.st ≠ .done)) with
  | some e => e.held
  | none => false

/-- QSTAT (Table 1.7). -/
def Tile.qstat (t : Tile) : Word :=
  BitVec.ofNat 64 (t.xret.length + b2n t.lq.isFull * 2 ^ 8 + b2n t.xq.isFull * 2 ^ 9 + b2n t.sq.isFull * 2 ^ 10 +
    b2n t.lq.headWaits * 2 ^ 12 + b2n t.xq.headWaits * 2 ^ 13 + b2n t.sq.headWaits * 2 ^ 14 +
    b2n (!(t.lq.segs.isEmpty && t.xq.segs.isEmpty && t.sq.segs.isEmpty)) * 2 ^ 15)

/-- BSTn as a word (Table 1.6). -/
def Bst.word (b : Bst) : Word :=
  BitVec.ofNat 64 (b2n b.cfg + b2n b.member * 2 + b2n b.arr * 4 + b.gen.toNat * 2 ^ 8)

/-- A barrier that is not configured. -/
def Bst.zero : Bst := { cfg := false, member := false, arr := false, gen := 0, rel := false }

/-- BSTn of a tile. -/
def Tile.bar (t : Tile) (n : Nat) : Bst := AMap.getD t.bst n Bst.zero

/-- Trap register n (0 EPC … 5 EWORD). -/
def TrapRegs.get (r : TrapRegs) (n : Nat) : Word :=
  match n with
  | 0 => r.epc
  | 1 => r.ecause
  | 2 => r.einfo
  | 3 => r.ebase
  | 4 => r.estatus
  | _ => r.eword

/-- The registers that tiles and management cores both hold. -/
def Tcc.sr (c : Tcc) (n : Nat) : Word :=
  match n with
  | 0x010 => c.loop0.lc.zeroExtend 64
  | 0x011 => c.loop0.ls.zeroExtend 64
  | 0x012 => c.loop0.le.zeroExtend 64
  | 0x013 => c.loop1.lc.zeroExtend 64
  | 0x014 => c.loop1.ls.zeroExtend 64
  | 0x015 => c.loop1.le.zeroExtend 64
  | 0x018 => c.rsp
  | 0x019 => c.rsc.zeroExtend 64
  | 0x01A => BitVec.ofNat 64 c.ras.length
  | 0x01B => c.spillb
  | 0x080 => c.inj.inja
  | 0x081 => c.inj.injc
  | _ => c.trap.get (n - 0x070)

/-- The registers of a tile alone. -/
def Tile.sr (t : Tile) (g n : Nat) : Word :=
  match n with
  | 0x001 => BitVec.ofNat 64 t.ltn
  | 0x002 => t.lrect
  | 0x003 => BitVec.ofNat 64 (ptile g)
  | 0x004 => t.lid
  | 0x005 => t.rcba
  | 0x006 => t.cpri
  | 0x007 => t.frm
  | 0x008 => t.jca
  | 0x020 => t.lq.seq
  | 0x021 => t.xq.seq
  | 0x022 => t.sq.seq
  | 0x023 => t.lq.isn
  | 0x024 => t.xq.isn
  | 0x025 => t.sq.isn
  | 0x026 => t.seqw
  | 0x028 => t.lq.head.zeroExtend 64
  | 0x029 => t.lq.tail.zeroExtend 64
  | 0x02A => t.xq.head.zeroExtend 64
  | 0x02B => t.xq.tail.zeroExtend 64
  | 0x02C => t.sq.head.zeroExtend 64
  | 0x02D => t.sq.tail.zeroExtend 64
  | 0x02E => BitVec.ofNat 64 (t.lq.cap + t.xq.cap * 2 ^ 16 + t.sq.cap * 2 ^ 32)
  | 0x030 => t.tokc
  | 0x031 => t.tags
  | 0x032 => t.qstat
  | 0x034 => t.scc
  | 0x035 => t.tcfg
  | 0x036 => t.mxe.anchor.zeroExtend 64
  | 0x037 => t.fstat.zeroExtend 64
  | 0x038 => t.msea
  | 0x039 => t.seed.zeroExtend 64
  | 0x03A => t.mcap
  | 0x03B => BitVec.ofNat 64 t.dqn
  | 0x060 => t.lq.mpc
  | 0x061 => t.xq.mpc
  | 0x062 => t.sq.mpc
  | _ =>
    if 0x040 ≤ n ∧ n ≤ 0x047 then BitVec.ofNat 64 (bitsN t.tagn.toNat (64 * (n - 0x040) + 63) (64 * (n - 0x040)))
    else if h : 0x050 ≤ n ∧ n ≤ 0x05F then BitVec.ofNat 64 (t.mxe.z[n - 0x050]'(by omega)).wm
    else (t.bar (n - 0x100)).word

/-- SR[n] of the executing core (R152). -/
def State.sr (s : State) (n : Nat) : Word :=
  let c := s.cur
  if n = 0 then c.status (s.frzOf s.who)
  else if (0x010 ≤ n ∧ n ≤ 0x01B) ∨ (0x070 ≤ n ∧ n ≤ 0x081) then c.sr n
  else match s.who with
    | .tile g => (s.tile g).sr g n
    | .core k => BitVec.ofNat 64 k
    | .reshard _ => 0
    | .headstock => 0

/-- MFS (R152). -/
def execMfs (g : Reg) (srn : BitVec 10) (s : State) : Out :=
  s.run false false (fun s =>
    match s.mfsTrap srn.toNat with
    | some t => .trap t s
    | none => .ok .seq (s.setG g (s.sr srn.toNat)))

/-! ### Writing -/

/-- A permitted MTS with an effect: what f does to the state and the value. -/
def State.mtsRun (s : State) (n : Nat) (g : Reg) (f : Word → State → Res Unit) : Out :=
  s.run false false (fun s =>
    match s.mtsTrap n with
    | some t => .trap t s
    | none => (f (s.g g) s).andThen (fun _ s => .ok .seq s))

/-- An MTS effect that only changes the tile. -/
def onTile (f : Word → Tile → Tile) (v : Word) (s : State) : Res Unit := .ok () (s.updMe (f v))

/-- Replaces trap register n, reserved bits kept zero (Tables 13.1 to 13.3). -/
def TrapRegs.set (r : TrapRegs) (n : Nat) (v : Word) : TrapRegs :=
  match n with
  | 0 => { r with epc := v }
  | 1 => { r with ecause := v &&& 0x7FFFF }
  | 2 => { r with einfo := v }
  | 4 => { r with estatus := v &&& 0xFFFFFFFF000000FF }
  | 5 => { r with eword := v }
  | _ => r

/-- Writes the registers that both kinds of core hold. -/
def Tcc.setSr (c : Tcc) (n : Nat) (v : Word) : Tcc :=
  match n with
  | 0x018 => { c with rsp := v }
  | 0x019 => { c with rsc := v.truncate 32 }
  | 0x01B => { c with spillb := v }
  | 0x080 => { c with inj := { c.inj with inja := v &&& 0xFFFFFFFFFFFFF } }
  | _ => if 0x070 ≤ n ∧ n ≤ 0x075 then { c with trap := c.trap.set (n - 0x070) v } else c

/-- The micro-PC's writable bits (Table 1.8). -/
def mpcMask : Word := 0xFFFFFFFF8FFFFFFF

/-- BSTn from a written word. -/
def bstOf (v : Word) : Bst := { cfg := bit v 0, member := bit v 1, arr := bit v 2, gen := BitVec.ofNat 8 (fld v 15 8), rel := false }

/-- Writes the registers of a tile alone; a register that is read-only at both levels is unchanged (R21). -/
def Tile.setSr (t : Tile) (n : Nat) (v : Word) : Tile :=
  match n with
  | 0x005 => { t with rcba := v }
  | 0x007 => { t with frm := v }
  | 0x008 => { t with jca := v }
  | 0x031 => let t' := { t with tags := v }
    if v &&& ~~~ t.tags = 0 then t' else t'.latch 0
  | 0x034 => { t with scc := v }
  | 0x036 => { t with mxe := { t.mxe with anchor := v.truncate 16 } }
  | 0x037 => { t with fstat := v.truncate 5 }
  | 0x038 => { t with msea := v }
  | 0x060 => { t with lq := { t.lq with mpc := v &&& mpcMask } }
  | 0x061 => { t with xq := { t.xq with mpc := v &&& mpcMask } }
  | 0x062 => { t with sq := { t.sq with mpc := v &&& mpcMask } }
  | _ =>
    if 0x040 ≤ n ∧ n ≤ 0x047 then
      let i := 64 * (n - 0x040)
      { t with tagn := BitVec.ofNat 512 (t.tagn.toNat - bitsN t.tagn.toNat (i + 63) i * 2 ^ i + v.toNat * 2 ^ i) }
    else if 0x100 ≤ n ∧ n ≤ 0x13F then { t with bst := AMap.put t.bst (n - 0x100) (bstOf v) }
    else t

/-- MTS to a register without a row of its own (R152, R153). -/
def execMts (g : Reg) (srn : BitVec 10) (s : State) : Out :=
  s.mtsRun srn.toNat g (fun v s =>
    let n := srn.toNat
    if (0x010 ≤ n ∧ n ≤ 0x01B) ∨ (0x070 ≤ n ∧ n ≤ 0x081) then .ok () (s.updCur (fun c => c.setSr n v))
    else if s.onCore then .ok () s
    else onTile (fun v t => t.setSr n v) v s)

/-- Bytes of tile SRAM that were L1 and become scratchpad hold values that the spec does not state (log entry 17, site 5). -/
def State.exposed (s : State) (g lo n : Nat) : State :=
  { s with free := s.free + 1 }.storeHome (tileBase g + lo) ((List.range n).map (fun i =>
    (Config.unstated 5 [BitVec.ofNat 64 s.free, BitVec.ofNat 64 (lo + i)]).truncate 8))

/-- MTS_TCFG (R23): an invalid size or a queue that is not empty is illegal; L1 is invalidated; the chains of the empty
queues start at the regions of the new size (R27). -/
def execMtsTcfg (g : Reg) (s : State) : Out :=
  s.mtsRun 0x035 g (fun v s =>
    let t := s.me
    let sz := fld v 3 0
    if sz < 2 ∨ 12 < sz ∨ !(t.lq.ents.isEmpty && t.xq.ents.isEmpty && t.sq.ents.isEmpty) then .trap trapIllegal s
    else
      let v' : Word := v &&& 0x1F
      let old := t.spBytes
      let s := if old < sz * 524288 then s.exposed s.gid old (sz * 524288 - old) else s
      let at_ := fun (q : Q) => BitVec.ofNat 32 (ringBase v' q)
      .ok () ((s.updMe (fun t => { t with
          tcfg := v',
          lq := if sz * 524288 = old then t.lq else { t.lq with head := at_ .l, tail := at_ .l },
          xq := if sz * 524288 = old then t.xq else { t.xq with head := at_ .x, tail := at_ .x },
          sq := if sz * 524288 = old then t.sq else { t.sq with head := at_ .s, tail := at_ .s } })).l1Drop))

/-- The number of an issue or completion register. -/
def srnNumber (comp : Bool) (q : Q) : Nat := (if comp then 0x020 else 0x023) + q.code

/-- MTS_QUEUE_NUMBER (R26). -/
def execMtsQueueNumber (g : Reg) (comp : Bool) (q : Q) (s : State) : Out :=
  s.mtsRun (srnNumber comp q) g (fun v s =>
    if (s.me.queue q).ents.any (fun e => decide (e.st ≠ .done)) then .trap trapIllegal s
    else .ok () ((s.updQueue s.gid q (fun x => { x with isn := v, seq := v })).mirror s.gid q))

/-- MTS_QUEUE_LINK (R27). -/
def execMtsQueueLink (g : Reg) (tail : Bool) (q : Q) (s : State) : Out :=
  s.mtsRun (0x028 + 2 * q.code + b2n tail) g (fun v s =>
    let b := ringBase s.me.tcfg q
    let i := fld v 23 0
    if (s.me.queue q).ents.isEmpty && !bit v 31 && decide (b ≤ i) && decide (i < b + 256) then
      .ok () (s.updQueue s.gid q (fun x => { x with head := BitVec.ofNat 32 i, tail := BitVec.ofNat 32 i }))
    else .trap trapIllegal s)

/-- MTS_TOKC (R33); a count that grows is a token that enters its FIFO (R309). -/
def execMtsTokc (g : Reg) (s : State) : Out :=
  s.mtsRun 0x030 g (fun v s =>
    let a := fld v 4 0
    let b := fld v 12 8
    let c := fld v 20 16
    let d := fld v 28 24
    if 16 < a ∨ 16 < b ∨ 16 < c ∨ 16 < d then .trap trapIllegal s
    else .ok () (s.updMe (fun t =>
      let t' := { t with lx := a, xl := b, xs := c, sx := d }
      if t.lx < a ∨ t.xl < b ∨ t.xs < c ∨ t.sx < d then t'.latch 1 else t')))

/-- MTS_ZWM (R43). -/
def execMtsZwm (g : Reg) (z : BitVec 4) (s : State) : Out :=
  s.mtsRun (0x050 + z.toNat) g (fun v s =>
    if 128 < v.toNat then .trap trapIllegal s
    else .ok () (s.updMe (fun t =>
      { t with stall := 0, mxe := { t.mxe with z := t.mxe.z.set z.toNat { t.mxe.z[z.toNat] with wm := v.toNat } } })))

/-- MTS_DQN (R48). -/
def execMtsDqn (g : Reg) (s : State) : Out :=
  s.mtsRun 0x03B g (fun v s =>
    if 4096 < v.toNat then .trap trapIllegal s else .ok () (s.updMe (fun t => { t with dqn := v.toNat })))

/-- A value of SEQW is valid for a TCFG (R30). -/
def seqwOk (tcfg v : Nat) : Bool :=
  decide (v = 0) ||
  (decide (v % 8 = 0) && decide (v + 24 ≤ tcfg % 16 * 524288 - (if tcfg / 16 % 2 = 1 then 304 * 1024 else 48 * 1024)))

/-- MTS_SEQW (R30). -/
def execMtsSeqw (g : Reg) (s : State) : Out :=
  s.mtsRun 0x026 g (fun v s =>
    if seqwOk s.me.tcfg.toNat v.toNat then onTile (fun v t => { t with seqw := v }) v s else .trap trapIllegal s)

/-- MTS_SEED (R73): while a command that uses SR is in XQ, the value stands for the commands issued after the MTS. -/
def execMtsSeed (g : Reg) (s : State) : Out :=
  s.mtsRun 0x039 g (onTile (fun v t =>
    if t.xq.usesSr then { t with seedNext := t.seedNext ++ [(t.xq.isn, v.truncate 32)] }
    else { t with seed := v.truncate 32, seedNext := [] }))

/-- A code address as R95 and R153 want it. -/
def badCode (v : Word) : Bool := decide (2 ^ 28 ≤ v.toNat) || decide (v.toNat % 16 = 0)

/-- MTS_LOOP_REGISTER (R148, R151, R153). -/
def execMtsLoopRegister (g : Reg) (set : BitVec 1) (which : LoopReg) (s : State) : Out :=
  s.mtsRun (0x010 + 3 * set.toNat + (match which with | .lc => 0 | .ls => 1 | .le => 2)) g (fun v s =>
    let c := s.cur
    let l := c.loop set.toNat
    let put := fun (l : LoopSet) => Res.ok () (s.setCur (c.setLoop set.toNat l))
    match which with
    | .lc =>
      let n : BitVec 32 := v.truncate 32
      put { l with lc := n, ae := if l.lc = 0 ∧ n ≠ 0 then l.le else l.ae }
    | .ls => if badCode v then .trap (trapCode v) s else put { l with ls := v.truncate 28 }
    | .le =>
      if badCode v then .trap (trapCode v) s
      else put { l with le := v.truncate 28, ae := if c.intrap && c.atM then v.truncate 28 else l.ae })

/-- MTS_EBASE (R433). -/
def execMtsEbase (g : Reg) (s : State) : Out :=
  s.mtsRun 0x073 g (fun v s =>
    if badCode v then .trap (trapCode v) s
    else .ok () (s.updCur (fun c => { c with trap := { c.trap with ebase := v } })))

/-! ### Error injection (R453, R454) -/

/-- The unit that holds a byte of a place: an accumulator word in a z tile, else an 8-byte word (R453). -/
def unitOf (p : Place) : Nat × Nat :=
  let key := p.key
  match p with
  | .tile g off => if inZ off 1 then (tileBase g + zBase + (off - zBase) / 10 * 10, 10) else (key / 8 * 8, 8)
  | _ => (key / 8 * 8, 8)

/-- Disarms the error of an agent, if one is armed. -/
def State.disarm (s : State) (a : Agent) : State := { s with armed := s.armed.filter (fun x => decide (x.agent ≠ a)) }

/-- Errors that an agent armed before stay armed at their homes; its INJC tells of the new one alone (R453, R454; log entry 34). -/
def State.disownArmed (s : State) (a : Agent) : State :=
  let other : Agent := if a = .headstock then .reshard 0 else .headstock
  { s with armed := s.armed.map (fun x => if x.agent = a then { x with agent := other } else x) }

/-- Displaces the errors armed at the home and level of a unit: their INJC reads ARM = 0 and FIRED = 0 (R454). -/
def State.displace (s : State) (unit : Nat) : State :=
  let out := s.armed.filter (fun x => decide (storeLevel x.unit = storeLevel unit))
  let s := out.foldl (fun s x => s.updInj x.agent (fun i =>
    { i with injc := setBit (setBit i.injc 31 false) 30 false })) s
  { s with armed := s.armed.filter (fun x => decide (storeLevel x.unit ≠ storeLevel unit)) }

/-- INJC's stored value after a write of v: reserved bits zero, FIRED cleared by writing 1 (Table 13.10). -/
def injcWrite (old v : Word) : Word := (v &&& 0x80033FFF) ||| (if bit v 30 then 0 else old &&& 0x40000000)

/-- INJ_ARM (R453, R454). -/
def execInjArm (g : Reg) (s : State) : Out :=
  s.mtsRun 0x081 g (fun v s =>
    let inj := s.cur.inj
    let put := fun (s : State) => s.updCur (fun c => { c with inj := { c.inj with injc := injcWrite c.inj.injc v } })
    if !bit v 31 then .ok () (put (s.disarm s.who))
    else
      let pa := inj.inja.toNat
      let kind := fld v 17 16
      let p := s.home pa
      let (unit, len) := unitOf p
      let bits := 8 * len
      if kind = 0 ∨ bits ≤ fld v 6 0 ∨ (kind = 2 ∧ (bits ≤ fld v 13 7 ∨ fld v 6 0 = fld v 13 7)) then .trap trapIllegal s
      else
        let arm := fun (s : State) =>
          let s := (put (s.displace unit)).disownArmed s.who
          let s := s.updCur (fun c => { c with inj := { c.inj with injc := setBit c.inj.injc 31 true } })
          { s with armed := { agent := s.who, unit := unit, len := len, bit0 := fld v 6 0, bit1 := fld v 13 7,
                              kind := kind } :: s.armed }
        match p with
        | .out => .ok () ((put s).disownArmed s.who)
        | .reserved => .trap (TrapI.mk3 5 0 inj.inja) s
        | .tile g off => if (s.tile g).offBad off 1 then .trap (TrapI.mk3 5 0 inj.inja) s else .ok () (arm s)
        | .hbm _ _ => .ok () (arm s)
        | .far _ => .ok () ((put s).disownArmed s.who))

end Sys2Proof.Machine
end

