-- ==== Sys2Proof/Machine/Sync.lean ====
section
/-! DEFINITION. Waiting and synchronisation (spec/05_work_sync_instructions.md R168 to R193): tokens, tags, named barriers,
fences, batches, queue draining and XRET; WFE (R309). -/

namespace Sys2Proof.Machine

/-- An instruction that acts on a tile's state and takes no prefix: illegal on a management core (R120). -/
def State.tileOnly (s : State) (body : State → Res Flow) : Out :=
  s.run false false (fun s => if s.onCore then .trap trapIllegal s else body s)

/-! ### Tokens and tags -/

/-- TOKW (R173). -/
def execTokw (d : Reg) (n : BitVec 5) (fifo : Fifo) (pop : Bool) (s : State) : Out :=
  s.tileOnly (fun s =>
    let c := s.me.fifo fifo
    if c < n.toNat then .wait s
    else if pop then
      .ok .seq ((s.updMe (fun t => t.setFifo fifo (c - n.toNat))).setG d (BitVec.ofNat 64 (c - n.toNat)))
    else .ok .seq (s.setG d (BitVec.ofNat 64 c)))

/-- The tags of m whose outstanding count is not 0, as a mask. -/
def Tile.busyTags (t : Tile) (m : Word) : Nat :=
  ((List.range 64).filter (fun i => bit m i && decide (t.tagCount i ≠ 0))).length

/-- TAGWA (R174, R176): a dead wait is the tag-wait fault. -/
def execTagwa (d a : Reg) (s : State) : Out :=
  s.tileOnly (fun s =>
    let m := s.g a
    let r := s.me.tags &&& m
    if m = 0 ∨ r ≠ 0 then .ok .seq (s.setG d r)
    else if s.me.busyTags m = 0 then .trap (TrapI.mk3 14 0 m) s
    else .wait s)

/-- TAGWL (R174, R176). -/
def execTagwl (d a : Reg) (s : State) : Out :=
  s.tileOnly (fun s =>
    let m := s.g a
    let r := s.me.tags &&& m
    let left := m &&& ~~~ r
    if left = 0 then .ok .seq (s.setG d r)
    else if s.me.busyTags left < popc 64 left.toNat then .trap (TrapI.mk3 14 0 m) s
    else .wait s)

/-- TAGFF (R174). -/
def execTagff (d a : Reg) (clr : Bool) (s : State) : Out :=
  s.tileOnly (fun s =>
    let r := s.me.tags &&& s.g a
    let t := ctzN 64 r.toNat
    let s := if clr && decide (t < 64) then s.updMe (fun x => { x with tags := setBit x.tags t false }) else s
    .ok .seq (s.setG d (BitVec.ofNat 64 t)))

/-- TAGCLR (R174). -/
def execTagclr (a : Reg) (s : State) : Out :=
  s.tileOnly (fun s =>
    let m := s.g a
    .ok .seq (s.updMe (fun t => { t with tags := t.tags &&& ~~~ m })))

/-! ### Named barriers -/

/-- The logical tile numbers of a sub-rectangle of a launch. -/
def rectLtns (w x0 y0 rw rh : Nat) : List Nat :=
  (List.range rh).flatMap (fun y => (List.range rw).map (fun x => (y0 + y) * w + x0 + x))

/-- Width and height of a launch's rectangle in logical coordinates (LRECT). -/
def Launch.dims (l : Launch) : Nat × Nat := (l.pkt.w, l.pkt.h)

/-- The tiles of a barrier's participant set, in LTN order. -/
def Launch.members (l : Launch) (b : BarSet) : List Nat :=
  (rectLtns l.dims.1 b.x0 b.y0 b.w b.h).filterMap (fun n => l.tiles[n]?)

/-- The release of a generation at one participant (R181): GEN, ARR, event latch 3. -/
def Tile.released (t : Tile) (n : Nat) : Tile :=
  let b := t.bar n
  let t := { t with bst := AMap.put t.bst n { b with gen := b.gen + 1, arr := false, rel := true }, stall := 0 }
  t.latch 3

/-- Releases the open generation of a barrier when every participant has arrived (R181, R182, R459). -/
def State.release (s : State) (k n : Nat) : State :=
  match AMap.find? s.launches k with
  | none => s
  | some l => match AMap.find? l.bars n with
    | none => s
    | some b =>
      let ms := l.members b
      if !ms.all (fun g => (b.arrived.map Prod.fst).contains g) then s
      else
        let waits := ms.filter (fun g => decide ((s.tile g).barWait = some n))
        let starts := waits.filter (fun g => (s.tile g).ballast.isNone)
        let s := ms.foldl (fun s g => s.updTile g (fun t => t.released n)) s
        let s := waits.foldl (fun s g => s.updTile g (fun t => { t with barWait := none, ballast := none })) s
        let s := { s with launches := AMap.put s.launches k { l with bars := AMap.put l.bars n { b with arrived := [] } } }
        if starts.isEmpty then s else s.requestStarts false starts

/-- The check of BSTn that begins every barrier instruction (R180). -/
def State.barCheck (s : State) (n : Nat) : Option TrapI :=
  let b := s.me.bar n
  if !b.cfg then some (TrapI.mk3 15 3 (BitVec.ofNat 64 n))
  else if !b.member then some (TrapI.mk3 15 4 (BitVec.ofNat 64 n))
  else none

/-- The arrival of the executing tile (R180 BARA): a CTRL packet to the Headstock (Table 12.3). -/
def State.arrive (s : State) (n : Nat) (sc : Scope) : State :=
  let g := s.gid
  let s := s.updMe (fun t => { t with bst := AMap.put t.bst n { t.bar n with arr := true, rel := false } })
  match s.me.bound with
  | none => s
  | some k => match AMap.find? s.launches k with
    | none => s
    | some l => match AMap.find? l.bars n with
      | none => s
      | some _ => s.request { Pkt.make .ctrl 0 (.tile g) k s.bedt with cnt := n, scope := sc }

/-- BARA (R180). -/
def execBara (n : BitVec 6) (scope : Scope) (s : State) : Out :=
  s.tileOnly (fun s =>
    match s.barCheck n.toNat with
    | some t => .trap t s
    | none => if (s.me.bar n.toNat).arr then .wait s else .ok .seq (s.arrive n.toNat scope))

/-- Notes that the tile waits at a barrier. Ballast begins once the wait finds no XQ command begun, and not again where tapering has
ended it (R460; log entry 46). -/
def State.waitBar (s : State) (n : Nat) : State :=
  s.updMe (fun t =>
    let old := decide (t.barWait = some n)
    let tapered := old && t.tapered
    let on := s.gov.balen && t.xq.ents.all (fun e => decide (e.st ≠ .begun)) && !tapered
    { t with barWait := some n, tapered := tapered,
             ballast := if old && t.ballast.isSome then t.ballast else if on then some s.bedt else none })

/-- The wait of BARW (R180, R181). One that completes after the release of a generation in which the tile arrived is an acquire,
which invalidates L1 (R313; log entry 83). -/
def State.barWaitFor (s : State) (d : Reg) (n : Nat) : Res Flow :=
  match s.barCheck n with
  | some t => .trap t s
  | none =>
    let b := s.me.bar n
    if b.arr then .wait (s.waitBar n)
    else
      let s := if b.rel then (s.updMe (fun t => { t with bst := AMap.put t.bst n { b with rel := false } })).l1Drop else s
      .ok .seq ((s.updCur (fun c => { c with arrived := false })).setG d (b.gen.zeroExtend 64))

/-- BARW (R180). -/
def execBarw (d : Reg) (n : BitVec 6) (s : State) : Out := s.tileOnly (fun s => s.barWaitFor d n.toNat)

/-- BARAW (R186): the arrival once, then the wait; the mark *arrived* says that the arrival has been made. -/
def execBaraw (d : Reg) (n : BitVec 6) (scope : Scope) (s : State) : Out :=
  s.tileOnly (fun s =>
    if s.cur.arrived then s.barWaitFor d n.toNat
    else match s.barCheck n.toNat with
      | some t => .trap t s
      | none =>
        if (s.me.bar n.toNat).arr then .wait s
        else ((s.arrive n.toNat scope).updCur (fun c => { c with arrived := true })).barWaitFor d n.toNat)

/-- BARSET (R178), served by the Headstock at once. -/
def execBarset (a : Reg) (n : BitVec 6) (s : State) : Out :=
  s.tileOnly (fun s =>
    let v := s.g a
    let fault := fun (sub : Nat) => Res.trap (TrapI.mk3 15 sub (n.zeroExtend 64)) s
    match s.me.bound with
    | none => fault 1
    | some k => match AMap.find? s.launches k with
      | none => fault 1
      | some l =>
        let (lw, lh) := l.dims
        let x0 := fld v 15 0
        let y0 := fld v 31 16
        let w := if fld v 47 32 = 0 then lw - x0 else fld v 47 32
        let h := if fld v 63 48 = 0 then lh - y0 else fld v 63 48
        if lw ≤ x0 ∨ lh ≤ y0 ∨ lw < x0 + w ∨ lh < y0 + h then fault 1
        else
          let set : BarSet := { x0 := x0, y0 := y0, w := w, h := h, arrived := [] }
          let old := AMap.find? l.bars n.toNat
          let same := match old with
            | some b => decide ({ b with arrived := [] } = set)
            | none => false
          let busy := match old with
            | some b => !b.arrived.isEmpty
            | none => false
          if !same && busy then fault 2
          else
            let l' := if same then l else { l with bars := AMap.put l.bars n.toNat set }
            let ms := l'.members set
            let s := { s with launches := AMap.put s.launches k l' }
            .ok .seq (l.tiles.foldl (fun s g => s.updTile g (fun t =>
              let b := { t.bar n.toNat with cfg := true, member := ms.contains g }
              { t with bst := AMap.put t.bst n.toNat b, stall := if b = t.bar n.toNat then t.stall else 0 })) s))

/-! ### Fences -/

/-- The queues of a path mask of R104: [1] L, [2] S, [3] X. -/
def maskQueues (m : BitVec 6) : List Q :=
  (if bit m 1 then [Q.l] else []) ++ (if bit m 2 then [Q.s] else []) ++ (if bit m 3 then [Q.x] else [])

/-- Every command of a queue has completed. -/
def Queue.drained (x : Queue) : Bool := x.ents.all (fun e => decide (e.st = .done))

/-- Packets that commands of a queue sent and that have not been performed; those sent through UO pages only where `uo` says so
(R328). -/
def State.unanswered (s : State) (g : Nat) (q : Q) (uo : Bool) : Bool :=
  s.net.any (fun p => decide (p.src = .tile g) && !p.tcc && decide (p.q = q) && p.typ.undone && (uo || !p.uo))

/-- A command holds up no fence although it has not completed: a copy that makes no access, or, at a scope narrower than domain, none
but through UO pages (R285, R328). -/
def State.fenceSkips (s : State) (g : Nat) (all : Bool) (e : QEntry) : Bool :=
  match cmdInstr e.cmd with
  | none => false
  | some i =>
    let r := s.ranges g e i
    let uo := fun (x : Nat × Nat × Bool) => (pieces 4096 (x.2.1 / 4096 + 2) x.1 x.2.1).all (fun p =>
      match s.translate (.tile g) (s.qSpace g) p.1 (if x.2.2 then .wr else .rd) e.atM with
      | .ok y _ => decide (y.kind = .uo)
      | .trap _ _ => false
      | .wait _ => false)
    i.isCopy && r.loc.isEmpty && (if all then r.glob.isEmpty else r.glob.all uo)

/-- A ticket of the stack MV unit whose reads of B, on the X path, are still to be made (R238); at a narrower scope not through UO
pages only. -/
def Ticket.reads (k : Ticket) (all : Bool) : Bool :=
  decide (k.st = 1) && (all || !k.pins.all (fun p => decide ((p.xlat p.va).kind = .uo)))

/-- Every access of the commands of a queue that a fence waits for has been performed (R184). -/
def State.fenced (s : State) (g : Nat) (all : Bool) (q : Q) : Bool :=
  ((s.tile g).queue q).ents.all (fun e => decide (e.st = .done) || s.fenceSkips g all e) && !s.unanswered g q all &&
  (decide (q ≠ .x) || (s.tile g).mxe.tickets.toList.all (fun k => !k.reads all))

/-- A path mask of R104 names path F or H. -/
def maskOutside (m : BitVec 6) : Bool := bit m 4 || bit m 5

/-- FENCEP (R184): waits until the preceding accesses of FROM are performed. Commands must have completed and the writes that they
sent and the reads of their tickets have been performed (R238, R280), those through UO pages only at domain scope (R328); for F and H
the flags that the tile held when the FENCEP began must have been written. Other accesses of the C path, the fabric and the host are performed when they are
made. With C in TO and a scope wider than tile, L1 is invalidated (R313). -/
def State.fence (s : State) (frm tom : BitVec 6) (sc : Scope) : Res Flow :=
  let fin := fun (s : State) => Res.ok Flow.seq (if bit tom 0 && decide (sc ≠ .tile) then s.l1Drop else s)
  let on := if !maskOutside frm then [] else if s.cur.waiting then s.cur.fenceOn else s.me.held.map (fun h => h.rid)
  let sent := (maskQueues frm).all (s.fenced s.gid (decide (sc = .domain)))
  if frm = 0 ∨ tom = 0 ∨ s.onCore ∨ (sent && !s.me.held.any (fun h => on.contains h.rid)) then fin s
  else .wait (s.updCur (fun c => { c with fenceOn := on }))

/-- FENCE (R183). -/
def execFence (s : State) : Out := s.run false true (fun s => s.fence 1 1 (s.scope .domain))

/-- FENCEP (R183, R184). -/
def execFencep (frm tom : BitVec 6) (scope : Scope) (s : State) : Out :=
  s.run false true (fun s => s.fence frm tom (s.scope scope))

/-! ### Batches, draining, XRET -/

/-- BCLOSE (R187). -/
def execBclose (s : State) : Out :=
  s.tileOnly (fun s =>
    match s.bclose with
    | none => .wait s
    | some t => .ok .seq (s.updMe (fun _ => t)))

/-- WAITB (R187, R188). -/
def execWaitb (d : Reg) (n : BitVec 4) (s : State) : Out :=
  s.tileOnly (fun s =>
    match s.bclose with
    | none => .wait s
    | some t =>
      let k := t.batches.length
      let s' := s.updMe (fun _ => t)
      if k ≤ n.toNat then .ok .seq (s'.setG d (BitVec.ofNat 64 k)) else .wait s')

/-- QDRAIN (R189). -/
def execQdrain (mask : BitVec 3) (s : State) : Out :=
  s.tileOnly (fun s =>
    let ok := fun (i : Nat) (q : Q) => !bit mask i || (s.me.queue q).drained
    if ok 0 .l && ok 1 .x && ok 2 .s then .ok .seq s else .wait s)

/-- QSEQ (R190). -/
def execQseq (d a : Reg) (q : Q) (s : State) : Out :=
  s.tileOnly (fun s =>
    let x := s.me.queue q
    let n := Nat.min (s.g a).toNat x.isn.toNat
    if n ≤ x.seq.toNat then .ok .seq (s.setG d x.seq) else .wait s)

/-- XRETW (R192, R193). -/
def execXretw (d : Reg) (s : State) : Out :=
  s.tileOnly (fun s =>
    match s.me.xret with
    | v :: r => .ok .seq ((s.updMe (fun t => { t with xret := r })).setG d v)
    | [] => if s.me.xq.drained then .trap (TrapI.mk3 18 0 0) s else .wait s)

/-- WFE (R309). -/
def execWfe (d : Reg) (mask : BitVec 6) (s : State) : Out :=
  s.run false false (fun s =>
    let l := s.cur.latches &&& mask
    if l = 0 then .wait s
    else .ok .seq ((s.updCur (fun c => { c with latches := c.latches &&& ~~~ mask })).setG d (l.zeroExtend 64)))

end Sys2Proof.Machine
end

