-- ==== Sys2Proof/Machine/Work.lean ====
section
/-! DEFINITION. Continuations and pairing objects (spec/05_work_sync_instructions.md R194 to R205), the pools' entry side
(R378, R380), and the append of a device launch (R200, R361). -/

namespace Sys2Proof.Machine

/-! ### Pools -/

/-- The records that the pools of a region hold. -/
def Launch.held (l : Launch) (region : Nat) : Nat :=
  ((l.pools.filter (fun p => decide (p.region = region))).map (fun p => p.recs.length)).sum

/-- The pool of a record's region and priority receives it as its newest record (R378, R380). -/
def Launch.addRec (l : Launch) (r : Rec) (now : Word) : Launch :=
  let mine := fun (p : Pool) => decide (p.region = r.region) && decide (p.pri = r.pri)
  if l.pools.any mine then
    { l with pools := updWhere mine (fun p =>
        { p with recs := p.recs ++ [(r, now)], timer := if p.recs.isEmpty then now else p.timer }) l.pools }
  else { l with pools := l.pools ++ [{ region := r.region, pri := r.pri, recs := [(r, now)], level := r.pri, timer := now }] }

/-- Changes launch k, where it exists. -/
def State.updLaunch (s : State) (k : Nat) (f : Launch → Launch) : State :=
  match AMap.find? s.launches k with
  | none => s
  | some l => { s with launches := AMap.put s.launches k (f l) }

/-- Bytes of the Headstock's pool store in use: 32 for each record that is not spilled (Table 5.3), 8 for each value of a
pairing object at home there (R202, R378). -/
def State.storeUsed (s : State) : Nat :=
  32 * (s.launches.map (fun e => (e.2.pools.map (fun p => (p.recs.filter (fun r => r.1.spill.isNone)).length)).sum)).sum +
  8 * (s.objs.map (fun e => if bitsN e.1 25 20 = 0 then e.2.vals.length else 0)).sum

/-- The pool store, of 8 MiB (spec/00_scope.md) less the blocks retired (Table 13.7; a block as large as a record: log entry 99), has
room for one more record. -/
def State.storeRoom (s : State) : Bool :=
  decide (s.storeUsed + 32 + 32 * (s.retired.filter (fun x => decide (x.1 = 7))).length ≤ 2 ^ 23)

/-- The places of a region's spill area that hold no record. -/
def Launch.spillFree (l : Launch) (n : Nat) (x : Region) : List Nat :=
  let used := (l.pools.filter (fun p => decide (p.region = n))).flatMap (fun p => p.recs.filterMap (fun r => r.1.spill))
  if x.psva = 0 then [] else (List.range (x.pslen / 32)).filter (fun i => !used.contains i)

/-- The 32 bytes of a record (Table 5.3). -/
def Rec.bytes (r : Rec) : List Byte :=
  leBytes 4 r.code.toNat ++ leBytes 2 r.img.toNat ++ leBytes 2 0 ++ leBytes 8 r.frame.toNat ++ leBytes 8 r.jca.toNat ++
  leBytes 4 r.region ++ leBytes 1 r.pri ++ leBytes 3 0

/-- The end of a region's domain at an access of its spill area that failed (R378). -/
def State.spillEnds (s : State) (k dom : Nat) (t : TrapI) : State :=
  s.endDomain k dom { ErrRec.ofType 1 with cause := if t.cause = 0 then 9 else t.cause, sub := if t.cause = 0 then 1 else t.sub,
                                           info := t.info.toNat }

/-- Pushes a record into its pool; a record of an ended region is discarded (R435); nothing where the pool has no free
entry, so that the pushing instruction is held (R201, R378). A record that finds the pool store full goes to the region's
spill area; where that access fails, the region's domain ends. -/
def State.pushRec (s : State) (k : Nat) (r : Rec) : Option State :=
  match AMap.find? s.launches k with
  | none => some s
  | some l => match l.regions[r.region]? with
    | none => some s
    | some x =>
      if x.ended then some s
      else if x.pent ≤ l.held r.region then none
      else if s.storeRoom then some { s with launches := AMap.put s.launches k (l.addRec r s.bedt) }
      else match l.spillFree r.region x with
        | [] => none
        | i0 :: is =>
          let i := ((i0 :: is)[(Config.unstated 19 [BitVec.ofNat 64 s.free]).toNat % (is.length + 1)]?).getD i0
          let s := { s with free := s.free + 1 }
          match s.hsWrite (viaLaunch k true) (x.psva.toNat + 32 * i) r.bytes with
          | .wait _ => none
          | .trap t s => some (s.spillEnds k x.dom t)
          | .ok _ s => some (s.updLaunch k (fun l => l.addRec { r with spill := some i } s.bedt))

/-- The region of the running continuation, from RCBA (R196, R365). -/
def State.curRegion (s : State) : Nat :=
  let t := s.me
  let own := match t.cont with
    | some c => c.region
    | none => t.trapRegion
  match s.launchOf s.gid with
  | none => own
  | some l =>
    let d := (t.rcba - l.pkt.rtva).toNat
    if d % 256 = 0 ∧ d / 256 < l.regions.length then d / 256 else own

/-- The image of the running continuation. -/
def State.curImg (s : State) : BitVec 16 :=
  match s.me.cont with
  | some c => c.img
  | none => s.cur.img

/-- The record that SPAWN builds (Table 5.4). -/
def State.spawnRec (s : State) (code : CodeAddr) (frame jca : Word) : Rec :=
  { code := code, img := s.curImg, frame := frame, jca := jca, region := s.curRegion, pri := fld s.me.cpri 5 3 }

/-- Pushes a record as an instruction does: the instruction is held while its pool has no free entry (R201), and goes no
further where the push has ended its own domain (R378, R435). -/
def State.pushOr (s : State) (r : Rec) : Res Flow :=
  match s.pushRec (s.me.bound.getD 0) r with
  | none => .wait s
  | some u =>
    let gone := (s.me.cont.isSome && u.me.cont.isNone) || (s.cur.intrap && !u.cur.intrap)
    .ok (if gone then .gone else .seq) u

/-- SPAWN (R196). -/
def execSpawn (a b : Reg) (s : State) : Out :=
  s.tileOnly (fun s =>
    match s.checkCode (s.g a) with
    | none => .trap (trapCode (s.g a)) s
    | some c => s.pushOr (s.spawnRec c (s.g b) 0))

/-- The canonical address of the join block that a register names (R195, R156). -/
def State.joinKey (s : State) (a : Word) : Res Nat :=
  let bad := Res.trap (TrapI.mk3 5 0 a) s
  if 2 ^ 57 ≤ a.toNat then bad
  else if a.toNat % 8 ≠ 0 then .trap (TrapI.mk3 6 0 a) s
  else if bitsN a.toNat 56 48 ≠ 0x1FF then bad
  else
    (s.translate s.who s.space a.toNat .wr s.cur.atM).andThen fun x s =>
      let off := bitsN a.toNat 23 0
      if off < atomBase ∨ atomEnd < off + 40 then .trap (TrapI.mk3 5 0 a) s
      else .ok (s.place x.pa).key s

/-- Reads n bytes of a join block at its port. -/
def State.joinRead (s : State) (key n : Nat) : Res (List Byte) :=
  let h := s.readHome s.who.code key n
  match h.bad with
  | some w => .trap (memTrap (decide (tileBase s.gid / 2 ^ 24 ≠ key / 2 ^ 24)) w key key) h.s
  | none => .ok h.bytes h.s

/-- Writes COUNT at its port (R163). -/
def State.joinWrite (s : State) (key : Nat) (v : Word) : Res Unit :=
  match s.writeHome key (leBytes 8 v.toNat) with
  | .error w => .trap (memTrap (decide (tileBase s.gid / 2 ^ 24 ≠ key / 2 ^ 24)) w key key) s
  | .ok s' => .ok () s'

/-- SPAWNJ (R196): a held push leaves the count as it was (R168). -/
def execSpawnj (d a b : Reg) (s : State) : Out :=
  s.tileOnly (fun s =>
    match s.checkCode (s.g a) with
    | none => .trap (trapCode (s.g a)) s
    | some c =>
      let j := s.g d
      (s.joinKey j).andThen fun key s =>
        (s.joinRead key 8).andThen fun bs s =>
          (s.pushOr (s.spawnRec c (s.g b) j)).andThen fun f s =>
            if f = .gone then .ok .gone s
            else (s.joinWrite key (BitVec.ofNat 64 (ofBytes bs) + 1)).andThen fun _ s => .ok .seq s)

/-- The waiter record of a join block, checked (R194, R197): nothing when it is not valid. -/
def State.waiter (s : State) (bs : List Byte) : Option Rec :=
  let code := leAt bs 0 4
  let img := leAt bs 4 2
  let region := leAt bs 24 4
  let pri := leAt bs 28 1
  let flg := leAt bs 31 1
  let inh := decide (flg = 128)
  match s.launchOf s.gid with
  | none => none
  | some l =>
    let lines := match l.images[img]? with
      | some (_, n) => n
      | none => 0
    if 2 ^ 28 ≤ code ∨ code % 16 = 0 ∨ lines ≤ code / 16 ∨ leAt bs 6 2 ≠ 0 ∨ 8 ≤ pri ∨ leAt bs 29 2 ≠ 0 ∨
        (flg ≠ 0 ∧ flg ≠ 128) ∨ l.regions.length ≤ region ∨ (6 < pri ∧ !s.cur.atM) ∨
        (inh ∧ (region ≠ 0 ∨ pri ≠ 0)) then none
    else some { code := BitVec.ofNat 28 code, img := BitVec.ofNat 16 img, frame := BitVec.ofNat 64 (leAt bs 8 8),
                jca := BitVec.ofNat 64 (leAt bs 16 8), region := if inh then s.curRegion else region,
                pri := if inh then fld s.me.cpri 5 3 else pri }

/-- JOIN (R196, R197). -/
def execJoin (d a : Reg) (s : State) : Out :=
  s.tileOnly (fun s =>
    let j := s.g a
    if j = 0 then .ok .seq (s.setG d 0)
    else
      (s.joinKey j).andThen fun key s =>
        (s.joinRead key 8).andThen fun bs s =>
          let old : Word := BitVec.ofNat 64 (ofBytes bs)
          let dec := fun (s : State) =>
            (s.joinWrite key (old - 1)).andThen fun _ s => Res.ok Flow.seq (s.setG d (old - 1))
          if old.toInt ≤ 0 then .trap (TrapI.mk3 16 1 j) s
          else if old ≠ 1 then dec s
          else
            (s.joinRead (key + 8) 32).andThen fun wbs s =>
              match s.waiter wbs with
              | none => .trap (TrapI.mk3 16 2 j) s
              | some r => (s.pushOr r).andThen fun f s => if f = .gone then .ok .gone s else dec s)

/-- The continuation on the tile ends and the control core is idle until a record starts (R199, R379). -/
def State.endCont (s : State) : State :=
  s.updMe (fun t => { t with cont := none, tcc := { t.tcc with waiting := false, arrived := false, pfx := none, pfxp := false } })

/-- HALT (R199). -/
def execHalt (s : State) : Out :=
  s.tileOnly (fun s => if s.cur.intrap then .trap trapIllegal s else .ok .gone s.endCont)

/-- YIELD (R196, R199). -/
def execYield (s : State) : Out :=
  s.tileOnly (fun s =>
    if s.cur.intrap then .trap trapIllegal s
    else match s.cur.succ with
      | none => .trap (noSucc s) s
      | some a => (s.pushOr (s.spawnRec a s.me.frm s.me.jca)).andThen fun _ s => .ok .gone s.endCont)

/-! ### LAUNCH -/

/-- Launch queue n. -/
def State.lqueue (s : State) (n : Nat) : LQueue := AMap.getD s.lqs n LQueue.reset

/-- Replaces launch queue n. -/
def State.setLqueue (s : State) (n : Nat) (q : LQueue) : State := { s with lqs := AMap.put s.lqs n q }

/-- EN, DEV and FW of LQCFG (Table 11.1), and the ring sizes. -/
def LQueue.en (q : LQueue) : Bool := bit q.cfg 0
/-- DEV. -/
def LQueue.dev (q : LQueue) : Bool := bit q.cfg 1
/-- FW. -/
def LQueue.fw (q : LQueue) : Bool := bit q.cfg 2
/-- Entries of the packet ring. -/
def LQueue.entries (q : LQueue) : Nat := 2 ^ fld q.cfg 11 8
/-- Records of the completion ring. -/
def LQueue.records (q : LQueue) : Nat := 2 ^ fld q.cfg 15 12

/-- The running continuation's region allows LAUNCH at P (R200, Table 11.5 DLA). -/
def State.mayLaunch (s : State) : Bool :=
  s.cur.atM || (match s.launchOf s.gid with
    | some l => (match l.regions[s.curRegion]? with
      | some r => r.dla
      | none => false)
    | none => false)

/-- LAUNCH (R200, R361). The Headstock writes the copy into the queue's ring, in whichever package that lies. -/
def execLaunch (d a b : Reg) (s : State) : Out :=
  s.tileOnly (fun s =>
    if !s.mayLaunch then .trap trapPrivilege s
    else
      let va := s.g a
      let n := s.g b
      if va.toNat % 64 ≠ 0 then .trap (TrapI.mk3 6 0 va) s
      else if 64 ≤ n.toNat then .trap (TrapI.mk3 5 0 n) s
      else if 2 ^ 57 ≤ va.toNat then .trap (TrapI.mk3 5 0 va) s
      else
        (s.cCheck va 128 false false).andThen fun ps s =>
          (s.cReads false ps).andThen fun bs s =>
            let q := s.lqueue n.toNat
            if !q.en ∨ !q.dev ∨ q.entries ≤ (q.tail - q.head).toNat then .ok .seq (s.setG d (~~~ 0))
            else
              let s := s.hsPut (q.base.toNat + 128 * (q.tail.toNat % q.entries)) bs
              let s := s.setLqueue n.toNat { q with tail := q.tail + 1 }
              .ok .seq (s.setG d ((q.tail + 1).zeroExtend 64)))

/-! ### Pairing objects -/

/-- An object ID breaks R202 (BADID of R204). -/
def badObj (id : Word) : Bool := decide (2 ^ 35 ≤ id.toNat) || decide (17 ≤ fld id 25 20)

/-- The dwell budget of an object packet: the region's effective PW, 0 from a management core (R415, R120). -/
def State.dwell (s : State) : Nat :=
  if s.onCore then 0
  else match s.launchOf s.gid with
    | some l => (match l.regions[s.curRegion]? with
      | some r => r.pw
      | none => 0)
    | none => 0

/-- An object operation: sends its packet, then waits for the answer (R203); `fin` takes EMPTY and the value. A home die that
is out of service is a remote error at once (R396). -/
def State.objOp (s : State) (typ : PktT) (id v : Word) (fin : Bool → Word → State → State) : Res Flow :=
  let c := s.cur
  match c.obj with
  | none =>
    if badObj id then .trap (TrapI.mk3 17 1 id) s
    else if fld id 34 26 = 0 && fld id 25 20 ≠ 0 && s.sockOut (fld id 25 20) then .trap (TrapI.mk3 35 1 id) s
    else
      let w := s.dwell
      let p := { Pkt.make typ 0 s.who id.toNat s.bedt with cnt := v.toNat, budget := w, dpkg := fld id 34 26,
                                                            router := if w = 0 then none else some s.gid }
      .wait ((s.updCur (fun c => { c with obj := some { rid := s.nextRid, ans := none, err := none } })).request p)
  | some o =>
    let done := fun (s : State) => s.updCur (fun c => { c with obj := none })
    match o.err, o.ans with
    | some (e, eff), _ =>
      if e = 10 ∨ e = 11 then .trap (TrapI.mk3 17 (e - 8) id) (done s)
      else .trap { (TrapI.mk3 35 e id) with effect := eff } (done s)
    | none, some (em, x) => .ok .seq (fin em x (done s))
    | none, none => .wait s

/-- QPUSH (R203). -/
def execQpush (a b : Reg) (s : State) : Out :=
  s.run false false (fun s => s.objOp .qpush (s.g a) (s.g b) (fun _ _ s => s))

/-- QPOP (R203): an answer that carries a value is an acquire (R205). -/
def execQpop (d : Reg) (pd : PReg) (a : Reg) (s : State) : Out :=
  s.run false false (fun s => s.objOp .qpop (s.g a) 0 (fun em x s =>
    let s := if em then s else s.l1Drop
    (s.setG d (if em then 0 else x)).setP pd em))

end Sys2Proof.Machine
end

