-- ==== Sys2Proof/Machine/Packets.lean ====
section
/-! DEFINITION. The packets inside the package and their answers (spec/12_fabric_pairing_resharding.md R393 to R419): what a
request does at its target, what an answer does at its issuer, ordered flags, pairing in the routers. -/

namespace Sys2Proof.Machine

/-! ### Answers -/

/-- Puts an answer in the place of its request; the answer to another package leaves by a Kwaup port. -/
def State.answer (s : State) (p : Pkt) : State :=
  if p.spkg = 0 then s.updPkt p.rid (fun _ => p)
  else
    let from_ := s.dstOf ((s.pkt? p.rid).getD p)
    let s := s.dropPkt p.rid
    (s.kwaup p from_ p.srct p.spkg p.frid).getD s

/-- An error answer. -/
def State.refuse (s : State) (p : Pkt) (code : Nat) (effect : Bool) : State := s.answer (p.refuse code effect)

/-- The path by which a packet reaches its target's storage, as `readHome` names it. -/
def Pkt.pathAt (p : Pkt) : Nat := if p.tcc || decide (p.spkg ≠ 0) then p.src.code else pathNo p.q

/-- A request that its target may serve now: of a type, for this package, neither refused nor held by a router. -/
def State.request? (s : State) (rid : Nat) (typ : PktT) : Option Pkt :=
  match s.pkt? rid with
  | none => none
  | some p => if p.typ = typ && decide (p.dpkg = 0) && !p.refused && p.router.isNone then some p else none

/-- Serves a request; nothing where there is none. -/
def State.serve (s : State) (rid : Nat) (typ : PktT) (f : Pkt → State) : Out :=
  match s.request? rid typ with
  | none => .next s
  | some p => .next (f p)

/-! ### Reads and writes (R393, R408, R409) -/

/-- The page by which a packet was sent has CMP = 1 (R321); false of another package's. -/
def Pkt.cmp (p : Pkt) : Bool :=
  match p.pin with
  | some e => bit e.ent 8
  | none => false

/-- A request at a target whose package it is not for: it is held while the window is a saved tile's (R443). -/
def State.misrouted (s : State) (p : Pkt) (pkg : Nat) : State := if pkg = 0 then s else s.refuse p 2 false

/-- The answer to a read of a home. -/
def State.rdHome (s : State) (p : Pkt) (key : Nat) : State :=
  let h := (s.blockRead p.cmp key p.len).readHome p.pathAt key p.len
  match h.bad with
  | some _ => h.s.refuse p 8 false
  | none => h.s.answer { p with typ := .rdr, data := h.bytes }

/-- PKT_RD. -/
def execPktRd (rid : Nat) (s : State) : Out :=
  s.serve rid .rd (fun p =>
    match s.place p.addr with
    | .hbm st off => s.rdHome p (Place.hbm st off).key
    | .tile g off =>
      if (s.tile g).offBad off p.len then s.refuse p 5 false
      else if (s.tile g).rowOpen off p.len then s
      else s.rdHome p (localKey g off)
    | .far k => s.misrouted p k
    | .out => s.refuse p 1 false
    | .reserved => s.refuse p 5 false)

/-- The write of a packet's bytes at its target: done, an error, or a wait for a row that is not final (R43) or a tile that is saved
(R443). -/
def State.writeAt (s : State) (p : Pkt) (bs : List Byte) (add : Bool) : TgtRes :=
  match s.place p.addr with
  | .hbm st off =>
    if add then .err 5 s
    else
      let key := (Place.hbm st off).key
      match s.writeHome key bs with
      | .error _ => .err 8 s
      | .ok s' => .ok (s'.blockWrite p.cmp key bs.length)
  | .tile g off => s.tileWrite p.pathAt g off bs add
  | .far k => if k = 0 then .wait else .err 2 s
  | .out => .err 1 s
  | .reserved => .err 5 s

/-- A write request applied and answered; one that is refused has no effect (R409). -/
def State.servedWrite (s : State) (p : Pkt) (add : Bool) : State :=
  match s.writeAt p p.data add with
  | .ok s' => s'.answer { p with typ := .wack }
  | .err c s' => s'.refuse p c false
  | .wait => s

/-- PKT_WR. -/
def execPktWr (rid : Nat) (s : State) : Out := s.serve rid .wr (fun p => s.servedWrite p false)

/-- PKT_ADDW (R282). -/
def execPktAddw (rid : Nat) (s : State) : Out := s.serve rid .addw (fun p => s.servedWrite p true)

/-! ### Atomics (R296) -/

/-- The new word of an atomic: none where nothing is written (R162). -/
def atomNew (aop : Nat) (o x e : Word) : Option Word :=
  match aop with
  | 0 => some (o + x)
  | 1 => some (if x.toInt < o.toInt then x else o)
  | 2 => some (if o.toInt < x.toInt then x else o)
  | 3 => some (if x.toNat < o.toNat then x else o)
  | 4 => some (if o.toNat < x.toNat then x else o)
  | 5 => some x
  | 6 => if o = e then some x else none
  | 7 => some (o &&& x)
  | 8 => some (o ||| x)
  | _ => some (o ^^^ x)

/-- The entries of an ATM packet from entry i on: the old values, or how many were applied before a bad word. -/
def State.atmEntries (s : State) (p : Pkt) (g off m : Nat) : (n i : Nat) → Except Nat (List Byte) × State
  | 0, _ => (.ok [], s)
  | n + 1, i =>
    let k := localKey g (off + 8 * leAt p.data (16 * i) 4)
    let h := s.readHome p.pathAt k 8
    match h.bad with
    | some _ => (.error i, h.s)
    | none =>
      let old : Word := BitVec.ofNat 64 (ofBytes h.bytes)
      let x : Word := BitVec.ofNat 64 (leAt p.data (16 * i + 8) 8)
      let e : Word := BitVec.ofNat 64 (leAt p.data (16 * m + 8 * i) 8)
      let s' := match atomNew p.aop old x e with
        | none => some h.s
        | some v => match h.s.writeHome k (leBytes 8 v.toNat) with
          | .ok s' => some s'
          | .error _ => none
      match s' with
      | none => (.error i, h.s)
      | some s' => match State.atmEntries s' p g off m n (i + 1) with
        | (.ok bs, s'') => (.ok (leBytes 8 old.toNat ++ bs), s'')
        | (.error j, s'') => (.error j, s'')

/-- PKT_ATM (R296, R409): every entry in order; an error says how many were applied. -/
def execPktAtm (rid : Nat) (s : State) : Out :=
  s.serve rid .atm (fun p =>
    let m := p.data.length / (if p.aop = 6 then 24 else 16)
    match s.place p.addr with
    | .tile g off =>
      let bad := (List.range m).any (fun i =>
        let o := off + 8 * leAt p.data (16 * i) 4
        decide (o < atomBase) || decide (atomEnd < o + 8))
      if bad then s.refuse p 5 false
      else if off % 8 ≠ 0 then s.refuse p 6 false
      else match s.atmEntries p g off m m 0 with
        | (.ok bs, s') => s'.answer { p with typ := .atmr, data := bs }
        | (.error n, s') => s'.refuse { p with cnt := n } 8 (decide (0 < n))
    | .hbm _ _ => s.refuse p 5 false
    | .far k => s.misrouted p k
    | .out => s.refuse p 1 false
    | .reserved => s.refuse p 5 false)

/-! ### Grouped puts and flags (R410 to R413) -/

/-- The source of a packet as arrival entries name it: package and tile. -/
def Pkt.srcKey (p : Pkt) : Nat :=
  match p.src with
  | .tile g => if p.spkg = 0 then g else p.spkg * 65536 + p.srct
  | .core _ => p.spkg * 65536 + p.srct
  | .reshard _ => p.spkg * 65536 + p.srct
  | .headstock => p.spkg * 65536 + p.srct

/-- An arrival entry is the one of a packet's key. -/
def Arrival.isOf (a : Arrival) (src grp epoch : Nat) : Bool :=
  decide (a.src = src) && decide (a.grp = grp) && decide (a.epoch = epoch)

/-- The answer HNAK; the request's type waits in `code`. -/
def State.hnak (s : State) (p : Pkt) : State := s.answer { p with typ := .hnak, code := p.typ.code }

/-- An arrival entry satisfies a flag stamped c (R411). -/
def Arrival.done (a : Arrival) (c : Nat) : Bool := decide (a.u = c) && decide (a.p = a.e)

/-- Writes a flag, frees its entries and answers it (R411); it stays as it is while a row there is not final (R43). -/
def State.writeFlag (s : State) (g : Nat) (p : Pkt) : State :=
  let u := s.updTile g (fun t => { t with
    held := t.held.filter (fun h => decide (h.rid ≠ p.rid)),
    arrivals := if p.cnt = 0 then t.arrivals
      else t.arrivals.filter (fun a => !a.isOf p.srcKey p.grp (p.epoch % 16)) })
  match u.writeAt p (p.data.take 8) false with
  | .ok s' => s'.answer { p with typ := .wack }
  | .err c s' => s'.refuse p c false
  | .wait => s

/-- Writes the flags that the arrival entry of a key satisfies. -/
def State.tryFlags (s : State) (g src grp epoch : Nat) : State :=
  let t := s.tile g
  match t.arrivals.find? (fun a => a.isOf src grp epoch) with
  | none => s
  | some a =>
    match t.held.find? (fun h => decide (h.src = src) && decide (h.grp = grp) && decide (h.epoch = epoch) && a.done h.cnt) with
    | none => s
    | some h => match (s.pkt? h.rid).filter (fun p => decide (p.typ = .flag)) with
      | some p => s.writeFlag g p
      | none =>
        s.updTile g (fun t => { t with held := t.held.filter (fun x => decide (x.rid ≠ h.rid)),
                                       arrivals := t.arrivals.filter (fun a => !a.isOf src grp epoch) })

/-- PKT_PUT (R410, R412). -/
def execPktPut (rid : Nat) (s : State) : Out :=
  s.serve rid .put (fun p =>
    match s.place p.addr with
    | .tile g _ =>
      let t := s.tile g
      let ep := p.epoch % 16
      let mine := fun (a : Arrival) => a.isOf p.srcKey p.grp ep
      if !t.arrivals.any mine && decide (256 ≤ t.arrivals.length) then s.hnak p
      else match s.writeAt p p.data p.add with
        | .wait => s
        | .err c s' => s'.refuse p c false
        | .ok s' =>
          let s' := s'.updTile g (fun t =>
            let l := if t.arrivals.any mine then t.arrivals
              else t.arrivals ++ [{ src := p.srcKey, grp := p.grp, epoch := ep, p := 0, e := 0, u := 0, own := p.own }]
            { t with arrivals := updWhere mine (fun a =>
                { a with p := a.p + 1, e := a.e + (if p.last then p.cnt else 0), u := a.u + b2n p.last, own := p.own }) l })
          (s'.answer { p with typ := .wack }).tryFlags g p.srcKey p.grp ep
    | .hbm _ _ => s.refuse p 5 false
    | .far k => s.misrouted p k
    | .out => s.refuse p 1 false
    | .reserved => s.refuse p 5 false)

/-- PKT_FLAG (R411, R412): written at once, held, or refused. -/
def execPktFlag (rid : Nat) (s : State) : Out :=
  s.serve rid .flag (fun p =>
    match s.place p.addr with
    | .tile g _ =>
      let t := s.tile g
      let ep := p.epoch % 16
      if p.cnt = 0 || t.arrivals.any (fun a => a.isOf p.srcKey p.grp ep && a.done p.cnt) then s.writeFlag g p
      else if t.held.any (fun h => decide (h.rid = rid)) then s
      else if 64 ≤ t.held.length then s.hnak p
      else s.updTile g (fun t => { t with held := t.held ++
        [{ src := p.srcKey, grp := p.grp, epoch := ep, cnt := p.cnt, pa := p.addr,
           val := BitVec.ofNat 64 (leAt p.data 0 8), rid := rid, own := p.own }] })
    | .hbm _ _ => s.refuse p 5 false
    | .far k => s.misrouted p k
    | .out => s.refuse p 1 false
    | .reserved => s.refuse p 5 false)

/-! ### Pairing objects (R203, R204, R414 to R419) -/

/-- The key of an object in the tables: NUM and home. -/
def objKey (id : Nat) : Nat := id % 2 ^ 26

/-- The class of an object: 0 POOL, 1 STACK, 2 FIFO (R414). -/
def objClass (id : Nat) : Nat := bitsN id 19 18

/-- Advances a package counter (R419, R485). -/
def State.pkgBump (s : State) (k : Nat) : State :=
  { s with trace := { s.trace with pkg := AMap.put s.trace.pkg k (AMap.getD s.trace.pkg k 0 + 1) } }

/-- FALLS of the home of an object. -/
def State.fall (s : State) (id : Nat) : State := s.pkgBump (512 + bitsN id 25 20)

/-- The object that an operation finds at its home: none where it has been deleted since the operation was sent (R414, R471). -/
def Pkt.object (p : Pkt) (s : State) : Option Obj := if p.objGone then none else AMap.find? s.objs (objKey p.addr)

/-- PKT_QPUSH_HOME: a push reaches its home. -/
def execPktQpushHome (rid : Nat) (s : State) : Out :=
  s.serve rid .qpush (fun p =>
    let s := s.fall p.addr
    match p.object s with
    | none => s.refuse p 10 false
    | some o =>
      if objClass p.addr = 3 then s.refuse p 10 false
      else if o.cap ≤ o.vals.length then s.refuse p 11 false
      else
        let o' := { o with vals := BitVec.ofNat 64 p.cnt :: o.vals }
        { s with objs := AMap.put s.objs (objKey p.addr) o' }.answer { p with typ := .qrsp, cnt := 0, flagBit := false })

/-- Which value a pop takes, as its place from the newest: STACK the newest, FIFO the oldest, POOL any one (R203; log
entry 14). -/
def popIndex (cls n free : Nat) : Nat := if cls = 1 then 0 else if cls = 2 then n - 1 else Config.poolPick free % n

/-- The word of the pool store that holds value number i of an object from the newest, as `BadWord.pa` names it. -/
def valueWord (o : Obj) (key i : Nat) : Nat := key * 2 ^ 24 + (o.vals.length - 1 - i)

/-- LOC of a word of the pool store: the spec gives no layout, so its block is open (log entries 17, site 20, and 99). -/
def storeBlock (id : Nat) : Word := BitVec.ofNat 64 (32 + (Config.unstated 20 [BitVec.ofNat 64 id]).toNat % 2 ^ 18)

/-- The value that a pop takes leaves the store: a word with flipped bits is logged, and those of later values stand one place nearer
the oldest (R448). True when ECC could not correct it. -/
def State.meetValue (s : State) (o : Obj) (key i : Nat) : Bool × State :=
  let at_ := valueWord o key i
  let here := s.bad.filter (fun w => decide (w.mark = Mark.value) && decide (w.pa = at_))
  let s := here.foldl (fun s w => s.logEvent 7 0 (storeBlock at_) (if w.corr then 1 else 2) w.inj 0x300) s
  let lost := here.any (fun w => !w.corr)
  if lost || s.bad.isEmpty then (lost, s)
  else (false, { s with bad := (s.bad.filter (fun w => !here.contains w)).map (fun w =>
    if w.mark = .value ∧ w.pa / 2 ^ 24 = key ∧ at_ < w.pa then { w with pa := w.pa - 1 } else w) })

/-- PKT_QPOP_HOME: a pop reaches its home. A value that cannot be corrected stays there, and the answer is MEM (R449). -/
def execPktQpopHome (rid : Nat) (s : State) : Out :=
  s.serve rid .qpop (fun p =>
    let s := s.fall p.addr
    match p.object s with
    | none => s.refuse p 10 false
    | some o =>
      if objClass p.addr = 3 then s.refuse p 10 false
      else
        let i := popIndex (objClass p.addr) o.vals.length s.free
        match o.vals[i]? with
        | none => s.answer { p with typ := .qrsp, cnt := 0, flagBit := true }
        | some v =>
          let (lost, s) := s.meetValue o (objKey p.addr) i
          if lost then s.refuse p 8 false
          else { s with objs := AMap.put s.objs (objKey p.addr) { o with vals := o.vals.eraseIdx i },
                        free := s.free + b2n (decide (objClass p.addr = 0)) }.answer
            { p with typ := .qrsp, cnt := v.toNat, flagBit := false })

/-- A packet crosses a router or is held in it: it has not left the package. -/
def Pkt.atRouter (p : Pkt) (r : Nat) : Bool :=
  match p.router with
  | some x => decide (x = r)
  | none => decide (p.dpkg = 0)

/-- The oldest complementary packet held in a router, ties to the lower source (R416). -/
def State.oldestHeld (s : State) (r : Nat) (typ : PktT) (addr : Nat) : Option Nat :=
  let c := s.net.filter (fun p => decide (p.router = some r) && decide (p.typ = typ) && decide (p.addr = addr))
  (c.foldl (fun (a : Option Pkt) p => match a with
    | none => some p
    | some x => if p.sent < x.sent ∨ (p.sent = x.sent ∧ p.srcKey < x.srcKey) then some p else a) none).map (fun p => p.rid)

/-- One packet may pair with another at a router: a held one only as the oldest. -/
def State.mayPair (s : State) (r : Nat) (p : Pkt) : Bool :=
  p.router.isNone || decide (s.oldestHeld r p.typ p.addr = some p.rid)

/-- ROUTER_PAIRING (R416, R417): a push and a pop of one POOL or STACK object meet in a router. -/
def execRouterPairing (router push pop : Nat) (s : State) : Out :=
  match s.pkt? push, s.pkt? pop with
  | some a, some b =>
    if a.typ = .qpush && b.typ = .qpop && decide (a.addr = b.addr) && decide (a.dpkg = b.dpkg) &&
        decide (objClass a.addr ≤ 1) && !a.objGone && !b.objGone && a.atRouter router && b.atRouter router &&
        s.mayPair router a && s.mayPair router b then
      let s := s.answer { a with typ := .qrsp, cnt := 0, flagBit := false, router := none, dpkg := 0 }
      let s := s.answer { b with typ := .qrsp, cnt := a.cnt, flagBit := false, router := none, dpkg := 0 }
      .next (s.pkgBump router)
    else .next s
  | some _, none => .next s
  | none, some _ => .next s
  | none, none => .next s

/-- DWELL_EXPIRE (R415): the budget of a held packet has run out, and it goes on to its home. -/
def execDwellExpire (rid : Nat) (s : State) : Out :=
  match s.pkt? rid with
  | none => .next s
  | some p =>
    if p.router.isNone || decide (s.bedt.toNat < p.sent.toNat + p.budget) then .next s
    else
      let p' := { p with router := none }
      let s := s.updPkt rid (fun _ => p')
      .next (if p.dpkg = 0 then s else s.depart p')

/-! ### Arrivals at barriers, reserved types -/

/-- The arrival of a tile at a barrier (R180, R181), served by the Headstock. -/
def State.barArrival (s : State) (p : Pkt) : State :=
  let s := s.dropPkt p.rid
  match p.src, AMap.find? s.launches p.addr with
  | .tile g, some l => match AMap.find? l.bars p.cnt with
    | some b =>
      let l' := { l with bars := AMap.put l.bars p.cnt { b with arrived := b.arrived ++ [(g, p.scope)] } }
      let s := { s with launches := AMap.put s.launches p.addr l' }
      s.release p.addr p.cnt
    | none => s
  | _, _ => s

/-- PKT_RESERVED_TYPE (Table 12.3): the packet is discarded, and the bed error log records it, with a LOC and KIND that
the spec does not give (log entry 17, sites 6 and 7). -/
def execPktReservedType (rid : Nat) (s : State) : Out :=
  match s.pkt? rid with
  | none => .next s
  | some p =>
    if p.typ ≠ .reserved then .next s
    else
      let w := BitVec.ofNat 64 p.addr
      .next ((s.dropPkt rid).logEvent 5 0 (Config.unstated 6 [w]) (Config.unstated 7 [w]).toNat false p.src.code)

/-! ### Answers at the issuer -/

/-- The answer of a type to a request of this package. -/
def State.answer? (s : State) (rid : Nat) (typ : PktT) : Option Pkt :=
  match s.pkt? rid with
  | none => none
  | some p => if p.typ = typ && decide (p.spkg = 0) then some p else none

/-- Takes an answer; nothing where there is none. -/
def State.take (s : State) (rid : Nat) (typ : PktT) (f : Pkt → State → State) : Out :=
  match s.answer? rid typ with
  | none => .next s
  | some p => .next (f p (s.dropPkt rid))

/-- Changes the outstanding access of a request identifier. -/
def setFar (rid : Nat) (f : FarReq → FarReq) (l : List FarReq) : List FarReq := updWhere (fun r => decide (r.rid = rid)) f l

/-- The answer to an access or a fetch of a control core. -/
def Tcc.answered (c : Tcc) (rid : Nat) (f : FarReq → FarReq) : Tcc := { c with far := setFar rid f c.far, ffar := setFar rid f c.ffar }

/-- Re-sharding engine n. -/
def State.rs (s : State) (n : Nat) : Reshard := if n = 0 then s.reshard0 else s.reshard1

/-- Replaces re-sharding engine n. -/
def State.setRs (s : State) (n : Nat) (r : Reshard) : State :=
  if n = 0 then { s with reshard0 := r } else { s with reshard1 := r }

/-- Records the answer at the instruction or command that waits for it. -/
def State.farAnswer (s : State) (p : Pkt) (f : FarReq → FarReq) : State :=
  match p.src with
  | .reshard n => s.setRs n { s.rs n with far := setFar p.rid f (s.rs n).far }
  | .core n => s.setTcc (.core n) ((s.tccOf (.core n)).answered p.rid f)
  | .tile g =>
    if p.tcc then s.setTcc (.tile g) ((s.tccOf (.tile g)).answered p.rid f)
    else s.updEntry g p.q p.isn (fun e => { e with far := setFar p.rid f e.far })
  | .headstock => { s with hfar := setFar p.rid f s.hfar }

/-- PKT_RDR_ANSWER. -/
def execPktRdrAnswer (rid : Nat) (s : State) : Out :=
  s.take rid .rdr (fun p s => s.farAnswer p (fun r => { r with ans := some p.data }))

/-- A write of a command has been applied: later errors of the command report it (R279). -/
def State.applied (s : State) (p : Pkt) : State :=
  match p.src with
  | .tile g =>
    if p.tcc then s else s.noteEff g p.q p.isn
  | .core _ => s
  | .reshard _ => s
  | .headstock => s

/-- An acknowledged packet of a put: the put is acknowledged with the last of its packets, a flag alone (R291, R410). -/
def State.putAck (s : State) (g : Nat) (p : Pkt) : State :=
  if !p.counts then s
  else if p.budget = 0 then
    s.updTile g (fun t =>
      let x := t.group p.grp
      (t.acked p.path).setGroup p.grp { x with pend := x.pend.filter (fun n => decide (n ≠ p.epoch)) })
  else if s.putSending g p.path p.budget || s.putInFlight g p.path p.budget then s
  else s.updTile g (fun t => t.acked p.path)

/-- PKT_WACK_ANSWER. A command's last acknowledgement may end a batch (R188). -/
def execPktWackAnswer (rid : Nat) (s : State) : Out :=
  s.take rid .wack (fun p s =>
    let s := (s.farAnswer p (fun r => { r with ans := some [] })).applied p
    match p.src with
    | .tile g => if p.tcc then s else (s.putAck g p).batchSettle g
    | .core _ => s
    | .reshard _ => s
    | .headstock => s)

/-- The old values of an ATM packet of CBAT, stored where the command wants them (R296) unless it has been discarded (R435); none while
a row there is not final (R43). -/
def State.atmStore (s : State) (g : Nat) (p : Pkt) : Option State :=
  let done := fun (s : State) => s.farAnswer p (fun r => { r with ans := some [] })
  match (((s.tile g).queue p.q).entry p.isn).filter (fun e => decide (e.st ≠ .done)) with
  | none => some s
  | some e =>
    if p.flagBit then some (done s)
    else match s.lWrite g p.q p.dst p.data with
      | .ok _ s' => some (done s')
      | .wait _ => none
      | .trap t s' => some (s'.engineFault g p.q e t)

/-- PKT_ATMR_ANSWER: the old values go to the command (R296), or to the core that waits. -/
def execPktAtmrAnswer (rid : Nat) (s : State) : Out :=
  match s.answer? rid .atmr with
  | none => .next s
  | some p =>
    let s' := (s.dropPkt rid).applied p
    match p.src with
    | .tile g =>
      if p.tcc then .next (s'.farAnswer p (fun r => { r with ans := some p.data }))
      else .next (match s'.atmStore g p with
        | some u => u.batchSettle g
        | none => s)
    | .core _ => .next (s'.farAnswer p (fun r => { r with ans := some p.data }))
    | .reshard _ => .next s'
    | .headstock => .next s'

/-- Changes the outstanding object operation of a core. -/
def State.objAnswer (s : State) (p : Pkt) (f : ObjWait → ObjWait) : State :=
  let c := s.tccOf p.src
  s.setTcc p.src { c with obj := c.obj.map (fun o => if o.rid = p.rid then f o else o) }

/-- PKT_QRSP_ANSWER. -/
def execPktQrspAnswer (rid : Nat) (s : State) : Out :=
  s.take rid .qrsp (fun p s => s.objAnswer p (fun o => { o with ans := some (p.flagBit, BitVec.ofNat 64 p.cnt) }))

/-- A remote error of a command ends its fault domain, whether or not the command still stands in its queue (R279). -/
def State.remoteEnd (s : State) (g : Nat) (p : Pkt) : State :=
  match (s.tile g).bound with
  | none => s
  | some k => match AMap.find? s.launches k with
    | none => s
    | some l =>
      let dom := l.domOf p.region
      let ended := match l.regions[dom]? with
        | some r => r.ended
        | none => true
      if ended then s
      else s.endDomain k dom { ErrRec.ofType 1 with cause := 35, sub := p.code, loc := whereTile g,
                                                    flg := b2n (p.flagBit || p.eff || s.effOf g p.q p.isn) +
                                                      s.injFlag (TrapI.mk3 35 p.code (BitVec.ofNat 64 p.addr)), info := p.addr, cmd := p.cmd.toNat,
                                                    pc := p.isn.toNat % 2 ^ 32 }

/-- What the Headstock has sent for a launch has failed: an inner operator is not launched, its outer task is lost (R357); a write of C, of
the drain word or of a task record ends the domain that it was made for (R352, R342). -/
def State.hsFailed (s : State) (p : Pkt) : State :=
  match p.launch with
  | none => s
  | some k =>
    if p.cnt = 2 then
      let r := leAt p.data 128 1
      match AMap.find? s.oprs r with
      | none => s
      | some o => { s with oprs := AMap.put s.oprs r { o with gone := o.gone ||| 2 ^ leAt p.data 129 1 } }
    else
      let t := TrapI.mk3 35 p.code (BitVec.ofNat 64 p.addr)
      s.endDomain k p.region { ErrRec.ofType 1 with cause := t.cause, sub := t.sub, info := t.info.toNat, flg := s.injFlag t }

/-- PKT_ERR_ANSWER (R279, R408): a remote error of the command or the instruction, or an object fault (R204). -/
def execPktErrAnswer (rid : Nat) (s : State) : Out :=
  s.take rid .err (fun p s =>
    let far := s.farAnswer p (fun r => { r with err := some (p.code, p.flagBit) })
    match p.src with
    | .tile g => if p.tcc then far.objAnswer p (fun o => { o with err := some (p.code, p.flagBit) }) else s.remoteEnd g p
    | .core _ => far.objAnswer p (fun o => { o with err := some (p.code, p.flagBit) })
    | .reshard _ => far
    | .headstock => far.hsFailed p)

/-- The fault domain that sent a packet has ended, or its launch is gone (R413). -/
def State.senderEnded (s : State) (p : Pkt) : Bool :=
  match p.own with
  | none => false
  | some (k, r) => match AMap.find? s.launches k with
    | none => true
    | some l => match l.regions[r]? with
      | some x => x.ended
      | none => false

/-- PKT_HNAK_ANSWER (R412): the packet is to be resent. -/
def execPktHnakAnswer (rid : Nat) (s : State) : Out :=
  match s.answer? rid .hnak with
  | none => .next s
  | some p => .next (if s.senderEnded p then s.dropPkt rid
      else s.updPkt rid (fun _ => { p with typ := PktT.ofCode p.code, code := 0, refused := true, resent := s.bedt }))

/-- FTMO of the die that made a request (Table 12.6): BTO and KTO in µs. -/
def State.limits (s : State) (a : Agent) : Nat × Nat :=
  let die := match a with
    | .tile g => g / 16 + 1
    | .core _ => 0
    | .reshard _ => 0
    | .headstock => 0
  let v := AMap.getD s.ftmo die (BitVec.ofNat 64 (50 + 200 * 65536))
  (fld v 15 0, fld v 31 16)

/-- HNAK_RESEND (R412): every 1 µs of bed time; for longer than KTO it ends in HOLD. -/
def execHnakResend (rid : Nat) (s : State) : Out :=
  match s.pkt? rid with
  | none => .next s
  | some p =>
    if !p.refused || decide (s.bedt.toNat < p.resent.toNat + 2000) then .next s
    else if (s.limits p.src).2 * 2000 < s.bedt.toNat - p.sent.toNat then
      .next (s.updPkt rid (fun x => { x.refuse 12 false with refused := false }))
    else
      let p' := { p with refused := false, resent := s.bedt }
      let s := s.updPkt rid (fun _ => p')
      .next (if p.dpkg = 0 then s else s.depart p')

/-- REMOTE_TIMEOUT (R407): a request without an answer at its limit is answered with TIMEOUT. -/
def execRemoteTimeout (rid : Nat) (s : State) : Out :=
  match s.pkt? rid with
  | none => .next s
  | some p =>
    let lim := if p.dpkg = 0 then (s.limits p.src).1 else (s.limits p.src).2
    if p.typ.isAnswer || p.refused || decide (p.spkg ≠ 0) || (decide (p.typ = .ctrl) && decide (p.dpkg = 0)) ||
        decide (s.bedt.toNat < p.resent.toNat + lim * 2000) then .next s
    else .next (s.updPkt rid (fun x => { x.refuse 4 x.typ.effects with router := none, dpkg := 0 }))

end Sys2Proof.Machine
end

