-- ==== Sys2Proof/Machine/HsOps.lean ====
section
/-! DEFINITION. The Headstock's shared operations (spec/11_regions_launch_scheduling.md): completion records (R385, R386), the domain mesh and the symmetries (R372, R373), the state of a tile at launch entry
(R54, R364), slot tables (R374, R397, R398), pools (R378 to R381) and the release of a rectangle (R387). -/

namespace Sys2Proof.Machine

/-! ### Completion records (R385, R386) -/

/-- A completion record without its TRUN and PHASE, which its write puts in (Table 11.8). -/
def completionBytes (launchId seq status detail ost nerr ndom : Nat) : List Byte :=
  leBytes 4 launchId ++ leBytes 4 seq ++ leBytes 1 status ++ leBytes 1 detail ++ leBytes 1 ost ++ leBytes 1 0 ++
  leBytes 4 nerr ++ leBytes 8 0 ++ leBytes 4 ndom ++ leBytes 3 0

/-- Writes one record of a launch that was read at a time into a queue's completion ring, with MSI-X vector n (R472). -/
def State.putRecord (s : State) (n : Nat) (r : List Byte) (readAt : Nat) : State :=
  let q := s.lqueue n
  let c := q.crtail.toNat
  let phase := 1 - c / q.records % 2
  let bs := slice r 0 16 ++ leBytes 8 (s.ns - readAt) ++ slice r 24 7 ++ leBytes 1 (phase * 128)
  let s := s.hsPut (q.crbase.toNat + 32 * (c % q.records)) bs
  (s.setLqueue n { s.lqueue n with crtail := q.crtail + 1 }).msix n

/-- A completion ring has no room (R386). -/
def LQueue.ringFull (q : LQueue) : Bool := decide (q.records ≤ (q.crtail - q.crhead).toNat)

/-- Writes a record, or keeps it in the Headstock until the ring has room. -/
def State.sendCompletion (s : State) (n : Nat) (r : List Byte) (readAt : Nat) : State :=
  let q := s.lqueue n
  if q.ringFull || !q.waiting.isEmpty then s.setLqueue n { q with waiting := q.waiting ++ [(r, readAt)] } else s.putRecord n r readAt

/-- Writes the records that wait, oldest first, while there is room. -/
def State.flushRecords (s : State) (n : Nat) : (fuel : Nat) → State
  | 0 => s
  | f + 1 =>
    let q := s.lqueue n
    match q.waiting with
    | [] => s
    | r :: rest =>
      if q.ringFull then s
      else State.flushRecords ((s.setLqueue n { q with waiting := rest }).putRecord n r.1 r.2) n f

/-! ### Mesh and symmetries (R372, R373) -/

/-- Mesh position of the package (R372). -/
def State.meshAt (s : State) : Nat × Nat :=
  match s.fw.cfg with
  | some c => (c.px, c.py)
  | none => (0, 0)

/-- Position of a tile within its package's 16 × 16 mesh. -/
def tileXY (g : Nat) : Nat × Nat := (4 * (g / 16 % 4) + g % 4, 4 * (g / 64) + g % 16 / 4)

/-- The tile at a position within the package. -/
def tileAt (x y : Nat) : Option Nat :=
  if x < 16 ∧ y < 16 then some ((y / 4 * 4 + x / 4) * 16 + y % 4 * 4 + x % 4) else none

/-- A symmetry exchanges width and height (Table 11.7). -/
def swaps (sym : Nat) : Bool := sym = 1 || sym = 3 || sym = 6 || sym = 7

/-- (u, v) of a logical position (Table 11.7). -/
def uv (sym w h x y : Nat) : Nat × Nat :=
  match sym with
  | 0 => (x, y)
  | 1 => (h - 1 - y, x)
  | 2 => (w - 1 - x, h - 1 - y)
  | 3 => (y, w - 1 - x)
  | 4 => (w - 1 - x, y)
  | 5 => (x, h - 1 - y)
  | 6 => (y, x)
  | _ => (h - 1 - y, w - 1 - x)

/-- The physical extent of a rectangle. -/
def extent (sym w h : Nat) : Nat × Nat := if swaps sym then (h, w) else (w, h)

/-- The tiles of a binding in LTN order, for an origin within the package; nothing where the rectangle leaves it. -/
def bindingTiles (sym w h ox oy : Nat) : Option (List Nat) :=
  let (ew, eh) := extent sym w h
  if 16 < ox + ew ∨ 16 < oy + eh then none
  else some ((List.range h).flatMap (fun y => (List.range w).filterMap (fun x =>
    let (u, v) := uv sym w h x y
    tileAt (ox + u) (oy + v))))

/-- A tile's cluster runs a test slice (R444). -/
def State.inSlice (s : State) (g : Nat) : Bool := s.launches.any (fun e => e.2.slices.any (fun c => decide (c.1 = g / 4)))

/-- A lathe die takes no more tasks and claims: a lasting fault has excluded it and its launches have ended, or it is out of
service (Table 13.7, R464). -/
def State.dieExcluded (s : State) (die : Nat) : Bool :=
  s.sockOut die || (s.diesOut.contains die &&
  !s.launches.any (fun e => decide (e.2.st ≠ .done) && e.2.tiles.any (fun g => decide (g / 16 + 1 = die))))

/-- A tile may be claimed (R372). -/
def State.claimable (s : State) (needmx : Bool) (g : Nat) : Bool :=
  let t := s.tile g
  !t.oos && t.bound.isNone && !s.dieExcluded (g / 16 + 1) && !s.inSlice g &&
  !(needmx && decide (fld t.mcapNext 7 0 = 0))

/-- FIXED and NEEDMX of a packet. -/
def Packet.fixed (p : Packet) : Bool := bitsN p.kind 7 7 = 1
/-- NEEDMX. -/
def Packet.needmx (p : Packet) : Bool := bitsN p.kind 5 5 = 1
/-- ROOTM. -/
def Packet.rootm (p : Packet) : Bool := bitsN p.kind 4 4 = 1
/-- ZSAVE. -/
def Packet.zsave (p : Packet) : Bool := bitsN p.kind 6 6 = 1
/-- KIND 1: a coded operator. -/
def Packet.coded (p : Packet) : Bool := decide (p.kind % 16 = 1)

/-- The binding of a packet at an origin (domain mesh) and symmetry, if it can be claimed. -/
def State.fitAt (s : State) (p : Packet) (ox oy sym : Nat) : Option (List Nat) :=
  let (px, py) := s.meshAt
  if ox < 16 * px ∨ oy < 16 * py then none
  else match bindingTiles sym p.w p.h (ox - 16 * px) (oy - 16 * py) with
    | none => none
    | some ts => if ts.all (s.claimable p.needmx) then some ts else none

/-- The symmetries that a packet allows, ascending. -/
def Packet.syms (p : Packet) : List Nat := (List.range 8).filter (fun i => p.sym / 2 ^ i % 2 = 1)

/-- The first fit among origins and symmetries (R372): origin, symmetry, tiles. -/
def State.firstFit (s : State) (p : Packet) (origins : List (Nat × Nat)) : Option (Nat × Nat × Nat × List Nat) :=
  origins.findSome? (fun o => p.syms.findSome? (fun g =>
    (s.fitAt p o.1 o.2 g).map (fun ts => (o.1, o.2, g, ts))))

/-- The origins that are tried for a packet, in raster order. -/
def State.origins (s : State) (p : Packet) : List (Nat × Nat) :=
  let (px, py) := s.meshAt
  if p.fixed then [(p.ox, p.oy)]
  else (List.range 16).flatMap (fun y => (List.range 16).map (fun x => (16 * px + x, 16 * py + y)))

/-! ### Launch entry (R54, R364) -/

/-- An empty queue at launch entry for a TCFG. -/
def entryQueue (tcfg : Word) (q : Q) : Queue := Queue.empty (ringBase tcfg q)

/-- The registers of a tile at launch entry: Table 1.10, R364, EBASE (R433). What no launch can see is kept: counters, the
error-injection pair, the service state. `out` holds the MXE's retired rows and columns. -/
def Tile.entered (t : Tile) (key n seq : Nat) (p : Packet) (ebase : CodeAddr) (out : List Nat) : Tile :=
  let tcc := { Tcc.reset with atM := false, spillb := p.spbase + BitVec.ofNat 64 (n * p.spstr), inj := t.tcc.inj,
                              trap := { Tcc.reset.trap with ebase := ebase.zeroExtend 64 } }
  { Tile.reset with
    tcc := tcc, bound := some key, ltn := n, lrect := BitVec.ofNat 64 (p.h * 65536 + p.w),
    lid := BitVec.ofNat 64 (seq * 2 ^ 32 + p.launchId), tcfg := p.tcfgv, seqw := BitVec.ofNat 64 p.seqw,
    seed := BitVec.ofNat 32 (p.seedb + n), mcap := t.mcapNext, mcapNext := t.mcapNext, linesOut := out, counters := t.counters,
    oos := t.oos, oosLater := t.oosLater, lq := entryQueue p.tcfgv .l, xq := entryQueue p.tcfgv .x,
    sq := entryQueue p.tcfgv .s, fresh := true }

/-- Brings one tile to its state at launch entry; its memories become zero (R54). -/
def State.enterTile (s : State) (key n seq : Nat) (p : Packet) (g : Nat) : State :=
  let b := tileBase g
  let out := s.retired.filterMap (fun x => if x.1 = logKey 2 g then some x.2 else none)
  { s.setTile g ((s.tile g).entered key n seq p s.fw.trapEntry out) with
    mem := s.mem.clear b (2 ^ 24), bad := s.bad.filter (fun w => !w.hits b (2 ^ 24) && !w.ofTile g) }

/-- Brings a list of tiles to launch entry, in LTN order from n on. -/
def State.enterTiles (s : State) (key seq : Nat) (p : Packet) : (n : Nat) → List Nat → State
  | _, [] => s
  | n, g :: r => State.enterTiles (s.enterTile key n seq p g) key seq p (n + 1) r

/-! ### Slot tables (R374, R397, R398) -/

/-- Entry i of tile n's table in an image. -/
def slotEntry (img : List Byte) (n i : Nat) : Nat := leAt img (3072 * n + 8 * i) 8

/-- Word c of tile n's circuit map. -/
def slotMap (img : List Byte) (n c : Nat) : Nat := leAt img (3072 * n + 2048 + 4 * c) 4

/-- The field of an output port (0 LOC, 1 N, 2 E, 3 S, 4 W). -/
def slotField (e port : Nat) : Nat := bitsN e (12 * port + 11) (12 * port)

/-- The opposite port. -/
def oppPort (p : Nat) : Nat := match p with
  | 1 => 3 | 2 => 4 | 3 => 1 | 4 => 2 | _ => 0

/-- The logical neighbour of tile n on a port, within the rectangle. -/
def slotNeighbour (w h n port : Nat) : Option Nat :=
  let x := n % w
  let y := n / w
  match port with
  | 1 => if y = 0 then none else some (n - w)
  | 2 => if x + 1 = w then none else some (n + 1)
  | 3 => if y + 1 = h then none else some (n + w)
  | 4 => if x = 0 then none else some (n - 1)
  | _ => none

/-- Every way that a circuit takes from tile n, which it enters by a port in a slot, ends at LOC of one tile (R398). -/
def circuitLands (img : List Byte) (w h i cid dst : Nat) : (fuel : Nat) → (n inp : Nat) → Bool
  | 0, _, _ => false
  | f + 1, n, inp =>
    let outs := (List.range 5).filter (fun p => decide (slotField (slotEntry img n i) p = 2048 + inp * 256 + cid))
    !outs.isEmpty && outs.all (fun p =>
      if p = 0 then decide (n = dst)
      else match slotNeighbour w h n p with
        | none => false
        | some m => circuitLands img w h i cid dst f m (oppPort p))

/-- One output field of one entry stands by R374, R397 and R398. -/
def slotFieldOk (img : List Byte) (w h n i port : Nat) : Bool :=
  let f := slotField (slotEntry img n i) port
  let inp := bitsN f 10 8
  let cid := f % 256
  if f < 2048 then f = 0
  else if 4 < inp ∨ inp = port then false
  else
    let fed := if inp = 0 then true else match slotNeighbour w h n inp with
      | none => false
      | some m =>
        let g := slotField (slotEntry img m i) (oppPort inp)
        decide (2048 ≤ g) && decide (g % 256 = cid)
    let leaves := port ≠ 0 && (slotNeighbour w h n port).isNone
    let lands := if inp ≠ 0 then true else
      let m := slotMap img n cid
      match slotNeighbour w h n port with
      | none => false
      | some k => decide (2 ^ 31 ≤ m) && circuitLands img w h i cid (m % 2 ^ 24) (w * h + 1) k (oppPort port)
    fed && !leaves && lands

/-- A slot-table image passes every check of R374. -/
def slotsOk (img : List Byte) (w h : Nat) : Bool :=
  (List.range (w * h)).all (fun n =>
    (List.range 256).all (fun i => decide (slotEntry img n i < 2 ^ 60) && (List.range 5).all (slotFieldOk img w h n i)) &&
    (List.range 256).all (fun c => bitsN (slotMap img n c) 30 24 = 0))

/-- The physical port that a logical port becomes under a symmetry (R374). -/
def physPort (sym p : Nat) : Nat :=
  let dir : Int × Int := match p with
    | 1 => (0, -1) | 2 => (1, 0) | 3 => (0, 1) | 4 => (-1, 0) | _ => (0, 0)
  let (x, y) := dir
  let d : Int × Int := match sym with
    | 0 => (x, y) | 1 => (-y, x) | 2 => (-x, -y) | 3 => (y, -x) | 4 => (-x, y) | 5 => (x, -y) | 6 => (y, x) | _ => (-y, -x)
  if d = (0, -1) then 1 else if d = (1, 0) then 2 else if d = (0, 1) then 3 else if d = (-1, 0) then 4 else 0

/-- An entry with its directions mapped. -/
def physEntry (sym e : Nat) : Nat :=
  ((List.range 5).map (fun p =>
    let f := slotField e p
    let f' := if f < 2048 then f else 2048 + physPort sym (bitsN f 10 8) * 256 + f % 256
    f' * 2 ^ (12 * physPort sym p))).sum

/-- Loads the tables of a rectangle's routers; all OPEN without an image. -/
def State.loadSlots (s : State) (sym : Nat) (img : List Byte) (tiles : List Nat) : State :=
  { s with slotTabs := ((List.range tiles.length).zip tiles).foldl (fun m p =>
      if img.isEmpty then AMap.del m p.2
      else AMap.put m p.2 ((List.range 256).map (fun i => BitVec.ofNat 64 (physEntry sym (slotEntry img p.1 i))))) s.slotTabs }

/-! ### Priority and pools (R371, R379 to R381) -/

/-- The launch that a packet's AFTER waits for is short of DONE: its sequence number has not been read, or its launch or
its posted validation stands (R370). -/
def State.afterBusy (s : State) (p : Packet) : Bool :=
  p.av &&
  (let q := s.lqueue p.afterQ
   decide (2 ^ 31 ≤ (q.head - BitVec.ofNat 32 p.afterSeq).toNat) ||
   s.launches.any (fun e => decide (e.2.queue = p.afterQ) && decide (e.2.seq = p.afterSeq) && e.2.task.isNone &&
     decide (e.2.st ≠ .done)) ||
   (decide (q.head.toNat = p.afterSeq) && s.mbox.reqs.any (fun r => decide (r.fn = 1) && decide (r.about = p.afterQ))))

/-- Base launch priority: PRI of region 0. -/
def Launch.pri (l : Launch) : Nat :=
  match l.regions with
  | r :: _ => r.pri
  | [] => 0

/-- The packets held in WAIT by AFTER naming a launch (R381). -/
def State.donors (s : State) (l : Launch) : List Nat :=
  (s.launches.filter (fun e => decide (e.2.st = .wait) && e.2.pkt.av && decide (e.2.pkt.afterQ = l.queue) &&
    decide (e.2.pkt.afterSeq = l.seq) && s.afterBusy e.2.pkt)).map (fun e => e.1)

/-- Effective launch priority with donation along chains (R371, R381). -/
def State.effPri (s : State) : (fuel : Nat) → (k : Nat) → Nat
  | 0, _ => 0
  | f + 1, k => match AMap.find? s.launches k with
    | none => 0
    | some l => (s.donors l).foldl (fun a d => Nat.max a (Nat.min (State.effPri s f d) 6)) l.pri

/-- The level that donation lends to a launch's pools: at least the donors' priorities. -/
def State.donated (s : State) (k : Nat) : Nat :=
  match AMap.find? s.launches k with
  | none => 0
  | some l => (s.donors l).foldl (fun a d => Nat.max a (Nat.min (s.effPri s.launches.length d) 6)) 0

/-- A tile lies in a region's effective rectangle. -/
def Launch.inRect (l : Launch) (r : Region) (ltn : Nat) : Bool :=
  let x := ltn % Nat.max 1 l.pkt.w
  let y := ltn / Nat.max 1 l.pkt.w
  decide (r.x0 ≤ x) && decide (x < r.x0 + r.rw) && decide (r.y0 ≤ y) && decide (y < r.y0 + r.rh)

/-- Continuations of a region that run now. -/
def State.running (s : State) (l : Launch) (region : Nat) : Nat :=
  (l.tiles.filter (fun g => match (s.tile g).cont with
    | some c => decide (c.region = region)
    | none => false)).length

/-- A pool may give a record to a tile (R379). -/
def State.poolCand (s : State) (l : Launch) (g : Nat) (p : Pool) : Bool :=
  !p.recs.isEmpty && (match l.regions[p.region]? with
    | none => false
    | some r => l.inRect r (s.tile g).ltn && (r.tmax = 0 || decide (s.running l p.region < r.tmax)))

/-- Effective level of a pool of a launch. -/
def poolLevel (don : Nat) (p : Pool) : Nat := Nat.max p.level don

/-- Pool a is chosen before pool b: level, then the oldest record, region, base priority (R379). -/
def poolBefore (don : Nat) (a b : Pool) : Bool :=
  let ta := (a.recs.headD ({ code := 0, img := 0, frame := 0, jca := 0, region := 0, pri := 0 }, 0)).2.toNat
  let tb := (b.recs.headD ({ code := 0, img := 0, frame := 0, jca := 0, region := 0, pri := 0 }, 0)).2.toNat
  if poolLevel don a ≠ poolLevel don b then decide (poolLevel don b < poolLevel don a)
  else if ta ≠ tb then decide (ta < tb)
  else if a.region ≠ b.region then decide (a.region < b.region)
  else decide (a.pri < b.pri)

/-- The pool from which a tile would take a record. -/
def State.choosePool (s : State) (k g : Nat) : Option Pool :=
  match AMap.find? s.launches k with
  | none => none
  | some l =>
    let don := s.donated k
    (l.pools.filter (s.poolCand l g)).foldl (fun (a : Option Pool) p => match a with
      | none => some p
      | some x => if poolBefore don p x then some p else a) none

/-- Starts a continuation record on a tile (R55), at a level, without asking the governor. -/
def State.placeRec (s : State) (k g : Nat) (r : Rec) (level : Nat) : State :=
  match AMap.find? s.launches k with
  | none => s
  | some l =>
    let s := s.updTile g (fun t =>
      let regs : Vector Word 32 := ((((Vector.replicate 32 (0 : Word)).set 1 r.frame).set 2 r.jca).set 3 (BitVec.ofNat 64 t.ltn))
      let c := { t.tcc with regs := regs, preds := 0, pc := r.code, img := r.img, lined := false, pfx := none, pfxp := false,
                            loop0 := { t.tcc.loop0 with lc := 0 }, loop1 := { t.tcc.loop1 with lc := 0 }, ras := [],
                            rsc := 0, rsp := t.tcc.spillb, atM := false, arrived := false, waiting := false }
      { t with tcc := c, cont := some { launch := k, img := r.img, region := r.region },
               frm := r.frame, jca := r.jca, rcba := l.pkt.rtva + BitVec.ofNat 64 (256 * r.region),
               cpri := BitVec.ofNat 64 (level + r.pri * 8), l1 := [] })
    let regs := l.regions.modify r.region (fun x => if x.started.isNone then { x with started := some s.ns } else x)
    { s with launches := AMap.put s.launches k { l with regions := regs } }

/-- Starts a record on an idle tile; the tile's first instruction of a launch is a tile start (R459). -/
def State.startRec (s : State) (k g : Nat) (r : Rec) (level : Nat) : State :=
  let first := (s.tile g).fresh
  let s := (s.updTile g (fun t => { t with fresh := false })).placeRec k g r level
  if first then s.requestStarts true [g] else s

/-- The tile starts of one launch entry, one event for the governor (R375, R459). Pinned starts of more than GS tiles end their
domain, and none of its tiles executes (R461). -/
def State.enterStarts (s : State) (gs : List Nat) : State :=
  let pins := gs.filter s.pinned
  if s.gov.gs < pins.length then
    (pins.filterMap s.domainOf).foldl State.endRamp (s.requestStarts true (gs.filter (fun g => !pins.contains g)))
  else s.requestStarts true gs

/-- Starts records on many tiles at a launch entry. -/
def State.startAll (s : State) (k : Nat) (rs : List (Nat × Rec)) (level : Nat) : State :=
  (rs.foldl (fun s p => (s.updTile p.1 (fun t => { t with fresh := false })).placeRec k p.1 p.2 level) s).enterStarts (rs.map (fun p => p.1))

/-! ### Release (R387, R413) -/

/-- Returns the segments of a tile's queues to its die. -/
def State.freeTileSegs (s : State) (g : Nat) : State :=
  let t := s.tile g
  let segs := (t.lq.segs ++ t.xq.segs ++ t.sq.segs).map (fun sg => sg.1)
  if segs.isEmpty then s else { s with segsFree := AMap.put s.segsFree (g / 16) (s.freeSegs (g / 16) ++ segs) }

/-- The flags still held at a tile that is released are answered with DISCARD (R413). -/
def State.discardFlags (s : State) (g : Nat) : State :=
  let s := (s.tile g).held.foldl (fun s h => match s.pkt? h.rid with
    | some p => s.refuse p 13 false
    | none => s) s
  s.updTile g (fun t => { t with held := [], arrivals := [] })

/-- Releases one tile of a launch. -/
def State.releaseTile (s : State) (g : Nat) : State :=
  let s := (s.freeTileSegs g).discardFlags g
  let out := (s.tile g).oosLater
  let s := s.updTile g (fun t => { t with
    bound := none, cont := none, tcc := t.tcc.idle, gated := false, ballast := none, barWait := none, tapered := false, dbg := Dbg.none,
    lq := { t.lq with segs := [] }, xq := { t.xq with segs := [] }, sq := { t.sq with segs := [] },
    oosLater := false })
  let s := if out then s.tileOut g else s
  { s with slotTabs := AMap.del s.slotTabs g,
           gov := { s.gov with pending := s.gov.pending.filter (fun p => decide (p.tile ≠ g)) } }

/-- Releases a rectangle and forgets the launch. -/
def State.releaseLaunch (s : State) (k : Nat) : State :=
  match AMap.find? s.launches k with
  | none => s
  | some l =>
    let s := l.tiles.foldl (fun s g => if (s.tile g).bound = some k then s.releaseTile g else s) s
    let s := { s with launches := AMap.del s.launches k }
    let s := l.saved.foldl (fun s x => if x.2.1.oosLater then s.tileOut x.1 else s) s
    { s with
             htlb := s.htlb.filter (fun e => decide (e.space ≠ (Space.launch k).key)) }

end Sys2Proof.Machine
end

