-- ==== Sys2Proof/Machine/Sha.lean ====
section
/-! DEFINITION. SHA-512, which the measurement registers and the headers of images and records use (R464, R465). The spec names the
hash and gives no text of it; this is the function of FIPS 180-4, written as two sequences that each round lengthens (log entry 98). -/

namespace Sys2Proof.Machine

/-- The whole number whose k-th power comes closest to n from below, found bit by bit from bit i - 1 down. -/
def rootFrom (k n : Nat) : (i : Nat) → (r : Nat) → Nat
  | 0, r => r
  | i + 1, r => rootFrom k n i (if (r + 2 ^ i) ^ k ≤ n then r + 2 ^ i else r)

/-- The first 64 bits behind the point of the k-th root of p. -/
def rootBits (k p : Nat) : Word := BitVec.ofNat 64 (rootFrom k (p * 2 ^ (64 * k)) 69 0)

/-- The primes below n, ascending. -/
def primesBelow (n : Nat) : List Nat :=
  (List.range n).filter (fun p => decide (2 ≤ p) && (List.range p).all (fun d => decide (d < 2) || decide (p % d ≠ 0)))

/-- The constants of the 80 rounds: cube roots of the first 80 primes. -/
def hashConsts : List Word := (primesBelow 410).map (rootBits 3)

/-- The chaining value before the first block, in two halves: square roots of the first 8 primes. -/
def hashStart : List Word × List Word := (((primesBelow 8).map (rootBits 2)), (((primesBelow 20).drop 4).map (rootBits 2)))

/-- A word turned right by each of some counts, all of them combined, with x moved out to the right by n where n is not 0. -/
def turns (x : Word) (counts : List Nat) (n : Nat) : Word :=
  counts.foldl (fun a c => a ^^^ x.rotateRight c) (if n = 0 then 0 else x >>> n)

/-- Bit by bit, of y where x has a 1 and of z where it has a 0. -/
def pick (x y z : Word) : Word := (x &&& y) ||| (~~~x &&& z)

/-- Word t of a block's schedule from the 16 before it, the newest first. -/
def scheduleNext (w : List Word) : Word :=
  w.getD 15 0 + turns (w.getD 14 0) [1, 8] 7 + w.getD 6 0 + turns (w.getD 1 0) [19, 61] 6

/-- The 80 words of a schedule, the newest first, from its first 16. -/
def schedule (first : List Word) : List Word := (List.range 64).foldl (fun w _ => scheduleNext w :: w) first.reverse

/-- One round lengthens both sequences by one term; the last four terms of each are what a round looks at. -/
def hashRound (s : List Word × List Word) (kw : Word) : List Word × List Word :=
  let a := fun (i : Nat) => s.1.getD i 0
  let e := fun (i : Nat) => s.2.getD i 0
  let t := e 3 + turns (e 0) [14, 18, 41] 0 + pick (e 0) (e 1) (e 2) + kw
  let u := turns (a 0) [28, 34, 39] 0 + pick (a 0 ^^^ a 1) (a 2) (a 1)
  ((t + u) :: s.1.take 3, (a 3 + t) :: s.2.take 3)

/-- Bytes as a number, the first byte highest. -/
def beNat (bs : List Byte) : Nat := ofBytes bs.reverse

/-- One block of 128 bytes joins the chaining value. -/
def hashBlock (h : List Word × List Word) (blk : List Byte) : List Word × List Word :=
  let w := (schedule ((List.range 16).map (fun i => BitVec.ofNat 64 (beNat (slice blk (8 * i) 8))))).reverse
  let v := (List.zipWith (· + ·) hashConsts w).foldl hashRound h
  (List.zipWith (· + ·) h.1 v.1, List.zipWith (· + ·) h.2 v.2)

/-- A message with its padding: a 1 bit, zeros, and its length in bits, up to whole blocks. -/
def hashPadded (m : List Byte) : List Byte :=
  m ++ [0x80] ++ List.replicate ((239 - m.length % 128) % 128) 0 ++ (leBytes 16 (8 * m.length)).reverse

/-- SHA-512 of a message: 64 bytes. -/
def sha512 (m : List Byte) : List Byte :=
  let p := hashPadded m
  let h := (List.range (p.length / 128)).foldl (fun h i => hashBlock h (slice p (128 * i) 128)) hashStart
  (h.1 ++ h.2).flatMap (fun w => (leBytes 8 w.toNat).reverse)

end Sys2Proof.Machine
end

