-- ==== Sys2Proof/Machine/Boot.lean ====
section
/-! DEFINITION. Boot and the live update of the firmware (spec/14_power_clocks_boot.md R464 to R467;
spec/22_program_firmware_update.md R507 to R510). -/

namespace Sys2Proof.Machine

/-! ### Headers (R465) -/

/-- MAGIC of an image, and of a configuration record. -/
def imageMagic : Nat := 0x57464B4C
/-- MAGIC of a configuration record. -/
def recordMagic : Nat := 0x47434B4C

/-- The parts of an image from its header and body. -/
def fwImageOf (h body : List Byte) : FwImage :=
  { svn := leAt h 4 4, key := leAt h 16 1, digest := slice h 64 64, header := h, body := body }

/-- A header is valid (R465); the root keys are the boot ROM's (log entry 15). -/
def headerOk (magic : Nat) (h body : List Byte) : Bool :=
  decide (leAt h 0 4 = magic) && decide (leAt h 8 8 = body.length) && decide (leAt h 16 1 ≤ 1) &&
  (slice h 17 47).all (fun b => decide (b = 0)) && (slice h 192 64).all (fun b => decide (b = 0)) &&
  decide (slice h 64 64 = sha512 body) && Config.signatureOk (leAt h 16 1) (slice h 0 128) (slice h 128 64)

/-- An image may run: its header is valid and its SVN is not below MINSVN. -/
def FwImage.ok (i : FwImage) (minsvn : Nat) : Bool := headerOk imageMagic i.header i.body && decide (minsvn ≤ i.svn)

/-- A measurement register after an extend (R464). -/
def extendMr (mr : BitVec 512) (d : List Byte) : BitVec 512 := BitVec.ofNat 512 (ofBytes (sha512 (leBytes 64 mr.toNat ++ d)))

/-! ### Starting an image (R464 step 7, R507) -/

/-- A core at the first instruction of an image. -/
def Tcc.started (c : Tcc) (g1 : Word) : Tcc :=
  { Tcc.reset with pc := 1, regs := Tcc.reset.regs.set 1 g1, inj := c.inj }

/-- Starts an image on all four cores: its body is what they execute (R507). Where its lines and the firmware's page tables stand is
open (log entry 17, site 13). -/
def State.startImage (s : State) (slot : Bool) (i : FwImage) (g1 : Word) : State :=
  let w := fun (n : Nat) => Config.unstated 13 [BitVec.ofNat 64 (b2n slot), BitVec.ofNat 64 n]
  { s with
    cores := s.cores.map (fun c => c.started g1),
    fw := { s.fw with root := (w 0).toNat % 2 ^ 52, base := w 1, lines := i.body.length / 64, code := i.body } }

/-- The image in a slot. -/
def Fw.slot (f : Fw) (b : Bool) : Option FwImage := if b then f.slot1 else f.slot0

/-- Puts an image into a slot. -/
def Fw.setSlot (f : Fw) (b : Bool) (i : FwImage) : Fw := if b then { f with slot1 := some i } else { f with slot0 := some i }

/-! ### Boot (R464, Table 14.3) -/

/-- The mask of package p's table for a class and a package (R404). -/
def CfgRec.mask (c : CfgRec) (p cls q : Nat) : BitVec 24 := AMap.getD (AMap.getD c.tables p []) (512 * cls + q) 0

/-- Package p's tables list package q. -/
def CfgRec.lists (c : CfgRec) (p q : Nat) : Bool := (List.range 4).any (fun cls => decide (c.mask p cls q ≠ 0))

/-- Some way by the tables of a class leads from package p to package q in at most so many Kwaup hops. -/
def CfgRec.within (c : CfgRec) (cls q : Nat) : (hops : Nat) → (p : Nat) → Bool
  | 0, p => decide (p = q)
  | n + 1, p => decide (p = q) || (List.range 24).any (fun i => (c.mask p cls q).getLsbD i &&
      (match AMap.find? c.peers (24 * p + i) with
       | some r => CfgRec.within c cls q n r
       | none => false))

/-- Each pair of packages that list each other has a route of at most 4 hops in every class (R404). -/
def CfgRec.routed (c : CfgRec) : Bool :=
  let ps := c.tables.map (fun e => e.1)
  ps.all (fun p => ps.all (fun q => p = q || !(c.lists p q && c.lists q p) ||
    (List.range 4).all (fun cls => c.within cls q 4 p)))

/-- A copy of the record is valid: its header (R465), and its route tables (R404). -/
def CfgCopy.ok (c : CfgCopy) : Bool := headerOk recordMagic c.header c.body && c.fields.routed

/-- SEQ of a copy, and its digest. -/
def CfgCopy.seq (c : CfgCopy) : Nat := leAt c.header 4 4

/-- The digest of a copy. -/
def CfgCopy.digest (c : CfgCopy) : List Byte := slice c.header 64 64

/-- The valid copy of the configuration record with the higher SEQ (Table 14.3 step 3). -/
def Fw.record (f : Fw) : Option CfgCopy :=
  match f.flashA.filter CfgCopy.ok, f.flashB.filter CfgCopy.ok with
  | some a, some b => some (if b.seq ≤ a.seq then a else b)
  | some a, none => some a
  | none, b => b

/-- The ports that lead to another package come up (step 5), but for those of a Tailstock that is out of service. -/
def bootPorts (c : CfgRec) : AMap Port :=
  ((List.range 24).filter (fun i => !c.oosSocks.contains (33 + i / 12))).filterMap (fun i =>
    (AMap.find? c.peers i).map (fun q => (i, { Port.down with up := true, peer := q })))

/-- Applies the configuration record, and takes the lathe dies out of service whose memory or links do not come up (steps 4, 5). -/
def State.applyRecord (s : State) (d : CfgCopy) : State :=
  let c := { d.fields with oosSocks := d.fields.oosSocks ++ s.fw.initFails }
  let out := fun (g : Nat) => c.oosTiles.contains g || c.oosSocks.contains (g / 16 + 1)
  let mcap := fun (g : Nat) => AMap.getD c.mcaps g 0
  { s with
    fw := { s.fw with cfg := some c, mr0 := extendMr s.fw.mr0 d.digest },
    tiles := (List.range 256).map (fun g => (g, { Tile.reset with mcap := mcap g, mcapNext := mcap g, oos := out g })),
    gov := { s.gov with itile := c.itile }, routes := AMap.getD c.tables 0 [], ports := bootPorts c }

/-- The slot whose image boots: BOOT's, else the other. -/
def Fw.bootable (f : Fw) (minsvn : Nat) : Option (Bool × FwImage) :=
  let try1 := fun (b : Bool) => match f.slot b with
    | some i => if i.ok minsvn then some (b, i) else none
    | none => none
  match try1 f.bootSlot with
  | some x => some x
  | none => try1 (!f.bootSlot)

/-- The trap image and the entry of its handler, which the spec does not place (log entry 17, site 14). -/
def Fw.withTraps (f : Fw) : Fw :=
  let w := fun (n : Nat) => Config.unstated 14 [BitVec.ofNat 64 n]
  { f with trapBase := w 0, trapLines := (w 1).toNat, trapEntry := (w 2).truncate 28 }

/-- Steps 2 to 7 of Table 14.3. -/
def State.boot (s : State) : State :=
  match s.fw.record with
  | none => { s with fw := { s.fw with boot := 2 } }
  | some c =>
    let s := s.applyRecord c
    match s.fw.bootable c.fields.minsvn with
    | none => { s with fw := { s.fw with boot := 2 } }
    | some (b, i) =>
      let s := { s with fw := { s.fw.withTraps with act := b, boot := 1, svn := i.svn, mr1 := extendMr s.fw.mr1 i.digest } }
      s.startImage b i 0

/-- PACKAGE_RESET (R464): every register and memory at its reset value; the module flash, the firmware slots, the slot tried
first, the dies that do not come up, and the test patterns (R444) stay. Then the boot. -/
def execPackageReset (s : State) : Out :=
  let f := { Fw.reset with flashA := s.fw.flashA, flashB := s.fw.flashB, slot0 := s.fw.slot0, slot1 := s.fw.slot1,
                           bootSlot := s.fw.bootSlot, initFails := s.fw.initFails }
  .next ({ State.reset with fw := f, patterns := s.patterns, free := s.free }).boot

/-! ### Live update (R466, R467, R508, R509) -/

/-- FWSTAT. -/
def Fw.stat (f : Fw) : Word :=
  BitVec.ofNat 64 (b2n f.act + b2n f.bootSlot * 2 + f.st % 4 * 4 + f.result % 16 * 16 + f.svn % 2 ^ 32 * 256)

/-- A write of FWCTL: GO starts an update; a GO while one runs is ignored (R467, R508). -/
def State.writeFwctl (s : State) (v : Word) : State :=
  if bit v 0 && s.fw.st = 0 then { s with fw := { s.fw with st := 1, result := 0, ctl := v } } else s

/-- FWCTL_GO (R467, R508). -/
def execFwctlGo (v : Word) (s : State) : Out := .next (s.writeFwctl v)

/-- QUIESCE_END (R508): no packet is in READ or VALID, and VERIFY begins. -/
def execQuiesceEnd (s : State) : Out :=
  if s.fw.st = 1 ∧ s.reading = none ∧ s.mbox.reqs.all (fun r => decide (r.fn ≠ 1)) then
    .next { s with fw := { s.fw with st := 2, verified := false } }
  else .next s

/-- Reads the staged image at FWIMG. -/
def State.staged (s : State) : Res FwImage :=
  let a := s.fw.fwimg.toNat
  (s.hsRead viaPa a 256).andThen fun h s =>
    (s.hsRead viaPa (a + 256) (leAt h 8 8)).andThen fun b s => .ok (fwImageOf h b) s

/-- MINSVN of the record. -/
def Fw.minsvn (f : Fw) : Nat :=
  match f.cfg with
  | some c => c.minsvn
  | none => 0

/-- The update ends with a result; host-assisted requests that it held are posted (R467). -/
def State.endUpdate (s : State) (result : Nat) : State :=
  { s with fw := { s.fw with st := 0, result := result, verified := false, beat := false } }.postHeld

/-- Step 3 of R467: the image is written into its slot, and MR2 extended. -/
def State.verifiedImage (s : State) (i : FwImage) : State :=
  let f := s.fw.setSlot (bit s.fw.ctl 1) i
  { s with fw := { f with mr2 := extendMr f.mr2 i.digest, verified := true } }

/-- Step 4 of R467: the image is started on all cores with g1 := HOVA. -/
def State.handover (s : State) (i : FwImage) : State :=
  { s with fw := { s.fw with st := 3, verified := false, beat := false, beat0 := s.fw.fwhb, deadline := s.bedt + 20000000 } }.startImage
    (bit s.fw.ctl 1) i s.fw.hova

/-- Every access that a core has made has been performed (R509). -/
def State.coresQuiet (s : State) : Bool :=
  !s.net.any (fun p => match p.src with
    | .core _ => true
    | .tile _ => false
    | .reshard _ => false
    | .headstock => false)

/-- VERIFY_DONE (R467 steps 2 to 4): the staged image is refused, or written into its slot; it then takes over once every core that
runs has stopped outside its trap handler and its accesses have been performed. -/
def execVerifyDone (s : State) : Out :=
  if s.fw.st ≠ 2 then .next s
  else if s.fw.verified then
    match s.fw.slot (bit s.fw.ctl 1) with
    | none => .next s
    | some i => .next (if s.cores.toList.all (fun c => c.stopped || c.atBoundary) && s.coresQuiet then s.handover i else s)
  else match s.staged with
    | .wait s' => .next s'
    | .trap _ s' => .next ({ s' with hfar := [] }.endUpdate 2)
    | .ok i s' =>
      let s' := { s' with hfar := [] }
      if !headerOk imageMagic i.header i.body then .next (s'.endUpdate 2)
      else if i.svn < s'.fw.minsvn then .next (s'.endUpdate 3)
      else .next (s'.verifiedImage i)

/-- A write of FWHB. The first one after HANDOVER that changes it, before the deadline, is the heartbeat, which takes effect in the
next bed cycle (R509). -/
def State.writeFwhb (s : State) (v : Word) : State :=
  if s.fw.st ≠ 3 then { s with fw := { s.fw with fwhb := v } }
  else if s.fw.deadline ≤ s.bedt then s
  else { s with fw := { s.fw with fwhb := v, beat := s.fw.beat || decide (v ≠ s.fw.beat0) } }

/-- FWHB_HEARTBEAT (R509). -/
def execFwhbHeartbeat (v : Word) (s : State) : Out := .next (s.writeFwhb v)

/-- A heartbeat made in the bed cycle that has just ended ends the update (R467 step 5, R509). -/
def State.beatDone (s : State) : State :=
  if s.fw.st ≠ 3 || !s.fw.beat then s
  else
    let slot := bit s.fw.ctl 1
    let svn := match s.fw.slot slot with
      | some i => i.svn
      | none => s.fw.svn
    { s with fw := { s.fw with act := slot, svn := svn, bootSlot := if bit s.fw.ctl 2 then slot else s.fw.bootSlot } }.endUpdate 1

/-- BED_CYCLE (R456), with the end of an update whose heartbeat was made in the cycle before (R509). -/
def execBedCycle (s : State) : Out := .next { s with bedt := s.bedt + 1 }.beatDone

/-- HEARTBEAT_DEADLINE (R467 step 5, R509): the cores stop, their accesses are performed, and the old image restarts from its slot. -/
def execHeartbeatDeadline (s : State) : Out :=
  if s.fw.st ≠ 3 ∨ s.fw.beat ∨ s.bedt < s.fw.deadline ∨ !s.coresQuiet then .next s
  else match s.fw.slot s.fw.act with
    | none => .next (s.endUpdate 4)
    | some i =>
      let s := { s with fw := { s.fw with mr2 := extendMr s.fw.mr2 i.digest } }
      .next ((s.endUpdate 4).startImage s.fw.act i s.fw.hova)

end Sys2Proof.Machine
end

