-- ==== Sys2Proof/Machine/Copy.lean ====
section
/-! DEFINITION. The copy instructions (spec/08_copy_system_instructions.md): the issue of each into LQ or SQ (R24 to R26, R36, R109). What the command does
when its queue runs it is `copyBegin` and `copyBeat`. -/

namespace Sys2Proof.Machine

/-- CLD (R283). -/
def execCld (e : Eng) (s : State) : Out := issue (.cld e) e .l s

/-- CLDE (R288). -/
def execClde (e : Eng) (s : State) : Out := issue (.clde e) e .l s

/-- CGAT (R284). -/
def execCgat (e : Eng) (s : State) : Out := issue (.cgat e) e .l s

/-- CPF (R285). -/
def execCpf (e : Eng) (s : State) : Out := issue (.cpf e) e .l s

/-- FGET (R283). -/
def execFget (e : Eng) (s : State) : Out := issue (.fget e) e .l s

/-- CST (R287). -/
def execCst (e : Eng) (s : State) : Out := issue (.cst e) e .s s

/-- CSTD (R290). -/
def execCstd (e : Eng) (s : State) : Out := issue (.cstd e) e .s s

/-- CSCT (R284). -/
def execCsct (e : Eng) (s : State) : Out := issue (.csct e) e .s s

/-- CFILL (R287). -/
def execCfill (e : Eng) (s : State) : Out := issue (.cfill e) e .s s

/-- FPUT (R292). -/
def execFput (e : Eng) (s : State) : Out := issue (.fput e) e .s s

/-- FPUT_OF (R293). -/
def execFputOf (e : Eng) (s : State) : Out := issue (.fputOf e) e .s s

/-- CBAT (R295). -/
def execCbat (e : Eng) (s : State) : Out := issue (.cbat e) e .s s

/-- FACKW (R294). -/
def execFackw (e : Eng) (s : State) : Out := issue (.fackw e) e .s s

/-- CRED (R297). -/
def execCred (e : Eng) (s : State) : Out := issue (.cred e) e .s s

end Sys2Proof.Machine
end

