-- ==== Sys2Proof/Machine/CodedOps.lean ====
section
/-! DEFINITION. Coded matrix operators (spec/10_coded_operators.md): the descriptor and its checks (R337, R338, R345, R357,
R358), the code (R340), the check and the decode (R348 to R350), task records (R342) and the decision. -/

namespace Sys2Proof.Machine

/-! ### The descriptor (Table 10.1) -/

/-- The fields of a descriptor of 192 bytes. -/
def opDescOf (bs : List Byte) : OpDesc :=
  let fmt := leAt bs 4 1
  let w := fun (i : Nat) => BitVec.ofNat 64 (leAt bs i 8)
  { ctl := leAt bs 0 2, k := leAt bs 2 1, cr := leAt bs 3 1, fin := bitsN fmt 2 0, fb := bitsN fmt 5 3,
    spn := leAt bs 5 1 % 4, anch := sextN 16 (leAt bs 6 2), mp := leAt bs 8 4, n := leAt bs 12 4, kb := leAt bs 16 4,
    base := leAt bs 20 4, ava := w 24, pstr := w 32, sva := w 40, sstr := leAt bs 48 4, bva := w 56, bsva := w 64,
    bpstr := w 72, cva := w 80, stva := w 88, ststr := leAt bs 96 8, kcode := leAt bs 104 4, img := leAt bs 108 2,
    trect := leAt bs 110 1, dies := leAt bs 112 2, drwva := w 120, inva := w 128,
    pkgs := (List.range 12).map (fun i => leAt bs (136 + 2 * i) 2) }

/-- MODE 1. -/
def OpDesc.mv (d : OpDesc) : Bool := bitsN d.ctl 0 0 = 1
/-- AXIS. -/
def OpDesc.axis (d : OpDesc) : Nat := bitsN d.ctl 1 1
/-- POL: 0 FAST, 1 CHECK, 2 LOCATE, 3 STRICT. -/
def OpDesc.pol (d : OpDesc) : Nat := bitsN d.ctl 3 2
/-- NODEG. -/
def OpDesc.nodeg (d : OpDesc) : Bool := bitsN d.ctl 4 4 = 1
/-- OUTF. -/
def OpDesc.outf (d : OpDesc) : Nat := bitsN d.ctl 5 5
/-- NEST. -/
def OpDesc.nest (d : OpDesc) : Bool := bitsN d.ctl 6 6 = 1
/-- CARRY. -/
def OpDesc.carry (d : OpDesc) : Bool := bitsN d.ctl 7 7 = 1
/-- Tasks of an operator. -/
def OpDesc.tasks (d : OpDesc) : Nat := d.k + d.cr

/-- The conditions of BADDESC that lie in the descriptor alone (R338). -/
def badDesc (bs : List Byte) : Bool :=
  let d := opDescOf bs
  let zero := fun (i n : Nat) => decide (leAt bs i n ≠ 0)
  decide (255 < d.ctl) || d.k = 0 || decide (8 < d.k) || decide (4 < d.cr) || decide (2 < d.fin) || decide (2 < d.fb) ||
  decide (64 ≤ leAt bs 4 1) || decide (4 ≤ leAt bs 5 1) ||
  d.mp = 0 || decide (2 ^ 20 < d.mp) || d.n = 0 || decide (2 ^ 24 < d.n) || d.kb = 0 || decide (2 ^ 24 < d.kb) ||
  d.sva.toNat % 16 ≠ 0 || d.sstr % 16 ≠ 0 || zero 52 4 || d.bsva.toNat % 16 ≠ 0 || d.cva.toNat % 16 ≠ 0 ||
  d.stva.toNat % 64 ≠ 0 || d.ststr % 64 ≠ 0 || decide (d.ststr < 128 + 16 * d.mp * d.n) || decide (2 ^ 28 ≤ d.kcode) ||
  decide (16 ≤ d.trect) || zero 111 1 || zero 114 6 || d.drwva.toNat % 8 ≠ 0 || zero 160 32 ||
  (!d.mv && d.bpstr ≠ 0) || (!d.nest && (d.inva ≠ 0 || d.pkgs.any (fun p => decide (p ≠ 0)))) ||
  d.pkgs.any (fun p => decide (512 ≤ p)) ||
  (d.mv && (d.mp ≠ 1 || d.axis = 1 || d.carry || d.fin ≠ 2 || d.fb ≠ 2 || d.spn ≠ 0)) ||
  (d.pol = 1 && decide (d.cr < 1)) || (d.pol = 2 && decide (d.cr < 2)) ||
  (d.nest && (d.mv || d.carry)) || (d.carry && d.cr ≠ 0)

/-- S(k, x): the sum of the coefficients of a node. -/
def nodeSum (k x : Nat) : Nat := ((List.range k).map (fun i => x ^ i)).sum

/-- FOUT for coded tasks (R345): 3 BSI12, 4 BSI16; nothing where the operator is refused with RANGE. -/
def foutOf (fin k cr : Nat) : Option Nat :=
  let smax := if cr = 0 then 1 else nodeSum k cr
  let m := 2 ^ (bsiWidth fin - 1) * smax
  if m ≤ 2 ^ 11 then some 3 else if m ≤ 2 ^ 15 then some 4 else none

/-- A lathe die can run a task: named in DIES and in service. -/
def State.dieOk (s : State) (d : OpDesc) (die : Nat) : Bool :=
  d.dies / 2 ^ (die - 1) % 2 = 1 && !s.dieExcluded die

/-- The die that owns the address of a task's panel of B (R358). -/
def State.mvDie (s : State) (root : Nat) (atM : Bool) (d : OpDesc) (t : Nat) : Option Nat :=
  match viaRoot root atM s (d.bva + BitVec.ofNat 64 t * d.bpstr).toNat with
  | .ok pa _ => (match s.place pa with
    | .hbm st _ => some (st + 1)
    | .tile _ _ => none
    | .far _ => none
    | .out => none
    | .reserved => none)
  | .trap _ _ => none
  | .wait _ => none

/-- The dies for the tasks, in task order, where one can run each: for MODE 1 those that own the panels; else distinct ones, the
lowest suspect count first, then the lower number (R342, R358). -/
def State.pickDies (s : State) (root : Nat) (atM : Bool) (d : OpDesc) : List (Option Nat) :=
  if d.mv then (List.range d.tasks).map (fun t => (s.mvDie root atM d t).filter (s.dieOk d))
  else
    let c := ((List.range 16).map (fun i => i + 1)).filter (s.dieOk d)
    let best := (sortBy (fun (a b : Nat × Nat) => decide (a.1 < b.1) || (decide (a.1 = b.1) && decide (a.2 ≤ b.2)))
      (c.map (fun x => (AMap.getD s.suspects x 0, x)))).map (fun p => p.2)
    (List.range d.tasks).map (fun t => best[t]?)

/-- A package is in service: this one, or one of the load-store domain (R404) that is not known to be dead (R405). -/
def State.pkgOk (s : State) (p : Nat) : Bool :=
  decide (p = 0) || (!s.dead.getLsbD p && (List.range 4).any (fun c => decide (AMap.getD s.routes (512 * c + p) 0 ≠ 0)))

/-- Enough distinct dies or packages (R338, R358). -/
def State.diesOk (s : State) (root : Nat) (atM : Bool) (d : OpDesc) : Bool :=
  if d.nest then
    let ps := d.pkgs.take d.tasks
    ps.eraseDups.length = d.tasks && ps.all s.pkgOk
  else
    let ds := (s.pickDies root atM d).filterMap id
    ds.length = d.tasks && ds.eraseDups.length = d.tasks

/-- The inner descriptor that 192 bytes at an address hold: nothing where it breaks R338, its alignment among it (log entry 97). -/
def innerOf (va : Nat) (bs : List Byte) : Option OpDesc :=
  let i := opDescOf bs
  if va % 64 ≠ 0 || badDesc bs || i.nest then none else some i

/-- Reads the inner descriptors of an outer operator; one that cannot be read is given as nothing. -/
def State.readInner (s : State) (tr : State → Nat → Res Nat) (d : OpDesc) : (n t : Nat) → Res (List (Option (List Byte)))
  | 0, _ => .ok [] s
  | n + 1, t =>
    let go := fun (b : Option (List Byte)) (s : State) => (State.readInner s tr d n (t + 1)).andThen fun r s => Res.ok (b :: r) s
    match s.hsRead tr (d.inva.toNat + 192 * t) 192 with
    | .ok b s => go (some b) s
    | .trap _ s => go none s
    | .wait s => .wait s

/-- The inner descriptor of outer task t has a CARRY, CR or K that R357 does not allow: the outer operator is refused. -/
def innerWrong (d : OpDesc) (t : Nat) (bs : List Byte) : Bool :=
  let i := opDescOf bs
  if t < d.k then i.carry else !i.carry || i.cr ≠ 0 || i.k ≠ d.k

/-- The status with which an inner operator is refused (R338), or 0: an operator of carried tasks has the range of the outer code. -/
def State.innerStatus (s : State) (root : Nat) (fw : Bool) (d : OpDesc) (i : Option OpDesc) : Nat :=
  match i with
  | none => 4
  | some i =>
    let range := if i.carry then foutOf i.fin d.k d.cr else foutOf i.fin i.k i.cr
    if range.isNone then 5 else if s.diesOk root fw i then 0 else 6

/-- Validation of an operator (R338): the descriptors, or the status of the refusal (4 BADDESC, 5 RANGE, 6 NODIE); `checks` is off where
the host has accepted the packet (R469). Where several conditions hold, the first in the order of R338's table is given, R357's last (log
entry 97). -/
def State.checkOperator (_ : State) (root : Nat) (atM : Bool) (va : Nat) (checks : Bool) (read : Res (List Byte)) :
    Res (Except Nat (OpDesc × List (Option OpDesc))) :=
  match read with
  | .wait s => .wait s
  | .trap _ s => .ok (.error 4) s
  | .ok bs s =>
    let d := opDescOf bs
    if checks && (va % 64 ≠ 0 || badDesc bs) then .ok (.error 4) s
    else if checks && (foutOf d.fin d.k d.cr).isNone then .ok (.error 5) s
    else if checks && !s.diesOk root atM d then .ok (.error 6) s
    else if !d.nest then .ok (.ok (d, [])) s
    else (s.readInner (viaRoot root atM) d d.tasks 0).andThen fun bss s =>
      if checks && bss.zipIdx.any (fun p => match p.1 with
          | some bs => innerWrong d p.2 bs
          | none => false) then .ok (.error 4) s
      else .ok (.ok (d, bss.zipIdx.map (fun p => p.1.bind (innerOf (d.inva.toNat + 192 * p.2))))) s

/-! ### The check of one word position (R340, R349, R350) -/

/-- Coefficient of panel i in the return of task t (R340). -/
def taskCoef (k t i : Nat) : Int := if t < k then (if i = t then 1 else 0) else (((t - k + 1) ^ i : Nat) : Int)

/-- The determinant by its first row. -/
def detZ : (fuel : Nat) → List (List Int) → Int
  | 0, _ => 1
  | _ + 1, [] => 1
  | f + 1, r :: rs => ((List.range r.length).map (fun j =>
      (if j % 2 = 0 then 1 else -1) * r.getD j 0 * detZ f (rs.map (fun row => row.eraseIdx j)))).foldl (· + ·) 0

/-- The codeword C_0 … C_(k-1) that k returns determine (R350); nothing where a division leaves a remainder. -/
def solveBasis (k : Nat) (basis : List (Nat × Int)) : Option (List Int) :=
  let data := basis.filter (fun p => decide (p.1 < k))
  let coded := basis.filter (fun p => decide (k ≤ p.1))
  let miss := (List.range k).filter (fun i => !(data.map (fun p => p.1)).contains i)
  let known := fun (i : Nat) => ((data.find? (fun p => decide (p.1 = i))).map (fun p => p.2)).getD 0
  let y := coded.map (fun p => p.2 - ((data.map (fun q => taskCoef k p.1 q.1 * q.2)).foldl (· + ·) 0))
  let v := coded.map (fun p => miss.map (fun i => taskCoef k p.1 i))
  let det := detZ (miss.length + 1) v
  let num := fun (j : Nat) => detZ (miss.length + 1) ((v.zip y).map (fun p => p.1.set j p.2))
  if coded.length ≠ miss.length then none
  else if (List.range miss.length).any (fun j => decide (det = 0) || decide (num j % det ≠ 0)) then none
  else some ((List.range k).map (fun i =>
    match miss.findIdx? (fun m => decide (m = i)) with
    | some j => num j / det
    | none => known i))

/-- The return that a codeword gives for a task. -/
def encodeTask (k : Nat) (c : List Int) (t : Nat) : Int :=
  ((List.range k).map (fun i => taskCoef k t i * c.getD i 0)).foldl (· + ·) 0

/-- The codeword with which all returns of a list agree, if there is one. -/
def agree (k : Nat) (q : List (Nat × Int)) : Option (List Int) :=
  if q.length < k then none
  else match solveBasis k (q.take k) with
    | none => none
    | some c => if q.all (fun p => decide (encodeTask k c p.1 = p.2)) then some c else none

/-- The sublists of m elements. -/
def choose : (m : Nat) → List Nat → List (List Nat)
  | 0, _ => [[]]
  | _ + 1, [] => []
  | m + 1, x :: xs => (choose m xs).map (fun l => x :: l) ++ choose (m + 1) xs

/-- The verdict at one position over the arrived returns, in ascending t: the located tasks and the codeword; nothing where
the position cannot be corrected. -/
def verdict (k : Nat) (q : List (Nat × Int)) : Option (List Nat × List Int) :=
  let s := q.length - k
  let sols := fun (m : Nat) => (choose m (q.map (fun p => p.1))).filterMap (fun e =>
    (agree k (q.filter (fun p => !e.contains p.1))).map (fun c => (e, c)))
  (List.range (s / 2 + 1)).foldl (fun (a : Option (Option (List Nat × List Int))) m => match a with
    | some x => some x
    | none => match sols m with
      | [] => none
      | [x] => some (some x)
      | _ :: _ :: _ => some none) none |>.join

/-! ### Registers -/

/-- Coding register r. -/
def State.opr (s : State) (r : Nat) : Opr := AMap.getD s.oprs r Opr.free

/-- Replaces coding register r. -/
def State.setOpr (s : State) (r : Nat) (o : Opr) : State := { s with oprs := AMap.put s.oprs r o }

/-- Task t of a mask. -/
def tbit (m t : Nat) : Bool := m / 2 ^ t % 2 = 1

/-- A mask with bit t set. -/
def tset (m t : Nat) : Nat := if tbit m t then m else m + 2 ^ t

/-- A return that has arrived and has not been erased. -/
def Opr.here (o : Opr) (t : Nat) : Bool := tbit o.arr t && !tbit o.eras t

/-- The returns marked ARR and readable, in ascending t. -/
def Opr.arrived (o : Opr) (n : Nat) : List Nat := (List.range n).filter o.here

/-- The tasks neither arrived nor erased. -/
def Opr.outstanding (o : Opr) (n : Nat) : List Nat := (List.range n).filter (fun t => !tbit o.arr t && !tbit o.eras t)

/-- need (R348). -/
def OpDesc.need (d : OpDesc) : Nat :=
  match d.pol with
  | 0 => d.k
  | 1 => d.k + 1
  | 2 => d.k + 2
  | _ => d.k + d.cr

/-- OPST (Table 10.2). -/
def Opr.status (o : Opr) : Word :=
  BitVec.ofNat 64 (o.st + o.arr * 2 ^ 4 + o.eras * 2 ^ 16 + o.susp * 2 ^ 28 + o.bas * 2 ^ 40 + o.nsur * 2 ^ 52 + o.ost * 2 ^ 56)

/-- OPCNT. -/
def Opr.counts (o : Opr) : Word :=
  BitVec.ofNat 64 (Nat.min o.nsyn (2 ^ 32 - 1) + Nat.min o.ncor (2 ^ 32 - 1) * 2 ^ 32)

/-- The lathe die of a task. -/
def Opr.die (o : Opr) (t : Nat) : Nat := fld o.opdie (4 * t + 3) (4 * t) + 1

/-! ### Task records (R342, Table 10.3) -/

/-- The coding word of a task. -/
def codingWord (task k cr r : Nat) : Nat := 1 + task * 16 + k * 256 + cr * 4096 + r * 65536

/-- The 128 bytes of a task record. An inner operator with CARRY takes the outer operator's coding word and panel distances
(R357); without an outer operator the spec gives it none (log entry 17, site 9). -/
def taskRecord (d : OpDesc) (r t : Nat) (outer : Option (OpDesc × Nat)) : List Byte :=
  let c := match d.carry, outer with
    | true, some (o, ot) => codingWord ot o.k o.cr r
    | true, none => (Config.unstated 9 [BitVec.ofNat 64 r, BitVec.ofNat 64 t]).toNat
    | false, _ => codingWord t d.k d.cr r
  let fout := match d.carry, outer with
    | true, some (o, ot) => if ot < o.k then 3 else (foutOf d.fin o.k o.cr).getD 4
    | true, none => 3
    | false, _ => if t < d.k then 3 else (foutOf d.fin d.k d.cr).getD 4
  let own := match d.carry with
    | true => t
    | false => 0
  let (pstr, sstr) := match d.carry, outer with
    | true, some (o, _) => (o.pstr, o.sstr)
    | true, none => (d.pstr, d.sstr)
    | false, _ => (d.pstr, d.sstr)
  let ava := d.ava + BitVec.ofNat 64 own * d.pstr
  let sva := d.sva + BitVec.ofNat 64 (own * d.sstr)
  let bt := BitVec.ofNat 64 t * d.bpstr
  let opdesc :=
    if d.mv then leBytes 8 d.ava.toNat ++ leBytes 8 0 ++ leBytes 8 d.sva.toNat ++ leBytes 4 0 ++ leBytes 2 d.kb ++ leBytes 2 0
    else leBytes 8 ava.toNat ++ leBytes 8 pstr.toNat ++ leBytes 8 sva.toNat ++ leBytes 4 sstr ++ leBytes 2 (d.mp * d.kb) ++
      leBytes 1 (d.fin + fout * 8) ++ leBytes 1 d.base
  opdesc ++ leBytes 8 c ++ leBytes 8 (if d.mv then (d.bva + bt) else d.bva).toNat ++
  leBytes 8 (if d.mv then (d.bsva + bt) else d.bsva).toNat ++ leBytes 4 d.mp ++ leBytes 4 d.n ++ leBytes 4 d.kb ++
  leBytes 2 (wrapN 16 d.anch) ++ leBytes 1 (if d.mv then 2 else fout) ++
  leBytes 1 (b2n d.mv + d.axis * 2 + d.spn * 4 + d.fb * 16) ++
  leBytes 8 (d.stva + BitVec.ofNat 64 (t * d.ststr + 128)).toNat ++ leBytes 4 (d.mp * d.n) ++ leBytes 44 0

/-! ### Start of an operator (R339, R342) -/

/-- The packet of a task rectangle (R377): TRECT tiles, σ = 0, the operator's other fields. -/
def taskPacket (p : Packet) (d : OpDesc) (t : Nat) : Packet :=
  { p with kind := bitsN p.kind 6 5 * 32, sym := 1, w := d.trect % 4 + 1, h := d.trect / 4 + 1, ox := 0,
           oy := 0, entry := d.kcode, eimg := d.img, frbase := d.stva + BitVec.ofNat 64 (t * d.ststr), frstr := 0, av := false }

/-- The launch of a task of operator launch k: a child region of region 0 with its own fault domain (R377; its number is log entry
28). -/
def Launch.taskOf (l : Launch) (k : Nat) (d : OpDesc) (r t : Nat) : Launch :=
  let p := taskPacket l.pkt d t
  let r0 := match l.regions with
    | x :: _ => x
    | [] => { parent := 0, pri := 0, dom := 0, pw := 0, pin := false, dla := false, age := 0, tmax := 0, growkb := 0,
              pent := 1, rtime := 0, x0 := 0, y0 := 0, rw := 0, rh := 0, spmin := 0, psva := 0, pslen := 0,
              started := none, grown := 0, ended := false }
  { l with pkt := p, st := .wait, regions := [r0, { r0 with parent := 0, dom := 1, x0 := 0, y0 := 0, rw := p.w, rh := p.h }],
           roots := [], pools := [], slots := [], tiles := [], bars := [], nerr := 0, ndom := 0, faulted := false, opr := none,
           task := some (r, t), op := k, recorded := false, remote := none, opDesc := none, inner := [] }

/-- Advances counter i of R485. -/
def State.opCount (s : State) (i n : Nat) : State :=
  { s with trace := { s.trace with pkg := AMap.put s.trace.pkg (1024 + i) (AMap.getD s.trace.pkg (1024 + i) 0 + BitVec.ofNat 32 n) } }

/-- Adds a launch. -/
def State.addLaunch (s : State) (l : Launch) : State :=
  { s with launches := AMap.put s.launches s.nextLaunch l, nextLaunch := s.nextLaunch + 1 }

/-- Outer task t on this package: the launch of its inner operator (R357), done with its status where it is refused. -/
def State.addInner (s : State) (k : Nat) (l : Launch) (d : OpDesc) (i : Option OpDesc) (r t : Nat) : State :=
  let ost := s.innerStatus l.pkt.ptroot l.fw d i
  (if ost = 0 then s else s.opCount 24 1).addLaunch
    { l with pkt := { l.pkt with opdva := d.inva + BitVec.ofNat 64 (192 * t) }, st := if ost = 0 then .wait else .done,
             roots := [], pools := [], tiles := [], bars := [], nerr := 0, ndom := 0, faulted := false, opr := none, task := some (r, t), op := k,
             opDesc := some (i.getD d), inner := [], ost := ost }

/-- Outer task t on another package: a CTRL packet asks that package to launch the inner operator (R357; its layout is log entry 104):
ADDR the inner descriptor, CNT 2, then the launch packet, the register, the task, whether the queue is a firmware queue, and SEQ. -/
def State.sendInner (s : State) (k : Nat) (l : Launch) (d : OpDesc) (r t : Nat) : State :=
  let bs := slice l.pkt.raw 0 128 ++ leBytes 1 r ++ leBytes 1 t ++ leBytes 1 (b2n l.fw) ++ leBytes 1 0 ++ leBytes 4 l.seq
  s.request { s.hsPkt .ctrl (d.inva.toNat + 192 * t) (d.pkgs.getD t 0) with cnt := 2, len := bs.length, data := bs, launch := some k }

/-- Starts the tasks of an operator from t on. -/
def State.startTasks (s : State) (k r : Nat) (l : Launch) (d : OpDesc) : (n t : Nat) → State
  | 0, _ => s
  | n + 1, t =>
    let s :=
      if d.nest then
        (if d.pkgs.getD t 0 = 0 then s.addInner k l d ((l.inner[t]?).join) r t else s.sendInner k l d r t)
      else if tbit (s.opr r).eras t then s
      else s.addLaunch (l.taskOf k d r t)
    State.startTasks s k r l d n (t + 1)

/-- The lowest FREE register. -/
def State.freeOpr (s : State) : Option Nat := (List.range 16).find? (fun r => decide ((s.opr r).st = 0))

/-- The outer descriptor and task of an inner operator's launch. -/
def State.outerFor (s : State) (l : Launch) : Option (OpDesc × Nat) :=
  match l.task with
  | some (r, t) => (s.opr r).desc.map (fun d => (d, t))
  | none => l.remote.map (fun x => (x.outer, x.task))

/-- A coded launch takes a register and starts its tasks (R339, R342); a task for which no die is left is erased (R347). -/
def State.startOperator (s : State) (k r : Nat) : State :=
  match AMap.find? s.launches k with
  | none => s
  | some l => match l.opDesc with
    | none => s
    | some d =>
      let dies := s.pickDies l.pkt.ptroot l.fw d
      let pick := if d.nest then List.range d.tasks else dies.map (fun x => x.getD 1 - 1)
      let none_ := if d.nest then [] else (List.range d.tasks).filter (fun t => (dies.getD t none).isNone)
      let opdie := ((List.range pick.length).zip pick).foldl (fun a p => a + p.2 * 16 ^ p.1) 0
      let o := { Opr.free with st := 1, opd := l.pkt.opdva, opdie := BitVec.ofNat 64 opdie, desc := some d, launch := k,
                               eras := none_.foldl tset 0, fout := (foutOf d.fin d.k d.cr).getD 3, outer := s.outerFor l, inner := l.inner }
      let s := { s.setOpr r o with launches := AMap.put s.launches k { l with st := .run, opr := some r } }
      s.startTasks k r l d d.tasks 0

/-! ### The decision (R348 to R355) -/

/-- The staging of a task: MP × N slots. -/
def OpDesc.stage (d : OpDesc) (t : Nat) : Nat := d.stva.toNat + t * d.ststr + 128

/-- Errors of the read path (KIND 3 of R455) that are armed. -/
def State.armed3 (s : State) : Nat := (s.armed.filter (fun a => decide (a.kind = 3))).length

/-- Where the return of a task lies, and the bytes of each of its words: its staging slots, or the C of the inner operator that is
the task of an outer one (R341, R357). -/
def Opr.returnAt (o : Opr) (d : OpDesc) (t : Nat) : Nat × Nat :=
  match if d.nest then (o.inner[t]?).join else none with
  | some i => (i.cva.toNat, if i.outf = 1 then 10 else 16)
  | none => (d.stage t, 16)

/-- Reads the words of the returns of a list of tasks of an operator; a return that cannot be read, for whatever reason, is
given as nothing (R347, log entry 117). Each comes with whether an injected error struck its read (R455). -/
def State.readReturns (s : State) (op : Opr) (d : OpDesc) : List Nat → Res (List (Nat × Option (List Int) × Bool))
  | [] => .ok [] s
  | t :: r =>
    let nw := d.mp * d.n
    let w := (op.returnAt d t).2
    let go := fun (x : Option (List Int)) (s' : State) =>
      (State.readReturns s' op d r).andThen fun l u => Res.ok ((t, x, decide (s'.armed3 < s.armed3)) :: l) u
    match s.hsRead (viaLaunch op.launch false) (op.returnAt d t).1 (w * nw) with
    | .wait s => .wait s
    | .trap _ s => go none s
    | .ok bs s => go (some ((List.range nw).map (fun i => accVal (slice bs (w * i) w)))) s

/-- The verdicts at every position, given the returns. -/
def verdicts (k nw : Nat) (rets : List (Nat × List Int)) : List (Option (List Nat × List Int)) :=
  (List.range nw).map (fun w => verdict k (rets.map (fun p => (p.1, p.2.getD w 0))))

/-- The words of C from the verdicts, panel by panel. -/
def wordsOfC (k nw : Nat) (vs : List (Option (List Nat × List Int))) : List Int :=
  (List.range k).flatMap (fun i => (List.range nw).map (fun w => match (vs.getD w none) with
    | some (_, c) => c.getD i 0
    | none => 0))

/-- Reports a task whose words were found wrong: its die's suspect count, the log of level 7, a record of TYPE 4 (R353, R354). For an
outer operator the record names the task's package and its inner status (R357). The fields that the spec does not place are log
entry 29. -/
def State.suspect (s : State) (r t n : Nat) (late inj : Bool) : State :=
  let o := s.opr r
  let r4 := { ErrRec.ofType 4 with flg := b2n late * 2 + b2n inj * 8, info := t, cmd := r, count := Nat.min n 65535 }
  match o.desc.filter OpDesc.nest with
  | some d => s.sendLaunchRecord o.launch { r4 with cmd := r + AMap.getD o.tst t 0 * 256, pc := d.pkgs.getD t 0 }
  | none =>
    let die := o.die t
    let s := { s with suspects := AMap.put s.suspects die (AMap.getD s.suspects die 0 + 1) }
    (s.logEvent 7 0 (BitVec.ofNat 64 die) 1 inj r).sendLaunchRecord o.launch { r4 with loc := die }

/-- Positions at which a task was located. -/
def locatedAt (vs : List (Option (List Nat × List Int))) (t : Nat) : Nat :=
  (vs.filter (fun v => match v with
    | some (e, _) => e.contains t
    | none => false)).length

/-- Sets the decision: STATE, OST, BAS, the counts, the counters of R485 and the suspects; `inj`: the tasks whose reads an
injected error struck. BAS holds the returns outside every E that are left where they are fewer than k (log entry 118). -/
def State.decided (s : State) (inj r st code : Nat) (vs : List (Option (List Nat × List Int))) (q : List Nat) (d : OpDesc)
    (c : List Int) : State :=
  let located := (List.range d.tasks).filter (fun t => decide (0 < locatedAt vs t))
  let ncor := if st = 2 then (located.map (locatedAt vs)).sum else 0
  let nsyn := (vs.filter (fun v => match v with
    | some (e, _) => !e.isEmpty
    | none => true)).length
  let corr := code = 0 && decide (0 < ncor)
  let degr := code = 0 && decide (q.length < d.need)
  let basis := (q.filter (fun t => !located.contains t)).take d.k
  let o := s.opr r
  let s := s.setOpr r { o with
    st := st, ost := code + b2n corr * 16 + b2n degr * 32, c := c, nsur := q.length - d.k, ncor := o.ncor + ncor,
    nsyn := o.nsyn + nsyn,
    inj := ((List.range d.tasks).filter (fun t => tbit inj t && !located.contains t)).foldl tset 0,
    bas := if st = 2 then basis.foldl tset 0 else 0,
    susp := located.foldl tset o.susp }
  let s := if code = 0 then (s.opCount 18 1) else s.opCount (20 + code) 1
  let s := if corr then s.opCount 19 1 else s
  let s := if degr then s.opCount 20 1 else s
  let s := s.opCount 25 ncor
  located.foldl (fun s t => s.suspect r t (locatedAt vs t) false (tbit inj t)) s

/-- The bytes of C in memory order (R352). A word that 80 bits do not hold is cut to them (log entry 118). -/
def outBytes (d : OpDesc) (c : List Int) : List Byte :=
  c.flatMap (fun v => if d.outf = 1 then accBytes v else slotBytes v)

/-- Writes that the Headstock has posted to other packages since a state are those of a region of launch k. -/
def State.ownPosted (s s0 : State) (k region : Nat) : State :=
  let mine := fun (p : Pkt) => decide (p.src = .headstock) && decide (s0.nextRid ≤ p.rid)
  { s with net := updWhere mine (fun p => { p with launch := some k, region := region }) s.net }

/-- Some write posted for a region of launch k has not been performed. -/
def State.postedBy (s : State) (k region : Nat) : Bool :=
  s.net.any (fun p => decide (p.src = .headstock) && p.typ.effects && decide (p.launch = some k) && decide (p.region = region))

/-- C cannot be written: the domain of region 0 ends with the access's fault (log entry 30). -/
def State.cFault (s : State) (k : Nat) (t : TrapI) : State :=
  s.endDomain k 0 { ErrRec.ofType 1 with cause := t.cause, sub := t.sub, info := t.info.toNat, flg := s.injFlag t }

/-- One decision step of R348 on the returns read; nothing where the operator waits on. A write of C that must wait is made, and the
decision with it, when the event is taken again. -/
def State.decide1 (s : State) (r : Nat) (d : OpDesc) (k : Nat) (rets : List (Nat × List Int)) (inj o : Nat) : Res Unit :=
  let q := rets.map (fun p => p.1)
  let a := q.length
  if a < d.need ∧ 0 < o then .ok () s
  else if a < d.k then .ok () (s.decided inj r 3 2 [] q d [])
  else if a < d.need ∧ d.nodeg then .ok () (s.decided inj r 3 1 [] q d [])
  else
    let nw := d.mp * d.n
    let vs := verdicts d.k nw rets
    if vs.any (fun v => v.isNone) then .ok () (if 0 < o then s else s.decided inj r 3 3 vs q d [])
    else
      let c := wordsOfC d.k nw vs
      match s.hsWrite (viaLaunch k true) d.cva.toNat (outBytes d c) with
      | .ok _ s' => .ok () ((s'.ownPosted s k 0).decided inj r 2 0 vs q d c)
      | .trap t s' => .ok () ((s'.decided inj r 2 0 vs q d c).cFault k t)
      | .wait s' => .wait s'

/-- Handles the register after an event while STATE = RUN (R348): reads the returns, erases those that cannot be read, and
decides; under DUTY DEC it posts the request instead, once the check would run (R356). -/
def State.opEvent (s : State) (r : Nat) : Res Unit :=
  let o := s.opr r
  match o.desc with
  | none => .ok () s
  | some d =>
    if o.st ≠ 1 || o.posted then .ok () s
    else
      let q := o.arrived d.tasks
      let out := (o.outstanding d.tasks).length
      if q.length < d.need ∧ 0 < out then .ok () s
      else if q.length < d.k ∨ (q.length < d.need ∧ d.nodeg) then s.decide1 r d o.launch (q.map (fun t => (t, []))) 0 out
      else if bit s.mbox.duty 2 then
        .ok () ((s.setOpr r { o with posted := true }).postRequest 3 r
          (leBytes 4 r ++ leBytes 4 (q.foldl tset 0) ++ leBytes 8 d.stva.toNat ++ leBytes 8 d.ststr))
      else
        (s.readReturns o d q).andThen fun rs s =>
          let lost := (rs.filter (fun p => p.2.1.isNone)).map (fun p => p.1)
          let good := rs.filterMap (fun p => p.2.1.map (fun v => (p.1, v)))
          let inj := ((rs.filter (fun p => p.2.2)).map (fun p => p.1)).foldl tset 0
          let o := s.opr r
          let s := s.setOpr r { o with eras := lost.foldl tset o.eras }
          s.decide1 r d o.launch good inj out

/-- The late check of one return (R353): its words against what the decided C gives, or, after FAILED, against the others. -/
def State.lateCheck (s : State) (r t : Nat) : Res Unit :=
  let o := s.opr r
  match o.desc with
  | none => .ok () s
  | some d =>
    let nw := d.mp * d.n
    let q := if o.st = 2 then [t] else o.arrived d.tasks
    (s.readReturns o d q).andThen fun rs s =>
      let mine := ((rs.find? (fun p => decide (p.1 = t))).bind (fun p => p.2.1))
      match mine with
      | none => .ok () (s.setOpr r { s.opr r with eras := tset (s.opr r).eras t })
      | some ws =>
        let bad :=
          if o.st = 2 then
            ((List.range nw).filter (fun w =>
              decide (ws.getD w 0 ≠ encodeTask d.k ((List.range d.k).map (fun i => o.c.getD (i * nw + w) 0)) t))).length
          else locatedAt (verdicts d.k nw (rs.filterMap (fun p => p.2.1.map (fun v => (p.1, v))))) t
        let o := s.opr r
        let s := s.setOpr r { o with late := o.late ++ [t] }
        let s := s.opCount 26 1
        if bad = 0 then .ok () s
        else
          let o := s.opr r
          let s := s.setOpr r { o with susp := tset o.susp t, nsyn := o.nsyn + bad }
          .ok () ((s.opCount 27 1).suspect r t bad true (decide (0 < o.inj) || rs.any (fun p => p.2.2)))

/-- Writes the task record of a task's launch before its claim (R342); `erase` where it cannot be written (log entry
117). -/
def State.recordTask (s : State) (k : Nat) (l : Launch) (r t : Nat) (erase : State → State) : State :=
  match (s.opr r).desc with
  | none => s
  | some d =>
    match s.hsWrite (viaLaunch l.op true) (d.stva.toNat + t * d.ststr) (taskRecord d r t (s.opr r).outer) with
    | .ok _ s' => { s'.ownPosted s k 1 with hfar := [] }.updLaunch k (fun l => { l with recorded := true })
    | .trap _ s' => erase { s' with hfar := [] }
    | .wait s' => s'

/-- Every task has arrived or been erased and the operator is decided: once every word of C has been performed, the drain word is
written and the register becomes FREE (R352, R353); the launch's status byte is kept for its completion record. -/
def State.drainOp (s : State) (r : Nat) : State :=
  let o := s.opr r
  match o.desc with
  | none => s
  | some d =>
    if o.st < 2 || !(o.outstanding d.tasks).isEmpty || s.hsPosted then s
    else match AMap.find? s.launches o.launch with
      | none => s.setOpr r { o with st := 0 }
      | some l =>
        let free := fun (s : State) => (s.setOpr r { o with st := 0 }).updLaunch o.launch (fun l => { l with st := .drain, ost := o.ost })
        if d.drwva = 0 then free s
        else match s.hsWrite (viaLaunch o.launch true) d.drwva.toNat (leBytes 8 l.seq) with
          | .ok _ s' => free (s'.ownPosted s o.launch 0)
          | .trap t s' => free (s'.cFault o.launch t)
          | .wait _ => s

/-- Handles the register after an event: the decision while STATE = RUN, the late check of an arrival after it, and the drain
word (R348, R353). An arrival while a decode request stands is checked when it has been answered (R356). -/
def State.opHandled (s : State) (r t : Nat) (arrived : Bool) : Res Unit :=
  let late := (s.opr r).st ≠ 1
  let go := if late then (if arrived then s.lateCheck r t else .ok () s) else s.opEvent r
  go.andThen fun _ s => .ok () (s.drainOp r)

/-- The late checks of returns that came while a decode request stood (R356). -/
def State.lateChecks (s : State) (r : Nat) : List Nat → Res Unit
  | [] => .ok () s
  | t :: ts => (s.lateCheck r t).andThen fun _ s => State.lateChecks s r ts

/-- An event that reads memory of another package waits for it and is taken again; until then nothing has changed. -/
def Res.orElse {α : Type} (r : Res α) (s0 : State) : State :=
  match r with
  | .ok _ s => { s with hfar := [] }
  | .trap _ s => { s with hfar := [] }
  | .wait s => { s0 with hfar := s.hfar, net := s.net, nextRid := s.nextRid, ports := s.ports }

end Sys2Proof.Machine
end

