-- ==== Sys2Proof/Machine/Validate.lean ====
section
/-! DEFINITION. The launch packet (R363, Table 11.4), the structures it names (R365, Table 11.5; Table 5.3), and their
validation (R369). -/

namespace Sys2Proof.Machine

/-- The fields of a packet of 128 bytes (Table 11.4). -/
def packetOf (bs : List Byte) : Packet :=
  { kind := leAt bs 0 1, sym := leAt bs 1 1, launchId := leAt bs 4 4, ptroot := leAt bs 8 8,
    rtva := BitVec.ofNat 64 (leAt bs 16 8), nreg := leAt bs 24 2, nimg := leAt bs 26 2,
    imgt := BitVec.ofNat 64 (leAt bs 32 8), w := leAt bs 40 2, h := leAt bs 42 2, ox := leAt bs 44 2, oy := leAt bs 46 2,
    tcfgv := BitVec.ofNat 64 (leAt bs 48 8), seqw := leAt bs 56 4, seedb := leAt bs 60 4,
    spbase := BitVec.ofNat 64 (leAt bs 64 8), spstr := leAt bs 72 4, entry := leAt bs 76 4, eimg := leAt bs 80 2,
    rootn := leAt bs 84 4, frbase := BitVec.ofNat 64 (leAt bs 88 8), frstr := BitVec.ofNat 64 (leAt bs 96 8),
    stva := BitVec.ofNat 64 (leAt bs 104 8), opdva := BitVec.ofNat 64 (leAt bs 112 8), afterQ := leAt bs 120 1 % 64,
    av := decide (2 ^ 15 ≤ leAt bs 120 2), afterSeq := leAt bs 124 4, raw := bs }

/-- A field of the packet is reserved and not zero, KIND is reserved, SYM is zero, an address is misaligned, or a KIND 1
packet breaks R377 (order 1 of R369). -/
def badPacket (bs : List Byte) : Bool :=
  let p := packetOf bs
  let nz := fun (i n : Nat) => decide (leAt bs i n ≠ 0)
  decide (1 < p.kind % 16) || p.sym = 0 || nz 2 2 || nz 28 4 || nz 82 2 || nz 122 2 ||
  decide (bitsN (leAt bs 120 2) 14 6 ≠ 0) || (!p.av && decide (p.afterSeq ≠ 0)) ||
  (!p.fixed && (decide (p.ox ≠ 0) || decide (p.oy ≠ 0))) || decide (2 ^ 28 ≤ p.entry) ||
  p.ptroot % 4096 ≠ 0 || p.rtva.toNat % 256 ≠ 0 || p.imgt.toNat % 16 ≠ 0 || p.spstr % 8 ≠ 0 || p.stva.toNat % 64 ≠ 0 ||
  (if p.rootm then p.entry ≠ 0 || p.eimg ≠ 0 || p.frstr ≠ 0 || p.frbase.toNat % 32 ≠ 0 else decide (p.rootn ≠ 0)) ||
  (if p.coded then
    p.w ≠ 0 || p.h ≠ 0 || p.rootm || p.entry ≠ 0 || p.eimg ≠ 0 || p.frbase ≠ 0 || p.frstr ≠ 0 || decide (p.nreg ≠ 1)
   else decide (p.opdva ≠ 0))

/-! ### What the packet names -/

/-- The structures that a packet names, as read once at validation; the operator descriptor is absent where it cannot be
read. -/
structure Named where
  rcbs : List (List Byte)
  imgs : List (List Byte)
  roots : List (List Byte)
  slots : List Byte
  opd : Option (List Byte)

/-- Cuts bytes into records of n bytes. -/
def cut (n : Nat) : (k : Nat) → List Byte → List (List Byte)
  | 0, _ => []
  | k + 1, bs => bs.take n :: cut n k (bs.drop n)

/-- Reads the operator descriptor; a failure to read it is given as nothing (order 7 of R369). -/
def State.readOpd (s : State) (tr : State → Nat → Res Nat) (p : Packet) : Res (Option (List Byte)) :=
  if !p.coded then .ok none s
  else match s.hsRead tr p.opdva.toNat 192 with
    | .ok bs s => .ok (some bs) s
    | .trap _ s => .ok none s
    | .wait s => .wait s

/-- Reads what a packet names. -/
def State.readNamed (s : State) (fw : Bool) (p : Packet) : Res Named :=
  let tr := viaRoot p.ptroot fw
  (s.hsRead tr p.rtva.toNat (256 * p.nreg)).andThen fun rb s =>
    (s.hsRead tr p.imgt.toNat (16 * p.nimg)).andThen fun ib s =>
      (s.hsRead tr p.frbase.toNat (if p.rootm then 32 * p.rootn else 0)).andThen fun cb s =>
        (s.hsRead tr p.stva.toNat (if p.stva = 0 then 0 else 3072 * p.w * p.h)).andThen fun sb s =>
          (s.readOpd tr p).andThen fun ob s =>
            .ok { rcbs := cut 256 p.nreg rb, imgs := cut 16 p.nimg ib, roots := cut 32 (if p.rootm then p.rootn else 0) cb,
                  slots := sb, opd := ob } s

/-! ### Regions (R365 to R367) -/

/-- The effective fields of region i, given those of the regions before it (R366); the launch rectangle stands for the
parent's where there is none. RECT = 0 is the parent's whole rectangle. -/
def regionOf (w h : Nat) (before : List Region) (i : Nat) (bs : List Byte) : Region :=
  let par := leAt bs 0 2
  let up := if i = 0 then none else before[par]?
  let inh := fun (b : Nat) => if up.isSome then bitsN (leAt bs 2 2) b b = 1 else false
  let of := fun (b : Nat) (f : Region → Nat) (own : Nat) => match up with
    | some u => if inh b then f u else own
    | none => own
  let ofB := fun (b : Nat) (f : Region → Bool) (own : Bool) => match up with
    | some u => if inh b then f u else own
    | none => own
  let (px, py, pw, ph) := match up with
    | some u => (u.x0, u.y0, u.rw, u.rh)
    | none => (0, 0, w, h)
  let whole := inh 9 || decide (leAt bs 24 8 = 0)
  let x0 := leAt bs 24 2
  let y0 := leAt bs 26 2
  { parent := par, pri := of 0 Region.pri (leAt bs 4 1), dom := of 1 Region.dom i, pw := of 2 Region.pw (leAt bs 6 1),
    pin := ofB 8 Region.pin (bitsN (leAt bs 7 1) 0 0 = 1), dla := ofB 8 Region.dla (bitsN (leAt bs 7 1) 1 1 = 1),
    age := of 3 Region.age (leAt bs 8 2), tmax := of 4 Region.tmax (leAt bs 10 2), growkb := of 5 Region.growkb (leAt bs 12 4),
    pent := of 6 Region.pent (leAt bs 16 4), rtime := of 7 Region.rtime (leAt bs 20 4),
    x0 := if whole then px else x0, y0 := if whole then py else y0,
    rw := if whole then pw else if leAt bs 28 2 = 0 then px + pw - x0 else leAt bs 28 2,
    rh := if whole then ph else if leAt bs 30 2 = 0 then py + ph - y0 else leAt bs 30 2,
    spmin := of 10 Region.spmin (leAt bs 32 1), psva := BitVec.ofNat 64 (leAt bs 40 8), pslen := leAt bs 48 8,
    started := none, grown := 0, ended := false }

/-- The effective regions of a table. -/
def regionsOf (w h : Nat) (rcbs : List (List Byte)) : List Region :=
  rcbs.foldl (fun rs bs => rs ++ [regionOf w h rs rs.length bs]) []

/-- Region i breaks R365 or R366, or has priority 7 outside a firmware queue. -/
def badRegion (fw : Bool) (w h : Nat) (before : List Region) (i : Nat) (bs : List Byte) : Bool :=
  let r := regionOf w h before i bs
  let par := leAt bs 0 2
  let inhW := leAt bs 2 2
  let own := fun (b : Nat) => decide (i = 0) || decide (bitsN inhW b b = 0)
  let nz := fun (k n : Nat) => decide (leAt bs k n ≠ 0)
  let (px, py, pw, ph) := match (if i = 0 then none else before[par]?) with
    | some u => (u.x0, u.y0, u.rw, u.rh)
    | none => (0, 0, w, h)
  let whole := decide (bitsN inhW 9 9 = 1) || decide (leAt bs 24 8 = 0)
  (if i = 0 then decide (par ≠ 0xFFFF) || decide (inhW ≠ 0) else decide (i ≤ par)) ||
  decide (2 ^ 11 ≤ inhW) || decide (8 ≤ leAt bs 4 1) || decide (2 ≤ leAt bs 5 1) || (own 1 && decide (leAt bs 5 1 ≠ 1)) ||
  decide (4 ≤ leAt bs 7 1) || nz 33 7 || decide ((bs.drop 56).any (fun b => decide (b ≠ 0))) ||
  decide (r.pent = 0) || decide (2 ^ 24 < r.pent) || decide (12 < r.spmin) || r.psva.toNat % 64 ≠ 0 || r.pslen % 64 ≠ 0 ||
  (decide (r.pri = 7) && !fw) ||
  (!whole && !(decide (px ≤ r.x0) && decide (py ≤ r.y0) && decide (0 < r.rw) && decide (0 < r.rh) &&
     decide (r.x0 + r.rw ≤ px + pw) && decide (r.y0 + r.rh ≤ py + ph)))

/-- Some region of a table is bad. -/
def badRegions (fw : Bool) (w h : Nat) (rcbs : List (List Byte)) : Bool :=
  (rcbs.foldl (fun (a : List Region × Bool) bs =>
    (a.1 ++ [regionOf w h a.1 a.1.length bs], a.2 || badRegion fw w h a.1 a.1.length bs)) ([], false)).2

/-! ### Images, roots, rectangle -/

/-- An entry of the image table (Table 11.4). -/
def imageEntry (bs : List Byte) : Word × Nat := (BitVec.ofNat 64 (leAt bs 0 8), leAt bs 8 4)

/-- An entry of the image table is refused. -/
def badImage (bs : List Byte) : Bool :=
  leAt bs 0 8 % 64 ≠ 0 || decide (leAt bs 12 4 ≠ 0) || decide (leAt bs 8 4 = 0) || decide (2 ^ 24 < leAt bs 8 4)

/-- A code address fails R99 against an image of the table, or there is no such image. -/
def badCodeIn (imgs : List (List Byte)) (img code : Nat) : Bool :=
  match imgs[img]? with
  | none => true
  | some bs => decide (2 ^ 28 ≤ code) || code % 16 = 0 || decide ((imageEntry bs).2 ≤ code / 16)

/-- A root record is refused (order 5 of R369). -/
def badRoot (n : Named) (nreg : Nat) (bs : List Byte) : Bool :=
  badCodeIn n.imgs (leAt bs 4 2) (leAt bs 0 4) || decide (leAt bs 6 2 ≠ 0) || decide (leAt bs 16 8 ≠ 0) ||
  decide (nreg ≤ leAt bs 24 4) || decide (8 ≤ leAt bs 28 1) || decide (leAt bs 29 2 ≠ 0) || decide (leAt bs 31 1 ≠ 0)

/-- The record that 32 bytes hold (Table 5.3). -/
def recOf (bs : List Byte) : Rec :=
  { code := BitVec.ofNat 28 (leAt bs 0 4), img := BitVec.ofNat 16 (leAt bs 4 2), frame := BitVec.ofNat 64 (leAt bs 8 8),
    jca := BitVec.ofNat 64 (leAt bs 16 8), region := leAt bs 24 4, pri := leAt bs 28 1 % 8 }

/-- The rectangle fits the package's mesh under no allowed symmetry, at its origin where that is fixed (order 6). -/
def State.badRect (s : State) (p : Packet) : Bool :=
  let (px, py) := s.meshAt
  p.w = 0 || p.h = 0 ||
  !p.syms.any (fun g =>
    let (ew, eh) := extent g p.w p.h
    if p.fixed then
      decide (16 * px ≤ p.ox) && decide (16 * py ≤ p.oy) && decide (p.ox + ew ≤ 16 * px + 16) && decide (p.oy + eh ≤ 16 * py + 16)
    else decide (ew ≤ 16) && decide (eh ≤ 16))

/-- TCFGV is invalid (R23). -/
def badTcfg (v : Word) : Bool := decide (32 ≤ v.toNat) || decide (fld v 3 0 < 2) || decide (12 < fld v 3 0)

/-- Orders 2 to 6 of R369: the DETAIL code of the first failing line, or 0. -/
def State.checkNamed (s : State) (fw : Bool) (p : Packet) (n : Named) : Nat :=
  let regs := regionsOf p.w p.h n.rcbs
  let op := n.opd.map opDescOf
  if badTcfg p.tcfgv || !seqwOk p.tcfgv.toNat p.seqw || regs.any (fun r => decide (fld p.tcfgv 3 0 < r.spmin)) then 2
  else if p.nreg = 0 || decide (4096 < p.nreg) || badRegions fw p.w p.h n.rcbs then 3
  else if p.nimg = 0 || n.imgs.any badImage || (!p.coded && !p.rootm && badCodeIn n.imgs p.eimg p.entry) ||
      (match op with
       | some d => badCodeIn n.imgs d.img d.kcode
       | none => false) then 4
  else if p.rootm && (p.rootn = 0 || decide (65535 < p.rootn) || n.roots.any (badRoot n p.nreg)) then 5
  else if !p.coded && s.badRect p then 6
  else 0

/-- A launch that enters WAIT. -/
def newLaunch (queue seq : Nat) (fw : Bool) (p : Packet) (n : Named) (now no : Nat) (d : Option OpDesc) (inner : List (Option OpDesc)) :
    Launch :=
  { queue := queue, seq := seq, fw := fw, pkt := p, st := .wait, regions := regionsOf p.w p.h n.rcbs,
    images := n.imgs.map imageEntry, roots := n.roots.map recOf, pools := [], slots := n.slots, originX := 0, originY := 0,
    sigma := 0, tiles := [], bars := [], readAt := now, readNo := no, nerr := 0, ndom := 0, faulted := false, aborted := false, opr := none,
    task := none, op := 0, recorded := false, remote := none, opDesc := d, inner := inner, ost := 0, preempt := 0, saved := [], savedAt := 0, slices := [] }

/-- The refusal of a packet: its completion record with STATUS 2, DETAIL and OST (R385); an operator's is counted (R485). -/
def State.refusePacket (s : State) (queue : Nat) (p : Packet) (seq now detail ost : Nat) : State :=
  (if detail = 7 then s.opCount 24 1 else s).sendCompletion queue (completionBytes p.launchId seq 2 detail ost 0 0) now

/-- Takes a packet that has been read, at a time and as a READ with a number, from VALID to WAIT or REFUSED; `checks` is off for a packet
that the host accepted (R469): only what cannot be read is then refused. -/
def State.acceptPacket (s : State) (queue seq : Nat) (p : Packet) (now no : Nat) (checks : Bool) : Res Unit :=
  let fw := (s.lqueue queue).fw
  let refuse := fun (d ost : Nat) (s : State) => Res.ok () (s.refusePacket queue p seq now d ost)
  match s.readNamed fw p with
  | .wait s => .wait s
  | .trap _ s => refuse 1 0 s
  | .ok n s =>
    let d := if checks then s.checkNamed fw p n else 0
    if d ≠ 0 then refuse d 0 s
    else if !p.coded then .ok () (s.addLaunch (newLaunch queue seq fw p n now no none []))
    else match s.checkOperator p.ptroot fw p.opdva.toNat checks (match n.opd with
        | some bs => .ok bs s
        | none => .trap hsBad s) with
      | .wait s => .wait s
      | .trap _ s => refuse 7 4 s
      | .ok (.error e) s => refuse 7 e s
      | .ok (.ok (d, inner)) s => .ok () (s.addLaunch (newLaunch queue seq fw p n now no (some d) inner))

/-! ### Inner operators of another package (R357, log entry 104) -/

/-- Tells another package the status byte of the inner operator of its task: a CTRL packet with CNT 3. -/
def State.sendStatus (s : State) (pkg r t ost : Nat) : State :=
  s.request { s.hsPkt .ctrl 0 pkg with cnt := 3, len := 3, data := leBytes 1 r ++ leBytes 1 t ++ leBytes 1 ost }

/-- Serves another package's request for an inner operator: it is validated as any operator, and enters WAIT or is refused. -/
def State.serveInner (s : State) (p : Pkt) : State :=
  let outer := packetOf (p.data.take 128)
  let r := leAt p.data 128 1
  let t := leAt p.data 129 1
  let fw := decide (leAt p.data 130 1 = 1)
  let pk := { outer with opdva := BitVec.ofNat 64 p.addr, av := false }
  let done := fun (s : State) => { s with hfar := [] }.answer { p with typ := .wack }
  let refuse := fun (ost : Nat) (s : State) => ((done s).opCount 24 1).sendStatus p.spkg r t ost
  let got := (s.readNamed fw pk).andThen fun n s =>
    (s.hsRead (viaRoot outer.ptroot fw) outer.opdva.toNat 192).andThen fun ob s => .ok (n, opDescOf ob) s
  match got with
  | .wait s => s
  | .trap _ s => refuse 4 s
  | .ok (n, d) s =>
    let i := n.opd.bind (innerOf p.addr)
    let ost := s.innerStatus pk.ptroot fw d i
    if ost ≠ 0 then refuse ost s
    else
      let s := { s with reads := s.reads + 1 }
      (done s).addLaunch { newLaunch 64 (leAt p.data 132 4) fw pk n s.ns s.reads i [] with
        remote := some { pkg := p.spkg, opr := r, task := t, outer := d } }

/-- Notes the status byte of an inner operator that another package has run. -/
def State.noteStatus (s : State) (p : Pkt) : State :=
  let r := leAt p.data 0 1
  let o := s.opr r
  (if o.st = 0 then s else s.setOpr r { o with tst := AMap.put o.tst (leAt p.data 1 1) (leAt p.data 2 1) }).answer { p with typ := .wack }

end Sys2Proof.Machine
end

