-- ==== Sys2Proof/Machine/Launch.lean ====
section
/-! DEFINITION. Launch queues, launches and their pools (spec/11_regions_launch_scheduling.md): what the Headstock does, and
what software writes to it. -/

namespace Sys2Proof.Machine

/-! ### Queue registers (R359, R360) -/

/-- A write of TAIL (R360). -/
def State.writeTail (s : State) (n : Nat) (tail : BitVec 32) : State :=
  let q := s.lqueue n
  if q.en && !q.dev && decide ((tail - q.tail).toNat < 2 ^ 31) && decide ((tail - q.head).toNat ≤ q.entries) then
    s.setLqueue n { q with tail := tail }
  else s.sendRecord (ErrRec.ofType 7)

/-- TAIL_WRITE (R360): by the host or by a management core alike. -/
def execTailWrite (_host : Bool) (queue : BitVec 6) (tail : BitVec 32) (s : State) : Out := .next (s.writeTail queue.toNat tail)

/-- A write of CRHEAD (R360, R386): the records that wait are written while there is room. -/
def State.writeCrhead (s : State) (n : Nat) (head : BitVec 32) : State :=
  let q := s.lqueue n
  if (head - q.crhead).toNat ≤ (q.crtail - q.crhead).toNat then
    (s.setLqueue n { q with crhead := head }).flushRecords n (q.waiting.length + 1)
  else s.sendRecord (ErrRec.ofType 7)

/-- CRHEAD_WRITE (R360, R386). -/
def execCrheadWrite (queue : BitVec 6) (head : BitVec 32) (s : State) : Out := .next (s.writeCrhead queue.toNat head)

/-- No packet of a queue is short of DONE (Table 11.6). -/
def State.queueIdle (s : State) (n : Nat) : Bool :=
  decide ((s.lqueue n).head = (s.lqueue n).tail) &&
  !s.launches.any (fun e => decide (e.2.queue = n) && e.2.task.isNone) &&
  !s.mbox.reqs.any (fun r => decide (r.fn = 1) && decide (r.about = n))

/-- A write of LQCFGn (Table 11.1). The host does not change FW; a queue does not come on in RECOVERY. -/
def State.writeLqcfg (s : State) (host : Bool) (n : Nat) (v : Word) : State :=
  let q := s.lqueue n
  let sized := fun (hi lo : Nat) => decide (4 ≤ fld v hi lo) && decide (fld v hi lo ≤ 15)
  if q.en then
    if bit v 0 then s
    else if s.queueIdle n then s.setLqueue n { q with cfg := setBit q.cfg 0 false }
    else s.sendRecord (ErrRec.ofType 7)
  else if bit v 0 && !(sized 11 8 && sized 15 12) then s.sendRecord (ErrRec.ofType 7)
  else
    let c : Word := v &&& 0xFF07
    let c := if host then setBit c 2 q.fw else c
    let c := if s.fw.boot = 2 then setBit c 0 false else c
    s.setLqueue n { q with cfg := c }

/-- LQCFG_WRITE (R359). -/
def execLqcfgWrite (host : Bool) (queue : BitVec 6) (v : Word) (s : State) : Out :=
  .next (s.writeLqcfg host queue.toNat v)

/-! ### Reading packets (R362, R368) -/

/-- A queue has a packet that may be read now (R362, R467). -/
def State.readable (s : State) (n : Nat) : Bool :=
  let q := s.lqueue n
  q.en && decide (q.head ≠ q.tail) && q.waiting.isEmpty &&
  !s.launches.any (fun e => decide (e.2.queue = n) && e.2.task.isNone && decide (e.2.st = .wait)) &&
  !s.mbox.reqs.any (fun r => decide (r.fn = 1) && decide (r.about = n))

/-- The queue read next: the one whose packet is in READ; else, while no firmware update runs, round robin, firmware queues first (R362,
R467). -/
def State.nextQueue (s : State) : Option Nat :=
  if s.reading.isSome then s.reading
  else if s.fw.st ≠ 0 then none
  else
  let ring := (List.range 64).map (fun i => (s.rrQueue + 1 + i) % 64)
  match ring.find? (fun n => (s.lqueue n).fw && s.readable n) with
  | some n => some n
  | none => ring.find? s.readable

/-- Keeps the time and the number of READ with the request that has just been posted. -/
def State.noteRead (s : State) : State :=
  let n := s.mbox.reqs.length
  { s with mbox := { s.mbox with reqs := s.mbox.reqs.modify (n - 1) (fun r => { r with data := r.data ++ leBytes 8 s.ns ++ leBytes 8 s.reads }) } }

/-- LAUNCH_PACKET_READ (R362, R368, R369): the packet is read once, HEAD advances, and the packet is validated, or posted to
the host under DUTY VAL (R469). LAUNCHID of a packet that cannot be read is open (log entry 17, site 10). -/
def execLaunchPacketRead (queue : BitVec 6) (s : State) : Out :=
  let n := queue.toNat
  if s.nextQueue ≠ some n then .next s
  else
    let q := s.lqueue n
    let read := fun (s : State) => { s.setLqueue n { q with head := q.head + 1 } with rrQueue := n, reading := none, reads := s.reads + 1 }
    let undo := fun (s' : State) => { s'.setLqueue n q with rrQueue := s.rrQueue, reading := some n, reads := s.reads }
    let r : Res Unit :=
      match s.hsRead viaPa (q.base.toNat + 128 * (q.head.toNat % q.entries)) 128 with
      | .wait s => .wait (undo s)
      | .trap _ s =>
        let seq := (q.head + 1).toNat
        let id := (Config.unstated 10 [BitVec.ofNat 64 n, BitVec.ofNat 64 seq]).toNat % 2 ^ 32
        let s := read s
        .ok () (s.refusePacket n { packetOf [] with launchId := id } seq s.ns 1 0)
      | .ok bs s =>
        let p := packetOf bs
        let seq := (q.head + 1).toNat
        let s := read s
        if bit s.mbox.duty 0 then .ok () (s.postRequest 1 n bs).noteRead
        else if badPacket bs then .ok () (s.refusePacket n p seq s.ns 1 0)
        else match s.acceptPacket n seq p s.ns s.reads true with
          | .ok u s' => .ok u s'
          | .trap t s' => .trap t s'
          | .wait s' => .wait (undo s')
    .next (r.after (fun _ s => s) (fun s => s))

/-! ### Claiming (R370 to R375) -/

/-- A launch that waits only for a coding register, or only for a rectangle. -/
def State.ready (s : State) (l : Launch) (coded : Bool) : Bool :=
  decide (l.st = .wait) && l.preempt = 0 && !s.afterBusy l.pkt && (l.opDesc.isSome == coded)

/-- Launch a stands ahead of launch b in claim order (R371). -/
def State.ahead (s : State) (a b : Nat × Launch) : Bool :=
  let fuel := s.launches.length + 1
  let pa := s.effPri fuel a.1
  let pb := s.effPri fuel b.1
  if pa ≠ pb then decide (pb < pa)
  else if a.2.readNo ≠ b.2.readNo then decide (a.2.readNo < b.2.readNo)
  else decide (a.1 < b.1)

/-- No other launch that waits for the same stands ahead. -/
def State.first (s : State) (k : Nat) (l : Launch) (coded : Bool) : Bool :=
  s.ready l coded && s.launches.all (fun e => !(s.ready e.2 coded && s.ahead e (k, l)))

/-- The origins for a launch: a task rectangle lies on the die of its task (R342, R377). -/
def State.originsOf (s : State) (l : Launch) : List (Nat × Nat) :=
  match l.task with
  | none => s.origins l.pkt
  | some (r, t) =>
    let (px, py) := s.meshAt
    let d := (s.opr r).die t - 1
    let x0 := 16 * px + 4 * (d % 4)
    let y0 := 16 * py + 4 * (d / 4)
    (List.range (5 - l.pkt.h)).flatMap (fun y => (List.range (5 - l.pkt.w)).map (fun x => (x0 + x, y0 + y)))

/-- Pops the oldest record of a pool: the pool returns to its base level and its timer restarts (R380). -/
def Launch.popRec (l : Launch) (p : Pool) (now : Word) : Launch :=
  let mine := fun (x : Pool) => decide (x.region = p.region) && decide (x.pri = p.pri)
  { l with pools := updWhere mine (fun x => { x with recs := x.recs.drop 1, level := x.pri, timer := now }) l.pools }

/-- A tile that may take a record: idle, bound to a running launch that is not being pre-empted (R379, R441). -/
def State.mayTake (s : State) (t : Tile) : Bool :=
  t.cont.isNone && !t.tcc.intrap && !t.dbg.stopped &&
  (match t.bound with
   | none => false
   | some k => match AMap.find? s.launches k with
     | none => false
     | some l => decide (l.st = .run) && l.preempt = 0)

/-- A record that leaves its pool: it is read from the pool store, whose ECC corrects it or not (R448), or a spilled one from its place
in the spill area (R378). -/
def State.unspill (s : State) (k : Nat) (x : Region) (r : Rec) : Res Rec :=
  match r.spill with
  | none =>
    let s := r.ecc.foldl (fun s x => s.logEvent 7 0 (storeBlock (k * 4096 + r.region)) (if x.2 then 1 else 2) false 0x300) s
    if r.ecc.all (fun x => x.2) then .ok { r with ecc := [] } s else .trap (TrapI.mk3 9 1 0) s
  | some i =>
    (s.hsRead (viaLaunch k false) (x.psva.toNat + 32 * i) 32).andThen fun bs s =>
      .ok { recOf bs with region := r.region, pri := r.pri } { s with hfar := [] }

/-- The oldest record of the best pool starts on an idle tile (R379). A spilled record that cannot be read back ends its region's
domain (R378). -/
def State.takeRecord (s : State) (tile : Nat) : State :=
  let t := s.tile tile
  let k := t.bound.getD 0
  if !s.mayTake t then s
  else match s.choosePool k tile, AMap.find? s.launches k with
    | some p, some l => match p.recs, l.regions[p.region]? with
      | r :: _, some x =>
        let level := poolLevel (s.donated k) p
        match s.unspill k x r.1 with
        | .wait s => s
        | .trap t s => { s with hfar := [] }.spillEnds k x.dom t
        | .ok r s =>
          let s := s.updLaunch k (fun l => l.popRec p s.bedt)
          s.startRec k tile r level
      | _, _ => s
    | _, _ => s

/-- Pushes roots into their pools in order; the first one whose pool has no free entry holds those behind it (R375, R378). -/
def State.pushRoots (k : Nat) : List Rec → State → State × List Rec
  | [], s => (s, [])
  | r :: rs, s => match s.pushRec k r with
    | none => (s, r :: rs)
    | some s => State.pushRoots k rs s

/-- Pushes the roots of a launch that still stand outside its pools. -/
def State.pushLeft (s : State) (k : Nat) (l : Launch) : State :=
  let (s, left) := State.pushRoots k l.roots s
  s.updLaunch k (fun l => { l with roots := left })

/-- Every idle tile of a launch that enters RUN takes a record, in ascending physical order (R379); their starts are those of one
launch entry (R375, R461). -/
def State.takeFirst (s : State) (k : Nat) (tiles : List Nat) : State :=
  let s := tiles.foldl (fun s g => s.updTile g (fun t => { t with fresh := false })) s
  let s := (sortBy (fun (a b : Nat) => decide (a ≤ b)) tiles).foldl State.takeRecord s
  let on := fun (g : Nat) => (s.tile g).cont.isSome && decide ((s.tile g).bound = some k)
  let s' := tiles.foldl (fun s g => if on g then s else s.updTile g (fun t => { t with fresh := true })) s
  s'.enterStarts (tiles.filter on)

/-- Seeds the roots of a launch that is bound (R375, R377). -/
def State.seedRoots (s : State) (k : Nat) : State :=
  match AMap.find? s.launches k with
  | none => s
  | some l =>
    if l.pkt.rootm then
      (s.pushLeft k l).takeFirst k l.tiles
    else
      let region := if l.task.isSome then 1 else 0
      let rec0 := fun (n : Nat) => ({ code := BitVec.ofNat 28 l.pkt.entry, img := BitVec.ofNat 16 l.pkt.eimg,
                                      frame := l.pkt.frbase + BitVec.ofNat 64 n * l.pkt.frstr, jca := 0, region := region,
                                      pri := l.pri } : Rec)
      s.startAll k ((List.range l.tiles.length).zip l.tiles |>.map (fun p => (p.2, rec0 p.1))) l.pri

/-- Refuses a packet in CLAIM (R374, R387). -/
def State.refuseClaim (s : State) (k : Nat) (l : Launch) (detail : Nat) : State :=
  let s := { s with launches := AMap.del s.launches k }
  s.refusePacket l.queue l.pkt l.seq l.readAt detail 0

/-- CLAIM at an origin and symmetry (Table 11.6): binds the tiles, brings them to their state at launch entry, loads and
checks the slot tables, and seeds the roots. -/
def State.claimAt (s : State) (k : Nat) (l : Launch) (fit : Nat × Nat × Nat × List Nat) : State :=
  let (ox, oy, sym, tiles) := fit
  if !l.slots.isEmpty && !slotsOk l.slots l.pkt.w l.pkt.h then s.refuseClaim k l 8
  else
    let l' := { l with st := .run, originX := ox, originY := oy, sigma := sym, tiles := tiles }
    let s := { s with launches := AMap.put s.launches k l' }
    (((s.enterTiles k l.seq l.pkt 0 tiles).loadSlots sym l.slots tiles).seedRoots k)

/-- Adds what a task's launch counted to its operator's, and releases it. The status of an inner operator stays with its task (R357). -/
def State.foldTask (s : State) (k : Nat) : State :=
  match AMap.find? s.launches k with
  | none => s
  | some l =>
    let s := match l.task with
      | some (r, t) => if l.opDesc.isSome then s.setOpr r { s.opr r with tst := AMap.put (s.opr r).tst t l.ost } else s
      | none => s
    (s.releaseLaunch k).updLaunch l.op (fun u => { u with nerr := Nat.min (u.nerr + l.nerr) (2 ^ 32 - 1), ndom := u.ndom + l.ndom })

/-- LAUNCH_CLAIM (R339, R370 to R375): an operator takes a coding register, a launch its rectangle; under DUTY SCHED the
rectangle is asked for, and a request once posted is answered by the host (R469). The seeding of a launch that runs goes on while roots are
left outside its pools (R375, R378). -/
def execLaunchClaim (launch : Nat) (s : State) : Out :=
  match AMap.find? s.launches launch with
  | none => .next s
  | some l =>
    if l.st = .run ∧ !l.roots.isEmpty then .next (s.pushLeft launch l)
    else if l.opDesc.isSome then
      match s.freeOpr with
      | none => .next s
      | some r => if !s.first launch l true then .next s
        else
          let s := s.startOperator launch r
          .next (if (s.opr r).eras = 0 then s else (s.opHandled r 0 false).orElse s)
    else match (if l.recorded then none else l.task) with
    | some (r, t) => .next (s.recordTask launch l r t (fun s' =>
        (((s'.foldTask launch).setOpr r { s'.opr r with eras := tset (s'.opr r).eras t }).opHandled r t false).orElse s'))
    | none =>
    if s.postedBy launch 1 || !s.first launch l false then .next s
    else if s.mbox.asked 6 launch then .next s
    else if bit s.mbox.duty 5 && l.task.isNone then .next (s.postRequest 6 launch (leBytes 4 l.pkt.launchId ++ leBytes 4 l.seq ++ leBytes 2 l.pkt.w ++ leBytes 2 l.pkt.h ++
        leBytes 1 l.pkt.kind ++ leBytes 1 l.pkt.sym ++ leBytes 2 l.queue))
    else match s.firstFit l.pkt (s.originsOf l) with
      | none => .next s
      | some fit => .next (s.claimAt launch l fit)

/-! ### Pools (R378 to R380) -/

/-- TILE_CHOOSE_RECORD (R379). -/
def execTileChooseRecord (tile : Nat) (s : State) : Out := .next (s.takeRecord tile)

/-- POOL_AGEING (R380). -/
def execPoolAgeing (launch region : Nat) (pri : BitVec 3) (s : State) : Out :=
  match AMap.find? s.launches launch with
  | none => .next s
  | some l =>
    let age := match l.regions[region]? with
      | some r => r.age
      | none => 0
    let due := fun (p : Pool) => decide (p.region = region) && decide (p.pri = pri.toNat) && !p.recs.isEmpty &&
      decide (age ≠ 0) && decide (p.pri ≠ 7) && decide (p.level < 6) && decide (age * 2000 ≤ (s.bedt - p.timer).toNat)
    if l.st ≠ .run then .next s
    else
      let l := { l with pools := updWhere due (fun p => { p with level := p.level + 1, timer := s.bedt }) l.pools }
      .next { s with launches := AMap.put s.launches launch l }

/-- RTIME_BUDGET (R367): a region that has run longer than RTIME ends its domain with the budget cause. -/
def execRtimeBudget (launch region : Nat) (s : State) : Out :=
  match AMap.find? s.launches launch with
  | none => .next s
  | some l => match l.regions[region]? with
    | none => .next s
    | some r => match r.started with
      | none => .next s
      | some t0 =>
        if l.st = .run ∧ r.rtime ≠ 0 ∧ r.ended = false ∧ t0 + r.rtime * 1000 < s.ns then
          .next (s.endDomain launch r.dom { ErrRec.ofType 1 with cause := 36, info := r.rtime })
        else .next s

/-! ### The end of a launch (R383 to R387) -/

/-- The halt line of a tile (R383). -/
def State.haltLine (s : State) (k g : Nat) : Bool :=
  let t := s.tile g
  t.cont.isNone && !t.tcc.intrap && !t.dbg.stopped && t.faults.isEmpty && t.lq.drained && t.xq.drained && t.sq.drained &&
  (s.choosePool k g).isNone

/-- The halt AND tree of a launch fires. -/
def State.haltTree (s : State) (k : Nat) (l : Launch) : Bool :=
  decide (l.st = .run) && l.opDesc.isNone && l.preempt = 0 && l.roots.isEmpty && l.tiles.all (s.haltLine k)

/-- HALT_TREE_FIRE (R383); an operator instead reaches DRAIN with its drain word (R353, R377). -/
def execHaltTreeFire (launch : Nat) (s : State) : Out :=
  match AMap.find? s.launches launch with
  | none => .next s
  | some l =>
    if l.st = .run ∧ l.opr.isSome ∧ l.preempt = 0 then .next (s.drainOp (l.opr.getD 0))
    else if s.haltTree launch l then .next { s with launches := AMap.put s.launches launch { l with st := .drain } } else .next s

/-- Every write of every path of launch k has been performed, and every answer has come (R384); for an operator, those of its tasks
too, and the Headstock's writes of C (R352). -/
def State.drained (s : State) (k : Nat) (l : Launch) : Bool :=
  !s.net.any (fun p => match p.src with
    | .tile g => l.tiles.contains g
    | _ => false) &&
  l.tiles.all (fun g =>
    let t := s.tile g
    t.mxe.tickets.toList.all (fun k => decide (k.st ≠ 1)) && t.tcc.obj.isNone) &&
  (l.opDesc.isNone || (!s.hsPosted && !s.launches.any (fun e => e.2.task.isSome && decide (e.2.op = k))))

/-- A fault domain of a task rectangle has ended: its task is erased (R347). -/
def Launch.taskEnded (l : Launch) : Bool :=
  match l.regions[1]? with
  | some r => r.ended
  | none => false

/-- The task of a launch has been erased, or its operator no longer holds the register (R347, R353). -/
def State.taskOver (s : State) (l : Launch) (r t : Nat) : Bool :=
  let o := s.opr r
  o.st = 0 || decide (o.launch ≠ l.op) || tbit o.eras t

/-- The end of a launch in DRAIN (R384 to R387): the completion record is written and the rectangle released. A task
rectangle writes no record: it waits for its arrival or erasure to be handled (R347). -/
def State.drainDone (s : State) (k : Nat) (l : Launch) : State :=
  match l.task with
  | some (r, t) =>
    if l.opDesc.isNone && s.taskOver l r t then s.foldTask k
    else if l.opDesc.isNone && l.taskEnded then s
    else { s with launches := AMap.put s.launches k { l with st := .done } }
  | none =>
    match l.remote with
    | some x => (s.releaseLaunch k).sendStatus x.pkg x.opr x.task l.ost
    | none =>
    let st := if l.aborted then 3 else b2n l.faulted
    (s.releaseLaunch k).sendCompletion l.queue (completionBytes l.pkt.launchId l.seq st 0 l.ost l.nerr l.ndom) l.readAt

/-- LAUNCH_DRAIN_DONE (R384). -/
def execLaunchDrainDone (launch : Nat) (s : State) : Out :=
  match AMap.find? s.launches launch with
  | none => .next s
  | some l => if l.st = .drain ∧ s.drained launch l then .next (s.drainDone launch l) else .next s

/-! ### Queue growth (R388 to R390) -/

/-- The smallest full queue of a tile, ties in the order LQ, XQ, SQ. -/
def Tile.growQueue (t : Tile) : Option Q :=
  [Q.l, Q.x, Q.s].foldl (fun (a : Option Q) q =>
    if !(t.queue q).isFull then a
    else match a with
      | none => some q
      | some b => if (t.queue q).cap < (t.queue b).cap then some q else a) none

/-- The region that a growth of a tile is charged to (R389). -/
def Tile.chargeRegion (t : Tile) : Nat :=
  match t.cont with
  | some c => c.region
  | none => 0

/-- Inserts a segment after the most recently issued entry of a queue (R388). -/
def State.insertSeg (s : State) (g : Nat) (q : Q) (seg region : Nat) : State :=
  let x := (s.tile g).queue q
  match x.ents.getLast? with
  | none => s
  | some e =>
    let first : BitVec 32 := BitVec.ofNat 32 (seg + 2 ^ 31)
    let x' := { x with segs := x.segs ++ [(seg, e.at_, x.tail, region)], tail := first }
    let s := s.updTile g (fun t => { (t.setQueue q x').bump 137 with stall := 0 })
    if bit e.at_ 31 then s
    else s.storeHome (tileBase g + fld e.at_ 23 0 * 64 + 40) (leBytes 4 first.toNat)

/-- The queue-growth fault (R390): the charged region's domain ends. -/
def State.growFault (s : State) (g k : Nat) (q : Q) (l : Launch) (region sub : Nat) : State :=
  let r := ErrRec.ofType 1
  let r := match (((s.tile g).queue q).ents.find? (fun e => decide (e.st ≠ .done))) with
    | some e => { r with cmd := e.cmd.toNat, pc := e.isn.toNat % 2 ^ 32 }
    | none => r
  s.endDomain k (l.domOf region) { r with cause := 34, sub := sub, loc := whereTile g, info := q.code }

/-- QUEUE_GROWTH (R388 to R390): after 64 stalled cycles the smallest full queue takes a segment of its die's pool; which
free one is open (log entry 17, site 11). -/
def execQueueGrowth (tile : Nat) (s : State) : Out :=
  let t := s.tile tile
  if t.stall < 64 ∨ t.dbg.stopped then .next s
  else match t.growQueue, t.bound with
    | some q, some k => match AMap.find? s.launches k with
      | none => .next s
      | some l =>
        let region := t.chargeRegion
        let free := s.freeSegs (tile / 16)
        let (grown, lim) := match l.regions[region]? with
          | some r => (r.grown, r.growkb)
          | none => (0, 0)
        if free.isEmpty then .next (s.growFault tile k q l region 1)
        else if lim < grown + 16 then .next (s.growFault tile k q l region 2)
        else
          let i := (Config.unstated 11 [BitVec.ofNat 64 s.free]).toNat % free.length
          let l := { l with regions := l.regions.modify region (fun r => { r with grown := r.grown + 16 }) }
          let s := { s with launches := AMap.put s.launches k l, free := s.free + 1,
                            segsFree := AMap.put s.segsFree (tile / 16) (free.eraseIdx i) }
          .next (s.insertSeg tile q (free.getD i 0) region)
    | _, _ => .next s

/-! ### Coded operators (R347, R348, R353) -/

/-- The launch of a task of the operator that a register serves, by key. -/
def State.taskLaunch (s : State) (r t : Nat) : Option (Nat × Launch) :=
  List.find? (fun e => decide (e.2.task = some (r, t)) && decide (e.2.op = (s.opr r).launch)) s.launches

/-- Task t of register r is still outstanding. -/
def State.taskOpen (s : State) (r t : Nat) : Bool :=
  let o := s.opr r
  o.st ≠ 0 && (match o.desc with
    | none => false
    | some d => decide (t < d.tasks)) && !tbit o.arr t && !tbit o.eras t

/-- How outer task t of a register has ended in another package (R357): the code of the status that has come from there, or 16 where the
package is lost. -/
def State.remoteDone (s : State) (r t : Nat) : Option Nat :=
  let o := s.opr r
  match o.desc with
  | none => none
  | some d =>
    if !d.nest || d.pkgs.getD t 0 = 0 then none
    else match AMap.find? o.tst t with
      | some ost => some (ost % 16)
      | none => if tbit o.gone t then some 16 else none

/-- CODED_TASK_ARRIVAL (R347): the task's rectangle has halted without fault, or its inner operator has completed with code 0;
for a task of another package its answer has come (R357). -/
def execCodedTaskArrival (opr task : BitVec 4) (s : State) : Out :=
  let r := opr.toNat
  let t := task.toNat
  if !s.taskOpen r t then .next s
  else
    let arrive := fun (s : State) =>
      let o := s.opr r
      (s.setOpr r { o with arr := tset o.arr t }).opHandled r t true
    match s.taskLaunch r t with
    | some (k, l) =>
      if l.st ≠ .done ∨ l.taskEnded ∨ l.ost % 16 ≠ 0 then .next s
      else .next ((arrive (s.foldTask k)).orElse s)
    | none => if s.remoteDone r t = some 0 then .next ((arrive s).orElse s) else .next s

/-- CODED_TASK_ERASURE (R347): the task's domain has ended, its die is out of service or excluded before it could start, its inner operator has another status,
or a task of another package is lost. -/
def execCodedTaskErasure (opr task : BitVec 4) (s : State) : Out :=
  let r := opr.toNat
  let t := task.toNat
  if !s.taskOpen r t then .next s
  else
    let erase := fun (s : State) =>
      let o := s.opr r
      (s.setOpr r { o with eras := tset o.eras t }).opHandled r t false
    match s.taskLaunch r t with
    | none => if (s.remoteDone r t).getD 0 ≠ 0 then .next ((erase s).orElse s) else .next s
    | some (k, l) =>
      if l.opDesc.isSome then
        if l.st = .done ∧ l.ost % 16 ≠ 0 then .next ((erase (s.foldTask k)).orElse s) else .next s
      else if l.taskEnded then
        .next ((erase (if l.st = .done ∨ l.st = .wait ∨ l.st = .drain ∧ s.drained k l then s.foldTask k else s)).orElse s)
      else if s.sockOut ((s.opr r).die t) || (decide (l.st = .wait) && s.dieExcluded ((s.opr r).die t)) then
        .next ((erase (if l.st = .wait then s.foldTask k else s)).orElse s)
      else .next s

end Sys2Proof.Machine
end

