-- ==== Sys2Proof/Machine/Save.lean ====
section
/-! DEFINITION. The tile save record (R442, Table 13.8): its sections, its bytes, and what a restore takes from them. It is
written by pre-emption and by the debugger's DUMP (R480). -/

namespace Sys2Proof.Machine

/-- Bytes padded with zeros to a length. -/
def padTo (n : Nat) (bs : List Byte) : List Byte := bs ++ List.replicate (n - bs.length) 0

/-- Bytes of an opaque section: their layout is not architectural (log entry 16). -/
def opaqueBytes (sec n : Nat) : List Byte := (List.range n).map (Config.opaqueSection sec)

/-- ECAUSE, EINFO, EWORD and ESTATUS of the fault that waits at a tile. -/
def Tile.pendingRegs (t : Tile) : List Word :=
  let st := (t.tcc.status t.frz).toNat % 64 + b2n t.tcc.arrived * 64
  match t.tcc.pend, t.faults with
  | some (p, _, ew), _ => [ecauseOf p 0 false, p.info, ew, BitVec.ofNat 64 st]
  | none, f :: _ => [ecauseOf (TrapI.mk3 f.cause f.sub f.info) (f.q.code + 1) f.frz, f.info, f.word,
                     BitVec.ofNat 64 (st + b2n t.cont.isNone * 128 + f.isn.toNat % 2 ^ 32 * 2 ^ 32)]
  | none, [] => [0, 0, 0, 0]

/-- The code address at which the control core resumes: the instruction that waits, with its prefixes (R115, R168). -/
def Tcc.resumeAt (c : Tcc) : CodeAddr :=
  match c.pfx with
  | some p => p.start
  | none => c.pc

/-- Section 0. -/
def Tile.sec0 (t : Tile) : List Byte :=
  let c := t.tcc
  padTo 0x1D0 (padTo 0x1A8 (((List.range 32).flatMap (fun i => leBytes 8 (c.g (BitVec.ofNat 5 i)).toNat)) ++
    leBytes 8 c.resumeAt.toNat ++ leBytes 8 c.img.toNat ++ leBytes 8 (c.preds.toNat / 2 * 2 + 1) ++
    leBytes 8 c.loop0.ae.toNat ++ leBytes 8 c.loop1.ae.toNat ++ c.ras.reverse.flatMap (fun a => leBytes 8 a.toNat)) ++
    leBytes 8 c.latches.toNat ++ t.pendingRegs.flatMap (fun w => leBytes 8 w.toNat))

/-- The value of special register n in section 1. -/
def Tile.savedSr (t : Tile) (g n : Nat) : Word :=
  if srAcc n = .reserved ∨ (0x070 ≤ n ∧ n ≤ 0x075) ∨ n = 0x080 ∨ n = 0x081 then 0
  else if n = 0 then t.tcc.status t.frz
  else if 0x010 ≤ n ∧ n ≤ 0x01B then t.tcc.sr n
  else t.sr g n

/-- The recorded tile of a group as a logical tile number. -/
def Launch.ltnOf (l : Launch) (base : Nat) : Nat := l.tiles.findIdx (fun g => decide (tileBase g = base))

/-- The word of fabric group n. -/
def Tile.groupWord (t : Tile) (l : Launch) (n : Nat) : Nat :=
  match AMap.find? t.groups n with
  | none => 0
  | some x => x.c.toNat + (match x.tile with
      | some b => l.ltnOf b % 2 ^ 24 * 2 ^ 32
      | none => 0) + 2 ^ 63

/-- Section 1. -/
def Tile.sec1 (t : Tile) (l : Launch) (g : Nat) : List Byte :=
  padTo 0xA80 (((List.range 0x140).flatMap (fun n => leBytes 8 (t.savedSr g n).toNat)) ++
    t.xret.flatMap (fun w => leBytes 8 w.toNat)) ++
  t.iss.toList.flatMap (fun w => leBytes 4 w.toNat) ++ t.ack.toList.flatMap (fun w => leBytes 4 w.toNat) ++
  padTo 0x80 ((List.range 15).flatMap (fun i => leBytes 8 (t.groupWord l (i + 1)))) ++ opaqueBytes 1 512

/-- Section 2. -/
def Tile.sec2 (t : Tile) : List Byte :=
  t.vxe.v.toList.flatMap (fun w => leBytes 256 w.toNat) ++ leBytes 8 (2 ^ 64 - 1) ++
  (t.vxe.m.toList.drop 1).flatMap (fun w => leBytes 8 w.toNat) ++
  leBytes 4 t.vxe.hi.toNat ++ leBytes 4 t.vxe.lo.toNat ++ leBytes 4 (b2n t.vxe.empty)

/-- Section 5. -/
def Tile.sec5 (t : Tile) : List Byte :=
  t.mxe.tickets.toList.flatMap (fun k =>
    if k.st = 0 then [] else opaqueBytes 5 64 ++ padTo (16 * k.n) (k.res.flatMap slotBytes))

/-- Section 7: the segments of the queues, each with its queue number and link position (their places in the 16 bytes are
log entry 29). -/
def Tile.sec7 (t : Tile) : List Byte :=
  [Q.l, Q.x, Q.s].flatMap (fun q =>
    let x := t.queue q
    x.segs.flatMap (fun sg =>
      ((List.range 256).flatMap (fun i =>
        let pos : BitVec 32 := BitVec.ofNat 32 (sg.1 + i + 2 ^ 31)
        match x.ents.find? (fun e => decide (e.at_ = pos)) with
        | some e => e.bytes (nextPos t.tcfg q x pos)
        | none => opaqueBytes 7 64)) ++ leBytes 8 q.code ++ leBytes 8 sg.2.1.toNat))

/-- The contents of section i of a tile (Table 13.8). -/
def State.section (s : State) (l : Launch) (g i : Nat) : List Byte :=
  let t := s.tile g
  let b := tileBase g
  match i with
  | 0 => t.sec0
  | 1 => t.sec1 l g
  | 2 => t.sec2
  | 3 => opaqueBytes 3 640
  | 4 => opaqueBytes 4 458752
  | 5 => t.sec5
  | 6 => s.mem.getN b t.spBytes
  | 7 => t.sec7
  | 8 => s.mem.getN (b + atomBase) (atomEnd - atomBase)
  | _ => s.mem.getN (b + zBase) 2621440 ++ opaqueBytes 9 49152

/-- Round up to a multiple of 64. -/
def up64 (n : Nat) : Nat := (n + 63) / 64 * 64

/-- The directory and the sections, each at a 64-byte aligned offset from 320 on. -/
def layout (secs : List (List Byte)) : List Byte × List Byte :=
  secs.foldl (fun (a : List Byte × List Byte) b =>
    if b.isEmpty then (a.1 ++ leBytes 16 0, a.2)
    else (a.1 ++ leBytes 8 (320 + a.2.length) ++ leBytes 8 b.length, a.2 ++ padTo (up64 b.length) b)) ([], [])

/-- A tile save record of a kind (1 soft, 2 hard, 3 dump) with the sections of a mask. -/
def State.saveRecord (s : State) (l : Launch) (g kind mask : Nat) : List Byte :=
  let t := s.tile g
  let flg := b2n (tbit mask 9) + b2n t.tcc.arrived * 2 + b2n (!t.faults.isEmpty || t.tcc.pend.isSome) * 4 + b2n t.cont.isNone * 8
  let head := leBytes 2 1 ++ leBytes 1 kind ++ leBytes 1 flg ++ leBytes 4 l.pkt.launchId ++ leBytes 4 l.seq ++
    leBytes 4 (ptile g) ++ leBytes 4 t.ltn ++ leBytes 4 0 ++ leBytes 8 s.ns ++ leBytes 32 0
  let (dir, body) := layout ((List.range 10).map (fun i => if tbit mask i then s.section l g i else []))
  head ++ padTo 256 dir ++ body

/-! ### Restoring -/

/-- Section i of a record. -/
def recordSection (bs : List Byte) (i : Nat) : List Byte := slice bs (leAt bs (64 + 16 * i) 8) (leAt bs (72 + 16 * i) 8)

/-- A code address in 8 bytes. -/
def codeAt (bs : List Byte) (i : Nat) : CodeAddr := BitVec.ofNat 28 (leAt bs i 8)

/-- The control core with section 0. -/
def Tcc.load0 (c : Tcc) (bs : List Byte) : Tcc :=
  { c with
    regs := Vector.ofFn (fun i : Fin 32 => BitVec.ofNat 64 (leAt bs (8 * i.val) 8)),
    pc := codeAt bs 0x100, img := BitVec.ofNat 16 (leAt bs 0x108 8), preds := BitVec.ofNat 8 (leAt bs 0x110 8),
    loop0 := { c.loop0 with ae := codeAt bs 0x118 }, loop1 := { c.loop1 with ae := codeAt bs 0x120 },
    ras := ((List.range c.ras.length).map (fun i => codeAt bs (0x128 + 8 * i))).reverse,
    latches := BitVec.ofNat 6 (leAt bs 0x1A8 8) }

/-- The registers that both kinds of core hold, from section 1. -/
def Tcc.loadSr (c : Tcc) (v : Nat → Nat) : Tcc :=
  { c with
    atM := v 0 % 2 = 1, rsp := BitVec.ofNat 64 (v 0x018), rsc := BitVec.ofNat 32 (v 0x019), spillb := BitVec.ofNat 64 (v 0x01B),
    loop0 := { c.loop0 with lc := BitVec.ofNat 32 (v 0x010), ls := BitVec.ofNat 28 (v 0x011), le := BitVec.ofNat 28 (v 0x012) },
    loop1 := { c.loop1 with lc := BitVec.ofNat 32 (v 0x013), ls := BitVec.ofNat 28 (v 0x014), le := BitVec.ofNat 28 (v 0x015) } }

/-- A queue with its numbers, links and micro-PC. -/
def Queue.loadSr (x : Queue) (seq isn head tail mpc : Nat) : Queue :=
  { x with seq := BitVec.ofNat 64 seq, isn := BitVec.ofNat 64 isn, head := BitVec.ofNat 32 head, tail := BitVec.ofNat 32 tail,
           mpc := BitVec.ofNat 64 mpc }

/-- The tile with the special registers of section 1. -/
def Tile.loadSr (t : Tile) (v : Nat → Nat) : Tile :=
  let w := fun (n : Nat) => BitVec.ofNat 64 (v n)
  { t with
    tcc := t.tcc.loadSr v, ltn := v 1, lrect := w 2, lid := w 4, rcba := w 5, cpri := w 6, frm := w 7, jca := w 8,
    lq := t.lq.loadSr (v 0x20) (v 0x23) (v 0x28) (v 0x29) (v 0x60), xq := t.xq.loadSr (v 0x21) (v 0x24) (v 0x2A) (v 0x2B) (v 0x61),
    sq := t.sq.loadSr (v 0x22) (v 0x25) (v 0x2C) (v 0x2D) (v 0x62), seqw := w 0x26,
    lx := v 0x30 % 256, xl := v 0x30 / 2 ^ 8 % 256, xs := v 0x30 / 2 ^ 16 % 256, sx := v 0x30 / 2 ^ 24 % 256,
    tags := w 0x31, scc := w 0x34, tcfg := w 0x35, fstat := BitVec.ofNat 5 (v 0x37), msea := w 0x38,
    seed := BitVec.ofNat 32 (v 0x39), dqn := v 0x3B,
    tagn := BitVec.ofNat 512 ((List.range 8).map (fun i => v (0x40 + i) * 2 ^ (64 * i))).sum,
    bst := (List.range 64).foldl (fun m i => AMap.put m i (bstOf (w (0x100 + i)))) t.bst,
    mxe := { t.mxe with anchor := BitVec.ofNat 16 (v 0x36), z := Vector.ofFn (fun i : Fin 16 => { t.mxe.z[i] with wm := v (0x50 + i.val) }) } }

/-- Fabric group n from its word. -/
def Tile.loadGroup (t : Tile) (l : Launch) (n w : Nat) : Tile :=
  match AMap.find? t.groups n with
  | none => t
  | some x =>
    let ltn := bitsN w 55 32
    let same := decide (t.groupWord l n / 2 ^ 32 = w / 2 ^ 32)
    let x := { x with c := BitVec.ofNat 32 w, tile := if same then x.tile else (l.tiles[ltn]?).map tileBase }
    { t with groups := if w / 2 ^ 63 = 0 then AMap.del t.groups n else AMap.put t.groups n x }

/-- The tile with section 1. -/
def Tile.load1 (t : Tile) (l : Launch) (bs : List Byte) : Tile :=
  let t := t.loadSr (fun n => leAt bs (8 * n) 8)
  let t := { t with
    xret := (List.range t.xret.length).map (fun i => BitVec.ofNat 64 (leAt bs (0xA00 + 8 * i) 8)),
    iss := Vector.ofFn (fun i : Fin 4 => BitVec.ofNat 32 (leAt bs (0xA80 + 4 * i.val) 4)),
    ack := Vector.ofFn (fun i : Fin 4 => BitVec.ofNat 32 (leAt bs (0xA90 + 4 * i.val) 4)) }
  (List.range 15).foldl (fun t i => t.loadGroup l (i + 1) (leAt bs (0xAA0 + 8 * i) 8)) t

/-- The vector engine with section 2. -/
def Vxe.load2 (bs : List Byte) : Vxe :=
  { v := Vector.ofFn (fun i : Fin 32 => BitVec.ofNat 2048 (leAt bs (256 * i.val) 256)),
    m := Vector.ofFn (fun i : Fin 8 => BitVec.ofNat 64 (leAt bs (8192 + 8 * i.val) 8)),
    hi := BitVec.ofNat 32 (leAt bs 8256 4), lo := BitVec.ofNat 32 (leAt bs 8260 4), empty := decide (leAt bs 8264 4 ≠ 0) }

/-- A 128-bit result slot. -/
def slotAt (bs : List Byte) (i : Nat) : Int := (BitVec.ofNat 128 (leAt bs i 16)).toInt

/-- The tickets with section 5: those that are not IDLE stand in it one after another. -/
def loadTickets (bs : List Byte) : List Ticket → List Ticket
  | [] => []
  | k :: r =>
    if k.st = 0 then k :: loadTickets bs r
    else { k with res := (List.range k.res.length).map (fun i => slotAt bs (64 + 16 * i)) } :: loadTickets (bs.drop (64 + 16 * k.n)) r

/-- An entry with the bytes of its place in the chain (Table 1.4); a command that has not begun runs from them. -/
def QEntry.load (e : QEntry) (bs : List Byte) : QEntry :=
  let w := fun (i : Nat) => BitVec.ofNat 64 (leAt bs i 8)
  let e := { e with cmd := w 0, opv0 := w 8, opv1 := w 16, opv2 := w 24, ximm := w 32,
                    isn := BitVec.ofNat 64 (e.isn.toNat / 2 ^ 32 * 2 ^ 32 + leAt bs 44 4) }
  if e.st = .waiting then { e with run := e.cmd, r0 := e.opv0, r1 := e.opv1, r2 := e.opv2 } else e

/-- A queue with the entries of its fixed region from section 6, and with its segments from section 7, of which the first `n` are
those of the queues before it. -/
def Queue.load67 (x : Queue) (sp seg : List Byte) (n : Nat) : Queue :=
  let place := fun (e : QEntry) =>
    let i := fld e.at_ 23 0
    if bit e.at_ 31 then
      (match x.segs.findIdx? (fun sg => decide (sg.1 = i / 256 * 256)) with
       | some j => some (slice seg (16400 * (n + j) + 64 * (i % 256)) 64)
       | none => none)
    else some (slice sp (64 * i) 64)
  { x with
    ents := x.ents.map (fun e => match place e with
      | some bs => e.load bs
      | none => e),
    segs := x.segs.zipIdx.map (fun p => (p.1.1, BitVec.ofNat 32 (leAt seg (16400 * (n + p.2) + 16392) 8), p.1.2.2)) }

/-- A trap or fault with the saved ECAUSE and EINFO. -/
def TrapI.load (t : TrapI) (bs : List Byte) : TrapI :=
  { t with cause := leAt bs 0x1B0 1, sub := leAt bs 0x1B1 1, info := BitVec.ofNat 64 (leAt bs 0x1B8 8) }

/-- The pending fault of section 0: it is the one that `Tile.pendingRegs` wrote. -/
def Tile.loadPending (t : Tile) (bs : List Byte) : Tile :=
  let ew := BitVec.ofNat 64 (leAt bs 0x1C0 8)
  match t.tcc.pend, t.faults with
  | some (p, epc, _), _ => { t with tcc := { t.tcc with pend := some (p.load bs, epc, ew) } }
  | none, f :: r =>
    { t with faults := { f with cause := leAt bs 0x1B0 1, sub := leAt bs 0x1B1 1, info := BitVec.ofNat 64 (leAt bs 0x1B8 8), word := ew,
                                isn := BitVec.ofNat 64 (f.isn.toNat / 2 ^ 32 * 2 ^ 32 + leAt bs 0x1CC 4) } :: r }
  | none, [] => t

/-- What a tile of a saved launch keeps beside its record: everything but its caches, and where its control core resumes. -/
def Tile.kept (t : Tile) : Tile :=
  let c := t.tcc
  { t with tlb := [], l1 := [], barWait := none, ballast := none, tapered := false,
           tcc := { c with pc := c.resumeAt, pfx := none, pfxp := false, far := [], ffar := [], waiting := false, ibuf := [], lined := false } }

/-- The tile that a record restores on physical tile g (R443). The error-injection pair and the counters stay with the
physical tile; the trap registers are not saved, but for EBASE, which the Headstock sets (R433). -/
def State.restored (s : State) (l : Launch) (g : Nat) (t : Tile) (bs : List Byte) : Tile :=
  let s0 := recordSection bs 0
  let now := s.tile g
  let t := if s0.isEmpty then t else ({ t with tcc := t.tcc.load0 s0 }).loadPending s0
  let t := t.load1 l (recordSection bs 1)
  let sp := recordSection bs 6
  let seg := recordSection bs 7
  let t := { t with
    mxe := { t.mxe with tickets := Vector.ofFn (fun i : Fin 4 => (loadTickets (recordSection bs 5) t.mxe.tickets.toList)[i.val]?.getD t.mxe.tickets[i]) },
    lq := t.lq.load67 sp seg 0, xq := t.xq.load67 sp seg t.lq.segs.length, sq := t.sq.load67 sp seg (t.lq.segs.length + t.xq.segs.length) }
  let trap := { Tcc.reset.trap with ebase := s.fw.trapEntry.zeroExtend 64 }
  { t with vxe := Vxe.load2 (recordSection bs 2), counters := now.counters, mcapNext := now.mcapNext, oos := now.oos,
           oosLater := t.oosLater || now.oosLater, tcc := { t.tcc with inj := now.tcc.inj, trap := trap } }

/-- Restores one tile and its memories; z tiles that were not saved are cleared as MZERO does, with ZANC 0 (R241). -/
def State.restoreTile (s : State) (k : Nat) (l : Launch) (g : Nat) (t : Tile) (bs : List Byte) : State :=
  let b := tileBase g
  let s := { s.setTile g { s.restored l g t bs with bound := some k } with
             mem := s.mem.clear b (2 ^ 24), bad := s.bad.filter (fun w => !w.hits b (2 ^ 24) && !w.ofTile g) }
  let m := (s.mem.setN b (recordSection bs 6)).setN (b + atomBase) (recordSection bs 8)
  let z := recordSection bs 9
  if z.isEmpty then (List.range 16).foldl (fun s n => s.zeroTile g n 0) { s with mem := m }
  else { s with mem := m.setN (b + zBase) (z.take 2621440) }

end Sys2Proof.Machine
end

