-- ==== Sys2Proof/Machine/Preempt.lean ====
section
/-! DEFINITION. Pre-emption and in-field test slices (spec/13_faults_reliability.md R439 to R446). -/

namespace Sys2Proof.Machine

/-! ### Which launches and tiles -/

/-- The launch of a queue and sequence number that a packet made. -/
def State.launchAt (s : State) (queue seq : Nat) : Option (Nat × Launch) :=
  List.find? (fun e => decide (e.2.queue = queue) && decide (e.2.seq = seq) && e.2.task.isNone) s.launches

/-- A launch with the task launches of its operator, and theirs (R377, R357). -/
def State.family (s : State) : (fuel : Nat) → (k : Nat) → List Nat
  | 0, k => [k]
  | f + 1, k =>
    match AMap.find? s.launches k with
    | none => []
    | some l => match l.opr with
      | none => [k]
      | some _ =>
        let kids := (s.launches.filter (fun e => e.2.task.isSome && decide (e.2.op = k))).map (fun e => e.1)
        k :: kids.flatMap (State.family s f)

/-- Changes every launch of a family. -/
def State.updFamily (s : State) (k : Nat) (f : Launch → Launch) : State :=
  let ks := s.family 3 k
  { s with launches := s.launches.map (fun e => if ks.contains e.1 then (e.1, f e.2) else e) }

/-- The tiles of a family. -/
def State.familyTiles (s : State) (k : Nat) : List Nat :=
  (s.family 3 k).flatMap (fun i => match AMap.find? s.launches i with
    | some l => l.tiles
    | none => [])

/-- Pre-emption asked of the launch of a tile: 0 none, 1 soft, 2 hard, 3 resume. -/
def State.preemptOf (s : State) (g : Nat) : Nat :=
  match s.launchOf g with
  | some l => l.preempt
  | none => 0

/-- A control core waits with an instruction that pushes a record (R201, R440). -/
def Tcc.pushWaits (c : Tcc) : Bool :=
  match c.waitsWith with
  | some (.spawn _ _) => true
  | some (.spawnj _ _ _) => true
  | some (.join _ _) => true
  | some .yield => true
  | _ => false

/-- A control core may stop for hard pre-emption at this boundary: it waits for no answer (R440 step 2, R167). -/
def Tcc.mayStop (c : Tcc) : Bool := !c.intrap && c.obj.isNone && c.far.isEmpty && !c.pushWaits

/-- Hard pre-emption holds the control core of a tile. -/
def State.tccHeld (s : State) (g : Nat) : Bool := s.preemptOf g = 2 && (s.tile g).tcc.mayStop

/-- Hard pre-emption holds the engines of a tile at their step boundaries (R440 step 3). -/
def State.enginesHeld (s : State) (g : Nat) : Bool := s.preemptOf g = 2

/-! ### The save -/

/-- The sections of a record for a launch: section 0 for hard pre-emption only, section 9 with ZSAVE. -/
def saveMask (l : Launch) (hard : Bool) : Nat := b2n hard + 510 + b2n l.pkt.zsave * 512

/-- The save region of the configuration record: first address and length. -/
def State.saveRegion (s : State) : Nat × Nat :=
  match s.fw.cfg with
  | some c => (c.savePa, c.saveLen)
  | none => (0, 0)

/-- The first address of the save region behind every record that is held. -/
def State.saveNext (s : State) : Nat :=
  (s.launches.flatMap (fun e => e.2.saved.map (fun x => x.2.2.1 + x.2.2.2))).foldl Nat.max s.saveRegion.1

/-- Tile records of a family: tile, its launch, its bytes. -/
def State.saveRecords (s : State) (k : Nat) (hard : Bool) : List (Nat × Nat × List Byte) :=
  (s.family 3 k).flatMap (fun i => match AMap.find? s.launches i with
    | some l => if l.st = .run then l.tiles.map (fun g => (i, g, s.saveRecord l g (1 + b2n hard) (saveMask l hard))) else []
    | none => [])

/-- The records of a family fit into what is left of the save region. -/
def State.saveFits (s : State) (k : Nat) (hard : Bool) : Bool :=
  let need := ((s.saveRecords k hard).map (fun r => r.2.2.length)).sum
  decide (s.saveNext + need ≤ s.saveRegion.1 + s.saveRegion.2)

/-- A cluster may run its test slice in a gap of a family (R444). -/
def State.mayTest (s : State) (mine : List Nat) (c : Nat) : Bool :=
  (List.range 4).all (fun i => mine.contains (4 * c + i) || ((s.tile (4 * c + i)).bound.isNone && !s.savedTile (4 * c + i)))

/-- Bytes of a tile's SRAM (R50): the largest scratchpad. -/
def tileSram : Nat := 12 * 2 ^ 19

/-- n bytes of a test pattern from place i on, as a number. -/
def patternAt (i n : Nat) : Nat := ofBytes ((List.range n).map (fun k => Config.testPattern (i + k)))

/-- What a test slice leaves in the engines of a tile (R444, log entry 19). -/
def Tile.tested (t : Tile) : Tile :=
  let block := fun (i : Nat) => ({ e := Config.testPattern i, m := [(patternAt i 8 : Int)], kept := [] } : Block)
  let slot := fun (i : Nat) => ({ full := false, cnt := 0, kb := 0, fmt := 0, spn := 0, blocks := [block i] } : Slot)
  { t with
    vxe := { v := Vector.ofFn (fun i : Fin 32 => BitVec.ofNat 2048 (patternAt (256 * i.val) 256)),
             m := Vector.ofFn (fun i : Fin 8 => BitVec.ofNat 64 (patternAt (8192 + 8 * i.val) 8)),
             hi := BitVec.ofNat 32 (patternAt 8256 4), lo := BitVec.ofNat 32 (patternAt 8260 4), empty := true },
    mxe := { t.mxe with a0 := slot 0, a1 := slot 1, b0 := slot 2, b1 := slot 3,
                        z := Vector.ofFn (fun _ : Fin 16 => { ZTile.reset with cr := [(patternAt 0 8 : Int)], cc := [(patternAt 8 8 : Int)] }) } }

/-- What a test slice leaves in a tile (R444, log entry 19): its SRAM, its accumulator SRAM and atomic region, its engines, its
router's slot table. -/
def State.testTile (s : State) (g : Nat) : State :=
  let b := tileBase g
  let pat := fun (n : Nat) => (List.range n).map Config.testPattern
  let s := { (s.storeHome b (pat tileSram)).storeHome (b + zBase) (pat (atomEnd - zBase)) with
                    slotTabs := AMap.put s.slotTabs g ((List.range 256).map (fun i => BitVec.ofNat 64 (patternAt (8 * i) 8))) }
  s.updTile g Tile.tested

/-- Starts the test slices of the clusters of a family that has just been saved: 20 µs from now. -/
def State.startSlices (s : State) (k : Nat) (mine : List Nat) : State :=
  let cs := ((mine.map (fun g => g / 4)).eraseDups).filter (s.mayTest mine)
  let s := cs.foldl (fun s c => (List.range 4).foldl (fun s i => s.testTile (4 * c + i)) s) s
  match AMap.find? s.launches k with
  | none => s
  | some l =>
    let l := { l with slices := cs.map (fun c => (c, s.bedt + 40000)) }
    { s with launches := AMap.put s.launches k l }

/-- A tile that a save has emptied. -/
def Tile.vacated (t : Tile) : Tile :=
  { Tile.reset with counters := t.counters, mcap := t.mcap, mcapNext := t.mcapNext, oos := t.oos,
                    tcc := { Tcc.reset with inj := t.tcc.inj, atM := false } }

/-- Saves one tile of launch k: its record goes to an address, its state is kept, its router returns to OPEN. -/
def State.saveTile (s : State) (k g pa : Nat) (bs : List Byte) : State :=
  let s := match s.hsWrite viaPa pa bs with
    | .ok _ s' => s'
    | .trap _ s' => s'
    | .wait s' => s'
  match AMap.find? s.launches k with
  | none => s
  | some l =>
    let l := { l with saved := l.saved ++ [(g, (s.tile g).kept, pa, bs.length)], savedAt := s.ns, st := .saved, preempt := 0 }
    { s.setTile g (s.tile g).vacated with
      launches := AMap.put s.launches k l, slotTabs := AMap.del s.slotTabs g,
      gov := { s.gov with pending := s.gov.pending.filter (fun p => decide (p.tile ≠ g)) } }

/-- Saves the tiles of a family, their records one after another in the save region. -/
def State.saveAll (s : State) : (pa : Nat) → List (Nat × Nat × List Byte) → State
  | _, [] => s
  | pa, (k, g, bs) :: r => State.saveAll (s.saveTile k g pa bs) (pa + bs.length) r

/-- A tile stands still for hard pre-emption: its core has stopped, every packet it sent is answered, no ticket is BUSY
(R440 steps 2 to 4). -/
def State.hardQuiet (s : State) (g : Nat) : Bool :=
  let t := s.tile g
  t.tcc.mayStop && t.mxe.tickets.toList.all (fun k => decide (k.st ≠ 1)) &&
  !s.net.any (fun p => decide (p.src = .tile g))

/-- A tile stands still for soft pre-emption (R441). -/
def State.softQuiet (s : State) (g : Nat) : Bool :=
  let t := s.tile g
  t.cont.isNone && !t.tcc.intrap && t.faults.isEmpty && t.lq.drained && t.xq.drained && t.sq.drained &&
  t.mxe.tickets.toList.all (fun k => decide (k.st ≠ 1)) && !s.net.any (fun p => decide (p.src = .tile g))

/-- The save of a family once its tiles stand still (R440 to R442, R444). -/
def State.save (s : State) (k : Nat) (hard : Bool) : State :=
  let mine := s.familyTiles k
  let zs := match AMap.find? s.launches k with
    | some l => l.pkt.zsave
    | none => false
  let s := if hard then mine.foldl (fun s g => s.settleXq g (!zs)) s else s
  let s := s.saveAll s.saveNext (s.saveRecords k hard)
  let s := s.updFamily k (fun l => { l with preempt := 0, st := if l.st = .run then .saved else l.st })
  { s.startSlices k mine with pr := { s.pr with st := 2 } }

/-! ### Resumption (R443) -/

/-- Reads the tile save records of a launch. -/
def State.readRecords (s : State) : List (Nat × Tile × Nat × Nat) → Res (List (List Byte))
  | [] => .ok [] s
  | (_, _, pa, n) :: r =>
    (s.hsRead viaPa pa n).andThen fun b s => (State.readRecords s r).andThen fun bs s => .ok (b :: bs) s

/-- Time that a launch has been saved does not count for its pools' timers and its regions' clocks. -/
def Launch.runOn (l : Launch) (now : Nat) : Launch :=
  let gap := now - l.savedAt
  { l with
    regions := l.regions.map (fun r => { r with started := r.started.map (fun t => t + gap) }),
    pools := l.pools.map (fun p => { p with timer := p.timer + BitVec.ofNat 64 (2 * gap),
                                            recs := p.recs.map (fun x => (x.1, x.2 + BitVec.ofNat 64 (2 * gap))) }) }

/-- Restores one launch from the bytes of its records. -/
def State.resumeLaunch (s : State) (k : Nat) (l : Launch) (bss : List (List Byte)) : State :=
  let s := (l.saved.zip bss).foldl (fun s p => s.restoreTile k l p.1.1 p.1.2.1 p.2) s
  let l' := { l.runOn s.ns with st := .run, saved := [], preempt := 0 }
  let s := { s with launches := AMap.put s.launches k l' }
  let s := s.loadSlots l.sigma l.slots l.tiles
  let gated := l.tiles.filter (fun g => (s.tile g).gated)
  if gated.isEmpty then s else s.requestStarts false gated

/-- Resumes the saved launches of a family one after another. -/
def State.resumeAll (s : State) : List Nat → Res Unit
  | [] => .ok () s
  | k :: r => match AMap.find? s.launches k with
    | none => State.resumeAll s r
    | some l =>
      if l.st ≠ .saved then State.resumeAll s r
      else (s.readRecords l.saved).andThen fun bss s => State.resumeAll (s.resumeLaunch k l bss) r

/-- A resumption can be made: every tile of the binding can be claimed and the test slices have ended. -/
def State.mayResume (s : State) (k : Nat) (l : Launch) : Bool := l.slices.isEmpty && !l.aborted && (s.familyTiles k).all (s.claimable false)

/-- The next step of a pre-emption or resumption that has been asked for. -/
def State.saveMove (s : State) (k : Nat) : State :=
  match AMap.find? s.launches k with
  | none => s
  | some l =>
    if l.preempt = 2 && decide (l.st = .run) && (s.familyTiles k).all s.hardQuiet then s.save k true
    else if l.preempt = 1 && decide (l.st = .run) && (s.familyTiles k).all s.softQuiet then s.save k false
    else if l.preempt = 3 && decide (l.st = .saved) && s.mayResume k l then
      match s.resumeAll (s.family 3 k) with
      | .ok _ s' =>
        let s' := s'.updFamily k (fun l => { l with preempt := 0, st := if l.st = .saved then .run else l.st })
        { s' with pr := { s'.pr with st := 0 } }
      | .trap _ _ => s
      | .wait _ => s
    else s

/-! ### Requests (R439) -/

/-- A request is refused. -/
def State.prRefuse (s : State) : State := { s with pr := { s.pr with refd := true } }

/-- Asks for pre-emption: refused while saving or restoring, without such a launch in RUN, without save space, or with a tile
that the debugger has stopped (R478). -/
def State.prSave (s : State) (queue seq : Nat) (hard : Bool) : State :=
  if s.pr.st = 1 ∨ s.pr.st = 3 then s.prRefuse
  else match s.launchAt queue seq with
    | none => s.prRefuse
    | some (k, l) =>
      if l.st ≠ .run ∨ !s.saveFits k hard ∨ (s.familyTiles k).any (fun g => (s.tile g).dbg.stopped) then s.prRefuse
      else
        let s := s.updFamily k (fun l => { l with preempt := 1 + b2n hard })
        { s with pr := { st := b2n hard, refd := false, tfail := false } }

/-- PRECTL_SOFT (R439, R441). -/
def execPrectlSoft (queue : BitVec 6) (seq : BitVec 32) (s : State) : Out := .next (s.prSave queue.toNat seq.toNat false)

/-- PRECTL_HARD (R439, R440). -/
def execPrectlHard (queue : BitVec 6) (seq : BitVec 32) (s : State) : Out := .next (s.prSave queue.toNat seq.toNat true)

/-- Asks for resumption. -/
def State.prResume (s : State) (queue seq : Nat) : State :=
  if s.pr.st = 1 ∨ s.pr.st = 3 then s.prRefuse
  else match s.launchAt queue seq with
    | none => s.prRefuse
    | some (k, l) =>
      if l.st ≠ .saved then s.prRefuse
      else
        let s := s.updFamily k (fun l => { l with preempt := 3 })
        { s with pr := { s.pr with st := 3, refd := false } }

/-- PRECTL_RESUME (R439, R443). -/
def execPrectlResume (queue : BitVec 6) (seq : BitVec 32) (s : State) : Out := .next (s.prResume queue.toNat seq.toNat)

/-- A write of PRECTL (Table 13.6). -/
def State.writePrectl (s : State) (v : Word) : State :=
  let q := fld v 5 0
  let n := fld v 39 8
  match fld v 7 6 with
  | 1 => s.prSave q n false
  | 2 => s.prSave q n true
  | 3 => s.prResume q n
  | _ => s

/-! ### Test slices (R444 to R446) -/

/-- Ends a saved launch with STATUS 3: its coding registers and its tasks' launches go with it. -/
def State.abortLaunch (s : State) (k : Nat) : State :=
  match AMap.find? s.launches k with
  | none => s
  | some l =>
    let ks := s.family 3 k
    let rs := ks.filterMap (fun i => (AMap.find? s.launches i).bind (fun l => l.opr))
    let nerr := (ks.filterMap (fun i => (AMap.find? s.launches i).map (fun l => l.nerr))).sum
    let ndom := (ks.filterMap (fun i => (AMap.find? s.launches i).map (fun l => l.ndom))).sum
    let s := rs.foldl (fun s r => s.setOpr r { s.opr r with st := 0 }) s
    let s := ks.foldl State.releaseLaunch s
    s.sendCompletion l.queue (completionBytes l.pkt.launchId l.seq 3 0 l.ost nerr ndom) l.readAt

/-- TEST_SLICE_END (R444 to R446): the slice of a cluster ends, its pattern index advances, by how much is open (log entry 17, site 12),
and its tiles' routers return to OPEN. A failure takes the cluster out of service and ends the saved launch, once its other clusters'
slices have ended too. -/
def execTestSliceEnd (cluster : Nat) (pass : Bool) (s : State) : Out :=
  match List.find? (fun e => e.2.slices.any (fun c => decide (c.1 = cluster) && decide (c.2 ≤ s.bedt))) s.launches with
  | none => .next s
  | some (k, l) =>
    let idx := AMap.getD s.patterns cluster 0
    let nxt := (Config.unstated 12 [BitVec.ofNat 64 cluster, idx.zeroExtend 64]).truncate 32
    let l := { l with slices := l.slices.filter (fun c => decide (c.1 ≠ cluster)), aborted := l.aborted || !pass }
    let s := { s with launches := AMap.put s.launches k l, patterns := AMap.put s.patterns cluster nxt,
                      slotTabs := (List.range 4).foldl (fun m i => AMap.del m (4 * cluster + i)) s.slotTabs }
    let done := fun (s : State) =>
      if l.aborted && l.slices.isEmpty then ({ s with pr := { s.pr with st := 0 } }).abortLaunch k else s
    if pass then .next (done s)
    else
      let r := { ErrRec.ofType 6 with loc := whereTile (4 * cluster), info := idx.toNat }
      let s := s.sendLaunchRecord k r
      let s := (List.range 4).foldl (fun s i => s.updTile (4 * cluster + i) (fun t => { t with oos := true })) s
      .next (done { s with pr := { s.pr with tfail := true } })

end Sys2Proof.Machine
end

