-- ==== Sys2Proof/Machine/Mailbox.lean ====
section
/-! DEFINITION. The host's side: DUTY and the mailbox (spec/14_power_clocks_boot.md R469, R470), pairing objects (R471, R414),
the error ring's head (R463), BAR2 (R472, R335), attestation and the management port (R468, R473). -/

namespace Sys2Proof.Machine

/-! ### Mailbox (R470) -/

/-- MBCTL_H2DF (R470): a message in the H2D buffer; one that is offered while H2DF is set waits. -/
def execMbctlH2df (msg : BitVec 2048) (s : State) : Out :=
  .next { s with mbox := if s.mbox.h2df then { s.mbox with h2dWait := s.mbox.h2dWait ++ [msg] } else { s.mbox with h2d := msg, h2df := true } }

/-- The device has taken the message in H2D: H2DF is cleared, and the next message that waits takes the buffer (R470). -/
def Mbox.h2dTaken (b : Mbox) : Mbox :=
  match b.h2dWait with
  | [] => { b with h2df := false }
  | m :: r => { b with h2d := m, h2df := true, h2dWait := r }

/-- D2HF is cleared, and the next message that waits takes the buffer. -/
def State.clearD2hf (s : State) : State :=
  match s.mbox.d2hWait with
  | [] => { s with mbox := { s.mbox with d2hf := false } }
  | m :: r => { s with mbox := { s.mbox with d2h := m, d2hf := true, d2hWait := r } }.msix 65

/-- MBCTL_D2HF_CLEAR (R470). -/
def execMbctlD2hfClear (s : State) : Out := .next (if s.mbox.d2hf then s.clearD2hf else s)

/-- A write of DUTY (R469). -/
def State.writeDuty (s : State) (v : Word) : State := { s with mbox := { s.mbox with duty := v.truncate 6 } }

/-- DUTY_WRITE (R469). -/
def execDutyWrite (v : Word) (s : State) : Out := .next (s.writeDuty v)

/-- The message in H2D has been taken, if it is the one with this function and tag. -/
def State.taken (s : State) (fn : Nat) (tag : BitVec 32) : State :=
  let m := s.mbox.h2d
  if s.mbox.h2df && fld m 7 0 = fn && fld m 63 32 = tag.toNat then { s with mbox := s.mbox.h2dTaken } else s

/-- An answer to the outstanding request with its tag; one without a request is discarded with a record of TYPE 7 (R470). A
function that waits for another package leaves request and message as they are. -/
def State.answered (s : State) (fn : Nat) (tag : BitVec 32) (f : HostReq → State → Res Unit) : Out :=
  match s.mbox.reqs.find? (fun r => decide (r.tag = tag.toNat) && decide (r.fn = fn)) with
  | none => .next ((s.taken fn tag).sendRecord (ErrRec.ofType 7))
  | some r =>
    let s1 := { s with mbox := { s.mbox with reqs := s.mbox.reqs.filter (fun x => decide (x.tag ≠ r.tag)) } }
    .next ((f r (s1.taken fn tag)).orElse s)

/-- Byte i of an answer's payload. -/
def payByte (p : BitVec 1984) (i : Nat) : Nat := fld p (8 * i + 7) (8 * i)

/-- n bytes of an answer's payload, as a number. -/
def payAt (p : BitVec 1984) (i n : Nat) : Nat := bitsN p.toNat (8 * (i + n) - 1) (8 * i)

/-- VAL_ANSWER (R469): 0 ACCEPT, any other code REFUSE with DETAIL in payload byte 0 (the codes are log entry 31). -/
def execValAnswer (tag : BitVec 32) (code : Byte) (payload : BitVec 1984) (s : State) : Out :=
  s.answered 1 tag (fun r s =>
    let n := r.about
    let p := packetOf (r.data.take 128)
    let now := leAt r.data 128 8
    let seq := (s.lqueue n).head.toNat
    if code = 0 then s.acceptPacket n seq p now (leAt r.data 136 8) false
    else .ok () (s.refusePacket n p seq now (payByte payload 0) 0))

/-- The freeze that was posted for a tile. -/
def Tile.frozenFault (t : Tile) : Option EngFault := t.faults.find? (fun f => f.host)

/-- FLT_ANSWER (R469): 0 RETRY, as ERET; any other code END, the domain ends. -/
def execFltAnswer (tag : BitVec 32) (code : Byte) (_payload : BitVec 1984) (s : State) : Out :=
  s.answered 2 tag (fun r s =>
    let g := r.about
    let t := s.tile g
    match t.frozenFault, t.bound with
    | some f, some k =>
      if code = 0 then
        .ok () (s.setTile g { t with faults := dropFault f t.faults }.unstop)
      else
        let dom := match AMap.find? s.launches k with
          | some l => l.domOf f.region
          | none => 0
        let e := { ErrRec.ofType 1 with cause := f.cause, sub := f.sub, loc := whereTile g, info := f.info.toNat,
                                         flg := b2n (s.injCaused f.cause f.sub f.info.toNat) * 8 }
        .ok () (s.endDomain k dom { e with cmd := f.word.toNat, pc := f.isn.toNat % 2 ^ 32 })
    | _, _ => .ok () s)

/-- The words of C as the host has written them. -/
def State.readC (s : State) (k : Nat) (d : OpDesc) : Res (List Int) :=
  let w := if d.outf = 1 then 10 else 16
  let n := d.k * d.mp * d.n
  match s.hsRead (viaLaunch k false) d.cva.toNat (w * n) with
  | .ok bs s => .ok ((List.range n).map (fun i => sextN (8 * w) (leAt bs (w * i) w))) s
  | .trap _ s => .ok [] s
  | .wait s => .wait s

/-- A verdict of the host on an operator (R356): the code of Table 10.5, of which one that the table gives a decision no meaning counts as
UNCOR (log entry 31); CORR and DEGR as R348 and R355 give them; BAS, the located words of each task, and the position count, on the
returns of a set (the places in the message are log entry 31). -/
def State.hostDecided (s : State) (r ost bas nsyn : Nat) (wrong : List Nat) (q : List Nat) (d : OpDesc) (c : List Int) : State :=
  let o := s.opr r
  let code := if 3 < ost % 16 then 3 else ost % 16
  let st := if code = 0 then 2 else 3
  let located := (List.range d.tasks).filter (fun t => decide (0 < wrong.getD t 0))
  let ncor := if st = 2 then (located.map (fun t => wrong.getD t 0)).sum else 0
  let corr := decide (code = 0) && decide (0 < ncor)
  let degr := decide (code = 0) && decide (q.length < d.need)
  let s := s.setOpr r { o with st := st, ost := code + b2n corr * 16 + b2n degr * 32, bas := bas % 4096, susp := located.foldl tset o.susp, ncor := o.ncor + ncor,
                               nsyn := o.nsyn + nsyn, nsur := q.length - d.k, c := c, posted := false, inj := 0 }
  let s := if code = 0 then s.opCount 18 1 else s.opCount (20 + code) 1
  let s := if corr then s.opCount 19 1 else s
  let s := if degr then s.opCount 20 1 else s
  let s := s.opCount 25 ncor
  located.foldl (fun s t => s.suspect r t (wrong.getD t 0) false false) s

/-- DEC_ANSWER (R356, R469). Returns that came while the request stood are then checked as late ones. -/
def execDecAnswer (tag : BitVec 32) (_code : Byte) (payload : BitVec 1984) (s : State) : Out :=
  s.answered 3 tag (fun q s =>
    let r := q.about
    let o := s.opr r
    let ost := payByte payload 0
    match o.desc with
    | none => .ok () s
    | some d =>
      if o.st ≠ 1 ∨ !o.posted then .ok () s
      else
        let asked := (List.range d.tasks).filter (tbit (leAt q.data 4 4))
        let go := if ost % 16 = 0 then s.readC o.launch d else .ok [] s
        go.andThen fun c s =>
          let s := s.hostDecided r ost (payAt payload 2 2) (payAt payload 4 4) ((List.range 12).map (fun t => payAt payload (8 + 4 * t) 4))
            asked d c
          (s.lateChecks r ((o.arrived d.tasks).filter (fun t => !asked.contains t))).andThen fun _ s => .ok () (s.drainOp r))

/-- SCHED_ANSWER (R469): code 0 gives OX, OY and σ; another code is WAIT, and so is a choice that does not fit. -/
def execSchedAnswer (tag : BitVec 32) (code : Byte) (payload : BitVec 1984) (s : State) : Out :=
  s.answered 6 tag (fun q s =>
    let k := q.about
    match AMap.find? s.launches k with
    | none => .ok () s
    | some l =>
      let ox := payAt payload 0 2
      let oy := payAt payload 2 2
      let sym := payByte payload 4
      if code ≠ 0 ∨ !s.ready l false ∨ !l.pkt.syms.contains sym ∨ (l.pkt.fixed ∧ (ox ≠ l.pkt.ox ∨ oy ≠ l.pkt.oy)) then .ok () s
      else match s.fitAt l.pkt ox oy sym with
        | none => .ok () s
        | some ts => .ok () (s.claimAt k l (ox, oy, sym, ts)))

/-- RETIRE_ANSWER (R469): the host orders a unit retired, under DUTY AGG or after it, for a unit that an event logged under it is
about. The message names level, row or column, KIND, instance and LOC (their places are log entry 31); it answers no posted request. -/
def execRetireAnswer (tag : BitVec 32) (_code : Byte) (payload : BitVec 1984) (s : State) : Out :=
  let s := s.taken 7 tag
  let level := payByte payload 0
  let inst := payAt payload 4 4
  let loc := BitVec.ofNat 64 (payAt payload 8 8)
  let r : LogRec := { time := BitVec.ofNat 64 s.ns, loc := loc, kind := payByte payload 2, inj := false, src := 0, agg := true }
  let row := payByte payload 1 % 2 = 0
  if !bit s.mbox.duty 4 && !(AMap.getD s.logs (logKey level inst) (0, [])).2.any (fun q => q.agg && sameUnit row r q) then
    .next (s.sendRecord (ErrRec.ofType 7))
  else
    let e := { ErrRec.ofType 3 with cause := level, loc := whereLevel level inst, info := loc.toNat }
    .next ((s.sendRecord e).retireUnit level inst r row)

/-! ### The error ring (R463) -/

/-- A write of HEAD of the error ring (R463, R436): as CRHEAD (R360). -/
def State.writeErrHead (s : State) (head : BitVec 32) : State :=
  let g := s.ring
  if (head - g.head).toNat ≤ (g.tail - g.head).toNat then { s with ring := { g with head := head } }
  else s.sendRecord (ErrRec.ofType 7)

/-- ERRPTR_HEAD_WRITE (R463). -/
def execErrptrHeadWrite (head : BitVec 32) (s : State) : Out := .next (s.writeErrHead head)

/-! ### Pairing objects (R414, R471) -/

/-- An operation in flight on an object that is deleted is answered with NOOBJ, whatever is created under its number later (R471). -/
def Pkt.losesObj (key : Nat) (p : Pkt) : Pkt :=
  if (p.typ = .qpush ∨ p.typ = .qpop) ∧ objKey p.addr = key ∧ p.dpkg = 0 then { p with objGone := true } else p

/-- A write of OBJCMD at a home: creates or deletes an object, and OBJSTAT tells. -/
def State.writeObjcmd (s : State) (home : Nat) (v : Word) : State :=
  let num := fld v 19 0
  let key := num + home * 2 ^ 20
  let cap := fld v 45 21
  let stat := fun (s : State) (n : Nat) => { s with objstat := AMap.put s.objstat home n }
  if fld v 63 46 ≠ 0 ∨ num / 2 ^ 18 = 3 ∨ (!bit v 20 ∧ (cap = 0 ∨ 2 ^ 24 < cap)) then stat s 3
  else match AMap.find? s.objs key with
    | none => if bit v 20 then stat s 2 else stat { s with objs := AMap.put s.objs key { cap := cap, vals := [] } } 0
    | some _ => if bit v 20 then stat { s with objs := AMap.del s.objs key, net := s.net.map (Pkt.losesObj key) } 0 else stat s 1

/-- OBJCMD at the homes that have one: the Headstock and the lathe dies. -/
def State.objcmd (s : State) (home : Nat) (v : Word) : State := if 16 < home then s else s.writeObjcmd home v

/-- OBJCMD_CREATE (R471). -/
def execObjcmdCreate (home : BitVec 6) (v : Word) (s : State) : Out := .next (s.objcmd home.toNat v)

/-- OBJCMD_DELETE (R471). -/
def execObjcmdDelete (home : BitVec 6) (v : Word) (s : State) : Out := .next (s.objcmd home.toNat v)

/-! ### BAR2 (R335, R449, R472) -/

/-- Sends bytes to the outside. -/
def State.reply (s : State) (bs : List Byte) : State := { s with mbox := { s.mbox with out := bs :: s.mbox.out } }

/-- The host reads pieces; an uncorrectable word is a Completer Abort. -/
def State.hostReads (s : State) : List (Nat × Nat) → Option (List Byte) × State
  | [] => (some [], s)
  | (pa, n) :: r =>
    match s.hsReadPa pa n with
    | .ok b s =>
      let (x, s) := State.hostReads s r
      (x.map (fun bs => b ++ bs), s)
    | .trap _ s => (none, s)
    | .wait s => (none, s)

/-- The host writes pieces. -/
def State.hostWrites (s : State) (bs : List Byte) : List (Nat × Nat) → State
  | [] => s
  | (pa, n) :: r =>
    match s.hsWritePa pa (bs.take n) with
    | .ok _ s => State.hostWrites s (bs.drop n) r
    | .trap _ s => State.hostWrites s (bs.drop n) r
    | .wait s => State.hostWrites s (bs.drop n) r

/-- BAR2_ACCESS (R335, R472): a completion begins with 0, or with 1 for Completer Abort. A read of an uncorrectable word also
sends a record (R449; its fields are log entry 29). -/
def execBar2Access (write : Bool) (off : Nat) (len : BitVec 7) (data : BitVec 512) (s : State) : Out :=
  let n := len.toNat
  if s.fw.boot ≠ 1 then .next s
  else if 768 * 2 ^ 30 < off + n ∨ n = 0 ∨ 64 < n then .next (s.reply [1])
  else
    let ps := pieces 64 3 off n
    if write then .next (s.hostWrites (leBytes n data.toNat) ps)
    else match s.hostReads ps with
      | (some bs, s') => .next (s'.reply (0 :: bs))
      | (none, s') => .next ((s'.sendRecord { ErrRec.ofType 2 with cause := 4, info := off, flg := b2n (s'.injCaused 35 8 off) * 8 }).reply [1])

/-! ### Attestation (R468; the message layouts are log entry 33) -/

/-- An answer of the responder, once the device has booted, or in RECOVERY. -/
def State.spdm (s : State) (bs : List Byte) : Out := .next (if s.fw.boot = 0 then s else s.reply bs)

/-- The device certificate chain. -/
def State.certs (s : State) : List Byte :=
  match s.fw.cfg with
  | some c => c.certs
  | none => []

/-- SPDM_GET_VERSION (R468): version 1.3. -/
def execSpdmGetVersion (s : State) : Out := s.spdm [0x10, 0x04, 0, 0, 0, 1, 0, 0x13]

/-- SPDM_GET_CAPABILITIES (R468): certificates, challenge, signed measurements; the sizes are open (log entry 17, site 15). -/
def execSpdmGetCapabilities (s : State) : Out :=
  let w := fun (n : Nat) => (Config.unstated 15 [BitVec.ofNat 64 n]).toNat
  s.spdm ([0x13, 0x61, 0, 0, 0] ++ leBytes 1 (w 0) ++ [0, 0] ++ leBytes 4 0x16 ++ leBytes 4 (w 1) ++ leBytes 4 (w 2))

/-- SPDM_NEGOTIATE_ALGORITHMS (R468): EdDSA Ed25519, SHA-512, measurement hash SHA-512. -/
def execSpdmNegotiateAlgorithms (s : State) : Out :=
  s.spdm ([0x13, 0x63, 0, 0] ++ leBytes 2 36 ++ [1, 0] ++ leBytes 4 8 ++ leBytes 4 0x400 ++ leBytes 4 4 ++ leBytes 16 0)

/-- SPDM_GET_DIGESTS (R468): slot 0. -/
def execSpdmGetDigests (s : State) : Out := s.spdm ([0x13, 0x01, 0, 1] ++ sha512 s.certs)

/-- SPDM_GET_CERTIFICATE (R468): a part of the chain. -/
def execSpdmGetCertificate (off len : BitVec 16) (s : State) : Out :=
  let c := s.certs
  let part := (c.drop off.toNat).take len.toNat
  s.spdm ([0x13, 0x02, 0, 0] ++ leBytes 2 part.length ++ leBytes 2 (c.length - off.toNat - part.length) ++ part)

/-- A nonce of the device: open (log entry 17, site 16). -/
def State.nonce (s : State) : List Byte :=
  (List.range 4).flatMap (fun i => leBytes 8 (Config.unstated 16 [BitVec.ofNat 64 s.free, BitVec.ofNat 64 i]).toNat)

/-- An answer with the device's signature over the request's nonce and the answer (log entry 15). -/
def State.signed (s : State) (nonce : BitVec 256) (body : List Byte) : Out :=
  if s.fw.boot = 0 then .next s
  else { s with free := s.free + 1 }.spdm (body ++ Config.deviceSign (leBytes 32 nonce.toNat ++ body))

/-- SPDM_CHALLENGE (R468). -/
def execSpdmChallenge (nonce : BitVec 256) (s : State) : Out :=
  s.signed nonce ([0x13, 0x03, 0, 1] ++ sha512 s.certs ++ s.nonce ++ [0, 0])

/-- The block of measurement i (1 to 3): MR0 to MR2. -/
def State.measurement (s : State) (i : Nat) : List Byte :=
  let mr := if i = 1 then s.fw.mr0 else if i = 2 then s.fw.mr1 else s.fw.mr2
  leBytes 1 i ++ [1] ++ leBytes 2 67 ++ [1] ++ leBytes 2 64 ++ leBytes 64 mr.toNat

/-- SPDM_GET_MEASUREMENTS (R468, R507): index 1 to 3 reports MR0 to MR2, 0xFF all three, 0 their number; another index is an
invalid request. -/
def execSpdmGetMeasurements (index : Byte) (nonce : BitVec 256) (s : State) : Out :=
  let i := index.toNat
  let ans := fun (blocks : List Nat) =>
    let rec_ := blocks.flatMap s.measurement
    s.signed nonce ([0x13, 0x60, (if i = 0 then 3 else 0), 0] ++ leBytes 1 blocks.length ++ leBytes 3 rec_.length ++ rec_ ++
      s.nonce ++ [0, 0])
  if i = 0 then ans []
  else if i = 0xFF then ans [1, 2, 3]
  else if i ≤ 3 then ans [i]
  else s.spdm [0x13, 0x7F, 0x01, 0]

/-- SPDM_UNSUPPORTED (R468): ERROR UnsupportedRequest. -/
def execSpdmUnsupported (code : Byte) (s : State) : Out := s.spdm [0x13, 0x7F, 0x07, code]

/-- DOE_DISCOVERY (R468): the discovery protocol itself, then SPDM. -/
def execDoeDiscovery (index : Byte) (s : State) : Out :=
  s.spdm (if index = 0 then [1, 0, 0, 1] else if index = 1 then [1, 0, 1, 0] else [0xFF, 0xFF, 0, 0])

/-- MCTP_CONTROL (R473): what DSP0236 answers is open (log entry 18). -/
def execMctpControl (command : Byte) (data : BitVec 256) (s : State) : Out :=
  s.spdm (Config.mctpControl command (leBytes 32 data.toNat))

end Sys2Proof.Machine
end

