-- ==== Sys2Proof/Machine/Debug.lean ====
section
/-! DEFINITION. Debug requests, stops, dumps, trace and counters (spec/15_debug_counters.md R474 to R485). -/

namespace Sys2Proof

open Machine

/-! ### Fields of a request (Tables 15.1 to 15.3) -/

/-- The ARM bytes 56 to 111 are zero. -/
def DbgReq.noArms (r : DbgReq) : Bool := r.codes.all (· = 0) && r.addrs.all (· = 0) && r.watch = 0

/-- The launch and tile fields are zero. -/
def DbgReq.noTarget (r : DbgReq) : Bool := r.seq = 0 && r.queue = 0 && r.ltn0 = 0 && r.ltn1 = 0

/-- A field that Table 15.1 wants zero is not, whatever OP. -/
def DbgReq.malformed (r : DbgReq) : Bool := r.bad || decide (2 ≤ r.flg.toNat) || decide (64 ≤ r.queue.toNat)

/-- ALL. -/
def DbgReq.all (r : DbgReq) : Bool := bit r.flg 0

/-- An armed entry has a reserved bit or a reserved queue (Tables 15.1 and 15.3). -/
def DbgReq.badArms (r : DbgReq) : Bool :=
  r.codes.any (fun c => decide (fld c 14 12 ≠ 0)) || r.addrs.any (fun a => decide (fld a 62 44 ≠ 0)) ||
  decide (fld r.watch 62 55 ≠ 0) || decide (fld r.watch 35 34 ≠ 0) || decide (fld r.watch 33 32 = 3)

end Sys2Proof

namespace Sys2Proof.Machine

/-! ### Checks (R474, Tables 15.1 to 15.3) -/

/-- A physical address lies in HBM4E, of this package or of another one (Table 9.2). -/
def State.inHbm (s : State) (pa : Nat) : Bool :=
  match s.place pa with
  | .hbm _ _ => true
  | .tile _ _ => false
  | .far _ => !bit (BitVec.ofNat 64 pa) 51
  | .out => false
  | .reserved => false

/-- The answer to a request that names target tiles, before it may act: BADARG, NOLAUNCH or BUSY; else the launch and the
target tiles. `ok` is what the operation asks of its arguments. -/
def State.dbgTargets (s : State) (r : DbgReq) (ok : Bool) : Except Nat (Nat × Launch × List Nat) :=
  if r.malformed || !ok || decide (r.ltn1 < r.ltn0) then .error 4
  else match s.launchAt r.queue.toNat r.seq.toNat with
    | none => .error 1
    | some (k, l) =>
      if l.st = .saved ∨ l.preempt = 2 ∨ l.preempt = 3 then .error 3
      else if l.st ≠ .run then .error 1
      else if l.tiles.any (fun g => (s.tile g).dbg.stopAt.isSome || (s.tile g).dbg.allDue) then .error 3
      else if l.tiles.length ≤ r.ltn1.toNat then .error 4
      else .ok (k, l, (l.tiles.drop r.ltn0.toNat).take (r.ltn1.toNat + 1 - r.ltn0.toNat))

/-- A debug request is taken from the mailbox; it waits while a firmware update runs (R510). -/
def State.dbgRequest (s : State) (op : Nat) (r : DbgReq) (f : State → State) : Out :=
  let s := s.taken 8 r.tag
  .next (if s.fw.st ≠ 0 then { s with mbox := { s.mbox with dbgHeld := s.mbox.dbgHeld ++ [(op, r)] } } else f s)

/-- A request that names target tiles: refused with a code, or carried out. -/
def State.dbgOn (s : State) (r : DbgReq) (ok : Bool) (f : Nat → Launch → List Nat → State → State) : State :=
  match s.dbgTargets r ok with
  | .error e => s.dbgAnswer r.tag e
  | .ok (k, l, gs) => f k l gs s

/-- Asks for the answer once the operation has taken effect on every target tile. -/
def State.dbgAwait (s : State) (r : DbgReq) (gs : List Nat) : State :=
  ({ s with trace := { s.trace with stops := s.trace.stops ++ [(r.tag, gs, 0)] } }).dbgSettle

/-- Changes the debug state of tiles. -/
def State.updDbg (s : State) (gs : List Nat) (f : Dbg → Dbg) : State :=
  gs.foldl (fun s g => s.updTile g (fun t => { t with dbg := f t.dbg })) s

/-! ### Stops (R476, R477) -/

/-- A tile stops: its commands settle first (R271, R477). A tile that is stopped stays so. -/
def State.haltTile (s : State) (g trigger : Nat) : State :=
  if (s.tile g).dbg.stopped then s.updDbg [g] (fun d => { d with stopAt := none, allDue := false, restart := false })
  else (s.settleStop g).stopTile g trigger

/-- DBG_STOP (R474, R477): at once, or at a value of BEDT. -/
def execDbgStop (r : DbgReq) (s : State) : Out :=
  s.dbgRequest 1 r (fun s => s.dbgOn r (r.arg1 = 0 && r.arg2 = 0 && r.noArms) (fun _ _ gs s =>
    let s := s.updDbg gs (fun d => { d with allStop := r.all })
    if r.arg0 = 0 then (gs.foldl (fun s g => s.haltTile g 0) s).dbgAwait r gs
    else (s.updDbg gs (fun d => if d.stopped then d else { d with stopAt := some r.arg0 })).dbgAwait r gs))

/-- DBG_TIMED_STOP (R476). -/
def execDbgTimedStop (tile : Nat) (s : State) : Out :=
  match (s.tile tile).dbg.stopAt with
  | none => .next s
  | some a => .next (if a ≤ s.bedt then (s.haltTile tile 0).dbgSettle else s)

/-- A unit at an armed code address of its image stands before the control core (R476). -/
def Tile.addrHit (t : Tile) : Bool :=
  t.tcc.pfx.isNone && !t.tcc.waiting && t.tcc.ffar.isEmpty && t.dbg.passAddr ≠ some t.tcc.pc &&
  t.dbg.addrs.any (fun a => match a with
    | some a => decide (fld a 27 0 = t.tcc.pc.toNat) && decide (fld a 43 28 = t.tcc.img.toNat)
    | none => false)

/-- ADDRESS_BREAKPOINT_STOP (R476). -/
def execAddressBreakpointStop (tile : Nat) (s : State) : Out :=
  let t := s.tile tile
  if (t.cont.isSome || t.tcc.intrap) && !t.dbg.stopped && t.addrHit then
    .next ((s.updDbg [tile] (fun d => { d with passAddr := some t.tcc.pc })).haltTile tile 2)
  else .next s

/-- ENTRY_WATCH_STOP (R476): before the named command begins. -/
def execEntryWatchStop (tile : Nat) (q : Q) (s : State) : Out :=
  let t := s.tile tile
  match (t.queue q).headEnt with
  | none => .next s
  | some en =>
    if en.st = .waiting && t.qRuns q && t.watchHit tile q en then
      .next ((s.updDbg [tile] (fun d => { d with passEntry := some (entryName tile q en.isn) })).haltTile tile 3)
    else .next s

/-- ALL_STOP_PROPAGATE (R476). -/
def execAllStopPropagate (tile : Nat) (s : State) : Out :=
  .next (if (s.tile tile).dbg.allDue then s.haltTile tile 5 else s)

/-! ### RUN, STEP and ARM (R476, R479) -/

/-- Restarts stopped tiles: each waits for its ramp slot (R479, R459). -/
def State.dbgRestart (s : State) (r : DbgReq) (gs : List Nat) (n : Option Nat) : State :=
  if gs.any (fun g => !(s.tile g).dbg.stopped || (s.tile g).dbg.restart) then s.dbgAnswer r.tag 2
  else
    let s := gs.foldl (fun s g => s.updTile g (fun t => { t with tcc := { t.tcc with stepLeft := n } })) s
    ((s.updDbg gs (fun d => { d with restart := true })).requestStarts false gs).dbgAwait r gs

/-- DBG_RUN (R479). -/
def execDbgRun (r : DbgReq) (s : State) : Out :=
  s.dbgRequest 2 r (fun s => s.dbgOn r (r.arg0 = 0 && r.arg1 = 0 && r.arg2 = 0 && r.noArms) (fun _ _ gs s =>
    s.dbgRestart r gs none))

/-- DBG_STEP (R479). -/
def execDbgStep (r : DbgReq) (s : State) : Out :=
  s.dbgRequest 3 r (fun s =>
    s.dbgOn r (r.arg0 ≠ 0 && decide (r.arg0.toNat < 2 ^ 32) && r.arg1 = 0 && r.arg2 = 0 && r.noArms) (fun _ _ gs s =>
      let s := if gs.all (fun g => (s.tile g).dbg.stopped) then s.updDbg gs (fun d => { d with allStep := r.all }) else s
      s.dbgRestart r gs (some r.arg0.toNat)))

/-- The arms by their places with the entries of a request put in: an entry with V takes its place, another stands (Table 15.2). -/
def armed {α : Type} (old new : List (Option α)) : List (Option α) :=
  (List.range new.length).map (fun i => (new[i]?.join).or (old[i]?.join))

/-- The arms of a tile after an ARM (R476, log entry 105): CLR disarms all first; then the V entries replace what stands at their
places. -/
def Dbg.rearm (d : Dbg) (r : DbgReq) : Dbg :=
  let d := if bit r.arg0 0 then { d with codes := [], addrs := [], watch := Option.none } else d
  { d with
    allArm := r.all
    codes := armed d.codes (r.codes.map (fun c => if bit c 15 then some (c.truncate 12) else Option.none))
    addrs := armed d.addrs (r.addrs.map (fun a => if bit a 63 then some a else Option.none))
    watch := if bit r.watch 63 then some (setBit r.watch 63 false) else d.watch }

/-- DBG_ARM (R476): the arms of the target tiles are replaced. -/
def execDbgArm (r : DbgReq) (s : State) : Out :=
  s.dbgRequest 4 r (fun s =>
    s.dbgOn r (decide (r.arg0.toNat ≤ 1) && r.arg1 = 0 && r.arg2 = 0 && !r.badArms) (fun _ _ gs s =>
      (s.updDbg gs (fun d => d.rearm r)).dbgAnswer r.tag 0))

/-! ### Dumps (R480) -/

/-- DBG_DUMP (R480). -/
def execDbgDump (r : DbgReq) (s : State) : Out :=
  s.dbgRequest 5 r (fun s =>
    let pa := r.arg0.toNat
    s.dbgOn r (decide (pa % 64 = 0) && s.inHbm pa && decide (r.arg1.toNat < 1024) && r.arg2 = 0 && decide (r.ltn0 = r.ltn1) &&
        r.noArms) (fun _ l gs s =>
      match gs with
      | [] => s.dbgAnswer r.tag 4
      | g :: _ =>
        if !(s.tile g).dbg.stopped then s.dbgAnswer r.tag 2
        else
          let s := match s.hsWrite viaPa pa (s.saveRecord l g 3 r.arg1.toNat) with
            | .ok _ s' => s'
            | .trap _ s' => s'
            | .wait s' => s'
          s.dbgAnswer r.tag 0))

/-! ### Trace (R481) -/

/-- DBG_TRACE (R481). -/
def execDbgTrace (r : DbgReq) (s : State) : Out :=
  s.dbgRequest 6 r (fun s =>
    let pa := r.arg0.toNat
    let sz := r.arg1.toNat
    if r.malformed || !r.noTarget || !r.noArms || r.arg2 ≠ 0 || decide (sz < 8) || decide (20 < sz) ||
        decide (pa % 4096 ≠ 0) then s.dbgAnswer r.tag 4
    else
      let t := if pa = 0 then { s.trace with on := false } else { s.trace with on := true, pa := pa, sz := sz, n := 0 }
      ({ s with trace := t }).dbgAnswer r.tag 0)

/-! ### Counters (R483 to R485) -/

/-- Bytes of the counter area. -/
def cntBytes : Nat := 0x90000

/-- The counters that a unit sweeps, with their offsets in the area (Table 15.6), ascending: the package totals at the Headstock, those
of its routers and tiles at a die. -/
def State.counters (s : State) (unit : Nat) : List (Nat × BitVec 32) :=
  if unit = 0 then
    (1, 512) :: ((List.range 16).map (fun d => (d + 2, 513 + d)) ++ (List.range 10).map (fun i => (18 + i, 1042 + i))) |>.map
      (fun e => (0x40 + 8 * e.1, AMap.getD s.trace.pkg e.2 0))
  else
    let tiles := (List.range 16).map (fun i => 16 * (unit - 1) + i)
    tiles.map (fun g => (0x1000 + 8 * g, AMap.getD s.trace.pkg g 0)) ++
    tiles.flatMap (fun g =>
      ((s.tile g).counters.filter (fun c => decide (c.1 < 256))).map (fun c => (0x10000 + 0x800 * g + 8 * c.1, c.2)))

/-- A write of the Headstock at a physical address is still on its way to another package. -/
def State.hsOnWay (s : State) (pa : Nat) : Bool :=
  s.net.any (fun p => decide (p.src = .headstock) && p.typ.effects && decide (p.addr = pa))

/-- The Headstock reads and rewrites bytes at a physical address; in another package it waits for the bytes, and for an earlier write
there. -/
def State.hsModify (s : State) (pa n : Nat) (f : List Byte → List Byte) : Res Unit :=
  if s.hsOnWay pa then .wait s
  else match s.hsReadPa pa n with
    | .wait s => .wait s
    | .trap t s => .trap t { s with hfar := s.hfar.filter (fun r => decide (r.pa ≠ pa)) }
    | .ok bs s => { s with hfar := s.hfar.filter (fun r => decide (r.pa ≠ pa)) }.hsWritePa pa (f bs)

/-- One counter is added to its total (R483); a total that cannot be read or written is passed over, and what its counter has advanced
waits for the next sweep (log entry 106). -/
def State.sweepOne (s : State) (c : Nat × BitVec 32) : Res Unit :=
  let d := c.2 - AMap.getD s.trace.last c.1 0
  if d = 0 then .ok () s
  else match s.hsModify (s.trace.cntPa + c.1) 8 (fun bs => leBytes 8 (ofBytes bs + d.toNat)) with
    | .ok _ s => .ok () { s with trace := { s.trace with last := AMap.put s.trace.last c.1 c.2 } }
    | .trap _ s => .ok () s
    | .wait s => .wait s

/-- Adds counters one by one; where one has to wait, the sweep goes on from it later. -/
def State.sweepFrom (s : State) (unit : Nat) : List (Nat × BitVec 32) → Res Unit
  | [] => .ok () s
  | c :: r => match s.sweepOne c with
    | .ok _ s => State.sweepFrom s unit r
    | .trap _ s => State.sweepFrom s unit r
    | .wait s => .wait { s with trace := { s.trace with swAt := AMap.put s.trace.swAt unit c.1 } }

/-- Sweeps that every unit has made. -/
def Trace.sweepsAll (t : Trace) : Nat :=
  (List.range 17).foldl (fun m u => Nat.min m (AMap.getD t.sweeps u 0)) (AMap.getD t.sweeps 0 0)

/-- A unit has made its sweep. -/
def State.swept (s : State) (unit : Nat) : State :=
  { s with trace := { s.trace with swAt := AMap.put s.trace.swAt unit 0,
                                   sweeps := AMap.put s.trace.sweeps unit (AMap.getD s.trace.sweeps unit 0 + 1) } }

/-- The sweep of one unit; the Headstock's begins with the copy of BALLAST (R485). -/
def State.sweep (s : State) (unit : Nat) : State :=
  let at0 := AMap.getD s.trace.swAt unit 0
  let go := fun (s : State) => match s.sweepFrom unit ((s.counters unit).filter (fun c => decide (at0 ≤ c.1))) with
    | .ok _ s => s.swept unit
    | .trap _ s => s.swept unit
    | .wait s => s
  if unit = 0 ∧ at0 = 0 then
    match s.hsWritePa (s.trace.cntPa + 0x40) (leBytes 8 s.gov.ballast.toNat) with
    | .ok _ s => go s
    | .trap _ s => go s
    | .wait s => s
  else go s

/-- Every unit has made a sweep that SWEEPS does not count, and every total is performed (R483). -/
def State.headDue (s : State) : Bool := s.trace.cntOn && decide (s.trace.headed < s.trace.sweepsAll) && !s.hsPosted

/-- SWEEPS and LAST after a sweep (R483). -/
def State.sweepHead (s : State) : State :=
  let done := fun (s : State) => { s with trace := { s.trace with headed := s.trace.headed + 1 } }
  match s.hsModify s.trace.cntPa 8 (fun bs => leBytes 8 (ofBytes bs + 1) ++ leBytes 8 s.bedt.toNat) with
  | .ok _ s => done s
  | .trap _ s => done s
  | .wait s => s

/-- A unit (0 the Headstock, 1 to 16 the lathe dies) is due to sweep. -/
def State.sweepDue (s : State) (unit : Nat) : Bool :=
  s.trace.cntOn && decide (unit ≤ 16) &&
  decide (s.trace.swept.toNat + s.trace.period * 2000 * (AMap.getD s.trace.sweeps unit 0 + 1) ≤ s.bedt.toNat)

/-- COUNTER_SWEEP (R483). -/
def execCounterSweep (unit : Nat) (s : State) : Out :=
  let s := if s.sweepDue unit then s.sweep unit else s
  .next (if s.headDue then s.sweepHead else s)

/-- Writes n zero bytes at offset o of the counter area, 64 at a time. -/
def State.cntZero (s : State) (o n : Nat) : State :=
  (pieces 64 (n / 64 + 2) (s.trace.cntPa + o) n).foldl (fun s p => s.hsPut p.1 (List.replicate p.2 0)) s

/-- The parts of the counter area that Tables 15.6 and 15.7 and R485 call zero, or do not list. -/
def cntZeros : List (Nat × Nat) :=
  [(0x10, 0x30), (0x120, 0xEE0), (0x1800, 0xE800)] ++ (List.range 256).flatMap (fun g =>
    [(0x10000 + 0x800 * g + 8 * 28, 8 * 4), (0x10000 + 0x800 * g + 8 * 41, 8 * 23), (0x10000 + 0x800 * g + 8 * 142, 8 * 114)])

/-- The sweeper is enabled: what the area does not list is zero; CLEAR zeroes totals and header and takes the counters as they stand
(R483). -/
def State.cntStart (s : State) (pa period : Nat) (clear : Bool) : State :=
  let s := { s with trace := { s.trace with
    cntOn := true, cntPa := pa, period := period, swept := s.bedt, sweeps := [], headed := 0, swAt := [] } }
  if clear then
    let last := ((List.range 17).flatMap s.counters).foldl (fun m c => AMap.put m c.1 c.2) []
    { s.cntZero 0 cntBytes with trace := { s.trace with last := last } }
  else cntZeros.foldl (fun s z => s.cntZero z.1 z.2) s

/-- DBG_CNT (R483). -/
def execDbgCnt (r : DbgReq) (s : State) : Out :=
  s.dbgRequest 7 r (fun s =>
    let pa := r.arg0.toNat
    let p := r.arg1.toNat
    if r.malformed || !r.noTarget || !r.noArms || decide (1 < r.arg2.toNat) || decide (p < 100) || decide (1000 < p) ||
        decide (pa % 4096 ≠ 0) then s.dbgAnswer r.tag 4
    else if pa = 0 then ({ s with trace := { s.trace with cntOn := false } }).dbgAnswer r.tag 0
    else (s.cntStart pa p (bit r.arg2 0)).dbgAnswer r.tag 0)

/-! ### Messages in H2D (R470, R474) -/

/-- The operation and the request of a DBG message (Table 15.1). -/
def dbgReqOf (m : List Byte) : Nat × DbgReq :=
  let w := fun (i : Nat) => BitVec.ofNat 64 (leAt m i 8)
  (leAt m 8 1,
   { tag := BitVec.ofNat 32 (leAt m 4 4), flg := BitVec.ofNat 8 (leAt m 9 1), seq := BitVec.ofNat 32 (leAt m 12 4),
     queue := BitVec.ofNat 8 (leAt m 16 1), ltn0 := BitVec.ofNat 32 (leAt m 20 4), ltn1 := BitVec.ofNat 32 (leAt m 24 4),
     arg0 := w 32, arg1 := w 40, arg2 := w 48,
     codes := (List.range 8).map (fun i => BitVec.ofNat 16 (leAt m (56 + 2 * i) 2)),
     addrs := (List.range 4).map (fun i => w (72 + 8 * i)), watch := w 104,
     bad := decide (leAt m 10 2 ≠ 0) || decide (leAt m 17 3 ≠ 0) || decide (leAt m 28 4 ≠ 0) || decide (leAt m 112 144 ≠ 0) })

/-- A debug operation by its OP; a reserved OP is BADARG. -/
def dbgOp (op : Nat) (r : DbgReq) (s : State) : Out :=
  match op with
  | 1 => execDbgStop r s
  | 2 => execDbgRun r s
  | 3 => execDbgStep r s
  | 4 => execDbgArm r s
  | 5 => execDbgDump r s
  | 6 => execDbgTrace r s
  | 7 => execDbgCnt r s
  | _ => s.dbgRequest op r (fun s => s.dbgAnswer r.tag 4)

/-- The device takes the message in H2D: an answer by its FN, a debug request; another FN is an answer to no request. -/
def State.takeMessage (s : State) : Out :=
  if !s.mbox.h2df then .next s
  else
    let m := leBytes 256 s.mbox.h2d.toNat
    let tag : BitVec 32 := BitVec.ofNat 32 (leAt m 4 4)
    let code : Byte := BitVec.ofNat 8 (leAt m 1 1)
    let pay : BitVec 1984 := BitVec.ofNat 1984 (leAt m 8 248)
    match leAt m 0 1 with
    | 1 => execValAnswer tag code pay s
    | 2 => execFltAnswer tag code pay s
    | 3 => execDecAnswer tag code pay s
    | 6 => execSchedAnswer tag code pay s
    | 7 => execRetireAnswer tag code pay s
    | 8 => dbgOp (dbgReqOf m).1 (dbgReqOf m).2 s
    | _ => .next (({ s with mbox := s.mbox.h2dTaken }).sendRecord (ErrRec.ofType 7))

/-- The debug requests that waited for the end of a firmware update are carried out one by one (R510). -/
def State.heldRequest (s : State) : Out :=
  match s.mbox.dbgHeld with
  | [] => .next s
  | (op, r) :: rest =>
    if s.fw.st ≠ 0 then .next s
    else (dbgOp op r { s with mbox := { s.mbox with dbgHeld := rest, h2df := false } }).map
      (fun u => { u with mbox := { u.mbox with h2df := s.mbox.h2df } })

end Sys2Proof.Machine
end

