-- ==== Sys2Proof/Machine/Kwaup.lean ====
section
/-! DEFINITION. Links: Kwaup ports, their flits, heartbeats and death notices, and the retries of bed links
(spec/12_fabric_pairing_resharding.md R394, R402 to R406). -/

namespace Sys2Proof.Machine

/-! ### Dead packages (R405, R406) -/

/-- BODY of a death notice (R406): bytes 8 to 21 of its flit. -/
def deathBody (dead reporter port time : Nat) : List Byte :=
  leBytes 2 dead ++ leBytes 2 reporter ++ leBytes 2 port ++ leBytes 8 time

/-- Sends a notice out of every live port but one. -/
def State.flood (s : State) (body : List Byte) (except : Option Nat) : State :=
  (List.range 24).foldl (fun s n => if (s.port n).up && decide (except ≠ some n) then s.sendFlit n 2 1 body else s) s

/-- Answers every outstanding request to a package with DEAD (R405, R408). -/
def State.answerDead (s : State) (pkg : Nat) : State :=
  let f := fun (p : Pkt) => { p.refuse 3 p.typ.effects with router := none, refused := false, dpkg := 0 }
  { s with net := updWhere (fun p => decide (p.dpkg = pkg) && !p.typ.isAnswer && decide (p.spkg = 0)) f s.net }

/-- The outer tasks of a package that is dead are lost (R347, R357). -/
def State.loseTasks (s : State) (pkg : Nat) : State :=
  { s with oprs := s.oprs.map (fun (r, o) => (r, match o.desc with
      | none => o
      | some d => if !d.nest then o else
        { o with gone := ((List.range d.tasks).filter (fun t => decide (d.pkgs.getD t 0 = pkg))).foldl tset o.gone })) }

/-- What a package does once another is known to be dead: ports down, the dead map, the answers, the error record. -/
def State.declareDead (s : State) (pkg : Nat) (ports : List Nat) : State :=
  let s := ports.foldl State.portDown s
  let s := { s with dead := setBit s.dead pkg true }
  let s := if pkg = 0 then s else (s.answerDead pkg).loseTasks pkg
  s.sendRecord { ErrRec.ofType 5 with info := pkg }

/-- PEER_DEAD (R405): 10 µs of silence at a port. -/
def execPeerDead (port : Nat) (s : State) : Out :=
  let p := s.port port
  if !p.up || decide (s.bedt.toNat < p.lastRx.toNat + 20000) then .next s
  else .next ((s.declareDead p.peer [port]).flood (deathBody p.peer 0 port s.ns) none)

/-- A death notice that arrives at a port (R406). -/
def State.deathNotice (s : State) (port dead reporter atPort time : Nat) : State :=
  if s.dead.getLsbD dead then s
  else
    let direct := (List.range 24).filter (fun n => (s.port n).up && decide ((s.port n).peer = dead))
    (s.declareDead dead direct).flood (deathBody dead reporter atPort time) (some port)

/-- DEATH_NOTICE (R406). -/
def execDeathNotice (port : Nat) (dead reporter : BitVec 9) (atPort : BitVec 16) (time : Word) (s : State) : Out :=
  .next (s.deathNotice port dead.toNat reporter.toNat atPort.toNat time.toNat)

/-- A write of register i of the dead map: write 1 to clear (R406, Table 14.2). -/
def State.clearDead (s : State) (i : Nat) (v : Word) : State := { s with dead := s.dead &&& ~~~((v.zeroExtend 512) <<< (64 * i)) }

/-- DEADMAP_CLEAR (R406). -/
def execDeadmapClear (i : BitVec 3) (v : Word) (s : State) : Out := .next (s.clearDead i.toNat v)

/-- HBEAT_SEND (R405): a port that has sent nothing for 1 µs. -/
def execHbeatSend (port : Nat) (s : State) : Out :=
  let p := s.port port
  if !p.up || decide (s.bedt.toNat < p.lastTx.toNat + 2000) then .next s
  else .next (s.sendFlit port 1 1 [])

/-! ### Retries (R394, R403) -/

/-- Level 6 instance of a port. -/
def tailstockOf (port : Nat) : Nat := port / 12

/-- The FSEQ of a flit that a port keeps. -/
def flitSeq (f : BitVec 1024) : Nat := fld f 31 16

/-- KWAUP_LNAK (R403): go-back-N from a sequence number; flits before it have arrived. Eight resends in a row of one flit
stop the port. -/
def State.lnak (s : State) (port : Nat) (fseq : Nat) : State :=
  let p := s.port port
  let q := p.txq.dropWhile (fun f => decide (flitSeq f ≠ fseq))
  if !p.up || q.isEmpty then s
  else s.setPort port { p with txq := q, lastTx := s.bedt, retries := p.retries + 1,
                               resends := if q.length = p.txq.length then p.resends + 1 else 1 }

/-- KWAUP_LNAK. -/
def execKwaupLnak (port : Nat) (fseq : BitVec 16) (s : State) : Out := .next (s.lnak port fseq.toNat)

/-- BED_LINK_RETRY (R394): each retry is counted in the bed error log; the eighth failure in a row takes the link out of
service. -/
def execBedLinkRetry (router : Nat) (port : BitVec 3) (ok : Bool) (s : State) : Out :=
  let k := 8 * router + port.toNat
  let s := s.logEvent 5 0 (BitVec.ofNat 64 k) 5 false router
  let n := if ok then 0 else AMap.getD s.linkFails k 0 + 1
  let s := { s with linkFails := AMap.put s.linkFails k n }
  if n < 8 || s.linkDown.contains k then .next s
  else .next ({ s with linkDown := k :: s.linkDown }.sendRecord { ErrRec.ofType 5 with loc := whereTile router, info := k })

/-! ### Packets from other packages -/

/-- A packet read from a link (Table 12.2). -/
def pktOf (bs : List Byte) (now : Word) : Pkt :=
  let nfl := leAt bs 14 1
  let len := leAt bs 12 2
  let typ := PktT.ofCode (leAt bs 0 1)
  let aux := leAt bs 15 1
  let pay := if nfl ≤ 1 then slice bs 32 (Nat.min len 32) else slice bs 64 (Nat.min len (64 * (nfl - 1)))
  { Pkt.make typ 0 .headstock (leAt bs 16 8) now with
    path := leAt bs 1 1 % 4, last := bitsN (leAt bs 1 1) 4 4 = 1, srct := leAt bs 2 2, spkg := leAt bs 6 2 % 512,
    dpkg := leAt bs 8 2 % 512, frid := leAt bs 10 2, len := len, data := pay, cnt := leAt bs 24 8,
    wide := typ = .addw && aux % 2 = 1, add := typ = .addw, aop := aux % 16, grp := aux % 16, epoch := aux / 16,
    code := aux, flagBit := leAt pay 0 1 % 2 = 1 }

/-- An answer from another package: it takes the place of its request; later ones are discarded (R407). -/
def State.farReply (s : State) (p : Pkt) : State :=
  match s.net.find? (fun x => decide (x.rid % 65536 = p.frid) && decide (x.dpkg = p.spkg) && !x.typ.isAnswer &&
      decide (x.spkg = 0)) with
  | none => s
  | some x =>
    let base := { x with typ := p.typ, dpkg := 0, router := none }
    let r := match p.typ with
      | .qrsp => { base with cnt := leAt p.data 0 8, flagBit := leAt p.data 8 1 % 2 = 1 }
      | .err => { base with code := p.code, flagBit := leAt p.data 0 1 % 2 = 1 }
      | .hnak => { base with code := x.typ.code, dpkg := x.dpkg }
      | _ => { base with data := p.data }
    s.updPkt x.rid (fun _ => r)

/-- An error answer to a packet from another package. -/
def State.bounce (s : State) (p : Pkt) (code : Nat) (effect : Bool) : State :=
  if p.typ.isAnswer then s
  else (s.kwaup (p.refuse code effect) (s.dstOf p) p.srct p.spkg p.frid).getD s

/-- A packet that arrives from a link: an answer, a request, or one that goes on to another package (R404). -/
def State.arrivePkt (s : State) (bs : List Byte) : State :=
  let p := pktOf bs s.bedt
  if s.dead.getLsbD p.spkg then s.bounce p 3 p.typ.effects
  else if p.dpkg ≠ 0 then
    if s.dead.getLsbD p.dpkg then s.bounce p 3 p.typ.effects
    else match s.routePort p.path p.dpkg with
      | none => s.bounce p 2 false
      | some n => s.sendBytes n (vlOf p.typ p.path) (bs.length + 1) bs
  else if p.typ.isAnswer then s.farReply p
  else { s with nextRid := s.nextRid + 1 }.send { p with rid := s.nextRid }

/-- Takes the whole packets out of a port's buffer; zero bytes where a packet would begin are padding. -/
def State.parsePkts (s : State) (port : Nat) : (fuel : Nat) → State
  | 0 => s
  | f + 1 =>
    let p := s.port port
    let b := p.rxBuf
    if b.isEmpty then s
    else if leAt b 0 1 = 0 then s.setPort port { p with rxBuf := [] }
    else if b.length < 64 then s
    else
      let n := 64 * Nat.max 1 (Nat.min 5 (leAt b 14 1))
      if b.length < n then s
      else State.parsePkts ((s.setPort port { p with rxBuf := b.drop n }).arrivePkt (b.take n)) port f

/-- The answer LNAK or LACK to a flit (R403). -/
def State.linkAnswer (s : State) (port ktype fseq : Nat) : State :=
  s.setPort port { s.port port with lastTx := s.bedt, ack := flitOf ktype 1 fseq [] }

/-- A flit with a valid CRC breaks the protocol (R403): a reserved KTYPE, reserved VL bits, non-zero zero bytes. -/
def badFlit (bs : List Byte) : Bool :=
  let k := leAt bs 0 1
  decide (4 < k) || decide (leAt bs 1 1 / 16 ≠ 0) || decide (leAt bs 6 2 ≠ 0) ||
  (decide (k ≠ 0) && (slice bs (if k = 2 then 22 else 8) (if k = 2 then 98 else 112)).any (fun b => b ≠ 0))

/-- KWAUP_FLIT_RECEIVE (R402 to R406). LACK and LNAK name the flit they are about in FSEQ and take no number of their own
(log entry 27). -/
def execKwaupFlitReceive (port : Nat) (flit : BitVec 1024) (s : State) : Out :=
  let p := s.port port
  let bs := leBytes 128 flit.toNat
  let k := leAt bs 0 1
  let fseq := leAt bs 2 2
  if !p.up || decide (8 ≤ p.resends) then .next s
  else if (crc64 (bs.take 120)).toNat ≠ leAt bs 120 8 then .next (s.linkAnswer port 4 p.rxSeq.toNat)
  else if (k = 3 || k = 4) && !badFlit bs then
    let s := s.setPort port { p with lastRx := s.bedt }
    if k = 4 then .next (s.lnak port fseq)
    else
      let q := p.txq.dropWhile (fun f => decide (flitSeq f ≠ fseq))
      .next (if q.isEmpty then s else s.setPort port { s.port port with txq := q.drop 1, resends := 0 })
  else if fseq ≠ p.rxSeq.toNat then .next (s.linkAnswer port 4 p.rxSeq.toNat)
  else if badFlit bs then
    .next ((s.logEvent 6 (tailstockOf port) (BitVec.ofNat 64 port) 5 false 0).linkAnswer port 4 fseq)
  else
    let s := s.setPort port { p with rxSeq := p.rxSeq + 1, lastRx := s.bedt }
    let s := s.linkAnswer port 3 fseq
    if k = 0 then
      let q := s.port port
      let s := s.setPort port { q with rxBuf := q.rxBuf ++ slice bs 8 112 }
      .next (s.parsePkts port (q.rxBuf.length / 64 + 4))
    else if k = 2 then .next (s.deathNotice port (leAt bs 8 2 % 512) (leAt bs 10 2 % 512) (leAt bs 12 2) (leAt bs 14 8))
    else .next s

end Sys2Proof.Machine
end

