-- ==== Sys2Proof/Machine/Matrix.lean ====
section
/-! DEFINITION. The matrix instructions (spec/06_matrix_instructions.md): the issue of each into XQ (R24 to R26). What the command does when XQ runs
it is `matBegin` and `matRun`. -/

namespace Sys2Proof.Machine

/-- MSHAPE (R211). -/
def execMshape (e : Eng) (s : State) : Out := issue (.mshape e) e .x s

/-- MANCH (R212). -/
def execManch (e : Eng) (s : State) : Out := issue (.manch e) e .x s

/-- MZP (R213). -/
def execMzp (e : Eng) (s : State) : Out := issue (.mzp e) e .x s

/-- MPRIV (R214). -/
def execMpriv (e : Eng) (s : State) : Out := issue (.mpriv e) e .x s

/-- MCODE (R215). -/
def execMcode (e : Eng) (s : State) : Out := issue (.mcode e) e .x s

/-- MCSUM (R217). -/
def execMcsum (e : Eng) (s : State) : Out := issue (.mcsum e) e .x s

/-- MLDA (R218). -/
def execMlda (e : Eng) (s : State) : Out := issue (.mlda e) e .x s

/-- MLDB (R218). -/
def execMldb (e : Eng) (s : State) : Out := issue (.mldb e) e .x s

/-- MMA (R220). -/
def execMma (e : Eng) (s : State) : Out := issue (.mma e) e .x s

/-- MMAS (R220). -/
def execMmas (e : Eng) (s : State) : Out := issue (.mmas e) e .x s

/-- MMAQ (R220). -/
def execMmaq (e : Eng) (s : State) : Out := issue (.mmaq e) e .x s

/-- MMAP (R220). -/
def execMmap (e : Eng) (s : State) : Out := issue (.mmap e) e .x s

/-- MCHK (R228). -/
def execMchk (e : Eng) (s : State) : Out := issue (.mchk e) e .x s

/-- MDRAIN (R229). -/
def execMdrain (e : Eng) (s : State) : Out := issue (.mdrain e) e .x s

/-- MDRAINX (R230). -/
def execMdrainx (e : Eng) (s : State) : Out := issue (.mdrainx e) e .x s

/-- MZERO (R232). -/
def execMzero (e : Eng) (s : State) : Out := issue (.mzero e) e .x s

/-- MWM (R233). -/
def execMwm (e : Eng) (s : State) : Out := issue (.mwm e) e .x s

/-- MCAP (R234). -/
def execMcap (e : Eng) (s : State) : Out := issue (.mcap e) e .x s

/-- MSTAT (R234). -/
def execMstat (e : Eng) (s : State) : Out := issue (.mstat e) e .x s

/-- SMV (R238). -/
def execSmv (e : Eng) (s : State) : Out := issue (.smv e) e .x s

/-- SMVW (R239). -/
def execSmvw (e : Eng) (s : State) : Out := issue (.smvw e) e .x s

end Sys2Proof.Machine
end

