-- ==== Sys2Proof/Machine/Memory.lean ====
section
/-! DEFINITION. Loads, stores, prefetch and single-word atomics (spec/04_control_instructions.md R155 to R165). -/

namespace Sys2Proof.Machine

/-- The bytes of an access of a size code (R104). -/
def szBytes (sz : BitVec 2) : Nat := 2 ^ sz.toNat

/-- The effective address of a memory instruction (R155). -/
def State.ea (s : State) (a : Reg) (off : BitVec 14) : Word := s.g a + s.simm off.toInt

/-- A load of size sz, its value made into a register by ext (R155 to R158). -/
def State.loadTo (s : State) (d a : Reg) (sz : BitVec 2) (off : BitVec 14) (acq : Bool) (ext : Nat → Word) : Out :=
  s.runImm off.toNat true (fun s =>
    (s.cLoad (s.ea a off) (szBytes sz) acq).andThen fun v s => .ok .seq (s.setG d (ext v)))

/-- A store of size sz (R155 to R158). -/
def State.storeFrom (s : State) (d a : Reg) (sz : BitVec 2) (off : BitVec 14) (rel : Bool) : Out :=
  s.runImm off.toNat true (fun s =>
    (s.cStore (s.ea a off) (szBytes sz) (s.g d).toNat rel).andThen fun _ s => .ok .seq s)

/-- LD (R155). -/
def execLd (d a : Reg) (sz : BitVec 2) (off : BitVec 14) (s : State) : Out := s.loadTo d a sz off false (BitVec.ofNat 64)

/-- LDS (R155). -/
def execLds (d a : Reg) (sz : BitVec 2) (off : BitVec 14) (s : State) : Out :=
  s.loadTo d a sz off false (fun v => w64 (sextN (8 * szBytes sz) v))

/-- LDA (R158). -/
def execLda (d a : Reg) (sz : BitVec 2) (off : BitVec 14) (s : State) : Out := s.loadTo d a sz off true (BitVec.ofNat 64)

/-- ST (R155). -/
def execSt (d a : Reg) (sz : BitVec 2) (off : BitVec 14) (s : State) : Out := s.storeFrom d a sz off false

/-- STL (R158). -/
def execStl (d a : Reg) (sz : BitVec 2) (off : BitVec 14) (s : State) : Out := s.storeFrom d a sz off true

/-- The prefetch of the line that holds the byte at ea (R160): nothing where a check of R156 fails, where the page is SO or a
window, and on a compressed-page miss (R321); a line of another package is taken as replaced again before it is used (R313). -/
def State.prefetch (s : State) (ea : Word) : State :=
  match s.cCheck ea 1 false false with
  | .ok [p] s' =>
    if !p.l1 || p.far.isSome then s'
    else
      let m := s'.blockMiss p.cmp p.key
      if m.1 || (AMap.find? m.2.me.l1 (l1Line p.key)).isSome then m.2 else m.2.l1Fill p.key
  | .ok _ s' => s'
  | .trap _ s' => s'
  | .wait _ => s

/-- PFL (R160). -/
def execPfl (a : Reg) (_sz : BitVec 2) (off : BitVec 14) (s : State) : Out :=
  s.runImm off.toNat true (fun s => .ok .seq (s.prefetch (s.ea a off)))

/-! ### Atomics -/

/-- The tile and offset of the word that an ATOM names (tile 256: in another package): of the executing tile's own region, or on a management core of a
physical tile window (R162, R165). -/
def State.atomPlace (s : State) (a : Word) : Res (Nat × Nat) :=
  let bad := Res.trap (TrapI.mk3 5 0 a) s
  let inRegion := fun (off : Nat) => decide (atomBase ≤ off) && decide (off < atomEnd)
  let at_ := fun (g off : Nat) => if a.toNat % 8 ≠ 0 then Res.trap (TrapI.mk3 6 0 a) s else Res.ok (g, off) s
  if s.onCore then
    if a.toNat / 2 ^ 52 ≠ 0 ∨ bitsN a.toNat 51 44 ≠ 0xFF ∨ !inRegion (a.toNat % 2 ^ 24) then bad
    else match s.place a.toNat with
      | .tile g off => at_ g off
      | .far _ => at_ 256 (a.toNat % 2 ^ 24)
      | .hbm _ _ => bad
      | .out => (at_ 256 0).andThen fun _ s => .trap (TrapI.mk3 35 1 a) s
      | .reserved => bad
  else if a.toNat / 2 ^ 24 ≠ 0 ∨ !inRegion a.toNat then bad
  else at_ s.gid a.toNat

/-- An ATOM of a management core on another package's tile: an ATM packet with one entry (R165, R393). -/
def State.atomFar (s : State) (aop : Nat) (a b e : Word) : Res (List Byte) :=
  let data := leBytes 8 0 ++ leBytes 8 b.toNat ++ (if aop = 6 then leBytes 8 e.toNat else [])
  farAccess s s.cur.far (fun s l => s.updCur (fun c => { c with far := l }))
    { Pkt.make .atm 0 s.who a.toNat s.bedt with dpkg := farPkg a.toNat, len := 8, data := data, aop := aop } true

/-- ATOM (R162): f gives the new word from the old one, b and e; none where nothing is written. -/
def State.atom (s : State) (aop : Nat) (d a b : Reg) (f : Word → Word → Word → Option Word) : Out :=
  s.run false true (fun s =>
    (s.atomPlace (s.g a)).andThen fun p s =>
      if p.1 = 256 then
        (s.atomFar aop (s.g a) (s.g b) (s.g d)).andThen fun bs s => .ok .seq (s.setG d (BitVec.ofNat 64 (ofBytes bs)))
      else
      let key := tileBase p.1 + p.2
      let h := s.readHome s.who.code key 8
      match h.bad with
      | some w => .trap (memTrap s.onCore w key key) h.s
      | none =>
        let old : Word := BitVec.ofNat 64 (ofBytes h.bytes)
        match f old (s.g b) (s.g d) with
        | none => .ok .seq (h.s.setG d old)
        | some new =>
          match h.s.writeHome key (leBytes 8 new.toNat) with
          | .error w => .trap (memTrap s.onCore w key key) h.s
          | .ok s' => .ok .seq (s'.setG d old))

/-- AADD (R162). -/
def execAadd (d a b : Reg) (s : State) : Out := s.atom 0 d a b (fun o x _ => some (o + x))

/-- AMIN (R162). -/
def execAmin (d a b : Reg) (s : State) : Out := s.atom 1 d a b (fun o x _ => some (if x.toInt < o.toInt then x else o))

/-- AMAX (R162). -/
def execAmax (d a b : Reg) (s : State) : Out := s.atom 2 d a b (fun o x _ => some (if o.toInt < x.toInt then x else o))

/-- AMINU (R162). -/
def execAminu (d a b : Reg) (s : State) : Out := s.atom 3 d a b (fun o x _ => some (if x.toNat < o.toNat then x else o))

/-- AMAXU (R162). -/
def execAmaxu (d a b : Reg) (s : State) : Out := s.atom 4 d a b (fun o x _ => some (if o.toNat < x.toNat then x else o))

/-- AXCHG (R162). -/
def execAxchg (d a b : Reg) (s : State) : Out := s.atom 5 d a b (fun _ x _ => some x)

/-- ACAS (R162): compares with the old gD. -/
def execAcas (d a b : Reg) (s : State) : Out := s.atom 6 d a b (fun o x e => if o = e ∧ x ≠ o then some x else none)

/-- AAND (R162). -/
def execAand (d a b : Reg) (s : State) : Out := s.atom 7 d a b (fun o x _ => some (o &&& x))

/-- AOR (R162). -/
def execAor (d a b : Reg) (s : State) : Out := s.atom 8 d a b (fun o x _ => some (o ||| x))

/-- AXOR (R162). -/
def execAxor (d a b : Reg) (s : State) : Out := s.atom 9 d a b (fun o x _ => some (o ^^^ x))

end Sys2Proof.Machine
end

