-- ==== Sys2Proof/Machine/Queue.lean ====
section
/-! DEFINITION. TOKP and XCALL (spec/05_work_sync_instructions.md R170 to R172, spec/08_copy_system_instructions.md R300): the issue of the command into
the queue that QSEL names. Its run is `State.engineMove`. -/

namespace Sys2Proof.Machine

/-- TOKP (R171). -/
def execTokp (e : Eng) (s : State) : Out := issue (.tokp e) e e.qsel s

/-- XCALL (R300). -/
def execXcall (e : Eng) (s : State) : Out := issue (.xcall e) e e.qsel s

end Sys2Proof.Machine
end

