-- ==== Sys2Proof/Machine/Reliability.lean ====
section
/-! DEFINITION. Storage errors, parity and scrubbing (spec/13_faults_reliability.md R447 to R450). -/

namespace Sys2Proof.Machine

/-! ### Strikes -/

/-- SCRUB's reset value by level (R450). -/
def scrubReset (level : Nat) : Word := if level = 1 ∨ level = 2 then 600 else 3600

/-- The SCRUB register of a level's instance. -/
def State.scrub (s : State) (level inst : Nat) : Word := AMap.getD s.scrubs (logKey level inst) (scrubReset level)

/-- The home address of a byte of storage of this package; none where no word stands. -/
def State.stored (s : State) (pa : Nat) : Option Nat :=
  match s.home pa with
  | .hbm st off => some (Place.hbm st off).key
  | .tile g off => if (s.tile g).offBad off 1 then none else some (Place.tile g off).key
  | .far _ => none
  | .out => none
  | .reserved => none

/-- Storage, address and length of the word that a site of memory names: a home's protected word, or the 8-byte word of L2's copy of
HBM4E, unless its line has been retired (Table 13.7). -/
def State.memSite (s : State) (site : ErrSite) : Option (Mark × Nat × Nat) :=
  match site with
  | .word pa => (s.stored pa).map (fun key => (.home, protWord key))
  | .l2 pa => match s.stored pa with
    | none => none
    | some key =>
      if 0xFF * 2 ^ 44 ≤ key || s.retired.contains (logKey 3 (bitsN key 39 36), key / 128 * 128) then none
      else some (.l2, key / 8 * 8, 8)
  | _ => none

/-- Storage and index of the word that a site beside memory names, where there is one. Under ECC it is one 8-byte word (R448): of a
packet, of the 3 KiB that the checksum store holds for a z tile (R442); the value of an object is one. -/
def State.markSite (s : State) (site : ErrSite) : Option (Mark × Nat) :=
  let tile := fun (g : Nat) (m : Mark) (n : Nat) => if g < 256 then some (m, n) else none
  match site with
  | .value obj i => match AMap.find? s.objs obj with
    | none => none
    | some o => if bitsN obj 25 20 = 0 ∧ i < o.vals.length then some (.value, obj * 2 ^ 24 + i) else none
  | .packet rid w => (s.pkt? rid).bind (fun p =>
      if w.toNat < cdiv (64 + p.data.length) 8 then some (.packet, p.rid * 64 + w.toNat) else none)
  | .checksum g z w => if w.toNat < 384 then tile g .checksum ((g * 16 + z.toNat) * 512 + w.toNat) else none
  | .reg g r => tile g .reg (g * 32 + r.toNat)
  | .pred g p => tile g .pred (g * 8 + p.toNat)
  | .vreg g r => tile g .vreg (g * 32 + r.toNat)
  | .mask g m => tile g .mask (g * 8 + m.toNat)
  | .queueBuf g q => tile g .queueBuf (g * 4 + q.code)
  | .slot g n => tile g .slot (g * 4 + n.toNat)
  | .xret g => tile g .xret g
  | _ => none

/-- Puts a word with flipped bits in the place of what the storage says of that word; a second error makes it uncorrectable. -/
def State.strikeWord (s : State) (m : Mark) (pa len : Nat) (correctable : Bool) : State :=
  let here := fun (b : BadWord) => decide (b.mark = m) && decide (b.pa = pa) && decide (b.len = len)
  let corr := correctable && !s.bad.any here
  { s with bad := { mark := m, pa := pa, len := len, corr := corr, inj := false } :: s.bad.filter (fun b => !here b) }

/-- The words of a record with flipped bits, after an error in word w: a second one there makes it uncorrectable. -/
def struck (w : Nat) (correctable : Bool) (l : List (Nat × Bool)) : List (Nat × Bool) :=
  (w, correctable && !l.any (fun x => decide (x.1 = w))) :: l.filter (fun x => decide (x.1 ≠ w))

/-- Word w of record number i from the oldest of a pool has flipped bits in the pool store (R448). -/
def State.strikeRecord (s : State) (k region pri i w : Nat) (correctable : Bool) : State :=
  s.updLaunch k (fun l => { l with
    pools := updWhere (fun p => decide (p.region = region) && decide (p.pri = pri)) (fun p =>
      { p with recs := p.recs.modify i (fun x => ({ x.1 with ecc := struck w correctable x.1.ecc }, x.2)) }) l.pools })

/-- STORAGE_BIT_ERROR (R447, R448): a word of protected storage now holds flipped bits. Under parity `correctable` says that the error
is met once and not again by a replay. -/
def execStorageBitError (site : ErrSite) (correctable : Bool) (s : State) : Out :=
  match s.memSite site, s.markSite site, site with
  | some (m, w, n), _, _ => .next (s.strikeWord m w n correctable)
  | none, some (m, i), _ => .next (s.strikeWord m i 0 correctable)
  | none, none, .record k region pri i w => .next (s.strikeRecord k region pri.toNat i w.toNat correctable)
  | none, none, _ => .next s

/-! ### Scrubbing (R450) -/

/-- What a scrub read does with a bad word: it logs it, and corrects it where that can be done. -/
def scrubWord (s : State) (w : BadWord) : State :=
  let s := s.logEvent w.level.1 w.level.2 w.loc (if w.corr then 1 else 2) w.inj 0x400
  if w.corr then { s with bad := s.bad.filter (fun x => decide (x ≠ w)) } else s

/-- SCRUB_READ (R450): a scrub pass of a level reads the protected word at a site; off where PASS = 0. Storage beside the four scrubbed
levels has none. -/
def execScrubRead (site : ErrSite) (s : State) : Out :=
  match s.memSite site with
  | none => .next s
  | some (m, w, n) =>
    let lv := if m = .l2 then (3, bitsN w 39 36) else storeLevel w
    if fld (s.scrub lv.1 lv.2) 31 0 = 0 then .next s
    else .next ((s.bad.filter (fun b => decide (b.mark = m) && overlap w n b.pa b.len)).foldl scrubWord s)

/-! ### Parity (R447) -/

/-- A replay: the error is logged at level 0 of the tile (R447, Table 13.7) and counted (Table 15.7); nothing else changes. -/
def State.replayed (s : State) (g src : Nat) (w : BadWord) : State :=
  ({ s with bad := s.bad.filter (fun x => decide (x ≠ w)) }.updTile g (fun t => t.bump 136)).logEvent 0 g (BitVec.ofNat 64 g) 3 w.inj src

/-- The general registers that an instruction of the control core reads; an engine instruction reads those that it captures
(R25). -/
def regSources (i : Instr) : List Reg :=
  match i with
  | .add _ a b | .sub _ a b | .mul _ a b | .mulh _ a b | .mulhu _ a b | .div _ a b | .divu _ a b | .rem _ a b | .remu _ a b
  | .and _ a b | .or _ a b | .xor _ a b | .shl _ a b | .shr _ a b | .sar _ a b | .min _ a b | .max _ a b | .minu _ a b | .maxu _ a b
  | .cmpeq _ a b | .cmpne _ a b | .cmplt _ a b | .cmpltu _ a b | .cmpge _ a b | .cmpgeu _ a b
  | .aadd _ a b | .amin _ a b | .amax _ a b | .aminu _ a b | .amaxu _ a b | .axchg _ a b | .aand _ a b | .aor _ a b | .axor _ a b
  | .spawn a b | .qpush a b | .launch _ a b => [a, b]
  | .lea _ a b _ => [a, b]
  | .sel _ a b _ => [a, b]
  | .acas d a b | .spawnj d a b => [d, a, b]
  | .st d a _ _ | .stl d a _ _ => [d, a]
  | .swr d a => [d, a]
  | .clz _ a | .ctz _ a | .popc _ a | .bswap _ a | .sextB _ a | .sextH _ a | .sextW _ a | .zextB _ a | .zextH _ a | .zextW _ a
  | .tagwa _ a | .tagwl _ a | .join _ a | .srd _ a => [a]
  | .addi _ a _ | .andi _ a _ | .ori _ a _ | .xori _ a _ => [a]
  | .shli _ a _ | .shri _ a _ | .sari _ a _ => [a]
  | .cmpeqi _ a _ | .cmpnei _ a _ | .cmplti _ a _ | .cmpltui _ a _ | .cmpgei _ a _ | .cmpgeui _ a _ => [a]
  | .ld _ a _ _ | .lds _ a _ _ | .lda _ a _ _ => [a]
  | .movw d hi _ => if hi then [d] else []
  | .ji a | .calli a | .tagclr a => [a]
  | .loop _ a _ => [a]
  | .mts g _ => [g]
  | .mtsTcfg g | .mtsTokc g | .mtsDqn g | .mtsSeqw g | .mtsSeed g | .mtsEbase g | .injArm g => [g]
  | .mtsQueueNumber g _ _ | .mtsQueueLink g _ _ => [g]
  | .mtsZwm g _ => [g]
  | .mtsLoopRegister g _ _ => [g]
  | .pfl a _ _ => [a]
  | .tagff _ a _ => [a]
  | .barset a _ => [a]
  | .qseq _ a _ => [a]
  | .qpop _ _ a => [a]
  | .tlbinv a _ _ => [a]
  | .l1inv a all => if all then [] else [a]
  | i => match i.eng? with
    | none => []
    | some e =>
      if i.isVector then (if i.gbGeneral then [e.gb] else []) ++ (if i.gcGeneral then [e.gc] else []) else [e.ga, e.gb, e.gc]

/-- The general register that an instruction of the control core writes when it retires. -/
def regDest (i : Instr) : Option Reg :=
  match i with
  | .add d _ _ | .sub d _ _ | .mul d _ _ | .mulh d _ _ | .mulhu d _ _ | .div d _ _ | .divu d _ _ | .rem d _ _ | .remu d _ _
  | .and d _ _ | .or d _ _ | .xor d _ _ | .shl d _ _ | .shr d _ _ | .sar d _ _ | .min d _ _ | .max d _ _ | .minu d _ _ | .maxu d _ _
  | .aadd d _ _ | .amin d _ _ | .amax d _ _ | .aminu d _ _ | .amaxu d _ _ | .axchg d _ _ | .acas d _ _ | .aand d _ _ | .aor d _ _
  | .axor d _ _ | .launch d _ _ => some d
  | .lea d _ _ _ | .sel d _ _ _ => some d
  | .clz d _ | .ctz d _ | .popc d _ | .bswap d _ | .sextB d _ | .sextH d _ | .sextW d _ | .zextB d _ | .zextH d _ | .zextW d _
  | .tagwa d _ | .tagwl d _ | .join d _ | .srd d _ => some d
  | .addi d _ _ | .andi d _ _ | .ori d _ _ | .xori d _ _ => some d
  | .shli d _ _ | .shri d _ _ | .sari d _ _ => some d
  | .movi d _ => some d
  | .movw d _ _ => some d
  | .ld d _ _ _ | .lds d _ _ _ | .lda d _ _ _ => some d
  | .mfs d _ => some d
  | .tokw d _ _ _ => some d
  | .tagff d _ _ => some d
  | .barw d _ => some d
  | .baraw d _ _ => some d
  | .waitb d _ => some d
  | .qseq d _ _ => some d
  | .xretw d => some d
  | .qpop d _ _ => some d
  | .wfe d _ => some d
  | _ => none

/-- The predicates that an instruction reads. -/
def predSources (i : Instr) : List PReg :=
  match i with
  | .pand _ a b | .por _ a b | .pxor _ a b => [a, b]
  | .pnot _ a => [a]
  | .sel _ _ _ p => [p]
  | .bp p _ _ | .bnp p _ _ => [p]
  | _ => []

/-- The predicate that an instruction writes. -/
def predDest (i : Instr) : Option PReg :=
  match i with
  | .cmpeq p _ _ | .cmpne p _ _ | .cmplt p _ _ | .cmpltu p _ _ | .cmpge p _ _ | .cmpgeu p _ _ => some p
  | .cmpeqi p _ _ | .cmpnei p _ _ | .cmplti p _ _ | .cmpltui p _ _ | .cmpgei p _ _ | .cmpgeui p _ _ => some p
  | .pand p _ _ | .por p _ _ | .pxor p _ _ => some p
  | .pnot p _ => some p
  | .qpop _ p _ => some p
  | _ => none

/-- The words under parity that an instruction of a tile's control core reads: its general registers and predicates, and XRET. -/
def State.parityOf (s : State) (g : Nat) (i : Instr) : List BadWord :=
  s.bad.filter (fun w => match w.mark with
    | .reg => decide (w.pa / 32 = g) && (regSources i).any (fun r => decide (r.toNat = w.pa % 32))
    | .pred => decide (w.pa / 8 = g) && (predSources i).any (fun p => decide (p.toNat = w.pa % 8))
    | .xret => decide (w.pa = g) && (match i with
      | .xretw _ => true
      | _ => false)
    | _ => false)

/-- A register that an instruction has written is good again. -/
def State.regWritten (s : State) (g : Nat) (i : Instr) : State :=
  { s with bad := s.bad.filter (fun w => match w.mark with
    | .reg => !(decide (w.pa / 32 = g) && (regDest i).any (fun r => decide (r.toNat = w.pa % 32)))
    | .pred => !(decide (w.pa / 8 = g) && (predDest i).any (fun p => decide (p.toNat = w.pa % 8)))
    | _ => true) }

/-- Instructions that a tile's control core has retired (Table 15.7). -/
def State.retired134 (s : State) (g : Nat) : BitVec 32 := AMap.getD (s.tile g).counters 134 0

/-- The memory error of a register (Table 13.4): EINFO is its number. -/
def trapReg (w : BadWord) : TrapI := TrapI.mk3 9 2 (BitVec.ofNat 64 (match w.mark with
  | .reg => w.pa % 32
  | .vreg => w.pa % 32
  | .pred => w.pa % 8
  | .mask => w.pa % 8
  | .slot => w.pa % 4
  | _ => 0))

/-- An instruction of a tile's control core meets parity errors: it is performed again, or ends the charged domain where the replay
meets one again (R447). -/
def State.parityTurn (s : State) (g : Nat) (i : Instr) (go : State → Out) : Out :=
  let ws := s.parityOf g i
  let s := ws.foldl (fun s w => s.replayed g 0 w) s
  match ws.find? (fun w => !w.corr) with
  | some w => .next (s.raise (trapReg w))
  | none => if s.bad.isEmpty then go s
    else (go s).map (fun u => if s.retired134 g ≠ u.retired134 g then u.regWritten g i else u)

/-- The operand slots that a command of the matrix engine reads: a0, a1, b0, b1 as 0 to 3. -/
def slotsRead (i : Instr) : List Nat :=
  let of := fun (e : Eng) => [fld e.f7 1 1, 2 + fld e.f7 2 2]
  match i with
  | .mma e => of e
  | .mmas e => of e
  | .mmaq e => of e
  | .mmap e => of e
  | _ => []

/-- The z tile whose checksum store a command reads (R224, R225). -/
def checksumRead (i : Instr) : Option Nat :=
  let acc := fun (e : Eng) => if e.acc then some e.zn else none
  match i with
  | .mma e => acc e
  | .mmas e => acc e
  | .mmaq e => acc e
  | .mmap e => acc e
  | .mchk e => some e.zn
  | .mdrain e => some e.zn
  | .mdrainx e => some e.zn
  | _ => none

/-- The vector registers that a vector command reads: its operands, and vd where that is one (R253, R260, R269). -/
def vecSources (i : Instr) (e : Eng) : List Reg :=
  let b := if e.sc then [] else [e.gc]
  match i with
  | .vbcast _ | .vld _ | .vmask _ | .vdrainq _ => []
  | .vgat _ => [e.gc]
  | .vst _ => [e.ga]
  | .vsct _ => [e.ga, e.gc]
  | .vfma _ => e.ga :: e.gb :: b
  | .vdefer _ => (List.range (e.w1 19 16)).map (fun k => e.gb + BitVec.ofNat 5 k)
  | .vslide _ | .vmse _ => [e.gb, e.gc]
  | .vadd _ | .vsub _ | .vmul _ | .vmulh _ | .vmulhu _ | .vmin _ | .vmax _ | .vminu _ | .vmaxu _ | .vsadd _ | .vssub _ | .vand _
  | .vor _ | .vxor _ | .vshl _ | .vshr _ | .vsar _ | .vclmull _ | .vclmulh _ | .vfadd _ | .vfsub _ | .vfmul _ | .vfdiv _ | .vfmin _
  | .vfmax _ | .vcmpeq _ | .vcmplt _ | .vcmpltu _ | .vfcmpeq _ | .vfcmplt _ | .vsel _ | .vperm _ => e.gb :: b
  | _ => [e.gb]

/-- The mask registers that a vector command reads. -/
def maskSources (i : Instr) (e : Eng) : List (BitVec 3) :=
  match i with
  | .vmask _ =>
    if e.w1 18 16 ≤ 3 then [maskField e.gb, maskField e.gc] else if e.w1 18 16 = 5 then [] else [maskField e.gb]
  | .vret _ | .vdrainq _ => []
  | _ => [e.mk_]

/-- The vector registers that a vector command writes whole when it completes. -/
def vecDests (i : Instr) (e : Eng) (x : Vxe) : List Reg :=
  let whole := e.mz || decide (x.mask e.mk_ = BitVec.allOnes 64)
  match i with
  | .vret _ | .vcmpeq _ | .vcmplt _ | .vcmpltu _ | .vfcmpeq _ | .vfcmplt _ | .vmask _ | .vst _ | .vsct _ | .vmse _ | .vdefer _ => []
  | .vdrainq _ => (List.range (e.w1 19 16 + 1)).map (fun k => e.ga + BitVec.ofNat 5 k)
  | .vsel _ | .vredadd _ | .vredmin _ | .vredmax _ | .vfredadd _ | .vqnt _ | .vdq _ => [e.ga]
  | .vcvt _ => if whole && decide (cvtW (e.w1 21 19) = 32) then [e.ga] else []
  | _ => if whole then [e.ga] else []

/-- The mask register that a vector command writes. -/
def maskDest (i : Instr) (e : Eng) : Option (BitVec 3) :=
  match i with
  | .vcmpeq _ | .vcmplt _ | .vcmpltu _ | .vfcmpeq _ | .vfcmplt _ => some (maskField e.ga)
  | .vmask _ => if e.w1 18 16 ≤ 5 then some (maskField e.ga) else none
  | .vdrainq _ => some (maskField e.gc)
  | _ => none

/-- What a step of a command of a queue reads of the storage that has flipped bits: vector and mask registers, operand slots, the
checksum store. -/
def State.stepReads (s : State) (g : Nat) (en : QEntry) : List BadWord :=
  match en.instr with
  | none => []
  | some i => s.bad.filter (fun w => match w.mark with
      | .vreg => i.isVector && decide (w.pa / 32 = g) && (i.eng?).any (fun e => (vecSources i e).any (fun r => decide (r.toNat = w.pa % 32)))
      | .mask => i.isVector && decide (w.pa / 8 = g) && (i.eng?).any (fun e => (maskSources i e).any (fun r => decide (r.toNat = w.pa % 8)))
      | .slot => decide (w.pa / 4 = g) && (slotsRead i).contains (w.pa % 4)
      | .checksum => decide (w.pa / 8192 = g) && decide ((s.tile g).mxe.csMode ≠ 0) && decide (checksumRead i = some (w.pa / 512 % 16))
      | _ => false)

/-- A vector command has made its effects in a step: what it has written whole is good again. -/
def State.vecWritten (s : State) (g : Nat) (en : QEntry) (x : Vxe) : State :=
  let made := match (s.tile g).xq.entry en.isn with
    | none => true
    | some e => e.made || decide (e.st = .done) || decide (e.sub ≠ en.sub)
  match en.instr, en.instr.bind (fun i => i.eng?) with
  | some i, some e =>
    if !made || en.made || !i.isVector then s
    else { s with bad := s.bad.filter (fun w => match w.mark with
      | .vreg => !(decide (w.pa / 32 = g) && (vecDests i e x).any (fun r => decide (r.toNat = w.pa % 32)))
      | .mask => !(decide (w.pa / 8 = g) && (maskDest i e).any (fun r => decide (r.toNat = w.pa % 8)))
      | _ => true) }
  | _, _ => s

/-- A step meets a word: a register under parity is read again, logged as a replay; the checksum store has ECC (R448). -/
def State.meetStep (s : State) (g : Nat) (w : BadWord) : State :=
  if w.mark = .checksum then
    let s := s.logEvent 2 g (BitVec.ofNat 64 g) (if w.corr then 1 else 2) w.inj 3
    if w.corr then { s with bad := s.bad.filter (fun x => decide (x ≠ w)) } else s
  else s.replayed g 3 w

/-- The fault with which a step ends where what it has read cannot be had: an operand slot at once, a register whose replay meets the
error again, a word of the checksum store. -/
def stepFault (ws : List BadWord) : Option TrapI :=
  (ws.find? (fun w => !w.corr || decide (w.mark = .slot))).map (fun w =>
    if w.mark = .checksum then TrapI.mk3 9 1 (BitVec.ofNat 64 (w.pa / 512 % 16)) else trapReg w)

/-- The buffer of a queue with a parity error is read again from the queue's chain (R447): the fault where SEC-DED cannot correct the
entry there. An entry of an extension segment stands in the die's store. -/
def State.bufferRepair (s : State) (g : Nat) (q : Q) (en : QEntry) : State × Option TrapI :=
  let ws := s.bad.filter (fun w => decide (w.mark = .queueBuf) && decide (w.pa = g * 4 + q.code))
  let s := ws.foldl (fun s w => s.replayed g (pathNo q) w) s
  if ws.isEmpty || bit en.at_ 31 then (s, none)
  else
    let h := s.readHome (pathNo q) (localKey g (fld en.at_ 23 0 * 64)) 64
    (h.s, h.bad.map (fun w => TrapI.mk3 9 1 (BitVec.ofNat 64 w)))

/-- A command that writes an operand slot whole makes its words good. -/
def State.slotWritten (s : State) (g : Nat) (en : QEntry) : State :=
  let wr := fun (n : Nat) => { s with bad := s.bad.filter (fun w => !(decide (w.mark = .slot) && decide (w.pa = g * 4 + n))) }
  match en.instr with
  | some (.mlda e) => wr (fld e.f7 0 0)
  | some (.mldb e) => wr (2 + fld e.f7 0 0)
  | _ => s

/-- A step of a queue's head with the parity and ECC of what it reads (R447, R448). -/
def State.engineTurn (s : State) (g : Nat) (q : Q) : Out :=
  if s.bad.isEmpty then s.engineMove g q
  else match ((s.tile g).queue q).headEnt with
    | none => s.engineMove g q
    | some en =>
      match s.bufferRepair g q en with
      | (s, some t) => .next (s.engineFault g q en t)
      | (s, none) =>
        if en.st ≠ .begun || q ≠ .x then s.engineMove g q
        else
          let s := s.slotWritten g en
          let ws := s.stepReads g en
          let s := ws.foldl (fun s w => s.meetStep g w) s
          match stepFault ws with
          | some t => .next (s.engineFault g q en t)
          | none => (s.engineMove g q).map (fun u => u.vecWritten g en (s.tile g).vxe)

/-! ### Router buffers (R448) -/

/-- A packet is read from a router's buffer: a word with flipped bits is logged at the bed, and one that ECC cannot correct turns the
packet into the remote error MEM at its requester (R448, R449; the link that LOC names is log entry 99). -/
def State.routerRead (s : State) (rid : Nat) : State :=
  let ws := s.bad.filter (fun w => decide (w.mark = .packet) && decide (w.pa / 64 = rid))
  match ws, s.pkt? rid with
  | [], _ => s
  | _, none => s
  | _ :: _, some p =>
    let loc := BitVec.ofNat 64 (8 * p.router.getD 0)
    let s := ws.foldl (fun s w => s.logEvent 5 0 loc (if w.corr then 1 else 2) w.inj 0x300) s
    let s := { s with bad := s.bad.filter (fun w => !ws.contains w) }
    if ws.all (fun w => w.corr) then s
    else if p.typ.isAnswer then s.updPkt rid (fun p => { p with typ := .err, code := 8, flagBit := p.typ ≠ .rdr })
    else s.refuse p 8 false

end Sys2Proof.Machine
end

