-- ==== Sys2Proof/Machine/ReshardEng.lean ====
section
/-! DEFINITION. The re-sharding engines (spec/12_fabric_pairing_resharding.md R420 to R426): layout records, the generated plan,
host plans, and the run of chunks. -/

namespace Sys2Proof.Machine

/-! ### Layout records (R420, Table 12.8) -/

/-- A tensor layout record as read. -/
structure Tlr where
  nax : Nat
  nmx : Nat
  esz : Nat
  dims : List Nat
  msh : List Nat
  shd : List Nat
  devs : List Nat
  deriving DecidableEq, Repr

/-- NDEV of a header. -/
def tlrNdev (h : List Byte) : Nat := leAt h 32 4

/-- The fields of a record. -/
def tlrOf (h d : List Byte) : Tlr :=
  let nax := leAt h 0 1
  let nmx := leAt h 1 1
  { nax := nax, nmx := nmx, esz := leAt h 2 1, dims := (List.range nax).map (fun a => leAt h (4 + 4 * a) 4),
    msh := (List.range nmx).map (fun j => leAt h (20 + 2 * j) 2), shd := (List.range nax).map (fun a => leAt h (28 + a) 1),
    devs := (List.range (tlrNdev h)).map (fun i => leAt d (8 * i) 8) }

/-- The header breaks R420. -/
def badTlrHeader (h : List Byte) : Bool :=
  let t := tlrOf h []
  t.nax = 0 || decide (4 < t.nax) || t.nmx = 0 || decide (4 < t.nmx) || t.esz = 0 || leAt h 3 1 ≠ 0 ||
  t.dims.any (fun d => d = 0 || decide (2 ^ 31 < d)) || t.msh.any (fun m => decide (m = 0)) ||
  (List.range 4).any (fun a => decide (t.nax ≤ a) && (decide (leAt h (4 + 4 * a) 4 ≠ 0) || decide (leAt h (28 + a) 1 ≠ 0xFF))) ||
  (List.range 4).any (fun j => decide (t.nmx ≤ j) && decide (leAt h (20 + 2 * j) 2 ≠ 0)) ||
  t.shd.any (fun j => j ≠ 0xFF && decide (t.nmx ≤ j)) ||
  (t.shd.filter (fun j => decide (j ≠ 0xFF))).eraseDups.length ≠ (t.shd.filter (fun j => decide (j ≠ 0xFF))).length ||
  (t.dims.zip t.shd).any (fun p => p.2 ≠ 0xFF && p.1 % Nat.max 1 (t.msh.getD p.2 1) ≠ 0) ||
  decide (tlrNdev h ≠ t.msh.foldl (· * ·) 1) || decide (4096 < tlrNdev h) || decide ((h.drop 36).any (fun b => decide (b ≠ 0)))

/-- A device entry is no 52-bit address. -/
def badDevs (d : List Byte) (n : Nat) : Bool := (List.range n).any (fun i => decide (2 ^ 52 ≤ leAt d (8 * i) 8))

/-- Coordinates of an index in a row-major grid. -/
def coords : (sizes : List Nat) → (i : Nat) → List Nat
  | [], _ => []
  | _ :: r, i =>
    let n := r.foldl (· * ·) 1
    (i / Nat.max 1 n) :: coords r (i % Nat.max 1 n)

/-- The box of device i: first index and length along each tensor axis. -/
def Tlr.box (t : Tlr) (i : Nat) : List (Nat × Nat) :=
  let m := coords t.msh i
  (t.dims.zip t.shd).map (fun p =>
    if p.2 = 0xFF then (0, p.1)
    else
      let n := p.1 / Nat.max 1 (t.msh.getD p.2 1)
      (m.getD p.2 0 * n, n))

/-- Device i has a non-zero coordinate on a mesh axis that splits no tensor axis. -/
def Tlr.replica (t : Tlr) (i : Nat) : Bool :=
  let m := coords t.msh i
  (List.range t.nmx).any (fun j => !t.shd.contains j && decide (m.getD j 0 ≠ 0))

/-- Byte offset of an element in the shard with a box. -/
def offsetIn (esz : Nat) (box : List (Nat × Nat)) (idx : List Nat) : Nat :=
  esz * (box.zip idx).foldl (fun a p => a * p.1.2 + (p.2 - p.1.1)) 0

/-- The intersection of two boxes; nothing when it is empty. -/
def meet (a b : List (Nat × Nat)) : Option (List (Nat × Nat)) :=
  let c := (a.zip b).map (fun p => (Nat.max p.1.1 p.2.1, Nat.min (p.1.1 + p.1.2) (p.2.1 + p.2.2) - Nat.max p.1.1 p.2.1))
  if c.any (fun x => decide (x.2 = 0)) then none else some c

/-- The indices of a box, in row-major order. -/
def indices : List (Nat × Nat) → List (List Nat)
  | [] => [[]]
  | (lo, n) :: r => (List.range n).flatMap (fun i => (indices r).map (fun x => (lo + i) :: x))

/-- A chunk being planned: source device and offset, destination device and offset, length. -/
structure PChunk where
  s : Nat
  so : Nat
  d : Nat
  dof : Nat
  len : Nat
  deriving DecidableEq, Repr

/-- Cuts a run into chunks of 2^24 bytes, the last one first. -/
def cutRun : (fuel : Nat) → PChunk → List PChunk → List PChunk
  | 0, _, acc => acc
  | f + 1, c, acc =>
    if c.len ≤ 2 ^ 24 then c :: acc
    else cutRun f { c with so := c.so + 2 ^ 24, dof := c.dof + 2 ^ 24, len := c.len - 2 ^ 24 } ({ c with len := 2 ^ 24 } :: acc)

/-- Emits a run: merged into the chunk before it, or starting a new one (R423). The newest chunk stands first. -/
def emit (acc : List PChunk) (c : PChunk) : List PChunk :=
  match acc with
  | [] => cutRun (c.len / 2 ^ 24 + 1) c []
  | p :: r =>
    if p.s = c.s ∧ p.d = c.d ∧ p.so + p.len = c.so ∧ p.dof + p.len = c.dof ∧ p.len + c.len ≤ 2 ^ 24 then
      { p with len := p.len + c.len } :: r
    else cutRun (c.len / 2 ^ 24 + 1) c (p :: r)

/-- The runs between one pair of devices. -/
def runsOf (src dst : Tlr) (s d : Nat) : List PChunk :=
  let bs := src.box s
  let bd := dst.box d
  match meet bd bs with
  | none => []
  | some c =>
    let last := c.getLastD (0, 0)
    (indices c.dropLast).map (fun i =>
      let e := i ++ [last.1]
      { s := s, so := offsetIn src.esz bs e, d := d, dof := offsetIn src.esz bd e, len := src.esz * last.2 })

/-- The generated plan (R423): source address, destination address and length of each chunk. -/
def planOf (src dst : Tlr) : List (Nat × Nat × Nat) :=
  let runs := (List.range dst.devs.length).flatMap (fun d =>
    (List.range src.devs.length).flatMap (fun s => if src.replica s then [] else runsOf src dst s d))
  ((runs.foldl emit []).reverse).map (fun c => (src.devs.getD c.s 0 + c.so, dst.devs.getD c.d 0 + c.dof, c.len))

/-! ### The engine's accesses -/

/-- Reads a piece at a physical address for engine n. -/
def State.rsReadPa (s : State) (n pa len : Nat) : Res (List Byte) :=
  match s.place pa with
  | .far p =>
    farAccess s (s.rs n).far (fun s l => s.setRs n { s.rs n with far := l })
      { Pkt.make .rd 0 (.reshard n) pa s.bedt with dpkg := p, len := len } false
  | .hbm _ _ => s.hsReadPa pa len
  | .tile _ _ => s.hsReadPa pa len
  | .out => .trap hsBad s
  | .reserved => .trap hsBad s

/-- Reads pieces. -/
def State.rsReads (s : State) (n : Nat) : List (Nat × Nat) → Res (List Byte)
  | [] => .ok [] s
  | (pa, len) :: r => (s.rsReadPa n pa len).andThen fun b s => (State.rsReads s n r).andThen fun bs s => .ok (b ++ bs) s

/-- Reads bytes. -/
def State.rsRead (s : State) (n pa len : Nat) : Res (List Byte) := s.rsReads n (pieces 256 (len / 256 + 2) pa len)

/-- Writes the pieces that lie in other packages and waits for their answers. -/
def State.rsFarWrites (s : State) (n : Nat) (bs : List Byte) : List (Nat × Nat) → Res Unit
  | [] => .ok () s
  | (pa, len) :: r =>
    match s.place pa with
    | .far p =>
      (farAccess s (s.rs n).far (fun s l => s.setRs n { s.rs n with far := l })
        { Pkt.make .wr 0 (.reshard n) pa s.bedt with dpkg := p, len := len, data := bs.take len } true).andThen fun _ s =>
          State.rsFarWrites s n (bs.drop len) r
    | _ => State.rsFarWrites s n (bs.drop len) r

/-- Writes the pieces that lie in this package. -/
def State.rsNearWrites (s : State) (bs : List Byte) : List (Nat × Nat) → Res Unit
  | [] => .ok () s
  | (pa, len) :: r =>
    match s.place pa with
    | .far _ => State.rsNearWrites s (bs.drop len) r
    | _ => (s.hsWritePa pa (bs.take len)).andThen fun _ s => State.rsNearWrites s (bs.drop len) r

/-- Writes bytes: those of other packages first, which are answered before any other changes. -/
def State.rsWrite (s : State) (n pa : Nat) (bs : List Byte) : Res Unit :=
  let ps := pieces 256 (bs.length / 256 + 2) pa bs.length
  (s.rsFarWrites n bs ps).andThen fun _ s => s.rsNearWrites bs ps

/-! ### Start (R421, R422, R424) -/

/-- The engine stops with an error. -/
def State.rsStop (s : State) (n err : Nat) : State :=
  s.setRs n { s.rs n with st := 3, err := err, far := [], loading := false, pausing := false }

/-- A remote error on a chunk: its record names the chunk (R426; its fields are log entry 29). -/
def State.rsRemote (s : State) (n : Nat) : State :=
  let r := { ErrRec.ofType 5 with loc := 33 + n, info := (s.rs n).done }
  (s.rsStop n 4).sendRecord r

/-- n bytes from a physical address on stand in the halves of the map that hold HBM4E, of whatever package (Table 9.2); a reserved address
among them fails its read. -/
def inHbm4e (pa n : Nat) : Bool := decide (pa + n ≤ 2 ^ 51)

/-- One layout record: 64-byte aligned in HBM4E (R420). -/
def State.readTlr (s : State) (n pa : Nat) : Res (Option Tlr) :=
  if pa % 64 ≠ 0 ∨ !inHbm4e pa 64 then .ok none s
  else
    (s.rsRead n pa 64).andThen fun h s =>
      if badTlrHeader h || !inHbm4e pa (64 + 8 * tlrNdev h) then .ok none s
      else (s.rsRead n (pa + 64) (8 * tlrNdev h)).andThen fun d s => .ok (if badDevs d (tlrNdev h) then none else some (tlrOf h d)) s

/-- The chunk records of a host plan (R424); a record that breaks the layout is a chunk of length 0. -/
def hostChunks : (k : Nat) → List Byte → List (Nat × Nat × Nat)
  | 0, _ => []
  | k + 1, bs =>
    let len := leAt bs 16 4
    let bad := decide (2 ^ 52 ≤ leAt bs 0 8) || decide (2 ^ 52 ≤ leAt bs 8 8) || decide (2 ^ 24 < len) || decide (leAt bs 20 12 ≠ 0)
    (leAt bs 0 8, leAt bs 8 8, if bad then 0 else len) :: hostChunks k (bs.drop 32)

/-- What GO finds: the plan, or the ERR code of R422. -/
def State.rsPlan (s : State) (n : Nat) : Res (Except Nat (List (Nat × Nat × Nat))) :=
  let r := s.rs n
  (s.readTlr n r.src.toNat).andThen fun a s =>
    (s.readTlr n r.dst.toNat).andThen fun b s =>
      match a, b with
      | some a, some b =>
        if a.nax ≠ b.nax ∨ a.dims ≠ b.dims ∨ a.esz ≠ b.esz then .ok (.error 1) s
        else if (!r.host && bit s.mbox.duty 3) || (r.host && r.pcnt = 0) then .ok (.error 3) s
        else if !r.host then .ok (.ok (planOf a b)) s
        else (s.rsRead n r.plan.toNat (32 * r.pcnt.toNat)).andThen fun bs s => .ok (.ok (hostChunks r.pcnt.toNat bs)) s
      | _, _ => .ok (.error 2) s

/-- Writes the cursor: DONE and the plan's total (R425); both zero at a start (R422). -/
def State.rsCommit (s : State) (n done total : Nat) : State :=
  match s.rsWrite n (s.rs n).cur.toNat (leBytes 8 done ++ leBytes 8 total) with
  | .ok _ s' => s'
  | .trap _ s' => s'
  | .wait s' => s'

/-- The load of a run: the plan is read, the cursor written or read (R422, R426). -/
def State.rsLoad (s : State) (n : Nat) : State :=
  match s.rsPlan n with
  | .wait s' => s'
  | .trap _ s' => s'.rsStop n 2
  | .ok (.error e) s' => s'.rsStop n e
  | .ok (.ok chunks) s' =>
    let total := chunks.length
    let go := fun (done : Nat) (s : State) =>
      let paused := (s.rs n).pausing && decide (done < total)
      let s := if paused then s.rsCommit n done total else s
      s.setRs n { s.rs n with chunks := chunks, done := done, loading := false, far := [], pausing := false,
                              st := if total ≤ done then 0 else if paused then 2 else 1 }
    if !(s'.rs n).resume then go 0 (s'.rsCommit n 0 0)
    else match s'.rsRead n (s'.rs n).cur.toNat 16 with
      | .wait s' => s'
      | .trap _ s' => s'.rsRemote n
      | .ok bs s' => go (leAt bs 0 8) s'

/-- GO, with RESUME and HOST (R421, R422). -/
def State.rsStart (s : State) (n : Nat) (resume host : Bool) : State :=
  if (s.rs n).st = 1 then s
  else (s.setRs n { s.rs n with st := 1, err := 0, loading := true, resume := resume, host := host, pausing := false, far := [],
                                chunks := [], done := 0 }).rsLoad n

/-- RS_GO (R421 to R423). -/
def execRsGo (eng : BitVec 1) (s : State) : Out := .next (s.rsStart eng.toNat false false)

/-- RS_RESUME (R426): GO with RESUME, for the kind of plan that was running. -/
def execRsResume (eng : BitVec 1) (s : State) : Out := .next (s.rsStart eng.toNat true (s.rs eng.toNat).host)

/-- RS_HOST_PLAN (R424). -/
def execRsHostPlan (eng : BitVec 1) (s : State) : Out := .next (s.rsStart eng.toNat false true)

/-! ### The run (R425, R426) -/

/-- The engine pauses: at once when no chunk has begun. -/
def State.rsPause (s : State) (n : Nat) : State :=
  let r := s.rs n
  if r.st ≠ 1 then s
  else if r.far.isEmpty && !r.loading then (let s := s.rsCommit n r.done r.chunks.length; s.setRs n { s.rs n with st := 2, far := [] })
  else s.setRs n { r with pausing := true }

/-- RS_PAUSE (R426). -/
def execRsPause (eng : BitVec 1) (s : State) : Out := .next (s.rsPause eng.toNat)

/-- The engine stops at once. -/
def State.rsAbort (s : State) (n : Nat) : State := if (s.rs n).st ≠ 1 then s else s.rsStop n 5

/-- RS_ABORT (R426). -/
def execRsAbort (eng : BitVec 1) (s : State) : Out := .next (s.rsAbort eng.toNat)

/-- A write of RSCTL (Table 12.9). -/
def State.writeRsctl (s : State) (n : Nat) (v : Word) : State :=
  let s := if bit v 0 then s.rsStart n (bit v 1) (bit v 2) else s
  let s := if bit v 3 then s.rsPause n else s
  if bit v 4 then s.rsAbort n else s

/-- The chunk in hand is done: the cursor advances; the run ends, pauses, or goes on. -/
def State.rsAdvance (s : State) (n : Nat) : State :=
  let r := s.rs n
  let done := r.done + 1
  let s := s.setRs n { r with done := done, far := [] }
  let s := s.rsCommit n done r.chunks.length
  let st := if r.chunks.length ≤ done then 0 else if r.pausing then 2 else 1
  s.setRs n { s.rs n with st := st, far := [], pausing := false }

/-- RS_CHUNK_DONE (R425): the chunk in hand reads its source and writes its destination, and the cursor is committed. While the
plan is still being read, that goes on. -/
def execRsChunkDone (eng : BitVec 1) (s : State) : Out :=
  let n := eng.toNat
  let r := s.rs n
  if r.st ≠ 1 then .next s
  else if r.loading then .next (s.rsLoad n)
  else match r.chunks[r.done]? with
    | none => .next (s.setRs n { r with st := 0 })
    | some (a, b, len) =>
      if len = 0 then .next (s.rsStop n 3)
      else match (s.rsRead n a len).andThen (fun bs s => s.rsWrite n b bs) with
        | .ok _ s' => .next (s'.rsAdvance n)
        | .wait s' => .next s'
        | .trap _ s' => .next (s'.rsRemote n)

end Sys2Proof.Machine
end

