-- ==== Sys2Proof/Machine/System.lean ====
section
/-! DEFINITION. The system instructions but for SRD and SWR (spec/08_copy_system_instructions.md R301 to R307, Table 8.8). -/

namespace Sys2Proof.Machine

/-- TRAP (R302): EPC is the successor, or the TRAP itself with EINFO[12] where there is none. -/
def execTrap (code : BitVec 12) (s : State) : Out :=
  s.run false false (fun s =>
    match s.cur.succ with
    | some a => .trap { TrapI.mk3 19 0 (code.zeroExtend 64) with epc := some a } s
    | none => .trap (TrapI.mk3 19 0 (BitVec.ofNat 64 (code.toNat + 4096))) s)

/-- An instruction that only M may execute (R15). -/
def State.atMOnly (s : State) (body : State → Res Flow) : Out :=
  s.run false false (fun s => if s.cur.atM then body s else .trap trapPrivilege s)

/-- ERET (R303). -/
def execEret (s : State) : Out := s.atMOnly (fun s => if s.cur.intrap then s.eret else .trap trapIllegal s)

/-- A debug stop is armed for a BKPT's code (R476). -/
def State.bkptArmed (s : State) (code : BitVec 12) : Bool := !s.onCore && s.me.dbg.codes.contains (some code)

/-- BKPT (R302): an armed one retires without effect and stops the tile before its successor; a STEP count that ends with it is no
second trigger (R476). -/
def execBkpt (code : BitVec 12) (s : State) : Out :=
  if s.cur.pfx.isNone && s.bkptArmed code then .next (((s.updCur (fun c => { c with stepLeft := none })).retire .seq).stopTile s.gid 1)
  else s.run false false (fun s => .trap (TrapI.mk3 20 0 (code.zeroExtend 64)) s)

/-- SYNCI (R304). -/
def execSynci (s : State) : Out := s.simple (fun s => s.updCur (fun c => { c with ibuf := [] }))

/-- The translations that a TLBINV of a KIND leaves in a cache (R305): KIND 0 removes every one whose page holds the address. -/
def tlbKeep (kind va space : Nat) (l : List TlbEnt) : List TlbEnt :=
  if kind = 0 then l.filter (fun e => !(decide (e.va ≤ va) && decide (va < e.va + e.size)))
  else if kind = 1 then l.filter (fun e => decide (e.space ≠ space))
  else []

/-- A beat sent under a translation that `keep` removes has not been performed: its packet still holds its pin (R305, R278). -/
def State.pinnedBeat (s : State) (keep : List TlbEnt → List TlbEnt) (reach : Agent → Bool) : Bool :=
  s.net.any (fun p => !p.typ.performed && reach p.src && (match p.pin with
    | some e => (keep [e]).isEmpty
    | none => false))

/-- TLBINV (R305): it waits for every pin that a beat in flight or a stack MV read holds on what it removes. -/
def execTlbinv (a : Reg) (kind : BitVec 2) (scope : Scope) (s : State) : Out :=
  s.atMOnly (fun s =>
    let keep := tlbKeep kind.toNat (s.g a).toNat s.space.key
    let wide := decide (scope = .package) || decide (scope = .domain)
    let me := s.gid
    let core := s.onCore
    let reach := fun (g : Nat) => wide || (!core && (decide (g = me) || (decide (scope = .die) && decide (g / 16 = me / 16))))
    let pinned := s.tiles.any (fun (g, t) => reach g && (List.finRange 4).any (fun k =>
      decide ((keep (t.mxe.tickets[k]).pins).length < (t.mxe.tickets[k]).pins.length)))
    let sent := s.pinnedBeat keep (fun x => match x with
      | .tile g => reach g
      | .core _ => wide || core
      | .reshard _ => wide || core
      | .headstock => wide || core)
    if pinned || sent then .wait s
    else .ok .seq { s with
      tiles := s.tiles.map (fun (g, t) => (g, if reach g then { t with tlb := keep t.tlb } else t)),
      htlb := if wide || core then keep s.htlb else s.htlb })

/-- L1WB (R306): the model's stores reach their home at once. -/
def execL1wb (s : State) : Out := s.simple (fun s => s)

/-- L1INV (R306). -/
def execL1inv (a : Reg) (all : Bool) (s : State) : Out :=
  s.simple (fun s =>
    if s.onCore then s
    else if all then s.l1Drop
    else match s.translate s.who s.space (s.g a).toNat .rd s.cur.atM with
      | .ok x s' => s'.updMe (fun t => { t with l1 := AMap.del t.l1 (l1Line (s'.lineKey x.pa)) })
      | .trap _ s' => s'
      | .wait s' => s')

/-- PMARK (R307): without effect on a management core (R120). -/
def execPmark (code : BitVec 12) (s : State) : Out :=
  s.simple (fun s =>
    if s.onCore then s else (s.updMe (fun t => t.bump 135)).traceRec s.gid 1 code.toNat)

end Sys2Proof.Machine
end

