-- ==== Sys2Proof/Machine/SysReg.lean ====
section
/-! DEFINITION. The system registers (spec/14_power_clocks_boot.md R462, R463, Table 14.2): the map, reads and writes by SRD and
SWR (R308), and the host's view through BAR0 and the management port (R472, R473). -/

namespace Sys2Proof.Machine

/-- A register of Table 14.2. -/
inductive SysReg where
  /-- Queue n: 0 LQCFG, 1 LQBASE, 2 CRBASE, 3 LQPTR, 4 CRPTR. -/
  | lq (n which : Nat)
  | errcfg | errbase | errptr | duty | govcfg | ballast | prectl | prstat | bedt
  /-- Coding register r: 0 OPD, 1 OPST, 2 OPDIE, 3 OPCNT. -/
  | opr (r which : Nat)
  | fwctl | fwstat | fwimg | hova | fwhb
  /-- Word w of measurement register i. -/
  | mr (i w : Nat)
  | h2d (w : Nat)
  | d2h (w : Nat)
  | mbctl
  | objcmd (home : Nat)
  | objstat (home : Nat)
  | deadmap (i : Nat)
  /-- Window register, by its key. -/
  | window (key : Nat)
  /-- Word w of the log of a level's instance. -/
  | log (level inst w : Nat)
  | ftmo (die : Nat)
  | scrub (level inst : Nat)
  /-- Engine n: 0 RSCTL, 1 RSSRC, 2 RSDST, 3 RSCUR, 4 RSPLAN, 5 RSPCNT, 6 RSSTAT. -/
  | rs (n which : Nat)
  /-- Route table p, entry q. -/
  | route (p q : Nat)
  deriving DecidableEq, Repr

/-! ### The map -/

/-- Word w of a log of 2 KiB that begins at an offset. -/
def logReg (off at_ level inst : Nat) : Option SysReg :=
  if at_ ≤ off ∧ off < at_ + 0x800 then some (.log level inst ((off - at_) / 8)) else none

/-- The registers of the Headstock. -/
def headReg (off : Nat) : Option SysReg :=
  if off < 0x1000 then (if off % 64 / 8 ≤ 4 then some (.lq (off / 64) (off % 64 / 8)) else none)
  else if 0x2000 ≤ off ∧ off < 0x2200 then some (.opr ((off - 0x2000) / 32) (off % 32 / 8))
  else if 0x3100 ≤ off ∧ off < 0x31C0 then some (.mr ((off - 0x3100) / 64) (off % 64 / 8))
  else if 0x4000 ≤ off ∧ off < 0x4100 then some (.h2d ((off - 0x4000) / 8))
  else if 0x4100 ≤ off ∧ off < 0x4200 then some (.d2h ((off - 0x4100) / 8))
  else if 0x6000 ≤ off ∧ off < 0x6040 then some (.deadmap ((off - 0x6000) / 8))
  else match off with
    | 0x1000 => some .errcfg
    | 0x1008 => some .errbase
    | 0x1010 => some .errptr
    | 0x1100 => some .duty
    | 0x1200 => some .govcfg
    | 0x1208 => some .ballast
    | 0x1300 => some .prectl
    | 0x1308 => some .prstat
    | 0x1400 => some .bedt
    | 0x3000 => some .fwctl
    | 0x3008 => some .fwstat
    | 0x3010 => some .fwimg
    | 0x3018 => some .hova
    | 0x3020 => some .fwhb
    | 0x4200 => some .mbctl
    | 0x5000 => some (.objcmd 0)
    | 0x5008 => some (.objstat 0)
    | 0x7000 => some (.window (windowKey 5 0))
    | 0x7008 => some (.window (windowKey 7 0))
    | _ => (logReg off 0x7800 5 0).or (logReg off 0x8000 7 0)

/-- The registers of a lathe die (socket 1 to 16). -/
def dieReg (die off : Nat) : Option SysReg :=
  if 0x0100 ≤ off ∧ off < 0x0128 then
    let level := (off - 0x100) / 8
    some (.window (windowKey level (if level ≤ 2 then 16 * (die - 1) else die - 1)))
  else match off with
    | 0x0000 => some (.ftmo die)
    | 0x0008 => some (.scrub 3 (die - 1))
    | 0x0010 => some (.scrub 4 (die - 1))
    | 0x5000 => some (.objcmd die)
    | 0x5008 => some (.objstat die)
    | _ => (logReg off 0x1000 3 (die - 1)).or (logReg off 0x1800 4 (die - 1))

/-- The registers of a tile. -/
def tileReg (g off : Nat) : Option SysReg :=
  match off with
  | 0x0000 => some (.scrub 1 g)
  | 0x0008 => some (.scrub 2 g)
  | _ => ((logReg off 0x0800 0 g).or (logReg off 0x1000 1 g)).or (logReg off 0x1800 2 g)

/-- The registers of Tailstock n (socket 33 + n). -/
def tailReg (n off : Nat) : Option SysReg :=
  if off < 0x38 then some (.rs n (off / 8))
  else if 0x1000 ≤ off ∧ off < 0x5000 then some (.route ((off - 0x1000) / 0x1000) (off % 0x1000 / 8))
  else if off = 0x6000 then some (.window (windowKey 6 n))
  else logReg off 0x6800 6 n

/-- The register at a system-register address of this package (R462); none where none is assigned. -/
def sysRegOf (sa : Nat) : Option SysReg :=
  let off := bitsN sa 20 0
  let tile := bitsN sa 25 22
  let sock := bitsN sa 31 26
  if sa % 8 ≠ 0 ∨ 2 ^ 32 ≤ sa then none
  else if bitsN sa 21 21 = 1 then
    (if 1 ≤ sock ∧ sock ≤ 16 then tileReg (16 * (sock - 1) + tile) off else none)
  else if tile ≠ 0 then none
  else if sock = 0 then headReg off
  else if sock ≤ 16 then dieReg sock off
  else if sock = 33 ∨ sock = 34 then tailReg (sock - 33) off
  else none

/-! ### Reading -/

/-- A register of a launch queue (Tables 11.1 to 11.3). -/
def LQueue.sysReg (q : LQueue) (which : Nat) : Word :=
  match which with
  | 0 => q.cfg
  | 1 => q.base
  | 2 => q.crbase
  | 3 => BitVec.ofNat 64 (q.tail.toNat + q.head.toNat * 2 ^ 32)
  | _ => BitVec.ofNat 64 (q.crtail.toNat + q.crhead.toNat * 2 ^ 32)

/-- A register of a coding register (Table 10.2). -/
def Opr.sysReg (o : Opr) (which : Nat) : Word :=
  match which with
  | 0 => o.opd
  | 1 => o.status
  | 2 => o.opdie
  | _ => o.counts

/-- A register of a re-sharding engine (Table 12.9). -/
def Reshard.sysReg (r : Reshard) (which : Nat) : Word :=
  match which with
  | 1 => r.src
  | 2 => r.dst
  | 3 => r.cur
  | 4 => r.plan
  | 5 => r.pcnt
  | 6 => BitVec.ofNat 64 (r.st + r.err * 256)
  | _ => 0

/-- The 32 bytes of a log record (R451). -/
def LogRec.bytes (r : LogRec) : List Byte :=
  leBytes 8 r.time.toNat ++ leBytes 8 r.loc.toNat ++ leBytes 1 r.kind ++ leBytes 1 (b2n r.inj) ++ leBytes 2 r.src ++ leBytes 12 0

/-- Word w of a log: record n of all that were made stands in place n mod 64 (R451). -/
def State.logWord (s : State) (level inst w : Nat) : Word :=
  let lg := AMap.getD s.logs (logKey level inst) (0, [])
  let back := (lg.1 + 63 - w / 4) % 64
  match lg.2[back]? with
  | some r => BitVec.ofNat 64 (leAt r.bytes (8 * (w % 4)) 8)
  | none => 0

/-- 64-bit word w of a buffer. -/
def word64 {n : Nat} (v : BitVec n) (w : Nat) : Word := BitVec.ofNat 64 (fld v (64 * w + 63) (64 * w))

/-- Measurement register i. -/
def Fw.mr (f : Fw) (i : Nat) : BitVec 512 := if i = 0 then f.mr0 else if i = 1 then f.mr1 else f.mr2

/-- FTMO of a die (Table 12.6). -/
def State.ftmoOf (s : State) (die : Nat) : Word := AMap.getD s.ftmo die (BitVec.ofNat 64 (50 + 200 * 65536))

/-- PRSTAT (Table 13.6). -/
def PrStat.word (p : PrStat) : Word := BitVec.ofNat 64 (p.st + b2n p.refd * 4 + b2n p.tfail * 8)

/-- What a read of a system register returns; write-only fields read as zero (Table 0.4). -/
def State.sysRead (s : State) (r : SysReg) : Word :=
  match r with
  | .lq n w => (s.lqueue n).sysReg w
  | .errcfg => BitVec.ofNat 64 (b2n s.ring.en + s.ring.sz * 256)
  | .errbase => s.ring.base
  | .errptr => BitVec.ofNat 64 (s.ring.tail.toNat + s.ring.head.toNat * 2 ^ 32)
  | .duty => s.mbox.duty.zeroExtend 64
  | .govcfg => s.gov.word
  | .ballast => s.gov.ballast
  | .prectl => 0
  | .prstat => s.pr.word
  | .bedt => s.bedt
  | .opr r w => (s.opr r).sysReg w
  | .fwctl => 0
  | .fwstat => s.fw.stat
  | .fwimg => s.fw.fwimg
  | .hova => s.fw.hova
  | .fwhb => s.fw.fwhb
  | .mr i w => word64 (s.fw.mr i) w
  | .h2d w => word64 s.mbox.h2d w
  | .d2h w => word64 s.mbox.d2h w
  | .mbctl => BitVec.ofNat 64 (b2n s.mbox.h2df + b2n s.mbox.d2hf * 2)
  | .objcmd _ => 0
  | .objstat h => BitVec.ofNat 64 (AMap.getD s.objstat h 0)
  | .deadmap i => word64 s.dead i
  | .window k => s.window k
  | .log l i w => s.logWord l i w
  | .ftmo d => s.ftmoOf d
  | .scrub l i => s.scrub l i
  | .rs n w => (s.rs n).sysReg w
  | .route p q => (AMap.getD s.routes (512 * p + q) 0).zeroExtend 64

/-! ### Writing -/

/-- The writable bits of a physical address register, PA[51:12] (Table 11.2) and PA[51:0] (Table 12.9). -/
def pageMask : Word := 0xFFFFFFFFFF000
/-- PA[51:0]. -/
def paMask : Word := 0xFFFFFFFFFFFFF

/-- A write of a register of launch queue n (Tables 11.1 to 11.3). -/
def State.writeLq (s : State) (host : Bool) (n which : Nat) (v : Word) : State :=
  let q := s.lqueue n
  match which with
  | 0 => s.writeLqcfg host n v
  | 1 => if q.en then s else s.setLqueue n { q with base := v &&& pageMask }
  | 2 => if q.en then s else s.setLqueue n { q with crbase := v &&& pageMask }
  | 3 => s.writeTail n (v.truncate 32)
  | _ => s.writeCrhead n ((v >>> 32).truncate 32)

/-- A write of ERRCFG (R463): as LQCFG. -/
def State.writeErrcfg (s : State) (v : Word) : State :=
  let g := s.ring
  let sz := fld v 11 8
  if g.en then
    if bit v 0 then s
    else if g.head = g.tail then { s with ring := { g with en := false } }
    else s.sendRecord (ErrRec.ofType 7)
  else if bit v 0 && decide (sz < 4) then s.sendRecord (ErrRec.ofType 7)
  else { s with ring := { g with en := bit v 0, sz := sz } }

/-- A 64-bit word set in a buffer. -/
def setWord {n : Nat} (b : BitVec n) (w : Nat) (v : Word) : BitVec n :=
  BitVec.ofNat n (b.toNat - (word64 b w).toNat * 2 ^ (64 * w) + v.toNat * 2 ^ (64 * w))

/-- A write of MBCTL (R470): a core that has written H2D may set H2DF as well (R474), D2HF is cleared by the host alone. -/
def State.writeMbctl (s : State) (host : Bool) (v : Word) : State :=
  let s := if bit v 0 then { s with mbox := { s.mbox with h2df := true } } else s
  if host && bit v 1 && s.mbox.d2hf then s.clearD2hf else s

/-- FTMO's stored value: KTO below 20 reads back as 20 (Table 12.6). -/
def ftmoWrite (v : Word) : Word := BitVec.ofNat 64 (fld v 15 0 + Nat.max 20 (fld v 31 16) * 65536)

/-- A write of a register of re-sharding engine n (Table 12.9). -/
def State.writeRs (s : State) (n which : Nat) (v : Word) : State :=
  let r := s.rs n
  if which = 0 then s.writeRsctl n v
  else if r.st = 1 then s
  else match which with
    | 1 => s.setRs n { r with src := v &&& paMask }
    | 2 => s.setRs n { r with dst := v &&& paMask }
    | 3 => s.setRs n { r with cur := v &&& paMask }
    | 4 => s.setRs n { r with plan := v &&& paMask }
    | 5 => s.setRs n { r with pcnt := v &&& 0xFFFFFFFF }
    | _ => s

/-- The effect of a write of a system register by M, or by the host where the map says RW. A read-only register ignores it. -/
def State.sysWrite (s : State) (host : Bool) (r : SysReg) (v : Word) : State :=
  match r with
  | .lq n w => s.writeLq host n w v
  | .errcfg => s.writeErrcfg v
  | .errbase => if s.ring.en then s else { s with ring := { s.ring with base := v &&& pageMask } }
  | .errptr => s.writeErrHead ((v >>> 32).truncate 32)
  | .duty => s.writeDuty v
  | .govcfg => s.writeGovcfg v
  | .ballast => s
  | .prectl => s.writePrectl v
  | .prstat => s
  | .bedt => s
  | .opr _ _ => s
  | .fwctl => s.writeFwctl v
  | .fwstat => s
  | .fwimg => { s with fw := { s.fw with fwimg := v } }
  | .hova => { s with fw := { s.fw with hova := v } }
  | .fwhb => s.writeFwhb v
  | .mr _ _ => s
  | .h2d w => { s with mbox := { s.mbox with h2d := setWord s.mbox.h2d w v } }
  | .d2h w => { s with mbox := { s.mbox with d2h := setWord s.mbox.d2h w v } }
  | .mbctl => s.writeMbctl host v
  | .objcmd h => s.objcmd h v
  | .objstat _ => s
  | .deadmap i => s.clearDead i v
  | .window k => { s with windows := AMap.put s.windows k (v &&& 0x3FFFFFFFFF) }
  | .log _ _ _ => s
  | .ftmo d => { s with ftmo := AMap.put s.ftmo d (ftmoWrite v) }
  | .scrub l i => { s with scrubs := AMap.put s.scrubs (logKey l i) (v &&& 0xFFFFFFFF) }
  | .rs n w => s.writeRs n w v
  | .route _ _ => s

/-! ### SRD and SWR (R308) -/

/-- An access of a control core to a system register (R308, R462): of its own package at once, unless its lathe die is out of service
(R396); of another package by a CTRL packet, whose layout is log entry 68. -/
def State.sysAccess (s : State) (sa : Word) (wr : Bool) (data : List Byte) (here : SysReg → Res Flow)
    (got : List Byte → State → Res Flow) : Res Flow :=
  let a := sa.toNat
  match if a < 2 ^ 41 then sysRegOf (a % 2 ^ 32) else none with
  | none => .trap (TrapI.mk3 5 0 sa) s
  | some r =>
    if bitsN a 40 32 ≠ 0 then
      (farAccess s s.cur.far (fun s l => s.updCur (fun c => { c with far := l }))
        { Pkt.make .ctrl 0 s.who a s.bedt with dpkg := bitsN a 40 32, len := 8, data := data, cnt := b2n wr } wr).andThen got
    else if s.sockOut (bitsN a 31 26) then .trap (TrapI.mk3 35 1 sa) s
    else here r

/-- A register access from another package, performed at its home (R308). -/
def State.sysServe (s : State) (p : Pkt) : State :=
  match sysRegOf (p.addr % 2 ^ 32) with
  | none => s.refuse p 5 false
  | some r =>
    if s.sockOut (bitsN p.addr 31 26) then s.refuse p 1 false
    else if p.cnt = 0 then s.answer { p with typ := .rdr, data := leBytes 8 (s.sysRead r).toNat }
    else (s.sysWrite false r (BitVec.ofNat 64 (leAt p.data 0 8))).answer { p with typ := .wack }

/-- PKT_CTRL (Table 12.3): the arrival of a tile at a barrier; from another package a register access, an inner operator, or the status of
one. -/
def execPktCtrl (rid : Nat) (s : State) : Out :=
  s.serve rid .ctrl (fun p =>
    if p.spkg = 0 then s.barArrival p
    else if p.cnt = 2 then s.serveInner p
    else if p.cnt = 3 then s.noteStatus p
    else s.sysServe p)

/-- SRD (R308). -/
def execSrd (d a : Reg) (s : State) : Out :=
  s.atMOnly (fun s => s.sysAccess (s.g a) false [] (fun r => .ok .seq (s.setG d (s.sysRead r)))
    (fun bs s => .ok .seq (s.setG d (BitVec.ofNat 64 (ofBytes bs)))))

/-- SWR (R308). -/
def execSwr (d a : Reg) (s : State) : Out :=
  s.atMOnly (fun s => s.sysAccess (s.g a) true (leBytes 8 (s.g d).toNat) (fun r => .ok .seq (s.sysWrite false r (s.g d)))
    (fun _ s => .ok .seq s))

/-! ### The host's view (R472, R473) -/

/-- The "Host" column of Table 14.2: neither, read only, read and write. -/
inductive HostAcc where
  | none | ro | rw
  deriving DecidableEq, Repr

/-- The host's access to a register. -/
def SysReg.host (r : SysReg) : HostAcc :=
  match r with
  | .lq _ _ => .rw
  | .errcfg => .rw
  | .errbase => .rw
  | .errptr => .rw
  | .duty => .rw
  | .h2d _ => .rw
  | .d2h _ => .rw
  | .mbctl => .rw
  | .rs _ _ => .rw
  | .prectl => .none
  | .fwctl => .none
  | .fwimg => .none
  | .hova => .none
  | .objcmd _ => .none
  | .objstat _ => .none
  | _ => .ro

/-- The register belongs to the mailbox, which alone the host reaches in RECOVERY (R464). -/
def SysReg.mailbox (r : SysReg) : Bool :=
  match r with
  | .h2d _ => true
  | .d2h _ => true
  | .mbctl => true
  | _ => false

/-- The host reaches a register now: nothing before PCIe is enabled, the mailbox alone in RECOVERY (R464). -/
def State.hostOpen (s : State) (r : SysReg) : Bool := decide (s.fw.boot = 1) || (decide (s.fw.boot = 2) && r.mailbox)

/-- The system-register address of this package at a BAR0 offset (R472): the Headstock's offsets, then the Tailstocks'. -/
def bar0Reg (off : Nat) : Option SysReg :=
  if off < 0x1F0000 then sysRegOf off
  else if off < 0x200000 then none
  else if off < 0x300000 then sysRegOf (33 * 2 ^ 26 + (off - 0x200000))
  else if off < 0x400000 then sysRegOf (34 * 2 ^ 26 + (off - 0x300000))
  else none

/-- The word of the MSI-X table at a BAR0 offset (R472, log entry 107): 66 vectors of 16 bytes. -/
def msixWord (off : Nat) : Option Nat :=
  if 0x1F0000 ≤ off ∧ off < 0x1F0000 + 16 * 66 then some ((off - 0x1F0000) / 8) else none

/-- What the host reads at a BAR0 offset: registers that Table 14.2 shows it, the MSI-X table; zero elsewhere, as in the PBA, since a
vector raised is sent at once. -/
def State.bar0Read (s : State) (off : Nat) : Word :=
  match bar0Reg off with
  | some r => if s.hostOpen r && r.host ≠ .none then s.sysRead r else 0
  | none => match msixWord off with
    | some w => if s.fw.boot = 1 then AMap.getD s.mbox.msixTab w 0 else 0
    | none => 0

/-- A host write at a BAR0 offset; ignored where the map does not say RW. -/
def State.bar0Write (s : State) (off : Nat) (v : Word) : State :=
  match bar0Reg off with
  | some r => if s.hostOpen r && r.host = .rw then s.sysWrite true r v else s
  | none => match msixWord off with
    | some w => if s.fw.boot = 1 then { s with mbox := { s.mbox with msixTab := AMap.put s.mbox.msixTab w v } } else s
    | none => s

/-- An access through BAR0 (R472): only naturally aligned 8-byte accesses; any other completes with Completer Abort (1). A read's
completion holds 0 and the word. -/
def State.bar0 (s : State) (write : Bool) (off len : Nat) (v : Word) : State :=
  if s.fw.boot = 0 then s
  else if len ≠ 8 ∨ off % 8 ≠ 0 ∨ 2 ^ 22 ≤ off then s.reply [1]
  else if write then s.bar0Write off v
  else s.reply (0 :: leBytes 8 (s.bar0Read off).toNat)

/-- An SRD or SWR of the management port (R473), in RECOVERY too: entries that Table 14.2 marks RO or RW for the host; the answer begins
with 0, or with 1 for any other address (log entry 107). -/
def State.portAccess (s : State) (write : Bool) (sa : Nat) (v : Word) : State :=
  if s.fw.boot = 0 then s
  else match sysRegOf sa with
    | none => s.reply [1]
    | some r =>
      if r.host = .none then s.reply [1]
      else if write then (if r.host = .rw then s.sysWrite true r v else s).reply [0]
      else s.reply (0 :: leBytes 8 (s.sysRead r).toNat)

/-- SYSREG_WRITE (R308, R472, R473): an access of the host through one of its ports. -/
def execSysregWrite (a : SysAccess) (v : Word) (s : State) : Out :=
  match a.port with
  | .bar0 => .next (s.bar0 a.write a.addr.toNat a.len.toNat v)
  | .mctp => .next (s.portAccess a.write a.addr.toNat v)

end Sys2Proof.Machine
end

