-- ==== Sys2Proof/Machine/Vector.lean ====
section
/-! DEFINITION. The vector instructions (spec/07_vector_instructions.md): the issue of each into XQ (R24 to R26). What the command does when XQ runs
it is `vecRun`. -/

namespace Sys2Proof.Machine

/-- VADD (R249). -/
def execVadd (e : Eng) (s : State) : Out := issue (.vadd e) e .x s

/-- VSUB (R249). -/
def execVsub (e : Eng) (s : State) : Out := issue (.vsub e) e .x s

/-- VMUL (R249). -/
def execVmul (e : Eng) (s : State) : Out := issue (.vmul e) e .x s

/-- VMULH (R249). -/
def execVmulh (e : Eng) (s : State) : Out := issue (.vmulh e) e .x s

/-- VMULHU (R249). -/
def execVmulhu (e : Eng) (s : State) : Out := issue (.vmulhu e) e .x s

/-- VMIN (R249). -/
def execVmin (e : Eng) (s : State) : Out := issue (.vmin e) e .x s

/-- VMAX (R249). -/
def execVmax (e : Eng) (s : State) : Out := issue (.vmax e) e .x s

/-- VMINU (R249). -/
def execVminu (e : Eng) (s : State) : Out := issue (.vminu e) e .x s

/-- VMAXU (R249). -/
def execVmaxu (e : Eng) (s : State) : Out := issue (.vmaxu e) e .x s

/-- VABS (R249). -/
def execVabs (e : Eng) (s : State) : Out := issue (.vabs e) e .x s

/-- VNEG (R249). -/
def execVneg (e : Eng) (s : State) : Out := issue (.vneg e) e .x s

/-- VSADD (R249). -/
def execVsadd (e : Eng) (s : State) : Out := issue (.vsadd e) e .x s

/-- VSSUB (R249). -/
def execVssub (e : Eng) (s : State) : Out := issue (.vssub e) e .x s

/-- VAND (R249). -/
def execVand (e : Eng) (s : State) : Out := issue (.vand e) e .x s

/-- VOR (R249). -/
def execVor (e : Eng) (s : State) : Out := issue (.vor e) e .x s

/-- VXOR (R249). -/
def execVxor (e : Eng) (s : State) : Out := issue (.vxor e) e .x s

/-- VNOT (R250). -/
def execVnot (e : Eng) (s : State) : Out := issue (.vnot e) e .x s

/-- VSHL (R250). -/
def execVshl (e : Eng) (s : State) : Out := issue (.vshl e) e .x s

/-- VSHR (R250). -/
def execVshr (e : Eng) (s : State) : Out := issue (.vshr e) e .x s

/-- VSAR (R250). -/
def execVsar (e : Eng) (s : State) : Out := issue (.vsar e) e .x s

/-- VPOPC (R250). -/
def execVpopc (e : Eng) (s : State) : Out := issue (.vpopc e) e .x s

/-- VCLZ (R250). -/
def execVclz (e : Eng) (s : State) : Out := issue (.vclz e) e .x s

/-- VBREV (R250). -/
def execVbrev (e : Eng) (s : State) : Out := issue (.vbrev e) e .x s

/-- VCLMULL (R251). -/
def execVclmull (e : Eng) (s : State) : Out := issue (.vclmull e) e .x s

/-- VCLMULH (R251). -/
def execVclmulh (e : Eng) (s : State) : Out := issue (.vclmulh e) e .x s

/-- VBCAST (R252). -/
def execVbcast (e : Eng) (s : State) : Out := issue (.vbcast e) e .x s

/-- VRET (R252). -/
def execVret (e : Eng) (s : State) : Out := issue (.vret e) e .x s

/-- VFADD (R253). -/
def execVfadd (e : Eng) (s : State) : Out := issue (.vfadd e) e .x s

/-- VFSUB (R253). -/
def execVfsub (e : Eng) (s : State) : Out := issue (.vfsub e) e .x s

/-- VFMUL (R253). -/
def execVfmul (e : Eng) (s : State) : Out := issue (.vfmul e) e .x s

/-- VFMA (R253). -/
def execVfma (e : Eng) (s : State) : Out := issue (.vfma e) e .x s

/-- VFDIV (R253). -/
def execVfdiv (e : Eng) (s : State) : Out := issue (.vfdiv e) e .x s

/-- VFSQRT (R253). -/
def execVfsqrt (e : Eng) (s : State) : Out := issue (.vfsqrt e) e .x s

/-- VFMIN (R253). -/
def execVfmin (e : Eng) (s : State) : Out := issue (.vfmin e) e .x s

/-- VFMAX (R253). -/
def execVfmax (e : Eng) (s : State) : Out := issue (.vfmax e) e .x s

/-- VFABS (R253). -/
def execVfabs (e : Eng) (s : State) : Out := issue (.vfabs e) e .x s

/-- VFNEG (R253). -/
def execVfneg (e : Eng) (s : State) : Out := issue (.vfneg e) e .x s

/-- VCMPEQ (R254). -/
def execVcmpeq (e : Eng) (s : State) : Out := issue (.vcmpeq e) e .x s

/-- VCMPLT (R254). -/
def execVcmplt (e : Eng) (s : State) : Out := issue (.vcmplt e) e .x s

/-- VCMPLTU (R254). -/
def execVcmpltu (e : Eng) (s : State) : Out := issue (.vcmpltu e) e .x s

/-- VFCMPEQ (R254). -/
def execVfcmpeq (e : Eng) (s : State) : Out := issue (.vfcmpeq e) e .x s

/-- VFCMPLT (R254). -/
def execVfcmplt (e : Eng) (s : State) : Out := issue (.vfcmplt e) e .x s

/-- VSEL (R255). -/
def execVsel (e : Eng) (s : State) : Out := issue (.vsel e) e .x s

/-- VMASK (R256). -/
def execVmask (e : Eng) (s : State) : Out := issue (.vmask e) e .x s

/-- VREDADD (R257). -/
def execVredadd (e : Eng) (s : State) : Out := issue (.vredadd e) e .x s

/-- VREDMIN (R257). -/
def execVredmin (e : Eng) (s : State) : Out := issue (.vredmin e) e .x s

/-- VREDMAX (R257). -/
def execVredmax (e : Eng) (s : State) : Out := issue (.vredmax e) e .x s

/-- VFREDADD (R258). -/
def execVfredadd (e : Eng) (s : State) : Out := issue (.vfredadd e) e .x s

/-- VPERM (R259). -/
def execVperm (e : Eng) (s : State) : Out := issue (.vperm e) e .x s

/-- VSLIDE (R259). -/
def execVslide (e : Eng) (s : State) : Out := issue (.vslide e) e .x s

/-- VLD (R260). -/
def execVld (e : Eng) (s : State) : Out := issue (.vld e) e .x s

/-- VST (R260). -/
def execVst (e : Eng) (s : State) : Out := issue (.vst e) e .x s

/-- VGAT (R260). -/
def execVgat (e : Eng) (s : State) : Out := issue (.vgat e) e .x s

/-- VSCT (R260). -/
def execVsct (e : Eng) (s : State) : Out := issue (.vsct e) e .x s

/-- VQNT (R264). -/
def execVqnt (e : Eng) (s : State) : Out := issue (.vqnt e) e .x s

/-- VDQ (R265). -/
def execVdq (e : Eng) (s : State) : Out := issue (.vdq e) e .x s

/-- VCVT (R263). -/
def execVcvt (e : Eng) (s : State) : Out := issue (.vcvt e) e .x s

/-- VRANGE (R266). -/
def execVrange (e : Eng) (s : State) : Out := issue (.vrange e) e .x s

/-- VMSE (R267). -/
def execVmse (e : Eng) (s : State) : Out := issue (.vmse e) e .x s

/-- VDEFER (R269). -/
def execVdefer (e : Eng) (s : State) : Out := issue (.vdefer e) e .x s

/-- VDRAINQ (R270). -/
def execVdrainq (e : Eng) (s : State) : Out := issue (.vdrainq e) e .x s

end Sys2Proof.Machine
end

