-- ==== Sys2Proof/Machine/Dispatch.lean ====
section
/-! DEFINITION. One arm per row of the opcode table. -/

namespace Sys2Proof.Machine

def exec (i : Instr) (s : State) : Host.Outcome State Fault Refusal :=
  match i with
  | .add d a b => Sys2Proof.Machine.execAdd d a b s
  | .sub d a b => Sys2Proof.Machine.execSub d a b s
  | .mul d a b => Sys2Proof.Machine.execMul d a b s
  | .mulh d a b => Sys2Proof.Machine.execMulh d a b s
  | .mulhu d a b => Sys2Proof.Machine.execMulhu d a b s
  | .div d a b => Sys2Proof.Machine.execDiv d a b s
  | .divu d a b => Sys2Proof.Machine.execDivu d a b s
  | .rem d a b => Sys2Proof.Machine.execRem d a b s
  | .remu d a b => Sys2Proof.Machine.execRemu d a b s
  | .and d a b => Sys2Proof.Machine.execAnd d a b s
  | .or d a b => Sys2Proof.Machine.execOr d a b s
  | .xor d a b => Sys2Proof.Machine.execXor d a b s
  | .shl d a b => Sys2Proof.Machine.execShl d a b s
  | .shr d a b => Sys2Proof.Machine.execShr d a b s
  | .sar d a b => Sys2Proof.Machine.execSar d a b s
  | .min d a b => Sys2Proof.Machine.execMin d a b s
  | .max d a b => Sys2Proof.Machine.execMax d a b s
  | .minu d a b => Sys2Proof.Machine.execMinu d a b s
  | .maxu d a b => Sys2Proof.Machine.execMaxu d a b s
  | .lea d a b sh => Sys2Proof.Machine.execLea d a b sh s
  | .clz d a => Sys2Proof.Machine.execClz d a s
  | .ctz d a => Sys2Proof.Machine.execCtz d a s
  | .popc d a => Sys2Proof.Machine.execPopc d a s
  | .bswap d a => Sys2Proof.Machine.execBswap d a s
  | .sextB d a => Sys2Proof.Machine.execSextB d a s
  | .sextH d a => Sys2Proof.Machine.execSextH d a s
  | .sextW d a => Sys2Proof.Machine.execSextW d a s
  | .zextB d a => Sys2Proof.Machine.execZextB d a s
  | .zextH d a => Sys2Proof.Machine.execZextH d a s
  | .zextW d a => Sys2Proof.Machine.execZextW d a s
  | .addi d a imm => Sys2Proof.Machine.execAddi d a imm s
  | .andi d a imm => Sys2Proof.Machine.execAndi d a imm s
  | .ori d a imm => Sys2Proof.Machine.execOri d a imm s
  | .xori d a imm => Sys2Proof.Machine.execXori d a imm s
  | .shli d a sh => Sys2Proof.Machine.execShli d a sh s
  | .shri d a sh => Sys2Proof.Machine.execShri d a sh s
  | .sari d a sh => Sys2Proof.Machine.execSari d a sh s
  | .movi d imm => Sys2Proof.Machine.execMovi d imm s
  | .movw d hi imm => Sys2Proof.Machine.execMovw d hi imm s
  | .cmpeq pd a b => Sys2Proof.Machine.execCmpeq pd a b s
  | .cmpne pd a b => Sys2Proof.Machine.execCmpne pd a b s
  | .cmplt pd a b => Sys2Proof.Machine.execCmplt pd a b s
  | .cmpltu pd a b => Sys2Proof.Machine.execCmpltu pd a b s
  | .cmpge pd a b => Sys2Proof.Machine.execCmpge pd a b s
  | .cmpgeu pd a b => Sys2Proof.Machine.execCmpgeu pd a b s
  | .cmpeqi pd a imm => Sys2Proof.Machine.execCmpeqi pd a imm s
  | .cmpnei pd a imm => Sys2Proof.Machine.execCmpnei pd a imm s
  | .cmplti pd a imm => Sys2Proof.Machine.execCmplti pd a imm s
  | .cmpltui pd a imm => Sys2Proof.Machine.execCmpltui pd a imm s
  | .cmpgei pd a imm => Sys2Proof.Machine.execCmpgei pd a imm s
  | .cmpgeui pd a imm => Sys2Proof.Machine.execCmpgeui pd a imm s
  | .pand pd pa pb => Sys2Proof.Machine.execPand pd pa pb s
  | .por pd pa pb => Sys2Proof.Machine.execPor pd pa pb s
  | .pxor pd pa pb => Sys2Proof.Machine.execPxor pd pa pb s
  | .pnot pd pa => Sys2Proof.Machine.execPnot pd pa s
  | .sel d a b ps => Sys2Proof.Machine.execSel d a b ps s
  | .bp ps ld slot => Sys2Proof.Machine.execBp ps ld slot s
  | .br ld slot => Sys2Proof.Machine.execBr ld slot s
  | .bnp ps ld slot => Sys2Proof.Machine.execBnp ps ld slot s
  | .call ld slot => Sys2Proof.Machine.execCall ld slot s
  | .ji a => Sys2Proof.Machine.execJi a s
  | .calli a => Sys2Proof.Machine.execCalli a s
  | .ret => Sys2Proof.Machine.execRet s
  | .loop set a le => Sys2Proof.Machine.execLoop set a le s
  | .loopi set cnt le => Sys2Proof.Machine.execLoopi set cnt le s
  | .mfs g srn => Sys2Proof.Machine.execMfs g srn s
  | .mts g srn => Sys2Proof.Machine.execMts g srn s
  | .mtsTcfg g => Sys2Proof.Machine.execMtsTcfg g s
  | .mtsQueueNumber g comp q => Sys2Proof.Machine.execMtsQueueNumber g comp q s
  | .mtsQueueLink g tail q => Sys2Proof.Machine.execMtsQueueLink g tail q s
  | .mtsTokc g => Sys2Proof.Machine.execMtsTokc g s
  | .mtsZwm g z => Sys2Proof.Machine.execMtsZwm g z s
  | .mtsDqn g => Sys2Proof.Machine.execMtsDqn g s
  | .mtsSeqw g => Sys2Proof.Machine.execMtsSeqw g s
  | .mtsSeed g => Sys2Proof.Machine.execMtsSeed g s
  | .mtsLoopRegister g set which => Sys2Proof.Machine.execMtsLoopRegister g set which s
  | .mtsEbase g => Sys2Proof.Machine.execMtsEbase g s
  | .injArm g => Sys2Proof.Machine.execInjArm g s
  | .ld d a sz off => Sys2Proof.Machine.execLd d a sz off s
  | .lds d a sz off => Sys2Proof.Machine.execLds d a sz off s
  | .st d a sz off => Sys2Proof.Machine.execSt d a sz off s
  | .lda d a sz off => Sys2Proof.Machine.execLda d a sz off s
  | .stl d a sz off => Sys2Proof.Machine.execStl d a sz off s
  | .pfl a sz off => Sys2Proof.Machine.execPfl a sz off s
  | .aadd d a b => Sys2Proof.Machine.execAadd d a b s
  | .amin d a b => Sys2Proof.Machine.execAmin d a b s
  | .amax d a b => Sys2Proof.Machine.execAmax d a b s
  | .aminu d a b => Sys2Proof.Machine.execAminu d a b s
  | .amaxu d a b => Sys2Proof.Machine.execAmaxu d a b s
  | .axchg d a b => Sys2Proof.Machine.execAxchg d a b s
  | .acas d a b => Sys2Proof.Machine.execAcas d a b s
  | .aand d a b => Sys2Proof.Machine.execAand d a b s
  | .aor d a b => Sys2Proof.Machine.execAor d a b s
  | .axor d a b => Sys2Proof.Machine.execAxor d a b s
  | .tokw d n fifo pop => Sys2Proof.Machine.execTokw d n fifo pop s
  | .tagwa d a => Sys2Proof.Machine.execTagwa d a s
  | .tagwl d a => Sys2Proof.Machine.execTagwl d a s
  | .tagff d a clr => Sys2Proof.Machine.execTagff d a clr s
  | .tagclr a => Sys2Proof.Machine.execTagclr a s
  | .bara n scope => Sys2Proof.Machine.execBara n scope s
  | .barw d n => Sys2Proof.Machine.execBarw d n s
  | .baraw d n scope => Sys2Proof.Machine.execBaraw d n scope s
  | .barset a n => Sys2Proof.Machine.execBarset a n s
  | .fence => Sys2Proof.Machine.execFence s
  | .bclose => Sys2Proof.Machine.execBclose s
  | .waitb d n => Sys2Proof.Machine.execWaitb d n s
  | .qdrain mask => Sys2Proof.Machine.execQdrain mask s
  | .qseq d a q => Sys2Proof.Machine.execQseq d a q s
  | .xretw d => Sys2Proof.Machine.execXretw d s
  | .fencep frm tom scope => Sys2Proof.Machine.execFencep frm tom scope s
  | .spawn a b => Sys2Proof.Machine.execSpawn a b s
  | .spawnj d a b => Sys2Proof.Machine.execSpawnj d a b s
  | .join d a => Sys2Proof.Machine.execJoin d a s
  | .halt => Sys2Proof.Machine.execHalt s
  | .yield => Sys2Proof.Machine.execYield s
  | .launch d a b => Sys2Proof.Machine.execLaunch d a b s
  | .qpush a b => Sys2Proof.Machine.execQpush a b s
  | .qpop d pd a => Sys2Proof.Machine.execQpop d pd a s
  | .trap code => Sys2Proof.Machine.execTrap code s
  | .eret => Sys2Proof.Machine.execEret s
  | .bkpt code => Sys2Proof.Machine.execBkpt code s
  | .synci => Sys2Proof.Machine.execSynci s
  | .tlbinv a kind scope => Sys2Proof.Machine.execTlbinv a kind scope s
  | .l1wb => Sys2Proof.Machine.execL1wb s
  | .l1inv a all => Sys2Proof.Machine.execL1inv a all s
  | .pmark code => Sys2Proof.Machine.execPmark code s
  | .srd d a => Sys2Proof.Machine.execSrd d a s
  | .swr d a => Sys2Proof.Machine.execSwr d a s
  | .wfe d mask => Sys2Proof.Machine.execWfe d mask s
  | .nop => Sys2Proof.Machine.execNop s
  | .scp scope => Sys2Proof.Machine.execScp scope s
  | .imx x => Sys2Proof.Machine.execImx x s
  | .tokp e => Sys2Proof.Machine.execTokp e s
  | .xcall e => Sys2Proof.Machine.execXcall e s
  | .mshape e => Sys2Proof.Machine.execMshape e s
  | .manch e => Sys2Proof.Machine.execManch e s
  | .mzp e => Sys2Proof.Machine.execMzp e s
  | .mpriv e => Sys2Proof.Machine.execMpriv e s
  | .mcode e => Sys2Proof.Machine.execMcode e s
  | .mcsum e => Sys2Proof.Machine.execMcsum e s
  | .mlda e => Sys2Proof.Machine.execMlda e s
  | .mldb e => Sys2Proof.Machine.execMldb e s
  | .mma e => Sys2Proof.Machine.execMma e s
  | .mmas e => Sys2Proof.Machine.execMmas e s
  | .mmaq e => Sys2Proof.Machine.execMmaq e s
  | .mmap e => Sys2Proof.Machine.execMmap e s
  | .mchk e => Sys2Proof.Machine.execMchk e s
  | .mdrain e => Sys2Proof.Machine.execMdrain e s
  | .mdrainx e => Sys2Proof.Machine.execMdrainx e s
  | .mzero e => Sys2Proof.Machine.execMzero e s
  | .mwm e => Sys2Proof.Machine.execMwm e s
  | .mcap e => Sys2Proof.Machine.execMcap e s
  | .mstat e => Sys2Proof.Machine.execMstat e s
  | .smv e => Sys2Proof.Machine.execSmv e s
  | .smvUnitDone tile ticket => Sys2Proof.Machine.execSmvUnitDone tile ticket s
  | .smvw e => Sys2Proof.Machine.execSmvw e s
  | .vadd e => Sys2Proof.Machine.execVadd e s
  | .vsub e => Sys2Proof.Machine.execVsub e s
  | .vmul e => Sys2Proof.Machine.execVmul e s
  | .vmulh e => Sys2Proof.Machine.execVmulh e s
  | .vmulhu e => Sys2Proof.Machine.execVmulhu e s
  | .vmin e => Sys2Proof.Machine.execVmin e s
  | .vmax e => Sys2Proof.Machine.execVmax e s
  | .vminu e => Sys2Proof.Machine.execVminu e s
  | .vmaxu e => Sys2Proof.Machine.execVmaxu e s
  | .vabs e => Sys2Proof.Machine.execVabs e s
  | .vneg e => Sys2Proof.Machine.execVneg e s
  | .vsadd e => Sys2Proof.Machine.execVsadd e s
  | .vssub e => Sys2Proof.Machine.execVssub e s
  | .vand e => Sys2Proof.Machine.execVand e s
  | .vor e => Sys2Proof.Machine.execVor e s
  | .vxor e => Sys2Proof.Machine.execVxor e s
  | .vnot e => Sys2Proof.Machine.execVnot e s
  | .vshl e => Sys2Proof.Machine.execVshl e s
  | .vshr e => Sys2Proof.Machine.execVshr e s
  | .vsar e => Sys2Proof.Machine.execVsar e s
  | .vpopc e => Sys2Proof.Machine.execVpopc e s
  | .vclz e => Sys2Proof.Machine.execVclz e s
  | .vbrev e => Sys2Proof.Machine.execVbrev e s
  | .vclmull e => Sys2Proof.Machine.execVclmull e s
  | .vclmulh e => Sys2Proof.Machine.execVclmulh e s
  | .vbcast e => Sys2Proof.Machine.execVbcast e s
  | .vret e => Sys2Proof.Machine.execVret e s
  | .vfadd e => Sys2Proof.Machine.execVfadd e s
  | .vfsub e => Sys2Proof.Machine.execVfsub e s
  | .vfmul e => Sys2Proof.Machine.execVfmul e s
  | .vfma e => Sys2Proof.Machine.execVfma e s
  | .vfdiv e => Sys2Proof.Machine.execVfdiv e s
  | .vfsqrt e => Sys2Proof.Machine.execVfsqrt e s
  | .vfmin e => Sys2Proof.Machine.execVfmin e s
  | .vfmax e => Sys2Proof.Machine.execVfmax e s
  | .vfabs e => Sys2Proof.Machine.execVfabs e s
  | .vfneg e => Sys2Proof.Machine.execVfneg e s
  | .vcmpeq e => Sys2Proof.Machine.execVcmpeq e s
  | .vcmplt e => Sys2Proof.Machine.execVcmplt e s
  | .vcmpltu e => Sys2Proof.Machine.execVcmpltu e s
  | .vfcmpeq e => Sys2Proof.Machine.execVfcmpeq e s
  | .vfcmplt e => Sys2Proof.Machine.execVfcmplt e s
  | .vsel e => Sys2Proof.Machine.execVsel e s
  | .vmask e => Sys2Proof.Machine.execVmask e s
  | .vredadd e => Sys2Proof.Machine.execVredadd e s
  | .vredmin e => Sys2Proof.Machine.execVredmin e s
  | .vredmax e => Sys2Proof.Machine.execVredmax e s
  | .vfredadd e => Sys2Proof.Machine.execVfredadd e s
  | .vperm e => Sys2Proof.Machine.execVperm e s
  | .vslide e => Sys2Proof.Machine.execVslide e s
  | .vld e => Sys2Proof.Machine.execVld e s
  | .vst e => Sys2Proof.Machine.execVst e s
  | .vgat e => Sys2Proof.Machine.execVgat e s
  | .vsct e => Sys2Proof.Machine.execVsct e s
  | .vqnt e => Sys2Proof.Machine.execVqnt e s
  | .vdq e => Sys2Proof.Machine.execVdq e s
  | .vcvt e => Sys2Proof.Machine.execVcvt e s
  | .vrange e => Sys2Proof.Machine.execVrange e s
  | .vmse e => Sys2Proof.Machine.execVmse e s
  | .vdefer e => Sys2Proof.Machine.execVdefer e s
  | .vdrainq e => Sys2Proof.Machine.execVdrainq e s
  | .cld e => Sys2Proof.Machine.execCld e s
  | .clde e => Sys2Proof.Machine.execClde e s
  | .cgat e => Sys2Proof.Machine.execCgat e s
  | .cpf e => Sys2Proof.Machine.execCpf e s
  | .fget e => Sys2Proof.Machine.execFget e s
  | .cst e => Sys2Proof.Machine.execCst e s
  | .cstd e => Sys2Proof.Machine.execCstd e s
  | .csct e => Sys2Proof.Machine.execCsct e s
  | .cfill e => Sys2Proof.Machine.execCfill e s
  | .fput e => Sys2Proof.Machine.execFput e s
  | .fputOf e => Sys2Proof.Machine.execFputOf e s
  | .cbat e => Sys2Proof.Machine.execCbat e s
  | .fackw e => Sys2Proof.Machine.execFackw e s
  | .cred e => Sys2Proof.Machine.execCred e s
  | .credPartnerArrival tile => Sys2Proof.Machine.execCredPartnerArrival tile s
  | .copyCompletion tile q isn => Sys2Proof.Machine.execCopyCompletion tile q isn s
  | .copyFreeze tile q isn => Sys2Proof.Machine.execCopyFreeze tile q isn s
  | .engineFaultTrap tile => Sys2Proof.Machine.execEngineFaultTrap tile s
  | .tokenDeadlock tile => Sys2Proof.Machine.execTokenDeadlock tile s
  | .queueGrowth tile => Sys2Proof.Machine.execQueueGrowth tile s
  | .tick => Sys2Proof.Machine.execTick s
  | .tailWrite host queue tail => Sys2Proof.Machine.execTailWrite host queue tail s
  | .crheadWrite queue head => Sys2Proof.Machine.execCrheadWrite queue head s
  | .lqcfgWrite host queue v => Sys2Proof.Machine.execLqcfgWrite host queue v s
  | .launchPacketRead queue => Sys2Proof.Machine.execLaunchPacketRead queue s
  | .launchClaim launch => Sys2Proof.Machine.execLaunchClaim launch s
  | .tileChooseRecord tile => Sys2Proof.Machine.execTileChooseRecord tile s
  | .poolAgeing launch region pri => Sys2Proof.Machine.execPoolAgeing launch region pri s
  | .rtimeBudget launch region => Sys2Proof.Machine.execRtimeBudget launch region s
  | .haltTreeFire launch => Sys2Proof.Machine.execHaltTreeFire launch s
  | .launchDrainDone launch => Sys2Proof.Machine.execLaunchDrainDone launch s
  | .codedTaskArrival opr task => Sys2Proof.Machine.execCodedTaskArrival opr task s
  | .codedTaskErasure opr task => Sys2Proof.Machine.execCodedTaskErasure opr task s
  | .rampSlot => Sys2Proof.Machine.execRampSlot s
  | .govcfgWrite v => Sys2Proof.Machine.execGovcfgWrite v s
  | .pktRd rid => Sys2Proof.Machine.execPktRd rid s
  | .pktWr rid => Sys2Proof.Machine.execPktWr rid s
  | .pktAddw rid => Sys2Proof.Machine.execPktAddw rid s
  | .pktAtm rid => Sys2Proof.Machine.execPktAtm rid s
  | .pktPut rid => Sys2Proof.Machine.execPktPut rid s
  | .pktFlag rid => Sys2Proof.Machine.execPktFlag rid s
  | .pktQpushHome rid => Sys2Proof.Machine.execPktQpushHome rid s
  | .pktQpopHome rid => Sys2Proof.Machine.execPktQpopHome rid s
  | .pktCtrl rid => Sys2Proof.Machine.execPktCtrl rid s
  | .pktReservedType rid => Sys2Proof.Machine.execPktReservedType rid s
  | .routerPairing router push pop => Sys2Proof.Machine.execRouterPairing router push pop s
  | .dwellExpire rid => Sys2Proof.Machine.execDwellExpire rid s
  | .pktRdrAnswer rid => Sys2Proof.Machine.execPktRdrAnswer rid s
  | .pktWackAnswer rid => Sys2Proof.Machine.execPktWackAnswer rid s
  | .pktAtmrAnswer rid => Sys2Proof.Machine.execPktAtmrAnswer rid s
  | .pktQrspAnswer rid => Sys2Proof.Machine.execPktQrspAnswer rid s
  | .pktErrAnswer rid => Sys2Proof.Machine.execPktErrAnswer rid s
  | .pktHnakAnswer rid => Sys2Proof.Machine.execPktHnakAnswer rid s
  | .hnakResend rid => Sys2Proof.Machine.execHnakResend rid s
  | .remoteTimeout rid => Sys2Proof.Machine.execRemoteTimeout rid s
  | .bedLinkRetry router port ok => Sys2Proof.Machine.execBedLinkRetry router port ok s
  | .kwaupFlitReceive port flit => Sys2Proof.Machine.execKwaupFlitReceive port flit s
  | .kwaupLnak port fseq => Sys2Proof.Machine.execKwaupLnak port fseq s
  | .hbeatSend port => Sys2Proof.Machine.execHbeatSend port s
  | .peerDead port => Sys2Proof.Machine.execPeerDead port s
  | .deathNotice port dead reporter atPort time => Sys2Proof.Machine.execDeathNotice port dead reporter atPort time s
  | .deadmapClear m v => Sys2Proof.Machine.execDeadmapClear m v s
  | .rsGo eng => Sys2Proof.Machine.execRsGo eng s
  | .rsResume eng => Sys2Proof.Machine.execRsResume eng s
  | .rsHostPlan eng => Sys2Proof.Machine.execRsHostPlan eng s
  | .rsPause eng => Sys2Proof.Machine.execRsPause eng s
  | .rsAbort eng => Sys2Proof.Machine.execRsAbort eng s
  | .rsChunkDone eng => Sys2Proof.Machine.execRsChunkDone eng s
  | .prectlSoft queue seq => Sys2Proof.Machine.execPrectlSoft queue seq s
  | .prectlHard queue seq => Sys2Proof.Machine.execPrectlHard queue seq s
  | .prectlResume queue seq => Sys2Proof.Machine.execPrectlResume queue seq s
  | .testSliceEnd cluster pass => Sys2Proof.Machine.execTestSliceEnd cluster pass s
  | .scrubRead site => Sys2Proof.Machine.execScrubRead site s
  | .objcmdCreate home v => Sys2Proof.Machine.execObjcmdCreate home v s
  | .objcmdDelete home v => Sys2Proof.Machine.execObjcmdDelete home v s
  | .mbctlH2df msg => Sys2Proof.Machine.execMbctlH2df msg s
  | .mbctlD2hfClear => Sys2Proof.Machine.execMbctlD2hfClear s
  | .valAnswer tag code payload => Sys2Proof.Machine.execValAnswer tag code payload s
  | .fltAnswer tag code payload => Sys2Proof.Machine.execFltAnswer tag code payload s
  | .decAnswer tag code payload => Sys2Proof.Machine.execDecAnswer tag code payload s
  | .schedAnswer tag code payload => Sys2Proof.Machine.execSchedAnswer tag code payload s
  | .retireAnswer tag code payload => Sys2Proof.Machine.execRetireAnswer tag code payload s
  | .dutyWrite v => Sys2Proof.Machine.execDutyWrite v s
  | .errptrHeadWrite head => Sys2Proof.Machine.execErrptrHeadWrite head s
  | .sysregWrite sa v => Sys2Proof.Machine.execSysregWrite sa v s
  | .bar2Access write off len data => Sys2Proof.Machine.execBar2Access write off len data s
  | .packageReset => Sys2Proof.Machine.execPackageReset s
  | .fwctlGo v => Sys2Proof.Machine.execFwctlGo v s
  | .quiesceEnd => Sys2Proof.Machine.execQuiesceEnd s
  | .verifyDone => Sys2Proof.Machine.execVerifyDone s
  | .fwhbHeartbeat v => Sys2Proof.Machine.execFwhbHeartbeat v s
  | .heartbeatDeadline => Sys2Proof.Machine.execHeartbeatDeadline s
  | .spdmGetVersion => Sys2Proof.Machine.execSpdmGetVersion s
  | .spdmGetCapabilities => Sys2Proof.Machine.execSpdmGetCapabilities s
  | .spdmNegotiateAlgorithms => Sys2Proof.Machine.execSpdmNegotiateAlgorithms s
  | .spdmGetDigests => Sys2Proof.Machine.execSpdmGetDigests s
  | .spdmGetCertificate off len => Sys2Proof.Machine.execSpdmGetCertificate off len s
  | .spdmChallenge nonce => Sys2Proof.Machine.execSpdmChallenge nonce s
  | .spdmGetMeasurements index nonce => Sys2Proof.Machine.execSpdmGetMeasurements index nonce s
  | .spdmUnsupported code => Sys2Proof.Machine.execSpdmUnsupported code s
  | .mctpControl command data => Sys2Proof.Machine.execMctpControl command data s
  | .dbgStop r => Sys2Proof.Machine.execDbgStop r s
  | .dbgTimedStop tile => Sys2Proof.Machine.execDbgTimedStop tile s
  | .dbgRun r => Sys2Proof.Machine.execDbgRun r s
  | .dbgStep r => Sys2Proof.Machine.execDbgStep r s
  | .dbgArm r => Sys2Proof.Machine.execDbgArm r s
  | .dbgDump r => Sys2Proof.Machine.execDbgDump r s
  | .dbgTrace r => Sys2Proof.Machine.execDbgTrace r s
  | .dbgCnt r => Sys2Proof.Machine.execDbgCnt r s
  | .addressBreakpointStop tile => Sys2Proof.Machine.execAddressBreakpointStop tile s
  | .entryWatchStop tile q => Sys2Proof.Machine.execEntryWatchStop tile q s
  | .allStopPropagate tile => Sys2Proof.Machine.execAllStopPropagate tile s
  | .counterSweep unit => Sys2Proof.Machine.execCounterSweep unit s
  | .engineCommandCompletion tile q isn => Sys2Proof.Machine.execEngineCommandCompletion tile q isn s
  | .coreCycle die => Sys2Proof.Machine.execCoreCycle die s
  | .bedCycle => Sys2Proof.Machine.execBedCycle s
  | .storageBitError site correctable => Sys2Proof.Machine.execStorageBitError site correctable s
  | .doeDiscovery index => Sys2Proof.Machine.execDoeDiscovery index s

end Sys2Proof.Machine
end

