-- ==== Sys2Proof/Machine/Turn.lean ====
section
/-! DEFINITION. The turn of one agent: a control core fetches and executes one instruction; the round of moves that stand
open; and the loading of a program. -/

namespace Sys2Proof.Machine

/-! ### Turns -/

/-- A tile's control core has an instruction to execute: it runs a continuation or a trap handler, and neither the
debugger (R477) nor the governor (R459) holds it. -/
def Tile.runs (t : Tile) : Bool := (t.cont.isSome || t.tcc.intrap) && !t.dbg.stopped && !t.gated && t.bound.isSome

/-- A tile has an engine fault to take now (R429, R431): its control core is in no handler and no access that it has begun in another package waits for its answer (R168). -/
def Tile.takesFault (t : Tile) : Bool := !t.tcc.intrap && !t.faults.isEmpty && t.tcc.obj.isNone && t.tcc.far.isEmpty

/-- Executes what a fetch gives, in the way `go`. -/
def State.execFetched (s : State) (go : Instr → State → Out) : Out :=
  match s.fetch with
  | .ok i s' => go i s'
  | .trap t s' => .next (s'.raise t)
  | .wait s' => .next s'

/-- Commands of a tile that has just stopped settle (R271, R477). -/
def Out.settled (o : Out) (g : Nat) : Out :=
  match o with
  | .next s => .next (if (s.tile g).dbg.stopped then s.settleStop g else s)
  | .fault f => .fault f
  | .refused r => .refused r

/-- A trap that waited at trap entry for the end of a firmware update is taken (R467). -/
def State.takePending (s : State) (p : TrapI × CodeAddr × Word) : State :=
  (s.updCur (fun c => { c with pend := none })).enterTrap p.1 p.2.1 p.2.2 0 false 0 false

/-- A breakpoint that has caused a stop may fire again once its unit is executed (R476). -/
def Tile.passed (t : Tile) : Tile := if t.dbg.passAddr.isSome then { t with dbg := { t.dbg with passAddr := none } } else t

/-- The answer to a QPUSH or QPOP has come: its effect on registers is made though the tile is stopped (R478). -/
def Tcc.objAnswered (c : Tcc) : Bool :=
  match c.obj with
  | some o => o.ans.isSome
  | none => false

/-- The turn of a tile's control core. A trap that waits, then a pending engine fault, is taken first. -/
def State.tileTurn (s : State) (g : Nat) : Out :=
  let t := s.tile g
  if t.dbg.stopped && t.bound.isSome && t.tcc.objAnswered then s.execFetched exec
  else if t.dbg.stopped || t.bound.isNone || s.tccHeld g then .next s
  else match t.tcc.pend with
    | some p => .next (if s.fw.st ≠ 0 then s else s.takePending p)
    | none =>
      if t.takesFault then execEngineFaultTrap g s
      else if !t.runs then .next s
      else if t.addrHit then execAddressBreakpointStop g s
      else ((s.setTile g t.passed).execFetched (fun i s => s.parityTurn g i (exec i))).settled g

/-- One turn of an agent. -/
def State.turn (s : State) (a : Agent) : Out :=
  let s := { s with who := a }
  match a with
  | .tile g => if 256 ≤ g then .fault .noSuchAgent else s.tileTurn g
  | .core n => if 4 ≤ n then .fault .noSuchAgent else if s.cur.stopped || s.coreHeld s.cur then .next s else s.execFetched exec
  | .reshard _ => .next s
  | .headstock => .next s

/-- What a packet of the network does next: a request is served at its target, an answer taken in at its issuer. -/
def State.packetMove (s : State) (rid : Nat) : Out :=
  let s := s.routerRead rid
  match s.pkt? rid with
  | none => .next s
  | some p => match p.typ with
    | .rd => execPktRd rid s
    | .rdr => execPktRdrAnswer rid s
    | .wr => execPktWr rid s
    | .wack => execPktWackAnswer rid s
    | .addw => execPktAddw rid s
    | .atm => execPktAtm rid s
    | .atmr => execPktAtmrAnswer rid s
    | .put => execPktPut rid s
    | .flag => execPktFlag rid s
    | .qpush => execPktQpushHome rid s
    | .qpop => execPktQpopHome rid s
    | .qrsp => execPktQrspAnswer rid s
    | .err => execPktErrAnswer rid s
    | .hnak => execPktHnakAnswer rid s
    | .ctrl => execPktCtrl rid s
    | .reserved => execPktReservedType rid s

/-- The head command of a queue is a copy within a step, which hard pre-emption lets end (R440 step 3). -/
def State.headMidStep (s : State) (g : Nat) (q : Q) : Bool :=
  match ((s.tile g).queue q).headEnt with
  | some en => s.midStep g q en.isn
  | none => false

/-- One move. -/
def State.move (s : State) (m : Move) : Out :=
  match m with
  | .run a => s.turn a
  | .engine g q => if s.enginesHeld g && !s.headMidStep g q then .next s else s.engineTurn g q
  | .ahead g q isn =>
    if (s.tile g).dbg.stopped then s.stoppedMove g q isn
    else if s.enginesHeld g && !s.midStep g q isn then .next s
    else s.aheadMove g q isn
  | .boot => execPackageReset s
  | .smv g k => execSmvUnitDone g k s
  | .choose g => execTileChooseRecord g s
  | .grow g => execQueueGrowth g s
  | .deadlock g => execTokenDeadlock g s
  | .timedStop g => execDbgTimedStop g s
  | .allStop g => execAllStopPropagate g s
  | .packet rid => s.packetMove rid
  | .pair r a b => execRouterPairing r a b s
  | .dwell rid => execDwellExpire rid s
  | .resend rid => execHnakResend rid s
  | .timeout rid => execRemoteTimeout rid s
  | .claim k => execLaunchClaim k s
  | .age k r p => execPoolAgeing k r p s
  | .budget k r => execRtimeBudget k r s
  | .halt k => execHaltTreeFire k s
  | .drain k => execLaunchDrainDone k s
  | .save k => .next (s.saveMove k)
  | .arrival r t => execCodedTaskArrival r t s
  | .erasure r t => execCodedTaskErasure r t s
  | .readPacket n => execLaunchPacketRead n s
  | .message => (if s.fw.st = 0 && !s.mbox.dbgHeld.isEmpty then s.heldRequest else s.takeMessage).map State.dbgSettle
  | .quiesced => execQuiesceEnd s
  | .verified => execVerifyDone s
  | .deadline => execHeartbeatDeadline s
  | .reshard e => execRsChunkDone e s
  | .hbeat p => execHbeatSend p s
  | .peerDead p => execPeerDead p s
  | .sweep u => execCounterSweep u s
  | .slice c p => execTestSliceEnd c p s
  | .bedCycle => execBedCycle s
  | .tick => execTick s
  | .rampSlot => execRampSlot s
  | .coreCycle d => execCoreCycle d s

/-! ### The round (log entry 7) -/

/-- Tiles of the package that are bound to a launch. -/
def State.boundTiles (s : State) : List (Nat × Tile) := s.tiles.filter (fun e => decide (e.1 < 256) && e.2.bound.isSome)

/-- The control cores that have something to do: tiles in ascending order (R361), then management cores. -/
def State.runMoves (s : State) : List Move :=
  (sortBy (fun (a b : Nat) => decide (a ≤ b)) ((s.boundTiles.filter (fun e => e.2.runs || !e.2.faults.isEmpty ||
    (e.2.dbg.stopped && e.2.tcc.objAnswered))).map (fun e => e.1))).map (fun g => Move.run (.tile g)) ++
  ((List.range 4).filter (fun n => !(s.tccOf (.core n)).stopped)).map (fun n => Move.run (.core n))

/-- The engines with a command, the ticket units, and what the state of a tile asks for. -/
def tileMoves (e : Nat × Tile) : List Move :=
  let (g, t) := e
  ([Q.l, Q.x, Q.s].filter (fun q => t.qRuns q && (t.queue q).headEnt.isSome)).map (Move.engine g) ++
  ([Q.l, Q.x, Q.s].filter (fun q => t.qRuns q)).flatMap (fun q =>
    (((t.queue q).ents.filter (fun e => decide (e.st ≠ .done))).drop 1).map (fun e => Move.ahead g q e.isn)) ++
  ((List.finRange 4).filter (fun k => decide ((t.mxe.tickets[k]).st = 1))).map (fun k => Move.smv g (BitVec.ofNat 2 k)) ++
  (if t.dbg.stopped then [Q.l, Q.x, Q.s].flatMap (fun q =>
      ((t.queue q).ents.filter (fun e => decide (e.st = .begun))).map (fun e => Move.ahead g q e.isn)) else []) ++
  (if t.cont.isNone then [Move.choose g] else []) ++
  (if 64 ≤ t.stall then [Move.grow g] else []) ++
  (if t.lq.headEnt.isSome && t.xq.headEnt.isSome && t.sq.headEnt.isSome then [Move.deadlock g] else []) ++
  (if t.dbg.stopAt.isSome then [Move.timedStop g] else []) ++
  (if t.dbg.allDue then [Move.allStop g] else [])

/-- The pairings that a packet held in a router may make (R416). -/
def State.pairMoves (s : State) (p : Pkt) : List Move :=
  match p.router with
  | none => []
  | some r => s.net.filterMap (fun x =>
      if x.addr ≠ p.addr then none
      else if p.typ = .qpush ∧ x.typ = .qpop then some (.pair r p.rid x.rid)
      else if p.typ = .qpop ∧ x.typ = .qpush then some (.pair r x.rid p.rid)
      else none)

/-- What a packet does next: a held one pairs or goes on, a refused one is resent, any other is served or answered; a request
may time out. -/
def State.pktMoves (s : State) (p : Pkt) : List Move :=
  (if p.router.isSome then s.pairMoves p ++ [Move.dwell p.rid]
   else if p.refused then [Move.resend p.rid]
   else [Move.packet p.rid]) ++
  (if p.typ.isAnswer then [] else [Move.timeout p.rid])

/-- What a launch asks for. -/
def launchMoves (e : Nat × Launch) : List Move :=
  let (k, l) := e
  (if l.preempt = 0 then [] else [Move.save k]) ++
  (match l.st with
   | .wait => [Move.claim k]
   | .run =>
     (if l.roots.isEmpty then [] else [Move.claim k]) ++
     l.pools.map (fun p => Move.age k p.region (BitVec.ofNat 3 p.pri)) ++
     ((List.range l.regions.length).filter (fun i => match l.regions[i]? with
       | some r => decide (r.rtime ≠ 0) && !r.ended
       | none => false)).map (fun i => Move.budget k i) ++
     [Move.halt k]
   | .drain => [Move.drain k]
   | .done => []
   | .saved => [])

/-- The tasks of coding registers whose launch is at hand. -/
def State.taskMoves (s : State) : List Move :=
  (s.oprs.filter (fun e => decide (e.1 < 16))).flatMap (fun e => (List.range 12).flatMap (fun t =>
    if s.taskOpen e.1 t && ((s.taskLaunch e.1 t).isSome || (s.remoteDone e.1 t).isSome) then
      [Move.arrival (BitVec.ofNat 4 e.1) (BitVec.ofNat 4 t),
       Move.erasure (BitVec.ofNat 4 e.1) (BitVec.ofNat 4 t)]
    else []))

/-- The Headstock's own work: a packet to read, messages, the update, the re-sharding engines, the links, the sweepers. -/
def State.deviceMoves (s : State) : List Move :=
  (match s.nextQueue with
   | some n => [Move.readPacket (BitVec.ofNat 6 n)]
   | none => []) ++
  (if s.mbox.h2df || !s.mbox.dbgHeld.isEmpty || !s.trace.stops.isEmpty then [Move.message] else []) ++
  (match s.fw.st with
   | 1 => [Move.quiesced]
   | 2 => [Move.verified]
   | 3 => [Move.deadline]
   | _ => []) ++
  (if s.reshard0.st = 1 then [Move.reshard 0] else []) ++
  (if s.reshard1.st = 1 then [Move.reshard 1] else []) ++
  (s.ports.filter (fun e => e.2.up)).flatMap (fun e => [Move.hbeat e.1, Move.peerDead e.1]) ++
  ((List.range 17).filter (fun u => s.sweepDue u || (u = 0 && s.headDue))).map (fun u => Move.sweep u)

/-- Test slices that end now; whether the cluster passes is open (log entry 17, site 18). -/
def State.sliceMoves (s : State) : List Move :=
  s.launches.flatMap (fun e => (e.2.slices.filter (fun c => decide (c.2 ≤ s.bedt))).map (fun c =>
    Move.slice c.1 (bit (Config.unstated 18 [BitVec.ofNat 64 c.1, s.bedt]) 0)))

/-- Time: the starts asked for in this round's bed cycle may still take a slot that begins with it (R459); then one cycle of the bed
clock, which one core cycle of each lathe die in service ends with, and what falls on it (R456, R457). -/
def State.timeMoves (s : State) : List Move :=
  Move.rampSlot :: (((List.range 16).map (fun i => i + 1)).filter (fun d => !s.sockOut d)).map (fun d => Move.coreCycle d) ++
  [Move.bedCycle, Move.tick, Move.rampSlot]

/-- Every move that stands open, in the order in which the model makes them. A package that has not booted boots. -/
def State.round (s : State) : List Move :=
  if s.fw.boot = 0 then [Move.boot]
  else s.runMoves ++ s.boundTiles.flatMap tileMoves ++ s.net.flatMap s.pktMoves ++ s.launches.flatMap launchMoves ++ s.taskMoves ++
    s.deviceMoves ++ s.sliceMoves ++ s.timeMoves

/-! ### Loading a program (log entry 8) -/

/-- The packet of the loaded launch: one tile, one image, its page tables at 0x1000. -/
def loadedPacket : Packet :=
  { packetOf [] with sym := 1, ptroot := 0x1000, nreg := 1, nimg := 1, w := 1, h := 1, tcfgv := 2 }

/-- Region 0 of the loaded launch: the whole rectangle, without limits. -/
def loadedRegion : Region :=
  { parent := 0xFFFF, pri := 3, dom := 0, pw := 0, pin := false, dla := false, age := 0, tmax := 0, growkb := 0, pent := 4096, rtime := 0,
    x0 := 0, y0 := 0, rw := 1, rh := 1, spmin := 0, psva := 0, pslen := 0, started := some 0, grown := 0, ended := false }

/-- A launch in RUN on tile 0 whose image is one line at 0x4000. -/
def loadedLaunch : Launch :=
  { queue := 0, seq := 1, fw := false, pkt := loadedPacket, st := .run, regions := [loadedRegion], images := [(0x4000, 1)],
    roots := [], pools := [], slots := [], originX := 0, originY := 0, sigma := 0, tiles := [0], bars := [], readAt := 0, readNo := 0, recorded := false, remote := none,
    nerr := 0, ndom := 0, faulted := false, aborted := false, opr := none, task := none, op := 0, opDesc := none, inner := [], ost := 0,
    preempt := 0, saved := [], savedAt := 0, slices := [] }

/-- A control core that fetches slot 1 of line 0 next. -/
def Tcc.loaded (c : Tcc) : Tcc :=
  { c with pc := mkCode 0 1, img := 0, lined := false, pfx := none, pfxp := false, waiting := false, ibuf := [], obj := none, far := [], ffar := [], pend := none,
           intrap := false }

/-- A tile that runs the loaded launch. -/
def Tile.loaded (t : Tile) : Tile :=
  { t with bound := some 0, cont := some { launch := 0, img := 0, region := 0 }, tcc := t.tcc.loaded, tlb := [], faults := [],
           gated := false, dbg := Dbg.none, fresh := false }

/-- Bytes at a physical address of this package. -/
def State.poke (s : State) (pa : Nat) (bs : List Byte) : State := { s with mem := s.mem.setN (s.place pa).key bs }

/-- The package with one line of code loaded for tile 0: page tables that map the first GiB onto itself, the line at 0x4000, a
launch bound to tile 0 and in RUN, and tile 0 as the agent of the next step; every lathe die is in service. -/
def State.loadProgram (s : State) (line : List Byte) : State :=
  let s := { s with fw := { s.fw with boot := 1, cfg := s.fw.cfg.map (fun (c : CfgRec) => { c with oosSocks := [] }) } }
  let s := (((s.poke 0x1000 (leBytes 8 0x2001)).poke 0x2000 (leBytes 8 0x3001)).poke 0x3000 (leBytes 8 0x7F)).poke 0x4000 line
  { s.setTile 0 (s.tile 0).loaded with
    launches := AMap.put s.launches 0 loadedLaunch, nextLaunch := Nat.max 1 s.nextLaunch,
    who := .tile 0, agenda := [.run (.tile 0)] }

end Sys2Proof.Machine
end

