-- ==== Sys2Proof/Machine/Step.lean ====
section
/-! DEFINITION. One step of the package, and the loading of one instruction for its next step. -/

namespace Sys2Proof.Machine

/-- The moves and the agent that follow a step. -/
def Out.sched (o : Out) (rest : List Move) (a : Agent) : Out :=
  match o with
  | .next s => .next { s with agenda := rest, who := a }
  | .fault f => .fault f
  | .refused r => .refused r

/-- The agent that has had its turn last. -/
def Move.agent (m : Move) (a : Agent) : Agent :=
  match m with
  | .run b => b
  | _ => a

/-- One step: the first move of the agenda, or, when the agenda is empty, the first of a fresh round of the moves that stand open
(log entry 7). -/
def step (s : State) : Host.Outcome State Fault Refusal :=
  match if s.agenda.isEmpty then s.round else s.agenda with
  | m :: r => (s.move m).sched r (m.agent s.who)
  | [] => .next s

/-- The bytes of an instruction of the opcode table, the words above nbits zero, in front of them the link word of a
chain of one line. -/
def fetchBytes (w : Nat) : List Byte := leBytes 4 0x08000000 ++ leBytes 8 (w % 2 ^ 64)

/-- s with the instruction w as the next one: tile 0 runs a continuation of a loaded 1 × 1 launch at the instruction, in
an image and page tables placed in memory (log entry 8). -/
def State.withFetchWord (s : State) (nbits w : Nat) : State := s.loadProgram (fetchBytes (w % 2 ^ nbits))

end Sys2Proof.Machine
end

