-- ==== Sys2Proof/Safety.lean ====
section
/-! DEFINITION. The terms in which claims speak of states and runs: agents that exist, a scheduled package, a control core that
stands at a plain instruction, an engine's head, and what a step may not do. -/

namespace Sys2Proof.Machine

/-- The agent exists in a package (Table 0.1): a tile below 256, a management core below 4. -/
def Agent.legal (a : Agent) : Bool :=
  match a with
  | .tile g => decide (g < 256)
  | .core n => decide (n < 4)
  | .reshard n => decide (n < 2)
  | .headstock => true

/-- A move names only agents that exist. -/
def Move.legal (m : Move) : Bool :=
  match m with
  | .run a => a.legal
  | .engine g _ => decide (g < 256)
  | _ => true

/-- The package's schedule names only agents that exist. -/
def State.scheduled (s : State) : Bool := s.who.legal && s.agenda.all Move.legal

/-- A step answers a next state: nothing is refused and no fault of the model stops it. -/
def Out.goesOn (o : Out) : Prop := ∃ t, o = .next t

/-- The executing core is a tile that exists. -/
def State.onTile (s : State) (g : Nat) : Prop := s.who = .tile g

/-- No prefix precedes the instruction in hand (R114). -/
def State.noPrefix (s : State) : Prop := s.cur.pfx = none

/-- No loop boundary stands at the instruction in hand (R147): no active set ends there, or a handler runs. -/
def State.noBoundary (s : State) : Prop :=
  s.cur.intrap = true ∨ ((s.cur.loop0.lc = 0 ∨ s.cur.loop0.ae ≠ s.cur.pc) ∧ (s.cur.loop1.lc = 0 ∨ s.cur.loop1.ae ≠ s.cur.pc))

/-- The instruction in hand has the successor a inside its image (R94, R98). -/
def State.hasSucc (s : State) (a : CodeAddr) : Prop := s.cur.succ = some a ∧ lineOf a < s.image.2

/-- The agent has a control core: a tile, or a management core that exists. -/
def Agent.hasCore (a : Agent) : Prop :=
  match a with
  | .tile _ => True
  | .core n => n < 4
  | .reshard _ => False
  | .headstock => False

/-- The executing agent has a control core. -/
abbrev State.hasCore (s : State) : Prop := s.who.hasCore

/-- The prefixes before the instruction in hand are ones it takes: IMX where `imx`, SCP where `scp` (R112 to R114). -/
def State.pfxOk (s : State) (imx scp : Bool) : Prop :=
  ∀ p, s.cur.pfx = some p → (p.imx.isSome = true → imx = true) ∧ (p.scp.isSome = true → scp = true)

/-- The value of the IMX prefix in force. -/
def State.imxValue (s : State) : Option (BitVec 48) := s.cur.pfx.bind (fun p => p.imx)

/-- The immediate in force, sign-extended: the IMX value, or the instruction's own (R118). -/
def State.immSigned {n : Nat} (s : State) (own : BitVec n) : Word :=
  match s.imxValue with
  | some x => x.signExtend 64
  | none => own.signExtend 64

/-- The immediate in force, zero-extended. -/
def State.immZero {n : Nat} (s : State) (own : BitVec n) : Word :=
  match s.imxValue with
  | some x => x.zeroExtend 64
  | none => own.zeroExtend 64

/-- The instruction in hand stands plainly: its successor a lies in the image, no loop boundary falls on it, and the debugger
counts no steps. -/
def State.plainAt (s : State) (a : CodeAddr) : Prop := s.hasCore ∧ s.hasSucc a ∧ s.noBoundary ∧ s.cur.stepLeft = none

/-- The state after the instruction in hand has retired and execution continues at a: its prefixes and its answers from other
packages are gone, and on a tile the counter of retired instructions (Table 15.7) has advanced. -/
def State.leftAt (s : State) (a : CodeAddr) (lined : Bool) : State :=
  let s' := s.updCur (fun c => { c with pfx := none, pfxp := false, waiting := false, far := [], ffar := [], pc := a, lined := lined })
  if s.onCore then s' else s'.updMe (fun t => t.bump 134)

/-- Execution continues at the successor a: in a line that it has entered, or at the start of one (R97). -/
def State.goneTo (s : State) (a : CodeAddr) : State := s.leftAt a (s.cur.sameLine a)

/-- Execution continues at the target a of a transfer of control. -/
def State.jumpedTo (s : State) (a : CodeAddr) : State := s.leftAt a false

/-- The instruction waits: it will be executed again (R168). -/
def State.waitsIn (s : State) : State := s.updCur (fun c => { c with waiting := true })

/-- The instruction in hand is done, and leaves the stream as f says (R94, R98, R147). -/
def State.finish (s : State) (f : Flow) : State := (s.updCur (fun c => { c with far := [], ffar := [] })).retire f

/-- No storage error stands and none is armed (R448, R453). -/
def State.clean (s : State) : Prop := s.bad = [] ∧ s.armed = []

/-- R99 for a value that is to be a code address of the image that runs. -/
def State.codeOk (s : State) (v : Word) : Prop := v.toNat < 2 ^ 28 ∧ v.toNat % 16 ≠ 0 ∧ v.toNat / 16 < s.image.2

/-- A boundary of set n falls on the instruction in hand (R147), which transfers no control. -/
def State.boundaryAt (s : State) (n : Nat) : Prop :=
  (s.cur.loop n).ae = s.cur.pc ∧ (s.cur.loop n).lc ≠ 0 ∧ s.cur.intrap = false

/-- Nothing of the package but tiles and management cores differs; memory among what is the same. -/
def State.sameOutside (s t : State) : Prop := { t with tiles := s.tiles, cores := s.cores } = s

/-- A tile is the same but for its control core and its counters. -/
def Tile.sameOutside (a b : Tile) : Prop := { b with tcc := a.tcc, counters := a.counters } = a

/-- A control core is the same but for general registers, predicates, and where it stands in the stream. -/
def Tcc.sameState (a b : Tcc) : Prop :=
  { b with regs := a.regs, preds := a.preds, pc := a.pc, lined := a.lined, pfx := a.pfx, waiting := a.waiting, far := a.far, ffar := a.ffar } = a

/-- What an instruction of the control core leaves when it writes only the registers of `rs` and the predicates of `ps`: every
other register and predicate, every special and trap register, both loop sets, the return-address store, every byte of memory,
every other tile and core, and all else of its own tile but the counters. -/
def State.frame (s t : State) (rs : List Reg) (ps : List PReg) : Prop :=
  (∀ r, r ∉ rs → t.g r = s.g r) ∧ (∀ p, p ∉ ps → t.pd p = s.pd p) ∧ Tcc.sameState s.cur t.cur ∧
  s.sameOutside t ∧ (∀ k, t.mem.get k = s.mem.get k) ∧ (∀ g, Tile.sameOutside (s.tile g) (t.tile g)) ∧
  (∀ a : Agent, a ≠ s.who → t.tccOf a = s.tccOf a)

/-- The records that the pool of a region and priority holds, oldest first, with the time each has waited since. -/
def Launch.recsOf (l : Launch) (region pri : Nat) : List (Rec × Word) :=
  (l.pools.filter (fun p => decide (p.region = region) && decide (p.pri = pri))).flatMap (fun p => p.recs)

/-- A launch has one pool at most for each region and priority (R378). -/
def Launch.onePool (l : Launch) : Prop :=
  ∀ region pri, (l.pools.filter (fun p => decide (p.region = region) && decide (p.pri = pri))).length ≤ 1

/-- Launch k of u is launch k of s with the record r, waiting since now, as the newest of its pool, and every other pool as
before; nothing else of the state differs. -/
def State.pushed (s u : State) (k : Nat) (r : Rec) : Prop :=
  ∃ l l', AMap.find? s.launches k = some l ∧ u = { s with launches := AMap.put s.launches k l' } ∧
    l'.recsOf r.region r.pri = l.recsOf r.region r.pri ++ [(r, s.bedt)] ∧
    (∀ region pri, (region, pri) ≠ (r.region, r.pri) → l'.recsOf region pri = l.recsOf region pri) ∧
    l' = { l with pools := l'.pools }

/-- The pools of region n of a launch hold fewer than PENT records (R201, R378), and the region has not ended. -/
def Launch.takes (l : Launch) (n : Nat) : Prop :=
  ∃ x, l.regions[n]? = some x ∧ x.ended = false ∧
    ((l.pools.filter (fun p => decide (p.region = n))).map (fun p => p.recs.length)).sum < x.pent

/-! ### Which instructions take prefixes -/

/-- The instruction takes an IMX prefix (R112): an immediate form, a compare with immediate, a memory instruction, each with
its own immediate zero, or a copy. -/
def takesImx (i : Instr) : Bool :=
  match i with
  | .addi _ _ imm => imm = 0
  | .andi _ _ imm => imm = 0
  | .ori _ _ imm => imm = 0
  | .xori _ _ imm => imm = 0
  | .movi _ imm => imm = 0
  | .cmpeqi _ _ imm => imm = 0
  | .cmpnei _ _ imm => imm = 0
  | .cmplti _ _ imm => imm = 0
  | .cmpltui _ _ imm => imm = 0
  | .cmpgei _ _ imm => imm = 0
  | .cmpgeui _ _ imm => imm = 0
  | .ld _ _ _ off => off = 0
  | .lds _ _ _ off => off = 0
  | .st _ _ _ off => off = 0
  | .lda _ _ _ off => off = 0
  | .stl _ _ _ off => off = 0
  | .pfl _ _ off => off = 0
  | _ => i.isCopy

/-- The instruction takes an SCP prefix (R113): a memory instruction, an ATOM, a fence, or a copy. -/
def takesScp (i : Instr) : Bool :=
  match i with
  | .ld _ _ _ _ => true
  | .lds _ _ _ _ => true
  | .st _ _ _ _ => true
  | .lda _ _ _ _ => true
  | .stl _ _ _ _ => true
  | .pfl _ _ _ => true
  | .aadd _ _ _ => true
  | .amin _ _ _ => true
  | .amax _ _ _ => true
  | .aminu _ _ _ => true
  | .amaxu _ _ _ => true
  | .axchg _ _ _ => true
  | .acas _ _ _ => true
  | .aand _ _ _ => true
  | .aor _ _ _ => true
  | .axor _ _ _ => true
  | .fence => true
  | .fencep _ _ _ => true
  | _ => i.isCopy

end Sys2Proof.Machine
end

