-- ==== Sys2Proof/Certificates/Slice0/Obligations.lean ====
section
/-! DEFINITION. The statements for the provers. Where a docstring says that a statement rests on the model's own choice, it
names the log entry; the rules are those of spec/. -/

open Sys2Proof Sys2Proof.Machine

/-- The words that the spec's own examples build bit by bit decode to their instructions: movi g4, 0x40; ld.w g5, 16(g1); acas g3, g4, g5; tokw g4, xs, 3, pop; fencep s, c+x, package; qpop g6, p3, g4; trap 5; tokp q=s, pop=xs, push=sx; mshape g7; mdrain g9, g10, z0, f32, rne, xr; vqnt.f32 v4, v2, bsi8; fget g4, g5, g6, path=2, ord, tag=7; xcall q=x, g4, g5, g0, line=0x40; halt; nop. -/
def Obligations.DecodeWords : Prop :=
  let e : Eng := { ga := 0, gb := 0, gc := 0, f7 := 0, tok := 0, tag := 0, bat := false, fol := false, ext := 0 }
  decode 0x20800040 0 = .ok (.movi 4 0x40) ∧ decode 0x54A18010 0 = .ok (.ld 5 1 2 16) ∧
  decode 0x6C642806 0 = .ok (.acas 3 4 5) ∧ decode 0x708030C0 0 = .ok (.tokw 4 3 .xs true) ∧
  decode 0x74426000 0 = .ok (.fencep 4 9 .package) ∧ decode 0x7CC40301 0 = .ok (.qpop 6 3 4) ∧
  decode 0xCC000050 0 = .ok (.trap 5) ∧
  decode 0x80000002 5 = .ok (.tokp { e with f7 := 2, tok := 5 }) ∧
  decode 0x84E00000 0 = .ok (.mshape { e with ga := 7 }) ∧
  decode 0x91205081 0 = .ok (.mdrain { e with ga := 9, gc := 10, f7 := 1 }) ∧
  decode 0xBC820030 0x00020000 = .ok (.vqnt { e with ga := 4, gb := 2, f7 := 0x30, ext := 0x20 }) ∧
  decode 0xC485320C 0x70 = .ok (.fget { e with ga := 4, gb := 5, gc := 6, f7 := 12, tag := 7 }) ∧
  decode 0x80850081 0x00040000 = .ok (.xcall { e with ga := 4, gb := 5, f7 := 1, ext := 0x40 }) ∧
  decode 0x78000003 0 = .ok .halt ∧ decode 0xD0000000 0 = .ok .nop

/-- For every well-formed instruction i of the control stream, of every family and with every operand at every value its encoding admits, decode of the two words of encode i is i. -/
def Obligations.DecodeEncode : Prop :=
  ∀ i : Instr, i.wf = true → decode (encode i).1 (encode i).2 = .ok i

/-- For every pair of 32-bit words w0, w1: if decode w0 w1 is the instruction i, then i is well formed and encode i is w0 with w1 where w0's major is a 64-bit form (R101), and w0 with 0 where it is a 32-bit form. No field of a word that is executed is ignored, and no two words of one form decode to one instruction. -/
def Obligations.EncodeDecode : Prop :=
  ∀ (w0 w1 : Nat) (i : Instr), w0 < 2 ^ 32 → w1 < 2 ^ 32 → decode w0 w1 = .ok i →
    i.wf = true ∧ encode i = (w0, if longMajor (w0 / 2 ^ 26) then w1 else 0)

/-- The moves in hand are those of the agenda, or of a fresh round where the agenda is empty; a step makes the first and leaves the rest. Take a state whose first move is the turn of tile g (below 256), bound and running, not stopped by the debugger, with no pending trap or engine fault to take, no hard pre-emption holding it and no address breakpoint at its pc. If the fetch at the pc reads and decodes instruction i, leaving s1 (whatever a passed breakpoint was is forgotten first), then step is exec i s1, as far as the registers and operand slots that i reads are free of parity errors (parityTurn: where no storage error stands it is exec i s1 itself), followed, where the instruction stopped the tile, by the settling of its commands, with the remaining moves as the agenda. The same for the turn of a management core that is not stopped and that no firmware update holds. Where the fetch traps, the step raises that trap. The order of the moves is the model's choice (log entry 7). -/
def Obligations.StepRunsDecoded : Prop :=
  (∀ (s : State) (m : Move) (rest : List Move), (if s.agenda = [] then s.round else s.agenda) = m :: rest →
    step s = (s.move m).sched rest (m.agent s.who)) ∧
  (∀ (s : State) (g : Nat) (rest : List Move), (if s.agenda = [] then s.round else s.agenda) = .run (.tile g) :: rest → g < 256 →
    (s.tile g).runs = true → s.tccHeld g = false → (s.tile g).tcc.pend = none → (s.tile g).takesFault = false →
    (s.tile g).addrHit = false →
    let s0 := { s with who := .tile g }.setTile g (s.tile g).passed
    (∀ i s1, s0.fetch = .ok i s1 → step s = ((Out.settled (s1.parityTurn g i (exec i)) g).sched rest (.tile g)) ∧
      (s1.bad = [] → s1.parityTurn g i (exec i) = exec i s1)) ∧
    (∀ t s1, s0.fetch = .trap t s1 → step s = ((Out.settled (.next (s1.raise t)) g).sched rest (.tile g)))) ∧
  (∀ (s : State) (n : Nat) (rest : List Move), (if s.agenda = [] then s.round else s.agenda) = .run (.core n) :: rest → n < 4 →
    let s0 := { s with who := .core n }
    s0.cur.stopped = false → s0.coreHeld s0.cur = false →
    (∀ i s1, s0.fetch = .ok i s1 → step s = Out.sched (exec i s1) rest (.core n)) ∧
    (∀ t s1, s0.fetch = .trap t s1 → step s = Out.sched (.next (s1.raise t)) rest (.core n)))

/-- For a core in a line it has entered, whose image it may fetch: with the link word and the first word w0 at the pc read through translation, no prefix before it. If w0's major is a 32-bit form, the fetch gives decode w0 0 with the successor of this slot; if it is a 64-bit form in slots 1 to 14, the second word w1 is read from the next slot and the fetch gives decode w0 w1 with the successor of that slot; a 64-bit form in slot 15, or words that decode to nothing, raise the illegal-instruction trap. The successor is the next slot, after slot 15 slot 1 of line NEXT, and none where LAST = 1. -/
def Obligations.FetchDecodes : Prop :=
  ∀ (s : State) (link w0 : Nat) (s1 s2 : State),
    let s0 := s.updCur (fun c => { c with iw := 0 })
    let line := lineOf s0.cur.pc
    let slot := slotOf s0.cur.pc
    let base := s0.image.1 + line * 64
    let after := fun (k : Nat) => if k < 15 then some (mkCode line (k + 1))
      else if link / 2 ^ 27 % 2 = 1 then none else some (mkCode (link % 2 ^ 24) 1)
    s.hasCore → (s0.onCore = true ∨ s0.cur.img ≠ 0xFFFF ∨ s0.cur.atM = true) →
    s0.fetchWord base = .ok link s1 → s1.cur.lined = true → s1.fetchWord (base + 4 * slot) = .ok w0 s2 →
    s2.cur.pfx = none → s2.hasCore → w0 < 2 ^ 32 →
    let got := fun (s : State) (iw : Nat) (k : Nat) =>
      s.updCur (fun c => { c with iw := BitVec.ofNat 64 iw, succ := after k })
    (longMajor (w0 / 2 ^ 26) = false →
      (∀ i, decode w0 0 = .ok i → s.fetch = .ok i (got s2 w0 slot)) ∧
      (∀ e, decode w0 0 = .error e → s.fetch = .trap trapIllegal (got s2 w0 slot))) ∧
    (longMajor (w0 / 2 ^ 26) = true → slot = 15 →
      s.fetch = .trap trapIllegal (s2.updCur (fun c => { c with iw := BitVec.ofNat 64 w0 }))) ∧
    (longMajor (w0 / 2 ^ 26) = true → slot < 15 → ∀ w1 s3,
      (s2.updCur (fun c => { c with iw := BitVec.ofNat 64 w0 })).fetchWord (base + 4 * (slot + 1)) = .ok w1 s3 →
      (∀ i, decode w0 w1 = .ok i → s.fetch = .ok i (got s3 (w0 + w1 * 2 ^ 32) (slot + 1))) ∧
      (∀ e, decode w0 w1 = .error e → s.fetch = .trap trapIllegal (got s3 (w0 + w1 * 2 ^ 32) (slot + 1))))

/-- At State.reset, on any tile: STATUS is 1 (level M, nothing else set); TCFG is 2; the watermarks ZWM0 to ZWM15 are 128; QCAP gives 256 entries to each queue, and the chain links stand at the regions of R27 for 1 MiB; both loop sets, RSC, RASN, issue and completion numbers, TOKC, TAGS, QSTAT, SCC, ANCHOR, FSTAT, MSEA, DQN, the tag counts, the micro-PCs, INJA, INJC and the barrier registers are 0. BEDT is 0, the mailbox flags are clear and no launch exists. (Registers whose reset the spec does not give, log entry 4, are not named here.) -/
def Obligations.ResetValues : Prop :=
  ∀ g : Nat, let s := { State.reset with who := .tile g }
    s.sr 0x000 = 1 ∧ s.sr 0x035 = 2 ∧ s.sr 0x02E = 0x010001000100 ∧
    (∀ n ∈ List.range 16, s.sr (0x050 + n) = 128) ∧
    (s.sr 0x028 = 0xF4000 / 64 ∧ s.sr 0x029 = 0xF4000 / 64 ∧ s.sr 0x02A = 0xF8000 / 64 ∧ s.sr 0x02B = 0xF8000 / 64 ∧
      s.sr 0x02C = 0xFC000 / 64 ∧ s.sr 0x02D = 0xFC000 / 64) ∧
    (∀ n ∈ [0x010, 0x011, 0x012, 0x013, 0x014, 0x015, 0x019, 0x01A, 0x020, 0x021, 0x022, 0x023, 0x024, 0x025, 0x030, 0x031, 0x032,
      0x034, 0x036, 0x037, 0x038, 0x03B, 0x060, 0x061, 0x062, 0x080, 0x081], s.sr n = 0) ∧
    (∀ n ∈ List.range 8, s.sr (0x040 + n) = 0) ∧ (∀ n ∈ List.range 64, s.sr (0x100 + n) = 0) ∧
    s.bedt = 0 ∧ s.mbox.h2df = false ∧ s.mbox.d2hf = false ∧ s.launches = [] ∧ s.net = [] ∧ s.mem.wf = true

/-- State.reset is scheduled: its agent and the moves of its (empty) agenda name only tiles below 256 and management cores below 4. That invariant is kept by every step (StepKeepsSchedule). Which agent has the first turn is the model's choice (log entry 7). -/
def Obligations.ResetScheduled : Prop :=
  State.reset.scheduled = true

/-- For every state s whose agent and agenda name only agents of a package, whatever else s holds: step s answers a next state t, never a fault of the model nor a refusal, and t is scheduled again. Every instruction, every illegal encoding, every trap inside a handler and every event thus has an effect, and a run never ends. The agenda is the model's own (log entry 7). -/
def Obligations.StepKeepsSchedule : Prop :=
  ∀ s : State, s.scheduled = true → ∃ t, step s = .next t ∧ t.scheduled = true

/-- On any core that exists (the 32 registers of 64 bits are the type of the register file): reading g0 gives zero; writing g0 leaves the core as it was; writing any other register r makes r read as the value written and every other register read as before. -/
def Obligations.RegisterZero : Prop :=
  ∀ (s : State) (r : Reg) (v : Word), s.hasCore →
    s.g 0 = 0 ∧ (s.setG 0 v).cur = s.cur ∧ (r ≠ 0 → (s.setG r v).g r = v) ∧ (∀ q : Reg, q ≠ r → (s.setG r v).g q = s.g q)

/-- For a request of this package that waits for service, with no storage error standing or armed. RD answers RDR with the bytes at its place, or ERR; WR writes them and answers WACK; ADDW adds its words, of the atomic region modulo 2^64, of z tiles as 80-bit numbers unless one overflows (ERR OVFL, nothing written); HBM refuses an add (ADDR: the model's choice, log entry 66). ATM (one entry of 16 bytes, of 24 with the expected value for ACAS: the model's choice, log entry 25) writes the new word and answers the old one; out of the atomic region it is ERR ADDR. PUT writes or adds, answers WACK and counts in its arrival entry, which may satisfy a held flag, written then; with 256 entries and none its own it is HNAK. FLAG stamped 0 or satisfied is written and answered, its entry freed; one not satisfied is held; with 64 held it is HNAK. QPUSH and QPOP act on the object at its home: FULL and an object absent, or deleted while the operation was on its way, are ERR; STACK gives the newest, FIFO the oldest, POOL one of its values. A barrier's arrival is recorded. A reserved type is discarded and logged. A refused place answers its code; rows that are not final make a request wait; a reserved address answers ADDR, a die out of service RSVSOCK. Nothing else changes, but CVALID of z tiles written and the states of HBM blocks. -/
def Obligations.PacketsServed : Prop :=
  ∀ (s : State) (rid : Nat) (p : Pkt), s.pkt? rid = some p → p.dpkg = 0 → p.spkg = 0 → p.refused = false → p.router = none → s.clean → s.mem.wf = true →
    let place := s.place p.addr
    let with_ := fun (u : State) (p' : Pkt) => { u with net := u.net.map (fun x => if x.rid = rid then p' else x) }
    let gives := fun (o : Out) (u : State) (p' : Pkt) => o = .next (with_ u p')
    let errIn := fun (u : State) (o : Out) (code : Nat) => gives o u { p with typ := .err, code := code, flagBit := false }
    let err := errIn s
    let outside := fun (o : Out) => (place = .reserved → err o 5) ∧ (place = .out → err o 1) ∧ (∀ k, place = .far k → k ≠ 0 → err o 2) ∧
      (place = .far 0 → o = .next s)
    let key := fun (st off : Nat) => 2 ^ 49 + st * 2 ^ 36 + off
    let read := fun (m : Memory) (k n : Nat) => ofBytes (m.getN k n)
    let width := fun (off : Nat) => if inZ off 1 then 10 else 8
    let sum := fun (k w : Nat) (bs : List Byte) (j : Nat) => (BitVec.ofNat (8 * w) (read s.mem (k + w * j) w)).toInt +
      (BitVec.ofNat (8 * w) (ofBytes ((bs.drop (w * j)).take w))).toInt
    let after := fun (k w : Nat) (bs : List Byte) (add : Bool) (m : Memory) =>
      if add then (∀ j, j < bs.length / w → read m (k + w * j) w = (sum k w bs j % 2 ^ (8 * w)).toNat) ∧
        (∀ a, (a < k ∨ k + bs.length ≤ a) → m.get a = s.mem.get a)
      else m = s.mem.setN k bs
    let writes := fun (o : Out) (g off : Nat) (bs : List Byte) (add : Bool) (done : State → Prop) =>
      let t := s.tile g
      let n := bs.length
      let k := tileBase g + off
      let refused := if add then t.addErr off n else t.storeErr off n
      let tooBig := add = true ∧ width off = 10 ∧ ∃ j, j < n / 10 ∧ (sum k 10 bs j < -(2 ^ 79 : Int) ∨ (2 ^ 79 : Int) ≤ sum k 10 bs j)
      (∀ c, refused = some c → err o c) ∧
      (refused = none → (t.rowOpen off n = true → o = .next s) ∧ (t.rowOpen off n = false → tooBig → err o 9) ∧
        (t.rowOpen off n = false → ¬ tooBig → ∃ m, after k (width off) bs add m ∧ done { s.zTouched g off n with mem := m }))
    (∀ g off n, let u := s.zTouched g off n
      { u with tiles := s.tiles } = s ∧ (inZ off n = false → u = s) ∧ (∀ h, h ≠ g → u.tile h = s.tile h) ∧
      { u.tile g with mxe := { (u.tile g).mxe with z := (s.tile g).mxe.z } } = s.tile g ∧
      ∀ z : Fin 16, let x := (s.tile g).mxe.z[z]
        (u.tile g).mxe.z[z] = if overlap off n (0x600000 + z.val * 0x28000) 0x28000 then { x with cvalid := false } else x) ∧
    (p.typ = .rd → let o := exec (.pktRd rid) s
      (∀ st off, place = .hbm st off → ∃ b, gives o { s with blocks := b } { p with typ := .rdr, data := s.mem.getN (key st off) p.len }) ∧
      (∀ g off, place = .tile g off → (s.tile g).offBad off p.len = false →
        ((s.tile g).rowOpen off p.len = true → o = .next s) ∧
        ((s.tile g).rowOpen off p.len = false → ∃ b, gives o { s with blocks := b }
          { p with typ := .rdr, data := s.mem.getN (tileBase g + off) p.len })) ∧
      (∀ g off, place = .tile g off → (s.tile g).offBad off p.len = true → err o 5) ∧ outside o) ∧
    (p.typ = .wr → let o := exec (.pktWr rid) s
      (∀ st off, place = .hbm st off → ∃ b f, gives o { s with mem := s.mem.setN (key st off) p.data, blocks := b, free := f }
        { p with typ := .wack }) ∧
      (∀ g off, place = .tile g off → writes o g off p.data false (fun u => gives o u { p with typ := .wack })) ∧ outside o) ∧
    (p.typ = .addw → let o := exec (.pktAddw rid) s
      (∀ st off, place = .hbm st off → err o 5) ∧
      (∀ g off, place = .tile g off → writes o g off p.data true (fun u => gives o u { p with typ := .wack })) ∧ outside o) ∧
    (p.typ = .atm → p.data.length = (if p.aop = 6 then 24 else 16) → p.aop ≤ 9 → let o := exec (.pktAtm rid) s
      (∀ st off, place = .hbm st off → err o 5) ∧ outside o ∧
      ∀ g off, place = .tile g off →
        let at_ := off + 8 * ofBytes (p.data.take 4)
        let k := tileBase g + at_
        let old : Word := BitVec.ofNat 64 (read s.mem k 8)
        let x : Word := BitVec.ofNat 64 (ofBytes ((p.data.drop 8).take 8))
        let expected : Word := BitVec.ofNat 64 (ofBytes (p.data.drop 16))
        let new : Word := match p.aop with
          | 0 => old + x
          | 1 => if x.toInt < old.toInt then x else old
          | 2 => if old.toInt < x.toInt then x else old
          | 3 => if x < old then x else old
          | 4 => if old < x then x else old
          | 5 => x
          | 6 => if old = expected then x else old
          | 7 => old &&& x
          | 8 => old ||| x
          | _ => old ^^^ x
        (at_ < 0x880000 ∨ 0x8C0000 < at_ + 8 → err o 5) ∧
        (0x880000 ≤ at_ → at_ + 8 ≤ 0x8C0000 → off % 8 ≠ 0 → err o 6) ∧
        (0x880000 ≤ at_ → at_ + 8 ≤ 0x8C0000 → off % 8 = 0 →
          gives o (if p.aop = 6 ∧ old ≠ expected then s else { s with mem := s.mem.setN k (leBytes 8 new.toNat) })
            { p with typ := .atmr, data := leBytes 8 old.toNat })) ∧
    (p.typ = .put → let o := exec (.pktPut rid) s
      (∀ st off, place = .hbm st off → err o 5) ∧ outside o ∧
      ∀ g off t, place = .tile g off → s.tile g = t →
        let mine := fun (a : Arrival) => a.src = p.srcKey ∧ a.grp = p.grp ∧ a.epoch = p.epoch % 16
        let one : Arrival → Arrival := fun a =>
          { a with p := a.p + 1, e := a.e + (if p.last then p.cnt else 0), u := a.u + (if p.last then 1 else 0), own := p.own }
        let counted := fun (a : Arrival) (l : List Arrival) =>
          let meets := fun (h : HeldFlag) => mine { a with src := h.src, grp := h.grp, epoch := h.epoch } ∧ h.cnt = a.u ∧ a.p = a.e
          ((∀ h ∈ t.held, ¬ meets h) → writes o g off p.data p.add (fun u =>
            gives o (State.setTile u g { u.tile g with arrivals := l }) { p with typ := .wack })) ∧
          (∀ (h : HeldFlag) (f : Pkt) (at_ : Nat), t.held = [h] → meets h → h.rid ≠ rid → s.pkt? h.rid = some f → f.rid = h.rid → f.typ = .flag →
            f.spkg = 0 → f.cnt = h.cnt → f.cnt ≠ 0 → f.srcKey = p.srcKey → f.grp = p.grp → f.epoch % 16 = p.epoch % 16 →
            s.place f.addr = .tile g at_ → t.storeErr at_ (f.data.take 8).length = none → inZ at_ (f.data.take 8).length = false →
            writes o g off p.data p.add (fun u => ∃ v, o = .next v ∧ v.mem = u.mem.setN (tileBase g + at_) (f.data.take 8) ∧
              v.pkt? h.rid = some { f with typ := .wack } ∧ v.pkt? rid = some { p with typ := .wack } ∧ (v.tile g).held = [] ∧
              (v.tile g).arrivals = l.filter (fun a => decide (¬ mine a))))
        ((∀ a ∈ t.arrivals, ¬ mine a) → 256 ≤ t.arrivals.length → gives o s { p with typ := .hnak, code := 8 }) ∧
        ((∀ a ∈ t.arrivals, ¬ mine a) → t.arrivals.length < 256 →
          let new := one { src := p.srcKey, grp := p.grp, epoch := p.epoch % 16, p := 0, e := 0, u := 0, own := none }
          counted new (t.arrivals ++ [new])) ∧
        (∀ l a r, t.arrivals = l ++ a :: r → mine a → (∀ b ∈ l ++ r, ¬ mine b) → counted (one a) (l ++ one a :: r))) ∧
    (p.typ = .flag → let o := exec (.pktFlag rid) s
      (∀ st off, place = .hbm st off → err o 5) ∧ outside o ∧
      ∀ g off t, place = .tile g off → s.tile g = t →
        let mine := fun (a : Arrival) => a.src = p.srcKey ∧ a.grp = p.grp ∧ a.epoch = p.epoch % 16
        let met := ∃ a ∈ t.arrivals, mine a ∧ a.u = p.cnt ∧ a.p = a.e
        let n := (p.data.take 8).length
        (p.cnt = 0 ∨ met →
          let u := s.setTile g { t with held := t.held.filter (fun h => decide (h.rid ≠ rid)),
                                        arrivals := if p.cnt = 0 then t.arrivals else t.arrivals.filter (fun a => decide (¬ mine a)) }
          (∀ c, t.storeErr off n = some c → errIn u o c) ∧
          (t.storeErr off n = none → (t.rowOpen off n = true → o = .next s) ∧
            (t.rowOpen off n = false → gives o { u.zTouched g off n with mem := s.mem.setN (tileBase g + off) (p.data.take 8) }
              { p with typ := .wack }))) ∧
        (p.cnt ≠ 0 → ¬ met → (∀ h ∈ t.held, h.rid ≠ rid) →
          (64 ≤ t.held.length → gives o s { p with typ := .hnak, code := 9 }) ∧
          (t.held.length < 64 → ∃ h : HeldFlag, o = .next (s.setTile g { t with held := t.held ++ [h] }) ∧ h.rid = rid ∧ h.src = p.srcKey ∧
            h.grp = p.grp ∧ h.epoch = p.epoch % 16 ∧ h.cnt = p.cnt ∧ h.pa = p.addr ∧ h.own = p.own ∧
            h.val.toNat = ofBytes (p.data.take 8) % 2 ^ 64)) ∧
        (p.cnt ≠ 0 → ¬ met → (∃ h ∈ t.held, h.rid = rid) → o = .next s)) ∧
    (let counted := s.fall p.addr
     let obj := p.addr % 2 ^ 26
     let cls := p.addr / 2 ^ 18 % 4
     let fails := errIn counted
     let becomes := fun (o : Out) (b : Obj) (v : Nat) (empty : Bool) => ∃ f : Nat,
      gives o { counted with objs := AMap.put s.objs obj b, free := f } { p with typ := .qrsp, cnt := v, flagBit := empty }
     (p.typ = .qpush → let o := exec (.pktQpushHome rid) s
       (AMap.find? s.objs obj = none ∨ cls = 3 ∨ p.objGone = true → fails o 10) ∧
       (p.objGone = false → ∀ b, AMap.find? s.objs obj = some b → cls ≠ 3 → b.cap ≤ b.vals.length → fails o 11) ∧
       (p.objGone = false → ∀ b, AMap.find? s.objs obj = some b → cls ≠ 3 → b.vals.length < b.cap →
         becomes o { b with vals := BitVec.ofNat 64 p.cnt :: b.vals } 0 false)) ∧
     (p.typ = .qpop → let o := exec (.pktQpopHome rid) s
       (AMap.find? s.objs obj = none ∨ cls = 3 ∨ p.objGone = true → fails o 10) ∧
       (p.objGone = false → ∀ b, AMap.find? s.objs obj = some b → cls ≠ 3 → b.vals = [] → gives o counted { p with typ := .qrsp, cnt := 0, flagBit := true }) ∧
       (p.objGone = false → ∀ b v r, AMap.find? s.objs obj = some b → cls = 1 → b.vals = v :: r → becomes o { b with vals := r } v.toNat false) ∧
       (p.objGone = false → ∀ b v r, AMap.find? s.objs obj = some b → cls = 2 → b.vals = r ++ [v] → becomes o { b with vals := r } v.toNat false) ∧
       (p.objGone = false → ∀ b, AMap.find? s.objs obj = some b → cls = 0 → b.vals ≠ [] →
         ∃ l v r, b.vals = l ++ v :: r ∧ becomes o { b with vals := l ++ r } v.toNat false))) ∧
    (∀ g l b, p.typ = .ctrl → p.src = .tile g → AMap.find? s.launches p.addr = some l → AMap.find? l.bars p.cnt = some b →
      (∃ m ∈ l.members b, m ≠ g ∧ m ∉ b.arrived.map Prod.fst) →
      let b' := { b with arrived := b.arrived ++ [(g, p.scope)] }
      let ls := AMap.put s.launches p.addr { l with bars := AMap.put l.bars p.cnt b' }
      exec (.pktCtrl rid) s = .next { s with net := s.net.filter (fun x => decide (x.rid ≠ rid)), launches := ls }) ∧
    (p.typ = .reserved → ∃ u : State, exec (.pktReservedType rid) s = .next u ∧ u.net = s.net.filter (fun x => decide (x.rid ≠ rid)) ∧
      (AMap.getD u.logs (5 * 4096) (0, [])).1 = (AMap.getD s.logs (5 * 4096) (0, [])).1 + 1)

/-- For an answer to a core or a queue of this package: it leaves the network, and the access that waits with its identifier holds RDR's data, WACK's nothing, ATMR's old values, or ERR's code and EFFECT; QRSP and ERR reach the object operation that waits. A WACK that counts makes a put's path acknowledge one more (a flag; the last packet of a put). HNAK makes its packet a refused one again of its own type, sent at now, or drops it where its sender's domain has ended. A refused packet is resent once 1 µs has passed, or ends in ERR HOLD beyond KTO. A request unanswered at its limit becomes ERR TIMEOUT, with EFFECT where its type writes. A push and a pop of one POOL or STACK object in one router both become QRSP, the pop with the push's value, and the router counts a pair. A held packet whose budget is spent leaves its router. What is not due changes nothing. -/
def Obligations.PacketAnswers : Prop :=
  (∀ (s : State) (rid : Nat) (p : Pkt), s.pkt? rid = some p → p.spkg = 0 →
    let gone := s.net.filter (fun x => decide (x.rid ≠ rid))
    let answered := fun (l : List FarReq) => l.map (fun (r : FarReq) =>
      if r.rid = rid then (if p.typ = .err then { r with err := some (p.code, p.flagBit) }
        else { r with ans := some (if p.typ = .wack then [] else p.data) }) else r)
    (∀ (a : Agent) (o : Out), p.src = a → a.hasCore → (∀ g, a = .tile g → p.tcc = true) →
      (p.typ = .rdr ∧ o = exec (.pktRdrAnswer rid) s ∨ p.typ = .wack ∧ o = exec (.pktWackAnswer rid) s ∨
        p.typ = .atmr ∧ o = exec (.pktAtmrAnswer rid) s ∨ p.typ = .err ∧ o = exec (.pktErrAnswer rid) s) →
      ∃ u : State, o = .next u ∧ u.net = gone ∧ u.mem = s.mem ∧
        (∀ b : Agent, b ≠ a → u.tccOf b = s.tccOf b) ∧ (∀ g, { u.tile g with tcc := (s.tile g).tcc } = s.tile g) ∧
        { u.tccOf a with far := (s.tccOf a).far, ffar := (s.tccOf a).ffar, obj := (s.tccOf a).obj } = s.tccOf a ∧
        (u.tccOf a).far = answered (s.tccOf a).far ∧ (u.tccOf a).ffar = answered (s.tccOf a).ffar ∧
        ((u.tccOf a).obj = if p.typ = .err then
            ((s.tccOf a).obj).map (fun (w : ObjWait) => if w.rid = rid then { w with err := some (p.code, p.flagBit) } else w)
          else (s.tccOf a).obj)) ∧
    (∀ (a : Agent), p.src = a → a.hasCore → p.typ = .qrsp →
      exec (.pktQrspAnswer rid) s = .next (State.setTcc { s with net := gone } a
        { s.tccOf a with obj := ((s.tccOf a).obj).map (fun (w : ObjWait) => if w.rid = rid then { w with ans := some (p.flagBit, BitVec.ofNat 64 p.cnt) } else w) })) ∧
    (∀ (g : Nat), p.src = .tile g → p.tcc = false → p.typ = .rdr → ∃ u : State, exec (.pktRdrAnswer rid) s = .next u ∧ u.net = gone ∧
      u.mem = s.mem ∧ ((u.tile g).queue p.q).ents = ((s.tile g).queue p.q).ents.map (fun e =>
        if e.isn = p.isn then { e with far := answered e.far } else e)) ∧
    (∀ (g : Nat) (h : p.path < 4), p.src = .tile g → p.tcc = false → p.typ = .wack → p.counts = true →
      let more := ∃ x ∈ gone, x.counts = true ∧ x.src = .tile g ∧ x.path = p.path ∧ x.budget = p.budget ∧ x.typ ≠ .flag
      ∃ u : State, exec (.pktWackAnswer rid) s = .next u ∧ u.mem = s.mem ∧ (u.tile g).iss = (s.tile g).iss ∧
        (p.budget = 0 → (u.tile g).ack[p.path] = (s.tile g).ack[p.path] + 1) ∧
        (p.budget ≠ 0 → more → (u.tile g).ack = (s.tile g).ack) ∧
        (p.budget ≠ 0 → ¬ more → (∀ en ∈ (s.tile g).sq.ents, en.st = .begun → en.made = true) →
          (u.tile g).ack[p.path] = (s.tile g).ack[p.path] + 1)) ∧
    (let back := { p with typ := PktT.ofCode p.code, code := 0, refused := true, resent := s.bedt }
     (p.typ = .hnak → s.senderEnded p = true → exec (.pktHnakAnswer rid) s = .next { s with net := gone }) ∧
     (p.typ = .hnak → s.senderEnded p = false → exec (.pktHnakAnswer rid) s = .next { s with net := s.net.map (fun x => if x.rid = rid then back else x) }))) ∧
  (∀ (s : State) (rid : Nat) (p : Pkt), s.pkt? rid = some p → (∀ x ∈ s.net, x.rid = rid → x = p) →
    let becomes := fun (p' : Pkt) => Host.Outcome.next { s with net := s.net.map (fun x => if x.rid = rid then p' else x) }
    let bto := (s.limits p.src).1 * 2000
    let kto := (s.limits p.src).2 * 2000
    (p.refused = true → p.resent.toNat + 2000 ≤ s.bedt.toNat → kto < s.bedt.toNat - p.sent.toNat →
      exec (.hnakResend rid) s = becomes { p with typ := .err, code := 12, flagBit := false, refused := false, router := none }) ∧
    (p.refused = true → p.dpkg = 0 → p.resent.toNat + 2000 ≤ s.bedt.toNat → s.bedt.toNat - p.sent.toNat ≤ kto →
      exec (.hnakResend rid) s = becomes { p with refused := false, resent := s.bedt }) ∧
    (p.refused = false ∨ s.bedt.toNat < p.resent.toNat + 2000 → exec (.hnakResend rid) s = .next s) ∧
    (p.spkg = 0 → p.refused = false → p.typ ∈ ([.rd, .wr, .addw, .atm, .put, .flag, .qpush, .qpop] : List PktT) ∨ p.typ = .ctrl ∧ p.dpkg ≠ 0 →
      let lim := if p.dpkg = 0 then bto else kto
      (p.resent.toNat + lim ≤ s.bedt.toNat → exec (.remoteTimeout rid) s =
        becomes { p with typ := .err, code := 4, flagBit := decide (p.typ ∈ ([.wr, .addw, .atm, .put, .flag, .qpush] : List PktT)),
                         router := none, dpkg := 0 }) ∧
      (s.bedt.toNat < p.resent.toNat + lim → exec (.remoteTimeout rid) s = .next s)) ∧
    (p.spkg ≠ 0 ∨ p.refused = true ∨ p.typ ∈ ([.rdr, .wack, .atmr, .qrsp, .err, .hnak] : List PktT) ∨ p.typ = .ctrl ∧ p.dpkg = 0 →
      exec (.remoteTimeout rid) s = .next s) ∧
    (∀ r, p.router = some r →
      let out := { s with net := s.net.map (fun x => if x.rid = rid then { p with router := none } else x) }
      (p.sent.toNat + p.budget ≤ s.bedt.toNat → exec (.dwellExpire rid) s =
        .next (if p.dpkg = 0 then out else out.depart { p with router := none })) ∧
      (s.bedt.toNat < p.sent.toNat + p.budget → exec (.dwellExpire rid) s = .next s)) ∧
    (p.router = none → exec (.dwellExpire rid) s = .next s)) ∧
  (∀ (s : State) (r x y : Nat) (a b : Pkt), s.pkt? x = some a → s.pkt? y = some b → x ≠ y → a.typ = .qpush → b.typ = .qpop →
    a.addr = b.addr → a.addr / 2 ^ 18 % 4 ≤ 1 → a.dpkg = 0 → b.dpkg = 0 → a.spkg = 0 → b.spkg = 0 → a.objGone = false → b.objGone = false →
    ((a.router = none ∧ b.router = some r ∧ s.oldestHeld r .qpop b.addr = some y) ∨
      (b.router = none ∧ a.router = some r ∧ s.oldestHeld r .qpush a.addr = some x)) →
    let a' := { a with typ := .qrsp, cnt := 0, flagBit := false, router := none, dpkg := 0 }
    let b' := { b with typ := .qrsp, cnt := a.cnt, flagBit := false, router := none, dpkg := 0 }
    exec (.routerPairing r x y) s = .next { s.pkgBump r with net := s.net.map (fun z => if z.rid = x then a' else if z.rid = y then b' else z) })

/-- At a live port: a flit with a wrong CRC or out of sequence is answered LNAK with the number expected; a good one in sequence advances the number, is noted as received now and answered LACK; LACK drops the flits up to the one it names; LNAK makes the flits from its number on be sent again and counts a retry; a notice is taken as the event DEATH_NOTICE. A port silent for 1 µs sends HBEAT. A port without a valid flit for 10 µs, and a death notice for a package not yet dead, set its dead bit, take its ports down and out of the route tables, answer every request to it with DEAD, and send the notice out of every other live port; a notice for a dead package changes nothing. A write of a dead-map register clears the bits written 1. (That LACK and LNAK name a flit by their own FSEQ, and are taken at any FSEQ, is the model's choice, log entry 27.) A bed-link retry is logged; a success clears its count; the eighth failure in a row takes the link out of service. -/
def Obligations.Links : Prop :=
  (∀ (s : State) (n : Nat) (f : BitVec 1024),
    let p := s.port n
    let bs := leBytes 128 f.toNat
    let kind := f.toNat % 256
    let seq := fun (x : BitVec 1024) => x.toNat / 2 ^ 16 % 2 ^ 16
    let crcOk := (crc64 (bs.take 120)).toNat = ofBytes (bs.drop 120)
    let o := exec (.kwaupFlitReceive n f) s
    let nak := ∃ a : BitVec 1024, o = .next (s.setPort n { p with lastTx := s.bedt, ack := a }) ∧ a.toNat % 256 = 4 ∧ seq a = p.rxSeq.toNat
    (p.up = false ∨ 8 ≤ p.resends → o = .next s) ∧
    (p.up = true → p.resends < 8 →
      (¬ crcOk → nak) ∧
      (crcOk → badFlit bs = false → kind ≤ 2 → seq f ≠ p.rxSeq.toNat → nak) ∧
      (crcOk → badFlit bs = false → kind = 1 → seq f = p.rxSeq.toNat → ∃ a : BitVec 1024,
        o = .next (s.setPort n { p with rxSeq := p.rxSeq + 1, lastRx := s.bedt, lastTx := s.bedt, ack := a }) ∧ a.toNat % 256 = 3 ∧ seq a = seq f) ∧
      (crcOk → badFlit bs = false → kind = 0 → seq f = p.rxSeq.toNat → ∃ u : State, o = .next u ∧ (u.port n).rxSeq = p.rxSeq + 1 ∧
        (u.port n).lastRx = s.bedt) ∧
      (∀ l x r, crcOk → badFlit bs = false → kind = 3 → p.txq = l ++ x :: r → seq x = seq f → (∀ y ∈ l, seq y ≠ seq f) →
        o = .next (s.setPort n { p with lastRx := s.bedt, txq := r, resends := 0 })) ∧
      (crcOk → badFlit bs = false → kind = 3 → (∀ y ∈ p.txq, seq y ≠ seq f) → o = .next (s.setPort n { p with lastRx := s.bedt })) ∧
      (crcOk → badFlit bs = false → kind = 4 → o = exec (.kwaupLnak n (BitVec.ofNat 16 (seq f))) (s.setPort n { p with lastRx := s.bedt })) ∧
      (let part := fun (i k : Nat) => ofBytes ((bs.drop i).take k)
       crcOk → badFlit bs = false → kind = 2 → seq f = p.rxSeq.toNat → ∃ a : BitVec 1024, a.toNat % 256 = 3 ∧ seq a = seq f ∧
        o = exec (.deathNotice n (BitVec.ofNat 9 (part 8 2)) (BitVec.ofNat 9 (part 10 2)) (BitVec.ofNat 16 (part 12 2)) (BitVec.ofNat 64 (part 14 8)))
          (s.setPort n { p with rxSeq := p.rxSeq + 1, lastRx := s.bedt, lastTx := s.bedt, ack := a })) ∧
      (crcOk → badFlit bs = true → seq f ≠ p.rxSeq.toNat → nak) ∧
      (crcOk → badFlit bs = true → seq f = p.rxSeq.toNat → ∃ u : State, o = .next u ∧ (u.port n).ack.toNat % 256 = 4 ∧
        (u.port n).rxSeq = p.rxSeq)) ∧
    (∀ (q : BitVec 16) (l : List (BitVec 1024)) (x : BitVec 1024) (r : List (BitVec 1024)), p.up = true → p.txq = l ++ x :: r → seq x = q.toNat →
      (∀ y ∈ l, seq y ≠ q.toNat) → exec (.kwaupLnak n q) s =
        .next (s.setPort n { p with txq := x :: r, lastTx := s.bedt, retries := p.retries + 1, resends := if l = [] then p.resends + 1 else 1 })) ∧
    (∀ q : BitVec 16, p.up = false ∨ (∀ y ∈ p.txq, seq y ≠ q.toNat) → exec (.kwaupLnak n q) s = .next s) ∧
    (p.up = true → p.lastTx.toNat + 2000 ≤ s.bedt.toNat → ∃ a : BitVec 1024, exec (.hbeatSend n) s =
      .next (s.setPort n { p with txq := p.txq ++ [a], txSeq := p.txSeq + 1, lastTx := s.bedt }) ∧ a.toNat % 256 = 1 ∧ seq a = p.txSeq.toNat) ∧
    (p.up = false ∨ s.bedt.toNat < p.lastTx.toNat + 2000 → exec (.hbeatSend n) s = .next s)) ∧
  (∀ (s : State) (n : Nat), n < 24 →
    let p := s.port n
    let dies := fun (o : Out) (k : Nat) (ports : List Nat) (except : Option Nat) => ∃ u : State, o = .next u ∧ u.dead.getLsbD k = true ∧
      (∀ j : Nat, j ≠ k → u.dead.getLsbD j = s.dead.getLsbD j) ∧
      (∀ m ∈ ports, (u.port m).up = false ∧ ∀ key mask, AMap.find? u.routes key = some mask → mask.getLsbD m = false) ∧
      (∀ x ∈ s.net, x.dpkg = k → x.typ.isAnswer = false → x.spkg = 0 → ∃ y ∈ u.net, y.rid = x.rid ∧ y.typ = .err ∧ y.code = 3) ∧
      (∀ m, m < 24 → m ∉ ports → except ≠ some m → (s.port m).up = true → ∃ a : BitVec 1024, (u.port m).txq = (s.port m).txq ++ [a] ∧ a.toNat % 256 = 2)
    (p.up = true → p.peer ≠ 0 → p.peer < 512 → p.lastRx.toNat + 20000 ≤ s.bedt.toNat → dies (exec (.peerDead n) s) p.peer [n] none) ∧
    (p.up = false ∨ s.bedt.toNat < p.lastRx.toNat + 20000 → exec (.peerDead n) s = .next s) ∧
    (∀ (k by_ : BitVec 9) (at_ : BitVec 16) (time : Word), let o := exec (.deathNotice n k by_ at_ time) s
      (s.dead.getLsbD k.toNat = true → o = .next s) ∧
      (s.dead.getLsbD k.toNat = false → k ≠ 0 →
        dies o k.toNat ((List.range 24).filter (fun m => (s.port m).up && decide ((s.port m).peer = k.toNat))) (some n)))) ∧
  (∀ (s : State) (i : BitVec 3) (v : Word), ∃ d : BitVec 512, exec (.deadmapClear i v) s = .next { s with dead := d } ∧
    ∀ j : Nat, j < 512 → d.getLsbD j = (s.dead.getLsbD j && !(decide (j / 64 = i.toNat) && v.getLsbD (j % 64)))) ∧
  (∀ (s : State) (r : Nat) (port : BitVec 3) (ok : Bool),
    let k := 8 * r + port.toNat
    let fails := fun (u : State) => AMap.getD u.linkFails k 0
    let logged := fun (u : State) => (AMap.getD u.logs (5 * 4096) (0, [])).1
    ∃ u : State, exec (.bedLinkRetry r port ok) s = .next u ∧ logged u = logged s + 1 ∧ fails u = (if ok then 0 else fails s + 1) ∧
      (ok = false → 7 ≤ fails s → k ∈ u.linkDown) ∧ (∀ x ∈ s.linkDown, x ∈ u.linkDown))

/-- For re-sharding engine n: GO, RESUME and a host plan change nothing in RUN. Otherwise each takes the plan that the records (or the host's chunks) give: RUN at chunk 0 with the cursor committed, at the cursor's DONE under RESUME, IDLE with nothing to do, the cursor's words zero at a start; what the records forbid stops it with the code of the check, records that are misaligned with ERR 2, as do records that cannot be read (the model's choice, log entry 42). Reads that wait for another package go on at the next chunk event. PAUSE with no chunk begun commits the cursor and makes it PAUSED, else marks it, and a plan that loads then ends PAUSED before its first chunk; ABORT stops a run with ERR 5. Out of RUN both change nothing. In RUN, a chunk whose source is read and destination written is done: DONE rises by one, the cursor holds it and the total, and the run ends, pauses or goes on; a chunk of length 0 stops it with ERR 3; an error of the access with ERR 4. -/
def Obligations.Resharding : Prop :=
  ∀ (s : State) (e : BitVec 1),
    let n := e.toNat
    let r := s.rs n
    let go := fun (resume host : Bool) => State.setRs s n
      { r with st := 1, err := 0, loading := true, resume := resume, host := host, pausing := false, far := [], chunks := [], done := 0 }
    let stops := fun (o : Out) (k : Nat) => ∃ u : State, o = .next u ∧ (u.rs n).st = 3 ∧ (u.rs n).err = k
    let loads := fun (o : Out) (s0 : State) =>
      (∀ s1, s0.rsPlan n = .wait s1 → o = .next s1) ∧ (∀ t s1, s0.rsPlan n = .trap t s1 → stops o 2) ∧
      (∀ k s1, s0.rsPlan n = .ok (.error k) s1 → stops o k) ∧
      (∀ cs s1, s0.rsPlan n = .ok (.ok cs) s1 →
        let runs := fun (done : Nat) (u : State) => o = .next u ∧ (u.rs n).chunks = cs ∧ (u.rs n).done = done ∧ (u.rs n).loading = false ∧
          (u.rs n).st = (if cs.length ≤ done then 0 else if (s1.rs n).pausing then 2 else 1)
        let idle := fun (done : Nat) => (s1.rs n).pausing = false ∨ cs.length ≤ done
        ((s1.rs n).resume = false → ∃ u : State, runs 0 u ∧
          (idle 0 → ∀ s2, s1.rsWrite n (s1.rs n).cur.toNat (List.replicate 16 0) = .ok () s2 → u.mem = s2.mem) ∧
          (¬ idle 0 → u.mem = ((s1.rsCommit n 0 0).rsCommit n 0 cs.length).mem)) ∧
        ((s1.rs n).resume = true →
          (∀ bs s2, s1.rsRead n (s1.rs n).cur.toNat 16 = .ok bs s2 → (s2.rs n).pausing = (s1.rs n).pausing →
            let done := ofBytes (bs.take 8)
            ∃ u : State, runs done u ∧ u.mem = (if (s1.rs n).pausing = true ∧ done < cs.length then (s2.rsCommit n done cs.length).mem else s2.mem)) ∧
          (∀ t s2, s1.rsRead n (s1.rs n).cur.toNat 16 = .trap t s2 → stops o 4) ∧
          (∀ s2, s1.rsRead n (s1.rs n).cur.toNat 16 = .wait s2 → o = .next s2)))
    let start := fun (o : Out) (resume host : Bool) =>
      (r.st = 1 → o = .next s) ∧ (r.st ≠ 1 → loads o (go resume host)) ∧
      (r.st ≠ 1 → r.src.toNat % 64 ≠ 0 → r.dst.toNat % 64 ≠ 0 → ∃ u : State, o = .next u ∧ (u.rs n).st = 3 ∧ (u.rs n).err = 2 ∧ u.mem = s.mem)
    start (exec (.rsGo e) s) false false ∧ start (exec (.rsResume e) s) true r.host ∧ start (exec (.rsHostPlan e) s) false true ∧
    (r.st ≠ 1 → exec (.rsPause e) s = .next s ∧ exec (.rsAbort e) s = .next s ∧ exec (.rsChunkDone e) s = .next s) ∧
    (r.st = 1 →
      (r.far = [] → r.loading = false → ∃ u : State, exec (.rsPause e) s = .next u ∧ (u.rs n).st = 2 ∧ (u.rs n).done = r.done ∧
        (∀ s1, s.rsWrite n r.cur.toNat (leBytes 8 r.done ++ leBytes 8 r.chunks.length) = .ok () s1 → u.mem = s1.mem)) ∧
      (r.far ≠ [] ∨ r.loading = true → exec (.rsPause e) s = .next (s.setRs n { r with pausing := true })) ∧
      (∃ u : State, exec (.rsAbort e) s = .next u ∧ (u.rs n).st = 3 ∧ (u.rs n).err = 5 ∧ (u.rs n).done = r.done ∧ u.mem = s.mem) ∧
      (∀ a b len, r.loading = false → r.chunks[r.done]? = some (a, b, len) →
        (len = 0 → ∃ u : State, exec (.rsChunkDone e) s = .next u ∧ (u.rs n).st = 3 ∧ (u.rs n).err = 3 ∧ u.mem = s.mem) ∧
        (∀ bs s1 s2, len ≠ 0 → s.rsRead n a len = .ok bs s1 → s1.rsWrite n b bs = .ok () s2 → s2.rs n = r →
          ∃ u : State, exec (.rsChunkDone e) s = .next u ∧ (u.rs n).done = r.done + 1 ∧ (u.rs n).chunks = r.chunks ∧
            (u.rs n).st = (if r.chunks.length ≤ r.done + 1 then 0 else if r.pausing then 2 else 1) ∧
            ∀ s3, (s2.setRs n { r with done := r.done + 1, far := [] }).rsWrite n r.cur.toNat (leBytes 8 (r.done + 1) ++ leBytes 8 r.chunks.length) =
              .ok () s3 → u.mem = s3.mem) ∧
        (∀ s1, len ≠ 0 → s.rsRead n a len = .wait s1 → exec (.rsChunkDone e) s = .next s1) ∧
        (∀ t s1, len ≠ 0 → s.rsRead n a len = .trap t s1 → stops (exec (.rsChunkDone e) s) 4) ∧
        (∀ bs t s1 s2, len ≠ 0 → s.rsRead n a len = .ok bs s1 → s1.rsWrite n b bs = .trap t s2 → stops (exec (.rsChunkDone e) s) 4)) ∧
      (r.loading = true → loads (exec (.rsChunkDone e) s) s) ∧
      (r.loading = false → r.chunks[r.done]? = none → exec (.rsChunkDone e) s = .next (s.setRs n { r with st := 0 })))

/-- A soft or hard pre-emption is refused, with REFD set and nothing else changed, while the Headstock saves or restores, when no launch has the queue and sequence number, when it is not in RUN, when the debugger has stopped a tile of it, or when its records do not fit the save region; else REFD and TFAIL are clear, the launch (here one that is no coded operator) is marked, PRSTAT says saving for hard (0 still for soft: the model's choice, log entry 40), and no tile, byte of memory or other launch changes. A resumption is refused unless the launch is saved; else the launch is marked and PRSTAT says restoring. The end of a test slice does nothing for a cluster with none that is due; a pass removes the slice and may move only that cluster's pattern index (by how much is open: the model's free value, log entry 17); a failure takes the cluster's four tiles out of service and sets TFAIL; once no other slice of it is left the saved launch is gone. The routers of the cluster's tiles are OPEN (their slot tables empty: the model's choice, log entry 19). -/
def Obligations.Preemption : Prop :=
  (∀ (s : State) (q : BitVec 6) (n : BitVec 32) (hard : Bool) (i : Instr), i = (if hard then .prectlHard q n else .prectlSoft q n) →
    let refused := ({ s with pr := { s.pr with refd := true } } : State)
    (s.pr.st = 1 ∨ s.pr.st = 3 ∨ s.launchAt q.toNat n.toNat = none → exec i s = .next refused) ∧
    (∀ (k : Nat) (l : Launch), s.launchAt q.toNat n.toNat = some (k, l) → AMap.find? s.launches k = some l → l.opr = none →
      s.pr.st ≠ 1 → s.pr.st ≠ 3 →
      let held := ∃ g ∈ l.tiles, (s.tile g).dbg.stopped = true
      (l.st ≠ .run ∨ held ∨ s.saveFits k hard = false → exec i s = .next refused) ∧
      (l.st = .run → ¬ held → s.saveFits k hard = true → ∃ v : State, exec i s = .next v ∧
        v.pr = { st := b2n hard, refd := false, tfail := false } ∧ v.tiles = s.tiles ∧ v.mem = s.mem ∧
        AMap.find? v.launches k = some { l with preempt := 1 + b2n hard } ∧
        ∀ j, j ≠ k → AMap.find? v.launches j = AMap.find? s.launches j))) ∧
  (∀ (s : State) (q : BitVec 6) (n : BitVec 32),
    let i := Instr.prectlResume q n
    let refused := ({ s with pr := { s.pr with refd := true } } : State)
    (s.pr.st = 1 ∨ s.pr.st = 3 ∨ s.launchAt q.toNat n.toNat = none → exec i s = .next refused) ∧
    (∀ (k : Nat) (l : Launch), s.launchAt q.toNat n.toNat = some (k, l) → AMap.find? s.launches k = some l → l.opr = none →
      s.pr.st ≠ 1 → s.pr.st ≠ 3 →
      (l.st ≠ .saved → exec i s = .next refused) ∧
      (l.st = .saved → ∃ v : State, exec i s = .next v ∧ v.pr = { st := 3, refd := false, tfail := s.pr.tfail } ∧
        v.tiles = s.tiles ∧ v.mem = s.mem ∧ AMap.find? v.launches k = some { l with preempt := 3 } ∧
        ∀ j, j ≠ k → AMap.find? v.launches j = AMap.find? s.launches j))) ∧
  (∀ (s : State) (c : Nat),
    let due := fun (e : Nat × Launch) => e.2.slices.any (fun x => decide (x.1 = c) && decide (x.2 ≤ s.bedt))
    (List.find? due s.launches = none → ∀ p, exec (.testSliceEnd c p) s = .next s) ∧
    (∀ (k : Nat) (l : Launch), List.find? due s.launches = some (k, l) → AMap.find? s.launches k = some l → l.opr = none →
      let left := l.slices.filter (fun x => decide (x.1 ≠ c))
      let tested := fun (v : State) => (∀ j, j ≠ c → AMap.find? v.patterns j = AMap.find? s.patterns j) ∧
        ∀ i, i < 4 → AMap.find? v.slotTabs (4 * c + i) = none
      let out := fun (v : State) => ∀ i, i < 4 → (v.tile (4 * c + i)).oos = true
      (l.aborted = false ∨ left ≠ [] → ∃ v : State, exec (.testSliceEnd c true) s = .next v ∧ v.tiles = s.tiles ∧ v.mem = s.mem ∧ v.pr = s.pr ∧
        AMap.find? v.launches k = some { l with slices := left } ∧ tested v) ∧
      (l.aborted = true → left = [] → ∃ v : State, exec (.testSliceEnd c true) s = .next v ∧ v.pr = { s.pr with st := 0 } ∧
        AMap.find? v.launches k = none ∧ tested v) ∧
      (left ≠ [] → ∃ (v : State) (l' : Launch), exec (.testSliceEnd c false) s = .next v ∧ v.pr = { s.pr with tfail := true } ∧
        AMap.find? v.launches k = some l' ∧ l'.aborted = true ∧ l'.slices = left ∧ out v ∧ tested v) ∧
      (left = [] → ∃ v : State, exec (.testSliceEnd c false) s = .next v ∧ v.pr = { st := 0, refd := s.pr.refd, tfail := true } ∧
        AMap.find? v.launches k = none ∧ out v ∧ tested v)))

/-- A message fills an empty H2D buffer; with H2DF set it waits behind those that wait. Clearing D2HF brings in the oldest message that waits. DUTY takes six bits. HEAD of the error ring moves forward by no more than it holds; else a TYPE 7 record. OBJCMD at a home creates an absent object with a capacity of 1 to 2^24 or deletes one, of which the operations on their way then find no object; OBJSTAT is 0, 1 where it exists, 2 where it does not, 3 where the value is illegal. An answer with no request of its function and tag sends a TYPE 7 record. VAL: REFUSE gives the completion record STATUS 2 with the host's DETAIL; ACCEPT, once what the packet names is read, makes a launch in WAIT. FLT: RETRY resumes the frozen tile's queues but for those that another fault holds; END ends the fault's domain. DEC sets OPST from the answer (codes above 3 as UNCOR, CORR and DEGR by what was corrected and how few returned) while tasks are outstanding and none has come since the request. SCHED binds the launch at the origin and symmetry given, where they fit; WAIT leaves it. RETIRE under AGG takes a tile that no saved launch holds out of service (when bound, later), a die or a pool block; without AGG, and without an event logged under it, a TYPE 7 record. The places of an answer's fields in the message are the model's choice (log entry 31). -/
def Obligations.MailboxAndObjects : Prop :=
  (∀ (s : State) (m : BitVec 2048) (v : Word) (h : BitVec 32),
    let b := s.mbox
    let g := s.ring
    let box := fun (b : Mbox) => ({ s with mbox := b } : State)
    (b.h2df = true → exec (.mbctlH2df m) s = .next (box { b with h2dWait := b.h2dWait ++ [m] })) ∧
    (b.h2df = false → exec (.mbctlH2df m) s = .next (box { b with h2d := m, h2df := true })) ∧
    (b.d2hf = false → exec .mbctlD2hfClear s = .next s) ∧
    (b.d2hf = true → b.d2hWait = [] → exec .mbctlD2hfClear s = .next (box { b with d2hf := false })) ∧
    (∀ x r, b.d2hf = true → b.d2hWait = x :: r →
      exec .mbctlD2hfClear s = .next (box { b with d2h := x, d2hWait := r, msix := 65 :: b.msix })) ∧
    exec (.dutyWrite v) s = .next (box { b with duty := v.truncate 6 }) ∧
    exec (.errptrHeadWrite h) s = .next (if (h - g.head).toNat ≤ (g.tail - g.head).toNat then { s with ring := { g with head := h } }
      else s.sendRecord (ErrRec.ofType 7))) ∧
  (∀ (s : State) (home : BitVec 6) (v : Word) (i : Instr), i = .objcmdCreate home v ∨ i = .objcmdDelete home v →
    let x := v.toNat
    let num := x % 2 ^ 20
    let cap := x / 2 ^ 21 % 2 ^ 25
    let del := x / 2 ^ 20 % 2 = 1
    let key := num + home.toNat * 2 ^ 20
    let bad := 2 ^ 46 ≤ x ∨ num / 2 ^ 18 = 3 ∨ (¬ del ∧ (cap = 0 ∨ 2 ^ 24 < cap))
    let ends := fun (o : AMap Obj) (n : Nat) => exec i s = .next { s with objs := o, objstat := AMap.put s.objstat home.toNat n }
    (16 < home.toNat → exec i s = .next s) ∧
    (home.toNat ≤ 16 → (bad → ends s.objs 3) ∧
      (¬ bad → del → ((∃ o, AMap.find? s.objs key = some o) → ∃ net, exec i s = .next { s with objs := AMap.del s.objs key, objstat := AMap.put s.objstat home.toNat 0, net := net } ∧
        net = s.net.map (fun p => if (p.typ = .qpush ∨ p.typ = .qpop) ∧ p.addr % 2 ^ 26 = key ∧ p.dpkg = 0 then { p with objGone := true } else p)) ∧ (AMap.find? s.objs key = none → ends s.objs 2)) ∧
      (¬ bad → ¬ del → ((∃ o, AMap.find? s.objs key = some o) → ends s.objs 1) ∧
        (AMap.find? s.objs key = none → ends (AMap.put s.objs key { cap := cap, vals := [] }) 0)))) ∧
  (∀ (s : State) (tag : BitVec 32) (code : Byte) (pay : BitVec 1984), s.mbox.h2df = false →
    let req := fun (fn : Nat) => s.mbox.reqs.find? (fun x => decide (x.tag = tag.toNat) && decide (x.fn = fn))
    let at_ := fun (i n : Nat) => pay.toNat / 2 ^ (8 * i) % 2 ^ (8 * n)
    let s1 := ({ s with mbox := { s.mbox with reqs := s.mbox.reqs.filter (fun x => decide (x.tag ≠ tag.toNat)) } } : State)
    let stray := s.sendRecord (ErrRec.ofType 7)
    (∀ p ∈ ([(1, .valAnswer tag code pay), (2, .fltAnswer tag code pay), (3, .decAnswer tag code pay),
        (6, .schedAnswer tag code pay)] : List (Nat × Instr)), req p.1 = none → exec p.2 s = .next stray) ∧
    (∀ r : HostReq, req 1 = some r →
      let n := r.about
      let q := s.lqueue n
      let p := packetOf (r.data.take 128)
      let t0 := leAt r.data 128 8
      let record := completionBytes p.launchId q.head.toNat 2 (at_ 0 1) 0 0 0
      (code ≠ 0 → q.ringFull = true ∨ q.waiting ≠ [] → exec (.valAnswer tag code pay) s =
        .next { s1.setLqueue n { q with waiting := q.waiting ++ [(record, t0)] } with hfar := [] }) ∧
      (code ≠ 0 → q.ringFull = false → q.waiting = [] → exec (.valAnswer tag code pay) s =
        .next { s1.putRecord n record t0 with hfar := [] }) ∧
      (∀ nm s2, code = 0 → p.coded = false → s1.readNamed q.fw p = .ok nm s2 → ∃ (v : State) (l : Launch),
        exec (.valAnswer tag code pay) s = .next v ∧ AMap.find? v.launches s2.nextLaunch = some l ∧ l.st = .wait ∧ l.pkt = p ∧
        l.queue = n ∧ l.seq = q.head.toNat ∧ l.readAt = t0)) ∧
    (∀ (r : HostReq) (f : EngFault) (k : Nat) (l : Launch) (x : Region), req 2 = some r → (s.tile r.about).frozenFault = some f →
      (s.tile r.about).bound = some k → AMap.find? s.launches k = some l → l.regions[f.region]? = some x →
      (code = 0 → ∃ v : State, exec (.fltAnswer tag code pay) s = .next v ∧ v.mem = s.mem ∧ v.launches = s.launches ∧
        (∀ g, g ≠ r.about → v.tile g = s.tile g) ∧
        let old := s.tile r.about
        let t := v.tile r.about
        let left := old.faults.erase f
        let frozen := left.any (fun (x : EngFault) => x.frz)
        t.faults = left ∧ t.frz = (old.frz && frozen) ∧
        ∀ q, (t.queue q).stopped = ((old.queue q).stopped && (frozen || left.any (fun (x : EngFault) => decide (x.q = q)))) ∧
          (t.queue q).ents = (old.queue q).ents) ∧
      (code ≠ 0 → ∃ (v : State) (l' : Launch), exec (.fltAnswer tag code pay) s = .next v ∧ AMap.find? v.launches k = some l' ∧
        ∀ y ∈ l'.regions, y.dom = x.dom → y.ended = true)) ∧
    (∀ (r : HostReq) (d : OpDesc), req 3 = some r →
      let o := s.opr r.about
      let ost := at_ 0 1
      o.desc = some d → (o.outstanding d.tasks) ≠ [] →
      (o.st ≠ 1 ∨ o.posted = false → ∃ v : State, exec (.decAnswer tag code pay) s = .next v ∧ v.oprs = s.oprs ∧ v.mem = s.mem) ∧
      let asked := leAt r.data 4 4
      let wrong := fun (t : Nat) => at_ (8 + 4 * t) 4
      (o.st = 1 → o.posted = true → (∀ t ∈ o.arrived d.tasks, tbit asked t = true) → d.tasks ≤ 12 →
        (ost % 16 = 0 → ∃ bs s2, s1.hsRead (viaLaunch o.launch false) d.cva.toNat
          ((if d.outf = 1 then 10 else 16) * (d.k * d.mp * d.n)) = .ok bs s2 ∧ s2.oprs = s1.oprs) →
        ∃ v : State, exec (.decAnswer tag code pay) s = .next v ∧ (v.opr r.about).st = (if ost % 16 = 0 then 2 else 3) ∧
          (v.opr r.about).ost = (if ost % 16 = 0 then (if ((List.range d.tasks).map wrong).sum = 0 then 0 else 16) +
            (if ((List.range d.tasks).filter (tbit asked)).length < d.need then 32 else 0) else Nat.min (ost % 16) 3) ∧ (v.opr r.about).bas = at_ 2 2 % 4096 ∧ (v.opr r.about).posted = false ∧
          (∀ t, tbit (v.opr r.about).susp t = (tbit o.susp t || (decide (t < d.tasks) && decide (wrong t ≠ 0)))) ∧
          (v.opr r.about).ncor = o.ncor + (if ost % 16 = 0 then ((List.range d.tasks).map wrong).sum else 0) ∧
          (v.opr r.about).nsyn = o.nsyn + at_ 4 4 ∧
          (v.opr r.about).nsur = ((List.range d.tasks).filter (tbit asked)).length - d.k)) ∧
    (∀ (r : HostReq) (l : Launch), req 6 = some r → AMap.find? s.launches r.about = some l →
      let ox := at_ 0 2
      let oy := at_ 2 2
      let sym := at_ 4 1
      (code ≠ 0 → exec (.schedAnswer tag code pay) s = .next { s1 with hfar := [] }) ∧
      (code = 0 → s1.ready l false = false ∨ sym ∉ l.pkt.syms ∨ s1.fitAt l.pkt ox oy sym = none →
        exec (.schedAnswer tag code pay) s = .next { s1 with hfar := [] }) ∧
      (∀ ts, code = 0 → s1.ready l false = true → sym ∈ l.pkt.syms → (l.pkt.fixed = true → ox = l.pkt.ox ∧ oy = l.pkt.oy) →
        s1.fitAt l.pkt ox oy sym = some ts → l.slots = [] →
        ∃ (v : State) (l' : Launch), exec (.schedAnswer tag code pay) s = .next v ∧ AMap.find? v.launches r.about = some l' ∧
          l'.st = .run ∧ l'.originX = ox ∧ l'.originY = oy ∧ l'.sigma = sym ∧ l'.tiles = ts)) ∧
    (s.mbox.duty.getLsbD 4 = false → (∀ q ∈ (AMap.getD s.logs (at_ 0 1 * 4096 + at_ 4 4) (0, [])).2, q.agg = false) → exec (.retireAnswer tag code pay) s = .next stray) ∧
    (s.mbox.duty.getLsbD 4 = true → ∃ v : State, exec (.retireAnswer tag code pay) s = .next v ∧
      let inst := at_ 4 4
      (at_ 0 1 ≤ 2 → at_ 2 1 ≠ 4 → (∀ x ∈ s.launches, ∀ y ∈ x.2.saved, y.1 ≠ inst) → if (s.tile inst).bound.isNone then (v.tile inst).oos = true
        else (v.tile inst).oosLater = true ∧ (v.tile inst).oos = (s.tile inst).oos) ∧
      (at_ 0 1 = 7 → at_ 8 8 ≤ 16 → at_ 8 8 ∈ v.diesOut) ∧ (at_ 0 1 = 7 → 16 < at_ 8 8 → (7, at_ 8 8) ∈ v.retired)))

/-- Before the boot the host reads and writes nothing, in RECOVERY the mailbox alone. BAR0: an access that is not 8 aligned bytes of the 4 MiB is a Completer Abort. A read of a register of the Headstock (at its address) or of a Tailstock (at 0x20_0000 and 0x30_0000) that the host may read answers its value; an unassigned one 0; a word of the MSI-X table what was written there (log entry 107: the model's choice, as are the forms of the answers). When the package runs: LQCFG, TAIL, CRHEAD and ERRPTR act as those writes of the host; LQBASE and CRBASE of a queue that is off and ERRBASE of a ring that is off take PA[51:12], and nothing while on; DUTY takes six bits; a 64-bit word of H2D or D2H is replaced; MBCTL bit 0 sets H2DF, bit 1 clears D2HF, and 0 changes nothing; ERRCFG turns the ring on with a size, off when it is empty; a re-sharding engine's registers take their bits while it does not run, RSCTL acts as its events. Every other register, those the map gives the host to read only or not at all, and unassigned addresses are ignored. The management port reads and writes the same registers by their addresses, in RECOVERY too. BAR2: nothing before the package runs; beyond 768 GiB, of no byte or of more than 64, Completer Abort; else, inside one block of 64 bytes of HBM4E with no storage error, a read answers the bytes and a write stores them and changes nothing else but the states of the blocks; a read of an uncorrectable word is a Completer Abort. That a completion is coded 0 or 1 in front of its bytes is the model's form of it (log entry 29). -/
def Obligations.HostRegisters : Prop :=
  (∀ (s : State) (sa v : Word) (len : BitVec 7) (wr : Bool),
    let a := sa.toNat
    let i := Instr.sysregWrite ⟨.bar0, true, sa, 8⟩ v
    let tells := fun (u : State) (bs : List Byte) => Host.Outcome.next ({ u with mbox := { u.mbox with out := bs :: u.mbox.out } } : State)
    let reads := fun (w : Word) => exec (.sysregWrite ⟨.bar0, false, sa, 8⟩ v) s = tells s (0 :: leBytes 8 w.toNat)
    let hi : BitVec 32 := (v >>> 32).truncate 32
    let pg := v &&& 0xFFFFFFFFFF000
    let mail := 0x4000 ≤ a ∧ a ≤ 0x4200
    let tail := fun (n w : Nat) => a = 0x200000 + n * 0x100000 + 8 * w
    (s.fw.boot = 0 → exec (.sysregWrite ⟨.bar0, wr, sa, len⟩ v) s = .next s ∧ exec (.sysregWrite ⟨.mctp, wr, sa, len⟩ v) s = .next s) ∧
    (s.fw.boot ≠ 0 → len ≠ 8 ∨ a % 8 ≠ 0 ∨ 2 ^ 22 ≤ a → exec (.sysregWrite ⟨.bar0, wr, sa, len⟩ v) s = tells s [1]) ∧
    (s.fw.boot ≠ 0 → (sysRegOf a = none → exec (.sysregWrite ⟨.mctp, wr, sa, len⟩ v) s = tells s [1]) ∧
      (∀ r, sysRegOf a = some r → r.host ≠ .none → exec (.sysregWrite ⟨.mctp, false, sa, len⟩ v) s = tells s (0 :: leBytes 8 (s.sysRead r).toNat) ∧
        (r.host = .rw → exec (.sysregWrite ⟨.mctp, true, sa, len⟩ v) s = tells (s.sysWrite true r v) [0]) ∧
        (r.host = .ro → exec (.sysregWrite ⟨.mctp, true, sa, len⟩ v) s = tells s [0]))) ∧
    (s.fw.boot ≠ 0 → a % 8 = 0 → a < 2 ^ 22 →
      (s.fw.boot = 2 → ¬ mail → exec i s = .next s ∧ reads 0) ∧
      (a < 0x1F0000 → sysRegOf a = none → exec i s = .next s ∧ reads 0) ∧
      (0x1200 ≤ a → a < 0x4000 → exec i s = .next s) ∧ (0x4208 ≤ a → a < 0x1F0000 → exec i s = .next s) ∧
      (0x1F0420 ≤ a → ¬ (∃ n w, n < 2 ∧ w < 6 ∧ tail n w) → exec i s = .next s)) ∧
    (s.fw.boot = 1 →
      (a = 0x1400 → reads s.bedt) ∧ (a = 0x1100 → reads (s.mbox.duty.zeroExtend 64)) ∧
      (∀ n w, n < 2 → w < 6 → tail n w → reads ((s.rs n).sysReg w)) ∧
      (0x1F0000 ≤ a → a < 0x1F0420 → a % 8 = 0 → ∃ u : State, exec i s = .next u ∧ u = { s with mbox := { s.mbox with msixTab := u.mbox.msixTab } } ∧
        exec (.sysregWrite ⟨.bar0, false, sa, 8⟩ v) u = tells u (0 :: leBytes 8 v.toNat)) ∧
      (∀ n, n < 64 →
        let q := s.lqueue n
        let qn := BitVec.ofNat 6 n
        (a = 64 * n → exec i s = exec (.lqcfgWrite true qn v) s) ∧
        (a = 64 * n + 8 → exec i s = .next (if q.en then s else s.setLqueue n { q with base := pg })) ∧
        (a = 64 * n + 16 → exec i s = .next (if q.en then s else s.setLqueue n { q with crbase := pg })) ∧
        (a = 64 * n + 24 → exec i s = exec (.tailWrite true qn (v.truncate 32)) s) ∧
        (a = 64 * n + 32 → exec i s = exec (.crheadWrite qn hi) s)) ∧
      (a = 0x1000 →
        let g := s.ring
        let sz := v.toNat / 256 % 16
        let stray := s.sendRecord (ErrRec.ofType 7)
        exec i s = .next (if g.en then (if v.getLsbD 0 then s else if g.head = g.tail then { s with ring := { g with en := false } } else stray)
          else if v.getLsbD 0 = true ∧ sz < 4 then stray else { s with ring := { g with en := v.getLsbD 0, sz := sz } })) ∧
      (∀ e : BitVec 1, let n := e.toNat
        let r := s.rs n
        let at_ := tail n
        let set := fun (r' : Reshard) => exec i s = .next (if r.st = 1 then s else s.setRs n r')
        (at_ 0 → (v = 1 → exec i s = exec (.rsGo e) s) ∧ (v = 5 → exec i s = exec (.rsHostPlan e) s) ∧
          (v = 3 → r.host = false → exec i s = exec (.rsResume e) s) ∧ (v = 7 → r.host = true → exec i s = exec (.rsResume e) s) ∧
          (v = 8 → exec i s = exec (.rsPause e) s) ∧ (v = 16 → exec i s = exec (.rsAbort e) s)) ∧
        (at_ 1 → set { r with src := v &&& 0xFFFFFFFFFFFFF }) ∧ (at_ 2 → set { r with dst := v &&& 0xFFFFFFFFFFFFF }) ∧
        (at_ 3 → set { r with cur := v &&& 0xFFFFFFFFFFFFF }) ∧ (at_ 4 → set { r with plan := v &&& 0xFFFFFFFFFFFFF }) ∧
        (at_ 5 → set { r with pcnt := v &&& 0xFFFFFFFF })) ∧
      (a = 0x1008 → exec i s = .next (if s.ring.en then s else { s with ring := { s.ring with base := pg } })) ∧
      (a = 0x1010 → exec i s = exec (.errptrHeadWrite hi) s) ∧ (a = 0x1100 → exec i s = exec (.dutyWrite v) s)) ∧
    (s.fw.boot = 1 ∨ s.fw.boot = 2 →
      (∀ w, w < 32 → a = 0x4000 + 8 * w → ∃ u : State, exec i s = .next u ∧ u = { s with mbox := { s.mbox with h2d := u.mbox.h2d } } ∧
        ∀ j, j < 32 → u.mbox.h2d.toNat / 2 ^ (64 * j) % 2 ^ 64 = if j = w then v.toNat else s.mbox.h2d.toNat / 2 ^ (64 * j) % 2 ^ 64) ∧
      (∀ w, w < 32 → a = 0x4100 + 8 * w → ∃ u : State, exec i s = .next u ∧ u = { s with mbox := { s.mbox with d2h := u.mbox.d2h } } ∧
        ∀ j, j < 32 → u.mbox.d2h.toNat / 2 ^ (64 * j) % 2 ^ 64 = if j = w then v.toNat else s.mbox.d2h.toNat / 2 ^ (64 * j) % 2 ^ 64) ∧
      (a = 0x4200 → v = 0 → exec i s = .next s) ∧ (a = 0x4200 → v = 2 → exec i s = exec .mbctlD2hfClear s) ∧
      (a = 0x4200 → v = 1 → exec i s = .next { s with mbox := { s.mbox with h2df := true } }))) ∧
  (∀ (s : State) (w : Bool) (off : Nat) (len : BitVec 7) (data : BitVec 512),
    let n := len.toNat
    let i := Instr.bar2Access w off len data
    let tells := fun (bs : List Byte) => ({ s with mbox := { s.mbox with out := bs :: s.mbox.out } } : State)
    (s.fw.boot ≠ 1 → exec i s = .next s) ∧
    (s.fw.boot = 1 → (768 * 2 ^ 30 < off + n ∨ n = 0 ∨ 64 < n → exec i s = .next (tells [1])) ∧
      (off + n ≤ 768 * 2 ^ 30 → 0 < n → off % 64 + n ≤ 64 → ∀ st o, s.place off = .hbm st o →
        let key := 2 ^ 49 + st * 2 ^ 36 + o
        (s.clean → w = false → exec i s = .next (tells (0 :: s.mem.getN key n))) ∧
        (s.clean → w = true → ∃ b f, exec i s = .next { s with mem := s.mem.setN key (leBytes n data.toNat), blocks := b, free := f }) ∧
        (∀ x, s.bad = [x] → s.armed = [] → x.corr = false → x.mark = .home → overlap key n x.pa x.len = true → w = false → ∃ u : State,
          exec i s = .next u ∧ u.mbox.out = [1] :: s.mbox.out ∧ (s.ring.en = false → u.bad = s.bad)))))

/-- A package reset puts everything at its reset value but flash and slots; with no copy of the configuration record whose header and routes are valid, or no slot with an image that verifies and has an SVN of at least MINSVN, it ends in RECOVERY; else the record is applied (MCAP and service state of every tile, route tables; dies that do not come up are out of service), MR0 and MR1 are extended, and all four cores start at the image's first instruction with every register zero. FWCTL.GO starts an update when none runs and is ignored else. QUIESCE ends, and VERIFY begins, when no packet is in READ or VALID. VERIFY ends the update with result 2 for a staged image that cannot be read or does not verify, 3 for an SVN below MINSVN; else the image is put into the slot and MR2 extended; then, once every running core is at a boundary and no request of a core is on its way, the deadline is set 10 ms on and every core starts with g1 = HOVA; launches, tiles and memory go on. A changed FWHB before the deadline ends the update in the next bed cycle with result 1, ACT at the new slot (BOOT too if asked) and SVN its image's; at the deadline, no heartbeat heard and no request of a core on its way, the old image restarts with result 4, MR2 extended. The end of an update posts the requests that were held for it. The wait for boundaries and answers and the start state of the cores are the model's choice (log entry 32), as is every register but g1 zero (log entry 4). -/
def Obligations.FirmwareAndBoot : Prop :=
  (∀ (s : State),
    let f := { Fw.reset with flashA := s.fw.flashA, flashB := s.fw.flashB, slot0 := s.fw.slot0, slot1 := s.fw.slot1, bootSlot := s.fw.bootSlot,
                                initFails := s.fw.initFails }
    let valid := fun (c : CfgCopy) => headerOk 0x47434B4C c.header c.body = true ∧ c.fields.routed = true
    (s.fw.record = none ↔ ∀ c, s.fw.flashA = some c ∨ s.fw.flashB = some c → ¬ valid c) ∧
    (s.fw.record = none → exec .packageReset s =
      .next { State.reset with fw := { f with boot := 2 }, patterns := s.patterns, free := s.free }) ∧
    (∀ c, s.fw.record = some c → ∃ v : State, exec .packageReset s = .next v ∧ v.mem = [] ∧ v.launches = [] ∧ v.net = [] ∧
      v.fw.slot0 = s.fw.slot0 ∧ v.fw.slot1 = s.fw.slot1 ∧ v.fw.flashA = s.fw.flashA ∧ v.fw.flashB = s.fw.flashB ∧
      (s.fw.flashA = some c ∨ s.fw.flashB = some c) ∧ valid c ∧ v.fw.mr0 = extendMr 0 c.digest ∧ v.fw.mr2 = 0 ∧ v.bedt = 0 ∧
      (let dies := c.fields.oosSocks ++ s.fw.initFails
       v.fw.cfg = some { c.fields with oosSocks := dies } ∧ v.routes = AMap.getD c.fields.tables 0 [] ∧
       (∀ g, g < 256 → (v.tile g).mcap = AMap.getD c.fields.mcaps g 0 ∧ (v.tile g).bound = none ∧
        (v.tile g).oos = (c.fields.oosTiles.contains g || dies.contains (g / 16 + 1)))) ∧
      (s.fw.bootable c.fields.minsvn = none → v.fw.boot = 2 ∧ ∀ x ∈ v.cores.toList, x.stopped = true) ∧
      (∀ b i, s.fw.bootable c.fields.minsvn = some (b, i) → v.fw.boot = 1 ∧ v.fw.act = b ∧ v.fw.svn = i.svn ∧ v.fw.mr1 = extendMr 0 i.digest ∧
        ∀ x ∈ v.cores.toList, x.pc = 1 ∧ x.stopped = false ∧ x.atM = true ∧ x.intrap = false ∧ ∀ r, x.g r = 0))) ∧
  (∀ (s : State) (v : Word),
    let f := s.fw
    let put := fun (f : Fw) => ({ s with fw := f } : State)
    exec (.fwctlGo v) s = .next (if v.getLsbD 0 = true ∧ f.st = 0 then put { f with st := 1, result := 0, ctl := v } else s) ∧
    let ended := fun (o : Out) (u : State) (k : Nat) => ∃ w : State, o = .next w ∧ w.mem = u.mem ∧ w.tiles = u.tiles ∧ w.launches = u.launches ∧
      w.fw = { u.fw with st := 0, result := k, verified := false, beat := false } ∧
      w.mbox.reqHeld = [] ∧ w.mbox.reqs.length = u.mbox.reqs.length + u.mbox.reqHeld.length
    let pends := ∃ p ∈ s.net, ∃ n, p.src = .core n
    exec .quiesceEnd s = .next (if f.st = 1 ∧ s.reading = none ∧ (∀ r ∈ s.mbox.reqs, r.fn ≠ 1) then put { f with st := 2, verified := false }
      else s) ∧
    (f.st ≠ 2 → exec .verifyDone s = .next s) ∧
    (f.st ≠ 3 → exec (.fwhbHeartbeat v) s = .next (put { f with fwhb := v }) ∧ exec .heartbeatDeadline s = .next s) ∧
    (f.st = 3 → f.deadline ≤ s.bedt → exec (.fwhbHeartbeat v) s = .next s) ∧
    (f.st = 3 → s.bedt < f.deadline → exec .heartbeatDeadline s = .next s ∧
      exec (.fwhbHeartbeat v) s = .next (put { f with fwhb := v, beat := f.beat || decide (v ≠ f.beat0) })) ∧
    (f.st ≠ 3 ∨ f.beat = false → exec .bedCycle s = .next { s with bedt := s.bedt + 1 }) ∧
    (f.st = 3 → f.beat = true → exec .heartbeatDeadline s = .next s ∧
      ended (exec .bedCycle s) (put { f with
        act := f.ctl.getLsbD 1, svn := ((if f.ctl.getLsbD 1 then f.slot1 else f.slot0).map (fun (i : FwImage) => i.svn)).getD f.svn,
        bootSlot := if f.ctl.getLsbD 2 then f.ctl.getLsbD 1 else f.bootSlot }) 1 ∧
      ∃ w, exec .bedCycle s = .next w ∧ w.bedt = s.bedt + 1) ∧
    (f.st = 2 → f.verified = false → (∀ t u, s.staged = .trap t u → ended (exec .verifyDone s) u 2) ∧
      (∀ u, s.staged = .wait u → exec .verifyDone s = .next u) ∧
      ∀ i u, s.staged = .ok i u →
        let good := headerOk imageMagic i.header i.body
        (good = false → ended (exec .verifyDone s) u 2) ∧ (good = true → i.svn < u.fw.minsvn → ended (exec .verifyDone s) u 3) ∧
        (good = true → u.fw.minsvn ≤ i.svn → ∃ w : State, exec .verifyDone s = .next w ∧ w.fw.st = u.fw.st ∧ w.fw.verified = true ∧
          w.fw.mr2 = extendMr u.fw.mr2 i.digest ∧ w.fw.svn = u.fw.svn ∧ w.fw.act = u.fw.act ∧
          (if u.fw.ctl.getLsbD 1 then w.fw.slot1 else w.fw.slot0) = some i ∧
          (if u.fw.ctl.getLsbD 1 then w.fw.slot0 = u.fw.slot0 else w.fw.slot1 = u.fw.slot1) ∧
          w.mem = u.mem ∧ w.tiles = u.tiles ∧ w.launches = u.launches ∧ w.cores = u.cores)) ∧
    (f.st = 2 → f.verified = true → ∀ i, (if f.ctl.getLsbD 1 then f.slot1 else f.slot0) = some i →
      (pends ∨ (∃ x ∈ s.cores.toList, x.stopped = false ∧ (x.intrap = true ∨ x.pfx ≠ none ∨ x.obj ≠ none ∨ x.far ≠ [])) →
        exec .verifyDone s = .next s) ∧
      (¬ pends → (∀ x ∈ s.cores.toList, x.stopped = false → x.intrap = false ∧ x.pfx = none ∧ x.obj = none ∧ x.far = [] ∧ x.ffar = []) →
        ∃ w : State, exec .verifyDone s = .next w ∧ w.fw.st = 3 ∧ w.fw.act = f.act ∧ w.fw.deadline = s.bedt + 20000000 ∧ w.fw.beat0 = f.fwhb ∧
          w.fw.beat = false ∧ w.fw.mr2 = f.mr2 ∧ w.fw.svn = f.svn ∧ w.fw.slot0 = f.slot0 ∧ w.fw.slot1 = f.slot1 ∧
          w.mem = s.mem ∧ w.tiles = s.tiles ∧ w.launches = s.launches ∧
          ∀ x ∈ w.cores.toList, x.pc = 1 ∧ x.stopped = false ∧ x.g 1 = f.hova)) ∧
    (f.st = 3 → f.beat = false → f.deadline ≤ s.bedt →
      let old := if f.act then f.slot1 else f.slot0
      (pends → exec .heartbeatDeadline s = .next s) ∧ (¬ pends → old = none → ended (exec .heartbeatDeadline s) s 4) ∧
      (¬ pends → ∀ i, old = some i → ∃ w : State, exec .heartbeatDeadline s = .next w ∧
        w.fw.st = 0 ∧ w.fw.result = 4 ∧ w.fw.act = f.act ∧ w.fw.svn = f.svn ∧ w.fw.mr2 = extendMr f.mr2 i.digest ∧ w.mem = s.mem ∧
        w.tiles = s.tiles ∧ w.launches = s.launches ∧ w.mbox.reqHeld = [] ∧ ∀ x ∈ w.cores.toList, x.pc = 1 ∧ x.stopped = false ∧ x.g 1 = f.hova)))

/-- Before the boot nothing answers. After it, and in RECOVERY, each SPDM, DOE-discovery or MCTP control request appends one answer and changes nothing else (a signed one uses up a nonce): version 1.3; capabilities, whose sizes are open; the algorithms; the SHA-512 digest of the certificate chain; the part of the chain asked for with what remains; CHALLENGE and measurements signed over the request's nonce and the answer; measurement 1 to 3 gives MR0 to MR2, 0xFF all three, 0 their number; another index, and an unsupported request, an error. The byte layouts of the answers are those of DSP0274 and PCIe DOE, not the spec's (log entry 33), and an MCTP control answer is the model's free value (log entry 18). -/
def Obligations.Attestation : Prop :=
  ∀ (s : State),
    let tells := fun (i : Instr) (bs : List Byte) => exec i s = .next { s with mbox := { s.mbox with out := bs :: s.mbox.out } }
    let signs := fun (i : Instr) (n : BitVec 256) (head : List Byte) => ∃ own : List Byte, own.length = 32 ∧
      let body := head ++ own ++ [0, 0]
      let m := { s.mbox with out := (body ++ Config.deviceSign (leBytes 32 n.toNat ++ body)) :: s.mbox.out }
      exec i s = .next { s with free := s.free + 1, mbox := m }
    let c := s.certs
    let block := fun (i : Nat) (mr : BitVec 512) => leBytes 1 i ++ [1, 67, 0, 1, 64, 0] ++ leBytes 64 mr.toNat
    let blocks := [block 1 s.fw.mr0, block 2 s.fw.mr1, block 3 s.fw.mr2]
    let measures := fun (ix : Byte) (n : BitVec 256) (k : Byte) (bs : List (List Byte)) =>
      signs (.spdmGetMeasurements ix n) n ([0x13, 0x60, k, 0] ++ leBytes 1 bs.length ++ leBytes 3 (bs.flatten).length ++ bs.flatten)
    ∀ (off len : BitVec 16) (n : BitVec 256) (ix code cmd : Byte) (data : BitVec 256),
      (s.fw.boot = 0 → exec .spdmGetVersion s = .next s ∧ exec .spdmGetCapabilities s = .next s ∧ exec .spdmNegotiateAlgorithms s = .next s ∧
        exec .spdmGetDigests s = .next s ∧ exec (.spdmGetCertificate off len) s = .next s ∧ exec (.spdmUnsupported code) s = .next s ∧
        exec (.doeDiscovery ix) s = .next s ∧ exec (.mctpControl cmd data) s = .next s ∧ exec (.spdmChallenge n) s = .next s ∧
        exec (.spdmGetMeasurements ix n) s = .next s) ∧
      (s.fw.boot ≠ 0 →
        tells .spdmGetVersion [0x10, 0x04, 0, 0, 0, 1, 0, 0x13] ∧
        (∃ x y z : Nat, tells .spdmGetCapabilities
          ([0x13, 0x61, 0, 0, 0] ++ leBytes 1 x ++ [0, 0, 0x16, 0, 0, 0] ++ leBytes 4 y ++ leBytes 4 z)) ∧
        tells .spdmNegotiateAlgorithms ([0x13, 0x63, 0, 0, 36, 0, 1, 0, 8, 0, 0, 0, 0, 4, 0, 0, 4, 0, 0, 0] ++ List.replicate 16 0) ∧
        tells .spdmGetDigests ([0x13, 0x01, 0, 1] ++ sha512 c) ∧
        (let part := (c.drop off.toNat).take len.toNat
         tells (.spdmGetCertificate off len)
           ([0x13, 0x02, 0, 0] ++ leBytes 2 part.length ++ leBytes 2 (c.length - off.toNat - part.length) ++ part)) ∧
        tells (.spdmUnsupported code) [0x13, 0x7F, 0x07, code] ∧ tells (.mctpControl cmd data) (Config.mctpControl cmd (leBytes 32 data.toNat)) ∧
        tells (.doeDiscovery 0) [1, 0, 0, 1] ∧ tells (.doeDiscovery 1) [1, 0, 1, 0] ∧
        signs (.spdmChallenge n) n ([0x13, 0x03, 0, 1] ++ sha512 c) ∧
        measures 0 n 3 [] ∧ measures 0xFF n 0 blocks ∧ measures 1 n 0 [block 1 s.fw.mr0] ∧ measures 2 n 0 [block 2 s.fw.mr1] ∧
        measures 3 n 0 [block 3 s.fw.mr2] ∧
        (3 < ix.toNat → ix ≠ 0xFF → tells (.spdmGetMeasurements ix n) [0x13, 0x7F, 0x01, 0]))

/-- While a firmware update runs a request is held. With no answer or write of the Headstock on its way: a request with a bad field or argument is BADARG; with no such launch, or one not in RUN, NOLAUNCH; of a saved or hard pre-empted launch, or one with a stop pending, BUSY; it changes no tile. STOP with no begun command stops its tiles at once and answers, leaving other tiles (no ALL) and memory; with a BEDT value the stop is pending until then. RUN and STEP of a tile that is not stopped are refused; else its tiles wait for a ramp slot, STEP with the count. ARM: an entry with V takes its place, another leaves what stands there, or nothing under CLR (log entry 105, the model's choice). DUMP of a stopped tile writes its record. TRACE and CNT set their areas, in any memory (log entry 72, the model's choice); in HBM4E of this package CNT zeroes what the area does not list, with CLEAR all of it. A pending stop, an armed address, an armed entry and a stop under ALL stop the tile, where no command is begun, with their trigger. A sweep adds each counter's advance to its total; once every unit has swept, SWEEPS rises by one and LAST is BEDT. The order of these checks is the model's reading (log entry 44). -/
def Obligations.Debug : Prop :=
  (∀ (s : State) (r : DbgReq), s.mbox.h2df = false →
    let ops : List (Nat × Instr) := [(1, .dbgStop r), (2, .dbgRun r), (3, .dbgStep r), (4, .dbgArm r), (5, .dbgDump r), (6, .dbgTrace r), (7, .dbgCnt r)]
    (s.fw.st ≠ 0 → ∀ p ∈ ops, exec p.2 s = .next { s with mbox := { s.mbox with dbgHeld := s.mbox.dbgHeld ++ [(p.1, r)] } }) ∧
    (s.fw.st = 0 → s.mbox.d2hf = false → s.trace.stops = [] → s.hsPosted = false →
      let answers := fun (v : State) (c : Nat) => v.mbox.d2hf = true ∧ v.mbox.d2h = BitVec.ofNat 2048 (8 + 256 * c + 2 ^ 32 * r.tag.toNat)
      let refused := fun (i : Instr) (c : Nat) => ∃ v : State, exec i s = .next v ∧ answers v c ∧ v.tiles = s.tiles ∧ v.mem = s.mem ∧ v.trace = s.trace
      let zero := r.arg2 = 0 ∧ r.noArms = true
      let pa := r.arg0.toNat
      let n := r.arg1.toNat
      let okStop := r.arg1 = 0 ∧ zero
      let okRun := r.arg0 = 0 ∧ r.arg1 = 0 ∧ zero
      let okStep := r.arg0 ≠ 0 ∧ pa < 2 ^ 32 ∧ r.arg1 = 0 ∧ zero
      let okArm := pa ≤ 1 ∧ r.arg1 = 0 ∧ r.arg2 = 0 ∧ r.badArms = false
      let okDump := pa % 64 = 0 ∧ s.inHbm pa = true ∧ n < 1024 ∧ r.ltn0 = r.ltn1 ∧ zero
      let okTrace := r.malformed = false ∧ r.noTarget = true ∧ 8 ≤ n ∧ n ≤ 20 ∧ pa % 4096 = 0 ∧ zero
      let okCnt := r.malformed = false ∧ r.noTarget = true ∧ r.arg2.toNat ≤ 1 ∧ r.noArms = true ∧ 100 ≤ n ∧ n ≤ 1000 ∧ pa % 4096 = 0
      let aimed := r.malformed = false ∧ r.ltn0 ≤ r.ltn1
      let five : List (Instr × Prop) := [(.dbgStop r, okStop), (.dbgRun r, okRun), (.dbgStep r, okStep), (.dbgArm r, okArm), (.dbgDump r, okDump)]
      (∀ p ∈ five, (¬ (p.2 ∧ aimed) → refused p.1 4) ∧
        (p.2 → aimed → (s.launchAt r.queue.toNat r.seq.toNat = none → refused p.1 1) ∧
          ∀ k l, s.launchAt r.queue.toNat r.seq.toNat = some (k, l) →
            let busy := l.st = .saved ∨ l.preempt = 2 ∨ l.preempt = 3
            let due := ∃ g ∈ l.tiles, (s.tile g).dbg.stopAt ≠ none ∨ (s.tile g).dbg.allDue = true
            (busy → refused p.1 3) ∧ (¬ busy → l.st ≠ .run → refused p.1 1) ∧ (¬ busy → l.st = .run → due → refused p.1 3) ∧
            (¬ busy → l.st = .run → ¬ due → l.tiles.length ≤ r.ltn1.toNat → refused p.1 4))) ∧
      (∀ k l gs, s.dbgTargets r true = .ok (k, l, gs) → gs ≠ [] ∧
        (okStop → r.arg0 = 0 → (∀ g ∈ gs, ∀ q, ∀ en ∈ ((s.tile g).queue q).ents, en.st ≠ .begun) → ∃ v : State, exec (.dbgStop r) s = .next v ∧
          (∀ g ∈ gs, (v.tile g).dbg.stopped = true) ∧
          (s.trace.on = false → answers v 0 ∧ v.mem = s.mem ∧ (r.all = false → ∀ g, g ∉ gs → v.tile g = s.tile g))) ∧
        (okStop → r.arg0 ≠ 0 → ∃ v : State, exec (.dbgStop r) s = .next v ∧ v.mem = s.mem ∧
          (∀ g ∈ gs, (v.tile g).dbg.stopped = (s.tile g).dbg.stopped ∧ ((s.tile g).dbg.stopped = false → (v.tile g).dbg.stopAt = some r.arg0)) ∧
          ∀ g, g ∉ gs → v.tile g = s.tile g) ∧
        (∀ p ∈ ([(.dbgRun r, okRun, none), (.dbgStep r, okStep, some pa)] : List (Instr × Prop × Option Nat)), p.2.1 →
          ((∃ g ∈ gs, (s.tile g).dbg.stopped = false) → refused p.1 2) ∧
          ((∀ g ∈ gs, (s.tile g).dbg.stopped = true ∧ (s.tile g).dbg.restart = false) → ∃ v : State, exec p.1 s = .next v ∧ v.mem = s.mem ∧
            (∀ g ∈ gs, (v.tile g).dbg.restart = true ∧ (v.tile g).dbg.stopped = true ∧ (v.tile g).tcc.stepLeft = p.2.2 ∧
              ∃ x ∈ v.gov.pending, x.tile = g) ∧ ∀ g, g ∉ gs → v.tile g = s.tile g)) ∧
        (okArm → ∃ v : State, exec (.dbgArm r) s = .next v ∧ answers v 0 ∧ v.mem = s.mem ∧ (∀ g, g ∉ gs → v.tile g = s.tile g) ∧
          ∀ g ∈ gs,
            let old := (s.tile g).dbg
            let d := (v.tile g).dbg
            let keeps := fun (α : Type) (l : List (Option α)) (i : Nat) => if pa = 1 then none else (l[i]?).join
            v.tile g = { s.tile g with dbg := d } ∧ { d with allArm := old.allArm, codes := old.codes, addrs := old.addrs, watch := old.watch } = old ∧
            d.allArm = r.all ∧ d.codes.length = r.codes.length ∧ d.addrs.length = r.addrs.length ∧
            (∀ (i : Nat) (c : BitVec 16), r.codes[i]? = some c → d.codes[i]? = some (if c.getLsbD 15 then some (c.truncate 12) else keeps (BitVec 12) old.codes i)) ∧
            (∀ (i : Nat) (a : Word), r.addrs[i]? = some a → d.addrs[i]? = some (if a.getLsbD 63 then some a else keeps Word old.addrs i)) ∧
            d.watch = (if r.watch.getLsbD 63 then some (r.watch &&& 0x7FFFFFFFFFFFFFFF) else if pa = 1 then none else old.watch)) ∧
        (∀ g, okDump → gs = [g] → ((s.tile g).dbg.stopped = false → refused (.dbgDump r) 2) ∧
          (∀ u, (s.tile g).dbg.stopped = true → s.hsWrite viaPa pa (s.saveRecord l g 3 n) = .ok () u → u.mbox = s.mbox → u.hsPosted = false →
            ∃ v : State, exec (.dbgDump r) s = .next v ∧ answers v 0 ∧ v.mem = u.mem ∧ v.tiles = u.tiles))) ∧
      (¬ okTrace → refused (.dbgTrace r) 4) ∧
      (okTrace → ∃ v : State, exec (.dbgTrace r) s = .next v ∧ answers v 0 ∧ v.tiles = s.tiles ∧ v.mem = s.mem ∧
        v.trace = (if pa = 0 then { s.trace with on := false } else { s.trace with on := true, pa := pa, sz := n, n := 0 })) ∧
      (¬ okCnt → refused (.dbgCnt r) 4) ∧
      (okCnt → ∃ v : State, exec (.dbgCnt r) s = .next v ∧ v.trace.cntOn = decide (pa ≠ 0) ∧
        (pa = 0 → answers v 0 ∧ v.tiles = s.tiles ∧ v.mem = s.mem) ∧
        (pa ≠ 0 → v.trace.cntPa = pa ∧ v.trace.period = n ∧ v.trace.swept = s.bedt ∧ v.trace.sweeps = []) ∧
        (pa ≠ 0 → s.bad = [] → s.mem.wf = true → (∀ o, o < 0x90000 → ∃ st off, s.place (pa + o) = .hbm st off) →
          answers v 0 ∧ v.tiles = s.tiles ∧
          (∀ o, o < 0x90000 → r.arg2 = 1 ∨ (0x10 ≤ o ∧ o < 0x40) ∨ (0x120 ≤ o ∧ o < 0x1000) → v.mem.get (s.place (pa + o)).key = 0))))) ∧
  (∀ (s : State) (g : Nat) (q : Q), s.trace.stops = [] →
    let t := s.tile g
    let d := t.dbg
    let calm := ∀ q, ∀ en ∈ (t.queue q).ents, en.st ≠ .begun
    (d.stopAt = none → exec (.dbgTimedStop g) s = .next s) ∧
    (∀ a, d.stopAt = some a → (s.bedt < a → exec (.dbgTimedStop g) s = .next s) ∧
      (a ≤ s.bedt → calm → ∃ v : State, exec (.dbgTimedStop g) s = .next v ∧ (v.tile g).dbg.stopped = true ∧ (v.tile g).dbg.stopAt = none)) ∧
    (d.allDue = false → exec (.allStopPropagate g) s = .next s) ∧
    (d.allDue = true → d.stopped = false → calm → ∃ v : State, exec (.allStopPropagate g) s = .next v ∧ (v.tile g).dbg.stopped = true ∧
      (v.tile g).dbg.allDue = false ∧ (v.tile g).dbg.trigger = 5) ∧
    (let at_ := t.tcc.pfx = none ∧ t.tcc.waiting = false ∧ t.tcc.ffar = [] ∧ d.passAddr ≠ some t.tcc.pc ∧
       ∃ a, some a ∈ d.addrs ∧ a.toNat % 2 ^ 28 = t.tcc.pc.toNat ∧ a.toNat / 2 ^ 28 % 2 ^ 16 = t.tcc.img.toNat
     let hit := (t.cont.isSome = true ∨ t.tcc.intrap = true) ∧ d.stopped = false ∧ at_
     (¬ hit → exec (.addressBreakpointStop g) s = .next s) ∧
     (hit → calm → ∃ v : State, exec (.addressBreakpointStop g) s = .next v ∧ (v.tile g).dbg.stopped = true ∧ (v.tile g).dbg.trigger = 2 ∧
       (v.tile g).dbg.passAddr = some t.tcc.pc ∧ (v.tile g).tcc.pc = t.tcc.pc)) ∧
    ((t.queue q).headEnt = none → exec (.entryWatchStop g q) s = .next s) ∧
    (∀ en, (t.queue q).headEnt = some en →
      let name : Word := BitVec.ofNat 64 (en.isn.toNat % 2 ^ 32 + q.code * 2 ^ 32 + g % 16 * 2 ^ 36 + (g / 16 + 1) * 2 ^ 40)
      let hit := en.st = .waiting ∧ t.qRuns q = true ∧ d.watch = some name ∧ d.passEntry ≠ some name
      (¬ hit → exec (.entryWatchStop g q) s = .next s) ∧
      (hit → calm → ∃ v : State, exec (.entryWatchStop g q) s = .next v ∧ (v.tile g).dbg.stopped = true ∧ (v.tile g).dbg.trigger = 3 ∧
        (v.tile g).dbg.passEntry = some name ∧ (v.tile g).queue q = t.queue q))) ∧
  (∀ (s : State) (u : Nat),
    let key := fun (o : Nat) => (s.place (s.trace.cntPa + o)).key
    let here := s.clean ∧ s.mem.wf = true ∧ (∀ o, o < 0x90000 → ∃ st off, s.place (s.trace.cntPa + o) = .hbm st off) ∧
      (∀ j, j < 16 → key j = key 0 + j) ∧ (∀ o j, o < 0x90000 → o % 8 = 0 → j < 8 → key (o + j) = key o + j) ∧
      (∀ o p, o < 0x90000 → p < 0x90000 → key o = key p → o = p)
    (s.sweepDue u = false → s.headDue = false → exec (.counterSweep u) s = .next s) ∧
    (s.sweepDue u = false → s.headDue = true → here → ∃ v : State, exec (.counterSweep u) s = .next v ∧ v.trace.headed = s.trace.headed + 1 ∧
      v.mem = s.mem.setN (key 0) (leBytes 8 (ofBytes (s.mem.getN (key 0) 8) + 1) ++ leBytes 8 s.bedt.toNat)) ∧
    (s.sweepDue u = true → s.hsPosted = false → AMap.getD s.trace.swAt u 0 = 0 → here → ((s.counters u).map (fun c => c.1)).Nodup →
      ∃ v : State, exec (.counterSweep u) s = .next v ∧ AMap.getD v.trace.sweeps u 0 = AMap.getD s.trace.sweeps u 0 + 1 ∧
        ∀ c ∈ s.counters u, AMap.getD v.trace.last c.1 0 = c.2 ∧
          ofBytes (v.mem.getN (key c.1) 8) = (ofBytes (s.mem.getN (key c.1) 8) + (c.2 - AMap.getD s.trace.last c.1 0).toNat) % 2 ^ 64))

/-- A bed cycle advances BEDT by one and, but for an update that a heartbeat ends, changes nothing else. On a multiple of 2,000 the TICK latch of every core and listed tile is set and no other latch changes; else nothing happens. A core cycle of a die advances SCC of each of its tiles but a frozen or stopped one or one that hard pre-emption holds, counts the cycles it has been stalled on capacity, advances the counter of what its control core does, and changes no register, byte of memory or other die. Off a slot boundary a ramp slot does nothing; on the first visit of one a pending GOVCFG takes effect, at most GS single starts are granted, oldest first, the others stay pending, a later visit of the same boundary grants what is left of its GS, and where no more than GS tiles run ballast none that began before does any longer. A write of GOVCFG outside 50 to 2,000 is ignored, its BALEN too (the model's choice, log entry 58); it acts at once with no start pending, and at the next boundary else. -/
def Obligations.TimeAndGovernor : Prop :=
  (∀ (s : State) (w : Word),
    (s.fw.st ≠ 3 ∨ s.fw.beat = false → exec .bedCycle s = .next { s with bedt := s.bedt + 1 }) ∧
    (s.bedt.toNat % 2000 ≠ 0 → exec .tick s = .next s) ∧
    (s.bedt.toNat % 2000 = 0 → ∃ v : State, exec .tick s = .next v ∧ v = { s with tiles := v.tiles, cores := v.cores } ∧
      let rings := fun (c d : Tcc) => d = { c with latches := d.latches } ∧ ∀ j : Nat, d.latches.getLsbD j = (decide (j = 5) || c.latches.getLsbD j)
      (∀ n, (h : n < 4) → rings s.cores[n] v.cores[n]) ∧
      (∀ g, AMap.find? s.tiles g ≠ none → rings (s.tile g).tcc (v.tile g).tcc ∧ { v.tile g with tcc := (s.tile g).tcc } = s.tile g)) ∧
    (let rate := w.toNat % 2048
     let b := w.getLsbD 19
     (rate < 50 ∨ 2000 < rate → exec (.govcfgWrite w) s = .next s) ∧
     (50 ≤ rate → rate ≤ 2000 → exec (.govcfgWrite w) s = .next { s with gov :=
       if s.gov.pending = [] then { s.gov with rate := rate, balen := b } else { s.gov with next := some (rate, b) } })) ∧
    (s.bedt.toNat % 500 ≠ 0 → exec .rampSlot s = .next s) ∧
    (s.bedt.toNat % 500 = 0 → s.gov.slot = s.bedt.toNat / 500 → (∀ p ∈ s.gov.pending, p.group = none ∧ p.ends = []) → ∃ v : State,
      exec .rampSlot s = .next v ∧
      let room := Nat.max 1 (s.gov.rate / (4 * Nat.max 1 s.gov.itile)) - s.gov.used
      v.gov.rate = s.gov.rate ∧ v.gov.next = s.gov.next ∧ v.gov.slot = s.gov.slot ∧ v.gov.pending = s.gov.pending.drop room ∧
      v.gov.used = s.gov.used + Nat.min room s.gov.pending.length ∧ (∀ p ∈ s.gov.pending.take room, (v.tile p.tile).gated = false)) ∧
    (s.bedt.toNat % 500 = 0 → s.gov.slot ≠ s.bedt.toNat / 500 → (∀ p ∈ s.gov.pending, p.group = none ∧ p.ends = []) → ∃ v : State,
      exec .rampSlot s = .next v ∧
      let rate := match s.gov.next with
        | some x => x.1
        | none => s.gov.rate
      let gs := Nat.max 1 (rate / (4 * Nat.max 1 s.gov.itile))
      v.gov.rate = rate ∧ v.gov.next = none ∧ v.gov.slot = s.bedt.toNat / 500 ∧ v.gov.pending = s.gov.pending.drop gs ∧
      v.gov.used = Nat.min gs s.gov.pending.length ∧ (∀ p ∈ s.gov.pending.take gs, (v.tile p.tile).gated = false) ∧
      let due := fun (t : Tile) => ∃ b, t.ballast = some b ∧ b < s.bedt
      ((s.tiles.filter (fun e => e.2.ballast.any (fun b => decide (b < s.bedt)))).length ≤ gs → ∀ g, ¬ due (v.tile g)))) ∧
  (∀ (s : State) (die : Nat), (die = 0 ∨ 16 < die → exec (.coreCycle die) s = .next s) ∧
    (0 < die → die ≤ 16 → ∃ v : State, exec (.coreCycle die) s = .next v ∧ v.mem = s.mem ∧ v.cores = s.cores ∧ v.launches = s.launches ∧
      ∀ g, (g / 16 + 1 ≠ die → v.tile g = s.tile g) ∧
        (g / 16 + 1 = die → ((s.tile g).dbg.stopped = true → v.tile g = s.tile g) ∧
          ((s.tile g).dbg.stopped = false →
            let t := s.tile g
            let u := v.tile g
            u.scc = (if t.frz = true ∨ s.hardHeld g = true then t.scc else t.scc + 1) ∧ u.stall = (if s.stalls g then t.stall + 1 else 0) ∧
            { u with scc := t.scc, stall := t.stall, counters := t.counters } = t ∧
            ∀ c ∈ t.tccClass, AMap.getD u.counters c 0 = AMap.getD t.counters c 0 + 1 + (if 32 ≤ c then 0 else
              BitVec.ofNat 32 (([Q.l, Q.x, Q.s].filter (fun q => decide (s.headClass g q = 2) && (t.tokenCounters q).contains c)).length))))))

/-- TAIL of an enabled queue not owned by the device moves forward, never beyond ENTRIES past HEAD; any other write sends a TYPE 7 record. CRHEAD moves forward no further than CRTAIL, else a TYPE 7 record; with room again the records that wait are written. LQCFG: EN = 1 on an enabled queue is ignored; EN = 0 turns an idle one off, and one with work sends a TYPE 7 record; on a queue that is off the fields are written (FW not by the host; no queue comes on in RECOVERY), but EN = 1 with a size outside 4 to 15 sends a TYPE 7 record. A packet is read only from the queue whose turn it is: HEAD advances; one that cannot be read, or is malformed, gives STATUS 2 with DETAIL 1; under DUTY VAL it is posted to the host; one whose structures cannot be read gives DETAIL 1 (the model's choice, log entry 42); one that fails a check of R369 gives that check's DETAIL; an operator that is refused gives DETAIL 7 with its OST; a good one becomes a launch in WAIT, with its descriptor where it is a coded operator. A refusal's record goes to the ring, or waits behind others or for room. A read from another package that has not been answered leaves the packet unread, and the queue in READ. LAUNCHID of an unreadable packet is a free value (log entry 17). -/
def Obligations.LaunchQueues : Prop :=
  (∀ (s : State) (qn : BitVec 6) (host : Bool) (x : BitVec 32) (v : Word),
    let n := qn.toNat
    let q := s.lqueue n
    let bad := s.sendRecord (ErrRec.ofType 7)
    let sized := fun (lo : Nat) => 4 ≤ v.toNat / 2 ^ lo % 16
    let fits := sized 8 ∧ sized 12
    (if q.cfg.getLsbD 0 = true ∧ q.cfg.getLsbD 1 = false ∧ (x - q.tail).toNat < 2 ^ 31 ∧ (x - q.head).toNat ≤ q.entries then
      exec (.tailWrite host qn x) s = .next (s.setLqueue n { q with tail := x })
     else exec (.tailWrite host qn x) s = .next bad) ∧
    ((q.crtail - q.crhead).toNat < (x - q.crhead).toNat → exec (.crheadWrite qn x) s = .next bad) ∧
    ((x - q.crhead).toNat ≤ (q.crtail - q.crhead).toNat →
      (q.waiting = [] ∨ q.records ≤ (q.crtail - x).toNat → exec (.crheadWrite qn x) s = .next (s.setLqueue n { q with crhead := x })) ∧
      (∀ r, q.waiting = [r] → (q.crtail - x).toNat < q.records → ∃ u : State, exec (.crheadWrite qn x) s = .next u ∧
        u.lqueue n = { q with crhead := x, waiting := [], crtail := q.crtail + 1 } ∧ n ∈ u.mbox.msix)) ∧
    (q.cfg.getLsbD 0 = true →
      (v.getLsbD 0 = true → exec (.lqcfgWrite host qn v) s = .next s) ∧
      (v.getLsbD 0 = false → s.queueIdle n = false → exec (.lqcfgWrite host qn v) s = .next bad) ∧
      (v.getLsbD 0 = false → s.queueIdle n = true →
        exec (.lqcfgWrite host qn v) s = .next (s.setLqueue n { q with cfg := q.cfg &&& 0xFFFFFFFFFFFFFFFE }))) ∧
    (q.cfg.getLsbD 0 = false →
      (v.getLsbD 0 = true → ¬ fits → exec (.lqcfgWrite host qn v) s = .next bad) ∧
      ((v.getLsbD 0 = true → fits) → ∃ c : Word, exec (.lqcfgWrite host qn v) s = .next (s.setLqueue n { q with cfg := c }) ∧
        ∀ j : Nat, j < 64 → c.getLsbD j = (if j = 0 then v.getLsbD 0 && decide (s.fw.boot ≠ 2) else if j = 2 ∧ host = true then q.cfg.getLsbD 2
          else if j = 1 ∨ j = 2 ∨ (8 ≤ j ∧ j ≤ 15) then v.getLsbD j else false)))) ∧
  (∀ (s : State) (qn : BitVec 6),
    let n := qn.toNat
    let q := s.lqueue n
    let seq := (q.head + 1).toNat
    (s.nextQueue ≠ some n → exec (.launchPacketRead qn) s = .next s) ∧
    (s.nextQueue = some n →
      let got := s.hsRead viaPa (q.base.toNat + 128 * (q.head.toNat % q.entries)) 128
      let read := fun (u : State) => ({ u.setLqueue n { q with head := q.head + 1 } with rrQueue := n, reading := none, reads := u.reads + 1 } : State)
      let refused := fun (u0 : State) (id t0 d ost : Nat) =>
        let u := if d = 7 then u0.opCount 24 1 else u0
        let late := u.lqueue n
        let rec0 := completionBytes id seq 2 d ost 0 0
        (late.ringFull = true ∨ late.waiting ≠ [] → exec (.launchPacketRead qn) s = .next { u.setLqueue n { late with
          waiting := late.waiting ++ [(rec0, t0)] } with hfar := [] }) ∧
        (late.ringFull = false → late.waiting = [] → exec (.launchPacketRead qn) s = .next { u.putRecord n rec0 t0 with hfar := [] })
      let again := fun (z : State) => exec (.launchPacketRead qn) s =
        .next { z.setLqueue n q with rrQueue := s.rrQueue, reading := some n, reads := s.reads }
      (∀ u, got = .wait u → again u) ∧
      (∀ t u, got = .trap t u → ∃ id, refused (read u) id u.ns 1 0) ∧
      (∀ bs u, got = .ok bs u →
        let w := read u
        let p := packetOf bs
        (u.mbox.duty.getLsbD 0 = true → ∃ (v : State) (r : HostReq), exec (.launchPacketRead qn) s = .next v ∧ (v.lqueue n).head = q.head + 1 ∧
          v.rrQueue = n ∧ v.launches = u.launches ∧ v.mbox.reqs = u.mbox.reqs ++ [r] ∧ r.fn = 1 ∧ r.about = n ∧ r.tag = u.mbox.nextTag ∧
          r.data = bs ++ leBytes 8 u.ns ++ leBytes 8 (u.reads + 1)) ∧
        (u.mbox.duty.getLsbD 0 = false →
          (badPacket bs = true → refused w p.launchId u.ns 1 0) ∧
          (badPacket bs = false → (∀ z, w.readNamed q.fw p = .wait z → again z) ∧
            (∀ t z, w.readNamed q.fw p = .trap t z → refused z p.launchId u.ns 1 0) ∧
            ∀ nm z, w.readNamed q.fw p = .ok nm z →
              let made := fun (y : State) (d : Option OpDesc) (inner : List (Option OpDesc)) => ∃ (v : State) (l : Launch),
                exec (.launchPacketRead qn) s = .next v ∧ AMap.find? v.launches y.nextLaunch = some l ∧ l.st = .wait ∧ l.queue = n ∧ l.seq = seq ∧
                l.pkt = p ∧ l.readAt = u.ns ∧ l.readNo = u.reads + 1 ∧ l.tiles = [] ∧ l.regions = regionsOf p.w p.h nm.rcbs ∧ l.images = nm.imgs.map imageEntry ∧
                l.slots = nm.slots ∧ l.opDesc = d ∧ l.inner = inner ∧ l.task = none
              (z.checkNamed q.fw p nm ≠ 0 → refused z p.launchId u.ns (z.checkNamed q.fw p nm) 0) ∧
              (z.checkNamed q.fw p nm = 0 → p.coded = false → made z none []) ∧
              (z.checkNamed q.fw p nm = 0 → p.coded = true →
                let checked := z.checkOperator p.ptroot q.fw p.opdva.toNat true (match nm.opd with
                  | some b => .ok b z
                  | none => .trap hsBad z)
                (∀ y, checked = .wait y → again y) ∧
                (∀ e y, checked = .ok (.error e) y → refused y p.launchId u.ns 7 e) ∧
                (∀ d inner y, checked = .ok (.ok (d, inner)) y → made y (some d) inner)))))))

/-- CLAIM of a launch that waits and is first binds the tiles of the first fit, with its origin and symmetry, and puts it into RUN; where nothing fits, or another is ahead, nothing happens; a bad slot table ends it; a coded operator takes a free coding register; under DUTY SCHED the rectangle is asked for, after an update that runs; a task's record is written and performed before its claim; roots still outside a running launch's pools go in when there is room. An idle tile of a running launch takes the oldest record of the chosen pool, where its store words are whole and it is not spilled: code address, image, g1 to g3 and all other registers zero, no predicate; a spilled one is read back first, a word that ECC corrects is logged, and one that it cannot correct, or a spill area that cannot be read, ends the domain (the model's choices, log entries 82 and 99). A pool that has waited its region's AGE rises by one level, up to 6. A region over RTIME ends its domain. The halt tree puts a launch into DRAIN exactly when every root is in a pool and every tile is idle, unfaulted, with empty queues and no record for it; an operator is drained with its register. A launch that has drained is forgotten, its tiles are free, and its completion record, written or left waiting for room, has STATUS, OST, NERR and NDOM, and keeps the time of its READ. -/
def Obligations.Launches : Prop :=
  (∀ (s : State) (k : Nat) (l : Launch), AMap.find? s.launches k = some l →
    let claim := exec (.launchClaim k) s
    (l.st = .run → l.roots ≠ [] →
      (∀ r rs, l.roots = r :: rs → s.pushRec k r = none → ∃ v : State, claim = .next v ∧ AMap.find? v.launches k = some l ∧ v.tiles = s.tiles) ∧
      (∀ r u l', l.roots = [r] → s.pushRec k r = some u → AMap.find? u.launches k = some l' → ∃ v : State, claim = .next v ∧
        AMap.find? v.launches k = some { l' with roots := [] } ∧ v.tiles = u.tiles)) ∧
    let asked := (∃ r ∈ s.mbox.reqs, r.fn = 6 ∧ r.about = k) ∨ (∃ x ∈ s.mbox.reqHeld, x.1 = 6 ∧ x.2.1 = k)
    let stands := l.task = none ∨ l.recorded = true
    (∀ r t d, l.st ≠ .run ∨ l.roots = [] → l.opDesc = none → l.task = some (r, t) → l.recorded = false → (s.opr r).desc = some d →
      let put := s.hsWrite (viaLaunch l.op true) (d.stva.toNat + t * d.ststr) (taskRecord d r t (s.opr r).outer)
      (∀ z, put = .wait z → claim = .next z) ∧
      (∀ z l', put = .ok () z → AMap.find? z.launches k = some l' → ∃ v : State, claim = .next v ∧ v.mem = z.mem ∧
        AMap.find? v.launches k = some { l' with recorded := true })) ∧
    (l.st ≠ .run ∨ l.roots = [] → l.opDesc = none → stands → s.first k l false = false ∨ s.postedBy k 1 = true ∨ asked → claim = .next s) ∧
    (l.opDesc = none → s.first k l false = true → stands → s.postedBy k 1 = false → ¬ asked →
      (s.mbox.duty.getLsbD 5 = true → l.task = none →
        (s.fw.st ≠ 0 → ∃ x : List Byte, claim = .next { s with mbox := { s.mbox with reqHeld := s.mbox.reqHeld ++ [(6, k, x)] } }) ∧
        (s.fw.st = 0 → ∃ (v : State) (r : HostReq), claim = .next v ∧
          v.launches = s.launches ∧ v.mbox.reqs = s.mbox.reqs ++ [r] ∧ r.fn = 6 ∧ r.about = k)) ∧
      (s.mbox.duty.getLsbD 5 = false ∨ l.task ≠ none →
        (s.firstFit l.pkt (s.originsOf l) = none → claim = .next s) ∧
        (∀ ox oy sym ts, s.firstFit l.pkt (s.originsOf l) = some (ox, oy, sym, ts) →
          (l.slots = [] ∨ slotsOk l.slots l.pkt.w l.pkt.h = true → ∃ (v : State) (l' : Launch), claim = .next v ∧
            AMap.find? v.launches k = some l' ∧ l'.st = .run ∧ l'.originX = ox ∧ l'.originY = oy ∧ l'.sigma = sym ∧ l'.tiles = ts ∧
            ∀ g ∈ ts, (v.tile g).bound = some k) ∧
          (l.slots ≠ [] → slotsOk l.slots l.pkt.w l.pkt.h = false → ∃ v : State, claim = .next v ∧
            AMap.find? v.launches k = none ∧ ((s.lqueue l.queue).ringFull = true → v.tiles = s.tiles ∧ (v.lqueue l.queue).waiting =
              (s.lqueue l.queue).waiting ++ [(completionBytes l.pkt.launchId l.seq 2 8 0 0 0, l.readAt)]))))) ∧
    (∀ d, l.st ≠ .run ∨ l.roots = [] → l.opDesc = some d → (s.freeOpr = none → claim = .next s) ∧ (s.first k l true = false → claim = .next s) ∧
      (∀ r, s.freeOpr = some r → s.first k l true = true → k < s.nextLaunch →
        let z := s.startOperator k r
        ((z.opr r).eras ≠ 0 → claim = .next ((z.opHandled r 0 false).orElse z)) ∧
        ((z.opr r).eras = 0 → ∃ l' : Launch, claim = .next z ∧ AMap.find? z.launches k = some l' ∧ l'.st = .run ∧ l'.opr = some r ∧
          (z.opr r).st = 1 ∧ (z.opr r).desc = some d ∧ (z.opr r).launch = k))) ∧
    (∀ (n : Nat) (pri : BitVec 3),
      let age := match l.regions[n]? with
        | some r => r.age
        | none => 0
      let due := fun (p : Pool) => p.region = n ∧ p.pri = pri.toNat ∧ p.recs ≠ [] ∧ age ≠ 0 ∧ p.pri ≠ 7 ∧ p.level < 6 ∧
        age * 2000 ≤ (s.bedt - p.timer).toNat
      (l.st ≠ .run → exec (.poolAgeing k n pri) s = .next s) ∧
      (l.st = .run → exec (.poolAgeing k n pri) s = .next { s with launches := AMap.put s.launches k { l with
        pools := l.pools.map (fun p => if due p then { p with level := p.level + 1, timer := s.bedt } else p) } })) ∧
    (∀ (n t0 : Nat) (r : Region), l.regions[n]? = some r →
      (r.started = none → exec (.rtimeBudget k n) s = .next s) ∧
      (r.started = some t0 →
        let late := l.st = .run ∧ r.rtime ≠ 0 ∧ r.ended = false ∧ t0 + r.rtime * 1000 < s.ns
        (¬ late → exec (.rtimeBudget k n) s = .next s) ∧
        (late → ∃ (v : State) (l' : Launch), exec (.rtimeBudget k n) s = .next v ∧ AMap.find? v.launches k = some l' ∧
          (∀ x ∈ l'.regions, x.dom = r.dom → x.ended = true) ∧ l'.ndom = l.ndom + 1))) ∧
    (∀ r, l.st = .run → l.preempt = 0 → l.opr = some r → exec (.haltTreeFire k) s = .next (s.drainOp r)) ∧
    (l.st ≠ .run ∨ l.preempt ≠ 0 ∨ l.opr = none →
     let quiet := l.st = .run ∧ l.opDesc = none ∧ l.preempt = 0 ∧ l.roots = [] ∧ ∀ g ∈ l.tiles, let t := s.tile g
       t.cont = none ∧ t.tcc.intrap = false ∧ t.dbg.stopped = false ∧ t.faults = [] ∧ s.choosePool k g = none ∧
       ∀ e ∈ t.lq.ents ++ t.xq.ents ++ t.sq.ents, e.st = .done
     (quiet → exec (.haltTreeFire k) s = .next { s with launches := AMap.put s.launches k { l with st := .drain } }) ∧
     (¬ quiet → exec (.haltTreeFire k) s = .next s)) ∧
    (l.st ≠ .drain ∨ s.drained k l = false → exec (.launchDrainDone k) s = .next s) ∧
    (l.st = .drain → s.drained k l = true → l.task = none → l.remote = none → ∃ v : State,
      let q := s.lqueue l.queue
      let rec0 := (completionBytes l.pkt.launchId l.seq (if l.aborted then 3 else if l.faulted then 1 else 0) 0 l.ost l.nerr l.ndom, l.readAt)
      exec (.launchDrainDone k) s = .next v ∧ AMap.find? v.launches k = none ∧
      ((∀ g ∈ l.tiles, (s.tile g).oosLater = false) → l.saved = [] → ∀ j, j ≠ k → AMap.find? v.launches j = AMap.find? s.launches j) ∧
      (q.ringFull = true ∨ q.waiting ≠ [] → (v.lqueue l.queue).waiting = q.waiting ++ [rec0] ∧
        ∀ g ∈ l.tiles, (s.tile g).bound = some k → (v.tile g).bound = none ∧ (v.tile g).cont = none) ∧
      (q.ringFull = false → q.waiting = [] → (v.lqueue l.queue).crtail = q.crtail + 1 ∧ l.queue ∈ v.mbox.msix))) ∧
  (∀ (s : State) (g : Nat) (k : Nat) (l : Launch), (s.tile g).bound = some k → AMap.find? s.launches k = some l → l.onePool →
    let t := s.tile g
    let may := t.cont = none ∧ t.tcc.intrap = false ∧ t.dbg.stopped = false ∧ l.st = .run ∧ l.preempt = 0
    (¬ may ∨ s.choosePool k g = none → exec (.tileChooseRecord g) s = .next s) ∧
    (∀ p r rest x, may → s.choosePool k g = some p → p.recs = r :: rest → l.regions[p.region]? = some x →
      let choose := exec (.tileChooseRecord g) s
      let takes := fun (z : State) (c : Rec) => choose = .next ((z.updLaunch k (fun l => l.popRec p z.bedt)).startRec k g c (poolLevel (s.donated k) p))
      let met := r.1.ecc.foldl (fun (z : State) e => z.logEvent 7 0 (storeBlock (k * 4096 + r.1.region)) (if e.2 then 1 else 2) false 0x300) s
      (r.1.spill = none → (∀ e ∈ r.1.ecc, e.2 = true) → takes met { r.1 with ecc := [] }) ∧
      (r.1.spill = none → (∃ e ∈ r.1.ecc, e.2 = false) → choose = .next ({ met with hfar := [] }.spillEnds k x.dom (TrapI.mk3 9 1 0))) ∧
      (∀ i, r.1.spill = some i →
        let got := s.hsRead (viaLaunch k false) (x.psva.toNat + 32 * i) 32
        (∀ z, got = .wait z → choose = .next z) ∧
        (∀ c z, got = .trap c z → choose = .next ({ z with hfar := [] }.spillEnds k x.dom c)) ∧
        (∀ bs z, got = .ok bs z → takes { z with hfar := [] } { recOf bs with region := r.1.region, pri := r.1.pri })) ∧
      (r.1.spill = none → r.1.ecc = [] → ∃ (v : State) (l' : Launch), choose = .next v ∧
      AMap.find? v.launches k = some l' ∧ l'.recsOf p.region p.pri = rest ∧
      (∀ m i, (m, i) ≠ (p.region, p.pri) → l'.recsOf m i = l.recsOf m i) ∧ v.mem = s.mem ∧ (∀ h, h ≠ g → v.tile h = s.tile h) ∧
      let u := v.tile g
      u.cont = some { launch := k, img := r.1.img, region := r.1.region } ∧ u.tcc.pc = r.1.code ∧ u.tcc.img = r.1.img ∧
      u.tcc.g 1 = r.1.frame ∧ u.tcc.g 2 = r.1.jca ∧ u.tcc.g 3 = BitVec.ofNat 64 t.ltn ∧ (∀ x, x ∉ [(1 : Reg), 2, 3] → u.tcc.g x = 0) ∧
      u.tcc.preds = 0 ∧ u.tcc.atM = false ∧ u.tcc.loop0.lc = 0 ∧ u.tcc.loop1.lc = 0 ∧ u.tcc.rsc = 0 ∧ u.frm = r.1.frame ∧ u.jca = r.1.jca)))

/-- An arrival or erasure of a task that is not outstanding, or has not happened (its launch is not done, or failed for an arrival; is in service, started and has not failed for an erasure; an inner one of another package has sent no status, and its package is alive), changes nothing. Else the task is marked ARR or ERAS, and an inner operator's status is kept. While fewer returns than the policy needs stand and tasks are outstanding, or a decode request stands, nothing is decided: the register changes in that mark alone, the task's launch is forgotten (an erased one when it is done or drained), and memory is as before. Under DUTY DEC the decision is asked of the host. Once needed returns stand, are read, agree or can be corrected at every position, and other tasks are outstanding, the product is written to C and the register is DONE with OST code 0; with a position that cannot be corrected the operator waits on while tasks are outstanding. When the last task is erased and fewer than K returns stand, the operator fails with code 2, its register becomes FREE and its launch drains. An arrival after DONE is checked against C (what is read is read anew at each event: the model's choice, log entry 39): positions that differ are counted and make the task a suspect. -/
def Obligations.CodedTasks : Prop :=
  ∀ (s : State) (x y : BitVec 4),
    let r := x.toNat
    let t := y.toNat
    let o := s.opr r
    let arrive := exec (.codedTaskArrival x y) s
    let erase := exec (.codedTaskErasure x y) s
    let job := s.taskLaunch r t
    (s.taskOpen r t = false → arrive = .next s ∧ erase = .next s) ∧
    (job = none → (s.remoteDone r t ≠ some 0 → arrive = .next s) ∧ (s.remoteDone r t = none ∨ s.remoteDone r t = some 0 → erase = .next s)) ∧
    (∀ d, s.taskOpen r t = true → job = none → d.nest = true → o.desc = some d → o.st = 1 → o.posted = false →
      (let o' := { o with arr := tset o.arr t }
       s.remoteDone r t = some 0 → (o'.arrived d.tasks).length < d.need → o'.outstanding d.tasks ≠ [] → arrive = .next { s.setOpr r o' with hfar := [] }) ∧
      (let o' := { o with eras := tset o.eras t }
       (∃ e, s.remoteDone r t = some e ∧ e ≠ 0) → (o'.arrived d.tasks).length < d.need → o'.outstanding d.tasks ≠ [] → erase = .next { s.setOpr r o' with hfar := [] })) ∧
    (∀ k l d, s.taskOpen r t = true → job = some (k, l) → AMap.find? s.launches k = some l → o.desc = some d →
      let failed := l.taskEnded = true
      let kept := if l.opDesc.isSome then { o with tst := AMap.put o.tst t l.ost } else o
      (l.st ≠ .done ∨ failed ∨ l.ost % 16 ≠ 0 → arrive = .next s) ∧
      (l.opDesc = none → ¬ failed → s.sockOut (o.die t) = false → l.st ≠ .wait ∨ s.dieExcluded (o.die t) = false → erase = .next s) ∧
      (∀ d', l.opDesc = some d' → l.st ≠ .done ∨ l.ost % 16 = 0 → erase = .next s) ∧
      (let o' := { kept with arr := tset o.arr t }
       let q := o'.arrived d.tasks
       let u := (s.foldTask k).setOpr r o'
       l.st = .done → ¬ failed → l.ost % 16 = 0 →
       (o.st = 1 → o.posted = true ∨ (q.length < d.need ∧ o'.outstanding d.tasks ≠ []) → ∃ v : State, arrive = .next v ∧ v.opr r = o' ∧
         v.mem = s.mem ∧ AMap.find? v.launches k = none) ∧
       (o.st = 1 → o.posted = false → d.need ≤ q.length → s.mbox.duty.getLsbD 2 = true → s.fw.st = 0 → ∃ (v : State) (h : HostReq), arrive = .next v ∧
         v.opr r = { o' with posted := true } ∧ v.mbox.reqs = s.mbox.reqs ++ [h] ∧ h.fn = 3 ∧ h.about = r ∧ v.mem = s.mem) ∧
       (o.st = 1 → o.posted = false → d.need ≤ q.length → o'.outstanding d.tasks ≠ [] → s.mbox.duty.getLsbD 2 = false → ∀ (rs : List (Nat × List Int)) (z : State),
         u.readReturns o' d q = .ok (rs.map (fun p => (p.1, some p.2, false))) z → z.oprs = u.oprs → rs.map (fun p => p.1) = q →
         let vs := verdicts d.k (d.mp * d.n) rs
         ((∃ x ∈ vs, x = none) → ∃ v : State, arrive = .next v ∧ v.opr r = o') ∧
         (∀ w, (∀ x ∈ vs, x ≠ none) →
           z.hsWrite (viaLaunch o.launch true) d.cva.toNat (outBytes d (wordsOfC d.k (d.mp * d.n) vs)) = .ok () w → w.oprs = u.oprs →
           ∃ v : State, arrive = .next v ∧ (v.opr r).st = 2 ∧ (v.opr r).ost % 16 = 0 ∧ (v.opr r).c = wordsOfC d.k (d.mp * d.n) vs ∧
             (v.opr r).arr = o'.arr ∧ (v.opr r).eras = o.eras ∧ (v.opr r).nsur = q.length - d.k)) ∧
       (o.st = 2 → o'.outstanding d.tasks ≠ [] → ∀ (ws : List Int) (inj : Bool) (z : State), u.readReturns o' d [t] = .ok [(t, some ws, inj)] z → z.oprs = u.oprs →
         let nw := d.mp * d.n
         let bad := ((List.range nw).filter (fun w =>
           decide (ws.getD w 0 ≠ encodeTask d.k ((List.range d.k).map (fun i => o.c.getD (i * nw + w) 0)) t))).length
         ∃ v : State, arrive = .next v ∧ (v.opr r).st = 2 ∧ (v.opr r).late = o.late ++ [t] ∧ (v.opr r).arr = o'.arr ∧
           (v.opr r).nsyn = o.nsyn + bad ∧ (v.opr r).susp = (if bad = 0 then o.susp else tset o.susp t))) ∧
      (let o' := { kept with eras := tset o.eras t }
       let q := o'.arrived d.tasks
       let gone := l.st = .done ∨ l.st = .wait ∨ l.st = .drain ∧ s.drained k l = true
       let lost := if l.opDesc.isSome then l.st = .done ∧ l.ost % 16 ≠ 0 else failed ∨ ¬ failed ∧ l.st = .wait ∧ s.dieExcluded (o.die t) = true
       lost → o.st = 1 → o.posted = false →
       (q.length < d.need → o'.outstanding d.tasks ≠ [] → ∃ v : State, erase = .next v ∧ v.opr r = o' ∧ v.mem = s.mem ∧
         (gone → AMap.find? v.launches k = none) ∧ (¬ gone → AMap.find? v.launches k = some l)) ∧
       (∀ L, q.length < d.k → o'.outstanding d.tasks = [] → d.drwva = 0 → gone → AMap.find? (s.foldTask k).launches o.launch = some L →
         (s.foldTask k).hsPosted = false → ∃ v : State, erase = .next v ∧ (v.opr r).st = 0 ∧
         AMap.find? v.launches o.launch = some { L with st := .drain, ost := 2 })))

/-- For every instruction of major 0x01, SEXT, ZEXT, SHLI, SHRI, SARI, MOVW, SEL and NOP without a prefix, and for ADDI, ANDI, ORI, XORI and MOVI without one or behind an IMX (own immediate 0), standing at a plain place (its successor a lies in the image, no loop boundary falls on it, the debugger counts no steps): exec answers a next state, s with the value v of the instruction's table row, written in unbounded integers, in register d (nothing when d is g0), the unit's prefixes gone, the pc at a, and on a tile the retired-instruction counter advanced; nothing else differs. At a plain place without a prefix, each of CLZ, CTZ, POPC and BSWAP answers a next state in which d (when it is not g0) holds: for CLZ the n with 2^(63-n) ≤ a < 2^(64-n), 64 when a = 0; for CTZ the n for which 2^n divides a and 2^(n+1) does not, 64 when a = 0; for POPC the number of bits of a that are 1; for BSWAP the value whose byte i is byte 7 - i of a. That state is s with d written, at the successor. -/
def Obligations.IntegerInstructions : Prop :=
  (∀ (s : State) (d x y : Reg) (ps : PReg) (h : BitVec 3) (sh : BitVec 6) (i : BitVec 16) (hi : Bool) (w : BitVec 32) (a : CodeAddr),
     s.plainAt a →
     let u := fun (r : Reg) => (s.g r).toNat
     let z := fun (r : Reg) => (s.g r).toInt
     let writes := fun (d : Reg) (v : Word) => Host.Outcome.next ((s.setG d v).goneTo a)
     (s.cur.pfx = none →
       exec (.add d x y) s = writes d (BitVec.ofNat 64 (u x + u y)) ∧
       exec (.sub d x y) s = writes d (BitVec.ofInt 64 ((u x : Int) - u y)) ∧
       exec (.mul d x y) s = writes d (BitVec.ofInt 64 (z x * z y)) ∧
       exec (.mulh d x y) s = writes d (BitVec.ofInt 64 (Int.fdiv (z x * z y) (2 ^ 64))) ∧
       exec (.mulhu d x y) s = writes d (BitVec.ofNat 64 (u x * u y / 2 ^ 64)) ∧
       exec (.div d x y) s = writes d (if s.g y = 0 then 0xFFFFFFFFFFFFFFFF else BitVec.ofInt 64 (Int.tdiv (z x) (z y))) ∧
       exec (.divu d x y) s = writes d (if s.g y = 0 then 0xFFFFFFFFFFFFFFFF else BitVec.ofNat 64 (u x / u y)) ∧
       exec (.rem d x y) s = writes d (if s.g y = 0 then s.g x else BitVec.ofInt 64 (z x - z y * Int.tdiv (z x) (z y))) ∧
       exec (.remu d x y) s = writes d (if s.g y = 0 then s.g x else BitVec.ofInt 64 ((u x : Int) - u y * (u x / u y : Nat))) ∧
       exec (.and d x y) s = writes d (s.g x &&& s.g y) ∧
       exec (.or d x y) s = writes d (s.g x ||| s.g y) ∧
       exec (.xor d x y) s = writes d (s.g x ^^^ s.g y) ∧
       exec (.shl d x y) s = writes d (BitVec.ofNat 64 (u x * 2 ^ (u y % 64))) ∧
       exec (.shr d x y) s = writes d (BitVec.ofNat 64 (u x / 2 ^ (u y % 64))) ∧
       exec (.sar d x y) s = writes d (BitVec.ofInt 64 (Int.fdiv (z x) (2 ^ (u y % 64)))) ∧
       exec (.min d x y) s = writes d (if z y < z x then s.g y else s.g x) ∧
       exec (.max d x y) s = writes d (if z x < z y then s.g y else s.g x) ∧
       exec (.minu d x y) s = writes d (if u y < u x then s.g y else s.g x) ∧
       exec (.maxu d x y) s = writes d (if u x < u y then s.g y else s.g x) ∧
       exec (.lea d x y h) s = writes d (BitVec.ofNat 64 (u x + u y * 2 ^ h.toNat)) ∧
       exec (.shli d x sh) s = writes d (BitVec.ofNat 64 (u x * 2 ^ sh.toNat)) ∧
       exec (.shri d x sh) s = writes d (BitVec.ofNat 64 (u x / 2 ^ sh.toNat)) ∧
       exec (.sari d x sh) s = writes d (BitVec.ofInt 64 (Int.fdiv (z x) (2 ^ sh.toNat))) ∧
       exec (.movw d hi w) s = writes d (if hi then BitVec.ofNat 64 (w.toNat * 2 ^ 32 + u d % 2 ^ 32) else BitVec.ofNat 64 w.toNat) ∧
       exec (.sextB d x) s = writes d (((s.g x).truncate 8).signExtend 64) ∧
       exec (.sextH d x) s = writes d (((s.g x).truncate 16).signExtend 64) ∧
       exec (.sextW d x) s = writes d (((s.g x).truncate 32).signExtend 64) ∧
       exec (.zextB d x) s = writes d (BitVec.ofNat 64 (u x % 2 ^ 8)) ∧
       exec (.zextH d x) s = writes d (BitVec.ofNat 64 (u x % 2 ^ 16)) ∧
       exec (.zextW d x) s = writes d (BitVec.ofNat 64 (u x % 2 ^ 32)) ∧
       exec (.sel d x y ps) s = writes d (if s.pd ps then s.g x else s.g y) ∧
       exec .nop s = .next (s.goneTo a)) ∧
     (s.pfxOk (decide (i = 0)) false → exec (.addi d x i) s = writes d (BitVec.ofNat 64 (u x + (s.immSigned i).toNat))) ∧
     (s.pfxOk (decide (i = 0)) false → exec (.andi d x i) s = writes d (s.g x &&& s.immZero i)) ∧
     (s.pfxOk (decide (i = 0)) false → exec (.ori d x i) s = writes d (s.g x ||| s.immZero i)) ∧
     (s.pfxOk (decide (i = 0)) false → exec (.xori d x i) s = writes d (s.g x ^^^ s.immZero i)) ∧
     (s.pfxOk (decide (i = 0)) false → exec (.movi d i) s = writes d (s.immSigned i))) ∧
  (∀ (s : State) (d r : Reg) (a : CodeAddr), s.plainAt a → s.cur.pfx = none →
     let x := s.g r
     (∃ n : Nat, exec (.clz d r) s = .next ((s.setG d (BitVec.ofNat 64 n)).goneTo a) ∧
       (x = 0 → n = 64) ∧ (x ≠ 0 → n < 64 ∧ 2 ^ (63 - n) ≤ x.toNat ∧ x.toNat < 2 ^ (64 - n))) ∧
     (∃ n : Nat, exec (.ctz d r) s = .next ((s.setG d (BitVec.ofNat 64 n)).goneTo a) ∧
       (x = 0 → n = 64) ∧ (x ≠ 0 → n < 64 ∧ x.toNat % 2 ^ n = 0 ∧ x.toNat % 2 ^ (n + 1) ≠ 0)) ∧
     exec (.popc d r) s =
       .next ((s.setG d (BitVec.ofNat 64 ((List.range 64).countP (fun i => x.getLsbD i)))).goneTo a) ∧
     (∃ v : Word, exec (.bswap d r) s = .next ((s.setG d v).goneTo a) ∧
       ∀ i : Nat, i < 8 → v.toNat / 2 ^ (8 * i) % 256 = x.toNat / 2 ^ (8 * (7 - i)) % 256))

/-- For CMP of every kind, PAND, POR, PXOR and PNOT without a prefix, and CMPI of every kind (its immediate sign-extended for the unsigned kinds too) without one or behind an IMX (own immediate 0), at a plain place: exec answers a next state, s with the value of the instruction's table row in predicate p (nothing when p is p0), at the successor; nothing else differs. -/
def Obligations.CompareAndPredicateInstructions : Prop :=
  ∀ (s : State) (p : PReg) (x y : Reg) (k l : PReg) (j : BitVec 15) (a : CodeAddr), s.plainAt a →
    let u := fun (r : Reg) => (s.g r).toNat
    let z := fun (r : Reg) => (s.g r).toInt
    let writes := fun (p : PReg) (v : Bool) => Host.Outcome.next ((s.setP p v).goneTo a)
    (s.cur.pfx = none →
      exec (.cmpeq p x y) s = writes p (decide (s.g x = s.g y)) ∧
      exec (.cmpne p x y) s = writes p (decide (s.g x ≠ s.g y)) ∧
      exec (.cmplt p x y) s = writes p (decide (z x < z y)) ∧
      exec (.cmpltu p x y) s = writes p (decide (u x < u y)) ∧
      exec (.cmpge p x y) s = writes p (decide (z x ≥ z y)) ∧
      exec (.cmpgeu p x y) s = writes p (decide (u x ≥ u y)) ∧
      exec (.pand p k l) s = writes p (s.pd k && s.pd l) ∧
      exec (.por p k l) s = writes p (s.pd k || s.pd l) ∧
      exec (.pxor p k l) s = writes p (xor (s.pd k) (s.pd l)) ∧
      exec (.pnot p k) s = writes p (!s.pd k)) ∧
    (s.pfxOk (decide (j = 0)) false → exec (.cmpeqi p x j) s = writes p (decide (s.g x = s.immSigned j))) ∧
    (s.pfxOk (decide (j = 0)) false → exec (.cmpnei p x j) s = writes p (decide (s.g x ≠ s.immSigned j))) ∧
    (s.pfxOk (decide (j = 0)) false → exec (.cmplti p x j) s = writes p (decide (z x < (s.immSigned j).toInt))) ∧
    (s.pfxOk (decide (j = 0)) false → exec (.cmpltui p x j) s = writes p (decide (u x < (s.immSigned j).toNat))) ∧
    (s.pfxOk (decide (j = 0)) false → exec (.cmpgei p x j) s = writes p (decide (z x ≥ (s.immSigned j).toInt))) ∧
    (s.pfxOk (decide (j = 0)) false → exec (.cmpgeui p x j) s = writes p (decide (u x ≥ (s.immSigned j).toNat)))

/-- For every instruction word i other than SCP and IMX, if an IMX prefix stands before it and i does not take IMX (or has a non-zero immediate of its own), or an SCP prefix stands before it and i does not take SCP, then exec i s is the next state in which s has raised the illegal-instruction trap, whatever i is. For IMX with value x: where the unit has no IMX yet and the successor a lies in the image, exec answers the next state in which the unit's prefixes are those before and x, the address of its first prefix is kept (this one's when it is the first), and the pc stands at a, in the line already entered where that is so (not at a slot 1, which NEXT enters); no counter of retired instructions moves and no loop boundary is taken. Where the unit has an IMX, exec raises the illegal-instruction trap. The same for SCP. A prefix without a successor raises the illegal-instruction trap. -/
def Obligations.Prefixes : Prop :=
  (∀ (s : State) (i : Instr) (p : Pfx), i.isEvent = false → (∀ x, i ≠ .imx x) → (∀ x, i ≠ .scp x) →
     s.cur.pfx = some p → (p.imx.isSome = true ∧ takesImx i = false) ∨ (p.scp.isSome = true ∧ takesScp i = false) →
     exec i s = .next (s.raise trapIllegal)) ∧
  (∀ (s : State) (x : BitVec 48) (sc : Scope), s.hasCore →
     let old := s.cur.pfx.getD { imx := none, scp := none, start := s.cur.pc, w0 := s.cur.iw.truncate 32, w1 := 0 }
     let on := fun (p : Pfx) (a : CodeAddr) => s.updCur (fun c =>
       { c with pfx := some p, waiting := false, pc := a, lined := c.sameLine a })
     (old.imx = none → ∀ a, s.hasSucc a → exec (.imx x) s = .next (on { old with imx := some x } a)) ∧
     (old.scp = none → ∀ a, s.hasSucc a → exec (.scp sc) s = .next (on { old with scp := some sc } a)) ∧
     (old.imx.isSome = true → exec (.imx x) s = .next (s.raise trapIllegal)) ∧
     (old.scp.isSome = true → exec (.scp sc) s = .next (s.raise trapIllegal)) ∧
     (s.cur.succ = none →
       let last := fun (p : Pfx) => (s.updCur (fun c => { c with pfx := some p, waiting := false })).raise trapIllegal
       (old.imx = none → exec (.imx x) s = .next (last { old with imx := some x })) ∧
       (old.scp = none → exec (.scp sc) s = .next (last { old with scp := some sc }))))

/-- Let the target line be the line of the branch plus the signed LDELTA. If that line lies in the image, BR continues at line:SLOT, BP there when its predicate is 1 and BNP when it is 0, else at the successor a. If it does not, each of the three raises the code-address fault with the rejected target, whether or not the predicate holds. JI and CALLI with a register that is no code address of the image raise the code-address fault with that value, and CALL with a target line outside the image raises it with the rejected target. JI with a code address continues there. CALL with a target line in the image and CALLI with a code address, with fewer than 16 entries in the return-address store, push the successor as the newest entry and continue at the target; the rest of the state is as before. For CALL to a line in the image and CALLI to a code address with 16 entries in the return-address store: let the C path check the 8 bytes at RSP - 8 for an aligned write and give one part p and the state s1 (plain, free of storage errors), the part being bytes of this package that L1 does not hold. Then exec answers a next state in which the oldest entry's 8 bytes stand there, RSP has fallen by 8, RSC risen by 1, the store holds the successor and the 15 newest entries, and the pc is the target; every byte of memory outside the part reads as before. Where that check finds trap t, the call raises t; where it waits, the call waits. -/
def Obligations.BranchesAndCalls : Prop :=
  (∀ (s : State) (ps : PReg) (ld : BitVec 19) (slot : BitVec 4) (a : CodeAddr), s.plainAt a → s.cur.pfx = none →
     let line : Int := (lineOf s.cur.pc : Int) + ld.toInt
     let tgt := mkCode line.toNat slot.toNat
     ((0 ≤ line ∧ line < s.image.2) →
       exec (.br ld slot) s = .next (s.jumpedTo tgt) ∧
       exec (.bp ps ld slot) s = .next (if s.pd ps then s.jumpedTo tgt else s.goneTo a) ∧
       exec (.bnp ps ld slot) s = .next (if s.pd ps then s.goneTo a else s.jumpedTo tgt)) ∧
     (¬ (0 ≤ line ∧ line < s.image.2) →
       let f := s.raise (trapCode (BitVec.ofInt 64 (line * 16 + slot.toNat)))
       exec (.br ld slot) s = .next f ∧ exec (.bp ps ld slot) s = .next f ∧ exec (.bnp ps ld slot) s = .next f)) ∧
  (∀ (s : State) (r : Reg) (ld : BitVec 19) (slot : BitVec 4) (a : CodeAddr), s.plainAt a → s.cur.pfx = none →
     let line : Int := (lineOf s.cur.pc : Int) + ld.toInt
     let pushed := s.updCur (fun c => { c with ras := a :: c.ras })
     (s.codeOk (s.g r) → exec (.ji r) s = .next (s.jumpedTo ((s.g r).truncate 28))) ∧
     (¬ s.codeOk (s.g r) → exec (.ji r) s = .next (s.raise (trapCode (s.g r))) ∧
       exec (.calli r) s = .next (s.raise (trapCode (s.g r)))) ∧
     (¬ (0 ≤ line ∧ line < s.image.2) →
       exec (.call ld slot) s = .next (s.raise (trapCode (BitVec.ofInt 64 (line * 16 + slot.toNat))))) ∧
     (s.cur.ras.length < 16 → s.codeOk (s.g r) → exec (.calli r) s = .next (pushed.jumpedTo ((s.g r).truncate 28))) ∧
     (s.cur.ras.length < 16 → 0 ≤ line → line < s.image.2 →
       exec (.call ld slot) s = .next (pushed.jumpedTo (mkCode line.toNat slot.toNat)))) ∧
  (∀ (s : State) (i : Instr) (r : Reg) (ld : BitVec 19) (slot : BitVec 4) (tgt a old : CodeAddr), s.plainAt a → s.cur.pfx = none →
     let line : Int := (lineOf s.cur.pc : Int) + ld.toInt
     (i = .calli r ∧ s.codeOk (s.g r) ∧ tgt = (s.g r).truncate 28) ∨
       (i = .call ld slot ∧ 0 ≤ line ∧ line < s.image.2 ∧ tgt = mkCode line.toNat slot.toNat) →
     s.cur.ras.length = 16 → s.cur.ras.getLast? = some old →
     (∀ (p : CPart) (s1 : State), s.cCheck (s.cur.rsp - 8) 8 true true = .ok [p] s1 → p.far = none → p.l1 = false → p.n = 8 →
       s1.clean → s1.plainAt a → s1.cur = s.cur → s1.mem.wf = true →
       ∃ t, exec i s = .next t ∧ t.cur.pc = tgt ∧ t.cur.rsp = s.cur.rsp - 8 ∧
         t.cur.rsc = s.cur.rsc + 1 ∧ t.cur.ras = a :: s.cur.ras.dropLast ∧
         t.mem.getN p.key 8 = leBytes 8 old.toNat ∧
         (∀ k, k < p.key ∨ p.key + 8 ≤ k → t.mem.get k = s1.mem.get k)) ∧
     (∀ t s1, s.cCheck (s.cur.rsp - 8) 8 true true = .trap t s1 → exec i s = .next (s1.raise t)) ∧
     (∀ s1, s.cCheck (s.cur.rsp - 8) 8 true true = .wait s1 → exec i s = .next s1.waitsIn))

/-- With entries in the return-address store, the newest a code address of the image, RET removes it and continues there; where it is none, RET raises the code-address fault with the state as it was. With none and RSC = 0 it raises the return-underflow trap. With none and RSC > 0 it reads the 8 bytes at RSP (aligned) by the C path, giving the value v and the state s2. Where v is a code address of the image, RET continues at v with RSP up by 8 and RSC down by 1. Where it is none, it raises the code-address fault with v, the return-address store, RSP and RSC as they were before. Where the check of that access or its read finds trap t, RET raises t; where it must wait, RET waits. -/
def Obligations.Returns : Prop :=
  ∀ (s : State), s.hasCore → s.cur.pfx = none → s.cur.stepLeft = none →
    (∀ v rest, s.cur.ras = v :: rest → s.codeOk (v.zeroExtend 64) →
      exec .ret s = .next ((s.updCur (fun c => { c with ras := rest })).jumpedTo v)) ∧
    (∀ v rest, s.cur.ras = v :: rest → ¬ s.codeOk (v.zeroExtend 64) →
      exec .ret s = .next (s.raise (trapCode (v.zeroExtend 64)))) ∧
    (s.cur.ras = [] → s.cur.rsc = 0 → exec .ret s = .next (s.raise (TrapI.mk3 10 0 0))) ∧
    (s.cur.ras = [] → s.cur.rsc ≠ 0 →
      (∀ t s1, s.cCheck s.cur.rsp 8 false true = .trap t s1 → exec .ret s = .next (s1.raise t)) ∧
      (∀ s1, s.cCheck s.cur.rsp 8 false true = .wait s1 → exec .ret s = .next s1.waitsIn) ∧
      (∀ ps s1, s.cCheck s.cur.rsp 8 false true = .ok ps s1 →
        (∀ t s2, s1.cReads false ps = .trap t s2 → exec .ret s = .next (s2.raise t)) ∧
        (∀ s2, s1.cReads false ps = .wait s2 → exec .ret s = .next s2.waitsIn) ∧
        (∀ bs s2, s1.cReads false ps = .ok bs s2 → s2.hasCore →
          let v : Word := BitVec.ofNat 64 (ofBytes bs)
          (s2.codeOk v → exec .ret s =
            .next ((s2.updCur (fun c => { c with rsp := c.rsp + 8, rsc := c.rsc - 1 })).finish (.goto (v.truncate 28)))) ∧
          (¬ s2.codeOk v → exec .ret s =
            .next ((s2.updCur (fun c => { c with ras := [], rsp := s.cur.rsp, rsc := s.cur.rsc })).raise (trapCode v))))))

/-- Let body be the successor, LE the end address, and the count CNT (LOOPI) or G[A][31:0] (LOOP). If LE is below body, the loop-bounds trap is raised naming the set. If the count is not 0, the set becomes lc = count, ls = body, le = ae = LE and the instruction is done, continuing at body. If it is 0 and the instruction at LE has the successor skip inside the image, the set is filled with count 0 and the instruction is done, continuing at skip. For an instruction that transfers no control and is done (finish .seq), on a core that counts no debug steps: where a boundary of set 1 falls on it with lc > 1, ls ≤ le and the line of ls in the image, it continues at ls_1 with lc_1 one less and ae_1 = le_1, set 0 as before; with lc > 1 and le < ls the loop-bounds trap is raised with EPC the successor and EINFO the set's number, the set as it was, set 0 not looked at; with the line of ls beyond the image the code-address fault with EINFO ls and EPC the successor (the model's choice, log entry 84); with lc = 1 set 1 ends (lc_1 := 0), and a boundary of set 0 that falls on the same retirement is evaluated next. Set 0 does the same, alone or after set 1 has ended. Where both end, or the one there is, execution continues at the successor. At the end of a chain without successor the loop-bounds trap has EPC the instruction itself and EINFO[8] = 1. In a trap handler (INTRAP = 1) no boundary occurs. -/
def Obligations.Loops : Prop :=
  (∀ (s : State) (set : BitVec 1) (r : Reg) (cnt : BitVec 20) (le body : CodeAddr), s.hasCore → s.cur.pfx = none →
     s.cur.succ = some body →
     let fill := fun (s : State) (n : BitVec 32) => s.updCur (fun c => c.setLoop set.toNat { lc := n, ls := body, le := le, ae := le })
     let k := (s.g r).truncate 32
     (le < body →
       exec (.loop set r le) s = .next (s.raise (TrapI.mk3 11 0 (set.zeroExtend 64))) ∧
       exec (.loopi set cnt le) s = .next (s.raise (TrapI.mk3 11 0 (set.zeroExtend 64)))) ∧
     (body ≤ le → k ≠ 0 → exec (.loop set r le) s = .next ((fill s k).finish .seq)) ∧
     (body ≤ le → cnt ≠ 0 → exec (.loopi set cnt le) s = .next ((fill s (cnt.zeroExtend 32)).finish .seq)) ∧
     (∀ skip s1, body ≤ le → s.succAt le = .ok (some skip) s1 → lineOf skip < (fill s1 0).image.2 →
       let t := (fill s1 0).updCur (fun c => { c with succ := some skip })
       (k = 0 → exec (.loop set r le) s = .next (t.finish .seq)) ∧
       (cnt = 0 → exec (.loopi set cnt le) s = .next (t.finish .seq)))) ∧
  (∀ (s : State), s.hasCore → s.cur.stepLeft = none →
     let l := s.cur.loop
     let ended := s.updCur (fun c => { c with far := [], ffar := [], pfx := none, pfxp := false, waiting := false })
     let off := fun (n : Nat) (c : Tcc) => c.setLoop n { c.loop n with lc := 0 }
     let down := fun (n : Nat) (c : Tcc) => c.setLoop n { c.loop n with lc := (c.loop n).lc - 1, ae := (c.loop n).le }
     let fits := fun (n : Nat) => (l n).lc ≠ 1 ∧ (l n).ls ≤ (l n).le ∧ lineOf (l n).ls < s.image.2
     let stray := fun (n : Nat) => (l n).lc ≠ 1 ∧ (l n).ls ≤ (l n).le ∧ s.image.2 ≤ lineOf (l n).ls
     let low := fun (n : Nat) => (l n).lc ≠ 1 ∧ (l n).le < (l n).ls
     let traps := fun (f : Tcc → Tcc) (t : TrapI) => s.finish .seq = ((ended.updCur f).raise t).countRetired
     let only1 := s.boundaryAt 1 ∧ ¬ s.boundaryAt 0
     let only0 := s.boundaryAt 0 ∧ ¬ s.boundaryAt 1
     let both := s.boundaryAt 1 ∧ s.boundaryAt 0 ∧ (l 1).lc = 1
     (s.boundaryAt 1 → fits 1 → s.finish .seq = (s.updCur (down 1)).jumpedTo (l 1).ls) ∧
     (only0 → fits 0 → s.finish .seq = (s.updCur (down 0)).jumpedTo (l 0).ls) ∧
     (both → fits 0 → s.finish .seq = (s.updCur (fun c => down 0 (off 1 c))).jumpedTo (l 0).ls) ∧
     (∀ a, s.hasSucc a →
       (only1 → (l 1).lc = 1 → s.finish .seq = (s.updCur (off 1)).goneTo a) ∧
       (only0 → (l 0).lc = 1 → s.finish .seq = (s.updCur (off 0)).goneTo a) ∧
       (both → (l 0).lc = 1 → s.finish .seq = (s.updCur (fun c => off 0 (off 1 c))).goneTo a) ∧
       (s.boundaryAt 1 → low 1 → traps id { TrapI.mk3 11 0 1 with epc := some a }) ∧
       (only0 → low 0 → traps id { TrapI.mk3 11 0 0 with epc := some a }) ∧
       (both → low 0 → traps (off 1) { TrapI.mk3 11 0 0 with epc := some a }) ∧
       (s.boundaryAt 1 → stray 1 → traps id { trapCode ((l 1).ls.zeroExtend 64) with epc := some a }) ∧
       (only0 → stray 0 → traps id { trapCode ((l 0).ls.zeroExtend 64) with epc := some a }) ∧
       (both → stray 0 → traps (off 1) { trapCode ((l 0).ls.zeroExtend 64) with epc := some a }) ∧
       (s.cur.intrap = true → s.finish .seq = s.goneTo a)) ∧
     (s.cur.succ = none →
       (s.boundaryAt 1 → low 1 → traps id { TrapI.mk3 11 0 257 with epc := some s.cur.pc }) ∧
       (only0 → low 0 → traps id { TrapI.mk3 11 0 256 with epc := some s.cur.pc }) ∧
       (both → low 0 → traps (off 1) { TrapI.mk3 11 0 256 with epc := some s.cur.pc })))

/-- For every size and any legal prefix (IMX with own offset 0, SCP): let ea be G[A] plus the offset in force. Where the checks of the C path pass for the n bytes at ea and their parts read as bs, leaving s2, LD writes the little-endian value of bs and LDS the value sign-extended from 8n bits, and is done; LDA does as LD with its address checked for alignment, its parts read past L1 where all are RC pages, and L1 then emptied. Where a check finds trap t, the instruction raises t; where a part's read traps, it raises that; where it must wait for another package, it waits. For every address and any legal prefix, on every core: PFL is done in a state in which the core is as before (but INJA and INJC where an armed error struck) and, where no storage error stands or is armed, every byte of memory is the same (a line may have entered the tile's L1, a translation or a block's state may be held). -/
def Obligations.MemoryLoads : Prop :=
  (∀ (s : State) (d x : Reg) (sz : BitVec 2) (off : BitVec 14), s.hasCore → s.pfxOk (decide (off = 0)) true →
     let ea := s.g x + s.immSigned off
     let n := 2 ^ sz.toNat
     let rc := fun (ps : List CPart) => ps.all (fun p => decide (p.kind = .rc))
     let ld := exec (.ld d x sz off) s
     let lds := exec (.lds d x sz off) s
     let lda := exec (.lda d x sz off) s
     (∀ ps s1 bs s2, s.cCheck ea n false false = .ok ps s1 → s1.cReads false ps = .ok bs s2 →
       ld = .next ((s2.setG d (BitVec.ofNat 64 (ofBytes bs))).finish .seq) ∧
       lds = .next ((s2.setG d (BitVec.ofInt 64 (BitVec.ofNat (8 * n) (ofBytes bs)).toInt)).finish .seq)) ∧
     (∀ ps s1 bs s2, s.cCheck ea n false true = .ok ps s1 → s1.cReads (rc ps) ps = .ok bs s2 →
       lda = .next (((if rc ps then s2.l1Drop else s2).setG d (BitVec.ofNat 64 (ofBytes bs))).finish .seq)) ∧
     (∀ t s1, s.cCheck ea n false false = .trap t s1 → ld = .next (s1.raise t) ∧ lds = .next (s1.raise t)) ∧
     (∀ t s1, s.cCheck ea n false true = .trap t s1 → lda = .next (s1.raise t)) ∧
     (∀ ps s1 t s2, s.cCheck ea n false false = .ok ps s1 → s1.cReads false ps = .trap t s2 →
       ld = .next (s2.raise t) ∧ lds = .next (s2.raise t)) ∧
     (∀ ps s1 s2, s.cCheck ea n false false = .ok ps s1 → s1.cReads false ps = .wait s2 →
       ld = .next s2.waitsIn ∧ lds = .next s2.waitsIn)) ∧
  (∀ (s : State) (x : Reg) (sz : BitVec 2) (off : BitVec 14), s.hasCore → s.pfxOk (decide (off = 0)) true →
     ∃ s2 : State, exec (.pfl x sz off) s = .next (s2.finish .seq) ∧ { s2.cur with inj := s.cur.inj } = s.cur ∧
       (s.clean → s2.mem = s.mem) ∧ s2.who = s.who)

/-- For n bytes at ea: an ea at or above 2^57, or a range that passes 2^57, is the address fault with EINFO ea; else, for an access that must be aligned, an ea that n does not divide is the alignment fault with EINFO ea; else the access is cut at multiples of 128: every part is translated, in ascending order, the first failing part deciding, and only then are the window rules of every part tested, in ascending order. After all of them a part that stands behind a socket out of service is the remote error RSVSOCK with EINFO its physical address, the first such part deciding. Two parts of a store that follow one another in one window of another package, or of a tile that is saved, under one translation, go as one. A part in another package, or behind such a socket, that is a store into the z tiles of a window is the alignment fault with EINFO its address; other parts in another package are tested there. (That parts are cut at 128 bytes, and which of them go together, is the model's choice, log entry 108.) -/
def Obligations.AccessChecks : Prop :=
  (∀ (s : State) (ea : Word) (n : Nat) (write : Bool),
    (2 ^ 57 < ea.toNat + n ∨ 2 ^ 57 ≤ ea.toNat → ∀ al, s.cCheck ea n write al = .trap (TrapI.mk3 5 0 ea) s) ∧
    (ea.toNat + n ≤ 2 ^ 57 → ea.toNat < 2 ^ 57 → ea.toNat % n ≠ 0 → s.cCheck ea n write true = .trap (TrapI.mk3 6 0 ea) s) ∧
    (ea.toNat + n ≤ 2 ^ 57 → 0 < n → n ≤ 8 →
      (ea.toNat % 128 + n ≤ 128 →
        (∀ p s1, s.cPart ea.toNat n write = .ok p s1 →
          (∀ s2, s1.cPartRules write p = .ok () s2 → s.cCheck ea n write false =
            if p.out then .trap (TrapI.mk3 35 1 (BitVec.ofNat 64 p.pa)) s2 else .ok [p] s2) ∧
          (∀ t s2, s1.cPartRules write p = .trap t s2 → s.cCheck ea n write false = .trap t s2) ∧
          (∀ s2, s1.cPartRules write p = .wait s2 → s.cCheck ea n write false = .wait s2)) ∧
        (∀ t s1, s.cPart ea.toNat n write = .trap t s1 → s.cCheck ea n write false = .trap t s1)) ∧
      (128 < ea.toNat % 128 + n →
        let m := 128 - ea.toNat % 128
        (∀ p q s1 s2, s.cPart ea.toNat m write = .ok p s1 → s1.cPart (ea.toNat + m) (n - m) write = .ok q s2 →
          (∀ s3 s4, s2.cPartRules write p = .ok () s3 → s3.cPartRules write q = .ok () s4 →
            let one := write = true ∧ p.far ≠ none ∧ p.far = q.far ∧ p.pin = q.pin ∧ p.pa / 2 ^ 51 % 2 = 1 ∧ q.pa = p.pa + m ∧
              q.pa / 2 ^ 24 = p.pa / 2 ^ 24
            (p.out = true → s.cCheck ea n write false = .trap (TrapI.mk3 35 1 (BitVec.ofNat 64 p.pa)) s4) ∧
            (p.out = false → q.out = true → s.cCheck ea n write false = .trap (TrapI.mk3 35 1 (BitVec.ofNat 64 q.pa)) s4) ∧
            (p.out = false → q.out = false → (one → s.cCheck ea n write false = .ok [{ p with n := n }] s4) ∧
              (¬ one → s.cCheck ea n write false = .ok [p, q] s4))) ∧
          (∀ t s3, s2.cPartRules write p = .trap t s3 → s.cCheck ea n write false = .trap t s3) ∧
          (∀ t s3 s4, s2.cPartRules write p = .ok () s3 → s3.cPartRules write q = .trap t s4 →
            s.cCheck ea n write false = .trap t s4)) ∧
        (∀ t s1, s.cPart ea.toNat m write = .trap t s1 → s.cCheck ea n write false = .trap t s1) ∧
        (∀ p t s1 s2, s.cPart ea.toNat m write = .ok p s1 → s1.cPart (ea.toNat + m) (n - m) write = .trap t s2 →
          s.cCheck ea n write false = .trap t s2)))) ∧
  (∀ (s : State) (p : CPart), p.far ≠ none ∨ p.out = true →
    (0x8000000000000 ≤ p.pa % 2 ^ 52 → 0x600000 ≤ p.pa % 2 ^ 24 → p.pa % 2 ^ 24 < 0x880000 → 0 < p.n →
      s.cPartRules true p = .trap (TrapI.mk3 6 0 (BitVec.ofNat 64 p.va)) s) ∧
    s.cPartRules false p = .ok () s)

/-- For every size and any legal prefix: let ea be G[A] plus the offset in force, n the size. Where the checks of the C path pass for a write of n bytes at ea (aligned for STL), giving parts of this package, in a state whose memory is canonical and that holds no storage error: the instruction is done in a state s2 in which every byte of memory outside the parts reads as before, memory is canonical, registers, predicates and the rest of the core are as before, and, where there is one part, it holds the n low bytes of G[D]. Where a check finds trap t, the instruction raises t and, where no storage error stands or is armed, memory is as before. -/
def Obligations.MemoryStores : Prop :=
  ∀ (s : State) (d x : Reg) (sz : BitVec 2) (off : BitVec 14), s.hasCore → s.pfxOk (decide (off = 0)) true →
    let ea := s.g x + s.immSigned off
    let n := 2 ^ sz.toNat
    let stores := fun (o : Out) (al : Bool) =>
      (∀ ps s1, s.cCheck ea n true al = .ok ps s1 → (∀ p ∈ ps, p.far = none) → s1.bad = [] → s1.mem.wf = true →
        ∃ s2 : State, o = .next (s2.finish .seq) ∧ s2.cur = s1.cur ∧ s2.cur.regs = s.cur.regs ∧ s2.cur.preds = s.cur.preds ∧
          s2.mem.wf = true ∧ (s.clean → s1.mem = s.mem) ∧
          (∀ k, (∀ p ∈ ps, k < p.key ∨ p.key + p.n ≤ k) → s2.mem.get k = s1.mem.get k) ∧
          (∀ p, ps = [p] → s2.mem.getN p.key n = leBytes n (s.g d).toNat)) ∧
      (∀ t s1, s.cCheck ea n true al = .trap t s1 → o = .next (s1.raise t) ∧ (s.clean → s1.mem = s.mem))
    stores (exec (.st d x sz off) s) false ∧ stores (exec (.stl d x sz off) s) true

/-- On a tile bound to a launch that is not saved, at a plain place with no prefix, with no storage error standing or armed: for an address in the launch window that names, on a die in service, the tile h of some LTN, bound to that launch, and n bytes inside h's scratchpad (below 6 MiB), LD writes the little-endian value of the n bytes at that place of h's window, LDS sign-extends it, LDA (aligned) does as LD and empties the tile's L1 (the window is RC), PFL changes nothing, and each continues at its successor. No byte of memory changes. On a tile bound to a launch that is not saved, at a plain place with no prefix, with no storage error standing: for an address in the launch window that names n bytes of the scratchpad of tile h of that launch, on a die in service, below the chain regions (and the deferral area where it is reserved): ST, and STL where n divides the offset, write the n low bytes of G[D] there, least significant first, and continue at the successor; nothing else changes. Bytes that touch the chain regions or the reserved deferral area raise the queue-region fault with EINFO the offset at the tile itself, and a remote error (sub-code QREGION, EINFO the physical address) at another tile. -/
def Obligations.WindowAccesses : Prop :=
  (∀ (s : State) (g k ltn h off : Nat) (l : Launch) (d x : Reg) (sz : BitVec 2) (o : BitVec 14) (a : CodeAddr),
     s.onTile g → s.plainAt a → s.cur.pfx = none → (s.tile g).bound = some k → AMap.find? s.launches k = some l → l.st ≠ .saved →
     l.tiles[ltn]? = some h → ltn < 2 ^ 24 → h < 256 → (s.tile h).bound = some k → s.clean → s.sockOut (h / 16 + 1) = false →
     (s.g x + o.signExtend 64).toNat = 0x1FF * 2 ^ 48 + ltn * 2 ^ 24 + off →
     let n := 2 ^ sz.toNat
     off + n ≤ (s.tile h).spBytes → off + n ≤ 0x600000 →
     let v := ofBytes (s.mem.getN (tileBase h + off) n)
     exec (.ld d x sz o) s = .next ((s.setG d (BitVec.ofNat 64 v)).goneTo a) ∧
     exec (.lds d x sz o) s = .next ((s.setG d (BitVec.ofInt 64 (BitVec.ofNat (8 * n) v).toInt)).goneTo a) ∧
     exec (.pfl x sz o) s = .next (s.goneTo a) ∧
     (off % n = 0 →
       exec (.lda d x sz o) s = .next ((((s.updMe (fun t => { t with l1 := [] })).setG d (BitVec.ofNat 64 v))).goneTo a))) ∧
  (∀ (s : State) (g k ltn h off : Nat) (l : Launch) (d x : Reg) (sz : BitVec 2) (o : BitVec 14) (a : CodeAddr),
     s.onTile g → s.plainAt a → s.cur.pfx = none → (s.tile g).bound = some k → AMap.find? s.launches k = some l → l.st ≠ .saved →
     l.tiles[ltn]? = some h → ltn < 2 ^ 24 → h < 256 → (s.tile h).bound = some k → s.bad = [] → s.sockOut (h / 16 + 1) = false →
     (s.g x + o.signExtend 64).toNat = 0x1FF * 2 ^ 48 + ltn * 2 ^ 24 + off →
     let n := 2 ^ sz.toNat
     let sp := (s.tile h).spBytes
     let lo := sp - (if (s.tile h).dqon then 304 * 1024 else 48 * 1024)
     off + n ≤ sp → sp ≤ 0x600000 →
     let done := Host.Outcome.next
       (State.goneTo { s with mem := s.mem.setN (tileBase h + off) (leBytes n (s.g d).toNat) } a)
     (off + n ≤ lo → exec (.st d x sz o) s = done ∧ (off % n = 0 → exec (.stl d x sz o) s = done)) ∧
     (lo ≤ off → off % 128 + n ≤ 128 →
       exec (.st d x sz o) s = .next (s.raise (if g = h then TrapI.mk3 12 0 (BitVec.ofNat 64 off)
         else TrapI.mk3 35 7 (BitVec.ofNat 64 (tileBase h + off))))))

/-- At a plain place with no prefix or an SCP, with no storage error standing or armed, for a double of the atomic region: on a tile named by its local offset, on a management core by the physical address of a tile window of this package, of a tile that no pre-emption has saved; 8-aligned. AADD, AMIN, AMAX, AMINU, AMAXU, AXCHG, AAND, AOR and AXOR write the new word that the table gives from the old word and G[B], write the old word to G[D], and continue; ACAS writes G[B] only where the old word equals the old G[D], and returns the old word. On a tile a G[A] outside the atomic region, and on a management core one that is no address in the atomic region of a tile window, raises the address fault, and a misaligned one in it the alignment fault, in each of the ten, with EINFO G[A]. No byte outside the 8 named changes. -/
def Obligations.Atomics : Prop :=
  ∀ (s : State) (d x y : Reg) (off h key : Nat) (a : CodeAddr), s.plainAt a → s.pfxOk false true → s.clean →
    h < 256 → ((s.onTile h ∧ (s.g x).toNat = off) ∨
      (∃ n, s.who = .core n ∧ (s.g x).toNat = tileBase h + off ∧ s.sockOut (h / 16 + 1) = false ∧ s.savedTile h = false)) →
    0x880000 ≤ off → off < 0x8C0000 → key = tileBase h + off →
    let old : Word := BitVec.ofNat 64 (ofBytes (s.mem.getN key 8))
    let b := s.g y
    let becomes := fun (new : Word) =>
      Host.Outcome.next ((State.setG { s with mem := s.mem.setN key (leBytes 8 new.toNat) } d old).goneTo a)
    (off % 8 = 0 →
      exec (.aadd d x y) s = becomes (BitVec.ofNat 64 (old.toNat + b.toNat)) ∧
      exec (.amin d x y) s = becomes (if b.toInt < old.toInt then b else old) ∧
      exec (.amax d x y) s = becomes (if old.toInt < b.toInt then b else old) ∧
      exec (.aminu d x y) s = becomes (if b.toNat < old.toNat then b else old) ∧
      exec (.amaxu d x y) s = becomes (if old.toNat < b.toNat then b else old) ∧
      exec (.axchg d x y) s = becomes b ∧
      exec (.aand d x y) s = becomes (old &&& b) ∧
      exec (.aor d x y) s = becomes (old ||| b) ∧
      exec (.axor d x y) s = becomes (old ^^^ b) ∧
      (old = s.g d → old ≠ b → exec (.acas d x y) s = becomes b) ∧
      (old ≠ s.g d ∨ old = b → exec (.acas d x y) s = .next ((s.setG d old).goneTo a))) ∧
    let all := fun (r : Reg) => [Instr.aadd d r y, .amin d r y, .amax d r y, .aminu d r y, .amaxu d r y, .axchg d r y, .acas d r y,
      .aand d r y, .aor d r y, .axor d r y]
    (off % 8 ≠ 0 → ∀ i ∈ all x, exec i s = .next (s.raise (TrapI.mk3 6 0 (s.g x)))) ∧
    (∀ r : Reg, s.who = .tile h → ((s.g r).toNat < 0x880000 ∨ 0x8C0000 ≤ (s.g r).toNat) →
      ∀ i ∈ all r, exec i s = .next (s.raise (TrapI.mk3 5 0 (s.g r)))) ∧
    (∀ (r : Reg) (n : Nat), s.who = .core n →
      ¬ ((s.g r).toNat / 2 ^ 44 = 0xFF ∧ (s.g r).toNat / 2 ^ 41 % 8 = 0 ∧ 0x880000 ≤ (s.g r).toNat % 2 ^ 24 ∧ (s.g r).toNat % 2 ^ 24 < 0x8C0000) →
      ∀ i ∈ all r, exec i s = .next (s.raise (TrapI.mk3 5 0 (s.g r))))

/-- On a tile at a plain place, no prefix: MFS of each assigned number writes the register's value to G[D] and continues, nothing else changing. STATUS is PRIV, LOOPA, FRZ, INTRAP and PFXP (which a return from a trap restores); TOKC, QCAP, QSTAT and BSTn are the fields of Tables 1.5, 1.7 and 1.6; TAGNi is bits 64i+63 to 64i of the tags' counts; the trap registers, INJA and INJC are read at M. -/
def Obligations.SpecialRegisterReads : Prop :=
  ∀ (s : State) (k : Nat) (d : Reg) (a : CodeAddr), s.onTile k → s.plainAt a → s.cur.pfx = none →
    let t := s.tile k
    let c := t.tcc
    let reads := fun (n : BitVec 10) (v : Word) => exec (.mfs d n) s = .next ((s.setG d v).goneTo a)
    let z := fun {n : Nat} (v : BitVec n) => v.zeroExtend 64
    let N := fun (n : Nat) => BitVec.ofNat 64 n
    let full := fun (x : Queue) => b2n (decide (256 + 256 * x.segs.length ≤ x.ents.length))
    let waits := fun (x : Queue) => b2n ((x.ents.find? (fun e => decide (e.st ≠ .done))).any (fun e => e.held))
    let cap := fun (x : Queue) => 256 + 256 * x.segs.length
    reads 0x000 (N (b2n c.atM + 2 * (b2n (decide (c.loop0.lc ≠ 0)) + b2n (decide (c.loop1.lc ≠ 0))) + 8 * b2n t.frz +
      16 * b2n c.intrap + 32 * b2n c.pfxp)) ∧
    reads 0x001 (N t.ltn) ∧ reads 0x002 t.lrect ∧ reads 0x003 (N (k % 16 + k / 16 * 16)) ∧ reads 0x004 t.lid ∧ reads 0x005 t.rcba ∧
    reads 0x006 t.cpri ∧ reads 0x007 t.frm ∧ reads 0x008 t.jca ∧
    reads 0x010 (z c.loop0.lc) ∧ reads 0x011 (z c.loop0.ls) ∧ reads 0x012 (z c.loop0.le) ∧
    reads 0x013 (z c.loop1.lc) ∧ reads 0x014 (z c.loop1.ls) ∧ reads 0x015 (z c.loop1.le) ∧
    reads 0x018 c.rsp ∧ reads 0x019 (z c.rsc) ∧ reads 0x01A (N c.ras.length) ∧ reads 0x01B c.spillb ∧
    reads 0x020 t.lq.seq ∧ reads 0x021 t.xq.seq ∧ reads 0x022 t.sq.seq ∧
    reads 0x023 t.lq.isn ∧ reads 0x024 t.xq.isn ∧ reads 0x025 t.sq.isn ∧ reads 0x026 t.seqw ∧
    reads 0x028 (z t.lq.head) ∧ reads 0x029 (z t.lq.tail) ∧ reads 0x02A (z t.xq.head) ∧ reads 0x02B (z t.xq.tail) ∧
    reads 0x02C (z t.sq.head) ∧ reads 0x02D (z t.sq.tail) ∧
    reads 0x02E (N (cap t.lq + cap t.xq * 2 ^ 16 + cap t.sq * 2 ^ 32)) ∧
    reads 0x030 (N (t.lx + t.xl * 2 ^ 8 + t.xs * 2 ^ 16 + t.sx * 2 ^ 24)) ∧ reads 0x031 t.tags ∧
    reads 0x032 (N (t.xret.length + full t.lq * 2 ^ 8 + full t.xq * 2 ^ 9 + full t.sq * 2 ^ 10 +
      waits t.lq * 2 ^ 12 + waits t.xq * 2 ^ 13 + waits t.sq * 2 ^ 14 +
      b2n (decide (0 < t.lq.segs.length + t.xq.segs.length + t.sq.segs.length)) * 2 ^ 15)) ∧
    reads 0x034 t.scc ∧ reads 0x035 t.tcfg ∧ reads 0x036 (z t.mxe.anchor) ∧ reads 0x037 (z t.fstat) ∧ reads 0x038 t.msea ∧
    reads 0x039 (z t.seed) ∧ reads 0x03A t.mcap ∧ reads 0x03B (N t.dqn) ∧
    (∀ i : Fin 8, reads (BitVec.ofNat 10 (0x040 + i.val)) (N (t.tagn.toNat / 2 ^ (64 * i.val) % 2 ^ 64))) ∧
    (∀ i : Fin 16, reads (BitVec.ofNat 10 (0x050 + i.val)) (N t.mxe.z[i].wm)) ∧
    reads 0x060 t.lq.mpc ∧ reads 0x061 t.xq.mpc ∧ reads 0x062 t.sq.mpc ∧
    (∀ i : Fin 64, let b := t.bar i.val
      reads (BitVec.ofNat 10 (0x100 + i.val)) (N (b2n b.cfg + 2 * b2n b.member + 4 * b2n b.arr + 256 * b.gen.toNat))) ∧
    (c.atM = true → reads 0x070 c.trap.epc ∧ reads 0x071 c.trap.ecause ∧ reads 0x072 c.trap.einfo ∧ reads 0x073 c.trap.ebase ∧
      reads 0x074 c.trap.estatus ∧ reads 0x075 c.trap.eword ∧ reads 0x080 c.inj.inja ∧ reads 0x081 c.inj.injc)

/-- On a tile with no prefix: MFS and MTS of a number that Table 1.1 does not assign raise the illegal-instruction trap. At P, MFS of a trap or injection register and an MTS of those or of any register that only M may write raise the privilege trap, in every form of MTS; so do ERET, TLBINV, SRD and SWR. On a management core (R462) the numbers outside its own few are reserved: MFS and MTS of them raise the illegal-instruction trap, TCFG's, the queues', TOKC's, ZWM's, DQN's, SEQW's and SEED's forms among them. On a management core, with no prefix: every token, tag, barrier, batch and queue instruction, the work instructions and every engine instruction, whatever its family (TOKP and XCALL among them), raise the illegal-instruction trap. -/
def Obligations.SpecialRegisterTraps : Prop :=
  (∀ (s : State) (d : Reg) (n : BitVec 10), s.cur.pfx = none →
     let i := n.toNat
     let assigned := List.range 9 ++ [0x10, 0x11, 0x12, 0x13, 0x14, 0x15, 0x18, 0x19, 0x1A, 0x1B] ++
       [0x20, 0x21, 0x22, 0x23, 0x24, 0x25, 0x26, 0x28, 0x29, 0x2A, 0x2B, 0x2C, 0x2D, 0x2E, 0x30, 0x31, 0x32] ++
       [0x34, 0x35, 0x36, 0x37, 0x38, 0x39, 0x3A, 0x3B, 0x60, 0x61, 0x62, 0x70, 0x71, 0x72, 0x73, 0x74, 0x75, 0x80, 0x81] ++
       (List.range 8).map (fun j => 0x40 + j) ++ (List.range 16).map (fun j => 0x50 + j) ++ (List.range 64).map (fun j => 0x100 + j)
     let illegal := Host.Outcome.next (s.raise trapIllegal)
     let privilege := Host.Outcome.next (s.raise trapPrivilege)
     (∀ k, s.onTile k → i ∉ assigned → exec (.mfs d n) s = illegal ∧ exec (.mts d n) s = illegal) ∧
     (∀ k, s.onTile k → s.cur.atM = false →
       (i ∈ [0x70, 0x71, 0x72, 0x73, 0x74, 0x75, 0x80, 0x81] → exec (.mfs d n) s = privilege ∧ exec (.mts d n) s = privilege) ∧
       (i ∈ [0x05, 0x07, 0x08, 0x19, 0x1B, 0x31, 0x34, 0x36, 0x60, 0x61, 0x62] ++ (List.range 8).map (fun j => 0x40 + j) ++
         (List.range 64).map (fun j => 0x100 + j) → exec (.mts d n) s = privilege) ∧
       exec (.mtsTcfg d) s = privilege ∧ (∀ b q, exec (.mtsQueueNumber d b q) s = privilege ∧ exec (.mtsQueueLink d b q) s = privilege) ∧
       exec (.mtsTokc d) s = privilege ∧ (∀ z, exec (.mtsZwm d z) s = privilege) ∧ exec (.mtsDqn d) s = privilege ∧
       exec (.mtsEbase d) s = privilege ∧ exec (.injArm d) s = privilege ∧
       exec .eret s = privilege ∧ (∀ x m sc, exec (.tlbinv x m sc) s = privilege) ∧
       (∀ x, exec (.srd d x) s = privilege ∧ exec (.swr d x) s = privilege)) ∧
     (∀ k, s.who = .core k →
       (i ∉ [0x00, 0x0A, 0x10, 0x11, 0x12, 0x13, 0x14, 0x15, 0x18, 0x19, 0x1A, 0x1B, 0x70, 0x71, 0x72, 0x73, 0x74, 0x75, 0x80, 0x81] →
         exec (.mfs d n) s = illegal ∧ exec (.mts d n) s = illegal) ∧
       exec (.mtsTcfg d) s = illegal ∧ (∀ b q, exec (.mtsQueueNumber d b q) s = illegal ∧ exec (.mtsQueueLink d b q) s = illegal) ∧
       exec (.mtsTokc d) s = illegal ∧ (∀ z, exec (.mtsZwm d z) s = illegal) ∧ exec (.mtsDqn d) s = illegal ∧
       exec (.mtsSeqw d) s = illegal ∧ exec (.mtsSeed d) s = illegal)) ∧
  (∀ (s : State) (n : Nat) (d x y : Reg), s.who = .core n → s.cur.pfx = none →
     let illegal := Host.Outcome.next (s.raise trapIllegal)
     (∀ c f p, exec (.tokw d c f p) s = illegal) ∧ exec (.tagwa d x) s = illegal ∧ exec (.tagwl d x) s = illegal ∧
     (∀ c, exec (.tagff d x c) s = illegal) ∧ exec (.tagclr x) s = illegal ∧ (∀ b sc, exec (.bara b sc) s = illegal) ∧
     (∀ b, exec (.barw d b) s = illegal) ∧ (∀ b sc, exec (.baraw d b sc) s = illegal) ∧ (∀ b, exec (.barset x b) s = illegal) ∧
     exec .bclose s = illegal ∧ (∀ b, exec (.waitb d b) s = illegal) ∧ (∀ b, exec (.qdrain b) s = illegal) ∧
     (∀ q, exec (.qseq d x q) s = illegal) ∧ exec (.xretw d) s = illegal ∧ exec (.spawn x y) s = illegal ∧
     exec (.spawnj d x y) s = illegal ∧ exec (.join d x) s = illegal ∧ exec .yield s = illegal ∧ exec .halt s = illegal ∧ exec (.launch d x y) s = illegal ∧
     (∀ i : Instr, i.eng? ≠ none → exec i s = illegal))

/-- On a tile at a plain place, no prefix: MTS to RSP, FSTAT and MSEA at either level, and at M to RCBA, FRM, JCA, RSC, SPILLB, TAGS, SCC, ANCHOR, the micro-PCs, TAGN0 to 7, BST0 to 63, EPC, ECAUSE, EINFO, ESTATUS, EWORD and INJA, writes G[G]'s low bits (those the register's table assigns; the rest stay zero) and continues; nothing else changes, but that a TAGS bit that becomes 1 sets event latch 0. An MTS to a register that is read-only at both levels continues and changes nothing. -/
def Obligations.SpecialRegisterWrites : Prop :=
  ∀ (s : State) (k : Nat) (g : Reg) (a : CodeAddr), s.onTile k → s.plainAt a → s.cur.pfx = none →
    let v := s.g g
    let mts := fun (n : BitVec 10) => exec (.mts g n) s
    let tile := fun (f : Tile → Tile) => Host.Outcome.next ((s.updMe f).goneTo a)
    let core := fun (f : Tcc → Tcc) => Host.Outcome.next ((s.updCur f).goneTo a)
    let trap := fun (f : TrapRegs → TrapRegs) => core (fun c => { c with trap := f c.trap })
    mts 0x018 = core (fun c => { c with rsp := v }) ∧
    mts 0x037 = tile (fun t => { t with fstat := v.truncate 5 }) ∧ mts 0x038 = tile (fun t => { t with msea := v }) ∧
    (∀ n ∈ ([0x000, 0x001, 0x002, 0x003, 0x004, 0x006, 0x01A, 0x02E, 0x032, 0x03A] : List (BitVec 10)),
      mts n = tile id ∨ mts n = core id) ∧
    (s.cur.atM = true →
      mts 0x005 = tile (fun t => { t with rcba := v }) ∧ mts 0x007 = tile (fun t => { t with frm := v }) ∧
      mts 0x008 = tile (fun t => { t with jca := v }) ∧ mts 0x019 = core (fun c => { c with rsc := v.truncate 32 }) ∧
      mts 0x01B = core (fun c => { c with spillb := v }) ∧ mts 0x031 = tile (fun t => if v &&& ~~~ t.tags = 0 then { t with tags := v } else Tile.latch { t with tags := v } 0) ∧
      mts 0x034 = tile (fun t => { t with scc := v }) ∧
      mts 0x036 = tile (fun t => { t with mxe := { t.mxe with anchor := v.truncate 16 } }) ∧
      mts 0x060 = tile (fun t => { t with lq := { t.lq with mpc := v &&& 0xFFFFFFFF8FFFFFFF } }) ∧
      mts 0x061 = tile (fun t => { t with xq := { t.xq with mpc := v &&& 0xFFFFFFFF8FFFFFFF } }) ∧
      mts 0x062 = tile (fun t => { t with sq := { t.sq with mpc := v &&& 0xFFFFFFFF8FFFFFFF } }) ∧
      (∀ i : Fin 8, ∃ x : BitVec 512, mts (BitVec.ofNat 10 (0x040 + i.val)) = tile (fun t => { t with tagn := x }) ∧
        (∀ j : Nat, j < 8 → x.toNat / 2 ^ (64 * j) % 2 ^ 64 =
          if j = i.val then v.toNat else (s.tile k).tagn.toNat / 2 ^ (64 * j) % 2 ^ 64)) ∧
      (∀ i : Fin 64, mts (BitVec.ofNat 10 (0x100 + i.val)) = tile (fun t => { t with
        bst := AMap.put t.bst i.val { cfg := v.getLsbD 0, member := v.getLsbD 1, arr := v.getLsbD 2, gen := (v >>> 8).truncate 8,
                                        rel := false } })) ∧
      mts 0x070 = trap (fun r => { r with epc := v }) ∧ mts 0x071 = trap (fun r => { r with ecause := v &&& 0x7FFFF }) ∧
      mts 0x072 = trap (fun r => { r with einfo := v }) ∧
      mts 0x074 = trap (fun r => { r with estatus := v &&& 0xFFFFFFFF000000FF }) ∧ mts 0x075 = trap (fun r => { r with eword := v }) ∧
      mts 0x080 = core (fun c => { c with inj := { c.inj with inja := v &&& 0xFFFFFFFFFFFFF } }))

/-- On a tile at a plain place, no prefix (at M where M writes): a TOKC count above 16, a ZWMn above 128, a DQN above 4,096, a SEQW that is not 0 and is unaligned or not below the chain regions (the deferral area where it is reserved), an invalid TCFG or one while a queue holds an entry, and a queue number while a command is uncompleted raise the illegal-instruction trap; an LSn, LEn or EBASE that is no code address raises the code-address fault. Otherwise the register takes the value (SEED and LCn the low 32 bits) and execution continues; a SEED is held for the commands issued later while a command that uses SR is in XQ, behind those held already; a TOKC count that grows sets event latch 1; a queue number sets both numbers and the mirror; a link moves head and tail of an empty queue inside its own region; an accepted TCFG empties L1, and a changed size puts the chains of the empty queues at the regions of the new size (the model's choice, log entry 56) and leaves every byte but those that become scratchpad; LEn written in a handler at M re-arms its end. -/
def Obligations.CheckedRegisterWrites : Prop :=
  ∀ (s : State) (k : Nat) (g : Reg) (a : CodeAddr), s.onTile k → s.plainAt a → s.cur.pfx = none →
    let v := s.g g
    let t := s.tile k
    let f := fun (hi lo : Nat) => v.toNat / 2 ^ lo % 2 ^ (hi + 1 - lo)
    let illegal := Host.Outcome.next (s.raise trapIllegal)
    let tile := fun (h : Tile → Tile) => Host.Outcome.next ((s.updMe h).goneTo a)
    let isCode := v.toNat < 2 ^ 28 ∧ v.toNat % 16 ≠ 0
    let sp := t.tcfg.toNat % 16 * 524288
    let low := sp - (if t.tcfg.getLsbD 4 then 304 * 1024 else 48 * 1024)
    (t.xq.usesSr = false → exec (.mtsSeed g) s = tile (fun t => { t with seed := v.truncate 32, seedNext := [] })) ∧
    (t.xq.usesSr = true → exec (.mtsSeed g) s = tile (fun t => { t with seedNext := t.seedNext ++ [(t.xq.isn, v.truncate 32)] })) ∧
    (v.toNat % 8 = 0 ∧ v.toNat + 24 ≤ low ∨ v = 0 → exec (.mtsSeqw g) s = tile (fun t => { t with seqw := v })) ∧
    (¬ (v.toNat % 8 = 0 ∧ v.toNat + 24 ≤ low ∨ v = 0) → exec (.mtsSeqw g) s = illegal) ∧
    (∀ n : BitVec 1, let l := s.cur.loop n.toNat
      let puts := fun (l : LoopSet) => Host.Outcome.next ((s.updCur (fun c => c.setLoop n.toNat l)).finish .seq)
      exec (.mtsLoopRegister g n .lc) s =
        puts { l with lc := v.truncate 32, ae := if l.lc = 0 ∧ v.truncate 32 ≠ (0 : BitVec 32) then l.le else l.ae } ∧
      (isCode → exec (.mtsLoopRegister g n .ls) s = puts { l with ls := v.truncate 28 } ∧
        exec (.mtsLoopRegister g n .le) s =
          puts { l with le := v.truncate 28, ae := if s.cur.intrap = true ∧ s.cur.atM = true then v.truncate 28 else l.ae }) ∧
      (¬ isCode → exec (.mtsLoopRegister g n .ls) s = .next (s.raise (trapCode v)) ∧
        exec (.mtsLoopRegister g n .le) s = .next (s.raise (trapCode v)))) ∧
    (s.cur.atM = true →
      (f 4 0 ≤ 16 ∧ f 12 8 ≤ 16 ∧ f 20 16 ≤ 16 ∧ f 28 24 ≤ 16 →
        exec (.mtsTokc g) s = tile (fun t =>
          let t' := { t with lx := f 4 0, xl := f 12 8, xs := f 20 16, sx := f 28 24 }
          if t.lx < f 4 0 ∨ t.xl < f 12 8 ∨ t.xs < f 20 16 ∨ t.sx < f 28 24 then t'.latch 1 else t')) ∧
      (¬ (f 4 0 ≤ 16 ∧ f 12 8 ≤ 16 ∧ f 20 16 ≤ 16 ∧ f 28 24 ≤ 16) → exec (.mtsTokc g) s = illegal) ∧
      (∀ z : BitVec 4, (v.toNat ≤ 128 → ∃ m : Mxe, exec (.mtsZwm g z) s = tile (fun t => { t with mxe := m, stall := 0 }) ∧
          { m with z := t.mxe.z } = t.mxe ∧ (∀ i : Fin 16, m.z[i] = if i.val = z.toNat then { t.mxe.z[i] with wm := v.toNat } else t.mxe.z[i])) ∧
        (128 < v.toNat → exec (.mtsZwm g z) s = illegal)) ∧
      (v.toNat ≤ 4096 → exec (.mtsDqn g) s = tile (fun t => { t with dqn := v.toNat })) ∧
      (4096 < v.toNat → exec (.mtsDqn g) s = illegal) ∧
      (isCode → exec (.mtsEbase g) s = .next ((s.updCur (fun c => { c with trap := { c.trap with ebase := v } })).goneTo a)) ∧
      (¬ isCode → exec (.mtsEbase g) s = .next (s.raise (trapCode v))) ∧
      (2 ≤ f 3 0 ∧ f 3 0 ≤ 12 ∧ t.lq.ents = [] ∧ t.xq.ents = [] ∧ t.sq.ents = [] → s.mem.wf = true →
        let at_ := fun (q : Queue) (off : Nat) => if f 3 0 * 524288 = sp then q
          else { q with head := BitVec.ofNat 32 ((f 3 0 * 524288 - off) / 64), tail := BitVec.ofNat 32 ((f 3 0 * 524288 - off) / 64) }
        ∃ u : State, exec (.mtsTcfg g) s = .next (u.goneTo a) ∧ u.cur = s.cur ∧
          u.tile k = { t with tcfg := v &&& 0x1F, l1 := [], lq := at_ t.lq (48 * 1024), xq := at_ t.xq (32 * 1024),
                              sq := at_ t.sq (16 * 1024) } ∧
          (∀ i, i < tileBase k + sp ∨ tileBase k + f 3 0 * 524288 ≤ i → u.mem.get i = s.mem.get i)) ∧
      (¬ (2 ≤ f 3 0 ∧ f 3 0 ≤ 12 ∧ t.lq.ents = [] ∧ t.xq.ents = [] ∧ t.sq.ents = []) → exec (.mtsTcfg g) s = illegal) ∧
      (∀ (b : Bool) (q : Q),
        ((∀ e ∈ (t.queue q).ents, e.st = .done) → t.seqw = 0 →
          exec (.mtsQueueNumber g b q) s = .next ((s.updQueue k q (fun x => { x with isn := v, seq := v })).goneTo a)) ∧
        ((∀ e ∈ (t.queue q).ents, e.st = .done) → t.seqw ≠ 0 →
          exec (.mtsQueueNumber g b q) s = .next (State.goneTo (let s' := s.updQueue k q (fun x => { x with isn := v, seq := v })
            { s' with mem := s.mem.setN (tileBase k + t.seqw.toNat + 8 * q.code) (leBytes 8 v.toNat) }) a)) ∧
        ((∃ e ∈ (t.queue q).ents, e.st ≠ .done) → exec (.mtsQueueNumber g b q) s = illegal) ∧
        (let base := (sp - (match q with | .l => 48 * 1024 | .x => 32 * 1024 | .s => 16 * 1024)) / 64
          let i := f 23 0
          ((t.queue q).ents = [] → v.getLsbD 31 = false → base ≤ i → i < base + 256 →
            exec (.mtsQueueLink g b q) s =
              .next ((s.updQueue k q (fun x => { x with head := BitVec.ofNat 32 i, tail := BitVec.ofNat 32 i })).goneTo a)) ∧
          (((t.queue q).ents ≠ [] ∨ v.getLsbD 31 = true ∨ i < base ∨ base + 256 ≤ i) → exec (.mtsQueueLink g b q) s = illegal))))

/-- On a tile at a plain place, no prefix. TOKW: with fewer than N tokens it waits; else it removes N with POP and writes the count after that. With m = G[A] and r = TAGS and m: TAGWA writes r where m = 0 or r is not 0, TAGWL where r = m; else TAGWA raises the tag-wait fault (EINFO m) when no tag of m has an outstanding count, TAGWL when some tag of m that is not ready has none, and otherwise each waits. TAGFF writes the least tag in r, or 64, and with CLR clears it; TAGCLR clears the bits of m. Counts of tags do not change. -/
def Obligations.TokensAndTags : Prop :=
  ∀ (s : State) (k : Nat) (d x : Reg) (n : BitVec 5) (a : CodeAddr), s.onTile k → s.plainAt a → s.cur.pfx = none →
    let t := s.tile k
    let m := s.g x
    let r := t.tags &&& m
    let count := fun (i : Nat) => t.tagn.toNat / 2 ^ (8 * i) % 256
    let done := fun (u : State) (v : Word) => Host.Outcome.next ((u.setG d v).goneTo a)
    (∀ (f : Fifo) (c : Nat), c = (match f with | .lx => t.lx | .xl => t.xl | .xs => t.xs | .sx => t.sx) →
      let rest := BitVec.ofNat 64 (c - n.toNat)
      (c < n.toNat → ∀ p, exec (.tokw d n f p) s = .next s.waitsIn) ∧
      (n.toNat ≤ c → exec (.tokw d n f false) s = done s (BitVec.ofNat 64 c) ∧
        exec (.tokw d n f true) s = done (s.updMe (fun t => match f with
          | .lx => { t with lx := c - n.toNat } | .xl => { t with xl := c - n.toNat }
          | .xs => { t with xs := c - n.toNat } | .sx => { t with sx := c - n.toNat })) rest)) ∧
    (m = 0 ∨ r ≠ 0 → exec (.tagwa d x) s = done s r) ∧
    (m ≠ 0 → r = 0 → (∀ i < 64, m.getLsbD i = true → count i = 0) → exec (.tagwa d x) s = .next (s.raise (TrapI.mk3 14 0 m))) ∧
    (r = 0 → (∃ i < 64, m.getLsbD i = true ∧ count i ≠ 0) → exec (.tagwa d x) s = .next s.waitsIn) ∧
    (r = m → exec (.tagwl d x) s = done s r) ∧
    ((∃ i < 64, m.getLsbD i = true ∧ t.tags.getLsbD i = false ∧ count i = 0) →
      exec (.tagwl d x) s = .next (s.raise (TrapI.mk3 14 0 m))) ∧
    (r ≠ m → (∀ i < 64, m.getLsbD i = true → t.tags.getLsbD i = false → count i ≠ 0) → exec (.tagwl d x) s = .next s.waitsIn) ∧
    (r = 0 → ∀ c, exec (.tagff d x c) s = done s 64) ∧
    (∀ i < 64, r.getLsbD i = true → (∀ j < i, r.getLsbD j = false) →
      exec (.tagff d x false) s = done s (BitVec.ofNat 64 i) ∧
      exec (.tagff d x true) s =
        done (s.updMe (fun t => { t with tags := t.tags &&& ~~~(BitVec.ofNat 64 (2 ^ i)) })) (BitVec.ofNat 64 i)) ∧
    exec (.tagclr x) s = .next ((s.updMe (fun t => { t with tags := t.tags &&& ~~~m })).goneTo a)

/-- On a tile at a plain place, no prefix. CFG = 0 is the barrier fault UNCFG, else MEMBER = 0 is NOTMEM, each with EINFO the barrier. BARA: with ARR = 1 it waits; else it is done with ARR = 1, an arrival under way to the Headstock where the launch holds the set, and nothing else changed. BARW: with ARR = 1 it waits; else it writes GEN; where the own arrival was in the generation last released it is an acquire and empties L1 (R313; log entry 83). BARAW marked arrived acts as BARW, and clears the mark when done; unmarked, with ARR = 1 it waits without arriving, else it arrives, is marked, and waits. BARSET on a tile of a launch lw by lh, with X0, Y0 and the sizes of G[A] (0 = to the edge): a rectangle not wholly inside is BADSET; a set other than the one held, with an arrival in the open generation, is BUSY; nothing changes then. Else on every tile of the launch CFG is 1, MEMBER is 1 exactly where the tile is in the set, ARR and GEN as before; the launch holds the set (its arrivals kept where it is the same); its other barriers, memory, the core, all else of its tiles (but the count of R388, set to 0 by a change of BSTn) and every tile outside are unchanged. For a launch whose barrier n holds a set with members ms: where an arrival is served and some member has not arrived, no tile changes. Where every member has, each member's GEN is one more modulo 256, its ARR is 0 and its event latch 3 is set; CFG and MEMBER as before; the set's arrivals are empty; other tiles and memory are unchanged. -/
def Obligations.Barriers : Prop :=
  (∀ (s : State) (k : Nat) (d : Reg) (n : BitVec 6) (sc : Scope) (a : CodeAddr), s.onTile k → s.plainAt a → s.cur.pfx = none →
     let b := (s.tile k).bar n.toNat
     let fault := fun (sub : Nat) => Host.Outcome.next (s.raise (TrapI.mk3 15 sub (BitVec.ofNat 64 n.toNat)))
     let here := State.updMe s (fun t => { t with bst := AMap.put t.bst n.toNat { b with arr := true, rel := false } })
     (b.cfg = false → exec (.bara n sc) s = fault 3 ∧ exec (.barw d n) s = fault 3 ∧ exec (.baraw d n sc) s = fault 3) ∧
     (b.cfg = true → b.member = false → exec (.bara n sc) s = fault 4 ∧ exec (.barw d n) s = fault 4 ∧ exec (.baraw d n sc) s = fault 4) ∧
     (b.cfg = true → b.member = true → b.arr = true →
       exec (.bara n sc) s = .next s.waitsIn ∧
       (s.cur.arrived = false → exec (.baraw d n sc) s = .next s.waitsIn) ∧
       (∃ u : State, exec (.barw d n) s = .next u.waitsIn ∧ (s.cur.arrived = true → exec (.baraw d n sc) s = .next u.waitsIn) ∧
         u.cur = s.cur ∧ u.mem = s.mem ∧ (u.tile k).barWait = some n.toNat ∧ (u.tile k).bst = (s.tile k).bst)) ∧
     (b.cfg = true → b.member = true → b.arr = false →
       (let s1 := if b.rel = true then s.updMe (fun t => { t with bst := AMap.put t.bst n.toNat { b with rel := false }, l1 := [] }) else s
        exec (.barw d n) s = .next (((s1.updCur (fun c => { c with arrived := false })).setG d (BitVec.ofNat 64 b.gen.toNat)).goneTo a)) ∧
       (s.cur.arrived = true → exec (.baraw d n sc) s = exec (.barw d n) s) ∧
       ((∀ l, s.launchOf k = some l → AMap.find? l.bars n.toNat = none) → exec (.bara n sc) s = .next (here.goneTo a)) ∧
       (∀ l i, (s.tile k).bound = some i → AMap.find? s.launches i = some l → (AMap.find? l.bars n.toNat).isSome = true →
         let p := { Pkt.make .ctrl s.nextRid (.tile k) i s.bedt with cnt := n.toNat, scope := sc }
         exec (.bara n sc) s = .next (State.goneTo { here with net := s.net ++ [p], nextRid := s.nextRid + 1 } a)) ∧
       (s.cur.arrived = false → ∃ u : State, exec (.baraw d n sc) s = .next u.waitsIn ∧ u.cur = { s.cur with arrived := true } ∧
         ((u.tile k).bar n.toNat).arr = true ∧ (u.tile k).barWait = some n.toNat))) ∧
  (∀ (s : State) (k i : Nat) (l : Launch) (x : Reg) (n : BitVec 6) (a : CodeAddr), s.onTile k → s.plainAt a → s.cur.pfx = none →
     (s.tile k).bound = some i → AMap.find? s.launches i = some l → (∀ g ∈ l.tiles, g < 256) →
     let v := (s.g x).toNat
     let x0 := v % 2 ^ 16
     let y0 := v / 2 ^ 16 % 2 ^ 16
     let lw := l.pkt.w
     let lh := l.pkt.h
     let w := if v / 2 ^ 32 % 2 ^ 16 = 0 then lw - x0 else v / 2 ^ 32 % 2 ^ 16
     let h := if v / 2 ^ 48 = 0 then lh - y0 else v / 2 ^ 48
     let inside := x0 < lw ∧ y0 < lh ∧ x0 + w ≤ lw ∧ y0 + h ≤ lh
     let differs := fun (b : BarSet) => ¬ (b.x0 = x0 ∧ b.y0 = y0 ∧ b.w = w ∧ b.h = h)
     let fault := fun (sub : Nat) => Host.Outcome.next (s.raise (TrapI.mk3 15 sub (BitVec.ofNat 64 n.toNat)))
     let isIn := fun (ltn : Nat) => x0 ≤ ltn % lw ∧ ltn % lw < x0 + w ∧ y0 ≤ ltn / lw ∧ ltn / lw < y0 + h
     (¬ inside → exec (.barset x n) s = fault 1) ∧
     (inside → (∃ b, AMap.find? l.bars n.toNat = some b ∧ differs b ∧ b.arrived ≠ []) → exec (.barset x n) s = fault 2) ∧
     (inside → (∀ b, AMap.find? l.bars n.toNat = some b → differs b → b.arrived = []) → l.tiles.Nodup → l.tiles.length = lw * lh →
       ∃ u : State, exec (.barset x n) s = .next (u.goneTo a) ∧ u.mem = s.mem ∧ u.cur = s.cur ∧
         (∀ (ltn g : Nat), l.tiles[ltn]? = some g → let o := (s.tile g).bar n.toNat
           (u.tile g).bar n.toNat = { o with cfg := true, member := decide (isIn ltn) }) ∧
         (∀ g, { u.tile g with bst := (s.tile g).bst, stall := (s.tile g).stall } = s.tile g) ∧ (∀ g, g ∉ l.tiles → u.tile g = s.tile g) ∧
         (∀ g j, j ≠ n.toNat → (u.tile g).bar j = (s.tile g).bar j) ∧
         (∃ l' b, AMap.find? u.launches i = some l' ∧ AMap.find? l'.bars n.toNat = some b ∧ b.x0 = x0 ∧ b.y0 = y0 ∧ b.w = w ∧
           b.h = h ∧ l' = { l with bars := l'.bars } ∧ (∀ j, j ≠ n.toNat → AMap.find? l'.bars j = AMap.find? l.bars j) ∧
           (∀ o, AMap.find? l.bars n.toNat = some o → ¬ differs o → b.arrived = o.arrived) ∧
           ((∀ o, AMap.find? l.bars n.toNat = some o → differs o) → b.arrived = [])))) ∧
  (∀ (s : State) (i n : Nat) (l : Launch) (b : BarSet), AMap.find? s.launches i = some l → AMap.find? l.bars n = some b →
     let ms := l.members b
     let here := fun (g : Nat) => g ∈ b.arrived.map Prod.fst
     ((∃ g ∈ ms, ¬ here g) → s.release i n = s) ∧
     ((∀ g ∈ ms, here g) → ms.Nodup →
       (∀ g ∈ ms, let o := (s.tile g).bar n
         ((s.release i n).tile g).bar n = { o with gen := o.gen + 1, arr := false, rel := true } ∧
         ((s.release i n).tile g).tcc.latches.getLsbD 3 = true) ∧
       (∃ l', AMap.find? (s.release i n).launches i = some l' ∧
         ∃ b', AMap.find? l'.bars n = some b' ∧ b'.arrived = [] ∧ b'.x0 = b.x0 ∧ b'.y0 = b.y0 ∧ b'.w = b.w ∧ b'.h = b.h) ∧
       (∀ g, g ∉ ms → (s.release i n).tile g = s.tile g) ∧ (s.release i n).mem = s.mem))

/-- A SYNC word with FN 0x0C decodes to QDRAIN with the mask of ARG[2:0] exactly where ARG[9:3], D and A are zero and the mask is not; every other such word is refused. On a tile at a plain place, no prefix, QDRAIN goes on when every command issued into a masked queue ([0] LQ, [1] XQ, [2] SQ) has completed, with nothing else changed, and waits otherwise. -/
def Obligations.QueueDrain : Prop :=
  (∀ (d x : BitVec 5) (arg : BitVec 10), let w := 0x1C * 2 ^ 26 + d.toNat * 2 ^ 21 + x.toNat * 2 ^ 16 + arg.toNat * 2 ^ 6 + 0x0C
    (d = 0 → x = 0 → 0 < arg.toNat → arg.toNat < 8 → decode w 0 = .ok (.qdrain (BitVec.ofNat 3 arg.toNat))) ∧
    (¬ (d = 0 ∧ x = 0 ∧ 0 < arg.toNat ∧ arg.toNat < 8) → ∃ e, decode w 0 = .error e)) ∧
  (∀ (s : State) (k : Nat) (m : BitVec 3) (a : CodeAddr), s.onTile k → s.plainAt a → s.cur.pfx = none →
    let t := s.tile k
    let done := fun (x : Queue) => ∀ e ∈ x.ents, e.st = .done
    let all := (m.getLsbD 0 = true → done t.lq) ∧ (m.getLsbD 1 = true → done t.xq) ∧ (m.getLsbD 2 = true → done t.sq)
    (all → exec (.qdrain m) s = .next (s.goneTo a)) ∧ (¬ all → exec (.qdrain m) s = .next s.waitsIn))

/-- On a tile at a plain place; FENCE and FENCEP with no prefix or an SCP, whose scope is then in force, the others with none. FENCEP goes on where FROM or TO is zero, or every command of FROM's queues has completed with each packet they sent and each BUSY ticket's read performed (a copy with no access holds it up at no scope, UO accesses only at domain scope) and no flag that the tile held when the FENCEP began (F or H in FROM) is held; else it waits. FENCE goes on. Done with C in TO and a scope wider than tile, L1 is emptied. QSEQ writes the completion number once it reaches the lesser of G[A] and the issue number, else waits. XRETW takes the oldest XRET value; empty, it is the XRET-underflow fault when XQ has nothing uncompleted, else waits. WFE writes the masked latches and clears the mask's, and waits while none is set. BCLOSE and WAITB first drop the oldest batches whose members have all been performed; with an open batch and 16 outstanding they wait; else the open batch becomes the newest; WAITB then writes their number once it is at most N, else waits. SYNCI forgets the buffered words; L1WB changes nothing. On a management core the fences go on at once. -/
def Obligations.FencesAndQueueWaits : Prop :=
  (∀ (s : State) (k : Nat) (d x : Reg) (q : Q) (a : CodeAddr), s.onTile k → s.plainAt a →
    let t := s.tile k
    let waits := Host.Outcome.next s.waitsIn
    let done := fun (u : State) (v : Word) => Host.Outcome.next ((u.setG d v).goneTo a)
    let drained := fun (x : Queue) => ∀ e ∈ x.ents, e.st = .done
    let fenced := fun (tom : BitVec 6) (sc : Scope) => Host.Outcome.next
      ((if tom.getLsbD 0 = true ∧ sc ≠ .tile then s.updMe (fun t => { t with l1 := [] }) else s).goneTo a)
    (s.pfxOk false true →
      let force := fun (dflt : Scope) => ((s.cur.pfx.bind (fun p => p.scp)).getD dflt)
      exec .fence s = fenced 1 (force .domain) ∧
      (∀ (frm tom : BitVec 6) (dflt : Scope),
        let sc := force dflt
        let all := decide (sc = .domain)
        let clear := fun (x : Queue) (q : Q) => (∀ e ∈ x.ents, e.st = .done ∨ s.fenceSkips k all e = true) ∧
          ∀ p ∈ s.net, p.src = .tile k → p.tcc = false → p.q = q → (sc = .domain ∨ p.uo = false) → p.typ.undone = false
        let on := if frm.getLsbD 4 = true ∨ frm.getLsbD 5 = true then
          (if s.cur.waiting = true then s.cur.fenceOn else t.held.map (fun h => h.rid)) else []
        let met := (frm.getLsbD 1 = true → clear t.lq .l) ∧ (frm.getLsbD 2 = true → clear t.sq .s) ∧
          (frm.getLsbD 3 = true → clear t.xq .x ∧ ∀ y ∈ t.mxe.tickets.toList, y.reads all = false) ∧
          ∀ h ∈ t.held, h.rid ∉ on
        (frm = 0 ∨ tom = 0 ∨ met → exec (.fencep frm tom dflt) s = fenced tom sc) ∧
        (¬ (frm = 0 ∨ tom = 0 ∨ met) →
          exec (.fencep frm tom dflt) s = .next (s.updCur (fun c => { c with fenceOn := on })).waitsIn))) ∧
    (s.cur.pfx = none →
      let left := s.openBatches k t.batches
      let closes := fun (bs : List (List (Q × Word))) => s.updMe (fun t => { t with openBatch := [], batches := bs })
      let bs := if t.openBatch = [] then left else s.openBatches k (left ++ [t.openBatch])
      exec .l1wb s = .next (s.goneTo a) ∧
      exec .synci s = .next ((s.updCur (fun c => { c with ibuf := [] })).goneTo a) ∧
      (let y := t.queue q
        let n := if (s.g x).toNat ≤ y.isn.toNat then (s.g x).toNat else y.isn.toNat
        (n ≤ y.seq.toNat → exec (.qseq d x q) s = done s y.seq) ∧ (y.seq.toNat < n → exec (.qseq d x q) s = waits)) ∧
      (∀ v r, t.xret = v :: r → exec (.xretw d) s = done (s.updMe (fun t => { t with xret := r })) v) ∧
      (t.xret = [] → drained t.xq → exec (.xretw d) s = .next (s.raise (TrapI.mk3 18 0 0))) ∧
      (t.xret = [] → ¬ drained t.xq → exec (.xretw d) s = waits) ∧
      (∀ m : BitVec 6, let l := s.cur.latches &&& m
        (l ≠ 0 → exec (.wfe d m) s =
          done (s.updCur (fun c => { c with latches := c.latches &&& ~~~m })) (BitVec.ofNat 64 l.toNat)) ∧
        (l = 0 → exec (.wfe d m) s = waits)) ∧
      (t.openBatch ≠ [] ∧ 16 ≤ left.length → exec .bclose s = waits ∧ ∀ n, exec (.waitb d n) s = waits) ∧
      (¬ (t.openBatch ≠ [] ∧ 16 ≤ left.length) → exec .bclose s = .next ((closes bs).goneTo a) ∧ ∀ n : BitVec 4,
        (bs.length ≤ n.toNat → exec (.waitb d n) s = done (closes bs) (BitVec.ofNat 64 bs.length)) ∧
        (n.toNat < bs.length → exec (.waitb d n) s = .next (closes bs).waitsIn)))) ∧
  (∀ (s : State) (n : Nat) (a : CodeAddr) (frm tom : BitVec 6) (sc : Scope), s.who = .core n → s.plainAt a → s.pfxOk false true →
    exec .fence s = .next (s.goneTo a) ∧ exec (.fencep frm tom sc) s = .next (s.goneTo a))

/-- On a tile bound to a launch, at a plain place, no prefix, no storage error standing or armed. G[A] that is no code address of the image is the code-address fault, before anything else. Where the pool of the current region takes a record and the pool store has room, SPAWN is done with the record {G[A], current image, FRAME = G[B], JCA 0, current region, base priority} as the newest of its pool and nothing else changed; where the pool takes no record (the region holds PENT records, or the store is full and the spill area has no room or waits) it waits; where the record goes by the spill area, or the region has ended and it is discarded, SPAWN is done in the state that the push leaves. SPAWNJ with a G[D] that no join block's address can be is the address or the alignment fault; with G[D] the launch-window address of an 8-aligned block of 40 bytes in the atomic region of a tile of the launch, SPAWNJ pushes, waits, spills or is discarded as SPAWN does, with JCA = G[D], and where it is done COUNT there is one more modulo 2^64. That a SPAWNJ that waits leaves COUNT as it was is the model's choice (log entry 55). -/
def Obligations.Spawns : Prop :=
  ∀ (s : State) (g k : Nat) (l : Launch) (d x y : Reg) (a : CodeAddr), s.onTile g → s.plainAt a → s.cur.pfx = none →
    (s.tile g).bound = some k → AMap.find? s.launches k = some l → l.onePool → s.clean →
    let c := s.g x
    let base := (s.tile g).cpri.toNat / 8 % 8
    let rec_ := fun (jca : Word) =>
      ({ code := c.truncate 28, img := s.curImg, frame := s.g y, jca := jca, region := s.curRegion, pri := base } : Rec)
    (¬ s.codeOk c → exec (.spawn x y) s = .next (s.raise (trapCode c)) ∧ exec (.spawnj d x y) s = .next (s.raise (trapCode c))) ∧
    (s.codeOk c → l.takes s.curRegion → s.storeRoom = true → ∃ u, exec (.spawn x y) s = .next (u.goneTo a) ∧ s.pushed u k (rec_ 0)) ∧
    (s.codeOk c → (∀ r, l.regions[s.curRegion]? = some r → r.ended = false ∧ (r.pent ≤ l.held s.curRegion ∨ s.storeRoom = false ∧ r.psva = 0)) →
      s.curRegion < l.regions.length → exec (.spawn x y) s = .next s.waitsIn) ∧
    (s.codeOk c → s.pushRec k (rec_ 0) = none → exec (.spawn x y) s = .next s.waitsIn) ∧
    (s.codeOk c → ∀ u, s.pushRec k (rec_ 0) = some u → u.me.cont = s.me.cont → u.cur.intrap = s.cur.intrap →
      exec (.spawn x y) s = .next (u.finish .seq)) ∧
    (s.codeOk c → (∃ r, l.regions[s.curRegion]? = some r ∧ r.ended = true) → exec (.spawn x y) s = .next (s.goneTo a)) ∧
    (s.codeOk c → let j := (s.g d).toNat
      (2 ^ 57 ≤ j → exec (.spawnj d x y) s = .next (s.raise (TrapI.mk3 5 0 (s.g d)))) ∧
      (j < 2 ^ 57 → j % 8 ≠ 0 → exec (.spawnj d x y) s = .next (s.raise (TrapI.mk3 6 0 (s.g d)))) ∧
      (j < 0x1FF * 2 ^ 48 → j % 8 = 0 → exec (.spawnj d x y) s = .next (s.raise (TrapI.mk3 5 0 (s.g d))))) ∧
    (∀ ltn h off : Nat, s.codeOk c → l.st ≠ .saved → ltn < 2 ^ 24 → l.tiles[ltn]? = some h → h < 256 →
      (s.tile h).bound = some k → s.sockOut (h / 16 + 1) = false → (s.g d).toNat = 0x1FF * 2 ^ 48 + ltn * 2 ^ 24 + off → off % 8 = 0 →
      0x880000 ≤ off → off + 40 ≤ 0x8C0000 →
      let key := tileBase h + off
      let counted := fun (u : State) => { u with mem := u.mem.setN key (leBytes 8 ((ofBytes (s.mem.getN key 8) + 1) % 2 ^ 64)) }
      let r := rec_ (s.g d)
      (l.takes s.curRegion → s.storeRoom = true → ∃ u, exec (.spawnj d x y) s = .next ((counted u).goneTo a) ∧ s.pushed u k r) ∧
      ((∀ z, l.regions[s.curRegion]? = some z → z.ended = false ∧ (z.pent ≤ l.held s.curRegion ∨ s.storeRoom = false ∧ z.psva = 0)) →
        s.curRegion < l.regions.length → exec (.spawnj d x y) s = .next s.waitsIn) ∧
      (s.pushRec k r = none → exec (.spawnj d x y) s = .next s.waitsIn) ∧
      (∀ u, s.pushRec k r = some u → u.me.cont = s.me.cont → u.cur.intrap = s.cur.intrap → u.bad = [] →
        exec (.spawnj d x y) s = .next ((counted u).finish .seq)) ∧
      ((∃ z, l.regions[s.curRegion]? = some z ∧ z.ended = true) → exec (.spawnj d x y) s = .next ((counted s).goneTo a)))

/-- On a tile bound to a launch that is not saved, at a plain place, no prefix, no storage error standing or armed. With G[A] = 0 JOIN writes 0 and does nothing else. With G[A] the launch-window address of a join block of a tile of the launch, old its COUNT: old below 1 (signed) is the join fault UNDER with EINFO G[A]; old above 1 becomes old - 1, written to G[D]. With old = 1, a WAITER that breaks a rule of R197 (reserved fields, code address of its image, region of the launch, PRI above 6 below M, INH with REGION or PRI not zero) is the join fault BADREC; a good one is pushed while the pool store has room, with the current region and base priority under INH, COUNT is 0 and so is G[D]; one that goes by the spill area likewise, in the state that the push leaves; while its pool takes no record the JOIN waits, and that COUNT is then as it was is the model's choice (log entry 55). The faults leave memory as it was. -/
def Obligations.Joins : Prop :=
  ∀ (s : State) (g k ltn h off : Nat) (l : Launch) (d x : Reg) (a : CodeAddr), s.onTile g → s.plainAt a → s.cur.pfx = none →
    (s.tile g).bound = some k → AMap.find? s.launches k = some l → l.onePool → l.st ≠ .saved → s.clean →
    (s.g x = 0 → exec (.join d x) s = .next ((s.setG d 0).goneTo a)) ∧
    ((s.g x).toNat = 0x1FF * 2 ^ 48 + ltn * 2 ^ 24 + off → ltn < 2 ^ 24 → l.tiles[ltn]? = some h → h < 256 → off % 8 = 0 →
      0x880000 ≤ off → off + 40 ≤ 0x8C0000 → s.sockOut (h / 16 + 1) = false → (s.tile h).bound = some k →
      let key := tileBase h + off
      let old : Word := BitVec.ofNat 64 (ofBytes (s.mem.getN key 8))
      let lowered := fun (u : State) => Host.Outcome.next
        ((State.setG { u with mem := s.mem.setN key (leBytes 8 (old - 1).toNat) } d (old - 1)).goneTo a)
      let f := fun (i n : Nat) => ofBytes (s.mem.getN (key + 8 + i) n)
      let inh := f 31 1 = 128
      let region := if inh then s.curRegion else f 24 4
      let pri := if inh then (s.tile g).cpri.toNat / 8 % 8 else f 28 1
      let good := f 0 4 < 2 ^ 28 ∧ f 0 4 % 16 ≠ 0 ∧ (∃ b n, l.images[f 4 2]? = some (b, n) ∧ f 0 4 / 16 < n) ∧ f 6 2 = 0 ∧
        f 28 1 < 8 ∧ f 29 2 = 0 ∧ (f 31 1 = 0 ∨ inh) ∧ f 24 4 < l.regions.length ∧ (f 28 1 ≤ 6 ∨ s.cur.atM = true) ∧
        (inh → f 24 4 = 0 ∧ f 28 1 = 0)
      let r : Rec := { code := BitVec.ofNat 28 (f 0 4), img := BitVec.ofNat 16 (f 4 2), frame := BitVec.ofNat 64 (f 8 8),
                       jca := BitVec.ofNat 64 (f 16 8), region := region, pri := pri }
      (old.toInt < 1 → exec (.join d x) s = .next (s.raise (TrapI.mk3 16 1 (s.g x)))) ∧
      (1 < old.toInt → exec (.join d x) s = lowered s) ∧
      (old = 1 → ¬ good → exec (.join d x) s = .next (s.raise (TrapI.mk3 16 2 (s.g x)))) ∧
      (old = 1 → good → l.takes region → s.storeRoom = true → ∃ u, exec (.join d x) s = lowered u ∧ s.pushed u k r) ∧
      (old = 1 → good → s.pushRec k r = none → exec (.join d x) s = .next s.waitsIn) ∧
      (∀ u, old = 1 → good → s.pushRec k r = some u → u.me.cont = s.me.cont → u.cur.intrap = s.cur.intrap → u.bad = [] →
        exec (.join d x) s = .next ((State.setG { u with mem := u.mem.setN key (leBytes 8 0) } d 0).finish .seq)) ∧
      ((∃ z, l.regions[region]? = some z ∧ z.ended = false ∧ z.pent ≤ l.held region) → s.pushRec k r = none))

/-- On a tile, with no prefix and no debug step count. With INTRAP = 1 HALT and YIELD raise the illegal-instruction trap. Otherwise HALT leaves the tile with no continuation, its queues and memory as before; YIELD, with a successor and room in the pool of its region and in the pool store, does the same with the record {successor, current image, FRM, JCA, current region, base priority} as the newest of its pool. A YIELD whose pool takes no record waits; one whose record goes by the spill area, or is discarded with an ended region, ends the continuation in the state that the push leaves. A YIELD without a successor raises the code-address fault. -/
def Obligations.HaltAndYield : Prop :=
  ∀ (s : State) (g k : Nat) (l : Launch) (a : CodeAddr), s.onTile g → s.cur.pfx = none → s.cur.stepLeft = none →
    let idle := fun (c : Tcc) => { c with waiting := false, arrived := false, pfx := none, pfxp := false, far := [], ffar := [] }
    let ended := fun (u : State) => Host.Outcome.next (u.updMe (fun t => Tile.bump { t with cont := none, tcc := idle t.tcc } 134))
    (s.cur.intrap = true → exec .halt s = .next (s.raise trapIllegal) ∧ exec .yield s = .next (s.raise trapIllegal)) ∧
    (s.cur.intrap = false → exec .halt s = ended s) ∧
    (s.cur.intrap = false → s.cur.succ = none → ∃ v, exec .yield s = .next (s.raise (trapCode v))) ∧
    (s.cur.intrap = false → s.cur.succ = some a →
      let r : Rec := { code := a, img := s.curImg, frame := (s.tile g).frm, jca := (s.tile g).jca, region := s.curRegion,
                       pri := (s.tile g).cpri.toNat / 8 % 8 }
      (s.tile g).bound = some k → AMap.find? s.launches k = some l → l.onePool →
      (l.takes s.curRegion → s.storeRoom = true → ∃ u, exec .yield s = ended u ∧ s.pushed u k r) ∧
      (s.pushRec k r = none → exec .yield s = .next s.waitsIn) ∧
      ((∃ z, l.regions[s.curRegion]? = some z ∧ z.ended = false ∧ z.pent ≤ l.held s.curRegion) → s.pushRec k r = none) ∧
      (∀ u, s.pushRec k r = some u → u.cur.stepLeft = none → exec .yield s = ended u))

/-- On a tile, no prefix. At P in a region without device launch LAUNCH raises the privilege trap. A packet address that is not 64-aligned is the alignment fault, else a queue number above 63 the address fault. A check or a read of the packet that traps raises its trap. Where the 128 bytes translate and read as bs, leaving s2: if the queue is enabled and open to devices and not full, the Headstock has put bs at its tail's entry of the ring, the tail is one more, and G[D] is the new tail; a ring in HBM4E of this package, with no storage error standing, then holds bs there and every other byte is as before. Otherwise G[D] is all ones and nothing is appended; the instruction is done. -/
def Obligations.DeviceLaunch : Prop :=
  ∀ (s : State) (g : Nat) (d x y : Reg), s.onTile g → s.cur.pfx = none →
    let va := s.g x
    let n := (s.g y).toNat
    (s.mayLaunch = false → exec (.launch d x y) s = .next (s.raise trapPrivilege)) ∧
    (s.cur.atM = true → s.mayLaunch = true) ∧
    (s.mayLaunch = true → va.toNat % 64 ≠ 0 → exec (.launch d x y) s = .next (s.raise (TrapI.mk3 6 0 va))) ∧
    (s.mayLaunch = true → va.toNat % 64 = 0 → 64 ≤ n → exec (.launch d x y) s = .next (s.raise (TrapI.mk3 5 0 (s.g y)))) ∧
    (s.mayLaunch = true → va.toNat % 64 = 0 → n < 64 → va.toNat < 2 ^ 57 → ∀ ps s1 bs s2, s.cCheck va 128 false false = .ok ps s1 →
      s1.cReads false ps = .ok bs s2 →
      let q := s2.lqueue n
      let size := 2 ^ (q.cfg.toNat / 2 ^ 8 % 16)
      let room := q.cfg.getLsbD 0 = true ∧ q.cfg.getLsbD 1 = true ∧ (q.tail - q.head).toNat < size
      (¬ room → exec (.launch d x y) s = .next ((s2.setG d (BitVec.allOnes 64)).finish .seq)) ∧
      (room →
        let pa := q.base.toNat + 128 * (q.tail.toNat % size)
        let u := s2.hsPut pa bs
        exec (.launch d x y) s = .next ((State.setG { u with lqs := AMap.put u.lqs n { q with tail := q.tail + 1 } } d
          (BitVec.ofNat 64 (q.tail + 1).toNat)).finish .seq) ∧
        (∀ st off, s2.place pa = .hbm st off → s2.bad = [] →
          u.mem = s2.mem.setN (2 ^ 49 + st * 2 ^ 36 + off) bs ∧ { u with mem := s2.mem, blocks := s2.blocks, free := s2.free } = s2) ∧
        (∀ pkg, s2.place pa = .far pkg → u.mem = s2.mem ∧ ∃ w ∈ u.net, w.rid = s2.nextRid ∧ w.addr = pa ∧ w.dpkg = pkg ∧ w.data = bs))) ∧
    (s.mayLaunch = true → va.toNat % 64 = 0 → n < 64 → va.toNat < 2 ^ 57 →
      (∀ t s1, s.cCheck va 128 false false = .trap t s1 → exec (.launch d x y) s = .next (s1.raise t)) ∧
      (∀ ps s1 t s2, s.cCheck va 128 false false = .ok ps s1 → s1.cReads false ps = .trap t s2 →
        exec (.launch d x y) s = .next (s2.raise t))) ∧
    (s.mayLaunch = true → va.toNat % 64 = 0 → n < 64 → 2 ^ 57 ≤ va.toNat →
      exec (.launch d x y) s = .next (s.raise (TrapI.mk3 5 0 va)))

/-- On any core at a plain place, no prefix. With nothing outstanding, an ID that breaks R202 is the pairing-object fault BADID with EINFO the ID; one of this package whose home die is out of service is the remote error RSVSOCK (sub-code 1) at once; another good one is noted as outstanding with the next request identifier, a packet with it, the ID and (QPUSH) the value is in the network, and the instruction waits. With an answer (EMPTY, v): QPUSH is done; QPOP writes EMPTY to PD and v, or 0 when EMPTY, to G[D], and an answer that carries a value empties L1. An ERR answer raises the pairing-object fault (object absent, full) or the remote error of its code, with its EFFECT. Nothing is outstanding afterwards. -/
def Obligations.ObjectInstructions : Prop :=
  ∀ (s : State) (d x y : Reg) (p : PReg) (a : CodeAddr), s.plainAt a → s.cur.pfx = none →
    let id := s.g x
    let bad := 2 ^ 35 ≤ id.toNat ∨ 17 ≤ id.toNat / 2 ^ 20 % 64
    let clear := s.updCur (fun c => { c with obj := none })
    (s.cur.obj = none → bad → exec (.qpush x y) s = .next (s.raise (TrapI.mk3 17 1 id)) ∧
      exec (.qpop d p x) s = .next (s.raise (TrapI.mk3 17 1 id))) ∧
    let unserved := id.toNat / 2 ^ 26 % 512 = 0 ∧ id.toNat / 2 ^ 20 % 64 ≠ 0 ∧ s.sockOut (id.toNat / 2 ^ 20 % 64) = true
    (s.cur.obj = none → ¬ bad → unserved → exec (.qpush x y) s = .next (s.raise (TrapI.mk3 35 1 id)) ∧
      exec (.qpop d p x) s = .next (s.raise (TrapI.mk3 35 1 id))) ∧
    (s.cur.obj = none → ¬ bad → ¬ unserved →
      (∃ u : State, exec (.qpush x y) s = .next u.waitsIn ∧ u.cur.obj = some { rid := s.nextRid, ans := none, err := none } ∧
        u.nextRid = s.nextRid + 1 ∧ u.mem = s.mem ∧ (∃ q, s.net.length < u.net.length ∧ q ∈ u.net ∧ q.rid = s.nextRid ∧ q.src = s.who ∧ q.addr = id.toNat ∧ q.cnt = (s.g y).toNat)) ∧
      (∃ u : State, exec (.qpop d p x) s = .next u.waitsIn ∧ u.cur.obj = some { rid := s.nextRid, ans := none, err := none } ∧
        u.nextRid = s.nextRid + 1 ∧ u.mem = s.mem ∧ (∃ q, s.net.length < u.net.length ∧ q ∈ u.net ∧ q.rid = s.nextRid ∧ q.src = s.who ∧ q.addr = id.toNat ∧ q.cnt = 0))) ∧
    (∀ o e v, s.cur.obj = some o → o.err = none → o.ans = some (e, v) →
      exec (.qpush x y) s = .next (clear.goneTo a) ∧
      (e = true → exec (.qpop d p x) s = .next (((clear.setG d 0).setP p true).goneTo a)) ∧
      (e = false → exec (.qpop d p x) s = .next (((clear.l1Drop.setG d v).setP p false).goneTo a))) ∧
    (∀ o, s.cur.obj = some o → o.err = none → o.ans = none →
      exec (.qpush x y) s = .next s.waitsIn ∧ exec (.qpop d p x) s = .next s.waitsIn) ∧
    (∀ o c eff, s.cur.obj = some o → o.err = some (c, eff) →
      let t := if c = 10 ∨ c = 11 then TrapI.mk3 17 (c - 8) id else { TrapI.mk3 35 c id with effect := eff }
      exec (.qpush x y) s = .next (clear.raise t) ∧ exec (.qpop d p x) s = .next (clear.raise t))

/-- Let the executing core be in no handler, and t a trap whose cause does not end the domain: on a tile with no update under way, or on a management core whose EBASE is not zero. Raising t is one step: EPC is the address the cause gives, else the unit's first word; ECAUSE is cause and sub-code, EINFO t's, EWORD the unit's words, ESTATUS STATUS[5:0] and the arrived mark; PRIV and INTRAP become 1, PFXP 0; execution continues at EBASE, on a tile in image 0xFFFF. Every general register, predicate, loop set, the return-address store, RSP and every other register is as before. With tracing off nothing else of the package changes. TRAP gives its successor as EPC (its own address and EINFO[12] without one); BKPT its own address. On a tile bound to a launch, running a continuation of region r, dom the root of r's fault domain: raising a trap while INTRAP = 1, or one of cause 9 or 34 to 37 in any case, leaves the tile with no continuation and in no handler; every region of that domain has ended and its pools hold no record, and every other region is as before. On a management core such a trap, or any trap while its EBASE is zero, stops that core with its registers kept; the other cores are as before. -/
def Obligations.TrapEntry : Prop :=
  ((∀ (s : State) (t : TrapI), s.hasCore → s.cur.intrap = false → t.cause ≠ 9 → (t.cause < 34 ∨ 37 < t.cause) →
     (s.onCore = false → s.fw.st = 0) → (s.onCore = true → s.cur.trap.ebase ≠ 0) →
     let c := s.cur
     let unit : CodeAddr := (c.pfx.map (fun p => p.start)).getD c.pc
     let words : Word := (c.pfx.map (fun p => BitVec.ofNat 64 (p.w0.toNat + p.w1.toNat * 2 ^ 32))).getD c.iw
     let status := c.status (s.frzOf s.who)
     let c' : Tcc := { c with
       trap := { epc := BitVec.ofNat 64 (t.epc.getD unit).toNat, ecause := BitVec.ofNat 64 (t.cause + t.sub * 256), einfo := t.info,
                 ebase := c.trap.ebase, estatus := BitVec.ofNat 64 (status.toNat % 64 + b2n c.arrived * 64), eword := t.eword.getD words },
       atM := true, intrap := true, pfx := none, pfxp := false, arrived := false, waiting := false, lined := false, far := [], ffar := [],
       img := if s.onCore then c.img else 0xFFFF, pc := c.trap.ebase.truncate 28 }
     (s.raise t).cur = c' ∧ (s.trace.on = false ∨ s.onCore = true → s.raise t = s.setCur c')) ∧
   (∀ (s : State) (code : BitVec 12) (a : CodeAddr), s.cur.pfx = none →
     (s.cur.succ = some a → exec (.trap code) s = .next (s.raise { TrapI.mk3 19 0 (code.zeroExtend 64) with epc := some a })) ∧
     (s.cur.succ = none → exec (.trap code) s = .next (s.raise (TrapI.mk3 19 0 (code.zeroExtend 64 + 4096)))) ∧
     (s.onCore = true ∨ some code ∉ s.me.dbg.codes → exec (.bkpt code) s = .next (s.raise (TrapI.mk3 20 0 (code.zeroExtend 64)))))) ∧
  ((∀ (s : State) (g k r : Nat) (l : Launch) (x : Region) (c : Cont) (t : TrapI), s.onTile g → (s.tile g).bound = some k →
     AMap.find? s.launches k = some l → g ∈ l.tiles → l.tiles.Nodup → (s.tile g).cont = some c → c.region = r → l.regions[r]? = some x →
     (s.cur.intrap = true ∨ t.cause = 9 ∨ (34 ≤ t.cause ∧ t.cause ≤ 37)) →
     let u := s.raise t
     (u.tile g).cont = none ∧ (u.tile g).tcc.intrap = false ∧
     ∃ l' : Launch, AMap.find? u.launches k = some l' ∧ l'.regions.length = l.regions.length ∧
       (∀ (i : Nat) (y : Region), l.regions[i]? = some y → ∃ y' : Region, l'.regions[i]? = some y' ∧ y'.dom = y.dom ∧
         y'.ended = (y.ended || decide (y.dom = x.dom))) ∧
       (∀ p ∈ l'.pools, ∀ y : Region, l.regions[p.region]? = some y → y.dom = x.dom → p.recs = [])) ∧
   (∀ (s : State) (n : Nat) (t : TrapI), s.who = .core n → n < 4 →
     (s.cur.intrap = true ∨ t.cause = 9 ∨ (34 ≤ t.cause ∧ t.cause ≤ 37) ∨ s.cur.trap.ebase = 0) →
     (s.raise t).cur = { s.cur with stopped := true, waiting := false, far := [], ffar := [] } ∧
     (∀ m, m ≠ n → (s.raise t).tccOf (.core m) = s.tccOf (.core m))))

/-- At M with no prefix and no debug step count. With INTRAP = 0 ERET is illegal. With ESTATUS.IDLE = 1 on a tile it leaves the core idle, EPC unused. Otherwise EPC that is no code address of the image it returns to raises the code-address fault with EINFO EPC; a good one makes PRIV := ESTATUS[0] (a management core stays at M), PFXP := ESTATUS[5], INTRAP := 0, the arrived mark := ESTATUS[6], the pc EPC in the continuation's image; on a tile FRZ is 0 and every stopped queue runs, but for a freeze that a fault still to be taken has made and the queue of such a fault; registers, predicates, loops and the trap registers are as before. -/
def Obligations.ReturnFromTrap : Prop :=
  ∀ (s : State), s.hasCore → s.cur.atM = true → s.cur.pfx = none → s.cur.stepLeft = none →
    let c := s.cur
    let e := c.trap.estatus
    let img := if s.onCore then c.img else (s.me.cont.map (fun k => k.img)).getD c.img
    let back := s.setCur { c with img := img }
    let c1 : Tcc := { c with atM := s.onCore || e.getLsbD 0, intrap := false, arrived := e.getLsbD 6, pfx := none, pfxp := e.getLsbD 5,
                             lined := false, far := [], ffar := [], img := img }
    let c2 : Tcc := { c1 with waiting := false, pc := c.trap.epc.truncate 28 }
    let frozen := s.me.faults.any (fun f => f.frz)
    let runs := fun (n : Q) (q : Queue) => { q with stopped := q.stopped && (frozen || s.me.faults.any (fun f => decide (f.q = n))) }
    let thawed := fun (t : Tile) => { t with frz := t.frz && frozen, lq := runs .l t.lq, xq := runs .x t.xq, sq := runs .s t.sq }
    (c.intrap = false → exec .eret s = .next (s.raise trapIllegal)) ∧
    (c.intrap = true → (s.onCore = true ∨ e.getLsbD 7 = false) → ¬ back.codeOk c.trap.epc →
      exec .eret s = .next (s.raise (trapCode c.trap.epc))) ∧
    (c.intrap = true → s.onCore = true → back.codeOk c.trap.epc → exec .eret s = .next (s.setCur c2)) ∧
    (c.intrap = true → s.onCore = false → e.getLsbD 7 = false → back.codeOk c.trap.epc →
      exec .eret s = .next ((s.setCur c2).updMe (fun t => (thawed t).bump 134))) ∧
    (c.intrap = true → s.onCore = false → e.getLsbD 7 = true →
      exec .eret s = .next ((s.setCur c1).updMe (fun t => (thawed t).bump 134)))

/-- On a tile at a plain place, no prefix, PMARK adds one to the tile's counter of marks (offset 0x21C of its counters, number 135) and writes a trace record of kind 1 with its code, then goes on; nothing else changes. With tracing off no byte of memory changes; with tracing on, no storage error standing, and its place in memory of this package, the record's INFO field is the code, its KIND 1, and no other byte changes. -/
def Obligations.PerformanceMark : Prop :=
  ∀ (s : State) (g : Nat) (code : BitVec 12) (a : CodeAddr), s.onTile g → s.plainAt a → s.cur.pfx = none →
    let counted := s.updMe (fun t => { t with counters := AMap.put t.counters 135 (AMap.getD t.counters 135 0 + 1) })
    exec (.pmark code) s = .next ((counted.traceRec g 1 code.toNat).goneTo a) ∧
    (s.trace.on = false → exec (.pmark code) s = .next (counted.goneTo a)) ∧
    (s.trace.on = true → s.mem.wf = true → s.bad = [] → (∃ st off, s.place (s.trace.pa + 32 * (s.trace.n % 2 ^ s.trace.sz)) = .hbm st off) ∨
        (∃ h off, s.place (s.trace.pa + 32 * (s.trace.n % 2 ^ s.trace.sz)) = .tile h off ∧ (s.tile h).offBad off 32 = false) →
      let key := (s.place (s.trace.pa + 32 * (s.trace.n % 2 ^ s.trace.sz))).key
      let u := counted.traceRec g 1 code.toNat
      u.mem.getN (key + 24) 4 = leBytes 4 code.toNat ∧ u.mem.getN (key + 22) 1 = [1] ∧ u.trace.n = s.trace.n + 1 ∧
      (∀ i, i < key ∨ key + 32 ≤ i → u.mem.get i = s.mem.get i))

/-- At a plain place, no prefix. L1INV ALL empties the tile's L1; L1INV of an address removes the line of L1 that holds the byte it translates to, and nothing where translation fails; on a management core either changes nothing. TLBINV at M: while a stack MV ticket of a tile in scope, or a beat in flight that an agent in scope sent, pins a translation that it removes, it waits; else it is done in a state that differs only in translations. Of KIND 2 every cache in scope is empty: on a tile its own at tile scope, its die's at die scope, and at package or domain scope all, the Headstock's included; on a management core at every scope the Headstock's. Of KIND 1 none of the executing launch remains there; of KIND 0 none of a page that holds G[A], whatever its size, in any address space (that no space is spared is the model's choice, log entry 52). -/
def Obligations.CacheInstructions : Prop :=
  ∀ (s : State) (x : Reg) (sc : Scope) (a : CodeAddr), s.plainAt a → s.cur.pfx = none →
    (∀ g, s.onTile g → exec (.l1inv x true) s = .next ((s.updMe (fun t => { t with l1 := [] })).goneTo a) ∧
      (∀ z s1, s.translate s.who s.space (s.g x).toNat .rd s.cur.atM = .ok z s1 →
        exec (.l1inv x false) s =
          .next ((s1.updMe (fun t => { t with l1 := AMap.del t.l1 (s1.lineKey z.pa / 128 * 128) })).finish .seq)) ∧
      (∀ t s1, s.translate s.who s.space (s.g x).toNat .rd s.cur.atM = .trap t s1 →
        exec (.l1inv x false) s = .next (s1.finish .seq))) ∧
    (s.onCore = true → exec (.l1inv x true) s = .next (s.goneTo a) ∧ exec (.l1inv x false) s = .next (s.goneTo a)) ∧
    (s.cur.atM = true → ∀ kind : BitVec 2,
      let wide := sc = .package ∨ sc = .domain
      let reach := fun (h : Nat) => wide ∨ (∃ g, s.who = .tile g ∧ (h = g ∨ (sc = .die ∧ h / 16 = g / 16)))
      let kept := fun (e : TlbEnt) => (kind = 1 ∧ e.space ≠ s.space.key) ∨
        (kind = 0 ∧ ((s.g x).toNat < e.va ∨ e.va + e.size ≤ (s.g x).toNat))
      let held := (∃ y ∈ s.tiles, reach y.1 ∧ ∃ i : Fin 4, ∃ e ∈ (y.2.mxe.tickets[i]).pins, ¬ kept e) ∨
        (∃ p ∈ s.net, p.typ.performed = false ∧ (∃ e, p.pin = some e ∧ ¬ kept e) ∧
          ((∃ g, p.src = .tile g ∧ reach g) ∨ ((∀ g, p.src ≠ .tile g) ∧ (wide ∨ s.onCore = true))))
      let gone := fun (l : List TlbEnt) => ∀ e ∈ l, kept e
      (held → exec (.tlbinv x kind sc) s = .next s.waitsIn) ∧
      (¬ held → ∃ u : State, exec (.tlbinv x kind sc) s = .next (u.goneTo a) ∧ u.mem = s.mem ∧ u.cur = s.cur ∧
        (∀ h, { u.tile h with tlb := (s.tile h).tlb } = s.tile h ∧ (reach h → gone (u.tile h).tlb) ∧
          (¬ reach h → (u.tile h).tlb = (s.tile h).tlb)) ∧
        ((wide ∨ s.onCore = true) → gone u.htlb) ∧ (¬ wide → s.onCore = false → u.htlb = s.htlb)))

/-- At M at a plain place, no prefix. An address of this package that the map assigns, on a socket in service: SRD writes what the register reads as, SWR makes the register's write. BEDT (0x1400), FWIMG (0x3010), HOVA (0x3018), FWHB (0x3020), and the SCRUB register of a tile's SRAM read as that register's value; SWR to FWIMG and HOVA sets all 64 bits, to SCRUB of a tile's SRAM the low 32, to a window of a lathe die its 38 bits, and SWR to BEDT is without effect; nothing else changes. On a lathe die out of service both are the remote error RSVSOCK. An assigned address of another package sends one CTRL request with the address and, for SWR, the value, and waits; with its answer the instruction is done (that layout of the CTRL request, address, CNT 0 or 1 and the value as payload, is the model's choice, log entry 68). An address that Table 14.2 does not assign (a misaligned one, socket 17 to 32 or above 34, bits above 41, a tile field without TS) raises the address fault with EINFO the address, for SRD and SWR. -/
def Obligations.SystemRegisters : Prop :=
  ∀ (s : State) (d x : Reg) (a : CodeAddr), s.plainAt a → s.cur.pfx = none → s.cur.atM = true →
    let sa := (s.g x).toNat
    let v := s.g d
    let reads := fun (w : Word) => exec (.srd d x) s = .next ((s.setG d w).goneTo a)
    let writes := fun (u : State) => exec (.swr d x) s = .next (u.goneTo a)
    let raises := fun (t : TrapI) => exec (.srd d x) s = .next (s.raise t) ∧ exec (.swr d x) s = .next (s.raise t)
    (∀ r, sa < 2 ^ 32 → sysRegOf sa = some r → s.sockOut (sa / 2 ^ 26) = false →
      reads (s.sysRead r) ∧ exec (.swr d x) s = .next ((s.sysWrite false r v).finish .seq)) ∧
    (s.sockOut 0 = false → (sa = 0x1400 → reads s.bedt ∧ writes s) ∧
      (sa = 0x3010 → reads s.fw.fwimg ∧ writes { s with fw := { s.fw with fwimg := v } }) ∧
      (sa = 0x3018 → reads s.fw.hova ∧ writes { s with fw := { s.fw with hova := v } }) ∧ (sa = 0x3020 → reads s.fw.fwhb)) ∧
    (∀ g < 256, s.sockOut (g / 16 + 1) = false → sa = (g / 16 + 1) * 2 ^ 26 + g % 16 * 2 ^ 22 + 2 ^ 21 →
      reads (AMap.getD s.scrubs (4096 + g) 600) ∧
      writes { s with scrubs := AMap.put s.scrubs (4096 + g) (BitVec.ofNat 64 (v.toNat % 2 ^ 32)) }) ∧
    (∀ die : Nat, 1 ≤ die → die ≤ 16 → s.sockOut die = false → sa = die * 2 ^ 26 + 0x118 →
      writes { s with windows := AMap.put s.windows (3 * 4096 + die - 1) (BitVec.ofNat 64 (v.toNat % 2 ^ 38)) }) ∧
    (∀ r, sa < 2 ^ 32 → sysRegOf sa = some r → s.sockOut (sa / 2 ^ 26) = true → raises (TrapI.mk3 35 1 (s.g x))) ∧
    (∀ r, 2 ^ 32 ≤ sa → sa < 2 ^ 41 → sysRegOf (sa % 2 ^ 32) = some r → s.cur.far = [] →
      let sends := fun (o : Out) (wr : Bool) (bs : List Byte) => ∃ u : State, o = .next u.waitsIn ∧ u.mem = s.mem ∧
        u.cur = { s.cur with far := [{ rid := s.nextRid, pa := sa, len := 8, wr := wr, ans := none, err := none }] } ∧
        ∃ q ∈ u.net, q.rid = s.nextRid ∧ q.src = s.who ∧ q.addr = sa ∧ q.dpkg = sa / 2 ^ 32 ∧ q.cnt = b2n wr ∧ q.data = bs
      sends (exec (.srd d x) s) false [] ∧ sends (exec (.swr d x) s) true (leBytes 8 v.toNat)) ∧
    (∀ r i bs, 2 ^ 32 ≤ sa → sa < 2 ^ 41 → sysRegOf (sa % 2 ^ 32) = some r →
      let answered := fun (wr : Bool) => s.cur.far = [{ rid := i, pa := sa, len := 8, wr := wr, ans := some bs, err := none }]
      (answered false → reads (BitVec.ofNat 64 (ofBytes bs))) ∧ (answered true → writes s)) ∧
    ((sa % 8 ≠ 0 ∨ 2 ^ 41 ≤ sa ∨ 34 < sa % 2 ^ 32 / 2 ^ 26 ∨ (17 ≤ sa % 2 ^ 32 / 2 ^ 26 ∧ sa % 2 ^ 32 / 2 ^ 26 ≤ 32) ∨
        (sa / 2 ^ 21 % 2 = 0 ∧ sa / 2 ^ 22 % 16 ≠ 0)) → raises (TrapI.mk3 5 0 (s.g x)))

/-- A soft error marks the 64-byte codeword of HBM4E, the 8-byte word of a tile, of L2's copy, of a pool record, of a packet's buffer or of a checksum, a value of the pool store, or a register, predicate, mask, slot, buffer or XRET of a tile; a second one in a word makes it uncorrectable; where nothing is stored nothing happens. A scrub read changes nothing where PASS is 0 or the word is good, or for storage that is not scrubbed; else it logs the word, and a correctable one is good again. An instruction of a tile that meets one struck register logs a replay and runs, the register good again (what it writes is good again too); where the replay meets it too, the memory error REG with its number is raised. INJC: at M at a plain place, no prefix. ARM = 0 disarms the core's error: INJC takes the value's writable bits, FIRED cleared where the value has it set. With ARM = 1: KIND 0, a bit at or beyond the unit's length, or for KIND 2 equal bits raise the illegal-instruction trap with nothing changed; an INJA that names no storage raises the address fault with EINFO INJA; otherwise, for an 8-byte word of HBM4E or tile SRAM or an accumulator word, one error is armed for the core at that unit with the value's bits and kind, no other one reports to the core's INJC, and INJC reads ARM = 1. The model's choices: one reporting error per agent, and an arming at another package that arms nothing (log entry 34); which reads meet a struck word, and EINFO 0 for one that is no register (log entry 99). -/
def Obligations.StorageErrors : Prop :=
  (∀ (s : State) (c : Bool),
    let here := fun (m : Mark) (w n : Nat) (b : BadWord) => decide (b.mark = m) && decide (b.pa = w) && decide (b.len = n)
    let strikes := fun (site : ErrSite) (m : Mark) (w n : Nat) => exec (.storageBitError site c) s = .next { s with
      bad := { mark := m, pa := w, len := n, corr := c && s.bad.all (fun b => !here m w n b), inj := false } ::
        s.bad.filter (fun b => !here m w n b) }
    let nothing := fun (site : ErrSite) => exec (.storageBitError site c) s = .next s
    let scrubs := fun (site : ErrSite) (m : Mark) (level inst w n : Nat) =>
      let logs := fun (u : State) => (AMap.getD u.logs (level * 4096 + inst) (0, [])).1
      let pass := (s.scrub level inst).toNat % 2 ^ 32
      (pass = 0 ∨ (∀ x ∈ s.bad, x.mark = m → overlap w n x.pa x.len = false) → exec (.scrubRead site) s = .next s) ∧
      (∀ x, pass ≠ 0 → s.bad = [x] → x.mark = m → x.pa = w → x.len = n → 0 < n → ∃ u : State,
        exec (.scrubRead site) s = .next u ∧ logs u = logs s + 1 ∧
        (x.corr = true → u.bad = []) ∧ (x.corr = false → s.ring.en = false → u.bad = [x]))
    (∀ pa st off, s.home pa = .hbm st off → st < 16 → off < 2 ^ 36 → let key := 2 ^ 49 + st * 2 ^ 36 + off
      strikes (.word pa) .home (key / 64 * 64) 64 ∧ scrubs (.word pa) .home 4 st (key / 64 * 64) 64 ∧
      (s.retired.contains (3 * 4096 + st, key / 128 * 128) = false →
        strikes (.l2 pa) .l2 (key / 8 * 8) 8 ∧ scrubs (.l2 pa) .l2 3 st (key / 8 * 8) 8) ∧
      (s.retired.contains (3 * 4096 + st, key / 128 * 128) = true → nothing (.l2 pa) ∧ exec (.scrubRead (.l2 pa)) s = .next s)) ∧
    (∀ pa g off, s.home pa = .tile g off → g < 256 → off < 2 ^ 24 → (s.tile g).offBad off 1 = false → let key := tileBase g + off
      strikes (.word pa) .home (key / 8 * 8) 8 ∧
      scrubs (.word pa) .home (if off / 8 * 8 < 0x600000 then 1 else 2) g (key / 8 * 8) 8 ∧ nothing (.l2 pa)) ∧
    (∀ pa, s.home pa = .reserved ∨ s.home pa = .out ∨ (∃ p, s.home pa = .far p) →
      nothing (.word pa) ∧ nothing (.l2 pa) ∧ exec (.scrubRead (.word pa)) s = .next s ∧ exec (.scrubRead (.l2 pa)) s = .next s) ∧
    (∀ obj i o, AMap.find? s.objs obj = some o → obj / 2 ^ 20 % 64 = 0 → i < o.vals.length →
      strikes (.value obj i) .value (obj * 2 ^ 24 + i) 0) ∧
    (∀ rid p, ∀ w : BitVec 6, s.pkt? rid = some p → p.rid = rid →
      (8 * w.toNat < 64 + p.data.length → strikes (.packet rid w) .packet (rid * 64 + w.toNat) 0) ∧
      (64 + p.data.length ≤ 8 * w.toNat → nothing (.packet rid w))) ∧
    (∀ g, 256 ≤ g → ∀ r : Reg, nothing (.reg g r) ∧ nothing (.vreg g r) ∧ nothing (.xret g)) ∧
    (∀ g < 256, (∀ z, ∀ w : BitVec 9, (w.toNat < 384 → strikes (.checksum g z w) .checksum ((g * 16 + z.toNat) * 512 + w.toNat) 0) ∧
        (384 ≤ w.toNat → nothing (.checksum g z w))) ∧
      (∀ p, strikes (.pred g p) .pred (g * 8 + p.toNat) 0) ∧ (∀ m, strikes (.mask g m) .mask (g * 8 + m.toNat) 0) ∧
      (∀ r, strikes (.reg g r) .reg (g * 32 + r.toNat) 0 ∧ strikes (.vreg g r) .vreg (g * 32 + r.toNat) 0) ∧
      (∀ q, strikes (.queueBuf g q) .queueBuf (g * 4 + q.code) 0) ∧ (∀ n, strikes (.slot g n) .slot (g * 4 + n.toNat) 0) ∧
      strikes (.xret g) .xret g 0 ∧ (∀ r, exec (.scrubRead (.reg g r)) s = .next s)) ∧
    (∀ k l region i, ∀ pri : BitVec 3, ∀ w : BitVec 2, AMap.find? s.launches k = some l → l.onePool →
      ∃ l', exec (.storageBitError (.record k region pri i w) c) s = .next { s with launches := AMap.put s.launches k l' } ∧
        l' = { l with pools := l'.pools } ∧
        l'.recsOf region pri.toNat = (l.recsOf region pri.toNat).modify i
          (fun x => ({ x.1 with
            ecc := ((w.toNat, c && x.1.ecc.all (fun e => decide (e.1 ≠ w.toNat))) :: x.1.ecc.filter (fun e => decide (e.1 ≠ w.toNat))) }, x.2)) ∧
        (∀ r q, (r, q) ≠ (region, pri.toNat) → l'.recsOf r q = l.recsOf r q))) ∧
  (∀ (s : State) (g : Nat) (i : Instr) (go : State → Out) (w : BadWord), s.parityOf g i = [w] →
    ∃ u : State, (s.ring.en = false ∨ s.bad = [w] → u.bad = s.bad.filter (fun x => decide (x ≠ w))) ∧
      (AMap.getD u.logs g (0, [])).1 = (AMap.getD s.logs g (0, [])).1 + 1 ∧
      (w.corr = true → u.bad = [] → s.parityTurn g i go = go u) ∧
      (w.corr = true → u.bad ≠ [] → s.parityTurn g i go =
        (go u).map (fun v => if u.retired134 g ≠ v.retired134 g then v.regWritten g i else v)) ∧
      (w.corr = false → s.parityTurn g i go =
        .next (u.raise (TrapI.mk3 9 2 (if w.mark = .reg then BitVec.ofNat 64 (w.pa % 32) else if w.mark = .pred then BitVec.ofNat 64 (w.pa % 8) else 0))))) ∧
  (∀ (s : State) (g : Reg) (a : CodeAddr), s.plainAt a → s.cur.pfx = none → s.cur.atM = true →
     let v := s.g g
     let pa := s.cur.inj.inja.toNat
     let kind := v.toNat / 2 ^ 16 % 4
     let b0 := v.toNat % 2 ^ 7
     let b1 := v.toNat / 2 ^ 7 % 2 ^ 7
     let mine := fun (u : State) => u.armed.filter (fun x => decide (x.agent = s.who))
     let bad := fun (bits : Nat) => kind = 0 ∨ bits ≤ b0 ∨ (kind = 2 ∧ (bits ≤ b1 ∨ b0 = b1))
     let arms := fun (unit len : Nat) =>
       (bad (8 * len) → exec (.injArm g) s = .next (s.raise trapIllegal)) ∧
       (¬ bad (8 * len) → ∃ u : State, exec (.injArm g) s = .next (u.goneTo a) ∧ u.mem = s.mem ∧ u.cur.inj.injc.getLsbD 31 = true ∧
         mine u = [{ agent := s.who, unit := unit, len := len, bit0 := b0, bit1 := b1, kind := kind }])
     let none_ := ¬ bad 64 → exec (.injArm g) s = .next (s.raise (TrapI.mk3 5 0 s.cur.inj.inja))
     (v.getLsbD 31 = false → ∃ u : State, exec (.injArm g) s = .next (u.goneTo a) ∧ mine u = [] ∧ u.mem = s.mem ∧
       u.cur.inj.injc = (v &&& 0x80033FFF) ||| (if v.getLsbD 30 then 0 else s.cur.inj.injc &&& 0x40000000)) ∧
     (v.getLsbD 31 = true →
       (∀ stack off, s.home pa = .hbm stack off → arms ((s.home pa).key / 8 * 8) 8) ∧
       (∀ h off, s.home pa = .tile h off → (s.tile h).offBad off 1 = false →
         (off < 0x600000 ∨ 0x880000 ≤ off → arms ((tileBase h + off) / 8 * 8) 8) ∧
         (0x600000 ≤ off → off < 0x880000 → arms (tileBase h + 0x600000 + (off - 0x600000) / 10 * 10) 10)) ∧
       (∀ h off, s.home pa = .tile h off → (s.tile h).offBad off 1 = true → off < 0x600000 ∨ 0x880000 ≤ off → none_) ∧
       (s.home pa = .reserved → none_) ∧
       (∀ pkg, s.home pa = .far pkg ∨ s.home pa = .out → ¬ bad 64 → ∃ u : State, exec (.injArm g) s = .next (u.goneTo a) ∧
         u.mem = s.mem ∧ mine u = [] ∧
         u.cur.inj.injc = (v &&& 0x80033FFF) ||| (if v.getLsbD 30 then 0 else s.cur.inj.injc &&& 0x40000000))))

/-- On a tile at a plain place, with the prefixes the instruction takes (IMX, SCP: copies only). With FOL 0, an entry of its queue free, a copy's tag below 255 and the open batch below its bound, an engine instruction is done: one waiting entry joins the queue, with the encoded words, the issue number one higher, the level and the scope, the operands GA, GB, GC (a vector instruction: those of GB and GC that name general registers) and a copy's IMX value; with no storage error standing its first 8 bytes in the chain are the words. A copy's tag count is one higher and its ready bit 0; with BAT the command joins the open batch. Nothing else changes but counters: no register, no other queue, no byte outside the 64 of the entry. A full queue, a copy's tag at 255, and an open batch at its bound while 16 batches are outstanding make it wait; with fewer outstanding the batch at its bound is closed and the command opens the next one. A CLD, CLDE or CGAT with FOL 1 and the follow-on its stream gives are issued together, the follow-on into XQ, linked to the copy; a full XQ makes the pair wait, and where the stream gives no follow-on the copy takes the trap that finding it met, neither being issued. -/
def Obligations.EngineIssue : Prop :=
  ∀ (s : State) (k : Nat) (e : Eng) (a : CodeAddr), s.onTile k → s.plainAt a → s.mem.wf = true →
    let t := s.tile k
    let tag := e.tag.toNat
    let loads : List Instr := [.cld e, .clde e, .cgat e, .cpf e, .fget e]
    let stores : List Instr := [.cst e, .cstd e, .csct e, .cfill e, .fput e, .fputOf e, .cbat e, .fackw e, .cred e]
    let matrix : List Instr := [.mshape e, .manch e, .mzp e, .mpriv e, .mcode e, .mcsum e, .mlda e, .mldb e, .mma e, .mmas e, .mmaq e,
      .mmap e, .mchk e, .mdrain e, .mdrainx e, .mzero e, .mwm e, .mcap e, .mstat e, .smv e, .smvw e]
    let vector : List Instr := [.vadd e, .vsub e, .vmul e, .vmulh e, .vmulhu e, .vmin e, .vmax e, .vminu e, .vmaxu e, .vabs e, .vneg e,
      .vsadd e, .vssub e, .vand e, .vor e, .vxor e, .vnot e, .vshl e, .vshr e, .vsar e, .vpopc e, .vclz e, .vbrev e, .vclmull e,
      .vclmulh e, .vbcast e, .vret e, .vfadd e, .vfsub e, .vfmul e, .vfma e, .vfdiv e, .vfsqrt e, .vfmin e, .vfmax e, .vfabs e, .vfneg e,
      .vcmpeq e, .vcmplt e, .vcmpltu e, .vfcmpeq e, .vfcmplt e, .vsel e, .vmask e, .vredadd e, .vredmin e, .vredmax e, .vfredadd e,
      .vperm e, .vslide e, .vld e, .vst e, .vgat e, .vsct e, .vqnt e, .vdq e, .vcvt e, .vrange e, .vmse e, .vdefer e, .vdrainq e]
    let words := fun (i : Instr) => BitVec.ofNat 64 ((encode i).1 + (encode i).2 * 2 ^ 32)
    let three := (s.g e.ga, s.g e.gb, s.g e.gc)
    let room := fun (x : Queue) => x.ents.length < 256 + 256 * x.segs.length
    let count := fun (t : Tile) => t.tagn.toNat / 2 ^ (8 * tag) % 256
    let issues := fun (copy : Bool) (q : Q) (i : Instr) (ops : Word × Word × Word) =>
      let x := t.queue q
      s.pfxOk copy copy →
      (¬ room x → exec i s = .next s.waitsIn) ∧
      (copy = true → count t = 255 → exec i s = .next s.waitsIn) ∧
      (room x → (copy = true → count t ≠ 255) → (e.bat = true → t.openBatch.length < 65535) → e.fol = false →
        ∃ (u : State) (en : QEntry), exec i s = .next (u.goneTo a) ∧ u.cur = s.cur ∧ { u with tiles := s.tiles, mem := s.mem, bad := s.bad } = s ∧ (∀ w ∈ u.bad, w ∈ s.bad) ∧
          (∀ g, g ≠ k → u.tile g = s.tile g) ∧ (∀ q', q' ≠ q → (u.tile k).queue q' = t.queue q') ∧
          (let t' := u.tile k
           { t' with lq := t.lq, xq := t.xq, sq := t.sq, tags := t.tags, tagn := t.tagn, openBatch := t.openBatch, counters := t.counters } = t ∧
           (t'.queue q).ents = x.ents ++ [en] ∧ (t'.queue q).isn = x.isn + 1 ∧ (t'.queue q).seq = x.seq ∧
           t'.openBatch = (if e.bat then t.openBatch ++ [(q, x.isn + 1)] else t.openBatch) ∧
           (copy = false → t'.tags = t.tags ∧ t'.tagn = t.tagn) ∧
           (copy = true → count t' = count t + 1 ∧ ∀ j, t'.tags.getLsbD j = (t.tags.getLsbD j && decide (j ≠ tag)))) ∧
          en.cmd = words i ∧ (en.opv0, en.opv1, en.opv2) = ops ∧ en.ximm = (if copy then s.immSigned (0 : BitVec 48) else 0) ∧
          en.isn = x.isn + 1 ∧ en.st = .waiting ∧ en.at_ = x.tail ∧ en.atM = s.cur.atM ∧
          en.scope = ((s.cur.pfx.bind (fun p => p.scp)).getD .domain) ∧
          (let b := tileBase k + x.tail.toNat % 2 ^ 24 * 64
           (∀ j, (x.tail.getLsbD 31 = true ∨ j < b ∨ b + 64 ≤ j) → u.mem.get j = s.mem.get j) ∧
           (x.tail.getLsbD 31 = false → s.bad = [] → u.mem.getN b 8 = leBytes 8 (words i).toNat))) ∧
      (room x → (copy = true → count t ≠ 255) → e.bat = true → 65535 ≤ t.openBatch.length →
        (16 ≤ (s.openBatches k t.batches).length → exec i s = .next s.waitsIn) ∧
        ((s.openBatches k t.batches).length < 16 → e.fol = false → ∃ (u : State) (en : QEntry), exec i s = .next (u.goneTo a) ∧ u.cur = s.cur ∧
          ((u.tile k).queue q).ents = x.ents ++ [en] ∧ en.cmd = words i ∧ (u.tile k).openBatch = [(q, x.isn + 1)] ∧
          (u.tile k).batches = s.openBatches k (s.openBatches k t.batches ++ [t.openBatch])))
    (∀ i ∈ loads, issues true .l i three) ∧ (∀ i ∈ stores, issues true .s i three) ∧ (∀ i ∈ matrix, issues false .x i three) ∧
    (∀ i ∈ vector, issues false .x i (if i.gbGeneral then s.g e.gb else 0, if i.gcGeneral then s.g e.gc else 0, 0)) ∧
    issues false e.qsel (.tokp e) three ∧ issues false e.qsel (.xcall e) three ∧
    (∀ i ∈ [Instr.cld e, .clde e, .cgat e], s.pfxOk true true → e.fol = true → room t.lq → count t ≠ 255 → (e.bat = true → t.openBatch.length < 65535) →
      (∀ (tr : TrapI) (s1 : State), s.followOn = .trap tr s1 → exec i s = .next (s1.raise tr)) ∧
      (∀ s1 : State, s.followOn = .wait s1 → exec i s = .next s1.waitsIn) ∧
      ∀ (j : Instr) (f : Eng) (s1 : State), s.followOn = .ok (j, f) s1 →
        (¬ room (s1.tile k).xq → s1.onTile k → exec i s = .next (s1.setCur s.cur).waitsIn) ∧
        (∀ b : CodeAddr, room (s1.tile k).xq → s1.onTile k → s1.cur.img = s.cur.img → s1.hasSucc b →
          (s.cur.intrap = true ∨ ((s.cur.loop0.lc = 0 ∨ s.cur.loop0.ae ≠ s1.cur.pc) ∧
            (s.cur.loop1.lc = 0 ∨ s.cur.loop1.ae ≠ s1.cur.pc))) →
          ∃ (u : State) (en en2 : QEntry), exec i s = .next u ∧ u.cur.pc = b ∧ u.cur.regs = s.cur.regs ∧
            (u.tile k).lq.ents = (s1.tile k).lq.ents ++ [en] ∧ (u.tile k).xq.ents = (s1.tile k).xq.ents ++ [en2] ∧
            en.cmd = words i ∧ en2.cmd = words j ∧ en.isn = (s1.tile k).lq.isn + 1 ∧ en2.isn = (s1.tile k).xq.isn + 1 ∧
            en2.fol = some en.isn))

/-- For a command en begun at the head of a queue of a running tile, its effects not yet made, no routine's, before entries that follow it in number: TOKP, and in XQ the set-up commands and an MWM whose tile has the rows, complete when every FIFO of their push-after bits has room: the entry is gone, the completion number is en's, the tokens have entered, the flags are in FSTAT, a micro-PC that names the command is idle, and a mirror in use holds the number (no storage error standing); without room the command stays and the number does not move. MCAP puts the register MCAP at XRET's end and completes, staying where a push lacks room, and waits while XRET is full. MZERO completes with every byte of the z tiles that EXT names zero, those tiles closed, and no other byte changed. An MWM whose tile lacks rows stays. -/
def Obligations.EngineCommandCompletion : Prop :=
  ∀ (s : State) (g : Nat) (q : Q) (en : QEntry) (rest : List QEntry) (e : Eng),
    let t := s.tile g
    let x := t.queue q
    x.ents = en :: rest → en.st = .begun → en.sub = 0 → en.made = false → t.qRuns q = true → x.segs = [] → (rest = [] → x.isn = en.isn) →
    (∀ r ∈ rest, r.st ≠ .done ∧ r.isn ≠ en.isn) → (∀ r, rest.head? = some r → r.isn = en.isn + 1) →
    let pal := en.cmd.getLsbD 34
    let par := en.cmd.getLsbD 35
    let pushes := fun (u : Tile) (a b c d : Nat) => u.lx = t.lx + a ∧ u.xl = t.xl + b ∧ u.xs = t.xs + c ∧ u.sx = t.sx + d
    let room := (q = .l → par = true → t.lx < 16) ∧ (q = .x → pal = true → t.xl < 16) ∧ (q = .x → par = true → t.xs < 16) ∧
      (q = .s → pal = true → t.sx < 16)
    let completed := fun (v : State) (m : Memory) (xret : List Word) =>
      let u := v.tile g
      let y := u.queue q
      y.ents = rest ∧ y.seq = en.isn ∧ y.isn = x.isn ∧ (x.mpc.toNat / 2 ^ 32 % 2 ^ 31 = en.isn.toNat % 2 ^ 31 → y.mpc.getLsbD 31 = false) ∧ u.fstat = (t.fstat ||| en.flags) ∧ u.xret = xret ∧
      u.tcc.regs = t.tcc.regs ∧ v.who = s.who ∧
      pushes u (if q = .l ∧ par = true then 1 else 0) (if q = .x ∧ pal = true then 1 else 0) (if q = .x ∧ par = true then 1 else 0)
        (if q = .s ∧ pal = true then 1 else 0) ∧
      (t.seqw = 0 ∨ x.seq = en.isn → v.mem = m) ∧
      (t.seqw ≠ 0 → x.seq ≠ en.isn → s.bad = [] → v.mem = m.setN (tileBase g + t.seqw.toNat + 8 * q.code) (leBytes 8 en.isn.toNat))
    let stays := fun (v : State) => ((v.tile g).queue q).seq = x.seq ∧ ((v.tile g).queue q).ents.map (fun n => n.isn) = x.ents.map (fun n => n.isn) ∧
      v.mem = s.mem ∧ pushes (v.tile g) 0 0 0 0
    let outcome := exec (.engineCommandCompletion g q en.isn) s
    let wm := (t.mxe.z[e.f7.toNat / 8]'(by have := e.f7.isLt; omega)).wm
    let setup : List Instr := [.mshape e, .manch e, .mzp e, .mpriv e, .mcode e, .mcsum e, .smv e]
    (∀ i, en.instr = some i → i = .tokp e ∨ q = .x ∧ (i ∈ setup ∨ i = .mwm e ∧ e.ext.toNat % 256 ≤ wm) →
      (room → ∃ v, outcome = .next v ∧ completed v s.mem t.xret) ∧ (¬ room → ∃ v, outcome = .next v ∧ stays v)) ∧
    (q = .x → en.beat = 0 → en.instr = some (.mwm e) → wm < e.ext.toNat % 256 → ∃ v, outcome = .next v ∧ stays v) ∧
    (q = .x → en.beat = 0 → en.instr = some (.mcap e) →
      (t.xret.length < 16 → room → ∃ v, outcome = .next v ∧ completed v s.mem (t.xret ++ [t.mcap])) ∧
      (t.xret.length < 16 → ¬ room → ∃ v, outcome = .next v ∧ stays v ∧ (v.tile g).xret = t.xret ++ [t.mcap]) ∧
      (16 ≤ t.xret.length → ∃ v, outcome = .next v ∧ stays v ∧ (v.tile g).xret = t.xret)) ∧
    (q = .x → en.beat = 0 → en.instr = some (.mzero e) → room → ∃ v m, outcome = .next v ∧ completed v m t.xret ∧
      (∀ k, let off := k - (tileBase g + 0x600000)
        m.get k = if tileBase g + 0x600000 ≤ k ∧ off < 16 * 0x28000 ∧ e.ext.getLsbD (off / 0x28000) = true then 0 else s.mem.get k) ∧
      (∀ n : Fin 16, e.ext.getLsbD n.val = true → (v.tile g).mxe.z[n].wm = 128))

/-- For a begun vector command at the head of XQ, its effects not yet made, alone there and without push-after bits, of ET 0 to 4 (elements of w = 32, 16, 8, 32, 16 bits): it completes. An instruction that writes vd gives each element n whose lane the mask MK holds its result; the others are 0 under MZ, else as before. b is the element of vb, or the low w bits of the general register (SC = 1). VADD to VXOR, VNOT, the shifts (amounts modulo w), VPOPC, VCLZ, VBREV, VCLMULL, VCLMULH and VBCAST (ET 0 to 2) give what the tables of chapter 7 say; VPERM gives element b modulo n of va, VSLIDE element n + K of va followed by vb, else 0. VSEL writes every lane of vd: va's where MK holds it, else b. VCMPEQ, VCMPLT and VCMPLTU write one bit a lane into the mask GA names (m0 discards), inactive bits 0 under MZ, else as before. VMASK combines two masks by OP 0 to 4, takes a general register by OP 5, and pushes the mask or the number of its one bits into XRET by OP 6 and 7. VREDADD, VREDMIN and VREDMAX (ET 0 to 2) put the sum modulo 2^w, the least or the greatest of the active elements, signed or unsigned (UNS), or the stated value where none is active, into element 0 of vd, all others 0, and with XR push it extended. VRET pushes element IDX. A push needs room in XRET; without it nothing changes but that the command is held. Every other vector register and mask, HI, LO, EMPTY, XRET where nothing is pushed and all memory are as before. -/
def Obligations.VectorResults : Prop :=
  ∀ (s : State) (g : Nat) (en : QEntry) (e : Eng),
    let t := s.tile g
    t.xq.ents = [en] → en.st = .begun → en.sub = 0 → en.beat = 0 → en.made = false → t.qRuns .x = true → t.xq.segs = [] → t.xq.isn = en.isn → t.seqw = 0 →
    en.cmd.getLsbD 34 = false → en.cmd.getLsbD 35 = false → e.et ≤ 4 →
    let x := t.vxe
    let w := if e.et = 1 ∨ e.et = 4 then 16 else if e.et = 2 then 8 else 32
    let elem := fun (v : BitVec 2048) (n : Nat) => v.toNat / 2 ^ (w * n) % 2 ^ w
    let active := fun (n : Nat) => (x.mask e.mk_).getLsbD (w * n / 32)
    let a := fun (n : Nat) => elem (x.reg e.gb) n
    let b := fun (n : Nat) => if e.sc then en.r1.toNat % 2 ^ w else elem (x.reg e.gc) n
    let signed := fun (v : Nat) => (BitVec.ofNat w v).toInt
    let low := fun (v : Int) => (BitVec.ofInt w v).toNat
    let clamp := fun (v : Int) => if v < -(2 ^ (w - 1) : Int) then -(2 ^ (w - 1) : Int) else if 2 ^ (w - 1) ≤ v then 2 ^ (w - 1) - 1 else v
    let product := fun (u v : Nat) => (List.range w).foldl (fun (p : Nat) i => if v.testBit i then p ^^^ (u * 2 ^ i) else p) 0
    let runs := fun (i : Instr) (P : Tile → Prop) => en.instr = some i →
      ∃ u : State, exec (.engineCommandCompletion g .x en.isn) s = .next u ∧ (u.tile g).xq.ents = [] ∧ (u.tile g).xq.seq = en.isn ∧
        u.mem = s.mem ∧ P (u.tile g)
    let vector := fun (v : Tile) (f : Nat → Nat) => { v.vxe with v := x.v } = x ∧ (∀ r, r ≠ e.ga → v.vxe.reg r = x.reg r) ∧
      (∀ n, n < 2048 / w → elem (v.vxe.reg e.ga) n = f n)
    let writes := fun (i : Instr) (f : Nat → Nat) => runs i (fun v => v.xret = t.xret ∧
      vector v (fun n => if active n then f n else if e.mz then 0 else elem (x.reg e.ga) n))
    let gives := fun (i : Instr) (f : Nat → Nat → Nat) => e.et ≤ 2 → writes i (fun n => f (a n) (b n))
    let maskIs := fun (v : Tile) (k : BitVec 3) (f : Nat → Bool) => { v.vxe with m := x.m } = x ∧ v.xret = t.xret ∧
      (∀ j, j ≠ k → v.vxe.mask j = x.mask j) ∧ (k ≠ 0 → ∀ l, l < 64 → (v.vxe.mask k).getLsbD l = f l)
    let compares := fun (i : Instr) (f : Nat → Nat → Bool) => e.et = 0 → runs i (fun v => maskIs v (e.ga.truncate 3) (fun l =>
      if active l then f (a l) (b l) else !e.mz && (x.mask (e.ga.truncate 3)).getLsbD l))
    let held := fun (i : Instr) => en.instr = some i → 16 ≤ t.xret.length →
      ∃ u : State, exec (.engineCommandCompletion g .x en.isn) s = .next u ∧ (u.tile g).vxe = x ∧ (u.tile g).xret = t.xret ∧ u.mem = s.mem ∧
        (u.tile g).xq.ents = [{ en with held := true }]
    let pushes := fun (i : Instr) (v : Word) => held i ∧ (t.xret.length < 16 → runs i (fun u => u.vxe = x ∧ u.xret = t.xret ++ [v]))
    let inputs := ((List.range (2048 / w)).filter active).map a
    let uns := e.ext.getLsbD 4
    let le := fun (u v : Nat) => if uns then u ≤ v else signed u ≤ signed v
    let reduces := fun (i : Instr) (P : Nat → Prop) => e.et ≤ 2 → (e.xr = true → held i) ∧ (e.xr = false ∨ t.xret.length < 16 →
      runs i (fun v => ∃ r : Nat, P r ∧ vector v (fun n => if n = 0 then r else 0) ∧
        v.xret = if e.xr then t.xret ++ [if uns then BitVec.ofNat 64 r else BitVec.ofInt 64 (signed r)] else t.xret))
    let ma := x.mask (e.gb.truncate 3)
    let mb := x.mask (e.gc.truncate 3)
    let op := (e.ext.extractLsb' 4 3).toNat
    let makes := fun (v : Word) => runs (.vmask e) (fun u => maskIs u (e.ga.truncate 3) (fun l => v.getLsbD l))
    gives (.vadd e) (fun a b => (a + b) % 2 ^ w) ∧
    gives (.vsub e) (fun a b => (a + 2 ^ w - b) % 2 ^ w) ∧
    gives (.vmul e) (fun a b => a * b % 2 ^ w) ∧
    gives (.vmulh e) (fun a b => low (signed a * signed b / 2 ^ w)) ∧
    gives (.vmulhu e) (fun a b => a * b / 2 ^ w) ∧
    gives (.vmin e) (fun a b => if signed b < signed a then b else a) ∧
    gives (.vmax e) (fun a b => if signed a < signed b then b else a) ∧
    gives (.vminu e) (fun a b => if b < a then b else a) ∧
    gives (.vmaxu e) (fun a b => if a < b then b else a) ∧
    gives (.vabs e) (fun a _ => (signed a).natAbs) ∧
    gives (.vneg e) (fun a _ => (2 ^ w - a) % 2 ^ w) ∧
    gives (.vsadd e) (fun a b => low (clamp (signed a + signed b))) ∧
    gives (.vssub e) (fun a b => low (clamp (signed a - signed b))) ∧
    gives (.vand e) (fun a b => a &&& b) ∧
    gives (.vor e) (fun a b => a ||| b) ∧
    gives (.vxor e) (fun a b => a ^^^ b) ∧
    gives (.vnot e) (fun a _ => 2 ^ w - 1 - a) ∧
    gives (.vshl e) (fun a b => a * 2 ^ (b % w) % 2 ^ w) ∧
    gives (.vshr e) (fun a b => a / 2 ^ (b % w)) ∧
    gives (.vsar e) (fun a b => low (signed a / 2 ^ (b % w))) ∧
    gives (.vpopc e) (fun a _ => (List.range w).countP (fun i => a.testBit i)) ∧
    gives (.vclz e) (fun a _ => if a = 0 then w else w - 1 - Nat.log2 a) ∧
    gives (.vbrev e) (fun a _ => (BitVec.ofNat w a).reverse.toNat) ∧
    gives (.vclmull e) (fun a b => product a b % 2 ^ w) ∧
    gives (.vclmulh e) (fun a b => product a b / 2 ^ w) ∧
    gives (.vbcast e) (fun _ _ => en.r0.toNat % 2 ^ w) ∧
    writes (.vperm e) (fun n => a (b n % (2048 / w))) ∧
    writes (.vslide e) (fun n =>
      let j : Int := n + (e.ext.extractLsb' 4 9).toInt
      if 0 ≤ j ∧ j < (2048 / w : Nat) then a j.toNat
      else if ((2048 / w : Nat) : Int) ≤ j ∧ j < 2 * (2048 / w : Nat) then elem (x.reg e.gc) (j.toNat - 2048 / w) else 0) ∧
    (e.et = 0 → runs (.vsel e) (fun v => v.xret = t.xret ∧ vector v (fun n => if active n then a n else b n))) ∧
    compares (.vcmpeq e) (fun a b => decide (a = b)) ∧
    compares (.vcmplt e) (fun a b => decide (signed a < signed b)) ∧
    compares (.vcmpltu e) (fun a b => decide (a < b)) ∧
    (op = 0 → makes (ma &&& mb)) ∧ (op = 1 → makes (ma ||| mb)) ∧ (op = 2 → makes (ma ^^^ mb)) ∧ (op = 3 → makes (ma &&& ~~~ mb)) ∧
    (op = 4 → makes (~~~ ma)) ∧ (op = 5 → makes en.r0) ∧ (op = 6 → pushes (.vmask e) ma) ∧
    (op = 7 → pushes (.vmask e) (BitVec.ofNat 64 ((List.range 64).countP (fun l => ma.getLsbD l)))) ∧
    reduces (.vredadd e) (fun r => r = inputs.sum % 2 ^ w) ∧
    reduces (.vredmin e) (fun r => (inputs = [] ∧ r = if uns then 2 ^ w - 1 else 2 ^ (w - 1) - 1) ∨ (r ∈ inputs ∧ ∀ y ∈ inputs, le r y)) ∧
    reduces (.vredmax e) (fun r => (inputs = [] ∧ r = if uns then 0 else 2 ^ (w - 1)) ∨ (r ∈ inputs ∧ ∀ y ∈ inputs, le y r)) ∧
    pushes (.vret e) (BitVec.ofNat 64 (a (e.ext.extractLsb' 4 8).toNat))

/-- For a begun vector command at the head of XQ, alone there, without push-after bits, XRET having room, no MTS SEED pending and no storage error standing or armed: it completes. VFADD to VFNEG (ET 3, 4) round the exact result once by RM, stepping SEED once per active element under SR; FSTAT takes the flags; VFREDADD puts the tree of R90 over the elements (-0 where inactive) into element 0, the rest 0. VFCMPEQ and VFCMPLT write mask bits; NaN gives 0 and, for LT, INV. VCVT converts 64 elements part to part, VQNT writes mantissas, the exponent code and Z of the block (R87), VDQ 48 elements of m * 2^(E-127) + Z; SEED, MSEA and FSTAT follow, and E = 0xFF is the invalid-scale fault. VRANGE widens HI and LO, VMSE adds to MSEA. VLD and VGAT read each active lane's 4 bytes, VST and VSCT write them (the highest lane at a shared address), VSCT ADD adds every lane into its 8-byte word, at addresses that pass R261 (they wrap; the model's choice for VLD and VST, log entry 88); a lane that fails a check faults with cause, address and lane, nothing read or written. VDEFER appends an entry per active lane, in order, where it fits; VDRAINQ takes the oldest 64 or fewer of its PATH, the others closing up. XR pushes as stated. Other registers and bytes are as before. A Z that fp32 does not hold and the q of a shared block with M = 0 are the model's choice (log entries 53, 87). -/
def Obligations.VectorFloatsAndMemory : Prop :=
  ∀ (s : State) (g : Nat) (en : QEntry) (e : Eng),
    let t := s.tile g
    t.xq.ents = [en] → en.st = .begun → en.sub = 0 → en.beat = 0 → en.made = false → t.qRuns .x = true → t.xq.segs = [] → t.xq.isn = en.isn → t.seqw = 0 →
    en.cmd.getLsbD 34 = false → en.cmd.getLsbD 35 = false → t.seedNext = [] →
    t.xret.length < 16 → s.clean → s.mem.wf = true → e.et ≤ 4 →
    let x := t.vxe
    let w := if e.et = 1 ∨ e.et = 4 then 16 else if e.et = 2 then 8 else 32
    let elem := fun (v : BitVec 2048) (n : Nat) => v.toNat / 2 ^ (w * n) % 2 ^ w
    let active := fun (n : Nat) => (x.mask e.mk_).getLsbD (w * n / 32)
    let a := fun (n : Nat) => elem (x.reg e.gb) n
    let b := fun (n : Nat) => if e.sc then en.r1.toNat % 2 ^ w else elem (x.reg e.gc) n
    let p := if e.et = 3 then 24 else 8
    let old := x.reg e.ga
    let runs := fun (i : Instr) (fl : BitVec 5) (P : State → Prop) => en.instr = some i →
      ∃ u : State, exec (.engineCommandCompletion g .x en.isn) s = .next u ∧ (u.tile g).xq.ents = [] ∧ (u.tile g).xq.seq = en.isn ∧
        (u.tile g).fstat = (t.fstat ||| (en.flags ||| fl)) ∧ P u
    let vector := fun (u : State) (f : Nat → Nat) => { (u.tile g).vxe with v := x.v } = x ∧ (∀ r, r ≠ e.ga → (u.tile g).vxe.reg r = x.reg r) ∧
      (∀ n, n < 2048 / w → elem ((u.tile g).vxe.reg e.ga) n = f n)
    let calm := fun (u : State) (seed : BitVec 32) (msea : Word) (xret : List Word) => u.mem = s.mem ∧ (u.tile g).seed = seed ∧
      (u.tile g).msea = msea ∧ (u.tile g).xret = xret ∧ (u.tile g).dqn = t.dqn
    let pushed := fun (v : Word) => if e.xr then t.xret ++ [v] else t.xret
    let lfsr := fun (from' : BitVec 32) (steps : Nat → Bool) (n : Nat) =>
      (List.range n).foldl (fun r i => if steps i then (rndStep e.rm r).1 else r) from'
    let drawn := fun (r : BitVec 32) => (rndStep e.rm r).2
    let flags := fun (n : Nat) (steps : Nat → Bool) (h : Nat → BitVec 5) =>
      (List.range n).foldl (fun fl i => if steps i then fl ||| h i else fl) (0 : BitVec 5)
    let sums := fun (n : Nat) (adds : Nat → Bool) (c c' : Nat → Val) =>
      (List.range n).foldl (fun (m : Word × BitVec 5) i => if adds i then ((mseAdd m.1 (c i) (c' i)).1, m.2 ||| (mseAdd m.1 (c i) (c' i)).2) else m)
        (t.msea, 0)
    let floats := fun (i : Instr) (f : Val → Val → Val → Val × BitVec 5) => 3 ≤ e.et →
      let exact := fun (n : Nat) => f (fpVal p (a n)) (fpVal p (b n)) (fpVal p (elem old n))
      let res := fun (n : Nat) => fpRound p .arith e.rm (drawn (lfsr t.seed active n)) (exact n).1
      runs i (flags (2048 / w) active (fun n => (exact n).2 ||| (res n).2)) (fun u =>
        vector u (fun n => if active n then (res n).1 % 2 ^ w else if e.mz then 0 else elem old n) ∧
        calm u (lfsr t.seed active (2048 / w)) t.msea t.xret)
    let compares := fun (i : Instr) (f : Nat → Nat → Bool × BitVec 5) => e.et = 3 →
      let k : BitVec 3 := e.ga.truncate 3
      runs i (flags 64 active (fun l => (f (a l) (b l)).2)) (fun u => calm u t.seed t.msea t.xret ∧ { (u.tile g).vxe with m := x.m } = x ∧
        (∀ j, j ≠ k → (u.tile g).vxe.mask j = x.mask j) ∧
        (k ≠ 0 → ∀ l, l < 64 → ((u.tile g).vxe.mask k).getLsbD l = if active l then (f (a l) (b l)).1 else !e.mz && (x.mask k).getLsbD l))
    floats (.vfadd e) (fun a b _ => a.add b) ∧
    floats (.vfsub e) (fun a b _ => a.add b.neg) ∧
    floats (.vfmul e) (fun a b _ => a.mul b) ∧
    floats (.vfma e) (fun a b d => (((a.mul b).1.add d).1, (a.mul b).2 ||| ((a.mul b).1.add d).2)) ∧
    floats (.vfdiv e) (fun a b _ => a.div b) ∧
    floats (.vfsqrt e) (fun a _ _ => a.sqrt) ∧
    floats (.vfmin e) (fun a b _ => (if a.isNan then b else if b.isNan then a else if b.ltz a then b else a, 0)) ∧
    floats (.vfmax e) (fun a b _ => (if a.isNan then b else if b.isNan then a else if a.ltz b then b else a, 0)) ∧
    floats (.vfabs e) (fun a _ _ => (a.abs, 0)) ∧
    floats (.vfneg e) (fun a _ _ => (a.neg, 0)) ∧
    (3 ≤ e.et →
      let r := tree p e.rm 8 ((List.range (2048 / w)).map (fun n => if active n then a n else 2 ^ (w - 1))) t.seed 0
      runs (.vfredadd e) r.2.2 (fun u => vector u (fun n => if n = 0 then r.1 % 2 ^ w else 0) ∧ calm u r.2.1 t.msea (pushed (BitVec.ofNat 64 r.1)))) ∧
    compares (.vfcmpeq e) (fun a b => (!(fpVal 24 a).isNan && !(fpVal 24 b).isNan && decide ((fpVal 24 a).cmp (fpVal 24 b) = 1), 0)) ∧
    compares (.vfcmplt e) (fun a b => if (fpVal 24 a).isNan || (fpVal 24 b).isNan then (false, fINV)
      else (decide ((fpVal 24 a).cmp (fpVal 24 b) = 0), 0)) ∧
    -- VCVT: from part SP of va to part DP of vd
    (e.et = 0 →
      let sf := (e.ext.extractLsb' 4 3).toNat
      let tf := (e.ext.extractLsb' 7 3).toNat
      let f8 := (e.ext.extractLsb' 10 5).toNat
      let sp := (e.ext.extractLsb' 15 2).toNat
      let dp := (e.ext.extractLsb' 17 2).toNat
      let wt := cvtW tf
      let part := fun (v : BitVec 2048) (n : Nat) => v.toNat / 2 ^ (wt * n) % 2 ^ wt
      let src := fun (n : Nat) => cvtVal sf f8 ((x.reg e.gb).toNat / 2 ^ (cvtW sf * (sp * 64 + n)) % 2 ^ cvtW sf)
      let here := fun (n : Nat) => (x.mask e.mk_).getLsbD n
      let steps := fun (n : Nat) => here n && cvtRounds sf tf
      let res := fun (n : Nat) => cvtOne sf tf f8 e.rm (if cvtRounds sf tf then drawn (lfsr t.seed steps n) else 0) (src n)
      let m := sums 64 (fun n => here n && (sf = 3 || sf = 4) && decide (tf ≠ 3)) src (fun n => cvtVal tf f8 (res n).1)
      dp * 64 + 64 ≤ 2048 / wt →
      runs (.vcvt e) (flags 64 here (fun n => (res n).2) ||| m.2) (fun u => calm u (lfsr t.seed steps 64) m.1 t.xret ∧
        { (u.tile g).vxe with v := x.v } = x ∧ (∀ r, r ≠ e.ga → (u.tile g).vxe.reg r = x.reg r) ∧
        (∀ n, n < 2048 / wt → part ((u.tile g).vxe.reg e.ga) n = if dp * 64 ≤ n ∧ n < dp * 64 + 64 then
          (if here (n - dp * 64) then (res (n - dp * 64)).1 % 2 ^ wt else if e.mz then 0 else part old n) else part old n))) ∧
    -- VQNT and VDQ: blocks of 48
    (3 ≤ e.et →
      let bw := bsiWidth (e.ext.extractLsb' 4 3).toNat
      let asym := e.ext.getLsbD 7
      let all := fun (_ : Nat) => true
      let cs := fun (n : Nat) => fpVal p (a n)
      let base := quantBase t bw e.rm asym (e.ext.getLsbD 8) ((List.range 48).map cs)
      let q := fun (n : Nat) => quantOne bw e.rm (drawn (lfsr base.seed all n)) asym base (cs n)
      let m := sums 48 all cs (fun n => ((Val.ofInt (q n).1 base.e).add (fpVal 24 base.z)).1)
      runs (.vqnt e) (base.flags ||| flags 48 all (fun n => flagIf (q n).2.1 fINX ||| flagIf (q n).2.2 fINV) ||| m.2) (fun u =>
        calm u (lfsr base.seed all 48) m.1 t.xret ∧ { (u.tile g).vxe with v := x.v } = x ∧ (∀ r, r ≠ e.ga → (u.tile g).vxe.reg r = x.reg r) ∧
        let v : Nat := ((u.tile g).vxe.reg e.ga).toNat
        (∀ n, n < 48 → v / 2 ^ (bw * n) % 2 ^ bw = (BitVec.ofInt bw (q n).1).toNat) ∧ v / 2 ^ (48 * bw) % 2 ^ (1984 - 48 * bw) = 0 ∧
        v / 2 ^ 1984 % 2 ^ 32 = Int.toNat (base.e + 127) ∧ v / 2 ^ 2016 = base.z % 2 ^ 32) ∧
      let v : Nat := (x.reg e.gb).toNat
      let ec : Nat := v / 2 ^ 1984 % 2 ^ 8
      let res := fun (n : Nat) => fpRound p .scale e.rm (drawn (lfsr t.seed all n))
        ((Val.ofInt (BitVec.ofNat bw (v / 2 ^ (bw * n))).toInt ((ec : Int) - 127)).add (fpVal 24 (v / 2 ^ 2016))).1
      (ec ≠ 255 → runs (.vdq e) (flags 48 all (fun n => (res n).2)) (fun u => calm u (lfsr t.seed all 48) t.msea t.xret ∧
        vector u (fun n => if n < 48 then (res n).1 % 2 ^ w else 0))) ∧
      (ec = 255 → en.instr = some (.vdq e) →
        exec (.engineCommandCompletion g .x en.isn) s = .next (s.engineFault g .x en (TrapI.mk3 27 0 0)))) ∧
    (3 ≤ e.et →
      let bits := fun (n : Nat) => if e.et = 4 then a n * 65536 else a n
      let ins := ((List.range (2048 / w)).filter active).filter (fun n => !(fpVal 24 (bits n)).isNan)
      let y := ins.foldl (fun (y : Word32 × Word32 × Bool) n => let c : Word32 := BitVec.ofNat 32 (bits n)
        if y.2.2 then (c, c, false)
        else (if (fpVal 24 y.1.toNat).ltz (fpVal 24 c.toNat) then c else y.1, if (fpVal 24 c.toNat).ltz (fpVal 24 y.2.1.toNat) then c else y.2.1, false))
        (x.hi, x.lo, x.empty || e.ext.getLsbD 4)
      runs (.vrange e) 0 (fun u => (u.tile g).vxe = { x with hi := y.1, lo := y.2.1, empty := y.2.2 } ∧
        calm u t.seed t.msea (pushed (if y.2.2 then 0x7F800000FF800000 else y.2.1 ++ y.1))) ∧
      let m := sums (2048 / w) active (fun n => fpVal p (a n)) (fun n => fpVal p (elem (x.reg e.gc) n))
      runs (.vmse e) m.2 (fun u => (u.tile g).vxe = x ∧ calm u t.seed m.1 (pushed m.1))) ∧
    -- lane loads and stores
    (e.et = 0 →
      let lin := fun (l : Nat) => en.r0 + (e.ext.extractLsb' 4 16).signExtend 64 + BitVec.ofNat 64 (4 * l)
      let idx := fun (l : Nat) => en.r0 + BitVec.ofNat 64 (elem (x.reg e.gc) l * 2 ^ (e.ext.extractLsb' 4 2).toNat)
      let lanes := (List.range 64).filter active
      let word := fun (l : Nat) => elem old l
      let read := fun (addr : Nat → Word) =>
        (∀ l ∈ lanes, (addr l).toNat % 4 = 0 ∧ (addr l).toNat < 2 ^ 24 ∧ t.offBad (addr l).toNat 4 = false ∧ t.rowOpen (addr l).toNat 4 = false)
      let write := fun (addr : Nat → Word) (k : Nat) =>
        (∀ l ∈ lanes, (addr l).toNat % k = 0 ∧ (addr l).toNat < 2 ^ 24 ∧ t.offBad (addr l).toNat k = false ∧ inZ (addr l).toNat k = false ∧
          t.inQueues (addr l).toNat k = false)
      let at' := fun (l : Word) => tileBase g + l.toNat
      let loads := fun (i : Instr) (addr : Nat → Word) =>
        (read addr → runs i 0 (fun u => calm u t.seed t.msea t.xret ∧
          vector u (fun n => if active n then ofBytes (s.mem.getN (at' (addr n)) 4) else if e.mz then 0 else word n))) ∧
        (∀ l ∈ lanes, (∀ j ∈ lanes, j < l → (addr j).toNat % 4 = 0) → (addr l).toNat % 4 ≠ 0 → en.instr = some i →
          exec (.engineCommandCompletion g .x en.isn) s =
            .next (s.engineFault g .x en (TrapI.mk3 6 0 (BitVec.ofNat 64 ((addr l).toNat % 2 ^ 24 + l * 2 ^ 56)))))
      let stores := fun (i : Instr) (addr : Nat → Word) =>
        (write addr 4 → runs i 0 (fun u => (u.tile g).vxe = x ∧
          (∀ l ∈ lanes, (∀ j ∈ lanes, l < j → addr j ≠ addr l) → u.mem.getN (at' (addr l)) 4 = leBytes 4 (word l)) ∧
          (∀ k, (∀ l ∈ lanes, k < at' (addr l) ∨ at' (addr l) + 4 ≤ k) → u.mem.get k = s.mem.get k))) ∧
        (∀ l ∈ lanes, (∀ j ∈ lanes, (addr j).toNat % 4 = 0) → (∀ j ∈ lanes, j < l → t.offBad (addr j).toNat 4 = false ∧ (addr j).toNat < 2 ^ 24 ∧
            inZ (addr j).toNat 4 = false) → inZ (addr l).toNat 4 = true → en.instr = some i →
          exec (.engineCommandCompletion g .x en.isn) s =
            .next (s.engineFault g .x en (TrapI.mk3 5 0 (BitVec.ofNat 64 ((addr l).toNat % 2 ^ 24 + l * 2 ^ 56)))))
      loads (.vld e) lin ∧ loads (.vgat e) idx ∧ stores (.vst e) lin ∧ (e.ext.getLsbD 6 = false → stores (.vsct e) idx) ∧
      (e.ext.getLsbD 6 = true → write idx 8 → (∀ l ∈ lanes, atomBase ≤ (idx l).toNat ∧ (idx l).toNat + 8 ≤ atomEnd) →
        runs (.vsct e) 0 (fun u => (u.tile g).vxe = x ∧
          (∀ l ∈ lanes, u.mem.getN (at' (idx l)) 8 = leBytes 8 ((lanes.filter (fun j => decide (idx j = idx l))).foldl
            (fun (v : Word) j => v + (BitVec.ofNat 32 (word j)).signExtend 64) (BitVec.ofNat 64 (ofBytes (s.mem.getN (at' (idx l)) 8)))).toNat) ∧
          (∀ k, (∀ l ∈ lanes, k < at' (idx l) ∨ at' (idx l) + 8 ≤ k) → u.mem.get k = s.mem.get k))) ∧
      -- the deferral queue
      let k := (e.ext.extractLsb' 4 4).toNat
      let path := (e.ext.extractLsb' 8 8).toNat
      let entry := fun (n : Nat) => tileBase g + (t.spBytes - 304 * 1024 + 64 * n)
      (t.dqon = false → ∀ i, i = .vdefer e ∨ i = .vdrainq e → en.instr = some i →
        exec (.engineCommandCompletion g .x en.isn) s = .next (s.engineFault g .x en trapIllegal)) ∧
      (t.dqon = true → 4096 < t.dqn + lanes.length → en.instr = some (.vdefer e) →
        exec (.engineCommandCompletion g .x en.isn) s = .next (s.engineFault g .x en (TrapI.mk3 33 1 (BitVec.ofNat 64 t.dqn)))) ∧
      (t.dqon = true → t.dqn + lanes.length ≤ 4096 → runs (.vdefer e) 0 (fun u => (u.tile g).vxe = x ∧ (u.tile g).dqn = t.dqn + lanes.length ∧
        (u.tile g).xret = pushed (BitVec.ofNat 64 (t.dqn + lanes.length)) ∧
        (∀ n l, lanes[n]? = some l → u.mem.getN (entry (t.dqn + n)) 64 = leBytes 1 path ++ leBytes 1 l ++ leBytes 2 k ++
          (List.range 15).flatMap (fun j => leBytes 4 (if j < k then elem (x.reg (e.gb + BitVec.ofNat 5 j)) l else 0))) ∧
        (∀ n, n < entry t.dqn ∨ entry (t.dqn + lanes.length) ≤ n → u.mem.get n = s.mem.get n))) ∧
      (t.dqon = true → e.ga.toNat + k ≤ 31 →
        let ents := List.range t.dqn
        let mine := fun (n : Nat) => decide (s.mem.getN (entry n) 1 = leBytes 1 path)
        let out := (ents.filter mine).take 64
        let rest := ents.filter (fun n => !out.contains n)
        runs (.vdrainq e) 0 (fun u => (u.tile g).dqn = t.dqn - out.length ∧ (u.tile g).xret = pushed (BitVec.ofNat 64 out.length) ∧
          { (u.tile g).vxe with v := x.v, m := x.m } = x ∧
          (∀ j, j ≠ (e.gc.truncate 3 : BitVec 3) → (u.tile g).vxe.mask j = x.mask j) ∧
          ((e.gc.truncate 3 : BitVec 3) ≠ 0 → ∀ l, l < 64 → ((u.tile g).vxe.mask (e.gc.truncate 3)).getLsbD l = decide (l < out.length)) ∧
          (∀ i, i ≤ k → ∀ l, l < 64 → elem ((u.tile g).vxe.reg (e.ga + BitVec.ofNat 5 i)) l =
            match out[l]? with
            | some n => ofBytes (s.mem.getN (entry n + 4 * i) 4)
            | none => 0) ∧
          (∀ r : Reg, r < e.ga ∨ e.ga.toNat + k < r.toNat → (u.tile g).vxe.reg r = x.reg r) ∧
          (∀ n m, rest[n]? = some m → u.mem.getN (entry n) 64 = s.mem.getN (entry m) 64) ∧
          (∀ n, n < entry 0 ∨ entry rest.length ≤ n → u.mem.get n = s.mem.get n))))

/-- For a begun matrix command at the head of XQ, alone there, no storage error standing or armed, no error ring. MLDA and MLDB: the slot holds count, K-blocks, format and every block's scale and mantissas as the bytes give them, a sparse block's at its indices, the rest dropped; the first bad CHK or scale faults 26 or 27 with its index. A product first takes its predictions (as they stand, or the sums of the words it leaves or adds to); each further event makes one row: each word is the old one (ACC) or 0 plus, per K-block, the sum of (a - za)(b - zb) over kept elements times 2^shift; in MMAP's privileged columns the fp32 word of R84; the tile's watermark is then the row's number plus 1 and valid predictions grow by the change; a sum out of 80 bits is fault 25 with the word's index, those before it written, the predictions void; the end leaves watermark 128 and the anchor. MCHK: status 3 with no mode or valid prediction; 0 where all sums agree; one row and column off by the same amount: the word is corrected in mode 2, status 1; one side alone: the prediction is replaced, status 2; in mode 1 these, and any other difference, are fault 23. MDRAIN (mode 0) writes each element of the region, row-major, as R85 rounds it by its factor (R229), MDRAINX its 16-byte words; CLR zeroes the tile (as MZERO does, log entry 95). XR pushes the status. MSTAT pushes the selected word. SMVW waits for its ticket, then writes its words, the ticket idle; an idle ticket is fault 22/8, one with an error gives that fault. Other bytes, slots and tiles are as before. That events make one row each is the model's choice (log entry 110). -/
def Obligations.MatrixResults : Prop :=
  ∀ (s : State) (g : Nat) (en : QEntry) (e : Eng),
    let t := s.tile g
    t.xq.ents = [en] → en.st = .begun → en.sub = 0 → en.made = false → en.park = none → t.qRuns .x = true → t.xq.segs = [] → t.xq.isn = en.isn → t.seqw = 0 →
    en.cmd.getLsbD 34 = false → en.cmd.getLsbD 35 = false → t.xret.length < 16 → t.seedNext = [] → s.clean → s.ring.en = false → s.mem.wf = true →
    let x := t.mxe
    let sp := tileBase g
    let m := x.shape.toNat % 2 ^ 8 + 1
    let n := x.shape.toNat / 2 ^ 8 % 2 ^ 8 + 1
    let kb := x.shape.toNat / 2 ^ 16 % 2 ^ 4 + 1
    let z := e.f7.toNat / 8
    let zt := x.zt z
    let place := fun (i j : Nat) => sp + 0x600000 + z * 0x28000 + i * 1280 + j * 10
    let word := fun (v : State) (i j : Nat) => (BitVec.ofNat 80 (ofBytes (v.mem.getN (place i j) 10))).toInt
    let fits := fun (v : Int) => -(2 ^ 79 : Int) ≤ v ∧ v < 2 ^ 79
    let outcome := exec (.engineCommandCompletion g .x en.isn) s
    let faults := fun (u : State) (c k v : Nat) => outcome = .next (u.engineFault g .x en (TrapI.mk3 c k (BitVec.ofNat 64 v)))
    let completes := fun (fl : BitVec 5) (xret : List Word) (P : State → Prop) => ∃ u : State, outcome = .next u ∧ (u.tile g).xq.ents = [] ∧
      (u.tile g).xq.seq = en.isn ∧ (u.tile g).fstat = (t.fstat ||| (en.flags ||| fl)) ∧ (u.tile g).xret = xret ∧ P u
    let status := fun (v : Word) => if e.f7.getLsbD 0 then t.xret ++ [v] else t.xret
    let verdict := fun (verd row col : Nat) (d : Int) => BitVec.ofNat 64 (verd + row * 2 ^ 8 + col * 2 ^ 16) + (BitVec.ofInt 64 d <<< 32)
    -- loads
    (∀ isB : Bool, en.instr = some (if isB then .mldb e else .mlda e) →
      let cnt := if isB then n else m
      let fmt := if isB then x.shape.toNat / 2 ^ 23 % 8 else x.shape.toNat / 2 ^ 20 % 8
      let spn := if isB then x.shape.toNat / 2 ^ 26 % 4 else 0
      let kn := 2 ^ spn
      let c := if spn = 0 then 48 else 3 * kn
      let w := bsiWidth fmt
      let nb := cnt * kb
      let bb := (c * w + 7) / 8
      let ib := (3 * kn + 1) / 2
      let groups := (nb + 14) / 15
      let sb := s.mem.getN (sp + en.r1.toNat) (16 * groups)
      let scale := fun (b : Nat) => sb.getD (b / 15 * 16 + 1 + b % 15) 0
      let field := fun (b i : Nat) => (BitVec.ofNat w (ofBytes (s.mem.getN (sp + en.r0.toNat + b * bb) bb) / 2 ^ (w * i))).toInt
      let index := fun (b i : Nat) => ofBytes (s.mem.getN (sp + en.r2.toNat + b * ib) ib) / 16 ^ i % 16
      let chk := fun (q : Nat) => (sb.getD (16 * q) 0).toNat = ((e.ext.extractLsb' 0 8).toNat + 15 * q) % 256
      (isB = true → spn = 0 → e.gc = 0) →
      (en.r0.toNat % 4 ≠ 0 → faults s 6 0 en.r0.toNat) ∧
      (en.r0.toNat % 4 = 0 → en.r1.toNat % 16 = 0 → en.r0.toNat + nb * bb ≤ t.spBytes → en.r1.toNat + 16 * groups ≤ t.spBytes →
        (spn ≠ 0 → en.r2.toNat % 4 = 0 ∧ en.r2.toNat + nb * ib ≤ t.spBytes) →
        (∀ q, q < groups → ¬ chk q → (∀ p, p < q → chk p) → faults s 26 0 q) ∧
        ((∀ q, q < groups → chk q) → ∀ b, b < nb → scale b = 0xFF → (∀ p, p < b → scale p ≠ 0xFF) → faults s 27 0 b) ∧
        ((∀ q, q < groups → chk q) → (∀ b, b < nb → scale b ≠ 0xFF) →
          (spn ≠ 0 → ∀ b, b < nb → ∀ i, i < 3 * kn → i % kn ≠ 0 → index b (i - 1) < index b i) →
          completes 0 t.xret (fun u => u.mem = s.mem ∧ ∃ sl : Slot, (u.tile g).mxe = x.setSlot isB (e.f7.toNat % 2) sl ∧
            sl.full = true ∧ sl.cnt = cnt ∧ sl.kb = kb ∧ sl.fmt = fmt ∧ sl.spn = spn ∧ sl.blocks.length = nb ∧
            ∀ b, b < nb → (sl.block b).e = scale b ∧
              (spn = 0 → ∀ i, i < 48 → (sl.block b).m.getD i 0 = field b i ∧ (sl.block b).kept.getD i false = true) ∧
              (spn ≠ 0 → (∀ i, i < 3 * kn → let p := i / kn * 16 + index b i
                  (sl.block b).m.getD p 0 = field b i ∧ (sl.block b).kept.getD p false = true) ∧
                (∀ p, p < 48 → (∀ i, i < 3 * kn → i / kn * 16 + index b i ≠ p) →
                  (sl.block b).m.getD p 0 = 0 ∧ (sl.block b).kept.getD p false = false)))))) ∧
    -- products
    (∀ f : Nat, en.instr = [Instr.mma e, .mmas e, .mmaq e, .mmap e][f]? → en.instr ≠ none →
      let a := x.slot false (e.f7.toNat / 2 % 2)
      let b := x.slot true (e.f7.toNat / 4 % 2)
      let acc := e.f7.getLsbD 0
      let anc := ((en.cap.headD 0).truncate 16 : BitVec 16).toInt
      let old := fun (i j : Nat) => if acc then word s i j else 0
      let left := fun (i j : Nat) => if !acc && decide (i < a.cnt) && decide (j < b.cnt) then 0 else word s i j
      let za := fun (i : Nat) => if 2 ≤ f then x.za.getD i 0 else 0
      let zb := fun (j : Nat) => if 2 ≤ f then x.zb.getD j 0 else 0
      let term := fun (i j k : Nat) =>
        let p := a.block (i * a.kb + k)
        let q := b.block (j * b.kb + k)
        ((List.range 48).map (fun h => if q.kept.getD h false then (p.m.getD h 0 - za i) * (q.m.getD h 0 - zb j) else 0)).sum *
          2 ^ ((p.e.toNat : Int) + q.e.toNat - 254 - anc).toNat
      let upTo := fun (i j k : Nat) => old i j + ((List.range k).map (term i j)).sum
      let priv := fun (j : Nat) => f = 3 ∧ x.bitmap.getLsbD j = true
      let fp := fun (i j : Nat) => (List.range a.kb).foldl (fun w k => privBlock (a.block (i * a.kb + k)) (b.block (j * b.kb + k)) (za i) (zb j) w)
        ((BitVec.ofInt 32 (old i j)).toNat, 0)
      let new := fun (i j : Nat) => if priv j then ((fp i j).1 : Int) else upTo i j a.kb
      let good := fun (i j : Nat) => priv j ∨ ∀ k, 0 < k → k ≤ a.kb → fits (upTo i j k)
      let change := fun (i j : Nat) => if x.bitmap.getLsbD j then 0 else new i j - old i j
      let frame := fun (u : State) (i k : Nat) => ∀ q, q < place i 0 ∨ place i k ≤ q → u.mem.get q = s.mem.get q
      let only := fun (u : State) (zt' : ZTile) => (u.tile g).mxe = x.setZt z zt'
      (en.cap.length < 2 → ∃ u zt', outcome = .next u ∧ u.mem = s.mem ∧ only u zt' ∧
        zt' = { zt with bm := some x.bitmap, cvalid := decide (x.csMode ≠ 0), cr := zt'.cr, cc := zt'.cc } ∧
        (u.tile g).xq.ents = [{ en with cap := en.cap ++ [1], held := false }] ∧
        (x.csMode = 0 ∨ (acc = true ∧ zt.cvalid = true ∧ (zt.bm = none ∨ zt.bm = some x.bitmap)) → zt'.cr = zt.cr ∧ zt'.cc = zt.cc) ∧
        (x.csMode ≠ 0 → ¬ (acc = true ∧ zt.cvalid = true ∧ (zt.bm = none ∨ zt.bm = some x.bitmap)) →
          (∀ j, j < 128 → zt'.cr.getD j 0 = if x.bitmap.getLsbD j then 0 else ((List.range 128).map (fun i => left i j)).sum) ∧
          (∀ i, i < 128 → zt'.cc.getD i 0 = ((List.range 128).map (fun j => if x.bitmap.getLsbD j then 0 else left i j)).sum))) ∧
      (∀ i, 2 ≤ en.cap.length → i < a.cnt → a.cnt ≤ 128 → 0 < b.cnt → b.cnt ≤ 128 → en.beat = i * b.cnt →
        ((∀ j, j < b.cnt → good i j) → ∃ u zt', outcome = .next u ∧ only u zt' ∧
          (∀ j, j < b.cnt → u.mem.getN (place i j) 10 = leBytes 10 (BitVec.ofInt 80 (new i j)).toNat) ∧ frame u i b.cnt ∧
          (∃ fl, (u.tile g).xq.ents = [{ en with beat := en.beat + b.cnt, flags := fl, held := false }] ∧ (f ≠ 3 → fl = en.flags)) ∧
          zt' = { zt with wm := i + 1, cr := zt'.cr, cc := zt'.cc } ∧ (zt.cvalid = false → zt' = { zt with wm := i + 1 }) ∧
          (zt.cvalid = true → (∀ j, j < 128 → zt'.cr.getD j 0 = zt.cr.getD j 0 + if j < b.cnt then change i j else 0) ∧
            (∀ h, h < 128 → zt'.cc.getD h 0 = zt.cc.getD h 0 + if h = i then ((List.range b.cnt).map (change i)).sum else 0))) ∧
        (∀ j, j < b.cnt → ¬ good i j → (∀ h, h < j → good i h) → ∃ v : State, faults v 25 0 (i * 128 + j) ∧
          (∀ h, h < j → v.mem.getN (place i h) 10 = leBytes 10 (BitVec.ofInt 80 (new i h)).toNat) ∧ frame v i j ∧
          only v { zt with wm := 128, cvalid := false })) ∧
      (2 ≤ en.cap.length → a.cnt * b.cnt ≤ en.beat → completes 0 t.xret (fun u => u.mem = s.mem ∧
        only u { zt with wm := 128, zanc := if acc then zt.zanc else BitVec.ofInt 16 anc }))) ∧
    -- MCHK
    (en.instr = some (.mchk e) →
      let bm := zt.bm.getD 0
      let off := fun (j : Nat) => (if bm.getLsbD j then 0 else ((List.range 128).map (fun i => word s i j)).sum) - zt.cr.getD j 0
      let off' := fun (i : Nat) => ((List.range 128).map (fun j => if bm.getLsbD j then 0 else word s i j)).sum - zt.cc.getD i 0
      let only1 := fun (h : Nat → Int) (k : Nat) => k < 128 ∧ h k ≠ 0 ∧ ∀ i, i < 128 → i ≠ k → h i = 0
      let none' := fun (h : Nat → Int) => ∀ i, i < 128 → h i = 0
      let two := fun (h : Nat → Int) => ∃ i k, i < k ∧ k < 128 ∧ h i ≠ 0 ∧ h k ≠ 0
      let bad := fun (k : Nat) => ∃ v : State, faults v 23 k z ∧ v.mem = s.mem ∧ (v.tile g).mxe = { x with csflt := satInc x.csflt }
      (x.csMode = 0 ∨ zt.cvalid = false → completes 0 (status 3) (fun u => u.mem = s.mem ∧ (u.tile g).mxe = x)) ∧
      (x.csMode ≠ 0 → zt.cvalid = true →
        (none' off → none' off' → completes 0 (status 0) (fun u => u.mem = s.mem ∧ (u.tile g).mxe = x)) ∧
        (∀ i j, only1 off j → only1 off' i → (off j ≠ off' i → bad 2) ∧ (off j = off' i → x.csMode = 1 → bad 1) ∧
          (off j = off' i → x.csMode ≠ 1 → completes 0 (status (verdict 1 i j (off j))) (fun u =>
            (u.tile g).mxe = { x with cscor := satInc x.cscor } ∧
            u.mem.getN (place i j) 10 = leBytes 10 (BitVec.ofInt 80 (word s i j - off j)).toNat ∧
            (∀ q, q < place i j ∨ place i j + 10 ≤ q → u.mem.get q = s.mem.get q)))) ∧
        (∀ j, only1 off j → none' off' → (x.csMode = 1 → bad 1) ∧ (x.csMode ≠ 1 → completes 0 (status (verdict 2 255 j 0)) (fun u =>
          u.mem = s.mem ∧ ∃ zt' : ZTile, (u.tile g).mxe = { x.setZt z zt' with cscor := satInc x.cscor } ∧ zt' = { zt with cr := zt'.cr } ∧
          ∀ k, k < 128 → zt'.cr.getD k 0 = zt.cr.getD k 0 + if k = j then off j else 0))) ∧
        (∀ i, only1 off' i → none' off → (x.csMode = 1 → bad 1) ∧ (x.csMode ≠ 1 → completes 0 (status (verdict 2 i 255 0)) (fun u =>
          u.mem = s.mem ∧ ∃ zt' : ZTile, (u.tile g).mxe = { x.setZt z zt' with cscor := satInc x.cscor } ∧ zt' = { zt with cc := zt'.cc } ∧
          ∀ k, k < 128 → zt'.cc.getD k 0 = zt.cc.getD k 0 + if k = i then off' i else 0))) ∧
        (two off ∨ two off' → bad 2))) ∧
    -- drains
    (x.csMode = 0 →
      let clr := e.f7.getLsbD 2
      let size := if e.ext.toNat / 4 % 4 = 0 then 4 else if e.ext.toNat / 4 % 4 = 1 then 2 else 1
      let factor := fun (j : Nat) => if e.f7.getLsbD 1 then ofBytes (s.mem.getN (sp + en.r2.toNat + 4 * j) 4) else en.r2.toNat % 2 ^ 32
      let one := fun (q : Nat) (sd : BitVec 32) => drainOne (e.ext.toNat / 4 % 4) (e.ext.toNat / 16 % 32) (e.ext.toNat % 4)
        (x.bitmap.getLsbD (q % n)) (word s (q / n) (q % n)) zt.zanc.toInt (factor (q % n)) sd
      let seed := fun (q : Nat) => (List.range q).foldl (fun sd k => (one k sd).2.2) t.seed
      let cleared := { ZTile.reset with zanc := (en.cap.headD 0).truncate 16 }
      let tileAfter := fun (u : State) => (u.tile g).mxe = if clr then x.setZt z cleared else x
      let rest := fun (u : State) (k : Nat) => ∀ q, q < sp + en.r0.toNat ∨ sp + en.r0.toNat + k ≤ q → u.mem.get q =
        if clr ∧ place 0 0 ≤ q ∧ q < place 128 0 then 0 else s.mem.get q
      (∀ j, e.f7.getLsbD 1 = true → j < n → en.r2.toNat % 4 = 0 ∧ en.r2.toNat + 4 * n ≤ t.spBytes) →
      (en.instr = some (.mdrain e) → m ≤ 128 → n ≤ 128 → en.r0.toNat + m * n * size ≤ 0x600000 →
        ((∃ j, j < n ∧ (fpVal 24 (factor j)).isFin = false) → clr = false → faults s 22 7 0) ∧
        ((∀ j, j < n → (fpVal 24 (factor j)).isFin = true) →
          completes ((List.range (m * n)).foldl (fun fl q => fl ||| (one q (seed q)).2.1) 0) (status 3) (fun u =>
            (∀ q, q < m * n → u.mem.getN (sp + en.r0.toNat + size * q) size = leBytes size (one q (seed q)).1) ∧
            rest u (m * n * size) ∧ tileAfter u ∧ (u.tile g).seed = seed (m * n)))) ∧
      (en.instr = some (.mdrainx e) → m ≤ 128 → n ≤ 128 → en.r0.toNat + 16 * m * n ≤ 0x600000 →
        completes 0 (status 3) (fun u =>
          (∀ i j, i < m → j < n → u.mem.getN (sp + en.r0.toNat + 16 * (i * n + j)) 16 = leBytes 16 (if x.bitmap.getLsbD j then
            (BitVec.ofInt 80 (word s i j)).toNat else (BitVec.ofInt 128 (word s i j)).toNat)) ∧
          rest u (16 * m * n) ∧ tileAfter u ∧ (u.tile g).seed = t.seed))) ∧
    -- MSTAT
    (en.instr = some (.mstat e) → zt.wm ≤ 128 → (∀ k : Fin 4, (x.tickets[k]).st < 4) → ∃ v : Word,
      completes 0 (t.xret ++ [v]) (fun u => u.mem = s.mem ∧ (u.tile g).mxe = x) ∧
      (e.f7.toNat % 8 = 0 → v = x.shape) ∧
      (e.f7.toNat % 8 = 1 → x.csMode < 4 → v.extractLsb' 0 2 = BitVec.ofNat 2 x.csMode ∧ v.getLsbD 2 = x.coding.getLsbD 0 ∧
        v.extractLsb' 4 11 = x.coding.extractLsb' 4 11 ∧ v.extractLsb' 16 4 = x.coding.extractLsb' 16 4 ∧ v.getLsbD 20 = decide (x.bitmap ≠ 0)) ∧
      (e.f7.toNat % 8 = 2 → v.extractLsb' 0 16 = zt.zanc ∧ v.getLsbD 16 = zt.cvalid ∧ (v.extractLsb' 24 8).toNat = zt.wm ∧
        v.getLsbD 32 = x.a0.full ∧ v.getLsbD 33 = x.a1.full ∧ v.getLsbD 34 = x.b0.full ∧ v.getLsbD 35 = x.b1.full ∧
        ∀ k : Fin 4, (v.extractLsb' (36 + 2 * k.val) 2).toNat = (x.tickets[k]).st) ∧
      (e.f7.toNat % 8 = 3 → v = x.csflt ++ x.cscor)) ∧
    -- SMVW
    (en.instr = some (.smvw e) →
      let k : BitVec 2 := e.f7.truncate 2
      let tk := x.tk k
      (tk.st = 0 → faults s 22 8 0) ∧
      (tk.st = 1 → ∃ u : State, outcome = .next u ∧ u.mem = s.mem ∧ (u.tile g).mxe = x ∧ (u.tile g).xq.ents = [{ en with held := false }]) ∧
      (1 < tk.st → (∀ c sub info, tk.err = some (c, sub, info) → ∃ v : State, outcome = .next (v.engineFault g .x en (TrapI.mk3 c sub info)) ∧
          v.mem = s.mem ∧ (v.tile g).mxe = x.setTk k Ticket.idle) ∧
        (tk.err = none → tk.res.length = tk.n → t.inQueues tk.yoff (16 * tk.n) = false → completes 0 t.xret (fun u =>
          (∀ i, i < tk.n → u.mem.getN (sp + tk.yoff + 16 * i) 16 = leBytes 16 (BitVec.ofInt 128 (tk.res.getD i 0)).toNat) ∧
          (∀ q, q < sp + tk.yoff ∨ sp + tk.yoff + 16 * tk.n ≤ q → u.mem.get q = s.mem.get q) ∧ (u.tile g).mxe = x.setTk k Ticket.idle))))

/-- For a begun copy, no packet of its tile in the network, no storage error standing or armed, whose next global bytes translate to a page not SO of HBM4E or of a tile window that takes them: its next move takes the bytes up to a multiple of 64 of the global address (FPUT 256; the model's choice, log entry 9). CLD, CGAT and FGET put what is read, after what is carried, at the row's place in the scratchpad, whole 10-byte words in a z tile (whose prediction is void) and whole words of an add; CLD ADD adds each word, and one that overflows is fault 25 with those before it added. CST and CSCT put the local bytes at the global address, or add one word to a tile's; CFILL repeats its 8 bytes from the row's start. To another package they send one packet with those bytes. FPUT sends each piece as WR, ADDW or PUT, changing no memory. CLDE reads a piece of a stream, then for block b writes the 48 sums of coefficient times mantissa, a sum out of the format being fault 31/2, then the scale groups with the CHK bytes of BASE. CSTD computes word w as the exact quotient of the sum of C times slot w (fault 31/3 or 31/2 else) and writes what it has in whole parts. CBAT sends the entries of its table in one packet (with the expected values under ACAS; log entry 25) and goes on with its answer; the old values are stored at their place when ATMR comes, none under NORET. FACKW writes ISS and ACK of the four paths. The entry's row, offset and carried bytes move on; every other byte of memory is as before. -/
def Obligations.CopyBytes : Prop :=
  (∀ (s : State) (g : Nat) (q : Q) (en : QEntry) (e : Eng),
    let t := s.tile g
    let sp := tileBase g
    (t.queue q).entry en.isn = some en → en.made = false → en.asc = false → (∀ p ∈ s.net, p.src ≠ .tile g) → s.clean → s.mem.wf = true →
    let len := en.r2.toNat % 2 ^ 24
    let rows := en.r2.toNat / 2 ^ 24 % 2 ^ 16
    let str : Word := if en.ximm ≠ 0 then en.ximm else BitVec.ofNat 64 len
    let local' := fun (b d : Word) => (b + BitVec.ofNat 64 en.row * d).toNat + en.off
    let global := fun (b : Word) (ix : Bool) => (b + (if ix then en.cap.getD en.row 0 else BitVec.ofNat 64 en.row) * str).toNat + en.off
    let left := len - en.off
    let piece := fun (al a n : Nat) => min n (al - a % al)
    let page := fun (va : Nat) (k : AccKind) (x : Xlat) => s.translate (.tile g) (s.qSpace g) va k en.atM = .ok x s ∧ x.kind ≠ .so ∧
      (k = .rd ∨ windowOf x.pa = none ∨ inZ (x.pa % 2 ^ 24) 1 = false)
    let home := fun (x : Xlat) (k : AccKind) (n key : Nat) =>
      (∃ st off, s.place x.pa = .hbm st off ∧ key = (Place.hbm st off).key) ∨
      (∃ h off, s.place x.pa = .tile h off ∧ key = tileBase h + off ∧ (s.tile h).offBad off n = false ∧ (s.tile h).rowOpen off n = false ∧
        (k = .wr → inZ off n = false ∧ (s.tile h).inQueues off n = false))
    let reach := fun (va : Nat) (k : AccKind) (n key : Nat) => ∃ x, page va k x ∧ home x k n key
    let moves := fun (i : Instr) (P : State → QEntry → Prop) => ∃ (u : State) (en' : QEntry), s.copyMove g q en i = .next u ∧
      ((u.tile g).queue q).entry en.isn = some en' ∧ en'.cmd = en.cmd ∧ P u en'
    let past := fun (en' : QEntry) (n : Nat) (carry : List Byte) => en'.carry = carry ∧ en'.beat = en.beat + 1 ∧
      (en.off + n < len → en'.row = en.row ∧ en'.off = en.off + n) ∧ (len ≤ en.off + n → en'.row = en.row + 1 ∧ en'.off = 0)
    let rest := fun (u : State) (a n : Nat) => ∀ k, k < a ∨ a + n ≤ k → u.mem.get k = s.mem.get k
    let sent := fun (u : State) (typ : PktT) (pa : Nat) (bs : List Byte) (d path : Nat) => u.mem = s.mem ∧ ∃ p ∈ u.net, p.rid = s.nextRid ∧
      p.src = .tile g ∧ p.isn = en.isn ∧ p.addr = pa ∧ p.data = bs ∧ p.dpkg = d ∧ (d = 0 ∨ s.reaches path d = true → p.typ = typ)
    let acc := fun (bs : List Byte) => (BitVec.ofNat 80 (ofBytes bs)).toInt
    let fits := fun (v : Int) => -(2 ^ 79 : Int) ≤ v ∧ v < 2 ^ 79
    let summed := fun (w : Nat) (a b : List Byte) => if w = 10 then leBytes 10 (BitVec.ofInt 80 (acc a + acc b)).toNat
      else leBytes 8 ((ofBytes a + ofBytes b) % 2 ^ 64)
    (0 < len → en.off < len → en.row < rows →
      -- row loads
      (∀ i add ix, (i = .cld e ∧ add = e.f7.getLsbD 0 ∧ ix = false) ∨ (i = .cgat e ∧ add = false ∧ ix = true) ∨ (i = .fget e ∧ add = false ∧ ix = false) →
        let lo := local' en.r0 (BitVec.ofNat 64 len)
        let ga := global en.r1 ix
        let dst := lo - en.carry.length
        let w := if inZ dst 1 then 10 else if add then 8 else 1
        let n := piece 64 ga (if inZ lo 1 then min left (0x880000 - lo) else left)
        ∀ key, en.carry.length < w → en.carry.length ≤ lo → t.rowOpen dst (en.carry.length + n) = false → reach ga .rd n key →
          let data := en.carry ++ s.mem.getN key n
          let m := data.length / w * w
          (add = false → moves i (fun u en' => u.mem.getN (sp + dst) m = data.take m ∧ rest u (sp + dst) m ∧ past en' n (data.drop m) ∧
            (∀ z, z < 16 → overlap dst m (0x600000 + z * 0x28000) 0x28000 = true → ((u.tile g).mxe.zt z).cvalid = false))) ∧
          (add = true →
            let old := fun (j : Nat) => s.mem.getN (sp + dst + w * j) w
            let new := fun (j : Nat) => summed w (old j) (slice data (w * j) w)
            let good := fun (j : Nat) => w = 8 ∨ fits (acc (old j) + acc (slice data (w * j) w))
            ((∀ j, j < m / w → good j) → moves i (fun u en' => (∀ j, j < m / w → u.mem.getN (sp + dst + w * j) w = new j) ∧ rest u (sp + dst) m ∧
              past en' n (data.drop m))) ∧
            (∀ j, j < m / w → ¬ good j → (∀ h, h < j → good h) → ∃ v : State,
              s.copyMove g q en i = .next (v.engineFault g q en (TrapI.mk3 25 0 (BitVec.ofNat 64 ((dst + w * j - 0x600000) / 10 % 16384)))) ∧
              (∀ h, h < j → v.mem.getN (sp + dst + w * h) w = new h) ∧ rest v (sp + dst) (w * j)))) ∧
      -- row stores
      (∀ i add ix, (i = .cst e ∧ add = e.f7.getLsbD 0 ∧ ix = false) ∨ (i = .csct e ∧ add = e.f7.getLsbD 0 ∧ ix = true) →
        let lo := local' en.r1 (BitVec.ofNat 64 len)
        let ga := global en.r0 ix
        let n := piece 64 ga left
        (add = false → t.rowOpen lo n = false →
          (∀ key, reach ga .wr n key → moves i (fun u en' => u.mem.getN key n = s.mem.getN (sp + lo) n ∧ rest u key n ∧ past en' n [])) ∧
          (∀ x d, page ga .wr x → s.place x.pa = .far d → moves i (fun u en' => sent u .wr x.pa (s.mem.getN (sp + lo) n) d 0 ∧ past en' n []))) ∧
        (add = true → ∀ x h off, s.translate (.tile g) (s.qSpace g) ga .wr en.atM = .ok x s → x.kind ≠ .so → s.place x.pa = .tile h off →
          x.pa % 2 ^ 24 = off →
          let w := if off < 0x880000 then 10 else 8
          let bs := s.mem.getN (sp + lo) w
          let old := s.mem.getN (tileBase h + off) w
          0x600000 ≤ off → off + w ≤ 0x8C0000 → (s.tile h).offBad off w = false → (s.tile h).rowOpen off w = false → t.rowOpen lo w = false →
          (w = 10 → (off - 0x600000) % 10 = 0 ∧ left % 10 = 0 ∧ off + left ≤ 0x880000) → (w = 8 → off % 8 = 0 ∧ left % 8 = 0) → ga % 4096 + w ≤ 4096 →
          (w = 8 ∨ fits (acc old + acc bs)) →
          moves i (fun u en' => u.mem.getN (tileBase h + off) w = summed w old bs ∧ rest u (tileBase h + off) w ∧ past en' w []))) ∧
      -- CFILL
      (let fill := fun (n : Nat) => (List.range n).map (fun k => BitVec.ofNat 8 (en.r1.toNat / 2 ^ (8 * ((en.off + k) % 8))))
       let lo := local' en.r0 str
       let span := min left (0x880000 - lo)
       let n := if inZ lo 1 then min span (40 - (lo - 0x600000) % 40) else piece 64 lo left
       (e.f7.getLsbD 3 = true → t.offBad lo n = false → t.inQueues lo n = false → t.rowOpen lo n = false →
         (inZ lo 1 = true → (lo - 0x600000) % 10 = 0 ∧ span % 10 = 0) → (inZ lo 1 = false → inZ lo n = false) →
         moves (.cfill e) (fun u en' => u.mem.getN (sp + lo) n = fill n ∧ rest u (sp + lo) n ∧ past en' n [])) ∧
       (e.f7.getLsbD 3 = false →
         let ga := global en.r0 false
         let n := piece 64 ga left
         (∀ key, reach ga .wr n key → moves (.cfill e) (fun u en' => u.mem.getN key n = fill n ∧ rest u key n ∧ past en' n [])) ∧
         (∀ x d, page ga .wr x → s.place x.pa = .far d → moves (.cfill e) (fun u en' => sent u .wr x.pa (fill n) d 0 ∧ past en' n [])))) ∧
      -- FPUT
      (q = .s → let lo := local' en.r1 (BitVec.ofNat 64 len)
       let ga := global en.r0 false
       let n := piece 256 ga left
       let grp := e.f7.toNat / 8
       let typ := if grp ≠ 0 then PktT.put else if e.f7.getLsbD 0 then .addw else .wr
       ∀ x d, page ga .wr x → ((∃ st off, s.place x.pa = .hbm st off) ∨ (∃ h off, s.place x.pa = .tile h off)) ∧ d = 0 ∨ s.place x.pa = .far d →
         t.rowOpen lo n = false →
         moves (.fput e) (fun u en' => sent u typ x.pa (s.mem.getN (sp + lo) n) d (e.f7.toNat / 2 % 4) ∧ past en' n []))) ∧
    -- CLDE
    (∀ x, en.cldeD = some x →
      let code := en.cap.headD 0
      let k := code.toNat / 2 ^ 8 % 16
      (∀ j, x.next code en = some j →
        let str := (x.streams code).getD j (0, 0)
        let had := en.parts.getD j (0, [])
        let n := piece 64 (str.1 + had.1) (str.2 - had.1)
        ∀ key, reach (str.1 + had.1) .rd n key → moves (.clde e) (fun u en' => u.mem = s.mem ∧
          en'.parts = en.parts.set j (had.1 + n, had.2 ++ s.mem.getN key n) ∧ en'.row = en.row)) ∧
      (x.next code en = none →
        let scales := (en.parts.take k).map Prod.snd
        (en.row = 0 → (∀ f, panelFault x scales = some f → s.copyMove g q en (.clde e) = .next (s.engineFault g q en f)) ∧
          (panelFault x scales = none → moves (.clde e) (fun u en' => u.mem = s.mem ∧ en'.row = 1 ∧
            en'.cap = en.cap ++ (scales.headD []).map (fun b => b.zeroExtend 64)))) ∧
        (∀ b, en.row = b + 1 → b < x.nb →
          let iw := bsiWidth x.fin
          let ow := bsiWidth x.fout
          let mant := fun (p : Nat × List Byte) (i : Nat) => (BitVec.ofNat iw (ofBytes (streamAt p (b * (6 * iw)) (6 * iw)) / 2 ^ (iw * i))).toInt
          let sum := fun (i : Nat) => (((usedPanels code).zip (en.parts.drop k)).map (fun p => (codeCoef code p.1 : Int) * mant p.2 i)).sum
          let out := en.r0.toNat + b * (6 * ow)
          ((∃ i, i < 48 ∧ ¬ (-(2 ^ (ow - 1) : Int) ≤ sum i ∧ sum i < 2 ^ (ow - 1))) →
            s.copyMove g q en (.clde e) = .next (s.engineFault g q en (TrapI.mk3 31 2 (BitVec.ofNat 64 b)))) ∧
          ((∀ i, i < 48 → -(2 ^ (ow - 1) : Int) ≤ sum i ∧ sum i < 2 ^ (ow - 1)) → t.rowOpen out (6 * ow) = false → moves (.clde e) (fun u en' =>
            (∀ i, i < 48 → ofBytes (u.mem.getN (sp + out) (6 * ow)) / 2 ^ (ow * i) % 2 ^ ow = (BitVec.ofInt ow (sum i)).toNat) ∧
            rest u (sp + out) (6 * ow) ∧ en'.row = en.row + 1))) ∧
        (en.row = x.nb + 1 → let bs := en.cap.drop 33
          t.rowOpen en.r2.toNat bs.length = false → moves (.clde e) (fun u en' =>
            (∀ i, i < bs.length → u.mem.get (sp + en.r2.toNat + i) = if i % 16 = 0 then BitVec.ofNat 8 (x.base + 15 * (i / 16)) else (bs.getD i 0).truncate 8) ∧
            rest u (sp + en.r2.toNat) bs.length ∧ en'.row = en.row + 1)))) ∧
    -- CSTD
    (∀ x, en.cstdD = some x →
      let va := en.r0.toNat + en.row * x.width - en.carry.length
      let k := s.wholeParts g en va en.carry.length
      (0 < k → let n := piece 64 va k
        (∀ key, reach va .wr n key → moves (.cstd e) (fun u en' => u.mem.getN key n = en.carry.take n ∧ rest u key n ∧ en'.carry = en.carry.drop n ∧
          en'.row = en.row)) ∧
        (∀ y d, page va .wr y → s.place y.pa = .far d → moves (.cstd e) (fun u en' => sent u .wr y.pa (en.carry.take n) d 0 ∧
          en'.carry = en.carry.drop n ∧ en'.row = en.row))) ∧
      (k = 0 → en.row < x.nw → (∀ o ∈ x.src.take x.nin, t.rowOpen (o + 16 * en.row) 16 = false) →
        let sum := ((x.c.zip (x.src.take x.nin)).map (fun p => p.1 * acc (s.mem.getN (sp + p.2 + 16 * en.row) 10))).sum
        let v := sum / (x.den : Int)
        (sum % (x.den : Int) = 0 → fits v → moves (.cstd e) (fun u en' => u.mem = s.mem ∧ en'.row = en.row + 1 ∧ en'.off = 0 ∧
          en'.carry = en.carry ++ (if x.out = 0 then leBytes 16 (BitVec.ofInt 128 v).toNat else leBytes 10 (BitVec.ofInt 80 v).toNat).drop en.off)) ∧
        (en.carry = [] → sum % (x.den : Int) ≠ 0 →
          s.copyMove g q en (.cstd e) = .next (s.engineFault g q en (TrapI.mk3 31 3 (BitVec.ofNat 64 en.row)))) ∧
        (en.carry = [] → sum % (x.den : Int) = 0 → ¬ fits v →
          s.copyMove g q en (.cstd e) = .next (s.engineFault g q en (TrapI.mk3 31 2 (BitVec.ofNat 64 en.row)))))) ∧
    -- CBAT
    (let total := e.ext.toNat % 256 + 1
     let cas := decide (e.f7.toNat % 16 = 6)
     let m := min (if cas then 10 else 16) (total - en.row)
     let tab := en.r1.toNat + 16 * en.row
     let res := en.r2.toNat + 8 * en.row
     ∀ x d, en.row < total → t.rowOpen tab (16 * m) = false → t.rowOpen res (if cas then 8 * m else 0) = false →
       s.translate (.tile g) (s.qSpace g) en.r0.toNat .wr en.atM = .ok x s → (∃ h off, s.place x.pa = .tile h off) ∧ d = 0 ∨ s.place x.pa = .far d →
       (en.far = [] → moves (.cbat e) (fun u en' => en'.row = en.row ∧ (∃ r, en'.far = [r] ∧ r.rid = s.nextRid ∧ r.ans = none) ∧
         sent u .atm x.pa (s.mem.getN (sp + tab) (16 * m) ++ (if cas then s.mem.getN (sp + res) (8 * m) else [])) d 0 ∧
         ∃ p ∈ u.net, p.rid = s.nextRid ∧ p.aop = e.f7.toNat % 16 ∧ p.flagBit = e.f7.getLsbD 4 ∧ p.dst = res)) ∧
       (∀ r, en.far = [r] → r.pa = x.pa → r.len = 8 * m → r.wr = true → r.err = none → r.ans = some [] →
         moves (.cbat e) (fun u en' => u.mem = s.mem ∧ en'.row = en.row + m ∧ en'.far = []))) ∧
    -- FACKW
    (e.ga ≠ 0 → en.row = 0 → let o := en.r0.toNat
      t.offBad o 32 = false → t.inQueues o 32 = false → inZ o 32 = false → moves (.fackw e) (fun u en' => en'.row = 1 ∧ rest u (sp + o) 32 ∧
        ∀ p : Fin 4, u.mem.getN (sp + o + 8 * p.val) 8 = leBytes 4 (t.iss[p]).toNat ++ leBytes 4 (t.ack[p]).toNat))) ∧
  -- the old values of a CBAT
  (∀ (s : State) (g rid : Nat) (p : Pkt) (en : QEntry), s.answer? rid .atmr = some p → p.src = .tile g → p.tcc = false → s.bad = [] → s.mem.wf = true →
    ((s.tile g).queue p.q).entry p.isn = some en → en.st ≠ .done →
    let t := s.tile g
    let n := p.data.length
    (p.flagBit = true → ∃ u, exec (.pktAtmrAnswer rid) s = .next u ∧ u.mem = s.mem) ∧
    (p.flagBit = false → t.offBad p.dst n = false → t.inQueues p.dst n = false → inZ p.dst n = false →
      ∃ u, exec (.pktAtmrAnswer rid) s = .next u ∧ u.mem.getN (tileBase g + p.dst) n = p.data ∧
        (∀ k, k < tileBase g + p.dst ∨ tileBase g + p.dst + n ≤ k → u.mem.get k = s.mem.get k)))

/-- A begun row copy whose rows are all made (CPF at once) completes when its push-after FIFOs have room: its tag's count falls by one and its ready bit is set at zero; without room it stays. A beat that meets a fault of disposition F freezes the tile: FRZ, the three queues stopped, the fault pending. A pending engine fault is taken by the tile's core outside a handler and an update: EPC, ECAUSE, EINFO and EWORD, M and INTRAP, the pc at EBASE; in a handler it waits; one of a freeze that belongs to the host is posted to it once. Three heads that wait on tokens only give XQ the token-deadlock fault. A tile stalled 64 cycles takes a free segment for its smallest full queue, its region charged 16 KiB; none free, or over GROWKB, ends the domain. A BUSY ticket becomes DONE. A CRED (ET 2) that waits finds its partner's header and sums the level, clearing the header; without one nothing changes. -/
def Obligations.TileEvents : Prop :=
  (∀ (s : State) (g : Nat) (q : Q) (en : QEntry) (rest : List QEntry) (e : Eng),
    let t := s.tile g
    let x := t.queue q
    x.ents = en :: rest → en.st = .begun → en.sub = 0 → t.qRuns q = true → x.segs = [] → (rest = [] → x.isn = en.isn) →
    (∀ r ∈ rest, r.st ≠ .done ∧ r.isn ≠ en.isn) → (∀ r, rest.head? = some r → r.isn = en.isn + 1) →
    let pal := en.cmd.getLsbD 34
    let par := en.cmd.getLsbD 35
    let room := (q = .l → par = true → t.lx < 16) ∧ (q = .x → pal = true → t.xl < 16) ∧ (q = .x → par = true → t.xs < 16) ∧
      (q = .s → pal = true → t.sx < 16)
    let tag := en.cmd.toNat / 2 ^ 36 % 64
    let count := fun (u : Tile) => u.tagn.toNat / 2 ^ (8 * tag) % 256
    (en.cmd.toNat / 2 ^ 26 % 64 = 0x31 ∨ en.cmd.toNat / 2 ^ 26 % 64 = 0x32) → 0 < count t →
    (∀ i, en.instr = some i → i = .cpf e ∨ (i ∈ ([.cld e, .cgat e, .fget e, .fput e, .cst e, .csct e, .cfill e] : List Instr) ∧
        (en.r2.toNat % 2 ^ 24 = 0 ∨ en.r2.toNat / 2 ^ 24 % 2 ^ 16 ≤ en.row)) →
      (room → ∃ v : State, exec (.copyCompletion g q en.isn) s = .next v ∧
        let u := v.tile g
        (u.queue q).ents = rest ∧ (u.queue q).seq = en.isn ∧ count u = count t - 1 ∧ (u.tcc.regs = t.tcc.regs) ∧
        (∀ j : Nat, u.tags.getLsbD j = (t.tags.getLsbD j || (decide (j = tag) && decide (count t = 1)))) ∧
        u.lx = t.lx + (if q = .l ∧ par = true then 1 else 0) ∧ u.xl = t.xl + (if q = .x ∧ pal = true then 1 else 0) ∧
        u.xs = t.xs + (if q = .x ∧ par = true then 1 else 0) ∧ u.sx = t.sx + (if q = .s ∧ pal = true then 1 else 0)) ∧
      (¬ room → ∃ v : State, exec (.copyCompletion g q en.isn) s = .next v ∧ ((v.tile g).queue q).seq = x.seq ∧
        (v.tile g).tagn = t.tagn ∧ (v.tile g).tags = t.tags)) ∧
    (∀ i f s', en.instr = some i → i.isCopy = true → copyBeat s g q en i = .freeze f s' → causeEnds f.cause = false →
      ∃ v : State, exec (.copyFreeze g q en.isn) s = .next v ∧ (v.tile g).frz = true ∧ (v.tile g).lq.stopped = true ∧
        (v.tile g).xq.stopped = true ∧ (v.tile g).sq.stopped = true ∧
        ({ q := q, cause := f.cause, sub := f.sub, info := f.info, word := en.cmd, isn := en.isn, frz := true, region := en.region,
           host := v.mbox.duty.getLsbD 1 && (decide (f.cause = 7) || decide (f.cause = 8)) } : EngFault) ∈ (v.tile g).faults)) ∧
  (∀ (s : State) (g : Nat) (f : EngFault),
    let t := s.tile g
    let c := t.tcc
    t.firstFault = some f → t.bound.isSome = true → t.dbg.stopped = false → s.fw.st = 0 →
    (c.intrap = true → exec (.engineFaultTrap g) s = .next s) ∧
    (c.intrap = false → f.host = true → (∀ r ∈ s.mbox.reqs, ¬ (r.fn = 2 ∧ r.about = g)) → ∃ (v : State) (rq : HostReq),
      exec (.engineFaultTrap g) s = .next v ∧ v.tiles = s.tiles ∧ v.mbox.reqs = s.mbox.reqs ++ [rq] ∧ rq.fn = 2 ∧ rq.about = g ∧
      rq.data = leBytes 8 (f.isn.toNat % 2 ^ 32 + f.q.code * 2 ^ 32 + g % 16 * 2 ^ 36 + (g / 16 + 1) * 2 ^ 40) ++ leBytes 8 f.info.toNat ++
        leBytes 1 f.cause ++ leBytes 1 f.sub) ∧
    (c.intrap = false → f.host = true → (∃ r ∈ s.mbox.reqs, r.fn = 2 ∧ r.about = g) → exec (.engineFaultTrap g) s = .next s) ∧
    (c.intrap = false → f.host = false → ∃ v : State, exec (.engineFaultTrap g) s = .next v ∧
      let d := (v.tile g).tcc
      let pc := match c.pfx with
        | some p => p.start
        | none => c.pc
      d.trap.epc = (if t.cont.isNone then 0 else pc.zeroExtend 64) ∧ d.trap.einfo = f.info ∧ d.trap.eword = f.word ∧
      d.trap.ecause = BitVec.ofNat 64 (f.cause + f.sub * 256 + (f.q.code + 1) * 2 ^ 16 + b2n f.frz * 2 ^ 18) ∧
      d.trap.ebase = c.trap.ebase ∧ d.atM = true ∧ d.intrap = true ∧ d.pc = c.trap.ebase.truncate 28 ∧ d.regs = c.regs ∧
      d.preds = c.preds ∧ (v.tile g).faults = t.faults.erase f ∧ (∀ q, (v.tile g).queue q = t.queue q))) ∧
  (∀ (s : State) (g : Nat) (el ex es : QEntry),
    let t := s.tile g
    let heads := fun (q : Q) (en : QEntry) => (t.queue q).ents.find? (fun n => decide (n.st ≠ .done)) = some en ∧ en.st = .waiting ∧
      en.popped = false ∧ en.fol = none ∧ t.qRuns q = true
    heads .l el → heads .x ex → heads .s es → el.cmd.getLsbD 33 = true → t.xl = 0 → es.cmd.getLsbD 32 = true → t.xs = 0 →
    (ex.cmd.getLsbD 32 = true ∧ t.lx = 0 ∨ ex.cmd.getLsbD 33 = true ∧ t.sx = 0) →
    ∃ v : State, exec (.tokenDeadlock g) s = .next v ∧ (v.tile g).xq.stopped = true ∧ v.mem = s.mem ∧ (v.tile g).tcc = t.tcc ∧
      (v.tile g).faults = t.faults ++ [{ q := .x, cause := 13, sub := 0, info := 0, word := ex.cmd, isn := ex.isn, frz := false, region := ex.region, host := false }]) ∧
  (∀ (s : State) (g k region : Nat) (q : Q) (l : Launch) (r : Region) (en : QEntry),
    let t := s.tile g
    64 ≤ t.stall → t.dbg.stopped = false → t.growQueue = some q → t.bound = some k → AMap.find? s.launches k = some l →
    t.chargeRegion = region → l.regions[region]? = some r → (t.queue q).ents.getLast? = some en →
    (s.freeSegs (g / 16) ≠ [] → (s.freeSegs (g / 16)).Nodup → r.grown + 16 ≤ r.growkb → ∃ (v : State) (seg : Nat), exec (.queueGrowth g) s = .next v ∧
      seg ∈ s.freeSegs (g / 16) ∧ v.freeSegs (g / 16) = (s.freeSegs (g / 16)).erase seg ∧
      ((v.tile g).queue q).segs = (t.queue q).segs ++ [(seg, en.at_, (t.queue q).tail, region)] ∧
      ((v.tile g).queue q).tail = BitVec.ofNat 32 (seg + 2 ^ 31) ∧ ((v.tile g).queue q).ents = (t.queue q).ents ∧ (v.tile g).stall = 0 ∧
      (∃ l' r', AMap.find? v.launches k = some l' ∧ l'.regions[region]? = some r' ∧ r'.grown = r.grown + 16)) ∧
    (s.freeSegs (g / 16) = [] ∨ r.growkb < r.grown + 16 → ∃ (v : State) (l' : Launch), exec (.queueGrowth g) s = .next v ∧
      AMap.find? v.launches k = some l' ∧ ∀ x ∈ l'.regions, x.dom = r.dom → x.ended = true)) ∧
  (∀ (s : State) (g : Nat) (k : BitVec 2), let tk := fun (u : State) (j : BitVec 2) => (u.tile g).mxe.tk j
    ((tk s k).st = 1 → ∃ v : State, exec (.smvUnitDone g k) s = .next v ∧ (tk v k).st = 2 ∧ ∀ j, j ≠ k → tk v j = tk s j) ∧
    ((tk s k).st ≠ 1 → exec (.smvUnitDone g k) s = .next s)) ∧
  (∀ (s : State) (g n i c : Nat) (en : QEntry) (e : Eng) (rest : List QEntry),
    let t := s.tile g
    t.sq.ents = en :: rest → en.st = .begun → en.sub = 0 → t.qRuns .s = true → en.instr = some (.cred e) → en.cap = [BitVec.ofNat 64 n, BitVec.ofNat 64 i] →
    en.r2 = BitVec.ofNat 64 c → 0 < c → c ≤ 2 ^ 24 → e.f7.toNat % 8 = 2 → n < 65536 → i < n → i % 2 ^ (en.row + 1) ≠ 2 ^ en.row → i + 2 ^ en.row < n →
    s.clean → s.mem.wf = true → t.spBytes ≤ 0x600000 →
    let d := (4 * c + 63) / 64 * 64
    let x := tileBase g + en.r0.toNat
    let area := x + (en.row + 1) * (d + 64)
    let read := fun (m : Memory) (a k : Nat) => ofBytes (m.getN a k)
    area + d + 64 ≤ tileBase g + t.spBytes - (if t.dqon then 304 * 1024 else 48 * 1024) →
    (s.mem.get (area + d + 15) ≠ 1 → exec (.credPartnerArrival g) s = .next s) ∧
    (s.mem.get (area + d + 15) = 1 → read s.mem (area + d) 4 = c → read s.mem (area + d + 4) 4 = i + 2 ^ en.row → read s.mem (area + d + 8) 4 = n →
      read s.mem (area + d + 12) 1 = en.row → read s.mem (area + d + 13) 1 = 2 →
      ∃ v : State, exec (.credPartnerArrival g) s = .next v ∧
        (∀ k, k < c → read v.mem (x + 4 * k) 4 = (read s.mem (x + 4 * k) 4 + read s.mem (area + 4 * k) 4) % 2 ^ 32) ∧
        (∀ k, k < 16 → v.mem.get (area + d + k) = 0) ∧
        (∀ k, (k < x ∨ x + 4 * c ≤ k) → (k < area + d ∨ area + d + 16 ≤ k) → v.mem.get k = s.mem.get k) ∧
        (v.tile g).sq.ents.head?.map (fun n => n.row) = some (en.row + 1) ∧ (v.tile g).sq.seq = t.sq.seq))
end

