-- ==== Sys2Proof/Laws/Exec.lean ====
section
/-! SUPPORT. Which meaning each instruction has: one equation per arm of `exec`, so that no proof unfolds the dispatch. -/

namespace Sys2Proof.Machine

@[simp] theorem exec_add : ∀ d a b s, exec (.add d a b) s = execAdd d a b s := fun _ _ _ _ => rfl

@[simp] theorem exec_sub : ∀ d a b s, exec (.sub d a b) s = execSub d a b s := fun _ _ _ _ => rfl

@[simp] theorem exec_mul : ∀ d a b s, exec (.mul d a b) s = execMul d a b s := fun _ _ _ _ => rfl

@[simp] theorem exec_mulh : ∀ d a b s, exec (.mulh d a b) s = execMulh d a b s := fun _ _ _ _ => rfl

@[simp] theorem exec_mulhu : ∀ d a b s, exec (.mulhu d a b) s = execMulhu d a b s := fun _ _ _ _ => rfl

@[simp] theorem exec_div : ∀ d a b s, exec (.div d a b) s = execDiv d a b s := fun _ _ _ _ => rfl

@[simp] theorem exec_divu : ∀ d a b s, exec (.divu d a b) s = execDivu d a b s := fun _ _ _ _ => rfl

@[simp] theorem exec_rem : ∀ d a b s, exec (.rem d a b) s = execRem d a b s := fun _ _ _ _ => rfl

@[simp] theorem exec_remu : ∀ d a b s, exec (.remu d a b) s = execRemu d a b s := fun _ _ _ _ => rfl

@[simp] theorem exec_and : ∀ d a b s, exec (.and d a b) s = execAnd d a b s := fun _ _ _ _ => rfl

@[simp] theorem exec_or : ∀ d a b s, exec (.or d a b) s = execOr d a b s := fun _ _ _ _ => rfl

@[simp] theorem exec_xor : ∀ d a b s, exec (.xor d a b) s = execXor d a b s := fun _ _ _ _ => rfl

@[simp] theorem exec_shl : ∀ d a b s, exec (.shl d a b) s = execShl d a b s := fun _ _ _ _ => rfl

@[simp] theorem exec_shr : ∀ d a b s, exec (.shr d a b) s = execShr d a b s := fun _ _ _ _ => rfl

@[simp] theorem exec_sar : ∀ d a b s, exec (.sar d a b) s = execSar d a b s := fun _ _ _ _ => rfl

@[simp] theorem exec_min : ∀ d a b s, exec (.min d a b) s = execMin d a b s := fun _ _ _ _ => rfl

@[simp] theorem exec_max : ∀ d a b s, exec (.max d a b) s = execMax d a b s := fun _ _ _ _ => rfl

@[simp] theorem exec_minu : ∀ d a b s, exec (.minu d a b) s = execMinu d a b s := fun _ _ _ _ => rfl

@[simp] theorem exec_maxu : ∀ d a b s, exec (.maxu d a b) s = execMaxu d a b s := fun _ _ _ _ => rfl

@[simp] theorem exec_lea : ∀ d a b sh s, exec (.lea d a b sh) s = execLea d a b sh s := fun _ _ _ _ _ => rfl

@[simp] theorem exec_clz : ∀ d a s, exec (.clz d a) s = execClz d a s := fun _ _ _ => rfl

@[simp] theorem exec_ctz : ∀ d a s, exec (.ctz d a) s = execCtz d a s := fun _ _ _ => rfl

@[simp] theorem exec_popc : ∀ d a s, exec (.popc d a) s = execPopc d a s := fun _ _ _ => rfl

@[simp] theorem exec_bswap : ∀ d a s, exec (.bswap d a) s = execBswap d a s := fun _ _ _ => rfl

@[simp] theorem exec_sextB : ∀ d a s, exec (.sextB d a) s = execSextB d a s := fun _ _ _ => rfl

@[simp] theorem exec_sextH : ∀ d a s, exec (.sextH d a) s = execSextH d a s := fun _ _ _ => rfl

@[simp] theorem exec_sextW : ∀ d a s, exec (.sextW d a) s = execSextW d a s := fun _ _ _ => rfl

@[simp] theorem exec_zextB : ∀ d a s, exec (.zextB d a) s = execZextB d a s := fun _ _ _ => rfl

@[simp] theorem exec_zextH : ∀ d a s, exec (.zextH d a) s = execZextH d a s := fun _ _ _ => rfl

@[simp] theorem exec_zextW : ∀ d a s, exec (.zextW d a) s = execZextW d a s := fun _ _ _ => rfl

@[simp] theorem exec_addi : ∀ d a imm s, exec (.addi d a imm) s = execAddi d a imm s := fun _ _ _ _ => rfl

@[simp] theorem exec_andi : ∀ d a imm s, exec (.andi d a imm) s = execAndi d a imm s := fun _ _ _ _ => rfl

@[simp] theorem exec_ori : ∀ d a imm s, exec (.ori d a imm) s = execOri d a imm s := fun _ _ _ _ => rfl

@[simp] theorem exec_xori : ∀ d a imm s, exec (.xori d a imm) s = execXori d a imm s := fun _ _ _ _ => rfl

@[simp] theorem exec_shli : ∀ d a sh s, exec (.shli d a sh) s = execShli d a sh s := fun _ _ _ _ => rfl

@[simp] theorem exec_shri : ∀ d a sh s, exec (.shri d a sh) s = execShri d a sh s := fun _ _ _ _ => rfl

@[simp] theorem exec_sari : ∀ d a sh s, exec (.sari d a sh) s = execSari d a sh s := fun _ _ _ _ => rfl

@[simp] theorem exec_movi : ∀ d imm s, exec (.movi d imm) s = execMovi d imm s := fun _ _ _ => rfl

@[simp] theorem exec_movw : ∀ d hi imm s, exec (.movw d hi imm) s = execMovw d hi imm s := fun _ _ _ _ => rfl

@[simp] theorem exec_cmpeq : ∀ pd a b s, exec (.cmpeq pd a b) s = execCmpeq pd a b s := fun _ _ _ _ => rfl

@[simp] theorem exec_cmpne : ∀ pd a b s, exec (.cmpne pd a b) s = execCmpne pd a b s := fun _ _ _ _ => rfl

@[simp] theorem exec_cmplt : ∀ pd a b s, exec (.cmplt pd a b) s = execCmplt pd a b s := fun _ _ _ _ => rfl

@[simp] theorem exec_cmpltu : ∀ pd a b s, exec (.cmpltu pd a b) s = execCmpltu pd a b s := fun _ _ _ _ => rfl

@[simp] theorem exec_cmpge : ∀ pd a b s, exec (.cmpge pd a b) s = execCmpge pd a b s := fun _ _ _ _ => rfl

@[simp] theorem exec_cmpgeu : ∀ pd a b s, exec (.cmpgeu pd a b) s = execCmpgeu pd a b s := fun _ _ _ _ => rfl

@[simp] theorem exec_cmpeqi : ∀ pd a imm s, exec (.cmpeqi pd a imm) s = execCmpeqi pd a imm s := fun _ _ _ _ => rfl

@[simp] theorem exec_cmpnei : ∀ pd a imm s, exec (.cmpnei pd a imm) s = execCmpnei pd a imm s := fun _ _ _ _ => rfl

@[simp] theorem exec_cmplti : ∀ pd a imm s, exec (.cmplti pd a imm) s = execCmplti pd a imm s := fun _ _ _ _ => rfl

@[simp] theorem exec_cmpltui : ∀ pd a imm s, exec (.cmpltui pd a imm) s = execCmpltui pd a imm s := fun _ _ _ _ => rfl

@[simp] theorem exec_cmpgei : ∀ pd a imm s, exec (.cmpgei pd a imm) s = execCmpgei pd a imm s := fun _ _ _ _ => rfl

@[simp] theorem exec_cmpgeui : ∀ pd a imm s, exec (.cmpgeui pd a imm) s = execCmpgeui pd a imm s := fun _ _ _ _ => rfl

@[simp] theorem exec_pand : ∀ pd pa pb s, exec (.pand pd pa pb) s = execPand pd pa pb s := fun _ _ _ _ => rfl

@[simp] theorem exec_por : ∀ pd pa pb s, exec (.por pd pa pb) s = execPor pd pa pb s := fun _ _ _ _ => rfl

@[simp] theorem exec_pxor : ∀ pd pa pb s, exec (.pxor pd pa pb) s = execPxor pd pa pb s := fun _ _ _ _ => rfl

@[simp] theorem exec_pnot : ∀ pd pa s, exec (.pnot pd pa) s = execPnot pd pa s := fun _ _ _ => rfl

@[simp] theorem exec_sel : ∀ d a b ps s, exec (.sel d a b ps) s = execSel d a b ps s := fun _ _ _ _ _ => rfl

@[simp] theorem exec_bp : ∀ ps ld slot s, exec (.bp ps ld slot) s = execBp ps ld slot s := fun _ _ _ _ => rfl

@[simp] theorem exec_br : ∀ ld slot s, exec (.br ld slot) s = execBr ld slot s := fun _ _ _ => rfl

@[simp] theorem exec_bnp : ∀ ps ld slot s, exec (.bnp ps ld slot) s = execBnp ps ld slot s := fun _ _ _ _ => rfl

@[simp] theorem exec_call : ∀ ld slot s, exec (.call ld slot) s = execCall ld slot s := fun _ _ _ => rfl

@[simp] theorem exec_ji : ∀ a s, exec (.ji a) s = execJi a s := fun _ _ => rfl

@[simp] theorem exec_calli : ∀ a s, exec (.calli a) s = execCalli a s := fun _ _ => rfl

@[simp] theorem exec_ret : ∀ s, exec .ret s = execRet s := fun _ => rfl

@[simp] theorem exec_loop : ∀ set a le s, exec (.loop set a le) s = execLoop set a le s := fun _ _ _ _ => rfl

@[simp] theorem exec_loopi : ∀ set cnt le s, exec (.loopi set cnt le) s = execLoopi set cnt le s := fun _ _ _ _ => rfl

@[simp] theorem exec_mfs : ∀ g srn s, exec (.mfs g srn) s = execMfs g srn s := fun _ _ _ => rfl

@[simp] theorem exec_mts : ∀ g srn s, exec (.mts g srn) s = execMts g srn s := fun _ _ _ => rfl

@[simp] theorem exec_mtsTcfg : ∀ g s, exec (.mtsTcfg g) s = execMtsTcfg g s := fun _ _ => rfl

@[simp] theorem exec_mtsQueueNumber : ∀ g comp q s, exec (.mtsQueueNumber g comp q) s = execMtsQueueNumber g comp q s := fun _ _ _ _ => rfl

@[simp] theorem exec_mtsQueueLink : ∀ g tail q s, exec (.mtsQueueLink g tail q) s = execMtsQueueLink g tail q s := fun _ _ _ _ => rfl

@[simp] theorem exec_mtsTokc : ∀ g s, exec (.mtsTokc g) s = execMtsTokc g s := fun _ _ => rfl

@[simp] theorem exec_mtsZwm : ∀ g z s, exec (.mtsZwm g z) s = execMtsZwm g z s := fun _ _ _ => rfl

@[simp] theorem exec_mtsDqn : ∀ g s, exec (.mtsDqn g) s = execMtsDqn g s := fun _ _ => rfl

@[simp] theorem exec_mtsSeqw : ∀ g s, exec (.mtsSeqw g) s = execMtsSeqw g s := fun _ _ => rfl

@[simp] theorem exec_mtsSeed : ∀ g s, exec (.mtsSeed g) s = execMtsSeed g s := fun _ _ => rfl

@[simp] theorem exec_mtsLoopRegister : ∀ g set which s, exec (.mtsLoopRegister g set which) s = execMtsLoopRegister g set which s := fun _ _ _ _ => rfl

@[simp] theorem exec_mtsEbase : ∀ g s, exec (.mtsEbase g) s = execMtsEbase g s := fun _ _ => rfl

@[simp] theorem exec_injArm : ∀ g s, exec (.injArm g) s = execInjArm g s := fun _ _ => rfl

@[simp] theorem exec_ld : ∀ d a sz off s, exec (.ld d a sz off) s = execLd d a sz off s := fun _ _ _ _ _ => rfl

@[simp] theorem exec_lds : ∀ d a sz off s, exec (.lds d a sz off) s = execLds d a sz off s := fun _ _ _ _ _ => rfl

@[simp] theorem exec_st : ∀ d a sz off s, exec (.st d a sz off) s = execSt d a sz off s := fun _ _ _ _ _ => rfl

@[simp] theorem exec_lda : ∀ d a sz off s, exec (.lda d a sz off) s = execLda d a sz off s := fun _ _ _ _ _ => rfl

@[simp] theorem exec_stl : ∀ d a sz off s, exec (.stl d a sz off) s = execStl d a sz off s := fun _ _ _ _ _ => rfl

@[simp] theorem exec_pfl : ∀ a sz off s, exec (.pfl a sz off) s = execPfl a sz off s := fun _ _ _ _ => rfl

@[simp] theorem exec_aadd : ∀ d a b s, exec (.aadd d a b) s = execAadd d a b s := fun _ _ _ _ => rfl

@[simp] theorem exec_amin : ∀ d a b s, exec (.amin d a b) s = execAmin d a b s := fun _ _ _ _ => rfl

@[simp] theorem exec_amax : ∀ d a b s, exec (.amax d a b) s = execAmax d a b s := fun _ _ _ _ => rfl

@[simp] theorem exec_aminu : ∀ d a b s, exec (.aminu d a b) s = execAminu d a b s := fun _ _ _ _ => rfl

@[simp] theorem exec_amaxu : ∀ d a b s, exec (.amaxu d a b) s = execAmaxu d a b s := fun _ _ _ _ => rfl

@[simp] theorem exec_axchg : ∀ d a b s, exec (.axchg d a b) s = execAxchg d a b s := fun _ _ _ _ => rfl

@[simp] theorem exec_acas : ∀ d a b s, exec (.acas d a b) s = execAcas d a b s := fun _ _ _ _ => rfl

@[simp] theorem exec_aand : ∀ d a b s, exec (.aand d a b) s = execAand d a b s := fun _ _ _ _ => rfl

@[simp] theorem exec_aor : ∀ d a b s, exec (.aor d a b) s = execAor d a b s := fun _ _ _ _ => rfl

@[simp] theorem exec_axor : ∀ d a b s, exec (.axor d a b) s = execAxor d a b s := fun _ _ _ _ => rfl

@[simp] theorem exec_tokw : ∀ d n fifo pop s, exec (.tokw d n fifo pop) s = execTokw d n fifo pop s := fun _ _ _ _ _ => rfl

@[simp] theorem exec_tagwa : ∀ d a s, exec (.tagwa d a) s = execTagwa d a s := fun _ _ _ => rfl

@[simp] theorem exec_tagwl : ∀ d a s, exec (.tagwl d a) s = execTagwl d a s := fun _ _ _ => rfl

@[simp] theorem exec_tagff : ∀ d a clr s, exec (.tagff d a clr) s = execTagff d a clr s := fun _ _ _ _ => rfl

@[simp] theorem exec_tagclr : ∀ a s, exec (.tagclr a) s = execTagclr a s := fun _ _ => rfl

@[simp] theorem exec_bara : ∀ n scope s, exec (.bara n scope) s = execBara n scope s := fun _ _ _ => rfl

@[simp] theorem exec_barw : ∀ d n s, exec (.barw d n) s = execBarw d n s := fun _ _ _ => rfl

@[simp] theorem exec_baraw : ∀ d n scope s, exec (.baraw d n scope) s = execBaraw d n scope s := fun _ _ _ _ => rfl

@[simp] theorem exec_barset : ∀ a n s, exec (.barset a n) s = execBarset a n s := fun _ _ _ => rfl

@[simp] theorem exec_fence : ∀ s, exec .fence s = execFence s := fun _ => rfl

@[simp] theorem exec_bclose : ∀ s, exec .bclose s = execBclose s := fun _ => rfl

@[simp] theorem exec_waitb : ∀ d n s, exec (.waitb d n) s = execWaitb d n s := fun _ _ _ => rfl

@[simp] theorem exec_qdrain : ∀ mask s, exec (.qdrain mask) s = execQdrain mask s := fun _ _ => rfl

@[simp] theorem exec_qseq : ∀ d a q s, exec (.qseq d a q) s = execQseq d a q s := fun _ _ _ _ => rfl

@[simp] theorem exec_xretw : ∀ d s, exec (.xretw d) s = execXretw d s := fun _ _ => rfl

@[simp] theorem exec_fencep : ∀ frm tom scope s, exec (.fencep frm tom scope) s = execFencep frm tom scope s := fun _ _ _ _ => rfl

@[simp] theorem exec_spawn : ∀ a b s, exec (.spawn a b) s = execSpawn a b s := fun _ _ _ => rfl

@[simp] theorem exec_spawnj : ∀ d a b s, exec (.spawnj d a b) s = execSpawnj d a b s := fun _ _ _ _ => rfl

@[simp] theorem exec_join : ∀ d a s, exec (.join d a) s = execJoin d a s := fun _ _ _ => rfl

@[simp] theorem exec_halt : ∀ s, exec .halt s = execHalt s := fun _ => rfl

@[simp] theorem exec_yield : ∀ s, exec .yield s = execYield s := fun _ => rfl

@[simp] theorem exec_launch : ∀ d a b s, exec (.launch d a b) s = execLaunch d a b s := fun _ _ _ _ => rfl

@[simp] theorem exec_qpush : ∀ a b s, exec (.qpush a b) s = execQpush a b s := fun _ _ _ => rfl

@[simp] theorem exec_qpop : ∀ d pd a s, exec (.qpop d pd a) s = execQpop d pd a s := fun _ _ _ _ => rfl

@[simp] theorem exec_trap : ∀ code s, exec (.trap code) s = execTrap code s := fun _ _ => rfl

@[simp] theorem exec_eret : ∀ s, exec .eret s = execEret s := fun _ => rfl

@[simp] theorem exec_bkpt : ∀ code s, exec (.bkpt code) s = execBkpt code s := fun _ _ => rfl

@[simp] theorem exec_synci : ∀ s, exec .synci s = execSynci s := fun _ => rfl

@[simp] theorem exec_tlbinv : ∀ a kind scope s, exec (.tlbinv a kind scope) s = execTlbinv a kind scope s := fun _ _ _ _ => rfl

@[simp] theorem exec_l1wb : ∀ s, exec .l1wb s = execL1wb s := fun _ => rfl

@[simp] theorem exec_l1inv : ∀ a all s, exec (.l1inv a all) s = execL1inv a all s := fun _ _ _ => rfl

@[simp] theorem exec_pmark : ∀ code s, exec (.pmark code) s = execPmark code s := fun _ _ => rfl

@[simp] theorem exec_srd : ∀ d a s, exec (.srd d a) s = execSrd d a s := fun _ _ _ => rfl

@[simp] theorem exec_swr : ∀ d a s, exec (.swr d a) s = execSwr d a s := fun _ _ _ => rfl

@[simp] theorem exec_wfe : ∀ d mask s, exec (.wfe d mask) s = execWfe d mask s := fun _ _ _ => rfl

@[simp] theorem exec_nop : ∀ s, exec .nop s = execNop s := fun _ => rfl

@[simp] theorem exec_scp : ∀ scope s, exec (.scp scope) s = execScp scope s := fun _ _ => rfl

@[simp] theorem exec_imx : ∀ x s, exec (.imx x) s = execImx x s := fun _ _ => rfl

@[simp] theorem exec_tokp : ∀ e s, exec (.tokp e) s = execTokp e s := fun _ _ => rfl

@[simp] theorem exec_xcall : ∀ e s, exec (.xcall e) s = execXcall e s := fun _ _ => rfl

@[simp] theorem exec_mshape : ∀ e s, exec (.mshape e) s = execMshape e s := fun _ _ => rfl

@[simp] theorem exec_manch : ∀ e s, exec (.manch e) s = execManch e s := fun _ _ => rfl

@[simp] theorem exec_mzp : ∀ e s, exec (.mzp e) s = execMzp e s := fun _ _ => rfl

@[simp] theorem exec_mpriv : ∀ e s, exec (.mpriv e) s = execMpriv e s := fun _ _ => rfl

@[simp] theorem exec_mcode : ∀ e s, exec (.mcode e) s = execMcode e s := fun _ _ => rfl

@[simp] theorem exec_mcsum : ∀ e s, exec (.mcsum e) s = execMcsum e s := fun _ _ => rfl

@[simp] theorem exec_mlda : ∀ e s, exec (.mlda e) s = execMlda e s := fun _ _ => rfl

@[simp] theorem exec_mldb : ∀ e s, exec (.mldb e) s = execMldb e s := fun _ _ => rfl

@[simp] theorem exec_mma : ∀ e s, exec (.mma e) s = execMma e s := fun _ _ => rfl

@[simp] theorem exec_mmas : ∀ e s, exec (.mmas e) s = execMmas e s := fun _ _ => rfl

@[simp] theorem exec_mmaq : ∀ e s, exec (.mmaq e) s = execMmaq e s := fun _ _ => rfl

@[simp] theorem exec_mmap : ∀ e s, exec (.mmap e) s = execMmap e s := fun _ _ => rfl

@[simp] theorem exec_mchk : ∀ e s, exec (.mchk e) s = execMchk e s := fun _ _ => rfl

@[simp] theorem exec_mdrain : ∀ e s, exec (.mdrain e) s = execMdrain e s := fun _ _ => rfl

@[simp] theorem exec_mdrainx : ∀ e s, exec (.mdrainx e) s = execMdrainx e s := fun _ _ => rfl

@[simp] theorem exec_mzero : ∀ e s, exec (.mzero e) s = execMzero e s := fun _ _ => rfl

@[simp] theorem exec_mwm : ∀ e s, exec (.mwm e) s = execMwm e s := fun _ _ => rfl

@[simp] theorem exec_mcap : ∀ e s, exec (.mcap e) s = execMcap e s := fun _ _ => rfl

@[simp] theorem exec_mstat : ∀ e s, exec (.mstat e) s = execMstat e s := fun _ _ => rfl

@[simp] theorem exec_smv : ∀ e s, exec (.smv e) s = execSmv e s := fun _ _ => rfl

@[simp] theorem exec_smvUnitDone : ∀ tile ticket s, exec (.smvUnitDone tile ticket) s = execSmvUnitDone tile ticket s := fun _ _ _ => rfl

@[simp] theorem exec_smvw : ∀ e s, exec (.smvw e) s = execSmvw e s := fun _ _ => rfl

@[simp] theorem exec_vadd : ∀ e s, exec (.vadd e) s = execVadd e s := fun _ _ => rfl

@[simp] theorem exec_vsub : ∀ e s, exec (.vsub e) s = execVsub e s := fun _ _ => rfl

@[simp] theorem exec_vmul : ∀ e s, exec (.vmul e) s = execVmul e s := fun _ _ => rfl

@[simp] theorem exec_vmulh : ∀ e s, exec (.vmulh e) s = execVmulh e s := fun _ _ => rfl

@[simp] theorem exec_vmulhu : ∀ e s, exec (.vmulhu e) s = execVmulhu e s := fun _ _ => rfl

@[simp] theorem exec_vmin : ∀ e s, exec (.vmin e) s = execVmin e s := fun _ _ => rfl

@[simp] theorem exec_vmax : ∀ e s, exec (.vmax e) s = execVmax e s := fun _ _ => rfl

@[simp] theorem exec_vminu : ∀ e s, exec (.vminu e) s = execVminu e s := fun _ _ => rfl

@[simp] theorem exec_vmaxu : ∀ e s, exec (.vmaxu e) s = execVmaxu e s := fun _ _ => rfl

@[simp] theorem exec_vabs : ∀ e s, exec (.vabs e) s = execVabs e s := fun _ _ => rfl

@[simp] theorem exec_vneg : ∀ e s, exec (.vneg e) s = execVneg e s := fun _ _ => rfl

@[simp] theorem exec_vsadd : ∀ e s, exec (.vsadd e) s = execVsadd e s := fun _ _ => rfl

@[simp] theorem exec_vssub : ∀ e s, exec (.vssub e) s = execVssub e s := fun _ _ => rfl

@[simp] theorem exec_vand : ∀ e s, exec (.vand e) s = execVand e s := fun _ _ => rfl

@[simp] theorem exec_vor : ∀ e s, exec (.vor e) s = execVor e s := fun _ _ => rfl

@[simp] theorem exec_vxor : ∀ e s, exec (.vxor e) s = execVxor e s := fun _ _ => rfl

@[simp] theorem exec_vnot : ∀ e s, exec (.vnot e) s = execVnot e s := fun _ _ => rfl

@[simp] theorem exec_vshl : ∀ e s, exec (.vshl e) s = execVshl e s := fun _ _ => rfl

@[simp] theorem exec_vshr : ∀ e s, exec (.vshr e) s = execVshr e s := fun _ _ => rfl

@[simp] theorem exec_vsar : ∀ e s, exec (.vsar e) s = execVsar e s := fun _ _ => rfl

@[simp] theorem exec_vpopc : ∀ e s, exec (.vpopc e) s = execVpopc e s := fun _ _ => rfl

@[simp] theorem exec_vclz : ∀ e s, exec (.vclz e) s = execVclz e s := fun _ _ => rfl

@[simp] theorem exec_vbrev : ∀ e s, exec (.vbrev e) s = execVbrev e s := fun _ _ => rfl

@[simp] theorem exec_vclmull : ∀ e s, exec (.vclmull e) s = execVclmull e s := fun _ _ => rfl

@[simp] theorem exec_vclmulh : ∀ e s, exec (.vclmulh e) s = execVclmulh e s := fun _ _ => rfl

@[simp] theorem exec_vbcast : ∀ e s, exec (.vbcast e) s = execVbcast e s := fun _ _ => rfl

@[simp] theorem exec_vret : ∀ e s, exec (.vret e) s = execVret e s := fun _ _ => rfl

@[simp] theorem exec_vfadd : ∀ e s, exec (.vfadd e) s = execVfadd e s := fun _ _ => rfl

@[simp] theorem exec_vfsub : ∀ e s, exec (.vfsub e) s = execVfsub e s := fun _ _ => rfl

@[simp] theorem exec_vfmul : ∀ e s, exec (.vfmul e) s = execVfmul e s := fun _ _ => rfl

@[simp] theorem exec_vfma : ∀ e s, exec (.vfma e) s = execVfma e s := fun _ _ => rfl

@[simp] theorem exec_vfdiv : ∀ e s, exec (.vfdiv e) s = execVfdiv e s := fun _ _ => rfl

@[simp] theorem exec_vfsqrt : ∀ e s, exec (.vfsqrt e) s = execVfsqrt e s := fun _ _ => rfl

@[simp] theorem exec_vfmin : ∀ e s, exec (.vfmin e) s = execVfmin e s := fun _ _ => rfl

@[simp] theorem exec_vfmax : ∀ e s, exec (.vfmax e) s = execVfmax e s := fun _ _ => rfl

@[simp] theorem exec_vfabs : ∀ e s, exec (.vfabs e) s = execVfabs e s := fun _ _ => rfl

@[simp] theorem exec_vfneg : ∀ e s, exec (.vfneg e) s = execVfneg e s := fun _ _ => rfl

@[simp] theorem exec_vcmpeq : ∀ e s, exec (.vcmpeq e) s = execVcmpeq e s := fun _ _ => rfl

@[simp] theorem exec_vcmplt : ∀ e s, exec (.vcmplt e) s = execVcmplt e s := fun _ _ => rfl

@[simp] theorem exec_vcmpltu : ∀ e s, exec (.vcmpltu e) s = execVcmpltu e s := fun _ _ => rfl

@[simp] theorem exec_vfcmpeq : ∀ e s, exec (.vfcmpeq e) s = execVfcmpeq e s := fun _ _ => rfl

@[simp] theorem exec_vfcmplt : ∀ e s, exec (.vfcmplt e) s = execVfcmplt e s := fun _ _ => rfl

@[simp] theorem exec_vsel : ∀ e s, exec (.vsel e) s = execVsel e s := fun _ _ => rfl

@[simp] theorem exec_vmask : ∀ e s, exec (.vmask e) s = execVmask e s := fun _ _ => rfl

@[simp] theorem exec_vredadd : ∀ e s, exec (.vredadd e) s = execVredadd e s := fun _ _ => rfl

@[simp] theorem exec_vredmin : ∀ e s, exec (.vredmin e) s = execVredmin e s := fun _ _ => rfl

@[simp] theorem exec_vredmax : ∀ e s, exec (.vredmax e) s = execVredmax e s := fun _ _ => rfl

@[simp] theorem exec_vfredadd : ∀ e s, exec (.vfredadd e) s = execVfredadd e s := fun _ _ => rfl

@[simp] theorem exec_vperm : ∀ e s, exec (.vperm e) s = execVperm e s := fun _ _ => rfl

@[simp] theorem exec_vslide : ∀ e s, exec (.vslide e) s = execVslide e s := fun _ _ => rfl

@[simp] theorem exec_vld : ∀ e s, exec (.vld e) s = execVld e s := fun _ _ => rfl

@[simp] theorem exec_vst : ∀ e s, exec (.vst e) s = execVst e s := fun _ _ => rfl

@[simp] theorem exec_vgat : ∀ e s, exec (.vgat e) s = execVgat e s := fun _ _ => rfl

@[simp] theorem exec_vsct : ∀ e s, exec (.vsct e) s = execVsct e s := fun _ _ => rfl

@[simp] theorem exec_vqnt : ∀ e s, exec (.vqnt e) s = execVqnt e s := fun _ _ => rfl

@[simp] theorem exec_vdq : ∀ e s, exec (.vdq e) s = execVdq e s := fun _ _ => rfl

@[simp] theorem exec_vcvt : ∀ e s, exec (.vcvt e) s = execVcvt e s := fun _ _ => rfl

@[simp] theorem exec_vrange : ∀ e s, exec (.vrange e) s = execVrange e s := fun _ _ => rfl

@[simp] theorem exec_vmse : ∀ e s, exec (.vmse e) s = execVmse e s := fun _ _ => rfl

@[simp] theorem exec_vdefer : ∀ e s, exec (.vdefer e) s = execVdefer e s := fun _ _ => rfl

@[simp] theorem exec_vdrainq : ∀ e s, exec (.vdrainq e) s = execVdrainq e s := fun _ _ => rfl

@[simp] theorem exec_cld : ∀ e s, exec (.cld e) s = execCld e s := fun _ _ => rfl

@[simp] theorem exec_clde : ∀ e s, exec (.clde e) s = execClde e s := fun _ _ => rfl

@[simp] theorem exec_cgat : ∀ e s, exec (.cgat e) s = execCgat e s := fun _ _ => rfl

@[simp] theorem exec_cpf : ∀ e s, exec (.cpf e) s = execCpf e s := fun _ _ => rfl

@[simp] theorem exec_fget : ∀ e s, exec (.fget e) s = execFget e s := fun _ _ => rfl

@[simp] theorem exec_cst : ∀ e s, exec (.cst e) s = execCst e s := fun _ _ => rfl

@[simp] theorem exec_cstd : ∀ e s, exec (.cstd e) s = execCstd e s := fun _ _ => rfl

@[simp] theorem exec_csct : ∀ e s, exec (.csct e) s = execCsct e s := fun _ _ => rfl

@[simp] theorem exec_cfill : ∀ e s, exec (.cfill e) s = execCfill e s := fun _ _ => rfl

@[simp] theorem exec_fput : ∀ e s, exec (.fput e) s = execFput e s := fun _ _ => rfl

@[simp] theorem exec_fputOf : ∀ e s, exec (.fputOf e) s = execFputOf e s := fun _ _ => rfl

@[simp] theorem exec_cbat : ∀ e s, exec (.cbat e) s = execCbat e s := fun _ _ => rfl

@[simp] theorem exec_fackw : ∀ e s, exec (.fackw e) s = execFackw e s := fun _ _ => rfl

@[simp] theorem exec_cred : ∀ e s, exec (.cred e) s = execCred e s := fun _ _ => rfl

@[simp] theorem exec_credPartnerArrival : ∀ tile s, exec (.credPartnerArrival tile) s = execCredPartnerArrival tile s := fun _ _ => rfl

@[simp] theorem exec_copyCompletion : ∀ tile q isn s, exec (.copyCompletion tile q isn) s = execCopyCompletion tile q isn s := fun _ _ _ _ => rfl

@[simp] theorem exec_copyFreeze : ∀ tile q isn s, exec (.copyFreeze tile q isn) s = execCopyFreeze tile q isn s := fun _ _ _ _ => rfl

@[simp] theorem exec_engineFaultTrap : ∀ tile s, exec (.engineFaultTrap tile) s = execEngineFaultTrap tile s := fun _ _ => rfl

@[simp] theorem exec_tokenDeadlock : ∀ tile s, exec (.tokenDeadlock tile) s = execTokenDeadlock tile s := fun _ _ => rfl

@[simp] theorem exec_queueGrowth : ∀ tile s, exec (.queueGrowth tile) s = execQueueGrowth tile s := fun _ _ => rfl

@[simp] theorem exec_tick : ∀ s, exec .tick s = execTick s := fun _ => rfl

@[simp] theorem exec_tailWrite : ∀ host queue tail s, exec (.tailWrite host queue tail) s = execTailWrite host queue tail s := fun _ _ _ _ => rfl

@[simp] theorem exec_crheadWrite : ∀ queue head s, exec (.crheadWrite queue head) s = execCrheadWrite queue head s := fun _ _ _ => rfl

@[simp] theorem exec_lqcfgWrite : ∀ host queue v s, exec (.lqcfgWrite host queue v) s = execLqcfgWrite host queue v s := fun _ _ _ _ => rfl

@[simp] theorem exec_launchPacketRead : ∀ queue s, exec (.launchPacketRead queue) s = execLaunchPacketRead queue s := fun _ _ => rfl

@[simp] theorem exec_launchClaim : ∀ launch s, exec (.launchClaim launch) s = execLaunchClaim launch s := fun _ _ => rfl

@[simp] theorem exec_tileChooseRecord : ∀ tile s, exec (.tileChooseRecord tile) s = execTileChooseRecord tile s := fun _ _ => rfl

@[simp] theorem exec_poolAgeing : ∀ launch region pri s, exec (.poolAgeing launch region pri) s = execPoolAgeing launch region pri s := fun _ _ _ _ => rfl

@[simp] theorem exec_rtimeBudget : ∀ launch region s, exec (.rtimeBudget launch region) s = execRtimeBudget launch region s := fun _ _ _ => rfl

@[simp] theorem exec_haltTreeFire : ∀ launch s, exec (.haltTreeFire launch) s = execHaltTreeFire launch s := fun _ _ => rfl

@[simp] theorem exec_launchDrainDone : ∀ launch s, exec (.launchDrainDone launch) s = execLaunchDrainDone launch s := fun _ _ => rfl

@[simp] theorem exec_codedTaskArrival : ∀ opr task s, exec (.codedTaskArrival opr task) s = execCodedTaskArrival opr task s := fun _ _ _ => rfl

@[simp] theorem exec_codedTaskErasure : ∀ opr task s, exec (.codedTaskErasure opr task) s = execCodedTaskErasure opr task s := fun _ _ _ => rfl

@[simp] theorem exec_rampSlot : ∀ s, exec .rampSlot s = execRampSlot s := fun _ => rfl

@[simp] theorem exec_govcfgWrite : ∀ v s, exec (.govcfgWrite v) s = execGovcfgWrite v s := fun _ _ => rfl

@[simp] theorem exec_pktRd : ∀ rid s, exec (.pktRd rid) s = execPktRd rid s := fun _ _ => rfl

@[simp] theorem exec_pktWr : ∀ rid s, exec (.pktWr rid) s = execPktWr rid s := fun _ _ => rfl

@[simp] theorem exec_pktAddw : ∀ rid s, exec (.pktAddw rid) s = execPktAddw rid s := fun _ _ => rfl

@[simp] theorem exec_pktAtm : ∀ rid s, exec (.pktAtm rid) s = execPktAtm rid s := fun _ _ => rfl

@[simp] theorem exec_pktPut : ∀ rid s, exec (.pktPut rid) s = execPktPut rid s := fun _ _ => rfl

@[simp] theorem exec_pktFlag : ∀ rid s, exec (.pktFlag rid) s = execPktFlag rid s := fun _ _ => rfl

@[simp] theorem exec_pktQpushHome : ∀ rid s, exec (.pktQpushHome rid) s = execPktQpushHome rid s := fun _ _ => rfl

@[simp] theorem exec_pktQpopHome : ∀ rid s, exec (.pktQpopHome rid) s = execPktQpopHome rid s := fun _ _ => rfl

@[simp] theorem exec_pktCtrl : ∀ rid s, exec (.pktCtrl rid) s = execPktCtrl rid s := fun _ _ => rfl

@[simp] theorem exec_pktReservedType : ∀ rid s, exec (.pktReservedType rid) s = execPktReservedType rid s := fun _ _ => rfl

@[simp] theorem exec_routerPairing : ∀ router push pop s, exec (.routerPairing router push pop) s = execRouterPairing router push pop s := fun _ _ _ _ => rfl

@[simp] theorem exec_dwellExpire : ∀ rid s, exec (.dwellExpire rid) s = execDwellExpire rid s := fun _ _ => rfl

@[simp] theorem exec_pktRdrAnswer : ∀ rid s, exec (.pktRdrAnswer rid) s = execPktRdrAnswer rid s := fun _ _ => rfl

@[simp] theorem exec_pktWackAnswer : ∀ rid s, exec (.pktWackAnswer rid) s = execPktWackAnswer rid s := fun _ _ => rfl

@[simp] theorem exec_pktAtmrAnswer : ∀ rid s, exec (.pktAtmrAnswer rid) s = execPktAtmrAnswer rid s := fun _ _ => rfl

@[simp] theorem exec_pktQrspAnswer : ∀ rid s, exec (.pktQrspAnswer rid) s = execPktQrspAnswer rid s := fun _ _ => rfl

@[simp] theorem exec_pktErrAnswer : ∀ rid s, exec (.pktErrAnswer rid) s = execPktErrAnswer rid s := fun _ _ => rfl

@[simp] theorem exec_pktHnakAnswer : ∀ rid s, exec (.pktHnakAnswer rid) s = execPktHnakAnswer rid s := fun _ _ => rfl

@[simp] theorem exec_hnakResend : ∀ rid s, exec (.hnakResend rid) s = execHnakResend rid s := fun _ _ => rfl

@[simp] theorem exec_remoteTimeout : ∀ rid s, exec (.remoteTimeout rid) s = execRemoteTimeout rid s := fun _ _ => rfl

@[simp] theorem exec_bedLinkRetry : ∀ router port ok s, exec (.bedLinkRetry router port ok) s = execBedLinkRetry router port ok s := fun _ _ _ _ => rfl

@[simp] theorem exec_kwaupFlitReceive : ∀ port flit s, exec (.kwaupFlitReceive port flit) s = execKwaupFlitReceive port flit s := fun _ _ _ => rfl

@[simp] theorem exec_kwaupLnak : ∀ port fseq s, exec (.kwaupLnak port fseq) s = execKwaupLnak port fseq s := fun _ _ _ => rfl

@[simp] theorem exec_hbeatSend : ∀ port s, exec (.hbeatSend port) s = execHbeatSend port s := fun _ _ => rfl

@[simp] theorem exec_peerDead : ∀ port s, exec (.peerDead port) s = execPeerDead port s := fun _ _ => rfl

@[simp] theorem exec_deathNotice : ∀ port dead reporter atPort time s, exec (.deathNotice port dead reporter atPort time) s = execDeathNotice port dead reporter atPort time s := fun _ _ _ _ _ _ => rfl

@[simp] theorem exec_deadmapClear : ∀ i v s, exec (.deadmapClear i v) s = execDeadmapClear i v s := fun _ _ _ => rfl

@[simp] theorem exec_rsGo : ∀ eng s, exec (.rsGo eng) s = execRsGo eng s := fun _ _ => rfl

@[simp] theorem exec_rsResume : ∀ eng s, exec (.rsResume eng) s = execRsResume eng s := fun _ _ => rfl

@[simp] theorem exec_rsHostPlan : ∀ eng s, exec (.rsHostPlan eng) s = execRsHostPlan eng s := fun _ _ => rfl

@[simp] theorem exec_rsPause : ∀ eng s, exec (.rsPause eng) s = execRsPause eng s := fun _ _ => rfl

@[simp] theorem exec_rsAbort : ∀ eng s, exec (.rsAbort eng) s = execRsAbort eng s := fun _ _ => rfl

@[simp] theorem exec_rsChunkDone : ∀ eng s, exec (.rsChunkDone eng) s = execRsChunkDone eng s := fun _ _ => rfl

@[simp] theorem exec_prectlSoft : ∀ queue seq s, exec (.prectlSoft queue seq) s = execPrectlSoft queue seq s := fun _ _ _ => rfl

@[simp] theorem exec_prectlHard : ∀ queue seq s, exec (.prectlHard queue seq) s = execPrectlHard queue seq s := fun _ _ _ => rfl

@[simp] theorem exec_prectlResume : ∀ queue seq s, exec (.prectlResume queue seq) s = execPrectlResume queue seq s := fun _ _ _ => rfl

@[simp] theorem exec_testSliceEnd : ∀ cluster pass s, exec (.testSliceEnd cluster pass) s = execTestSliceEnd cluster pass s := fun _ _ _ => rfl

@[simp] theorem exec_scrubRead : ∀ pa s, exec (.scrubRead pa) s = execScrubRead pa s := fun _ _ => rfl

@[simp] theorem exec_objcmdCreate : ∀ home v s, exec (.objcmdCreate home v) s = execObjcmdCreate home v s := fun _ _ _ => rfl

@[simp] theorem exec_objcmdDelete : ∀ home v s, exec (.objcmdDelete home v) s = execObjcmdDelete home v s := fun _ _ _ => rfl

@[simp] theorem exec_mbctlH2df : ∀ msg s, exec (.mbctlH2df msg) s = execMbctlH2df msg s := fun _ _ => rfl

@[simp] theorem exec_mbctlD2hfClear : ∀ s, exec .mbctlD2hfClear s = execMbctlD2hfClear s := fun _ => rfl

@[simp] theorem exec_valAnswer : ∀ tag code payload s, exec (.valAnswer tag code payload) s = execValAnswer tag code payload s := fun _ _ _ _ => rfl

@[simp] theorem exec_fltAnswer : ∀ tag code payload s, exec (.fltAnswer tag code payload) s = execFltAnswer tag code payload s := fun _ _ _ _ => rfl

@[simp] theorem exec_decAnswer : ∀ tag code payload s, exec (.decAnswer tag code payload) s = execDecAnswer tag code payload s := fun _ _ _ _ => rfl

@[simp] theorem exec_schedAnswer : ∀ tag code payload s, exec (.schedAnswer tag code payload) s = execSchedAnswer tag code payload s := fun _ _ _ _ => rfl

@[simp] theorem exec_retireAnswer : ∀ tag code payload s, exec (.retireAnswer tag code payload) s = execRetireAnswer tag code payload s := fun _ _ _ _ => rfl

@[simp] theorem exec_dutyWrite : ∀ v s, exec (.dutyWrite v) s = execDutyWrite v s := fun _ _ => rfl

@[simp] theorem exec_errptrHeadWrite : ∀ head s, exec (.errptrHeadWrite head) s = execErrptrHeadWrite head s := fun _ _ => rfl

@[simp] theorem exec_sysregWrite : ∀ a v s, exec (.sysregWrite a v) s = execSysregWrite a v s := fun _ _ _ => rfl

@[simp] theorem exec_bar2Access : ∀ write off len data s, exec (.bar2Access write off len data) s = execBar2Access write off len data s := fun _ _ _ _ _ => rfl

@[simp] theorem exec_packageReset : ∀ s, exec .packageReset s = execPackageReset s := fun _ => rfl

@[simp] theorem exec_fwctlGo : ∀ v s, exec (.fwctlGo v) s = execFwctlGo v s := fun _ _ => rfl

@[simp] theorem exec_quiesceEnd : ∀ s, exec .quiesceEnd s = execQuiesceEnd s := fun _ => rfl

@[simp] theorem exec_verifyDone : ∀ s, exec .verifyDone s = execVerifyDone s := fun _ => rfl

@[simp] theorem exec_fwhbHeartbeat : ∀ v s, exec (.fwhbHeartbeat v) s = execFwhbHeartbeat v s := fun _ _ => rfl

@[simp] theorem exec_heartbeatDeadline : ∀ s, exec .heartbeatDeadline s = execHeartbeatDeadline s := fun _ => rfl

@[simp] theorem exec_spdmGetVersion : ∀ s, exec .spdmGetVersion s = execSpdmGetVersion s := fun _ => rfl

@[simp] theorem exec_spdmGetCapabilities : ∀ s, exec .spdmGetCapabilities s = execSpdmGetCapabilities s := fun _ => rfl

@[simp] theorem exec_spdmNegotiateAlgorithms : ∀ s, exec .spdmNegotiateAlgorithms s = execSpdmNegotiateAlgorithms s := fun _ => rfl

@[simp] theorem exec_spdmGetDigests : ∀ s, exec .spdmGetDigests s = execSpdmGetDigests s := fun _ => rfl

@[simp] theorem exec_spdmGetCertificate : ∀ off len s, exec (.spdmGetCertificate off len) s = execSpdmGetCertificate off len s := fun _ _ _ => rfl

@[simp] theorem exec_spdmChallenge : ∀ nonce s, exec (.spdmChallenge nonce) s = execSpdmChallenge nonce s := fun _ _ => rfl

@[simp] theorem exec_spdmGetMeasurements : ∀ index nonce s, exec (.spdmGetMeasurements index nonce) s = execSpdmGetMeasurements index nonce s := fun _ _ _ => rfl

@[simp] theorem exec_spdmUnsupported : ∀ code s, exec (.spdmUnsupported code) s = execSpdmUnsupported code s := fun _ _ => rfl

@[simp] theorem exec_mctpControl : ∀ command data s, exec (.mctpControl command data) s = execMctpControl command data s := fun _ _ _ => rfl

@[simp] theorem exec_dbgStop : ∀ r s, exec (.dbgStop r) s = execDbgStop r s := fun _ _ => rfl

@[simp] theorem exec_dbgTimedStop : ∀ tile s, exec (.dbgTimedStop tile) s = execDbgTimedStop tile s := fun _ _ => rfl

@[simp] theorem exec_dbgRun : ∀ r s, exec (.dbgRun r) s = execDbgRun r s := fun _ _ => rfl

@[simp] theorem exec_dbgStep : ∀ r s, exec (.dbgStep r) s = execDbgStep r s := fun _ _ => rfl

@[simp] theorem exec_dbgArm : ∀ r s, exec (.dbgArm r) s = execDbgArm r s := fun _ _ => rfl

@[simp] theorem exec_dbgDump : ∀ r s, exec (.dbgDump r) s = execDbgDump r s := fun _ _ => rfl

@[simp] theorem exec_dbgTrace : ∀ r s, exec (.dbgTrace r) s = execDbgTrace r s := fun _ _ => rfl

@[simp] theorem exec_dbgCnt : ∀ r s, exec (.dbgCnt r) s = execDbgCnt r s := fun _ _ => rfl

@[simp] theorem exec_addressBreakpointStop : ∀ tile s, exec (.addressBreakpointStop tile) s = execAddressBreakpointStop tile s := fun _ _ => rfl

@[simp] theorem exec_entryWatchStop : ∀ tile q s, exec (.entryWatchStop tile q) s = execEntryWatchStop tile q s := fun _ _ _ => rfl

@[simp] theorem exec_allStopPropagate : ∀ tile s, exec (.allStopPropagate tile) s = execAllStopPropagate tile s := fun _ _ => rfl

@[simp] theorem exec_counterSweep : ∀ unit s, exec (.counterSweep unit) s = execCounterSweep unit s := fun _ _ => rfl

@[simp] theorem exec_engineCommandCompletion : ∀ tile q isn s, exec (.engineCommandCompletion tile q isn) s = execEngineCommandCompletion tile q isn s := fun _ _ _ _ => rfl

@[simp] theorem exec_coreCycle : ∀ die s, exec (.coreCycle die) s = execCoreCycle die s := fun _ _ => rfl

@[simp] theorem exec_bedCycle : ∀ s, exec .bedCycle s = execBedCycle s := fun _ => rfl

@[simp] theorem exec_storageBitError : ∀ pa correctable s, exec (.storageBitError pa correctable) s = execStorageBitError pa correctable s := fun _ _ _ => rfl

@[simp] theorem exec_doeDiscovery : ∀ index s, exec (.doeDiscovery index) s = execDoeDiscovery index s := fun _ _ => rfl

end Sys2Proof.Machine
end

