-- ==== Sys2Proof/Laws/State.lean ====
section
/-! SUPPORT. What the updates of the state leave unchanged: one lemma per field and update, and reading after writing. -/

namespace Sys2Proof.Machine

/-! ### Keyed lists -/

@[simp] theorem AMap.find?_put_same {α : Type} (m : AMap α) (k : Nat) (v : α) : AMap.find? (AMap.put m k v) k = some v := by
  induction m with
  | nil => simp [AMap.put, AMap.find?]
  | cons e r ih =>
    obtain ⟨k', v'⟩ := e
    by_cases h : k' = k
    · simp [AMap.put, AMap.find?, h]
    · simp [AMap.put, AMap.find?, h, ih]

theorem AMap.find?_put_other {α : Type} (m : AMap α) (k j : Nat) (v : α) (h : j ≠ k) :
    AMap.find? (AMap.put m k v) j = AMap.find? m j := by
  induction m with
  | nil => simp [AMap.put, AMap.find?, Ne.symm h]
  | cons e r ih =>
    obtain ⟨k', v'⟩ := e
    by_cases hk : k' = k
    · subst hk; simp [AMap.put, AMap.find?, Ne.symm h]
    · by_cases hj : k' = j
      · subst hj; simp [AMap.put, AMap.find?, hk]
      · simp [AMap.put, AMap.find?, hk, hj, ih]

theorem AMap.find?_put {α : Type} (m : AMap α) (k j : Nat) (v : α) :
    AMap.find? (AMap.put m k v) j = if j = k then some v else AMap.find? m j := by
  by_cases h : j = k
  · subst h; simp
  · simp [AMap.find?_put_other m k j v h, h]

@[simp] theorem AMap.getD_put_same {α : Type} (m : AMap α) (k : Nat) (v d : α) : AMap.getD (AMap.put m k v) k d = v := by
  simp [AMap.getD]

theorem AMap.getD_put_other {α : Type} (m : AMap α) (k j : Nat) (v d : α) (h : j ≠ k) :
    AMap.getD (AMap.put m k v) j d = AMap.getD m j d := by
  simp [AMap.getD, AMap.find?_put_other m k j v h]

/-! ### Tiles -/

@[simp] theorem State.tile_setTile_same (s : State) (g : Nat) (t : Tile) : (s.setTile g t).tile g = t := by
  simp [State.tile, State.setTile]

theorem State.tile_setTile_other (s : State) (g h : Nat) (t : Tile) (n : h ≠ g) : (s.setTile g t).tile h = s.tile h := by
  simp [State.tile, State.setTile, AMap.getD_put_other s.tiles g h t Tile.reset n]

@[simp] theorem State.tile_updTile_same (s : State) (g : Nat) (f : Tile → Tile) : (s.updTile g f).tile g = f (s.tile g) := by
  simp [State.updTile]

theorem State.tile_updTile_other (s : State) (g h : Nat) (f : Tile → Tile) (n : h ≠ g) : (s.updTile g f).tile h = s.tile h :=
  State.tile_setTile_other s g h _ n

@[simp] theorem State.setTile_mem (s : State) (g : Nat) (t : Tile) : (s.setTile g t).mem = s.mem := rfl
@[simp] theorem State.updTile_mem (s : State) (g : Nat) (f : Tile → Tile) : (s.updTile g f).mem = s.mem := rfl
@[simp] theorem State.setTile_cores (s : State) (g : Nat) (t : Tile) : (s.setTile g t).cores = s.cores := rfl
@[simp] theorem State.updTile_cores (s : State) (g : Nat) (f : Tile → Tile) : (s.updTile g f).cores = s.cores := rfl
@[simp] theorem State.setTile_who (s : State) (g : Nat) (t : Tile) : (s.setTile g t).who = s.who := rfl
@[simp] theorem State.updTile_who (s : State) (g : Nat) (f : Tile → Tile) : (s.updTile g f).who = s.who := rfl
@[simp] theorem State.setTile_agenda (s : State) (g : Nat) (t : Tile) : (s.setTile g t).agenda = s.agenda := rfl
@[simp] theorem State.updTile_agenda (s : State) (g : Nat) (f : Tile → Tile) : (s.updTile g f).agenda = s.agenda := rfl
@[simp] theorem State.setTile_bedt (s : State) (g : Nat) (t : Tile) : (s.setTile g t).bedt = s.bedt := rfl
@[simp] theorem State.setTile_blocks (s : State) (g : Nat) (t : Tile) : (s.setTile g t).blocks = s.blocks := rfl
@[simp] theorem State.updTile_bedt (s : State) (g : Nat) (f : Tile → Tile) : (s.updTile g f).bedt = s.bedt := rfl
@[simp] theorem State.updTile_blocks (s : State) (g : Nat) (f : Tile → Tile) : (s.updTile g f).blocks = s.blocks := rfl
@[simp] theorem State.setTile_htlb (s : State) (g : Nat) (t : Tile) : (s.setTile g t).htlb = s.htlb := rfl
@[simp] theorem State.updTile_htlb (s : State) (g : Nat) (f : Tile → Tile) : (s.updTile g f).htlb = s.htlb := rfl
@[simp] theorem State.setTile_hfar (s : State) (g : Nat) (t : Tile) : (s.setTile g t).hfar = s.hfar := rfl
@[simp] theorem State.updTile_hfar (s : State) (g : Nat) (f : Tile → Tile) : (s.updTile g f).hfar = s.hfar := rfl
@[simp] theorem State.setTile_lqs (s : State) (g : Nat) (t : Tile) : (s.setTile g t).lqs = s.lqs := rfl
@[simp] theorem State.updTile_lqs (s : State) (g : Nat) (f : Tile → Tile) : (s.updTile g f).lqs = s.lqs := rfl
@[simp] theorem State.setTile_launches (s : State) (g : Nat) (t : Tile) : (s.setTile g t).launches = s.launches := rfl
@[simp] theorem State.updTile_launches (s : State) (g : Nat) (f : Tile → Tile) : (s.updTile g f).launches = s.launches := rfl
@[simp] theorem State.setTile_nextLaunch (s : State) (g : Nat) (t : Tile) : (s.setTile g t).nextLaunch = s.nextLaunch := rfl
@[simp] theorem State.updTile_nextLaunch (s : State) (g : Nat) (f : Tile → Tile) : (s.updTile g f).nextLaunch = s.nextLaunch := rfl
@[simp] theorem State.setTile_rrQueue (s : State) (g : Nat) (t : Tile) : (s.setTile g t).rrQueue = s.rrQueue := rfl
@[simp] theorem State.setTile_reading (s : State) (g : Nat) (t : Tile) : (s.setTile g t).reading = s.reading := rfl
@[simp] theorem State.setTile_reads (s : State) (g : Nat) (t : Tile) : (s.setTile g t).reads = s.reads := rfl
@[simp] theorem State.updTile_rrQueue (s : State) (g : Nat) (f : Tile → Tile) : (s.updTile g f).rrQueue = s.rrQueue := rfl
@[simp] theorem State.updTile_reading (s : State) (g : Nat) (f : Tile → Tile) : (s.updTile g f).reading = s.reading := rfl
@[simp] theorem State.updTile_reads (s : State) (g : Nat) (f : Tile → Tile) : (s.updTile g f).reads = s.reads := rfl
@[simp] theorem State.setTile_oprs (s : State) (g : Nat) (t : Tile) : (s.setTile g t).oprs = s.oprs := rfl
@[simp] theorem State.updTile_oprs (s : State) (g : Nat) (f : Tile → Tile) : (s.updTile g f).oprs = s.oprs := rfl
@[simp] theorem State.setTile_gov (s : State) (g : Nat) (t : Tile) : (s.setTile g t).gov = s.gov := rfl
@[simp] theorem State.updTile_gov (s : State) (g : Nat) (f : Tile → Tile) : (s.updTile g f).gov = s.gov := rfl
@[simp] theorem State.setTile_objs (s : State) (g : Nat) (t : Tile) : (s.setTile g t).objs = s.objs := rfl
@[simp] theorem State.updTile_objs (s : State) (g : Nat) (f : Tile → Tile) : (s.updTile g f).objs = s.objs := rfl
@[simp] theorem State.setTile_objstat (s : State) (g : Nat) (t : Tile) : (s.setTile g t).objstat = s.objstat := rfl
@[simp] theorem State.updTile_objstat (s : State) (g : Nat) (f : Tile → Tile) : (s.updTile g f).objstat = s.objstat := rfl
@[simp] theorem State.setTile_net (s : State) (g : Nat) (t : Tile) : (s.setTile g t).net = s.net := rfl
@[simp] theorem State.updTile_net (s : State) (g : Nat) (f : Tile → Tile) : (s.updTile g f).net = s.net := rfl
@[simp] theorem State.setTile_nextRid (s : State) (g : Nat) (t : Tile) : (s.setTile g t).nextRid = s.nextRid := rfl
@[simp] theorem State.updTile_nextRid (s : State) (g : Nat) (f : Tile → Tile) : (s.updTile g f).nextRid = s.nextRid := rfl
@[simp] theorem State.setTile_slotTabs (s : State) (g : Nat) (t : Tile) : (s.setTile g t).slotTabs = s.slotTabs := rfl
@[simp] theorem State.updTile_slotTabs (s : State) (g : Nat) (f : Tile → Tile) : (s.updTile g f).slotTabs = s.slotTabs := rfl
@[simp] theorem State.setTile_linkDown (s : State) (g : Nat) (t : Tile) : (s.setTile g t).linkDown = s.linkDown := rfl
@[simp] theorem State.updTile_linkDown (s : State) (g : Nat) (f : Tile → Tile) : (s.updTile g f).linkDown = s.linkDown := rfl
@[simp] theorem State.setTile_linkFails (s : State) (g : Nat) (t : Tile) : (s.setTile g t).linkFails = s.linkFails := rfl
@[simp] theorem State.updTile_linkFails (s : State) (g : Nat) (f : Tile → Tile) : (s.updTile g f).linkFails = s.linkFails := rfl
@[simp] theorem State.setTile_ports (s : State) (g : Nat) (t : Tile) : (s.setTile g t).ports = s.ports := rfl
@[simp] theorem State.updTile_ports (s : State) (g : Nat) (f : Tile → Tile) : (s.updTile g f).ports = s.ports := rfl
@[simp] theorem State.setTile_dead (s : State) (g : Nat) (t : Tile) : (s.setTile g t).dead = s.dead := rfl
@[simp] theorem State.updTile_dead (s : State) (g : Nat) (f : Tile → Tile) : (s.updTile g f).dead = s.dead := rfl
@[simp] theorem State.setTile_routes (s : State) (g : Nat) (t : Tile) : (s.setTile g t).routes = s.routes := rfl
@[simp] theorem State.updTile_routes (s : State) (g : Nat) (f : Tile → Tile) : (s.updTile g f).routes = s.routes := rfl
@[simp] theorem State.setTile_ftmo (s : State) (g : Nat) (t : Tile) : (s.setTile g t).ftmo = s.ftmo := rfl
@[simp] theorem State.updTile_ftmo (s : State) (g : Nat) (f : Tile → Tile) : (s.updTile g f).ftmo = s.ftmo := rfl
@[simp] theorem State.setTile_logs (s : State) (g : Nat) (t : Tile) : (s.setTile g t).logs = s.logs := rfl
@[simp] theorem State.updTile_logs (s : State) (g : Nat) (f : Tile → Tile) : (s.updTile g f).logs = s.logs := rfl
@[simp] theorem State.setTile_windows (s : State) (g : Nat) (t : Tile) : (s.setTile g t).windows = s.windows := rfl
@[simp] theorem State.updTile_windows (s : State) (g : Nat) (f : Tile → Tile) : (s.updTile g f).windows = s.windows := rfl
@[simp] theorem State.setTile_scrubs (s : State) (g : Nat) (t : Tile) : (s.setTile g t).scrubs = s.scrubs := rfl
@[simp] theorem State.updTile_scrubs (s : State) (g : Nat) (f : Tile → Tile) : (s.updTile g f).scrubs = s.scrubs := rfl
@[simp] theorem State.setTile_bad (s : State) (g : Nat) (t : Tile) : (s.setTile g t).bad = s.bad := rfl
@[simp] theorem State.updTile_bad (s : State) (g : Nat) (f : Tile → Tile) : (s.updTile g f).bad = s.bad := rfl
@[simp] theorem State.setTile_armed (s : State) (g : Nat) (t : Tile) : (s.setTile g t).armed = s.armed := rfl
@[simp] theorem State.updTile_armed (s : State) (g : Nat) (f : Tile → Tile) : (s.updTile g f).armed = s.armed := rfl
@[simp] theorem State.setTile_ring (s : State) (g : Nat) (t : Tile) : (s.setTile g t).ring = s.ring := rfl
@[simp] theorem State.updTile_ring (s : State) (g : Nat) (f : Tile → Tile) : (s.updTile g f).ring = s.ring := rfl
@[simp] theorem State.setTile_suspects (s : State) (g : Nat) (t : Tile) : (s.setTile g t).suspects = s.suspects := rfl
@[simp] theorem State.updTile_suspects (s : State) (g : Nat) (f : Tile → Tile) : (s.updTile g f).suspects = s.suspects := rfl
@[simp] theorem State.setTile_diesOut (s : State) (g : Nat) (t : Tile) : (s.setTile g t).diesOut = s.diesOut := rfl
@[simp] theorem State.updTile_diesOut (s : State) (g : Nat) (f : Tile → Tile) : (s.updTile g f).diesOut = s.diesOut := rfl
@[simp] theorem State.setTile_retired (s : State) (g : Nat) (t : Tile) : (s.setTile g t).retired = s.retired := rfl
@[simp] theorem State.updTile_retired (s : State) (g : Nat) (f : Tile → Tile) : (s.updTile g f).retired = s.retired := rfl
@[simp] theorem State.setTile_segsFree (s : State) (g : Nat) (t : Tile) : (s.setTile g t).segsFree = s.segsFree := rfl
@[simp] theorem State.updTile_segsFree (s : State) (g : Nat) (f : Tile → Tile) : (s.updTile g f).segsFree = s.segsFree := rfl
@[simp] theorem State.setTile_patterns (s : State) (g : Nat) (t : Tile) : (s.setTile g t).patterns = s.patterns := rfl
@[simp] theorem State.updTile_patterns (s : State) (g : Nat) (f : Tile → Tile) : (s.updTile g f).patterns = s.patterns := rfl
@[simp] theorem State.setTile_reshard0 (s : State) (g : Nat) (t : Tile) : (s.setTile g t).reshard0 = s.reshard0 := rfl
@[simp] theorem State.updTile_reshard0 (s : State) (g : Nat) (f : Tile → Tile) : (s.updTile g f).reshard0 = s.reshard0 := rfl
@[simp] theorem State.setTile_reshard1 (s : State) (g : Nat) (t : Tile) : (s.setTile g t).reshard1 = s.reshard1 := rfl
@[simp] theorem State.updTile_reshard1 (s : State) (g : Nat) (f : Tile → Tile) : (s.updTile g f).reshard1 = s.reshard1 := rfl
@[simp] theorem State.setTile_pr (s : State) (g : Nat) (t : Tile) : (s.setTile g t).pr = s.pr := rfl
@[simp] theorem State.updTile_pr (s : State) (g : Nat) (f : Tile → Tile) : (s.updTile g f).pr = s.pr := rfl
@[simp] theorem State.setTile_fw (s : State) (g : Nat) (t : Tile) : (s.setTile g t).fw = s.fw := rfl
@[simp] theorem State.updTile_fw (s : State) (g : Nat) (f : Tile → Tile) : (s.updTile g f).fw = s.fw := rfl
@[simp] theorem State.setTile_mbox (s : State) (g : Nat) (t : Tile) : (s.setTile g t).mbox = s.mbox := rfl
@[simp] theorem State.updTile_mbox (s : State) (g : Nat) (f : Tile → Tile) : (s.updTile g f).mbox = s.mbox := rfl
@[simp] theorem State.setTile_trace (s : State) (g : Nat) (t : Tile) : (s.setTile g t).trace = s.trace := rfl
@[simp] theorem State.updTile_trace (s : State) (g : Nat) (f : Tile → Tile) : (s.updTile g f).trace = s.trace := rfl
@[simp] theorem State.setTile_free (s : State) (g : Nat) (t : Tile) : (s.setTile g t).free = s.free := rfl
@[simp] theorem State.updTile_free (s : State) (g : Nat) (f : Tile → Tile) : (s.updTile g f).free = s.free := rfl

/-! ### The control core -/

@[simp] theorem State.setTcc_mem (s : State) (a : Agent) (c : Tcc) : (s.setTcc a c).mem = s.mem := by
  cases a <;> simp [State.setTcc]; split <;> rfl
@[simp] theorem State.setCur_mem (s : State) (c : Tcc) : (s.setCur c).mem = s.mem := by simp [State.setCur]
@[simp] theorem State.updCur_mem (s : State) (f : Tcc → Tcc) : (s.updCur f).mem = s.mem := by simp [State.updCur]
@[simp] theorem State.setTcc_who (s : State) (a : Agent) (c : Tcc) : (s.setTcc a c).who = s.who := by
  cases a <;> simp [State.setTcc]; split <;> rfl
@[simp] theorem State.setCur_who (s : State) (c : Tcc) : (s.setCur c).who = s.who := by simp [State.setCur]
@[simp] theorem State.updCur_who (s : State) (f : Tcc → Tcc) : (s.updCur f).who = s.who := by simp [State.updCur]
@[simp] theorem State.setTcc_agenda (s : State) (a : Agent) (c : Tcc) : (s.setTcc a c).agenda = s.agenda := by
  cases a <;> simp [State.setTcc]; split <;> rfl
@[simp] theorem State.setCur_agenda (s : State) (c : Tcc) : (s.setCur c).agenda = s.agenda := by simp [State.setCur]
@[simp] theorem State.updCur_agenda (s : State) (f : Tcc → Tcc) : (s.updCur f).agenda = s.agenda := by simp [State.updCur]
@[simp] theorem State.setTcc_bedt (s : State) (a : Agent) (c : Tcc) : (s.setTcc a c).bedt = s.bedt := by
  cases a <;> simp [State.setTcc]; split <;> rfl
@[simp] theorem State.setTcc_blocks (s : State) (a : Agent) (c : Tcc) : (s.setTcc a c).blocks = s.blocks := by
  cases a <;> simp [State.setTcc]; split <;> rfl
@[simp] theorem State.setCur_bedt (s : State) (c : Tcc) : (s.setCur c).bedt = s.bedt := by simp [State.setCur]
@[simp] theorem State.setCur_blocks (s : State) (c : Tcc) : (s.setCur c).blocks = s.blocks := by simp [State.setCur]
@[simp] theorem State.updCur_bedt (s : State) (f : Tcc → Tcc) : (s.updCur f).bedt = s.bedt := by simp [State.updCur]
@[simp] theorem State.updCur_blocks (s : State) (f : Tcc → Tcc) : (s.updCur f).blocks = s.blocks := by simp [State.updCur]
@[simp] theorem State.setTcc_htlb (s : State) (a : Agent) (c : Tcc) : (s.setTcc a c).htlb = s.htlb := by
  cases a <;> simp [State.setTcc]; split <;> rfl
@[simp] theorem State.setCur_htlb (s : State) (c : Tcc) : (s.setCur c).htlb = s.htlb := by simp [State.setCur]
@[simp] theorem State.updCur_htlb (s : State) (f : Tcc → Tcc) : (s.updCur f).htlb = s.htlb := by simp [State.updCur]
@[simp] theorem State.setTcc_hfar (s : State) (a : Agent) (c : Tcc) : (s.setTcc a c).hfar = s.hfar := by
  cases a <;> simp [State.setTcc]; split <;> rfl
@[simp] theorem State.setCur_hfar (s : State) (c : Tcc) : (s.setCur c).hfar = s.hfar := by simp [State.setCur]
@[simp] theorem State.updCur_hfar (s : State) (f : Tcc → Tcc) : (s.updCur f).hfar = s.hfar := by simp [State.updCur]
@[simp] theorem State.setTcc_lqs (s : State) (a : Agent) (c : Tcc) : (s.setTcc a c).lqs = s.lqs := by
  cases a <;> simp [State.setTcc]; split <;> rfl
@[simp] theorem State.setCur_lqs (s : State) (c : Tcc) : (s.setCur c).lqs = s.lqs := by simp [State.setCur]
@[simp] theorem State.updCur_lqs (s : State) (f : Tcc → Tcc) : (s.updCur f).lqs = s.lqs := by simp [State.updCur]
@[simp] theorem State.setTcc_launches (s : State) (a : Agent) (c : Tcc) : (s.setTcc a c).launches = s.launches := by
  cases a <;> simp [State.setTcc]; split <;> rfl
@[simp] theorem State.setCur_launches (s : State) (c : Tcc) : (s.setCur c).launches = s.launches := by simp [State.setCur]
@[simp] theorem State.updCur_launches (s : State) (f : Tcc → Tcc) : (s.updCur f).launches = s.launches := by simp [State.updCur]
@[simp] theorem State.setTcc_nextLaunch (s : State) (a : Agent) (c : Tcc) : (s.setTcc a c).nextLaunch = s.nextLaunch := by
  cases a <;> simp [State.setTcc]; split <;> rfl
@[simp] theorem State.setCur_nextLaunch (s : State) (c : Tcc) : (s.setCur c).nextLaunch = s.nextLaunch := by simp [State.setCur]
@[simp] theorem State.updCur_nextLaunch (s : State) (f : Tcc → Tcc) : (s.updCur f).nextLaunch = s.nextLaunch := by simp [State.updCur]
@[simp] theorem State.setTcc_rrQueue (s : State) (a : Agent) (c : Tcc) : (s.setTcc a c).rrQueue = s.rrQueue := by
  cases a <;> simp [State.setTcc]; split <;> rfl
@[simp] theorem State.setTcc_reading (s : State) (a : Agent) (c : Tcc) : (s.setTcc a c).reading = s.reading := by
  cases a <;> simp [State.setTcc]; split <;> rfl
@[simp] theorem State.setTcc_reads (s : State) (a : Agent) (c : Tcc) : (s.setTcc a c).reads = s.reads := by
  cases a <;> simp [State.setTcc]; split <;> rfl
@[simp] theorem State.setCur_rrQueue (s : State) (c : Tcc) : (s.setCur c).rrQueue = s.rrQueue := by simp [State.setCur]
@[simp] theorem State.setCur_reading (s : State) (c : Tcc) : (s.setCur c).reading = s.reading := by simp [State.setCur]
@[simp] theorem State.setCur_reads (s : State) (c : Tcc) : (s.setCur c).reads = s.reads := by simp [State.setCur]
@[simp] theorem State.updCur_rrQueue (s : State) (f : Tcc → Tcc) : (s.updCur f).rrQueue = s.rrQueue := by simp [State.updCur]
@[simp] theorem State.updCur_reading (s : State) (f : Tcc → Tcc) : (s.updCur f).reading = s.reading := by simp [State.updCur]
@[simp] theorem State.updCur_reads (s : State) (f : Tcc → Tcc) : (s.updCur f).reads = s.reads := by simp [State.updCur]
@[simp] theorem State.setTcc_oprs (s : State) (a : Agent) (c : Tcc) : (s.setTcc a c).oprs = s.oprs := by
  cases a <;> simp [State.setTcc]; split <;> rfl
@[simp] theorem State.setCur_oprs (s : State) (c : Tcc) : (s.setCur c).oprs = s.oprs := by simp [State.setCur]
@[simp] theorem State.updCur_oprs (s : State) (f : Tcc → Tcc) : (s.updCur f).oprs = s.oprs := by simp [State.updCur]
@[simp] theorem State.setTcc_gov (s : State) (a : Agent) (c : Tcc) : (s.setTcc a c).gov = s.gov := by
  cases a <;> simp [State.setTcc]; split <;> rfl
@[simp] theorem State.setCur_gov (s : State) (c : Tcc) : (s.setCur c).gov = s.gov := by simp [State.setCur]
@[simp] theorem State.updCur_gov (s : State) (f : Tcc → Tcc) : (s.updCur f).gov = s.gov := by simp [State.updCur]
@[simp] theorem State.setTcc_objs (s : State) (a : Agent) (c : Tcc) : (s.setTcc a c).objs = s.objs := by
  cases a <;> simp [State.setTcc]; split <;> rfl
@[simp] theorem State.setCur_objs (s : State) (c : Tcc) : (s.setCur c).objs = s.objs := by simp [State.setCur]
@[simp] theorem State.updCur_objs (s : State) (f : Tcc → Tcc) : (s.updCur f).objs = s.objs := by simp [State.updCur]
@[simp] theorem State.setTcc_objstat (s : State) (a : Agent) (c : Tcc) : (s.setTcc a c).objstat = s.objstat := by
  cases a <;> simp [State.setTcc]; split <;> rfl
@[simp] theorem State.setCur_objstat (s : State) (c : Tcc) : (s.setCur c).objstat = s.objstat := by simp [State.setCur]
@[simp] theorem State.updCur_objstat (s : State) (f : Tcc → Tcc) : (s.updCur f).objstat = s.objstat := by simp [State.updCur]
@[simp] theorem State.setTcc_net (s : State) (a : Agent) (c : Tcc) : (s.setTcc a c).net = s.net := by
  cases a <;> simp [State.setTcc]; split <;> rfl
@[simp] theorem State.setCur_net (s : State) (c : Tcc) : (s.setCur c).net = s.net := by simp [State.setCur]
@[simp] theorem State.updCur_net (s : State) (f : Tcc → Tcc) : (s.updCur f).net = s.net := by simp [State.updCur]
@[simp] theorem State.setTcc_nextRid (s : State) (a : Agent) (c : Tcc) : (s.setTcc a c).nextRid = s.nextRid := by
  cases a <;> simp [State.setTcc]; split <;> rfl
@[simp] theorem State.setCur_nextRid (s : State) (c : Tcc) : (s.setCur c).nextRid = s.nextRid := by simp [State.setCur]
@[simp] theorem State.updCur_nextRid (s : State) (f : Tcc → Tcc) : (s.updCur f).nextRid = s.nextRid := by simp [State.updCur]
@[simp] theorem State.setTcc_slotTabs (s : State) (a : Agent) (c : Tcc) : (s.setTcc a c).slotTabs = s.slotTabs := by
  cases a <;> simp [State.setTcc]; split <;> rfl
@[simp] theorem State.setCur_slotTabs (s : State) (c : Tcc) : (s.setCur c).slotTabs = s.slotTabs := by simp [State.setCur]
@[simp] theorem State.updCur_slotTabs (s : State) (f : Tcc → Tcc) : (s.updCur f).slotTabs = s.slotTabs := by simp [State.updCur]
@[simp] theorem State.setTcc_linkDown (s : State) (a : Agent) (c : Tcc) : (s.setTcc a c).linkDown = s.linkDown := by
  cases a <;> simp [State.setTcc]; split <;> rfl
@[simp] theorem State.setCur_linkDown (s : State) (c : Tcc) : (s.setCur c).linkDown = s.linkDown := by simp [State.setCur]
@[simp] theorem State.updCur_linkDown (s : State) (f : Tcc → Tcc) : (s.updCur f).linkDown = s.linkDown := by simp [State.updCur]
@[simp] theorem State.setTcc_linkFails (s : State) (a : Agent) (c : Tcc) : (s.setTcc a c).linkFails = s.linkFails := by
  cases a <;> simp [State.setTcc]; split <;> rfl
@[simp] theorem State.setCur_linkFails (s : State) (c : Tcc) : (s.setCur c).linkFails = s.linkFails := by simp [State.setCur]
@[simp] theorem State.updCur_linkFails (s : State) (f : Tcc → Tcc) : (s.updCur f).linkFails = s.linkFails := by simp [State.updCur]
@[simp] theorem State.setTcc_ports (s : State) (a : Agent) (c : Tcc) : (s.setTcc a c).ports = s.ports := by
  cases a <;> simp [State.setTcc]; split <;> rfl
@[simp] theorem State.setCur_ports (s : State) (c : Tcc) : (s.setCur c).ports = s.ports := by simp [State.setCur]
@[simp] theorem State.updCur_ports (s : State) (f : Tcc → Tcc) : (s.updCur f).ports = s.ports := by simp [State.updCur]
@[simp] theorem State.setTcc_dead (s : State) (a : Agent) (c : Tcc) : (s.setTcc a c).dead = s.dead := by
  cases a <;> simp [State.setTcc]; split <;> rfl
@[simp] theorem State.setCur_dead (s : State) (c : Tcc) : (s.setCur c).dead = s.dead := by simp [State.setCur]
@[simp] theorem State.updCur_dead (s : State) (f : Tcc → Tcc) : (s.updCur f).dead = s.dead := by simp [State.updCur]
@[simp] theorem State.setTcc_routes (s : State) (a : Agent) (c : Tcc) : (s.setTcc a c).routes = s.routes := by
  cases a <;> simp [State.setTcc]; split <;> rfl
@[simp] theorem State.setCur_routes (s : State) (c : Tcc) : (s.setCur c).routes = s.routes := by simp [State.setCur]
@[simp] theorem State.updCur_routes (s : State) (f : Tcc → Tcc) : (s.updCur f).routes = s.routes := by simp [State.updCur]
@[simp] theorem State.setTcc_ftmo (s : State) (a : Agent) (c : Tcc) : (s.setTcc a c).ftmo = s.ftmo := by
  cases a <;> simp [State.setTcc]; split <;> rfl
@[simp] theorem State.setCur_ftmo (s : State) (c : Tcc) : (s.setCur c).ftmo = s.ftmo := by simp [State.setCur]
@[simp] theorem State.updCur_ftmo (s : State) (f : Tcc → Tcc) : (s.updCur f).ftmo = s.ftmo := by simp [State.updCur]
@[simp] theorem State.setTcc_logs (s : State) (a : Agent) (c : Tcc) : (s.setTcc a c).logs = s.logs := by
  cases a <;> simp [State.setTcc]; split <;> rfl
@[simp] theorem State.setCur_logs (s : State) (c : Tcc) : (s.setCur c).logs = s.logs := by simp [State.setCur]
@[simp] theorem State.updCur_logs (s : State) (f : Tcc → Tcc) : (s.updCur f).logs = s.logs := by simp [State.updCur]
@[simp] theorem State.setTcc_windows (s : State) (a : Agent) (c : Tcc) : (s.setTcc a c).windows = s.windows := by
  cases a <;> simp [State.setTcc]; split <;> rfl
@[simp] theorem State.setCur_windows (s : State) (c : Tcc) : (s.setCur c).windows = s.windows := by simp [State.setCur]
@[simp] theorem State.updCur_windows (s : State) (f : Tcc → Tcc) : (s.updCur f).windows = s.windows := by simp [State.updCur]
@[simp] theorem State.setTcc_scrubs (s : State) (a : Agent) (c : Tcc) : (s.setTcc a c).scrubs = s.scrubs := by
  cases a <;> simp [State.setTcc]; split <;> rfl
@[simp] theorem State.setCur_scrubs (s : State) (c : Tcc) : (s.setCur c).scrubs = s.scrubs := by simp [State.setCur]
@[simp] theorem State.updCur_scrubs (s : State) (f : Tcc → Tcc) : (s.updCur f).scrubs = s.scrubs := by simp [State.updCur]
@[simp] theorem State.setTcc_bad (s : State) (a : Agent) (c : Tcc) : (s.setTcc a c).bad = s.bad := by
  cases a <;> simp [State.setTcc]; split <;> rfl
@[simp] theorem State.setCur_bad (s : State) (c : Tcc) : (s.setCur c).bad = s.bad := by simp [State.setCur]
@[simp] theorem State.updCur_bad (s : State) (f : Tcc → Tcc) : (s.updCur f).bad = s.bad := by simp [State.updCur]
@[simp] theorem State.setTcc_armed (s : State) (a : Agent) (c : Tcc) : (s.setTcc a c).armed = s.armed := by
  cases a <;> simp [State.setTcc]; split <;> rfl
@[simp] theorem State.setCur_armed (s : State) (c : Tcc) : (s.setCur c).armed = s.armed := by simp [State.setCur]
@[simp] theorem State.updCur_armed (s : State) (f : Tcc → Tcc) : (s.updCur f).armed = s.armed := by simp [State.updCur]
@[simp] theorem State.setTcc_ring (s : State) (a : Agent) (c : Tcc) : (s.setTcc a c).ring = s.ring := by
  cases a <;> simp [State.setTcc]; split <;> rfl
@[simp] theorem State.setCur_ring (s : State) (c : Tcc) : (s.setCur c).ring = s.ring := by simp [State.setCur]
@[simp] theorem State.updCur_ring (s : State) (f : Tcc → Tcc) : (s.updCur f).ring = s.ring := by simp [State.updCur]
@[simp] theorem State.setTcc_suspects (s : State) (a : Agent) (c : Tcc) : (s.setTcc a c).suspects = s.suspects := by
  cases a <;> simp [State.setTcc]; split <;> rfl
@[simp] theorem State.setCur_suspects (s : State) (c : Tcc) : (s.setCur c).suspects = s.suspects := by simp [State.setCur]
@[simp] theorem State.updCur_suspects (s : State) (f : Tcc → Tcc) : (s.updCur f).suspects = s.suspects := by simp [State.updCur]
@[simp] theorem State.setTcc_diesOut (s : State) (a : Agent) (c : Tcc) : (s.setTcc a c).diesOut = s.diesOut := by
  cases a <;> simp [State.setTcc]; split <;> rfl
@[simp] theorem State.setCur_diesOut (s : State) (c : Tcc) : (s.setCur c).diesOut = s.diesOut := by simp [State.setCur]
@[simp] theorem State.updCur_diesOut (s : State) (f : Tcc → Tcc) : (s.updCur f).diesOut = s.diesOut := by simp [State.updCur]
@[simp] theorem State.setTcc_retired (s : State) (a : Agent) (c : Tcc) : (s.setTcc a c).retired = s.retired := by
  cases a <;> simp [State.setTcc]; split <;> rfl
@[simp] theorem State.setCur_retired (s : State) (c : Tcc) : (s.setCur c).retired = s.retired := by simp [State.setCur]
@[simp] theorem State.updCur_retired (s : State) (f : Tcc → Tcc) : (s.updCur f).retired = s.retired := by simp [State.updCur]
@[simp] theorem State.setTcc_segsFree (s : State) (a : Agent) (c : Tcc) : (s.setTcc a c).segsFree = s.segsFree := by
  cases a <;> simp [State.setTcc]; split <;> rfl
@[simp] theorem State.setCur_segsFree (s : State) (c : Tcc) : (s.setCur c).segsFree = s.segsFree := by simp [State.setCur]
@[simp] theorem State.updCur_segsFree (s : State) (f : Tcc → Tcc) : (s.updCur f).segsFree = s.segsFree := by simp [State.updCur]
@[simp] theorem State.setTcc_patterns (s : State) (a : Agent) (c : Tcc) : (s.setTcc a c).patterns = s.patterns := by
  cases a <;> simp [State.setTcc]; split <;> rfl
@[simp] theorem State.setCur_patterns (s : State) (c : Tcc) : (s.setCur c).patterns = s.patterns := by simp [State.setCur]
@[simp] theorem State.updCur_patterns (s : State) (f : Tcc → Tcc) : (s.updCur f).patterns = s.patterns := by simp [State.updCur]
@[simp] theorem State.setTcc_reshard0 (s : State) (a : Agent) (c : Tcc) : (s.setTcc a c).reshard0 = s.reshard0 := by
  cases a <;> simp [State.setTcc]; split <;> rfl
@[simp] theorem State.setCur_reshard0 (s : State) (c : Tcc) : (s.setCur c).reshard0 = s.reshard0 := by simp [State.setCur]
@[simp] theorem State.updCur_reshard0 (s : State) (f : Tcc → Tcc) : (s.updCur f).reshard0 = s.reshard0 := by simp [State.updCur]
@[simp] theorem State.setTcc_reshard1 (s : State) (a : Agent) (c : Tcc) : (s.setTcc a c).reshard1 = s.reshard1 := by
  cases a <;> simp [State.setTcc]; split <;> rfl
@[simp] theorem State.setCur_reshard1 (s : State) (c : Tcc) : (s.setCur c).reshard1 = s.reshard1 := by simp [State.setCur]
@[simp] theorem State.updCur_reshard1 (s : State) (f : Tcc → Tcc) : (s.updCur f).reshard1 = s.reshard1 := by simp [State.updCur]
@[simp] theorem State.setTcc_pr (s : State) (a : Agent) (c : Tcc) : (s.setTcc a c).pr = s.pr := by
  cases a <;> simp [State.setTcc]; split <;> rfl
@[simp] theorem State.setCur_pr (s : State) (c : Tcc) : (s.setCur c).pr = s.pr := by simp [State.setCur]
@[simp] theorem State.updCur_pr (s : State) (f : Tcc → Tcc) : (s.updCur f).pr = s.pr := by simp [State.updCur]
@[simp] theorem State.setTcc_fw (s : State) (a : Agent) (c : Tcc) : (s.setTcc a c).fw = s.fw := by
  cases a <;> simp [State.setTcc]; split <;> rfl
@[simp] theorem State.setCur_fw (s : State) (c : Tcc) : (s.setCur c).fw = s.fw := by simp [State.setCur]
@[simp] theorem State.updCur_fw (s : State) (f : Tcc → Tcc) : (s.updCur f).fw = s.fw := by simp [State.updCur]
@[simp] theorem State.setTcc_mbox (s : State) (a : Agent) (c : Tcc) : (s.setTcc a c).mbox = s.mbox := by
  cases a <;> simp [State.setTcc]; split <;> rfl
@[simp] theorem State.setCur_mbox (s : State) (c : Tcc) : (s.setCur c).mbox = s.mbox := by simp [State.setCur]
@[simp] theorem State.updCur_mbox (s : State) (f : Tcc → Tcc) : (s.updCur f).mbox = s.mbox := by simp [State.updCur]
@[simp] theorem State.setTcc_trace (s : State) (a : Agent) (c : Tcc) : (s.setTcc a c).trace = s.trace := by
  cases a <;> simp [State.setTcc]; split <;> rfl
@[simp] theorem State.setCur_trace (s : State) (c : Tcc) : (s.setCur c).trace = s.trace := by simp [State.setCur]
@[simp] theorem State.updCur_trace (s : State) (f : Tcc → Tcc) : (s.updCur f).trace = s.trace := by simp [State.updCur]
@[simp] theorem State.setTcc_free (s : State) (a : Agent) (c : Tcc) : (s.setTcc a c).free = s.free := by
  cases a <;> simp [State.setTcc]; split <;> rfl
@[simp] theorem State.setCur_free (s : State) (c : Tcc) : (s.setCur c).free = s.free := by simp [State.setCur]
@[simp] theorem State.updCur_free (s : State) (f : Tcc → Tcc) : (s.updCur f).free = s.free := by simp [State.updCur]

theorem State.tccOf_setTcc_same (s : State) (a : Agent) (c : Tcc) (h : a.hasCore) : (s.setTcc a c).tccOf a = c := by
  cases a with
  | tile g => simp [State.setTcc, State.tccOf]
  | core n => simp only [Agent.hasCore] at h; simp [State.setTcc, State.tccOf, h]
  | reshard n => exact absurd h (by simp [Agent.hasCore])
  | headstock => exact absurd h (by simp [Agent.hasCore])

theorem State.cur_setCur (s : State) (c : Tcc) (h : s.who.hasCore) : (s.setCur c).cur = c := by
  simp only [State.cur, State.setCur_who]
  exact State.tccOf_setTcc_same s s.who c h

@[simp] theorem Tcc.setP_regs (c : Tcc) (p : PReg) (v : Bool) : (c.setP p v).regs = c.regs := by
  unfold Tcc.setP; split <;> rfl
@[simp] theorem Tcc.setG_preds (c : Tcc) (r : Reg) (v : Word) : (c.setG r v).preds = c.preds := by
  unfold Tcc.setG; split <;> rfl
@[simp] theorem Tcc.setG_pc (c : Tcc) (r : Reg) (v : Word) : (c.setG r v).pc = c.pc := by
  unfold Tcc.setG; split <;> rfl
@[simp] theorem Tcc.setP_pc (c : Tcc) (p : PReg) (v : Bool) : (c.setP p v).pc = c.pc := by
  unfold Tcc.setP; split <;> rfl
@[simp] theorem Tcc.setG_img (c : Tcc) (r : Reg) (v : Word) : (c.setG r v).img = c.img := by
  unfold Tcc.setG; split <;> rfl
@[simp] theorem Tcc.setP_img (c : Tcc) (p : PReg) (v : Bool) : (c.setP p v).img = c.img := by
  unfold Tcc.setP; split <;> rfl
@[simp] theorem Tcc.setG_succ (c : Tcc) (r : Reg) (v : Word) : (c.setG r v).succ = c.succ := by
  unfold Tcc.setG; split <;> rfl
@[simp] theorem Tcc.setP_succ (c : Tcc) (p : PReg) (v : Bool) : (c.setP p v).succ = c.succ := by
  unfold Tcc.setP; split <;> rfl
@[simp] theorem Tcc.setG_iw (c : Tcc) (r : Reg) (v : Word) : (c.setG r v).iw = c.iw := by
  unfold Tcc.setG; split <;> rfl
@[simp] theorem Tcc.setP_iw (c : Tcc) (p : PReg) (v : Bool) : (c.setP p v).iw = c.iw := by
  unfold Tcc.setP; split <;> rfl
@[simp] theorem Tcc.setG_lined (c : Tcc) (r : Reg) (v : Word) : (c.setG r v).lined = c.lined := by
  unfold Tcc.setG; split <;> rfl
@[simp] theorem Tcc.setP_lined (c : Tcc) (p : PReg) (v : Bool) : (c.setP p v).lined = c.lined := by
  unfold Tcc.setP; split <;> rfl
@[simp] theorem Tcc.setG_pfx (c : Tcc) (r : Reg) (v : Word) : (c.setG r v).pfx = c.pfx := by
  unfold Tcc.setG; split <;> rfl
@[simp] theorem Tcc.setG_pfxp (c : Tcc) (r : Reg) (v : Word) : (c.setG r v).pfxp = c.pfxp := by
  unfold Tcc.setG; split <;> rfl
@[simp] theorem Tcc.setG_fenceOn (c : Tcc) (r : Reg) (v : Word) : (c.setG r v).fenceOn = c.fenceOn := by
  unfold Tcc.setG; split <;> rfl
@[simp] theorem Tcc.setP_pfx (c : Tcc) (p : PReg) (v : Bool) : (c.setP p v).pfx = c.pfx := by
  unfold Tcc.setP; split <;> rfl
@[simp] theorem Tcc.setP_pfxp (c : Tcc) (p : PReg) (v : Bool) : (c.setP p v).pfxp = c.pfxp := by
  unfold Tcc.setP; split <;> rfl
@[simp] theorem Tcc.setP_fenceOn (c : Tcc) (p : PReg) (v : Bool) : (c.setP p v).fenceOn = c.fenceOn := by
  unfold Tcc.setP; split <;> rfl
@[simp] theorem Tcc.setG_loop0 (c : Tcc) (r : Reg) (v : Word) : (c.setG r v).loop0 = c.loop0 := by
  unfold Tcc.setG; split <;> rfl
@[simp] theorem Tcc.setP_loop0 (c : Tcc) (p : PReg) (v : Bool) : (c.setP p v).loop0 = c.loop0 := by
  unfold Tcc.setP; split <;> rfl
@[simp] theorem Tcc.setG_loop1 (c : Tcc) (r : Reg) (v : Word) : (c.setG r v).loop1 = c.loop1 := by
  unfold Tcc.setG; split <;> rfl
@[simp] theorem Tcc.setP_loop1 (c : Tcc) (p : PReg) (v : Bool) : (c.setP p v).loop1 = c.loop1 := by
  unfold Tcc.setP; split <;> rfl
@[simp] theorem Tcc.setG_ras (c : Tcc) (r : Reg) (v : Word) : (c.setG r v).ras = c.ras := by
  unfold Tcc.setG; split <;> rfl
@[simp] theorem Tcc.setP_ras (c : Tcc) (p : PReg) (v : Bool) : (c.setP p v).ras = c.ras := by
  unfold Tcc.setP; split <;> rfl
@[simp] theorem Tcc.setG_rsp (c : Tcc) (r : Reg) (v : Word) : (c.setG r v).rsp = c.rsp := by
  unfold Tcc.setG; split <;> rfl
@[simp] theorem Tcc.setP_rsp (c : Tcc) (p : PReg) (v : Bool) : (c.setP p v).rsp = c.rsp := by
  unfold Tcc.setP; split <;> rfl
@[simp] theorem Tcc.setG_rsc (c : Tcc) (r : Reg) (v : Word) : (c.setG r v).rsc = c.rsc := by
  unfold Tcc.setG; split <;> rfl
@[simp] theorem Tcc.setP_rsc (c : Tcc) (p : PReg) (v : Bool) : (c.setP p v).rsc = c.rsc := by
  unfold Tcc.setP; split <;> rfl
@[simp] theorem Tcc.setG_spillb (c : Tcc) (r : Reg) (v : Word) : (c.setG r v).spillb = c.spillb := by
  unfold Tcc.setG; split <;> rfl
@[simp] theorem Tcc.setP_spillb (c : Tcc) (p : PReg) (v : Bool) : (c.setP p v).spillb = c.spillb := by
  unfold Tcc.setP; split <;> rfl
@[simp] theorem Tcc.setG_atM (c : Tcc) (r : Reg) (v : Word) : (c.setG r v).atM = c.atM := by
  unfold Tcc.setG; split <;> rfl
@[simp] theorem Tcc.setP_atM (c : Tcc) (p : PReg) (v : Bool) : (c.setP p v).atM = c.atM := by
  unfold Tcc.setP; split <;> rfl
@[simp] theorem Tcc.setG_intrap (c : Tcc) (r : Reg) (v : Word) : (c.setG r v).intrap = c.intrap := by
  unfold Tcc.setG; split <;> rfl
@[simp] theorem Tcc.setP_intrap (c : Tcc) (p : PReg) (v : Bool) : (c.setP p v).intrap = c.intrap := by
  unfold Tcc.setP; split <;> rfl
@[simp] theorem Tcc.setG_trap (c : Tcc) (r : Reg) (v : Word) : (c.setG r v).trap = c.trap := by
  unfold Tcc.setG; split <;> rfl
@[simp] theorem Tcc.setP_trap (c : Tcc) (p : PReg) (v : Bool) : (c.setP p v).trap = c.trap := by
  unfold Tcc.setP; split <;> rfl
@[simp] theorem Tcc.setG_inj (c : Tcc) (r : Reg) (v : Word) : (c.setG r v).inj = c.inj := by
  unfold Tcc.setG; split <;> rfl
@[simp] theorem Tcc.setP_inj (c : Tcc) (p : PReg) (v : Bool) : (c.setP p v).inj = c.inj := by
  unfold Tcc.setP; split <;> rfl
@[simp] theorem Tcc.setG_arrived (c : Tcc) (r : Reg) (v : Word) : (c.setG r v).arrived = c.arrived := by
  unfold Tcc.setG; split <;> rfl
@[simp] theorem Tcc.setP_arrived (c : Tcc) (p : PReg) (v : Bool) : (c.setP p v).arrived = c.arrived := by
  unfold Tcc.setP; split <;> rfl
@[simp] theorem Tcc.setG_latches (c : Tcc) (r : Reg) (v : Word) : (c.setG r v).latches = c.latches := by
  unfold Tcc.setG; split <;> rfl
@[simp] theorem Tcc.setP_latches (c : Tcc) (p : PReg) (v : Bool) : (c.setP p v).latches = c.latches := by
  unfold Tcc.setP; split <;> rfl
@[simp] theorem Tcc.setG_waiting (c : Tcc) (r : Reg) (v : Word) : (c.setG r v).waiting = c.waiting := by
  unfold Tcc.setG; split <;> rfl
@[simp] theorem Tcc.setP_waiting (c : Tcc) (p : PReg) (v : Bool) : (c.setP p v).waiting = c.waiting := by
  unfold Tcc.setP; split <;> rfl
@[simp] theorem Tcc.setG_obj (c : Tcc) (r : Reg) (v : Word) : (c.setG r v).obj = c.obj := by
  unfold Tcc.setG; split <;> rfl
@[simp] theorem Tcc.setP_obj (c : Tcc) (p : PReg) (v : Bool) : (c.setP p v).obj = c.obj := by
  unfold Tcc.setP; split <;> rfl
@[simp] theorem Tcc.setG_far (c : Tcc) (r : Reg) (v : Word) : (c.setG r v).far = c.far := by
  unfold Tcc.setG; split <;> rfl
@[simp] theorem Tcc.setG_ffar (c : Tcc) (r : Reg) (v : Word) : (c.setG r v).ffar = c.ffar := by
  unfold Tcc.setG; split <;> rfl
@[simp] theorem Tcc.setP_far (c : Tcc) (p : PReg) (v : Bool) : (c.setP p v).far = c.far := by
  unfold Tcc.setP; split <;> rfl
@[simp] theorem Tcc.setP_ffar (c : Tcc) (p : PReg) (v : Bool) : (c.setP p v).ffar = c.ffar := by
  unfold Tcc.setP; split <;> rfl
@[simp] theorem Tcc.setG_ibuf (c : Tcc) (r : Reg) (v : Word) : (c.setG r v).ibuf = c.ibuf := by
  unfold Tcc.setG; split <;> rfl
@[simp] theorem Tcc.setP_ibuf (c : Tcc) (p : PReg) (v : Bool) : (c.setP p v).ibuf = c.ibuf := by
  unfold Tcc.setP; split <;> rfl
@[simp] theorem Tcc.setG_stopped (c : Tcc) (r : Reg) (v : Word) : (c.setG r v).stopped = c.stopped := by
  unfold Tcc.setG; split <;> rfl
@[simp] theorem Tcc.setP_stopped (c : Tcc) (p : PReg) (v : Bool) : (c.setP p v).stopped = c.stopped := by
  unfold Tcc.setP; split <;> rfl
@[simp] theorem Tcc.setG_stepLeft (c : Tcc) (r : Reg) (v : Word) : (c.setG r v).stepLeft = c.stepLeft := by
  unfold Tcc.setG; split <;> rfl
@[simp] theorem Tcc.setP_stepLeft (c : Tcc) (p : PReg) (v : Bool) : (c.setP p v).stepLeft = c.stepLeft := by
  unfold Tcc.setP; split <;> rfl
@[simp] theorem Tcc.setG_pend (c : Tcc) (r : Reg) (v : Word) : (c.setG r v).pend = c.pend := by
  unfold Tcc.setG; split <;> rfl
@[simp] theorem Tcc.setP_pend (c : Tcc) (p : PReg) (v : Bool) : (c.setP p v).pend = c.pend := by
  unfold Tcc.setP; split <;> rfl

@[simp] theorem Tcc.g_zero (c : Tcc) : c.g 0 = 0 := rfl

@[simp] theorem Tcc.pr_zero (c : Tcc) : c.pr 0 = true := rfl

@[simp] theorem Tcc.setG_zero (c : Tcc) (v : Word) : c.setG 0 v = c := rfl

@[simp] theorem Tcc.setP_zero (c : Tcc) (v : Bool) : c.setP 0 v = c := rfl

theorem Tcc.g_setG_same (c : Tcc) (r : Reg) (v : Word) (h : r ≠ 0) : (c.setG r v).g r = v := by
  unfold Tcc.g Tcc.setG
  rw [if_neg h, if_neg h]
  simp

theorem Tcc.g_setG_other (c : Tcc) (r q : Reg) (v : Word) (h : q ≠ r) : (c.setG r v).g q = c.g q := by
  unfold Tcc.setG Tcc.g
  split
  · rfl
  · split
    · rfl
    · have hn : r.toNat ≠ q.toNat := fun e => h (BitVec.eq_of_toNat_eq e.symm)
      simp [hn]

/-! ### Other keyed parts -/

@[simp] theorem State.lqueue_setLqueue_same (s : State) (n : Nat) (q : LQueue) : (s.setLqueue n q).lqueue n = q := by
  simp [State.lqueue, State.setLqueue]

@[simp] theorem State.opr_setOpr_same (s : State) (r : Nat) (o : Opr) : (s.setOpr r o).opr r = o := by
  simp [State.opr, State.setOpr]

@[simp] theorem State.port_setPort_same (s : State) (n : Nat) (p : Port) : (s.setPort n p).port n = p := by
  simp [State.port, State.setPort]

@[simp] theorem State.setLqueue_mem (s : State) (n : Nat) (q : LQueue) : (s.setLqueue n q).mem = s.mem := rfl
@[simp] theorem State.setLqueue_tiles (s : State) (n : Nat) (q : LQueue) : (s.setLqueue n q).tiles = s.tiles := rfl
@[simp] theorem State.setLqueue_cores (s : State) (n : Nat) (q : LQueue) : (s.setLqueue n q).cores = s.cores := rfl
@[simp] theorem State.setLqueue_who (s : State) (n : Nat) (q : LQueue) : (s.setLqueue n q).who = s.who := rfl
@[simp] theorem State.setLqueue_agenda (s : State) (n : Nat) (q : LQueue) : (s.setLqueue n q).agenda = s.agenda := rfl
@[simp] theorem State.setLqueue_bedt (s : State) (n : Nat) (q : LQueue) : (s.setLqueue n q).bedt = s.bedt := rfl
@[simp] theorem State.setLqueue_blocks (s : State) (n : Nat) (q : LQueue) : (s.setLqueue n q).blocks = s.blocks := rfl
@[simp] theorem State.setLqueue_htlb (s : State) (n : Nat) (q : LQueue) : (s.setLqueue n q).htlb = s.htlb := rfl
@[simp] theorem State.setLqueue_hfar (s : State) (n : Nat) (q : LQueue) : (s.setLqueue n q).hfar = s.hfar := rfl
@[simp] theorem State.setLqueue_launches (s : State) (n : Nat) (q : LQueue) : (s.setLqueue n q).launches = s.launches := rfl
@[simp] theorem State.setLqueue_nextLaunch (s : State) (n : Nat) (q : LQueue) : (s.setLqueue n q).nextLaunch = s.nextLaunch := rfl
@[simp] theorem State.setLqueue_rrQueue (s : State) (n : Nat) (q : LQueue) : (s.setLqueue n q).rrQueue = s.rrQueue := rfl
@[simp] theorem State.setLqueue_reading (s : State) (n : Nat) (q : LQueue) : (s.setLqueue n q).reading = s.reading := rfl
@[simp] theorem State.setLqueue_reads (s : State) (n : Nat) (q : LQueue) : (s.setLqueue n q).reads = s.reads := rfl
@[simp] theorem State.setLqueue_oprs (s : State) (n : Nat) (q : LQueue) : (s.setLqueue n q).oprs = s.oprs := rfl
@[simp] theorem State.setLqueue_gov (s : State) (n : Nat) (q : LQueue) : (s.setLqueue n q).gov = s.gov := rfl
@[simp] theorem State.setLqueue_objs (s : State) (n : Nat) (q : LQueue) : (s.setLqueue n q).objs = s.objs := rfl
@[simp] theorem State.setLqueue_objstat (s : State) (n : Nat) (q : LQueue) : (s.setLqueue n q).objstat = s.objstat := rfl
@[simp] theorem State.setLqueue_net (s : State) (n : Nat) (q : LQueue) : (s.setLqueue n q).net = s.net := rfl
@[simp] theorem State.setLqueue_nextRid (s : State) (n : Nat) (q : LQueue) : (s.setLqueue n q).nextRid = s.nextRid := rfl
@[simp] theorem State.setLqueue_slotTabs (s : State) (n : Nat) (q : LQueue) : (s.setLqueue n q).slotTabs = s.slotTabs := rfl
@[simp] theorem State.setLqueue_linkDown (s : State) (n : Nat) (q : LQueue) : (s.setLqueue n q).linkDown = s.linkDown := rfl
@[simp] theorem State.setLqueue_linkFails (s : State) (n : Nat) (q : LQueue) : (s.setLqueue n q).linkFails = s.linkFails := rfl
@[simp] theorem State.setLqueue_ports (s : State) (n : Nat) (q : LQueue) : (s.setLqueue n q).ports = s.ports := rfl
@[simp] theorem State.setLqueue_dead (s : State) (n : Nat) (q : LQueue) : (s.setLqueue n q).dead = s.dead := rfl
@[simp] theorem State.setLqueue_routes (s : State) (n : Nat) (q : LQueue) : (s.setLqueue n q).routes = s.routes := rfl
@[simp] theorem State.setLqueue_ftmo (s : State) (n : Nat) (q : LQueue) : (s.setLqueue n q).ftmo = s.ftmo := rfl
@[simp] theorem State.setLqueue_logs (s : State) (n : Nat) (q : LQueue) : (s.setLqueue n q).logs = s.logs := rfl
@[simp] theorem State.setLqueue_windows (s : State) (n : Nat) (q : LQueue) : (s.setLqueue n q).windows = s.windows := rfl
@[simp] theorem State.setLqueue_scrubs (s : State) (n : Nat) (q : LQueue) : (s.setLqueue n q).scrubs = s.scrubs := rfl
@[simp] theorem State.setLqueue_bad (s : State) (n : Nat) (q : LQueue) : (s.setLqueue n q).bad = s.bad := rfl
@[simp] theorem State.setLqueue_armed (s : State) (n : Nat) (q : LQueue) : (s.setLqueue n q).armed = s.armed := rfl
@[simp] theorem State.setLqueue_ring (s : State) (n : Nat) (q : LQueue) : (s.setLqueue n q).ring = s.ring := rfl
@[simp] theorem State.setLqueue_suspects (s : State) (n : Nat) (q : LQueue) : (s.setLqueue n q).suspects = s.suspects := rfl
@[simp] theorem State.setLqueue_diesOut (s : State) (n : Nat) (q : LQueue) : (s.setLqueue n q).diesOut = s.diesOut := rfl
@[simp] theorem State.setLqueue_retired (s : State) (n : Nat) (q : LQueue) : (s.setLqueue n q).retired = s.retired := rfl
@[simp] theorem State.setLqueue_segsFree (s : State) (n : Nat) (q : LQueue) : (s.setLqueue n q).segsFree = s.segsFree := rfl
@[simp] theorem State.setLqueue_patterns (s : State) (n : Nat) (q : LQueue) : (s.setLqueue n q).patterns = s.patterns := rfl
@[simp] theorem State.setLqueue_reshard0 (s : State) (n : Nat) (q : LQueue) : (s.setLqueue n q).reshard0 = s.reshard0 := rfl
@[simp] theorem State.setLqueue_reshard1 (s : State) (n : Nat) (q : LQueue) : (s.setLqueue n q).reshard1 = s.reshard1 := rfl
@[simp] theorem State.setLqueue_pr (s : State) (n : Nat) (q : LQueue) : (s.setLqueue n q).pr = s.pr := rfl
@[simp] theorem State.setLqueue_fw (s : State) (n : Nat) (q : LQueue) : (s.setLqueue n q).fw = s.fw := rfl
@[simp] theorem State.setLqueue_mbox (s : State) (n : Nat) (q : LQueue) : (s.setLqueue n q).mbox = s.mbox := rfl
@[simp] theorem State.setLqueue_trace (s : State) (n : Nat) (q : LQueue) : (s.setLqueue n q).trace = s.trace := rfl
@[simp] theorem State.setLqueue_free (s : State) (n : Nat) (q : LQueue) : (s.setLqueue n q).free = s.free := rfl
@[simp] theorem State.setOpr_mem (s : State) (n : Nat) (q : Opr) : (s.setOpr n q).mem = s.mem := rfl
@[simp] theorem State.setOpr_tiles (s : State) (n : Nat) (q : Opr) : (s.setOpr n q).tiles = s.tiles := rfl
@[simp] theorem State.setOpr_cores (s : State) (n : Nat) (q : Opr) : (s.setOpr n q).cores = s.cores := rfl
@[simp] theorem State.setOpr_who (s : State) (n : Nat) (q : Opr) : (s.setOpr n q).who = s.who := rfl
@[simp] theorem State.setOpr_agenda (s : State) (n : Nat) (q : Opr) : (s.setOpr n q).agenda = s.agenda := rfl
@[simp] theorem State.setOpr_bedt (s : State) (n : Nat) (q : Opr) : (s.setOpr n q).bedt = s.bedt := rfl
@[simp] theorem State.setOpr_blocks (s : State) (n : Nat) (q : Opr) : (s.setOpr n q).blocks = s.blocks := rfl
@[simp] theorem State.setOpr_htlb (s : State) (n : Nat) (q : Opr) : (s.setOpr n q).htlb = s.htlb := rfl
@[simp] theorem State.setOpr_hfar (s : State) (n : Nat) (q : Opr) : (s.setOpr n q).hfar = s.hfar := rfl
@[simp] theorem State.setOpr_lqs (s : State) (n : Nat) (q : Opr) : (s.setOpr n q).lqs = s.lqs := rfl
@[simp] theorem State.setOpr_launches (s : State) (n : Nat) (q : Opr) : (s.setOpr n q).launches = s.launches := rfl
@[simp] theorem State.setOpr_nextLaunch (s : State) (n : Nat) (q : Opr) : (s.setOpr n q).nextLaunch = s.nextLaunch := rfl
@[simp] theorem State.setOpr_rrQueue (s : State) (n : Nat) (q : Opr) : (s.setOpr n q).rrQueue = s.rrQueue := rfl
@[simp] theorem State.setOpr_reading (s : State) (n : Nat) (q : Opr) : (s.setOpr n q).reading = s.reading := rfl
@[simp] theorem State.setOpr_reads (s : State) (n : Nat) (q : Opr) : (s.setOpr n q).reads = s.reads := rfl
@[simp] theorem State.setOpr_gov (s : State) (n : Nat) (q : Opr) : (s.setOpr n q).gov = s.gov := rfl
@[simp] theorem State.setOpr_objs (s : State) (n : Nat) (q : Opr) : (s.setOpr n q).objs = s.objs := rfl
@[simp] theorem State.setOpr_objstat (s : State) (n : Nat) (q : Opr) : (s.setOpr n q).objstat = s.objstat := rfl
@[simp] theorem State.setOpr_net (s : State) (n : Nat) (q : Opr) : (s.setOpr n q).net = s.net := rfl
@[simp] theorem State.setOpr_nextRid (s : State) (n : Nat) (q : Opr) : (s.setOpr n q).nextRid = s.nextRid := rfl
@[simp] theorem State.setOpr_slotTabs (s : State) (n : Nat) (q : Opr) : (s.setOpr n q).slotTabs = s.slotTabs := rfl
@[simp] theorem State.setOpr_linkDown (s : State) (n : Nat) (q : Opr) : (s.setOpr n q).linkDown = s.linkDown := rfl
@[simp] theorem State.setOpr_linkFails (s : State) (n : Nat) (q : Opr) : (s.setOpr n q).linkFails = s.linkFails := rfl
@[simp] theorem State.setOpr_ports (s : State) (n : Nat) (q : Opr) : (s.setOpr n q).ports = s.ports := rfl
@[simp] theorem State.setOpr_dead (s : State) (n : Nat) (q : Opr) : (s.setOpr n q).dead = s.dead := rfl
@[simp] theorem State.setOpr_routes (s : State) (n : Nat) (q : Opr) : (s.setOpr n q).routes = s.routes := rfl
@[simp] theorem State.setOpr_ftmo (s : State) (n : Nat) (q : Opr) : (s.setOpr n q).ftmo = s.ftmo := rfl
@[simp] theorem State.setOpr_logs (s : State) (n : Nat) (q : Opr) : (s.setOpr n q).logs = s.logs := rfl
@[simp] theorem State.setOpr_windows (s : State) (n : Nat) (q : Opr) : (s.setOpr n q).windows = s.windows := rfl
@[simp] theorem State.setOpr_scrubs (s : State) (n : Nat) (q : Opr) : (s.setOpr n q).scrubs = s.scrubs := rfl
@[simp] theorem State.setOpr_bad (s : State) (n : Nat) (q : Opr) : (s.setOpr n q).bad = s.bad := rfl
@[simp] theorem State.setOpr_armed (s : State) (n : Nat) (q : Opr) : (s.setOpr n q).armed = s.armed := rfl
@[simp] theorem State.setOpr_ring (s : State) (n : Nat) (q : Opr) : (s.setOpr n q).ring = s.ring := rfl
@[simp] theorem State.setOpr_suspects (s : State) (n : Nat) (q : Opr) : (s.setOpr n q).suspects = s.suspects := rfl
@[simp] theorem State.setOpr_diesOut (s : State) (n : Nat) (q : Opr) : (s.setOpr n q).diesOut = s.diesOut := rfl
@[simp] theorem State.setOpr_retired (s : State) (n : Nat) (q : Opr) : (s.setOpr n q).retired = s.retired := rfl
@[simp] theorem State.setOpr_segsFree (s : State) (n : Nat) (q : Opr) : (s.setOpr n q).segsFree = s.segsFree := rfl
@[simp] theorem State.setOpr_patterns (s : State) (n : Nat) (q : Opr) : (s.setOpr n q).patterns = s.patterns := rfl
@[simp] theorem State.setOpr_reshard0 (s : State) (n : Nat) (q : Opr) : (s.setOpr n q).reshard0 = s.reshard0 := rfl
@[simp] theorem State.setOpr_reshard1 (s : State) (n : Nat) (q : Opr) : (s.setOpr n q).reshard1 = s.reshard1 := rfl
@[simp] theorem State.setOpr_pr (s : State) (n : Nat) (q : Opr) : (s.setOpr n q).pr = s.pr := rfl
@[simp] theorem State.setOpr_fw (s : State) (n : Nat) (q : Opr) : (s.setOpr n q).fw = s.fw := rfl
@[simp] theorem State.setOpr_mbox (s : State) (n : Nat) (q : Opr) : (s.setOpr n q).mbox = s.mbox := rfl
@[simp] theorem State.setOpr_trace (s : State) (n : Nat) (q : Opr) : (s.setOpr n q).trace = s.trace := rfl
@[simp] theorem State.setOpr_free (s : State) (n : Nat) (q : Opr) : (s.setOpr n q).free = s.free := rfl
@[simp] theorem State.setPort_mem (s : State) (n : Nat) (q : Port) : (s.setPort n q).mem = s.mem := rfl
@[simp] theorem State.setPort_tiles (s : State) (n : Nat) (q : Port) : (s.setPort n q).tiles = s.tiles := rfl
@[simp] theorem State.setPort_cores (s : State) (n : Nat) (q : Port) : (s.setPort n q).cores = s.cores := rfl
@[simp] theorem State.setPort_who (s : State) (n : Nat) (q : Port) : (s.setPort n q).who = s.who := rfl
@[simp] theorem State.setPort_agenda (s : State) (n : Nat) (q : Port) : (s.setPort n q).agenda = s.agenda := rfl
@[simp] theorem State.setPort_bedt (s : State) (n : Nat) (q : Port) : (s.setPort n q).bedt = s.bedt := rfl
@[simp] theorem State.setPort_blocks (s : State) (n : Nat) (q : Port) : (s.setPort n q).blocks = s.blocks := rfl
@[simp] theorem State.setPort_htlb (s : State) (n : Nat) (q : Port) : (s.setPort n q).htlb = s.htlb := rfl
@[simp] theorem State.setPort_hfar (s : State) (n : Nat) (q : Port) : (s.setPort n q).hfar = s.hfar := rfl
@[simp] theorem State.setPort_lqs (s : State) (n : Nat) (q : Port) : (s.setPort n q).lqs = s.lqs := rfl
@[simp] theorem State.setPort_launches (s : State) (n : Nat) (q : Port) : (s.setPort n q).launches = s.launches := rfl
@[simp] theorem State.setPort_nextLaunch (s : State) (n : Nat) (q : Port) : (s.setPort n q).nextLaunch = s.nextLaunch := rfl
@[simp] theorem State.setPort_rrQueue (s : State) (n : Nat) (q : Port) : (s.setPort n q).rrQueue = s.rrQueue := rfl
@[simp] theorem State.setPort_reading (s : State) (n : Nat) (q : Port) : (s.setPort n q).reading = s.reading := rfl
@[simp] theorem State.setPort_reads (s : State) (n : Nat) (q : Port) : (s.setPort n q).reads = s.reads := rfl
@[simp] theorem State.setPort_oprs (s : State) (n : Nat) (q : Port) : (s.setPort n q).oprs = s.oprs := rfl
@[simp] theorem State.setPort_gov (s : State) (n : Nat) (q : Port) : (s.setPort n q).gov = s.gov := rfl
@[simp] theorem State.setPort_objs (s : State) (n : Nat) (q : Port) : (s.setPort n q).objs = s.objs := rfl
@[simp] theorem State.setPort_objstat (s : State) (n : Nat) (q : Port) : (s.setPort n q).objstat = s.objstat := rfl
@[simp] theorem State.setPort_net (s : State) (n : Nat) (q : Port) : (s.setPort n q).net = s.net := rfl
@[simp] theorem State.setPort_nextRid (s : State) (n : Nat) (q : Port) : (s.setPort n q).nextRid = s.nextRid := rfl
@[simp] theorem State.setPort_slotTabs (s : State) (n : Nat) (q : Port) : (s.setPort n q).slotTabs = s.slotTabs := rfl
@[simp] theorem State.setPort_linkDown (s : State) (n : Nat) (q : Port) : (s.setPort n q).linkDown = s.linkDown := rfl
@[simp] theorem State.setPort_linkFails (s : State) (n : Nat) (q : Port) : (s.setPort n q).linkFails = s.linkFails := rfl
@[simp] theorem State.setPort_dead (s : State) (n : Nat) (q : Port) : (s.setPort n q).dead = s.dead := rfl
@[simp] theorem State.setPort_routes (s : State) (n : Nat) (q : Port) : (s.setPort n q).routes = s.routes := rfl
@[simp] theorem State.setPort_ftmo (s : State) (n : Nat) (q : Port) : (s.setPort n q).ftmo = s.ftmo := rfl
@[simp] theorem State.setPort_logs (s : State) (n : Nat) (q : Port) : (s.setPort n q).logs = s.logs := rfl
@[simp] theorem State.setPort_windows (s : State) (n : Nat) (q : Port) : (s.setPort n q).windows = s.windows := rfl
@[simp] theorem State.setPort_scrubs (s : State) (n : Nat) (q : Port) : (s.setPort n q).scrubs = s.scrubs := rfl
@[simp] theorem State.setPort_bad (s : State) (n : Nat) (q : Port) : (s.setPort n q).bad = s.bad := rfl
@[simp] theorem State.setPort_armed (s : State) (n : Nat) (q : Port) : (s.setPort n q).armed = s.armed := rfl
@[simp] theorem State.setPort_ring (s : State) (n : Nat) (q : Port) : (s.setPort n q).ring = s.ring := rfl
@[simp] theorem State.setPort_suspects (s : State) (n : Nat) (q : Port) : (s.setPort n q).suspects = s.suspects := rfl
@[simp] theorem State.setPort_diesOut (s : State) (n : Nat) (q : Port) : (s.setPort n q).diesOut = s.diesOut := rfl
@[simp] theorem State.setPort_retired (s : State) (n : Nat) (q : Port) : (s.setPort n q).retired = s.retired := rfl
@[simp] theorem State.setPort_segsFree (s : State) (n : Nat) (q : Port) : (s.setPort n q).segsFree = s.segsFree := rfl
@[simp] theorem State.setPort_patterns (s : State) (n : Nat) (q : Port) : (s.setPort n q).patterns = s.patterns := rfl
@[simp] theorem State.setPort_reshard0 (s : State) (n : Nat) (q : Port) : (s.setPort n q).reshard0 = s.reshard0 := rfl
@[simp] theorem State.setPort_reshard1 (s : State) (n : Nat) (q : Port) : (s.setPort n q).reshard1 = s.reshard1 := rfl
@[simp] theorem State.setPort_pr (s : State) (n : Nat) (q : Port) : (s.setPort n q).pr = s.pr := rfl
@[simp] theorem State.setPort_fw (s : State) (n : Nat) (q : Port) : (s.setPort n q).fw = s.fw := rfl
@[simp] theorem State.setPort_mbox (s : State) (n : Nat) (q : Port) : (s.setPort n q).mbox = s.mbox := rfl
@[simp] theorem State.setPort_trace (s : State) (n : Nat) (q : Port) : (s.setPort n q).trace = s.trace := rfl
@[simp] theorem State.setPort_free (s : State) (n : Nat) (q : Port) : (s.setPort n q).free = s.free := rfl

end Sys2Proof.Machine
end

