-- ==== Sys2Proof/Laws/Ops.lean ====
section
/-! SUPPORT. The shared operations of the control cores: what reading after writing a core gives, and what `run`, `retire`
and the loop boundaries do at a plain instruction. -/

namespace Sys2Proof.Machine

/-! ### Keyed lists and tiles -/

@[simp] theorem AMap.put_put {α : Type} (m : AMap α) (k : Nat) (v w : α) : AMap.put (AMap.put m k v) k w = AMap.put m k w := by
  induction m with
  | nil => simp [AMap.put]
  | cons e r ih =>
    obtain ⟨k', v'⟩ := e
    by_cases h : k' = k
    · simp [AMap.put, h]
    · simp [AMap.put, h, ih]

@[simp] theorem State.setTile_setTile (s : State) (g : Nat) (t u : Tile) : (s.setTile g t).setTile g u = s.setTile g u := by
  simp [State.setTile]

theorem State.updTile_updTile (s : State) (g : Nat) (f h : Tile → Tile) :
    (s.updTile g f).updTile g h = s.updTile g (fun t => h (f t)) := by
  simp [State.updTile]

/-! ### The executing core -/

theorem State.cur_updCur (s : State) (f : Tcc → Tcc) (h : s.hasCore) : (s.updCur f).cur = f s.cur := s.cur_setCur _ h

/-- The last of two writes of a core is what stands. -/
@[simp] theorem State.setCur_setCur (s : State) (c d : Tcc) : (s.setCur c).setCur d = s.setCur d := by
  unfold State.setCur
  rw [State.setTcc_who]
  cases s.who with
  | tile g => simp [State.setTcc]
  | core n => simp only [State.setTcc]; split <;> simp
  | reshard n => rfl
  | headstock => rfl

theorem State.updCur_updCur (s : State) (f k : Tcc → Tcc) (h : s.hasCore) :
    (s.updCur f).updCur k = s.updCur (fun c => k (f c)) := by
  rw [State.updCur, State.cur_updCur s f h, State.updCur, State.setCur_setCur]
  rfl

theorem State.setCur_updCur (s : State) (c : Tcc) (k : Tcc → Tcc) (h : s.hasCore) : (s.setCur c).updCur k = s.setCur (k c) := by
  rw [State.updCur, State.cur_setCur s c h, State.setCur_setCur]

@[simp] theorem State.updCur_hasCore (s : State) (f : Tcc → Tcc) : (s.updCur f).hasCore ↔ s.hasCore := by simp [State.hasCore]

@[simp] theorem State.setCur_hasCore (s : State) (c : Tcc) : (s.setCur c).hasCore ↔ s.hasCore := by simp [State.hasCore]

@[simp] theorem State.updCur_onCore (s : State) (f : Tcc → Tcc) : (s.updCur f).onCore = s.onCore := by simp [State.onCore]

@[simp] theorem State.setCur_onCore (s : State) (c : Tcc) : (s.setCur c).onCore = s.onCore := by simp [State.onCore]

@[simp] theorem State.updCur_gid (s : State) (f : Tcc → Tcc) : (s.updCur f).gid = s.gid := by simp [State.gid]

@[simp] theorem State.setCur_gid (s : State) (c : Tcc) : (s.setCur c).gid = s.gid := by simp [State.gid]

/-- The image that runs depends on IMG of the core alone. -/
theorem State.image_setCur (s : State) (c : Tcc) (h : c.img = s.cur.img) : (s.setCur c).image = s.image := by
  unfold State.setCur State.image State.launchOf
  rw [State.setTcc_who]
  unfold State.cur at h
  revert h
  cases s.who with
  | tile g =>
    intro h
    simp only [State.tccOf] at h
    simp [State.setTcc, h]
  | core n => intro _; simp only [State.setTcc]; split <;> rfl
  | reshard n => intro _; rfl
  | headstock => intro _; rfl

/-! ### Loop boundaries (R147) -/

theorem Tcc.boundary_on (c : Tcc) (k n : Nat) (a : CodeAddr) (h : c.intrap = true ∨ (c.loop n).lc = 0 ∨ (c.loop n).ae ≠ a) :
    c.boundary k n a = .on c := by
  unfold Tcc.boundary
  rcases h with h | h | h
  · simp [h]
  · simp [h]
  · simp [h]

/-- No boundary falls on an instruction at which neither set ends. -/
theorem Tcc.boundaries_none (c : Tcc) (k : Nat) (a : CodeAddr)
    (h : c.intrap = true ∨ ((c.loop0.lc = 0 ∨ c.loop0.ae ≠ a) ∧ (c.loop1.lc = 0 ∨ c.loop1.ae ≠ a))) :
    c.boundaries k a = .inr (c, none) := by
  have h1 : c.boundary k 1 a = .on c := by
    apply Tcc.boundary_on
    rcases h with h | ⟨_, h⟩
    · exact .inl h
    · exact .inr (by simpa [Tcc.loop] using h)
  have h0 : c.boundary k 0 a = .on c := by
    apply Tcc.boundary_on
    rcases h with h | ⟨h, _⟩
    · exact .inl h
    · exact .inr (by simpa [Tcc.loop] using h)
  simp [Tcc.boundaries, h1, h0]

/-! ### Retiring -/

theorem State.countRetired_plain (s : State) (h : s.cur.stepLeft = none) :
    s.countRetired = if s.onCore then s else s.updMe (fun t => t.bump 134) := by
  unfold State.countRetired
  split
  · rfl
  · rename_i hc
    have e : (s.updMe (fun t => t.bump 134)).cur.stepLeft = none := by
      cases hw : s.who with
      | tile g =>
        simp only [State.cur, State.tccOf, hw] at h
        simpa [State.updMe, State.gid, State.cur, State.tccOf, hw, Tile.bump] using h
      | core n => simp [State.onCore, hw] at hc
      | reshard n => simp [State.onCore, hw] at hc
      | headstock => simp [State.onCore, hw] at hc
    simp only [e]

/-- A plain instruction retires to its successor. -/
theorem State.retire_seq_plain (s : State) (a : CodeAddr) (h : s.plainAt a) :
    (s.updCur (fun c => { c with far := [], ffar := [] })).retire .seq = s.goneTo a := by
  obtain ⟨hc, ⟨hs, hi⟩, hb, hd⟩ := h
  unfold State.goneTo State.leftAt
  unfold State.retire
  simp only
  rw [State.updCur_updCur s _ _ hc]
  have e : (s.updCur (fun c => { c with far := [], ffar := [], pfx := none, pfxp := false, waiting := false })).cur =
      { s.cur with far := [], ffar := [], pfx := none, pfxp := false, waiting := false } := State.cur_updCur s _ hc
  simp only [e]
  have hn (n : Nat) : ({ s.cur with far := [], ffar := [], pfx := none, pfxp := false, waiting := false } : Tcc).boundaries n s.cur.pc =
      .inr ({ s.cur with far := [], ffar := [], pfx := none, pfxp := false, waiting := false }, none) := Tcc.boundaries_none _ _ _ hb
  simp only [hn]
  unfold State.fallOn
  rw [State.updCur, State.setCur_setCur, State.cur_setCur s _ hc]
  simp only [hs]
  rw [State.image_setCur s _ (by rfl)]
  rw [if_neg (by omega), State.setCur_setCur, State.countRetired_plain _ (by rw [State.cur_setCur s _ hc]; exact hd)]
  simp only [State.updCur, hs, State.setCur_onCore, Tcc.sameLine]

/-- A transfer of control retires to its target. -/
theorem State.retire_goto_plain (s : State) (a : CodeAddr) (hc : s.hasCore) (hd : s.cur.stepLeft = none) :
    (s.updCur (fun c => { c with far := [], ffar := [] })).retire (.goto a) = s.jumpedTo a := by
  unfold State.retire
  simp only
  rw [State.updCur_updCur s _ _ hc, State.countRetired_plain _ (by rw [State.cur_updCur s _ hc]; exact hd)]
  simp [State.jumpedTo, State.leftAt]

/-- Changing what the stream does not look at keeps the instruction in its plain place. -/
theorem State.plainAt_updCur (s : State) (f : Tcc → Tcc) (a : CodeAddr) (h : s.plainAt a)
    (hf : ∀ c, (f c).succ = c.succ ∧ (f c).img = c.img ∧ (f c).intrap = c.intrap ∧ (f c).loop0 = c.loop0 ∧
      (f c).loop1 = c.loop1 ∧ (f c).pc = c.pc ∧ (f c).stepLeft = c.stepLeft) : (s.updCur f).plainAt a := by
  obtain ⟨hc, ⟨hs, hi⟩, hb, hd⟩ := h
  obtain ⟨h1, h2, h3, h4, h5, h6, h7⟩ := hf s.cur
  have e := State.cur_updCur s f hc
  refine ⟨by simpa using hc, ⟨?_, ?_⟩, ?_, ?_⟩
  · rw [e, h1, hs]
  · rw [State.updCur, State.image_setCur s _ h2]; exact hi
  · unfold State.noBoundary at *
    rw [e, h3, h4, h5, h6]
    exact hb
  · rw [e, h7, hd]

theorem State.plainAt_setG (s : State) (d : Reg) (v : Word) (a : CodeAddr) (h : s.plainAt a) : (s.setG d v).plainAt a := by
  apply State.plainAt_updCur s _ a h
  intro c
  unfold Tcc.setG
  split <;> simp

theorem State.plainAt_setP (s : State) (p : PReg) (v : Bool) (a : CodeAddr) (h : s.plainAt a) : (s.setP p v).plainAt a := by
  apply State.plainAt_updCur s _ a h
  intro c
  unfold Tcc.setP
  split <;> simp

/-- An instruction that is done at a plain place goes on at its successor. -/
theorem State.finish_seq (s : State) (a : CodeAddr) (h : s.plainAt a) : s.finish .seq = s.goneTo a := s.retire_seq_plain a h

/-- An instruction that transfers control goes on at its target. -/
theorem State.finish_goto (s : State) (a : CodeAddr) (hc : s.hasCore) (hd : s.cur.stepLeft = none) :
    s.finish (.goto a) = s.jumpedTo a := s.retire_goto_plain a hc hd

/-! ### Running -/

/-- With prefixes it takes, an instruction does what its body says. -/
theorem State.run_ok (s : State) (imx scp : Bool) (body : State → Res Flow) (h : s.pfxOk imx scp) :
    s.run imx scp body = match body s with
      | .ok f s' => .next ((s'.updCur (fun c => { c with far := [], ffar := [] })).retire f)
      | .trap t s' => .next (s'.raise t)
      | .wait s' => .next s'.waitsIn := by
  unfold State.run State.waitsIn
  cases hp : s.cur.pfx with
  | none => cases body s <;> rfl
  | some p =>
    obtain ⟨h1, h2⟩ := h p hp
    have : ((p.imx.isSome && !imx) || (p.scp.isSome && !scp)) = false := by
      cases hi : p.imx.isSome <;> cases hk : p.scp.isSome <;> simp_all
    simp only [this]
    cases body s <;> rfl

/-- With a prefix it does not take, an instruction raises the illegal-instruction trap (R114). -/
theorem State.run_illegal (s : State) (imx scp : Bool) (body : State → Res Flow) (p : Pfx) (hp : s.cur.pfx = some p)
    (h : (p.imx.isSome = true ∧ imx = false) ∨ (p.scp.isSome = true ∧ scp = false)) :
    s.run imx scp body = .next (s.raise trapIllegal) := by
  unfold State.run
  simp only [hp]
  rcases h with ⟨h1, h2⟩ | ⟨h1, h2⟩ <;> simp [h1, h2]

theorem State.pfxOk_none (s : State) (imx scp : Bool) (h : s.cur.pfx = none) : s.pfxOk imx scp := by
  intro p hp
  simp [h] at hp

/-- Every body gives a next state. -/
theorem State.run_next (s : State) (imx scp : Bool) (body : State → Res Flow) : ∃ t, s.run imx scp body = .next t := by
  by_cases h : s.pfxOk imx scp
  · rw [State.run_ok s imx scp body h]
    cases body s <;> exact ⟨_, rfl⟩
  · simp only [State.pfxOk, not_forall, not_and_or] at h
    obtain ⟨p, hp, h⟩ := h
    refine ⟨_, State.run_illegal s imx scp body p hp ?_⟩
    rcases h with ⟨h1, h2⟩ | ⟨h1, h2⟩
    · exact .inl ⟨h1, by simpa using h2⟩
    · exact .inr ⟨h1, by simpa using h2⟩

/-- A push into a region below PENT with room in the pool store adds the record to its pool and changes nothing else (R378). -/
theorem State.pushRec_room (s : State) (k : Nat) (r : Rec) (l : Launch) (x : Region)
    (hl : AMap.find? s.launches k = some l) (hx : l.regions[r.region]? = some x) (he : x.ended = false)
    (hp : l.held r.region < x.pent) (hr : s.storeRoom = true) :
    s.pushRec k r = some { s with launches := AMap.put s.launches k (l.addRec r s.bedt) } := by
  simp [State.pushRec, hl, hx, he, hr, Nat.not_le.mpr hp]

/-- A push is held where the region holds PENT records, or the store is full and the region has no spill area (R201, R378). -/
theorem State.pushRec_held (s : State) (k : Nat) (r : Rec) (l : Launch) (x : Region)
    (hl : AMap.find? s.launches k = some l) (hx : l.regions[r.region]? = some x) (he : x.ended = false)
    (hp : x.pent ≤ l.held r.region ∨ s.storeRoom = false ∧ x.psva = 0) : s.pushRec k r = none := by
  rcases hp with hp | ⟨hr, hv⟩
  · simp [State.pushRec, hl, hx, he, hp]
  · simp [State.pushRec, hl, hx, he, hr, hv, Launch.spillFree]

end Sys2Proof.Machine
end

