-- ==== Sys2Proof/Laws/Alu.lean ====
section
/-! SUPPORT. The forms of the integer and predicate instructions at a plain place: what each shared operation of Alu answers. -/

namespace Sys2Proof.Machine

/-- What an instruction without prefixes computes is what stands at its successor. -/
theorem State.simple_plain (s : State) (f : State → State) (a : CodeAddr) (h : (f s).plainAt a) (hp : s.pfxOk false false) :
    s.simple f = .next ((f s).goneTo a) := by
  unfold State.simple
  rw [State.run_ok _ _ _ _ hp]
  simp only
  rw [State.retire_seq_plain _ a h]

theorem State.alu2_plain (s : State) (d x y : Reg) (f : Word → Word → Word) (a : CodeAddr) (h : s.plainAt a)
    (hp : s.cur.pfx = none) : s.alu2 d x y f = .next ((s.setG d (f (s.g x) (s.g y))).goneTo a) :=
  State.simple_plain s _ a (State.plainAt_setG s _ _ a h) (State.pfxOk_none s _ _ hp)

theorem State.alu1_plain (s : State) (d x : Reg) (f : Word → Word) (a : CodeAddr) (h : s.plainAt a)
    (hp : s.cur.pfx = none) : s.alu1 d x f = .next ((s.setG d (f (s.g x))).goneTo a) :=
  State.simple_plain s _ a (State.plainAt_setG s _ _ a h) (State.pfxOk_none s _ _ hp)

theorem State.setP_plain (s : State) (p : PReg) (f : State → Bool) (a : CodeAddr) (h : s.plainAt a)
    (hp : s.cur.pfx = none) : s.simple (fun s => s.setP p (f s)) = .next ((s.setP p (f s)).goneTo a) :=
  State.simple_plain s _ a (State.plainAt_setP s _ _ a h) (State.pfxOk_none s _ _ hp)

theorem State.cmp2_plain (s : State) (p : PReg) (x y : Reg) (f : Word → Word → Bool) (a : CodeAddr) (h : s.plainAt a)
    (hp : s.cur.pfx = none) : s.cmp2 p x y f = .next ((s.setP p (f (s.g x) (s.g y))).goneTo a) :=
  s.setP_plain p (fun s => f (s.g x) (s.g y)) a h hp

/-- The sign-extended immediate in force. -/
theorem State.simm_eq {n : Nat} (s : State) (x : BitVec n) : s.simm x.toInt = s.immSigned x := by
  unfold State.simm State.immSigned State.imxValue
  cases s.cur.pfx with
  | none => rfl
  | some p => simp only [Option.bind]; cases p.imx <;> rfl

/-- The zero-extended immediate in force. -/
theorem State.zimm_eq {n : Nat} (s : State) (x : BitVec n) : s.zimm x.toNat = s.immZero x := by
  unfold State.zimm State.immZero State.imxValue
  cases s.cur.pfx with
  | none => simp
  | some p => simp only [Option.bind]; cases p.imx <;> simp

theorem decide_toNat_zero {n : Nat} (x : BitVec n) : decide (x.toNat = 0) = decide (x = 0) := by
  simp [BitVec.toNat_eq]

theorem State.runImm_plain {n : Nat} (s t : State) (x : BitVec n) (b : Bool) (body : State → Res Flow) (a : CodeAddr)
    (hb : body s = .ok .seq t) (h : t.plainAt a) (hp : s.pfxOk (decide (x = 0)) b) :
    s.runImm x.toNat b body = .next (t.goneTo a) := by
  unfold State.runImm
  rw [State.run_ok _ _ _ _ (by rw [decide_toNat_zero]; exact hp), hb]
  simp only
  rw [State.retire_seq_plain _ a h]

theorem State.immS_plain (s : State) (d x : Reg) (i : BitVec 16) (f : Word → Word → Word) (a : CodeAddr) (h : s.plainAt a)
    (hp : s.pfxOk (decide (i = 0)) false) : s.immS d x i f = .next ((s.setG d (f (s.g x) (s.immSigned i))).goneTo a) := by
  rw [← State.simm_eq]
  exact State.runImm_plain s _ i false _ a rfl (State.plainAt_setG s _ _ a h) hp

theorem State.immZ_plain (s : State) (d x : Reg) (i : BitVec 16) (f : Word → Word → Word) (a : CodeAddr) (h : s.plainAt a)
    (hp : s.pfxOk (decide (i = 0)) false) : s.immZ d x i f = .next ((s.setG d (f (s.g x) (s.immZero i))).goneTo a) := by
  rw [← State.zimm_eq]
  exact State.runImm_plain s _ i false _ a rfl (State.plainAt_setG s _ _ a h) hp

theorem State.cmpI_plain (s : State) (p : PReg) (x : Reg) (i : BitVec 15) (f : Word → Word → Bool) (a : CodeAddr)
    (h : s.plainAt a) (hp : s.pfxOk (decide (i = 0)) false) :
    s.cmpI p x i f = .next ((s.setP p (f (s.g x) (s.immSigned i))).goneTo a) := by
  rw [← State.simm_eq]
  exact State.runImm_plain s _ i false _ a rfl (State.plainAt_setP s _ _ a h) hp

end Sys2Proof.Machine
end

