-- ==== Sys2Proof/Laws/Bits.lean ====
section
/-! SUPPORT. Byte strings and integers (R7): the little-endian reading and writing undo each other, and a flit's bytes are
what it was built from (R402). -/

namespace Sys2Proof.Machine

@[simp] theorem length_leBytes (n v : Nat) : (leBytes n v).length = n := by
  induction n generalizing v with
  | zero => rfl
  | succ n ih => simp [leBytes, ih]

theorem ofBytes_leBytes (n v : Nat) : ofBytes (leBytes n v) = v % 256 ^ n := by
  induction n generalizing v with
  | zero => simp [leBytes, ofBytes, Nat.mod_one]
  | succ n ih =>
    simp only [leBytes, ofBytes, ih, BitVec.toNat_ofNat]
    rw [pow_succ' 256 n, Nat.mod_mul]

theorem ofBytes_leBytes_lt (n v : Nat) (h : v < 256 ^ n) : ofBytes (leBytes n v) = v := by
  rw [ofBytes_leBytes, Nat.mod_eq_of_lt h]

theorem leBytes_ofBytes (l : List Byte) : leBytes l.length (ofBytes l) = l := by
  induction l with
  | nil => rfl
  | cons b r ih =>
    have hb := b.isLt
    have h1 : (b.toNat + 256 * ofBytes r) / 256 = ofBytes r := by omega
    have h2 : BitVec.ofNat 8 (b.toNat + 256 * ofBytes r) = b := by
      apply BitVec.eq_of_toNat_eq
      rw [BitVec.toNat_ofNat]
      omega
    simp only [List.length_cons, leBytes, ofBytes, h1, h2, ih]

theorem ofBytes_lt (l : List Byte) : ofBytes l < 256 ^ l.length := by
  induction l with
  | nil => simp [ofBytes]
  | cons b r ih =>
    have hb := b.isLt
    simp only [ofBytes, List.length_cons, Nat.pow_succ]
    omega

theorem ofBytes_append (a b : List Byte) : ofBytes (a ++ b) = ofBytes a + 256 ^ a.length * ofBytes b := by
  induction a with
  | nil => simp [ofBytes]
  | cons x r ih =>
    simp only [List.cons_append, ofBytes, ih, List.length_cons, Nat.pow_succ]
    ring

@[simp] theorem Memory.length_getN (m : Memory) (k n : Nat) : (m.getN k n).length = n := by
  induction n generalizing k with
  | zero => rfl
  | succ n ih => simp [Memory.getN, ih]

theorem length_slice (bs : List Byte) (i n : Nat) : (slice bs i n).length = n := by
  simp only [slice, List.length_append, List.length_replicate, List.length_take, List.length_drop]
  omega

/-- The first 120 bytes of a flit (R402). -/
def flitHead (ktype vl seq : Nat) (body : List Byte) : List Byte :=
  leBytes 1 ktype ++ leBytes 1 vl ++ leBytes 2 seq ++ leBytes 2 0 ++ leBytes 2 0 ++ slice body 0 112

theorem length_flitHead (ktype vl seq : Nat) (body : List Byte) : (flitHead ktype vl seq body).length = 120 := by
  simp [flitHead, length_slice]

theorem leBytes_flitOf (ktype vl seq : Nat) (body : List Byte) :
    leBytes 128 (flitOf ktype vl seq body).toNat =
      flitHead ktype vl seq body ++ leBytes 8 (crc64 (flitHead ktype vl seq body)).toNat := by
  have hlen : (flitHead ktype vl seq body ++ leBytes 8 (crc64 (flitHead ktype vl seq body)).toNat).length = 128 := by
    simp [length_flitHead]
  have hlt := ofBytes_lt (flitHead ktype vl seq body ++ leBytes 8 (crc64 (flitHead ktype vl seq body)).toNat)
  rw [hlen] at hlt
  have e : (flitOf ktype vl seq body).toNat =
      ofBytes (flitHead ktype vl seq body ++ leBytes 8 (crc64 (flitHead ktype vl seq body)).toNat) := by
    show (BitVec.ofNat 1024 _).toNat = _
    rw [BitVec.toNat_ofNat]
    exact Nat.mod_eq_of_lt (lt_of_lt_of_eq hlt (by decide +kernel))
  rw [e]
  have := leBytes_ofBytes (flitHead ktype vl seq body ++ leBytes 8 (crc64 (flitHead ktype vl seq body)).toNat)
  rwa [hlen] at this

/-- The CRC of a flit that is sent is the one in its last eight bytes. -/
theorem flitOf_crc (ktype vl seq : Nat) (body : List Byte) :
    let bs := leBytes 128 (flitOf ktype vl seq body).toNat
    (crc64 (bs.take 120)).toNat = ofBytes (bs.drop 120) := by
  have hl := length_flitHead ktype vl seq body
  simp only [leBytes_flitOf]
  rw [List.take_left' hl, List.drop_left' hl, ofBytes_leBytes_lt]
  exact lt_of_lt_of_eq (crc64 _).isLt (by norm_num)

end Sys2Proof.Machine
end

