-- ==== Sys2Proof/Laws/Memory.lean ====
section
/-! SUPPORT. Memory: every operation keeps the canonical form, and a read sees the last write. -/

namespace Sys2Proof.Machine

theorem Memory.wfFrom_mono {m : Memory} {lo hi : Nat} (h : hi ≤ lo) (w : Memory.wfFrom lo m = true) : Memory.wfFrom hi m = true := by
  cases m with
  | nil => rfl
  | cons e r =>
    obtain ⟨a, b⟩ := e
    simp only [Memory.wfFrom, Bool.and_eq_true, decide_eq_true_eq] at *
    exact ⟨⟨by omega, w.1.2⟩, w.2⟩

theorem Memory.set_wfFrom (m : Memory) (lo k : Nat) (v : Byte) (h : lo ≤ k) (w : Memory.wfFrom lo m = true) :
    Memory.wfFrom lo (m.set k v) = true := by
  induction m generalizing lo with
  | nil =>
    by_cases hv : v = 0
    · simp only [Memory.set, if_pos hv, Memory.wfFrom]
    · simp only [Memory.set, if_neg hv, Memory.wfFrom, Bool.and_eq_true, decide_eq_true_eq]
      exact ⟨⟨h, hv⟩, trivial⟩
  | cons e r ih =>
    obtain ⟨a, b⟩ := e
    simp only [Memory.wfFrom, Bool.and_eq_true, decide_eq_true_eq] at w
    simp only [Memory.set]
    split
    · split
      · simp only [Memory.wfFrom, Bool.and_eq_true, decide_eq_true_eq]
        exact w
      · rename_i hk hv
        simp only [Memory.wfFrom, Bool.and_eq_true, decide_eq_true_eq]
        exact ⟨⟨h, hv⟩, ⟨by omega, w.1.2⟩, w.2⟩
    · split
      · rename_i hk
        split
        · exact Memory.wfFrom_mono (by omega) w.2
        · rename_i hv
          simp only [Memory.wfFrom, Bool.and_eq_true, decide_eq_true_eq]
          exact ⟨⟨h, hv⟩, hk ▸ w.2⟩
      · simp only [Memory.wfFrom, Bool.and_eq_true, decide_eq_true_eq]
        exact ⟨w.1, ih (a + 1) (by omega) w.2⟩

/-- Writing a byte keeps the canonical form. -/
theorem Memory.set_wf (m : Memory) (k : Nat) (v : Byte) (w : m.wf = true) : (m.set k v).wf = true :=
  Memory.set_wfFrom m 0 k v (Nat.zero_le k) w

/-- Writing a byte string keeps the canonical form. -/
theorem Memory.setN_wf (bs : List Byte) (m : Memory) (k : Nat) (w : m.wf = true) : (m.setN k bs).wf = true := by
  induction bs generalizing m k with
  | nil => exact w
  | cons b r ih => exact ih (m.set k b) (k + 1) (Memory.set_wf m k b w)

theorem Memory.clear_wfFrom (m : Memory) (lo k n : Nat) (w : Memory.wfFrom lo m = true) :
    Memory.wfFrom lo (m.clear k n) = true := by
  induction m generalizing lo with
  | nil => rfl
  | cons e r ih =>
    obtain ⟨a, b⟩ := e
    simp only [Memory.wfFrom, Bool.and_eq_true, decide_eq_true_eq] at w
    simp only [Memory.clear]
    split
    · exact Memory.wfFrom_mono (by omega) (ih (a + 1) w.2)
    · simp only [Memory.wfFrom, Bool.and_eq_true, decide_eq_true_eq]
      exact ⟨w.1, ih (a + 1) w.2⟩

/-- Zeroing keeps the canonical form. -/
theorem Memory.clear_wf (m : Memory) (k n : Nat) (w : m.wf = true) : (m.clear k n).wf = true :=
  Memory.clear_wfFrom m 0 k n w

theorem Memory.get_below (m : Memory) (lo k : Nat) (h : k < lo) (w : Memory.wfFrom lo m = true) : m.get k = 0 := by
  induction m generalizing lo with
  | nil => rfl
  | cons e r ih =>
    obtain ⟨a, b⟩ := e
    simp only [Memory.wfFrom, Bool.and_eq_true, decide_eq_true_eq] at w
    have : a ≠ k := by omega
    simp only [Memory.get, this, if_false]
    exact ih (a + 1) (by omega) w.2

theorem Memory.get_set_from (m : Memory) (lo k j : Nat) (v : Byte) (w : Memory.wfFrom lo m = true) :
    (m.set k v).get j = if j = k then v else m.get j := by
  induction m generalizing lo with
  | nil =>
    by_cases hv : v = 0
    · simp only [Memory.set, if_pos hv, Memory.get]
      split
      · exact hv.symm
      · rfl
    · by_cases hj : j = k
      · simp only [Memory.set, if_neg hv, Memory.get, hj, if_true]
      · simp only [Memory.set, if_neg hv, Memory.get, hj, Ne.symm hj, if_false]
  | cons e r ih =>
    obtain ⟨a, b⟩ := e
    simp only [Memory.wfFrom, Bool.and_eq_true, decide_eq_true_eq] at w
    have rest := Memory.get_below r (a + 1)
    simp only [Memory.set]
    split
    · rename_i hk
      split
      · rename_i hv
        by_cases hj : j = k
        · subst hj
          have hne : a ≠ j := by omega
          rw [if_pos rfl, Memory.get, if_neg hne, rest j (by omega) w.2, hv]
        · rw [if_neg hj]
      · by_cases hj : j = k
        · simp [Memory.get, hj]
        · simp [Memory.get, hj, Ne.symm hj]
    · split
      · rename_i hk hka
        subst hka
        split
        · rename_i hv
          by_cases hj : j = k
          · simp [hj, hv, rest k (by omega) w.2]
          · simp [Memory.get, hj, Ne.symm hj]
        · by_cases hj : j = k
          · simp [Memory.get, hj]
          · simp [Memory.get, hj, Ne.symm hj]
      · rename_i hk hka
        by_cases hj : a = j
        · subst hj
          simp [Memory.get, Ne.symm hka]
        · simp [Memory.get, hj, ih (a + 1) w.2]

/-- A read of one byte after a write of one byte. -/
theorem Memory.get_set (m : Memory) (k j : Nat) (v : Byte) (w : m.wf = true) :
    (m.set k v).get j = if j = k then v else m.get j := Memory.get_set_from m 0 k j v w

/-- A byte outside the bytes written is unchanged. -/
theorem Memory.get_setN_other (bs : List Byte) (m : Memory) (k j : Nat) (w : m.wf = true) (h : j < k ∨ k + bs.length ≤ j) :
    (m.setN k bs).get j = m.get j := by
  induction bs generalizing m k with
  | nil => rfl
  | cons b r ih =>
    simp only [List.length_cons] at h
    rw [Memory.setN, ih (m.set k b) (k + 1) (Memory.set_wf m k b w) (by omega), Memory.get_set m k j b w]
    have : j ≠ k := by omega
    simp [this]

/-- A byte among the bytes written. -/
theorem Memory.get_setN_same (bs : List Byte) (m : Memory) (k i : Nat) (w : m.wf = true) (h : i < bs.length) :
    (m.setN k bs).get (k + i) = bs[i] := by
  induction bs generalizing m k i with
  | nil => exact absurd h (by simp)
  | cons b r ih =>
    cases i with
    | zero =>
      rw [Memory.setN, Memory.get_setN_other r (m.set k b) (k + 1) (k + 0) (Memory.set_wf m k b w) (by omega), Nat.add_zero,
        Memory.get_set m k k b w]
      simp
    | succ i =>
      have e : k + (i + 1) = (k + 1) + i := by omega
      rw [Memory.setN, e, ih (m.set k b) (k + 1) i (Memory.set_wf m k b w) (by simpa using h)]
      simp

/-- What is read back is what was written. -/
theorem Memory.getN_setN (bs : List Byte) (m : Memory) (k : Nat) (w : m.wf = true) : (m.setN k bs).getN k bs.length = bs := by
  have go : ∀ (n : Nat) (j : Nat), j + n = bs.length → (m.setN k bs).getN (k + j) n = bs.drop j := by
    intro n
    induction n with
    | zero => intro j hj; simp [Memory.getN, List.drop_of_length_le (by omega : bs.length ≤ j)]
    | succ n ih =>
      intro j hj
      have hl : j < bs.length := by omega
      rw [Memory.getN, Memory.get_setN_same bs m k j w hl, Nat.add_assoc, ih (j + 1) (by omega)]
      exact (List.drop_eq_getElem_cons hl).symm
  simpa using go bs.length 0 (by omega)

end Sys2Proof.Machine
end

