-- ==== Sys2Proof/Laws/PerInstr.lean ====
section
/-! SUPPORT. Family Words: what the encoder writes for an instruction is two 32-bit words, the second zero in a 32-bit form
(spec/03_instruction_formats.md R101). One lemma per constructor. -/

namespace Sys2Proof.Laws.Words

/-- Two words of 32 bits, the second zero where the first says that the instruction has one word. -/
def Fits (p : Nat × Nat) : Prop := p.1 < 2 ^ 32 ∧ p.2 < 2 ^ 32 ∧ (wordsOf p.1 = 1 → p.2 = 0)

/-- The words of an instruction fit. -/
def Statement (i : Instr) : Prop := Fits (encode i)

theorem fits_one (w : Nat) (h : w < 2 ^ 32) : Fits (w, 0) := ⟨h, (by norm_num : (0 : Nat) < 2 ^ 32), fun _ => rfl⟩

theorem fits_long (maj low v : Nat) (hm : longMajor maj = true) (h64 : maj < 64) (hl : low < 0x4000000) (hv : v < 2 ^ 32) :
    Fits (maj * 0x4000000 + low, v) := by
  refine ⟨by omega, hv, fun h => ?_⟩
  have e : Machine.bitsN (maj * 0x4000000 + low) 31 26 = maj := by
    simp only [Machine.bitsN]
    omega
  simp [wordsOf, e, hm] at h

theorem scope_lt (x : Scope) : x.code < 4 := by cases x <;> decide

theorem fifo_lt (x : Fifo) : x.code < 4 := by cases x <;> decide

theorem q_lt (k : Q) : k.code < 3 := by cases k <;> decide

theorem bcode_lt (b : Bool) : bcode b < 2 := by cases b <;> decide

theorem srnQueueNumber_lt (comp : Bool) (q : Q) : srnQueueNumber comp q < 1024 := by cases comp <;> cases q <;> decide

theorem srnQueueLink_lt (tail : Bool) (q : Q) : srnQueueLink tail q < 1024 := by cases tail <;> cases q <;> decide

theorem srnLoop_lt (set : BitVec 1) (which : LoopReg) : srnLoop set which < 1024 := by
  cases which <;> simp only [srnLoop] <;> omega

theorem encDab_fits (maj : Nat) (d a b : Reg) (low : Nat) (hm : maj < 64) (hl : low < 0x800) : Fits (encDab maj d a b low) :=
  fits_one _ (by omega)

theorem encDa_fits (maj : Nat) (d a : Reg) (low : Nat) (hm : maj < 64) (hl : low < 0x10000) : Fits (encDa maj d a low) :=
  fits_one _ (by omega)

theorem encP_fits (maj : Nat) (p : PReg) (kind low : Nat) (hm : maj < 64) (hk : kind < 8) (hl : low < 0x100000) :
    Fits (encP maj p kind low) := fits_one _ (by omega)

theorem encBr_fits (maj : Nat) (p : PReg) (ld : BitVec 19) (slot : BitVec 4) (hm : maj < 64) : Fits (encBr maj p ld slot) :=
  fits_one _ (by omega)

theorem encMem_fits (maj : Nat) (d a : Reg) (sz : BitVec 2) (off : BitVec 14) (hm : maj < 64) : Fits (encMem maj d a sz off) :=
  fits_one _ (by omega)

theorem encSpr_fits (g : Reg) (srn dir : Nat) (h : srn < 1024) (hd : dir < 2) : Fits (encSpr g srn dir) := fits_one _ (by omega)

theorem encSync_fits (d a : Reg) (arg fn : Nat) (h : arg < 1024) (hf : fn < 64) : Fits (encSync d a arg fn) :=
  encDa_fits _ _ _ _ (by decide) (by omega)

theorem encSys_fits (d a : Reg) (arg fn : Nat) (h : arg < 4096) (hf : fn < 16) : Fits (encSys d a arg fn) :=
  encDa_fits _ _ _ _ (by decide) (by omega)

theorem encEng_fits (maj min : Nat) (e : Eng) (hm : longMajor maj = true) (h64 : maj < 64) (hn : min < 16) :
    Fits (encEng maj min e) := by
  have hb := bcode_lt e.bat
  have hf := bcode_lt e.fol
  have h := fits_long maj (e.ga.toNat * 0x200000 + e.gb.toNat * 0x10000 + e.gc.toNat * 0x800 + min * 0x80 + e.f7.toNat)
    (e.tok.toNat + e.tag.toNat * 0x10 + bcode e.bat * 0x400 + bcode e.fol * 0x800 + e.ext.toNat * 0x1000) hm h64
    (by omega) (by omega)
  simpa [encEng, Nat.add_assoc] using h

theorem event_fits : Fits (0, 0) := ⟨by decide, by decide, fun _ => rfl⟩

theorem add : ∀ d a b, Statement (.add d a b) := fun d a b => by
  show Fits (encDab 0x01 d a b 0x000)
  exact encDab_fits _ _ _ _ _ (by decide) (by omega)

theorem sub : ∀ d a b, Statement (.sub d a b) := fun d a b => by
  show Fits (encDab 0x01 d a b 0x001)
  exact encDab_fits _ _ _ _ _ (by decide) (by omega)

theorem mul : ∀ d a b, Statement (.mul d a b) := fun d a b => by
  show Fits (encDab 0x01 d a b 0x002)
  exact encDab_fits _ _ _ _ _ (by decide) (by omega)

theorem mulh : ∀ d a b, Statement (.mulh d a b) := fun d a b => by
  show Fits (encDab 0x01 d a b 0x003)
  exact encDab_fits _ _ _ _ _ (by decide) (by omega)

theorem mulhu : ∀ d a b, Statement (.mulhu d a b) := fun d a b => by
  show Fits (encDab 0x01 d a b 0x004)
  exact encDab_fits _ _ _ _ _ (by decide) (by omega)

theorem div : ∀ d a b, Statement (.div d a b) := fun d a b => by
  show Fits (encDab 0x01 d a b 0x005)
  exact encDab_fits _ _ _ _ _ (by decide) (by omega)

theorem divu : ∀ d a b, Statement (.divu d a b) := fun d a b => by
  show Fits (encDab 0x01 d a b 0x006)
  exact encDab_fits _ _ _ _ _ (by decide) (by omega)

theorem rem : ∀ d a b, Statement (.rem d a b) := fun d a b => by
  show Fits (encDab 0x01 d a b 0x007)
  exact encDab_fits _ _ _ _ _ (by decide) (by omega)

theorem remu : ∀ d a b, Statement (.remu d a b) := fun d a b => by
  show Fits (encDab 0x01 d a b 0x008)
  exact encDab_fits _ _ _ _ _ (by decide) (by omega)

theorem and : ∀ d a b, Statement (.and d a b) := fun d a b => by
  show Fits (encDab 0x01 d a b 0x009)
  exact encDab_fits _ _ _ _ _ (by decide) (by omega)

theorem or : ∀ d a b, Statement (.or d a b) := fun d a b => by
  show Fits (encDab 0x01 d a b 0x00a)
  exact encDab_fits _ _ _ _ _ (by decide) (by omega)

theorem xor : ∀ d a b, Statement (.xor d a b) := fun d a b => by
  show Fits (encDab 0x01 d a b 0x00b)
  exact encDab_fits _ _ _ _ _ (by decide) (by omega)

theorem shl : ∀ d a b, Statement (.shl d a b) := fun d a b => by
  show Fits (encDab 0x01 d a b 0x00c)
  exact encDab_fits _ _ _ _ _ (by decide) (by omega)

theorem shr : ∀ d a b, Statement (.shr d a b) := fun d a b => by
  show Fits (encDab 0x01 d a b 0x00d)
  exact encDab_fits _ _ _ _ _ (by decide) (by omega)

theorem sar : ∀ d a b, Statement (.sar d a b) := fun d a b => by
  show Fits (encDab 0x01 d a b 0x00e)
  exact encDab_fits _ _ _ _ _ (by decide) (by omega)

theorem min : ∀ d a b, Statement (.min d a b) := fun d a b => by
  show Fits (encDab 0x01 d a b 0x00f)
  exact encDab_fits _ _ _ _ _ (by decide) (by omega)

theorem max : ∀ d a b, Statement (.max d a b) := fun d a b => by
  show Fits (encDab 0x01 d a b 0x010)
  exact encDab_fits _ _ _ _ _ (by decide) (by omega)

theorem minu : ∀ d a b, Statement (.minu d a b) := fun d a b => by
  show Fits (encDab 0x01 d a b 0x011)
  exact encDab_fits _ _ _ _ _ (by decide) (by omega)

theorem maxu : ∀ d a b, Statement (.maxu d a b) := fun d a b => by
  show Fits (encDab 0x01 d a b 0x012)
  exact encDab_fits _ _ _ _ _ (by decide) (by omega)

theorem lea : ∀ d a b sh, Statement (.lea d a b sh) := fun d a b sh => by
  show Fits (encDab 0x01 d a b (0x020 + sh.toNat))
  exact encDab_fits _ _ _ _ _ (by decide) (by omega)

theorem clz : ∀ d a, Statement (.clz d a) := fun d a => by
  show Fits (encDa 0x02 d a 0)
  exact encDa_fits _ _ _ _ (by decide) (by omega)

theorem ctz : ∀ d a, Statement (.ctz d a) := fun d a => by
  show Fits (encDa 0x02 d a 1)
  exact encDa_fits _ _ _ _ (by decide) (by omega)

theorem popc : ∀ d a, Statement (.popc d a) := fun d a => by
  show Fits (encDa 0x02 d a 2)
  exact encDa_fits _ _ _ _ (by decide) (by omega)

theorem bswap : ∀ d a, Statement (.bswap d a) := fun d a => by
  show Fits (encDa 0x02 d a 3)
  exact encDa_fits _ _ _ _ (by decide) (by omega)

theorem sextB : ∀ d a, Statement (.sextB d a) := fun d a => by
  show Fits (encDa 0x02 d a 4)
  exact encDa_fits _ _ _ _ (by decide) (by omega)

theorem sextH : ∀ d a, Statement (.sextH d a) := fun d a => by
  show Fits (encDa 0x02 d a 5)
  exact encDa_fits _ _ _ _ (by decide) (by omega)

theorem sextW : ∀ d a, Statement (.sextW d a) := fun d a => by
  show Fits (encDa 0x02 d a 6)
  exact encDa_fits _ _ _ _ (by decide) (by omega)

theorem zextB : ∀ d a, Statement (.zextB d a) := fun d a => by
  show Fits (encDa 0x02 d a 7)
  exact encDa_fits _ _ _ _ (by decide) (by omega)

theorem zextH : ∀ d a, Statement (.zextH d a) := fun d a => by
  show Fits (encDa 0x02 d a 8)
  exact encDa_fits _ _ _ _ (by decide) (by omega)

theorem zextW : ∀ d a, Statement (.zextW d a) := fun d a => by
  show Fits (encDa 0x02 d a 9)
  exact encDa_fits _ _ _ _ (by decide) (by omega)

theorem addi : ∀ d a imm, Statement (.addi d a imm) := fun d a imm => by
  show Fits (encDa 0x03 d a imm.toNat)
  exact encDa_fits _ _ _ _ (by decide) (by omega)

theorem andi : ∀ d a imm, Statement (.andi d a imm) := fun d a imm => by
  show Fits (encDa 0x04 d a imm.toNat)
  exact encDa_fits _ _ _ _ (by decide) (by omega)

theorem ori : ∀ d a imm, Statement (.ori d a imm) := fun d a imm => by
  show Fits (encDa 0x05 d a imm.toNat)
  exact encDa_fits _ _ _ _ (by decide) (by omega)

theorem xori : ∀ d a imm, Statement (.xori d a imm) := fun d a imm => by
  show Fits (encDa 0x06 d a imm.toNat)
  exact encDa_fits _ _ _ _ (by decide) (by omega)

theorem shli : ∀ d a sh, Statement (.shli d a sh) := fun d a sh => by
  show Fits (encDa 0x07 d a (0 * 0x40 + sh.toNat))
  exact encDa_fits _ _ _ _ (by decide) (by omega)

theorem shri : ∀ d a sh, Statement (.shri d a sh) := fun d a sh => by
  show Fits (encDa 0x07 d a (1 * 0x40 + sh.toNat))
  exact encDa_fits _ _ _ _ (by decide) (by omega)

theorem sari : ∀ d a sh, Statement (.sari d a sh) := fun d a sh => by
  show Fits (encDa 0x07 d a (2 * 0x40 + sh.toNat))
  exact encDa_fits _ _ _ _ (by decide) (by omega)

theorem movi : ∀ d imm, Statement (.movi d imm) := fun d imm => by
  show Fits (encDa 0x08 d 0 imm.toNat)
  exact encDa_fits _ _ _ _ (by decide) (by omega)

theorem movw : ∀ d hi imm, Statement (.movw d hi imm) := fun d hi imm => by
  have := bcode_lt hi
  show Fits ((0x09 * 0x4000000 + d.toNat * 0x200000 + bcode hi, imm.toNat))
  simpa [Nat.add_assoc] using fits_long 0x09 (d.toNat * 0x200000 + bcode hi) (imm.toNat) (by decide) (by decide) (by have := bcode_lt hi; omega) (by omega)

theorem cmpeq : ∀ p a b, Statement (.cmpeq p a b) := fun p a b => by
  show Fits (encP 0x0A p 0 (a.toNat * 0x8000 + b.toNat * 0x400))
  exact encP_fits _ _ _ _ (by decide) (by decide) (by omega)

theorem cmpne : ∀ p a b, Statement (.cmpne p a b) := fun p a b => by
  show Fits (encP 0x0A p 1 (a.toNat * 0x8000 + b.toNat * 0x400))
  exact encP_fits _ _ _ _ (by decide) (by decide) (by omega)

theorem cmplt : ∀ p a b, Statement (.cmplt p a b) := fun p a b => by
  show Fits (encP 0x0A p 2 (a.toNat * 0x8000 + b.toNat * 0x400))
  exact encP_fits _ _ _ _ (by decide) (by decide) (by omega)

theorem cmpltu : ∀ p a b, Statement (.cmpltu p a b) := fun p a b => by
  show Fits (encP 0x0A p 3 (a.toNat * 0x8000 + b.toNat * 0x400))
  exact encP_fits _ _ _ _ (by decide) (by decide) (by omega)

theorem cmpge : ∀ p a b, Statement (.cmpge p a b) := fun p a b => by
  show Fits (encP 0x0A p 4 (a.toNat * 0x8000 + b.toNat * 0x400))
  exact encP_fits _ _ _ _ (by decide) (by decide) (by omega)

theorem cmpgeu : ∀ p a b, Statement (.cmpgeu p a b) := fun p a b => by
  show Fits (encP 0x0A p 5 (a.toNat * 0x8000 + b.toNat * 0x400))
  exact encP_fits _ _ _ _ (by decide) (by decide) (by omega)

theorem cmpeqi : ∀ p a imm, Statement (.cmpeqi p a imm) := fun p a imm => by
  show Fits (encP 0x0B p 0 (a.toNat * 0x8000 + imm.toNat))
  exact encP_fits _ _ _ _ (by decide) (by decide) (by omega)

theorem cmpnei : ∀ p a imm, Statement (.cmpnei p a imm) := fun p a imm => by
  show Fits (encP 0x0B p 1 (a.toNat * 0x8000 + imm.toNat))
  exact encP_fits _ _ _ _ (by decide) (by decide) (by omega)

theorem cmplti : ∀ p a imm, Statement (.cmplti p a imm) := fun p a imm => by
  show Fits (encP 0x0B p 2 (a.toNat * 0x8000 + imm.toNat))
  exact encP_fits _ _ _ _ (by decide) (by decide) (by omega)

theorem cmpltui : ∀ p a imm, Statement (.cmpltui p a imm) := fun p a imm => by
  show Fits (encP 0x0B p 3 (a.toNat * 0x8000 + imm.toNat))
  exact encP_fits _ _ _ _ (by decide) (by decide) (by omega)

theorem cmpgei : ∀ p a imm, Statement (.cmpgei p a imm) := fun p a imm => by
  show Fits (encP 0x0B p 4 (a.toNat * 0x8000 + imm.toNat))
  exact encP_fits _ _ _ _ (by decide) (by decide) (by omega)

theorem cmpgeui : ∀ p a imm, Statement (.cmpgeui p a imm) := fun p a imm => by
  show Fits (encP 0x0B p 5 (a.toNat * 0x8000 + imm.toNat))
  exact encP_fits _ _ _ _ (by decide) (by decide) (by omega)

theorem pand : ∀ p a b, Statement (.pand p a b) := fun p a b => by
  show Fits (encP 0x0C p 0 (a.toNat * 0x20000 + b.toNat * 0x4000))
  exact encP_fits _ _ _ _ (by decide) (by decide) (by omega)

theorem por : ∀ p a b, Statement (.por p a b) := fun p a b => by
  show Fits (encP 0x0C p 1 (a.toNat * 0x20000 + b.toNat * 0x4000))
  exact encP_fits _ _ _ _ (by decide) (by decide) (by omega)

theorem pxor : ∀ p a b, Statement (.pxor p a b) := fun p a b => by
  show Fits (encP 0x0C p 2 (a.toNat * 0x20000 + b.toNat * 0x4000))
  exact encP_fits _ _ _ _ (by decide) (by decide) (by omega)

theorem pnot : ∀ p a, Statement (.pnot p a) := fun p a => by
  show Fits (encP 0x0C p 3 (a.toNat * 0x20000))
  exact encP_fits _ _ _ _ (by decide) (by decide) (by omega)

theorem sel : ∀ d a b ps, Statement (.sel d a b ps) := fun d a b ps => by
  show Fits (encDab 0x0D d a b (ps.toNat * 0x100))
  exact encDab_fits _ _ _ _ _ (by decide) (by omega)

theorem bp : ∀ p ld slot, Statement (.bp p ld slot) := fun p ld slot => by
  show Fits (encBr 0x0E p ld slot)
  exact encBr_fits _ _ _ _ (by decide)

theorem br : ∀ ld slot, Statement (.br ld slot) := fun ld slot => by
  show Fits (encBr 0x0E 0 ld slot)
  exact encBr_fits _ _ _ _ (by decide)

theorem bnp : ∀ p ld slot, Statement (.bnp p ld slot) := fun p ld slot => by
  show Fits (encBr 0x0F p ld slot)
  exact encBr_fits _ _ _ _ (by decide)

theorem call : ∀ ld slot, Statement (.call ld slot) := fun ld slot => by
  show Fits (encBr 0x10 0 ld slot)
  exact encBr_fits _ _ _ _ (by decide)

theorem ji : ∀ a, Statement (.ji a) := fun a => by
  show Fits (encDa 0x11 0 a 0)
  exact encDa_fits _ _ _ _ (by decide) (by omega)

theorem calli : ∀ a, Statement (.calli a) := fun a => by
  show Fits (encDa 0x11 0 a 1)
  exact encDa_fits _ _ _ _ (by decide) (by omega)

theorem ret : Statement .ret := by
  show Fits (encDa 0x11 0 0 2)
  exact encDa_fits _ _ _ _ (by decide) (by omega)

theorem loop : ∀ set a le, Statement (.loop set a le) := fun set a le => by
  show Fits ((0x12 * 0x4000000 + set.toNat * 0x2000000 + a.toNat * 0x100000, le.toNat))
  simpa [Nat.add_assoc] using fits_long 0x12 (set.toNat * 0x2000000 + a.toNat * 0x100000) (le.toNat) (by decide) (by decide) (by omega) (by omega)

theorem loopi : ∀ set cnt le, Statement (.loopi set cnt le) := fun set cnt le => by
  show Fits ((0x13 * 0x4000000 + set.toNat * 0x2000000 + cnt.toNat, le.toNat))
  simpa [Nat.add_assoc] using fits_long 0x13 (set.toNat * 0x2000000 + cnt.toNat) (le.toNat) (by decide) (by decide) (by omega) (by omega)

theorem mfs : ∀ g srn, Statement (.mfs g srn) := fun g srn => by
  show Fits (encSpr g srn.toNat 0)
  exact encSpr_fits _ _ _ (by omega) (by decide)

theorem mts : ∀ g srn, Statement (.mts g srn) := fun g srn => by
  show Fits (encSpr g srn.toNat 1)
  exact encSpr_fits _ _ _ (by omega) (by decide)

theorem mtsTcfg : ∀ g, Statement (.mtsTcfg g) := fun g => by
  show Fits (encSpr g 0x035 1)
  exact encSpr_fits _ _ _ (by omega) (by decide)

theorem mtsQueueNumber : ∀ g comp q, Statement (.mtsQueueNumber g comp q) := fun g comp q => by
  show Fits (encSpr g (srnQueueNumber comp q) 1)
  exact encSpr_fits _ _ _ (by have := srnQueueNumber_lt comp q; omega) (by decide)

theorem mtsQueueLink : ∀ g tail q, Statement (.mtsQueueLink g tail q) := fun g tail q => by
  show Fits (encSpr g (srnQueueLink tail q) 1)
  exact encSpr_fits _ _ _ (by have := srnQueueLink_lt tail q; omega) (by decide)

theorem mtsTokc : ∀ g, Statement (.mtsTokc g) := fun g => by
  show Fits (encSpr g 0x030 1)
  exact encSpr_fits _ _ _ (by omega) (by decide)

theorem mtsZwm : ∀ g z, Statement (.mtsZwm g z) := fun g z => by
  show Fits (encSpr g (0x050 + z.toNat) 1)
  exact encSpr_fits _ _ _ (by omega) (by decide)

theorem mtsDqn : ∀ g, Statement (.mtsDqn g) := fun g => by
  show Fits (encSpr g 0x03B 1)
  exact encSpr_fits _ _ _ (by omega) (by decide)

theorem mtsSeqw : ∀ g, Statement (.mtsSeqw g) := fun g => by
  show Fits (encSpr g 0x026 1)
  exact encSpr_fits _ _ _ (by omega) (by decide)

theorem mtsSeed : ∀ g, Statement (.mtsSeed g) := fun g => by
  show Fits (encSpr g 0x039 1)
  exact encSpr_fits _ _ _ (by omega) (by decide)

theorem mtsLoopRegister : ∀ g set which, Statement (.mtsLoopRegister g set which) := fun g set which => by
  show Fits (encSpr g (srnLoop set which) 1)
  exact encSpr_fits _ _ _ (by have := srnLoop_lt set which; omega) (by decide)

theorem mtsEbase : ∀ g, Statement (.mtsEbase g) := fun g => by
  show Fits (encSpr g 0x073 1)
  exact encSpr_fits _ _ _ (by omega) (by decide)

theorem injArm : ∀ g, Statement (.injArm g) := fun g => by
  show Fits (encSpr g 0x081 1)
  exact encSpr_fits _ _ _ (by omega) (by decide)

theorem ld : ∀ d a sz off, Statement (.ld d a sz off) := fun d a sz off => by
  show Fits (encMem 0x15 d a sz off)
  exact encMem_fits _ _ _ _ _ (by decide)

theorem lds : ∀ d a sz off, Statement (.lds d a sz off) := fun d a sz off => by
  show Fits (encMem 0x16 d a sz off)
  exact encMem_fits _ _ _ _ _ (by decide)

theorem st : ∀ d a sz off, Statement (.st d a sz off) := fun d a sz off => by
  show Fits (encMem 0x17 d a sz off)
  exact encMem_fits _ _ _ _ _ (by decide)

theorem lda : ∀ d a sz off, Statement (.lda d a sz off) := fun d a sz off => by
  show Fits (encMem 0x18 d a sz off)
  exact encMem_fits _ _ _ _ _ (by decide)

theorem stl : ∀ d a sz off, Statement (.stl d a sz off) := fun d a sz off => by
  show Fits (encMem 0x19 d a sz off)
  exact encMem_fits _ _ _ _ _ (by decide)

theorem pfl : ∀ a sz off, Statement (.pfl a sz off) := fun a sz off => by
  show Fits (encMem 0x1A 0 a sz off)
  exact encMem_fits _ _ _ _ _ (by decide)

theorem aadd : ∀ d a b, Statement (.aadd d a b) := fun d a b => by
  show Fits (encDab 0x1B d a b 0)
  exact encDab_fits _ _ _ _ _ (by decide) (by omega)

theorem amin : ∀ d a b, Statement (.amin d a b) := fun d a b => by
  show Fits (encDab 0x1B d a b 1)
  exact encDab_fits _ _ _ _ _ (by decide) (by omega)

theorem amax : ∀ d a b, Statement (.amax d a b) := fun d a b => by
  show Fits (encDab 0x1B d a b 2)
  exact encDab_fits _ _ _ _ _ (by decide) (by omega)

theorem aminu : ∀ d a b, Statement (.aminu d a b) := fun d a b => by
  show Fits (encDab 0x1B d a b 3)
  exact encDab_fits _ _ _ _ _ (by decide) (by omega)

theorem amaxu : ∀ d a b, Statement (.amaxu d a b) := fun d a b => by
  show Fits (encDab 0x1B d a b 4)
  exact encDab_fits _ _ _ _ _ (by decide) (by omega)

theorem axchg : ∀ d a b, Statement (.axchg d a b) := fun d a b => by
  show Fits (encDab 0x1B d a b 5)
  exact encDab_fits _ _ _ _ _ (by decide) (by omega)

theorem acas : ∀ d a b, Statement (.acas d a b) := fun d a b => by
  show Fits (encDab 0x1B d a b 6)
  exact encDab_fits _ _ _ _ _ (by decide) (by omega)

theorem aand : ∀ d a b, Statement (.aand d a b) := fun d a b => by
  show Fits (encDab 0x1B d a b 7)
  exact encDab_fits _ _ _ _ _ (by decide) (by omega)

theorem aor : ∀ d a b, Statement (.aor d a b) := fun d a b => by
  show Fits (encDab 0x1B d a b 8)
  exact encDab_fits _ _ _ _ _ (by decide) (by omega)

theorem axor : ∀ d a b, Statement (.axor d a b) := fun d a b => by
  show Fits (encDab 0x1B d a b 9)
  exact encDab_fits _ _ _ _ _ (by decide) (by omega)

theorem tokw : ∀ d n fifo pop, Statement (.tokw d n fifo pop) := fun d n fifo pop => by
  show Fits (encSync d 0 (n.toNat + fifo.code * 0x20 + bcode pop * 0x80) 0x00)
  exact encSync_fits _ _ _ _ (by have := fifo_lt fifo; have := bcode_lt pop; omega) (by decide)

theorem tagwa : ∀ d a, Statement (.tagwa d a) := fun d a => by
  show Fits (encSync d a 0 0x01)
  exact encSync_fits _ _ _ _ (by omega) (by decide)

theorem tagwl : ∀ d a, Statement (.tagwl d a) := fun d a => by
  show Fits (encSync d a 0 0x02)
  exact encSync_fits _ _ _ _ (by omega) (by decide)

theorem tagff : ∀ d a clr, Statement (.tagff d a clr) := fun d a clr => by
  show Fits (encSync d a (bcode clr) 0x03)
  exact encSync_fits _ _ _ _ (by have := bcode_lt clr; omega) (by decide)

theorem tagclr : ∀ a, Statement (.tagclr a) := fun a => by
  show Fits (encSync 0 a 0 0x04)
  exact encSync_fits _ _ _ _ (by omega) (by decide)

theorem bara : ∀ n sc, Statement (.bara n sc) := fun n sc => by
  show Fits (encSync 0 0 (n.toNat + sc.code * 0x40) 0x05)
  exact encSync_fits _ _ _ _ (by have := scope_lt sc; omega) (by decide)

theorem barw : ∀ d n, Statement (.barw d n) := fun d n => by
  show Fits (encSync d 0 n.toNat 0x06)
  exact encSync_fits _ _ _ _ (by omega) (by decide)

theorem baraw : ∀ d n sc, Statement (.baraw d n sc) := fun d n sc => by
  show Fits (encSync d 0 (n.toNat + sc.code * 0x40) 0x07)
  exact encSync_fits _ _ _ _ (by have := scope_lt sc; omega) (by decide)

theorem barset : ∀ a n, Statement (.barset a n) := fun a n => by
  show Fits (encSync 0 a n.toNat 0x08)
  exact encSync_fits _ _ _ _ (by omega) (by decide)

theorem fence : Statement .fence := by
  show Fits (encSync 0 0 0 0x09)
  exact encSync_fits _ _ _ _ (by omega) (by decide)

theorem bclose : Statement .bclose := by
  show Fits (encSync 0 0 0 0x0A)
  exact encSync_fits _ _ _ _ (by omega) (by decide)

theorem waitb : ∀ d n, Statement (.waitb d n) := fun d n => by
  show Fits (encSync d 0 n.toNat 0x0B)
  exact encSync_fits _ _ _ _ (by omega) (by decide)

theorem qdrain : ∀ mask, Statement (.qdrain mask) := fun mask => by
  show Fits (encSync 0 0 mask.toNat 0x0C)
  exact encSync_fits _ _ _ _ (by omega) (by decide)

theorem qseq : ∀ d a q, Statement (.qseq d a q) := fun d a q => by
  show Fits (encSync d a q.code 0x0D)
  exact encSync_fits _ _ _ _ (by have := q_lt q; omega) (by decide)

theorem xretw : ∀ d, Statement (.xretw d) := fun d => by
  show Fits (encSync d 0 0 0x0E)
  exact encSync_fits _ _ _ _ (by omega) (by decide)

theorem fencep : ∀ frm tom sc, Statement (.fencep frm tom sc) := fun frm tom sc => by
  show Fits ((0x1D * 0x4000000 + frm.toNat * 0x100000 + tom.toNat * 0x4000 + sc.code * 0x1000, 0))
  exact fits_one _ (by have := scope_lt sc; omega)

theorem spawn : ∀ a b, Statement (.spawn a b) := fun a b => by
  show Fits (encDab 0x1E 0 a b 0)
  exact encDab_fits _ _ _ _ _ (by decide) (by omega)

theorem spawnj : ∀ d a b, Statement (.spawnj d a b) := fun d a b => by
  show Fits (encDab 0x1E d a b 1)
  exact encDab_fits _ _ _ _ _ (by decide) (by omega)

theorem join : ∀ d a, Statement (.join d a) := fun d a => by
  show Fits (encDab 0x1E d a 0 2)
  exact encDab_fits _ _ _ _ _ (by decide) (by omega)

theorem halt : Statement .halt := by
  show Fits (encDab 0x1E 0 0 0 3)
  exact encDab_fits _ _ _ _ _ (by decide) (by omega)

theorem yield : Statement .yield := by
  show Fits (encDab 0x1E 0 0 0 4)
  exact encDab_fits _ _ _ _ _ (by decide) (by omega)

theorem launch : ∀ d a b, Statement (.launch d a b) := fun d a b => by
  show Fits (encDab 0x1E d a b 5)
  exact encDab_fits _ _ _ _ _ (by decide) (by omega)

theorem qpush : ∀ a b, Statement (.qpush a b) := fun a b => by
  show Fits (encDab 0x1F 0 a b 0)
  exact encDab_fits _ _ _ _ _ (by decide) (by omega)

theorem qpop : ∀ d pd a, Statement (.qpop d pd a) := fun d pd a => by
  show Fits (encDab 0x1F d a 0 (pd.toNat * 0x100 + 1))
  exact encDab_fits _ _ _ _ _ (by decide) (by omega)

theorem trap : ∀ code, Statement (.trap code) := fun code => by
  show Fits (encSys 0 0 code.toNat 0)
  exact encSys_fits _ _ _ _ (by omega) (by decide)

theorem eret : Statement .eret := by
  show Fits (encSys 0 0 0 1)
  exact encSys_fits _ _ _ _ (by omega) (by decide)

theorem bkpt : ∀ code, Statement (.bkpt code) := fun code => by
  show Fits (encSys 0 0 code.toNat 2)
  exact encSys_fits _ _ _ _ (by omega) (by decide)

theorem synci : Statement .synci := by
  show Fits (encSys 0 0 0 3)
  exact encSys_fits _ _ _ _ (by omega) (by decide)

theorem tlbinv : ∀ a kind sc, Statement (.tlbinv a kind sc) := fun a kind sc => by
  show Fits (encSys 0 a (kind.toNat + sc.code * 4) 4)
  exact encSys_fits _ _ _ _ (by have := scope_lt sc; omega) (by decide)

theorem l1wb : Statement .l1wb := by
  show Fits (encSys 0 0 0 5)
  exact encSys_fits _ _ _ _ (by omega) (by decide)

theorem l1inv : ∀ a all, Statement (.l1inv a all) := fun a all => by
  show Fits (encSys 0 a (bcode all) 6)
  exact encSys_fits _ _ _ _ (by have := bcode_lt all; omega) (by decide)

theorem pmark : ∀ code, Statement (.pmark code) := fun code => by
  show Fits (encSys 0 0 code.toNat 7)
  exact encSys_fits _ _ _ _ (by omega) (by decide)

theorem srd : ∀ d a, Statement (.srd d a) := fun d a => by
  show Fits (encSys d a 0 8)
  exact encSys_fits _ _ _ _ (by omega) (by decide)

theorem swr : ∀ d a, Statement (.swr d a) := fun d a => by
  show Fits (encSys d a 0 9)
  exact encSys_fits _ _ _ _ (by omega) (by decide)

theorem wfe : ∀ d mask, Statement (.wfe d mask) := fun d mask => by
  show Fits (encSys d 0 mask.toNat 10)
  exact encSys_fits _ _ _ _ (by omega) (by decide)

theorem nop : Statement .nop := by
  show Fits ((0x34 * 0x4000000, 0))
  exact fits_one _ (by omega)

theorem scp : ∀ sc, Statement (.scp sc) := fun sc => by
  show Fits ((0x3E * 0x4000000 + sc.code, 0))
  exact fits_one _ (by have := scope_lt sc; omega)

theorem imx : ∀ x, Statement (.imx x) := fun x => by
  show Fits ((0x3F * 0x4000000 + x.toNat % 0x10000, x.toNat / 0x10000))
  simpa [] using fits_long 0x3F (x.toNat % 0x10000) (x.toNat / 0x10000) (by decide) (by decide) (by omega) (by omega)

theorem tokp : ∀ e, Statement (.tokp e) := fun e => by
  show Fits (encEng 0x20 0 e)
  exact encEng_fits _ _ _ (by decide) (by decide) (by decide)

theorem xcall : ∀ e, Statement (.xcall e) := fun e => by
  show Fits (encEng 0x20 1 e)
  exact encEng_fits _ _ _ (by decide) (by decide) (by decide)

theorem mshape : ∀ e, Statement (.mshape e) := fun e => by
  show Fits (encEng 0x21 0 e)
  exact encEng_fits _ _ _ (by decide) (by decide) (by decide)

theorem manch : ∀ e, Statement (.manch e) := fun e => by
  show Fits (encEng 0x21 1 e)
  exact encEng_fits _ _ _ (by decide) (by decide) (by decide)

theorem mzp : ∀ e, Statement (.mzp e) := fun e => by
  show Fits (encEng 0x21 2 e)
  exact encEng_fits _ _ _ (by decide) (by decide) (by decide)

theorem mpriv : ∀ e, Statement (.mpriv e) := fun e => by
  show Fits (encEng 0x21 3 e)
  exact encEng_fits _ _ _ (by decide) (by decide) (by decide)

theorem mcode : ∀ e, Statement (.mcode e) := fun e => by
  show Fits (encEng 0x21 4 e)
  exact encEng_fits _ _ _ (by decide) (by decide) (by decide)

theorem mcsum : ∀ e, Statement (.mcsum e) := fun e => by
  show Fits (encEng 0x21 5 e)
  exact encEng_fits _ _ _ (by decide) (by decide) (by decide)

theorem mlda : ∀ e, Statement (.mlda e) := fun e => by
  show Fits (encEng 0x22 0 e)
  exact encEng_fits _ _ _ (by decide) (by decide) (by decide)

theorem mldb : ∀ e, Statement (.mldb e) := fun e => by
  show Fits (encEng 0x22 1 e)
  exact encEng_fits _ _ _ (by decide) (by decide) (by decide)

theorem mma : ∀ e, Statement (.mma e) := fun e => by
  show Fits (encEng 0x23 0 e)
  exact encEng_fits _ _ _ (by decide) (by decide) (by decide)

theorem mmas : ∀ e, Statement (.mmas e) := fun e => by
  show Fits (encEng 0x23 1 e)
  exact encEng_fits _ _ _ (by decide) (by decide) (by decide)

theorem mmaq : ∀ e, Statement (.mmaq e) := fun e => by
  show Fits (encEng 0x23 2 e)
  exact encEng_fits _ _ _ (by decide) (by decide) (by decide)

theorem mmap : ∀ e, Statement (.mmap e) := fun e => by
  show Fits (encEng 0x23 3 e)
  exact encEng_fits _ _ _ (by decide) (by decide) (by decide)

theorem mchk : ∀ e, Statement (.mchk e) := fun e => by
  show Fits (encEng 0x24 0 e)
  exact encEng_fits _ _ _ (by decide) (by decide) (by decide)

theorem mdrain : ∀ e, Statement (.mdrain e) := fun e => by
  show Fits (encEng 0x24 1 e)
  exact encEng_fits _ _ _ (by decide) (by decide) (by decide)

theorem mdrainx : ∀ e, Statement (.mdrainx e) := fun e => by
  show Fits (encEng 0x24 2 e)
  exact encEng_fits _ _ _ (by decide) (by decide) (by decide)

theorem mzero : ∀ e, Statement (.mzero e) := fun e => by
  show Fits (encEng 0x24 3 e)
  exact encEng_fits _ _ _ (by decide) (by decide) (by decide)

theorem mwm : ∀ e, Statement (.mwm e) := fun e => by
  show Fits (encEng 0x24 4 e)
  exact encEng_fits _ _ _ (by decide) (by decide) (by decide)

theorem mcap : ∀ e, Statement (.mcap e) := fun e => by
  show Fits (encEng 0x25 0 e)
  exact encEng_fits _ _ _ (by decide) (by decide) (by decide)

theorem mstat : ∀ e, Statement (.mstat e) := fun e => by
  show Fits (encEng 0x25 1 e)
  exact encEng_fits _ _ _ (by decide) (by decide) (by decide)

theorem smv : ∀ e, Statement (.smv e) := fun e => by
  show Fits (encEng 0x26 0 e)
  exact encEng_fits _ _ _ (by decide) (by decide) (by decide)

theorem smvUnitDone : ∀ tile ticket, Statement (.smvUnitDone tile ticket) := fun _ _ => event_fits

theorem smvw : ∀ e, Statement (.smvw e) := fun e => by
  show Fits (encEng 0x26 1 e)
  exact encEng_fits _ _ _ (by decide) (by decide) (by decide)

theorem vadd : ∀ e, Statement (.vadd e) := fun e => by
  show Fits (encEng 0x29 0 e)
  exact encEng_fits _ _ _ (by decide) (by decide) (by decide)

theorem vsub : ∀ e, Statement (.vsub e) := fun e => by
  show Fits (encEng 0x29 1 e)
  exact encEng_fits _ _ _ (by decide) (by decide) (by decide)

theorem vmul : ∀ e, Statement (.vmul e) := fun e => by
  show Fits (encEng 0x29 2 e)
  exact encEng_fits _ _ _ (by decide) (by decide) (by decide)

theorem vmulh : ∀ e, Statement (.vmulh e) := fun e => by
  show Fits (encEng 0x29 3 e)
  exact encEng_fits _ _ _ (by decide) (by decide) (by decide)

theorem vmulhu : ∀ e, Statement (.vmulhu e) := fun e => by
  show Fits (encEng 0x29 4 e)
  exact encEng_fits _ _ _ (by decide) (by decide) (by decide)

theorem vmin : ∀ e, Statement (.vmin e) := fun e => by
  show Fits (encEng 0x29 5 e)
  exact encEng_fits _ _ _ (by decide) (by decide) (by decide)

theorem vmax : ∀ e, Statement (.vmax e) := fun e => by
  show Fits (encEng 0x29 6 e)
  exact encEng_fits _ _ _ (by decide) (by decide) (by decide)

theorem vminu : ∀ e, Statement (.vminu e) := fun e => by
  show Fits (encEng 0x29 7 e)
  exact encEng_fits _ _ _ (by decide) (by decide) (by decide)

theorem vmaxu : ∀ e, Statement (.vmaxu e) := fun e => by
  show Fits (encEng 0x29 8 e)
  exact encEng_fits _ _ _ (by decide) (by decide) (by decide)

theorem vabs : ∀ e, Statement (.vabs e) := fun e => by
  show Fits (encEng 0x29 9 e)
  exact encEng_fits _ _ _ (by decide) (by decide) (by decide)

theorem vneg : ∀ e, Statement (.vneg e) := fun e => by
  show Fits (encEng 0x29 10 e)
  exact encEng_fits _ _ _ (by decide) (by decide) (by decide)

theorem vsadd : ∀ e, Statement (.vsadd e) := fun e => by
  show Fits (encEng 0x29 11 e)
  exact encEng_fits _ _ _ (by decide) (by decide) (by decide)

theorem vssub : ∀ e, Statement (.vssub e) := fun e => by
  show Fits (encEng 0x29 12 e)
  exact encEng_fits _ _ _ (by decide) (by decide) (by decide)

theorem vand : ∀ e, Statement (.vand e) := fun e => by
  show Fits (encEng 0x29 13 e)
  exact encEng_fits _ _ _ (by decide) (by decide) (by decide)

theorem vor : ∀ e, Statement (.vor e) := fun e => by
  show Fits (encEng 0x29 14 e)
  exact encEng_fits _ _ _ (by decide) (by decide) (by decide)

theorem vxor : ∀ e, Statement (.vxor e) := fun e => by
  show Fits (encEng 0x29 15 e)
  exact encEng_fits _ _ _ (by decide) (by decide) (by decide)

theorem vnot : ∀ e, Statement (.vnot e) := fun e => by
  show Fits (encEng 0x2a 0 e)
  exact encEng_fits _ _ _ (by decide) (by decide) (by decide)

theorem vshl : ∀ e, Statement (.vshl e) := fun e => by
  show Fits (encEng 0x2a 1 e)
  exact encEng_fits _ _ _ (by decide) (by decide) (by decide)

theorem vshr : ∀ e, Statement (.vshr e) := fun e => by
  show Fits (encEng 0x2a 2 e)
  exact encEng_fits _ _ _ (by decide) (by decide) (by decide)

theorem vsar : ∀ e, Statement (.vsar e) := fun e => by
  show Fits (encEng 0x2a 3 e)
  exact encEng_fits _ _ _ (by decide) (by decide) (by decide)

theorem vpopc : ∀ e, Statement (.vpopc e) := fun e => by
  show Fits (encEng 0x2a 4 e)
  exact encEng_fits _ _ _ (by decide) (by decide) (by decide)

theorem vclz : ∀ e, Statement (.vclz e) := fun e => by
  show Fits (encEng 0x2a 5 e)
  exact encEng_fits _ _ _ (by decide) (by decide) (by decide)

theorem vbrev : ∀ e, Statement (.vbrev e) := fun e => by
  show Fits (encEng 0x2a 6 e)
  exact encEng_fits _ _ _ (by decide) (by decide) (by decide)

theorem vclmull : ∀ e, Statement (.vclmull e) := fun e => by
  show Fits (encEng 0x2a 7 e)
  exact encEng_fits _ _ _ (by decide) (by decide) (by decide)

theorem vclmulh : ∀ e, Statement (.vclmulh e) := fun e => by
  show Fits (encEng 0x2a 8 e)
  exact encEng_fits _ _ _ (by decide) (by decide) (by decide)

theorem vbcast : ∀ e, Statement (.vbcast e) := fun e => by
  show Fits (encEng 0x2a 9 e)
  exact encEng_fits _ _ _ (by decide) (by decide) (by decide)

theorem vret : ∀ e, Statement (.vret e) := fun e => by
  show Fits (encEng 0x2a 10 e)
  exact encEng_fits _ _ _ (by decide) (by decide) (by decide)

theorem vfadd : ∀ e, Statement (.vfadd e) := fun e => by
  show Fits (encEng 0x2b 0 e)
  exact encEng_fits _ _ _ (by decide) (by decide) (by decide)

theorem vfsub : ∀ e, Statement (.vfsub e) := fun e => by
  show Fits (encEng 0x2b 1 e)
  exact encEng_fits _ _ _ (by decide) (by decide) (by decide)

theorem vfmul : ∀ e, Statement (.vfmul e) := fun e => by
  show Fits (encEng 0x2b 2 e)
  exact encEng_fits _ _ _ (by decide) (by decide) (by decide)

theorem vfma : ∀ e, Statement (.vfma e) := fun e => by
  show Fits (encEng 0x2b 3 e)
  exact encEng_fits _ _ _ (by decide) (by decide) (by decide)

theorem vfdiv : ∀ e, Statement (.vfdiv e) := fun e => by
  show Fits (encEng 0x2b 4 e)
  exact encEng_fits _ _ _ (by decide) (by decide) (by decide)

theorem vfsqrt : ∀ e, Statement (.vfsqrt e) := fun e => by
  show Fits (encEng 0x2b 5 e)
  exact encEng_fits _ _ _ (by decide) (by decide) (by decide)

theorem vfmin : ∀ e, Statement (.vfmin e) := fun e => by
  show Fits (encEng 0x2b 6 e)
  exact encEng_fits _ _ _ (by decide) (by decide) (by decide)

theorem vfmax : ∀ e, Statement (.vfmax e) := fun e => by
  show Fits (encEng 0x2b 7 e)
  exact encEng_fits _ _ _ (by decide) (by decide) (by decide)

theorem vfabs : ∀ e, Statement (.vfabs e) := fun e => by
  show Fits (encEng 0x2b 8 e)
  exact encEng_fits _ _ _ (by decide) (by decide) (by decide)

theorem vfneg : ∀ e, Statement (.vfneg e) := fun e => by
  show Fits (encEng 0x2b 9 e)
  exact encEng_fits _ _ _ (by decide) (by decide) (by decide)

theorem vcmpeq : ∀ e, Statement (.vcmpeq e) := fun e => by
  show Fits (encEng 0x2c 0 e)
  exact encEng_fits _ _ _ (by decide) (by decide) (by decide)

theorem vcmplt : ∀ e, Statement (.vcmplt e) := fun e => by
  show Fits (encEng 0x2c 1 e)
  exact encEng_fits _ _ _ (by decide) (by decide) (by decide)

theorem vcmpltu : ∀ e, Statement (.vcmpltu e) := fun e => by
  show Fits (encEng 0x2c 2 e)
  exact encEng_fits _ _ _ (by decide) (by decide) (by decide)

theorem vfcmpeq : ∀ e, Statement (.vfcmpeq e) := fun e => by
  show Fits (encEng 0x2c 3 e)
  exact encEng_fits _ _ _ (by decide) (by decide) (by decide)

theorem vfcmplt : ∀ e, Statement (.vfcmplt e) := fun e => by
  show Fits (encEng 0x2c 4 e)
  exact encEng_fits _ _ _ (by decide) (by decide) (by decide)

theorem vsel : ∀ e, Statement (.vsel e) := fun e => by
  show Fits (encEng 0x2c 5 e)
  exact encEng_fits _ _ _ (by decide) (by decide) (by decide)

theorem vmask : ∀ e, Statement (.vmask e) := fun e => by
  show Fits (encEng 0x2c 6 e)
  exact encEng_fits _ _ _ (by decide) (by decide) (by decide)

theorem vredadd : ∀ e, Statement (.vredadd e) := fun e => by
  show Fits (encEng 0x2d 0 e)
  exact encEng_fits _ _ _ (by decide) (by decide) (by decide)

theorem vredmin : ∀ e, Statement (.vredmin e) := fun e => by
  show Fits (encEng 0x2d 1 e)
  exact encEng_fits _ _ _ (by decide) (by decide) (by decide)

theorem vredmax : ∀ e, Statement (.vredmax e) := fun e => by
  show Fits (encEng 0x2d 2 e)
  exact encEng_fits _ _ _ (by decide) (by decide) (by decide)

theorem vfredadd : ∀ e, Statement (.vfredadd e) := fun e => by
  show Fits (encEng 0x2d 3 e)
  exact encEng_fits _ _ _ (by decide) (by decide) (by decide)

theorem vperm : ∀ e, Statement (.vperm e) := fun e => by
  show Fits (encEng 0x2d 4 e)
  exact encEng_fits _ _ _ (by decide) (by decide) (by decide)

theorem vslide : ∀ e, Statement (.vslide e) := fun e => by
  show Fits (encEng 0x2d 5 e)
  exact encEng_fits _ _ _ (by decide) (by decide) (by decide)

theorem vld : ∀ e, Statement (.vld e) := fun e => by
  show Fits (encEng 0x2e 0 e)
  exact encEng_fits _ _ _ (by decide) (by decide) (by decide)

theorem vst : ∀ e, Statement (.vst e) := fun e => by
  show Fits (encEng 0x2e 1 e)
  exact encEng_fits _ _ _ (by decide) (by decide) (by decide)

theorem vgat : ∀ e, Statement (.vgat e) := fun e => by
  show Fits (encEng 0x2e 2 e)
  exact encEng_fits _ _ _ (by decide) (by decide) (by decide)

theorem vsct : ∀ e, Statement (.vsct e) := fun e => by
  show Fits (encEng 0x2e 3 e)
  exact encEng_fits _ _ _ (by decide) (by decide) (by decide)

theorem vqnt : ∀ e, Statement (.vqnt e) := fun e => by
  show Fits (encEng 0x2f 0 e)
  exact encEng_fits _ _ _ (by decide) (by decide) (by decide)

theorem vdq : ∀ e, Statement (.vdq e) := fun e => by
  show Fits (encEng 0x2f 1 e)
  exact encEng_fits _ _ _ (by decide) (by decide) (by decide)

theorem vcvt : ∀ e, Statement (.vcvt e) := fun e => by
  show Fits (encEng 0x2f 2 e)
  exact encEng_fits _ _ _ (by decide) (by decide) (by decide)

theorem vrange : ∀ e, Statement (.vrange e) := fun e => by
  show Fits (encEng 0x2f 3 e)
  exact encEng_fits _ _ _ (by decide) (by decide) (by decide)

theorem vmse : ∀ e, Statement (.vmse e) := fun e => by
  show Fits (encEng 0x2f 4 e)
  exact encEng_fits _ _ _ (by decide) (by decide) (by decide)

theorem vdefer : ∀ e, Statement (.vdefer e) := fun e => by
  show Fits (encEng 0x30 0 e)
  exact encEng_fits _ _ _ (by decide) (by decide) (by decide)

theorem vdrainq : ∀ e, Statement (.vdrainq e) := fun e => by
  show Fits (encEng 0x30 1 e)
  exact encEng_fits _ _ _ (by decide) (by decide) (by decide)

theorem cld : ∀ e, Statement (.cld e) := fun e => by
  show Fits (encEng 0x31 0 e)
  exact encEng_fits _ _ _ (by decide) (by decide) (by decide)

theorem clde : ∀ e, Statement (.clde e) := fun e => by
  show Fits (encEng 0x31 1 e)
  exact encEng_fits _ _ _ (by decide) (by decide) (by decide)

theorem cgat : ∀ e, Statement (.cgat e) := fun e => by
  show Fits (encEng 0x31 2 e)
  exact encEng_fits _ _ _ (by decide) (by decide) (by decide)

theorem cpf : ∀ e, Statement (.cpf e) := fun e => by
  show Fits (encEng 0x31 3 e)
  exact encEng_fits _ _ _ (by decide) (by decide) (by decide)

theorem fget : ∀ e, Statement (.fget e) := fun e => by
  show Fits (encEng 0x31 4 e)
  exact encEng_fits _ _ _ (by decide) (by decide) (by decide)

theorem cst : ∀ e, Statement (.cst e) := fun e => by
  show Fits (encEng 0x32 0 e)
  exact encEng_fits _ _ _ (by decide) (by decide) (by decide)

theorem cstd : ∀ e, Statement (.cstd e) := fun e => by
  show Fits (encEng 0x32 1 e)
  exact encEng_fits _ _ _ (by decide) (by decide) (by decide)

theorem csct : ∀ e, Statement (.csct e) := fun e => by
  show Fits (encEng 0x32 2 e)
  exact encEng_fits _ _ _ (by decide) (by decide) (by decide)

theorem cfill : ∀ e, Statement (.cfill e) := fun e => by
  show Fits (encEng 0x32 3 e)
  exact encEng_fits _ _ _ (by decide) (by decide) (by decide)

theorem fput : ∀ e, Statement (.fput e) := fun e => by
  show Fits (encEng 0x32 4 e)
  exact encEng_fits _ _ _ (by decide) (by decide) (by decide)

theorem fputOf : ∀ e, Statement (.fputOf e) := fun e => by
  show Fits (encEng 0x32 5 e)
  exact encEng_fits _ _ _ (by decide) (by decide) (by decide)

theorem cbat : ∀ e, Statement (.cbat e) := fun e => by
  show Fits (encEng 0x32 6 e)
  exact encEng_fits _ _ _ (by decide) (by decide) (by decide)

theorem fackw : ∀ e, Statement (.fackw e) := fun e => by
  show Fits (encEng 0x32 7 e)
  exact encEng_fits _ _ _ (by decide) (by decide) (by decide)

theorem cred : ∀ e, Statement (.cred e) := fun e => by
  show Fits (encEng 0x32 8 e)
  exact encEng_fits _ _ _ (by decide) (by decide) (by decide)

theorem credPartnerArrival : ∀ tile, Statement (.credPartnerArrival tile) := fun _ => event_fits

theorem copyCompletion : ∀ tile q isn, Statement (.copyCompletion tile q isn) := fun _ _ _ => event_fits

theorem copyFreeze : ∀ tile q isn, Statement (.copyFreeze tile q isn) := fun _ _ _ => event_fits

theorem engineFaultTrap : ∀ tile, Statement (.engineFaultTrap tile) := fun _ => event_fits

theorem tokenDeadlock : ∀ tile, Statement (.tokenDeadlock tile) := fun _ => event_fits

theorem queueGrowth : ∀ tile, Statement (.queueGrowth tile) := fun _ => event_fits

theorem tick : Statement .tick := event_fits

theorem tailWrite : ∀ host queue tail, Statement (.tailWrite host queue tail) := fun _ _ _ => event_fits

theorem crheadWrite : ∀ queue head, Statement (.crheadWrite queue head) := fun _ _ => event_fits

theorem lqcfgWrite : ∀ host queue v, Statement (.lqcfgWrite host queue v) := fun _ _ _ => event_fits

theorem launchPacketRead : ∀ queue, Statement (.launchPacketRead queue) := fun _ => event_fits

theorem launchClaim : ∀ launch, Statement (.launchClaim launch) := fun _ => event_fits

theorem tileChooseRecord : ∀ tile, Statement (.tileChooseRecord tile) := fun _ => event_fits

theorem poolAgeing : ∀ launch region pri, Statement (.poolAgeing launch region pri) := fun _ _ _ => event_fits

theorem rtimeBudget : ∀ launch region, Statement (.rtimeBudget launch region) := fun _ _ => event_fits

theorem haltTreeFire : ∀ launch, Statement (.haltTreeFire launch) := fun _ => event_fits

theorem launchDrainDone : ∀ launch, Statement (.launchDrainDone launch) := fun _ => event_fits

theorem codedTaskArrival : ∀ opr task, Statement (.codedTaskArrival opr task) := fun _ _ => event_fits

theorem codedTaskErasure : ∀ opr task, Statement (.codedTaskErasure opr task) := fun _ _ => event_fits

theorem rampSlot : Statement .rampSlot := event_fits

theorem govcfgWrite : ∀ v, Statement (.govcfgWrite v) := fun _ => event_fits

theorem pktRd : ∀ rid, Statement (.pktRd rid) := fun _ => event_fits

theorem pktWr : ∀ rid, Statement (.pktWr rid) := fun _ => event_fits

theorem pktAddw : ∀ rid, Statement (.pktAddw rid) := fun _ => event_fits

theorem pktAtm : ∀ rid, Statement (.pktAtm rid) := fun _ => event_fits

theorem pktPut : ∀ rid, Statement (.pktPut rid) := fun _ => event_fits

theorem pktFlag : ∀ rid, Statement (.pktFlag rid) := fun _ => event_fits

theorem pktQpushHome : ∀ rid, Statement (.pktQpushHome rid) := fun _ => event_fits

theorem pktQpopHome : ∀ rid, Statement (.pktQpopHome rid) := fun _ => event_fits

theorem pktCtrl : ∀ rid, Statement (.pktCtrl rid) := fun _ => event_fits

theorem pktReservedType : ∀ rid, Statement (.pktReservedType rid) := fun _ => event_fits

theorem routerPairing : ∀ router push pop, Statement (.routerPairing router push pop) := fun _ _ _ => event_fits

theorem dwellExpire : ∀ rid, Statement (.dwellExpire rid) := fun _ => event_fits

theorem pktRdrAnswer : ∀ rid, Statement (.pktRdrAnswer rid) := fun _ => event_fits

theorem pktWackAnswer : ∀ rid, Statement (.pktWackAnswer rid) := fun _ => event_fits

theorem pktAtmrAnswer : ∀ rid, Statement (.pktAtmrAnswer rid) := fun _ => event_fits

theorem pktQrspAnswer : ∀ rid, Statement (.pktQrspAnswer rid) := fun _ => event_fits

theorem pktErrAnswer : ∀ rid, Statement (.pktErrAnswer rid) := fun _ => event_fits

theorem pktHnakAnswer : ∀ rid, Statement (.pktHnakAnswer rid) := fun _ => event_fits

theorem hnakResend : ∀ rid, Statement (.hnakResend rid) := fun _ => event_fits

theorem remoteTimeout : ∀ rid, Statement (.remoteTimeout rid) := fun _ => event_fits

theorem bedLinkRetry : ∀ router port ok, Statement (.bedLinkRetry router port ok) := fun _ _ _ => event_fits

theorem kwaupFlitReceive : ∀ port flit, Statement (.kwaupFlitReceive port flit) := fun _ _ => event_fits

theorem kwaupLnak : ∀ port fseq, Statement (.kwaupLnak port fseq) := fun _ _ => event_fits

theorem hbeatSend : ∀ port, Statement (.hbeatSend port) := fun _ => event_fits

theorem peerDead : ∀ port, Statement (.peerDead port) := fun _ => event_fits

theorem deathNotice : ∀ port dead reporter atPort time, Statement (.deathNotice port dead reporter atPort time) := fun _ _ _ _ _ => event_fits

theorem deadmapClear : ∀ i v, Statement (.deadmapClear i v) := fun _ _ => event_fits

theorem rsGo : ∀ eng, Statement (.rsGo eng) := fun _ => event_fits

theorem rsResume : ∀ eng, Statement (.rsResume eng) := fun _ => event_fits

theorem rsHostPlan : ∀ eng, Statement (.rsHostPlan eng) := fun _ => event_fits

theorem rsPause : ∀ eng, Statement (.rsPause eng) := fun _ => event_fits

theorem rsAbort : ∀ eng, Statement (.rsAbort eng) := fun _ => event_fits

theorem rsChunkDone : ∀ eng, Statement (.rsChunkDone eng) := fun _ => event_fits

theorem prectlSoft : ∀ queue seq, Statement (.prectlSoft queue seq) := fun _ _ => event_fits

theorem prectlHard : ∀ queue seq, Statement (.prectlHard queue seq) := fun _ _ => event_fits

theorem prectlResume : ∀ queue seq, Statement (.prectlResume queue seq) := fun _ _ => event_fits

theorem testSliceEnd : ∀ cluster pass, Statement (.testSliceEnd cluster pass) := fun _ _ => event_fits

theorem scrubRead : ∀ pa, Statement (.scrubRead pa) := fun _ => event_fits

theorem objcmdCreate : ∀ home v, Statement (.objcmdCreate home v) := fun _ _ => event_fits

theorem objcmdDelete : ∀ home v, Statement (.objcmdDelete home v) := fun _ _ => event_fits

theorem mbctlH2df : ∀ msg, Statement (.mbctlH2df msg) := fun _ => event_fits

theorem mbctlD2hfClear : Statement .mbctlD2hfClear := event_fits

theorem valAnswer : ∀ tag code payload, Statement (.valAnswer tag code payload) := fun _ _ _ => event_fits

theorem fltAnswer : ∀ tag code payload, Statement (.fltAnswer tag code payload) := fun _ _ _ => event_fits

theorem decAnswer : ∀ tag code payload, Statement (.decAnswer tag code payload) := fun _ _ _ => event_fits

theorem schedAnswer : ∀ tag code payload, Statement (.schedAnswer tag code payload) := fun _ _ _ => event_fits

theorem retireAnswer : ∀ tag code payload, Statement (.retireAnswer tag code payload) := fun _ _ _ => event_fits

theorem dutyWrite : ∀ v, Statement (.dutyWrite v) := fun _ => event_fits

theorem errptrHeadWrite : ∀ head, Statement (.errptrHeadWrite head) := fun _ => event_fits

theorem sysregWrite : ∀ a v, Statement (.sysregWrite a v) := fun _ _ => event_fits

theorem bar2Access : ∀ write off len data, Statement (.bar2Access write off len data) := fun _ _ _ _ => event_fits

theorem packageReset : Statement .packageReset := event_fits

theorem fwctlGo : ∀ v, Statement (.fwctlGo v) := fun _ => event_fits

theorem quiesceEnd : Statement .quiesceEnd := event_fits

theorem verifyDone : Statement .verifyDone := event_fits

theorem fwhbHeartbeat : ∀ v, Statement (.fwhbHeartbeat v) := fun _ => event_fits

theorem heartbeatDeadline : Statement .heartbeatDeadline := event_fits

theorem spdmGetVersion : Statement .spdmGetVersion := event_fits

theorem spdmGetCapabilities : Statement .spdmGetCapabilities := event_fits

theorem spdmNegotiateAlgorithms : Statement .spdmNegotiateAlgorithms := event_fits

theorem spdmGetDigests : Statement .spdmGetDigests := event_fits

theorem spdmGetCertificate : ∀ off len, Statement (.spdmGetCertificate off len) := fun _ _ => event_fits

theorem spdmChallenge : ∀ nonce, Statement (.spdmChallenge nonce) := fun _ => event_fits

theorem spdmGetMeasurements : ∀ index nonce, Statement (.spdmGetMeasurements index nonce) := fun _ _ => event_fits

theorem spdmUnsupported : ∀ code, Statement (.spdmUnsupported code) := fun _ => event_fits

theorem mctpControl : ∀ command data, Statement (.mctpControl command data) := fun _ _ => event_fits

theorem dbgStop : ∀ r, Statement (.dbgStop r) := fun _ => event_fits

theorem dbgTimedStop : ∀ tile, Statement (.dbgTimedStop tile) := fun _ => event_fits

theorem dbgRun : ∀ r, Statement (.dbgRun r) := fun _ => event_fits

theorem dbgStep : ∀ r, Statement (.dbgStep r) := fun _ => event_fits

theorem dbgArm : ∀ r, Statement (.dbgArm r) := fun _ => event_fits

theorem dbgDump : ∀ r, Statement (.dbgDump r) := fun _ => event_fits

theorem dbgTrace : ∀ r, Statement (.dbgTrace r) := fun _ => event_fits

theorem dbgCnt : ∀ r, Statement (.dbgCnt r) := fun _ => event_fits

theorem addressBreakpointStop : ∀ tile, Statement (.addressBreakpointStop tile) := fun _ => event_fits

theorem entryWatchStop : ∀ tile q, Statement (.entryWatchStop tile q) := fun _ _ => event_fits

theorem allStopPropagate : ∀ tile, Statement (.allStopPropagate tile) := fun _ => event_fits

theorem counterSweep : ∀ unit, Statement (.counterSweep unit) := fun _ => event_fits

theorem engineCommandCompletion : ∀ tile q isn, Statement (.engineCommandCompletion tile q isn) := fun _ _ _ => event_fits

theorem coreCycle : ∀ die, Statement (.coreCycle die) := fun _ => event_fits

theorem bedCycle : Statement .bedCycle := event_fits

theorem storageBitError : ∀ pa correctable, Statement (.storageBitError pa correctable) := fun _ _ => event_fits

theorem doeDiscovery : ∀ index, Statement (.doeDiscovery index) := fun _ => event_fits

end Sys2Proof.Laws.Words
end

