-- ==== Sys2Proof/Laws/Store.lean ====
section
/-! SUPPORT. Writes at their home: they keep the canonical form of memory and change no byte outside what they cover. -/

namespace Sys2Proof.Machine

theorem State.writeHome_ok {s t : State} {key : Nat} {bs : List Byte} (h : s.writeHome key bs = .ok t) :
    t.mem = s.mem.setN key bs := by
  unfold State.writeHome at h
  split at h
  · cases h; rfl
  · simp only at h
    split at h
    · cases h
    · cases h; rfl

theorem State.writeHome_clean (s : State) (key : Nat) (bs : List Byte) (h : s.bad = []) :
    s.writeHome key bs = .ok { s with mem := s.mem.setN key bs } := by simp [State.writeHome, h]

theorem State.storeHome_clean (s : State) (key : Nat) (bs : List Byte) (h : s.bad = []) :
    s.storeHome key bs = { s with mem := s.mem.setN key bs } := by simp [State.storeHome, h]

theorem Memory.getElem_getN (m : Memory) (k n i : Nat) (h : i < (m.getN k n).length) : (m.getN k n)[i] = m.get (k + i) := by
  induction n generalizing k i with
  | zero => exact absurd h (by simp [Memory.getN])
  | succ n ih =>
    cases i with
    | zero => rfl
    | succ i => simpa [Memory.getN, Nat.add_assoc, Nat.add_comm 1] using ih (k + 1) i (by simpa [Memory.getN] using h)

theorem foldl_keep_wf (ws : List BadWord) (old m : Memory) (w : m.wf = true) :
    (ws.foldl (fun m w => m.setN w.pa (old.getN w.pa w.len)) m).wf = true := by
  induction ws generalizing m with
  | nil => exact w
  | cons x r ih => exact ih _ (Memory.setN_wf _ _ _ w)

theorem foldl_keep_get (ws : List BadWord) (old m : Memory) (k : Nat) (w : m.wf = true) (h : m.get k = old.get k) :
    (ws.foldl (fun m w => m.setN w.pa (old.getN w.pa w.len)) m).get k = old.get k := by
  induction ws generalizing m with
  | nil => exact h
  | cons x r ih =>
    refine ih _ (Memory.setN_wf _ _ _ w) ?_
    by_cases hk : k < x.pa ∨ x.pa + x.len ≤ k
    · rw [Memory.get_setN_other _ _ _ _ w (by rwa [Memory.length_getN]), h]
    · push_neg at hk
      obtain ⟨i, rfl⟩ := Nat.exists_eq_add_of_le hk.1
      rw [Memory.get_setN_same _ _ _ _ w (by rw [Memory.length_getN]; omega)]
      exact Memory.getElem_getN _ _ _ _ _

theorem State.storeHome_wf (s : State) (key : Nat) (bs : List Byte) (w : s.mem.wf = true) : (s.storeHome key bs).mem.wf = true := by
  unfold State.storeHome
  split
  · exact Memory.setN_wf _ _ _ w
  · exact foldl_keep_wf _ _ _ (Memory.setN_wf _ _ _ w)

theorem State.storeHome_get_other (s : State) (key k : Nat) (bs : List Byte) (w : s.mem.wf = true) (h : k < key ∨ key + bs.length ≤ k) :
    (s.storeHome key bs).mem.get k = s.mem.get k := by
  unfold State.storeHome
  split
  · exact Memory.get_setN_other _ _ _ _ w h
  · exact foldl_keep_get _ _ _ _ (Memory.setN_wf _ _ _ w) (Memory.get_setN_other _ _ _ _ w h)

end Sys2Proof.Machine
end

