-- ==== Sys2Proof/Tests/Slice0.lean ====
section
/-! SUPPORT. Tests of the model. Expected words and values come from the spec: the encodings of chapter 3 and the examples
beside each instruction, the worked tables, and hand calculation from the rules named at each test. The witnesses show that the
hypotheses of each obligation are met by a concrete state. -/

namespace Sys2Proof.Tests

set_option Elab.async false

open Sys2Proof Sys2Proof.Machine

/-! ### Decoding: words written out from the encodings of chapter 3 -/

/-- An engine instruction's fields, all zero. -/
def e0 : Eng := { ga := 0, gb := 0, gc := 0, f7 := 0, tok := 0, tag := 0, bat := false, fol := false, ext := 0 }

theorem test_decode_movi_64 : decode 0x20800040 0 = .ok (.movi 4 0x40) := by decide +kernel

theorem test_decode_movi_0 : decode 0x20A00000 0 = .ok (.movi 5 0) := by decide +kernel

theorem test_decode_addi_neg : decode 0x0C64FFF4 0 = .ok (.addi 3 4 0xFFF4) := by decide +kernel

theorem test_decode_addi_1 : decode 0x0CA50001 0 = .ok (.addi 5 5 1) := by decide +kernel

theorem test_decode_cmpeqi : decode 0x2C828002 0 = .ok (.cmpeqi 1 5 2) := by decide +kernel

theorem test_decode_bnp : decode 0x3C800008 0 = .ok (.bnp 1 0 8) := by decide +kernel

theorem test_decode_loopi : decode 0x4C000004 0x308 = .ok (.loopi 0 4 0x308) := by decide +kernel

theorem test_decode_mts_lc : decode 0x50008001 0 = .ok (.mtsLoopRegister 0 0 .lc) := by decide +kernel

theorem test_decode_mfs_lseq : decode 0x50810000 0 = .ok (.mfs 4 0x020) := by decide +kernel

theorem test_decode_ld_w : decode 0x54A18010 0 = .ok (.ld 5 1 2 16) := by decide +kernel

theorem test_decode_acas : decode 0x6C642806 0 = .ok (.acas 3 4 5) := by decide +kernel

theorem test_decode_tokw : decode 0x708030C0 0 = .ok (.tokw 4 3 .xs true) := by decide +kernel

theorem test_decode_fencep : decode 0x74426000 0 = .ok (.fencep 4 9 .package) := by decide +kernel

theorem test_decode_halt : decode 0x78000003 0 = .ok (.halt) := by decide +kernel

theorem test_decode_qpop : decode 0x7CC40301 0 = .ok (.qpop 6 3 4) := by decide +kernel

theorem test_decode_trap : decode 0xCC000050 0 = .ok (.trap 5) := by decide +kernel

theorem test_decode_nop : decode 0xD0000000 0 = .ok (.nop) := by decide +kernel

theorem test_decode_tokp : decode 0x80000002 5 = .ok (.tokp { e0 with f7 := 2, tok := 5 }) := by decide +kernel

theorem test_decode_xcall : decode 0x80850081 0x00040000 = .ok (.xcall { e0 with ga := 4, gb := 5, f7 := 1, ext := 0x40 }) := by decide +kernel

theorem test_decode_mshape : decode 0x84E00000 0 = .ok (.mshape { e0 with ga := 7 }) := by decide +kernel

theorem test_decode_mcsum : decode 0x84000282 0 = .ok (.mcsum { e0 with f7 := 2 }) := by decide +kernel

theorem test_decode_mdrain : decode 0x91205081 0 = .ok (.mdrain { e0 with ga := 9, gc := 10, f7 := 1 }) := by decide +kernel

theorem test_decode_vclmull : decode 0xA8A63B80 0 = .ok (.vclmull { e0 with ga := 5, gb := 6, gc := 7 }) := by decide +kernel

theorem test_decode_vqnt : decode 0xBC820030 0x00020000 = .ok (.vqnt { e0 with ga := 4, gb := 2, f7 := 0x30, ext := 0x20 }) := by decide +kernel

theorem test_decode_cld : decode 0xC4853000 0x38 = .ok (.cld { e0 with ga := 4, gb := 5, gc := 6, tok := 8, tag := 3 }) := by decide +kernel

theorem test_decode_clde : decode 0xC4E84880 2 = .ok (.clde { e0 with ga := 7, gb := 8, gc := 9, tok := 2 }) := by decide +kernel

theorem test_decode_fget : decode 0xC485320C 0x70 = .ok (.fget { e0 with ga := 4, gb := 5, gc := 6, f7 := 12, tag := 7 }) := by decide +kernel

theorem test_decode_fput_of : decode 0xC94B0288 0 = .ok (.fputOf { e0 with ga := 10, gb := 11, f7 := 8 }) := by decide +kernel

theorem test_decode_cbat : decode 0xC8853300 0x000FF490 = .ok (.cbat { e0 with ga := 4, gb := 5, gc := 6, tag := 9, bat := true, ext := 0xFF }) := by decide +kernel

theorem test_decode_fackw : decode 0xC980038F 0 = .ok (.fackw { e0 with ga := 12, f7 := 0xF }) := by decide +kernel

/-! ### Reserved encodings are refused by name (Table 3.7) -/

/-- Major 0x00 is reserved, so the all-zero word is illegal. -/
theorem test_reserved_major : decode 0 0 = .error .reservedMajor := by decide +kernel

/-- QDRAIN with a zero mask is reserved (R189). -/
theorem test_reserved_qdrain : decode 0x7000000C 0 = .error .reservedForm := by decide +kernel

/-- NOP with a bit set in a field marked zero (R102). -/
theorem test_nonzero_field : decode 0xD0000001 0 = .error .nonZeroField := by decide +kernel

/-- The decoder of the opcode table lays words out little-endian. -/
theorem test_table_word : decodeTableWord 64 0x00000308_4C000004 = some (.loopi 0 4 0x308) := by decide +kernel

/-! ### Well-formedness: one ill-formed term for each rule -/

/-- Every rule of `Instr.controlRule` refuses a term. -/
theorem test_wf_control : ∀ i ∈ ([.bp 0 0 1, .bp 1 0 0, .br 0 0, .bnp 1 0 0, .call 0 0, .loop 0 1 0x10, .loopi 0 1 0x20, .lds 1 2 3 0,
    .mts 1 0x010, .tokw 1 17 .lx false, .qdrain 0, .tlbinv 1 3 .tile, .l1inv 1 true, .wfe 1 0] : List Instr), i.wf = false := by
  decide +kernel

/-- Tokens to a missing neighbour, a tag outside copies, BAT and FOL where they are not allowed (R34, R108, R109). -/
theorem test_wf_stream : ∀ i ∈ ([.cld { e0 with tok := 1 }, .cst { e0 with tok := 2 }, .vadd { e0 with tag := 1 }, .mma { e0 with bat := true },
    .fackw { e0 with f7 := 1, bat := true }, .cpf { e0 with fol := true }, .cst { e0 with fol := true }] : List Instr), i.wf = false := by
  decide +kernel

/-- Every matrix instruction with a rule refuses a term. -/
theorem test_wf_matrix : ∀ i ∈ ([.mshape { e0 with gb := 1 }, .manch { e0 with f7 := 1 }, .mzp { e0 with f7 := 8 }, .mpriv { e0 with gc := 1 },
    .mcode { e0 with ext := 1 }, .mcsum { e0 with f7 := 3 }, .mlda { e0 with gc := 1 }, .mldb { e0 with f7 := 2 }, .mma { e0 with ga := 1 },
    .mmas { e0 with ext := 1 }, .mmaq { e0 with gb := 1 }, .mmap { e0 with gc := 1 }, .mchk { e0 with f7 := 2 }, .mdrain { e0 with ext := 3 },
    .mdrainx { e0 with f7 := 2 }, .mzero e0, .mwm { e0 with ext := 129 }, .mcap { e0 with f7 := 1 }, .mstat { e0 with f7 := 8 },
    .smv { e0 with f7 := 4 }, .smvw { e0 with ga := 1 }] : List Instr), i.wf = false := by decide +kernel

/-- Every integer and bit vector instruction refuses an element type above 2 or a stray field. -/
theorem test_wf_vector_int : ∀ i ∈ ([.vadd { e0 with f7 := 0x30 }, .vsub { e0 with ext := 2 }, .vmul { e0 with ext := 8 }, .vmulh { e0 with ext := 16 },
    .vmulhu { e0 with f7 := 0x30 }, .vmin { e0 with f7 := 0x30 }, .vmax { e0 with f7 := 0x30 }, .vminu { e0 with f7 := 0x30 },
    .vmaxu { e0 with f7 := 0x30 }, .vabs { e0 with gc := 1 }, .vneg { e0 with ext := 1 }, .vsadd { e0 with f7 := 0x30 }, .vssub { e0 with f7 := 0x30 },
    .vand { e0 with f7 := 0x30 }, .vor { e0 with f7 := 0x30 }, .vxor { e0 with f7 := 0x30 }, .vnot { e0 with gc := 1 }, .vshl { e0 with f7 := 0x30 },
    .vshr { e0 with f7 := 0x30 }, .vsar { e0 with f7 := 0x30 }, .vpopc { e0 with gc := 1 }, .vclz { e0 with gc := 1 }, .vbrev { e0 with gc := 1 },
    .vclmull { e0 with f7 := 0x30 }, .vclmulh { e0 with f7 := 0x30 }, .vbcast { e0 with gc := 1 }, .vret { e0 with ext := 0x400 }] : List Instr),
    i.wf = false := by decide +kernel

/-- Every other vector instruction refuses a term. -/
theorem test_wf_vector_rest : ∀ i ∈ ([.vfadd e0, .vfsub e0, .vfmul e0, .vfma e0, .vfdiv e0, .vfsqrt { e0 with f7 := 0x30, gc := 1 },
    .vfmin { e0 with f7 := 0x30, ext := 2 }, .vfmax e0, .vfabs e0, .vfneg e0, .vcmpeq { e0 with ga := 8 }, .vcmplt { e0 with f7 := 0x10 },
    .vcmpltu { e0 with f7 := 0x10 }, .vfcmpeq e0, .vfcmplt e0, .vsel { e0 with f7 := 8 }, .vmask { e0 with ga := 8 }, .vredadd { e0 with ext := 16 },
    .vredmin { e0 with ext := 32 }, .vredmax { e0 with f7 := 8 }, .vfredadd e0, .vperm { e0 with f7 := 0x50 }, .vslide { e0 with ext := 1 },
    .vld { e0 with gc := 1 }, .vst { e0 with f7 := 8 }, .vgat { e0 with ext := 1 }, .vsct { e0 with f7 := 8 }, .vqnt { e0 with f7 := 0x30, ext := 0x50 },
    .vdq { e0 with f7 := 0x30, ext := 0x50 }, .vcvt e0, .vrange { e0 with f7 := 0x30, ga := 1 }, .vmse { e0 with f7 := 0x30, ga := 1 }, .vdefer e0,
    .vdrainq e0] : List Instr), i.wf = false := by decide +kernel

/-- Every copy, TOKP and XCALL refuse a term. -/
theorem test_wf_copy : ∀ i ∈ ([.tokp { e0 with f7 := 3 }, .xcall { e0 with f7 := 4 }, .cld { e0 with f7 := 2 }, .clde { e0 with f7 := 1 },
    .cgat { e0 with ext := 1 }, .cpf { e0 with ga := 1 }, .fget { e0 with f7 := 1 }, .cst { e0 with f7 := 2 }, .cstd { e0 with gc := 1 },
    .csct { e0 with ext := 1 }, .cfill { e0 with f7 := 1 }, .fput { e0 with ext := 1 }, .fputOf e0, .cbat { e0 with f7 := 10 }, .fackw e0,
    .cred { e0 with f7 := 5 }] : List Instr), i.wf = false := by decide +kernel

/-- An engine-owned line takes no XCALL, no token and no register above 3 (R111). -/
theorem test_wf_routine : (Instr.xcall e0).wfRoutine .x = false ∧ (Instr.mma { e0 with tok := 1 }).wfRoutine .x = false ∧
    (Instr.mshape { e0 with ga := 4 }).wfRoutine .x = false ∧ (Instr.mma e0).wfRoutine .x = true := by decide +kernel

/-! ### States of the tests -/

/-- Tile 0 at M with the instruction of slot 1 of the loaded line in hand: slot 2 is its successor, line 0 the only line. -/
def one : State := (State.reset.loadProgram (fetchBytes 0)).updCur (fun c => { c with succ := some 2 })

/-- The state that an instruction answers; reset where it answers none. -/
def after (o : Out) : State :=
  match o with
  | .next s => s
  | .fault _ => State.reset
  | .refused _ => State.reset

/-- The registers of a core set from a list. -/
def Tcc.withRegs (c : Tcc) (l : List (Reg × Word)) : Tcc := { c with regs := l.foldl (fun r p => r.set p.1.toNat p.2) c.regs }

/-- `one` with registers. -/
def gs (l : List (Reg × Word)) : State := one.updCur (fun c => Tcc.withRegs c l)

/-- The same at level P. -/
def us (l : List (Reg × Word)) : State := (gs l).updCur (fun c => { c with atM := false })

/-- Tile 0's own state changed. -/
def ts (f : Tile → Tile) (l : List (Reg × Word)) : State := (gs l).updTile 0 f

/-- The loaded launch changed. -/
def ls (f : Launch → Launch) (s : State) : State := { s with launches := [(0, f loadedLaunch)] }

/-- A launch of tiles 0 and 1, tile 0 with the instruction in hand. -/
def two (l : List (Reg × Word)) : State :=
  ls (fun x => { x with tiles := [0, 1], pkt := { x.pkt with w := 2 } })
    ((gs l).updTile 1 (fun t => { t with bound := some 0, ltn := 1 }))

/-- Management core 0 in the firmware's image of one line at 0x4000, which holds the instruction w. -/
def coreAt (w : Nat) (l : List (Reg × Word)) : State :=
  let s := State.reset.loadProgram (leBytes 4 0x48000000 ++ leBytes 8 w)
  { s with who := .core 0, fw := { s.fw with root := 0x1000, base := 0x4000, lines := 1 } }.setCur
    (Tcc.withRegs { Tcc.reset with pc := 1, succ := some 2 } l)

/-- The same with a reserved word. -/
def coreS (l : List (Reg × Word)) : State := coreAt 0 l

/-- The conditions of `State.plainAt` as a test. -/
def standsAt (s : State) (a : CodeAddr) : Bool :=
  let c := s.cur
  let free := fun (x : LoopSet) => decide (x.lc = 0) || decide (x.ae ≠ c.pc)
  decide (c.succ = some a) && decide (lineOf a < s.image.2) && (c.intrap || (free c.loop0 && free c.loop1)) && decide (c.stepLeft = none)

theorem plain_of {s : State} {a : CodeAddr} (hc : s.hasCore) (h : standsAt s a = true) : s.plainAt a := by
  simp only [standsAt, Bool.and_eq_true, Bool.or_eq_true, decide_eq_true_eq] at h
  obtain ⟨⟨⟨h1, h2⟩, h3⟩, h4⟩ := h
  exact ⟨hc, ⟨h1, h2⟩, h3.imp id (fun p => p), h4⟩

/-- A tile at a plain place with no prefix. -/
theorem tile_plain {s : State} {g : Nat} {a : CodeAddr} (hw : s.who = .tile g) (h : standsAt s a = true) (hp : s.cur.pfx = none) :
    s.onTile g ∧ s.plainAt a ∧ s.cur.pfx = none :=
  ⟨hw, plain_of (by rw [State.hasCore, hw]; trivial) h, hp⟩

/-- The registers' state `one` stands plainly on tile 0. -/
theorem one_plain : one.onTile 0 ∧ one.plainAt 2 ∧ one.cur.pfx = none := tile_plain rfl (by decide +kernel) (by decide +kernel)

/-- So does a management core. -/
theorem core_plain : (coreS []).who = .core 0 ∧ (coreS []).plainAt 2 ∧ (coreS []).cur.pfx = none :=
  ⟨by decide +kernel, plain_of (by show (0 : Nat) < 4; decide) (by decide +kernel), by decide +kernel⟩

/-! ### One step of the control core; values by hand from the rows of chapter 4 -/

theorem test_add_wraps : (after (exec (.add 3 4 5) (gs [(4, 7), (5, 0xFFFFFFFFFFFFFFFF)]))).g 3 = 6 := by decide +kernel
theorem test_sub_own_source : (after (exec (.sub 4 4 5) (gs [(4, 7), (5, 9)]))).g 4 = 0xFFFFFFFFFFFFFFFE := by decide +kernel
theorem test_mulh_signs : (after (exec (.mulh 3 4 5) (gs [(4, 0xFFFFFFFFFFFFFFFF), (5, 2)]))).g 3 = 0xFFFFFFFFFFFFFFFF := by decide +kernel
theorem test_mulhu : (after (exec (.mulhu 3 4 5) (gs [(4, 0xFFFFFFFFFFFFFFFF), (5, 2)]))).g 3 = 1 := by decide +kernel
/-- R133: division by zero gives all ones, the remainder the dividend; the most negative number over -1 wraps. -/
theorem test_div_zero : (after (exec (.div 3 4 5) (gs [(4, 7)]))).g 3 = 0xFFFFFFFFFFFFFFFF ∧ (after (exec (.rem 3 4 5) (gs [(4, 7)]))).g 3 = 7 := by
  decide +kernel
theorem test_div_min : (after (exec (.div 3 4 5) (gs [(4, 0x8000000000000000), (5, 0xFFFFFFFFFFFFFFFF)]))).g 3 = 0x8000000000000000 := by
  decide +kernel
/-- Truncation toward zero: -7 / 2 = -3, remainder -1. -/
theorem test_div_truncates : (after (exec (.div 3 4 5) (gs [(4, 0xFFFFFFFFFFFFFFF9), (5, 2)]))).g 3 = 0xFFFFFFFFFFFFFFFD ∧
    (after (exec (.rem 3 4 5) (gs [(4, 0xFFFFFFFFFFFFFFF9), (5, 2)]))).g 3 = 0xFFFFFFFFFFFFFFFF := by decide +kernel
theorem test_sar : (after (exec (.sar 3 4 5) (gs [(4, 0x8000000000000000), (5, 127)]))).g 3 = 0xFFFFFFFFFFFFFFFF := by decide +kernel
theorem test_clz_ctz : (after (exec (.clz 3 4) (gs [(4, 1)]))).g 3 = 63 ∧ (after (exec (.ctz 3 4) (gs [(4, 0x50)]))).g 3 = 4 ∧
    (after (exec (.clz 3 4) (gs []))).g 3 = 64 := by decide +kernel
theorem test_bswap : (after (exec (.bswap 3 4) (gs [(4, 0x0102030405060708)]))).g 3 = 0x0807060504030201 := by decide +kernel
theorem test_movw_high : (after (exec (.movw 3 true 0xAABBCCDD) (gs [(3, 0x11111111_22222222)]))).g 3 = 0xAABBCCDD22222222 := by decide +kernel
theorem test_lea : (after (exec (.lea 3 4 5 3) (gs [(4, 100), (5, 2)]))).g 3 = 116 := by decide +kernel
/-- An immediate is sign-extended for the unsigned compare too. -/
theorem test_cmpltui : (after (exec (.cmpltui 1 4 0x7FFF) (gs [(4, 5)]))).pd 1 = true := by decide +kernel
theorem test_write_g0 : (after (exec (.movi 0 5) (gs []))).g 0 = 0 ∧ (after (exec (.movi 0 5) (gs []))).cur.pc = 2 := by decide +kernel
theorem test_pnot_p0 : (after (exec (.pnot 0 0) (gs []))).pd 0 = true := by decide +kernel
/-- A taken branch to slot 5 of line 0, and one past the image: the code-address fault, whose EINFO is the rejected target. -/
theorem test_br : (after (exec (.br 0 5) (gs []))).cur.pc = 5 ∧ (after (exec (.br 1 5) (gs []))).cur.trap.ecause = 4 ∧
    (after (exec (.br 1 5) (gs []))).cur.trap.einfo = 0x15 := by decide +kernel
theorem test_call_ret : let s := after (exec (.call 0 7) (gs []))
    s.cur.pc = 7 ∧ s.cur.ras = [2] ∧ (after (exec .ret s)).cur.pc = 2 ∧ (after (exec .ret s)).cur.ras = [] := by decide +kernel
theorem test_ret_underflow : (after (exec .ret (gs []))).cur.trap.ecause = 10 := by decide +kernel
/-- The loop set falls back to its start until its count is used up (R147). -/
theorem test_loop_back : let s := one.updCur (fun c => { c with loop0 := { lc := 2, ls := 5, le := 1, ae := 1 } })
    let b := one.updCur (fun c => { c with loop0 := { lc := 2, ls := 1, le := 1, ae := 1 } })
    (after (exec .nop b)).cur.pc = 1 ∧ (after (exec .nop b)).cur.loop0.lc = 1 ∧ (after (exec .nop s)).cur.trap.ecause = 11 := by decide +kernel
/-- TRAP saves its successor, BKPT its own address (R428, Table 13.4). -/
theorem test_trap : let s := after (exec (.trap 5) (us []))
    s.cur.trap.epc = 2 ∧ s.cur.trap.ecause = 19 ∧ s.cur.trap.einfo = 5 ∧ s.cur.trap.estatus = 0 ∧ s.cur.atM = true ∧ s.cur.intrap = true ∧
    s.cur.img = 0xFFFF := by decide +kernel
theorem test_eret : let s := after (exec (.trap 5) (us []))
    let t := after (exec .eret s)
    t.cur.pc = 2 ∧ t.cur.atM = false ∧ t.cur.intrap = false := by decide +kernel
/-- A store and a load of the tile's own scratchpad through the launch window (R52), little-endian. -/
theorem test_window_store : let s := after (exec (.st 4 5 2 0) (gs [(4, 0x11223344_55667788), (5, 0x1FF000000000100)]))
    s.mem.getN (tileBase 0 + 0x100) 8 = [0x88, 0x77, 0x66, 0x55, 0, 0, 0, 0] ∧
    (after (exec (.lds 6 5 1 1) s)).g 6 = 0x6677 := by decide +kernel
/-- The chain regions refuse a store (R53). -/
theorem test_store_queue_region : (after (exec (.st 4 5 3 0) (gs [(5, 0x1FF0000000F4000)]))).cur.trap.ecause = 12 := by decide +kernel
theorem test_misaligned_atom : (after (exec (.aadd 3 4 5) (gs [(4, 0x880001)]))).cur.trap.ecause = 6 := by decide +kernel
theorem test_amin_signed : let s := { gs [(4, 0x880008), (5, 0xFFFFFFFFFFFFFFFF)] with mem := [(tileBase 0 + 0x880008, (5 : Byte))] }
    let t := after (exec (.amin 3 4 5) s)
    t.g 3 = 5 ∧ t.mem.getN (tileBase 0 + 0x880008) 8 = List.replicate 8 0xFF := by decide +kernel
theorem test_imx_sign : let s := after (exec (.imx 0xFFFFFFFFFFFF) (gs []))
    s.cur.pfx.isSome = true ∧ (after (exec (.addi 3 4 0) (s.updCur (fun c => { c with succ := some 3 })))).g 3 = 0xFFFFFFFFFFFFFFFF := by decide +kernel
theorem test_imx_twice : (after (exec (.imx 1) (after (exec (.imx 1) (gs []))))).cur.trap.ecause = 1 := by decide +kernel
theorem test_mts_privilege : (after (exec (.mts 4 0x034) (us [(4, 9)]))).cur.trap.ecause = 2 ∧
    ((after (exec (.mts 4 0x034) (gs [(4, 9)]))).tile 0).scc = 9 := by decide +kernel
theorem test_mfs_qcap : (after (exec (.mfs 3 0x02E) (gs []))).g 3 = 0x010001000100 := by decide +kernel
theorem test_tokw : let s := ts (fun t => { t with xs := 5 }) []
    (after (exec (.tokw 4 3 .xs true) s)).g 4 = 2 ∧ ((after (exec (.tokw 4 3 .xs true) s)).tile 0).xs = 2 ∧
    (after (exec (.tokw 4 6 .xs true) s)).cur.waiting = true := by decide +kernel
theorem test_tagff : let s := ts (fun t => { t with tags := 0x28 }) [(5, 0x38)]
    (after (exec (.tagff 4 5 true) s)).g 4 = 3 ∧ ((after (exec (.tagff 4 5 true) s)).tile 0).tags = 0x20 := by decide +kernel
theorem test_halt : ((after (exec .halt (gs []))).tile 0).cont = none := by decide +kernel
theorem test_spawn : let s := after (exec (.spawn 4 5) (us [(4, 1), (5, 77)]))
    s.cur.pc = 2 ∧ ((AMap.find? s.launches 0).map (fun l => (l.recsOf 0 0).map (fun r => (r.1.code, r.1.frame)))) = some [(1, 77)] := by
  decide +kernel
/-- Engine issue: the first entry of XQ stands at the first entry of its region (R27), its first eight bytes the words. -/
theorem test_issue : let s := after (exec (.vadd { e0 with ga := 1, gb := 2, gc := 3 }) (gs []))
    ((s.tile 0).xq.ents.map (fun e => e.isn)) = [1] ∧ (s.tile 0).xq.tail = (s.tile 0).xq.head + 1 ∧
    s.mem.getN (tileBase 0 + 0xF8000) 4 = leBytes 4 (encode (.vadd { e0 with ga := 1, gb := 2, gc := 3 })).1 := by decide +kernel

/-! ### Witnesses: states and operands that meet the hypotheses of each obligation, clause by clause -/

/-- The instruction that a fetch gives. -/
def gotI (r : Res Instr) : Option Instr := match r with
  | .ok i _ => some i
  | _ => none

/-- The cause of the trap that an operation finds. -/
def trapped {α : Type} (r : Res α) : Option Nat := match r with
  | .trap t _ => some t.cause
  | _ => none

/-- The value and the state of an operation that succeeds. -/
def okd {α : Type} (r : Res α) : Option (α × State) := match r with
  | .ok a s => some (a, s)
  | _ => none

theorem witness_DecodeEncode : (Instr.movi 4 0x40).wf = true ∧ (Instr.cld { e0 with tag := 63, bat := true, ext := 0xFFFF }).wf = false ∧
    (Instr.cld { e0 with tag := 63, bat := true }).wf = true := by decide +kernel

theorem witness_EncodeDecode : decode 0x20800040 0xFFFFFFFF = .ok (.movi 4 0x40) ∧ decode 0xC4853000 0x38 ≠ .error .reservedForm := by decide +kernel

/-- A tile's instruction, a tile's fetch trap, a core's instruction, a core's fetch trap. -/
theorem witness_StepRunsDecoded :
    (let s := { State.reset.withFetchWord 32 0x20800040 with agenda := [.run (.tile 0)] }
     (s.tile 0).runs = true ∧ s.tccHeld 0 = false ∧ (s.tile 0).tcc.pend = none ∧ (s.tile 0).takesFault = false ∧
     (s.tile 0).addrHit = false ∧ gotI (({ s with who := .tile 0 } : State).setTile 0 (s.tile 0).passed).fetch = some (.movi 4 0x40)) ∧
    ({ State.reset.withFetchWord 32 0x20800040 with agenda := [] } : State).round ≠ [] ∧
    (let s := State.reset.withFetchWord 32 0
     (s.tile 0).runs = true ∧ trapped (s.setTile 0 (s.tile 0).passed).fetch = some 1) ∧
    (let s := coreAt 0x20800040 []
     ({ s with agenda := [.run (.core 0)] } : State).agenda ≠ [] ∧ s.cur.stopped = false ∧ s.coreHeld s.cur = false ∧ gotI s.fetch = some (.movi 4 0x40)) ∧
    (coreS []).cur.stopped = false ∧ trapped (coreS []).fetch = some 1 := by decide +kernel

/-- The state of a fetch in slot k of a line that has been entered. -/
def fetching (w k : Nat) : State :=
  ((State.reset.loadProgram (leBytes 4 0x08000000 ++ List.replicate (4 * (k - 1)) 0 ++ leBytes 8 w))).updCur
    (fun c => { c with pc := BitVec.ofNat 28 k, lined := true })

/-- A 32-bit form in slot 15, a 64-bit form in slot 14 and in slot 15, a reserved word. -/
theorem witness_FetchDecodes :
    (∀ p ∈ [(0xD0000000, 15), (0x000003084C000004, 14), (0x4C000004, 15), (0, 1)],
      let s := fetching p.1 p.2
      s.cur.img ≠ 0xFFFF ∧ ((okd (s.fetchWord s.image.1)).map (fun r => (r.1, r.2.cur.lined))) = some (0x08000000, true) ∧
      ((okd (s.fetchWord (s.image.1 + 4 * p.2))).map (fun r => r.1)) = some (p.1 % 2 ^ 32) ∧ s.cur.pfx = none ∧ slotOf s.cur.pc = p.2) ∧
    longMajor (0x4C000004 / 2 ^ 26) = true ∧ longMajor (0xD0000000 / 2 ^ 26) = false := by decide +kernel

theorem witness_StepKeepsSchedule : one.scheduled = true ∧ { one with agenda := [.engine 255 .x, .run (.core 3)] }.scheduled = true := by
  decide +kernel

theorem witness_RegisterZero : one.hasCore ∧ (coreS []).hasCore := ⟨trivial, (by show (0 : Nat) < 4; decide)⟩

theorem witness_IntegerInstructions : one.plainAt 2 ∧ one.cur.pfx = none ∧
    (let s := one.updCur (fun c => { c with pfx := some { imx := some 7, scp := none, start := 1, w0 := 0, w1 := 0 } })
     standsAt s 2 = true ∧ s.pfxOk true false ∧ s.imxValue = some 7) :=
  ⟨one_plain.2.1, one_plain.2.2, by decide +kernel, by intro p h; cases h; simp, by decide +kernel⟩

theorem witness_CompareAndPredicateInstructions : (coreS []).plainAt 2 ∧ (coreS []).cur.pfx = none :=
  ⟨core_plain.2.1, core_plain.2.2⟩

/-- An IMX before an instruction that does not take it, an SCP before one that does not, both kinds pending, and no successor. -/
theorem witness_Prefixes :
    takesImx (.add 1 2 3) = false ∧ takesImx (.addi 1 2 5) = false ∧ takesScp (.addi 1 2 0) = false ∧ (Instr.add 1 2 3).isEvent = false ∧
    (one.cur.pfx.getD { imx := none, scp := none, start := 1, w0 := 0, w1 := 0 }).imx = none ∧ one.hasSucc 2 ∧
    (one.updCur (fun c => { c with succ := none })).cur.succ = none ∧ one.hasCore :=
  ⟨by decide, by decide, by decide, by decide, by decide +kernel, ⟨by decide +kernel, by decide +kernel⟩, by decide +kernel, trivial⟩

/-- A target at the last line of the image, and one past it. -/
theorem witness_BranchesAndCalls_targets : one.plainAt 2 ∧ one.cur.pfx = none ∧ one.image.2 = 1 ∧ lineOf one.cur.pc = 0 ∧ (0 : BitVec 19).toInt = 0 ∧
    (1 : BitVec 19).toInt = 1 ∧ (0x7FFFF : BitVec 19).toInt = -1 :=
  ⟨one_plain.2.1, one_plain.2.2, by decide +kernel, by decide +kernel, by decide, by decide, by decide⟩

/-- The condition of `State.codeOk` as a test. -/
def isCodeIn (s : State) (v : Word) : Bool := decide (v.toNat < 2 ^ 28) && decide (v.toNat % 16 ≠ 0) && decide (v.toNat / 16 < s.image.2)

/-- Sixteen entries in the return-address store, room for the eight bytes below RSP in the tile's own scratchpad. -/
def spilling : State := (gs [(4, 5)]).updCur (fun c => { c with ras := (List.range 16).map (fun n => BitVec.ofNat 28 (n + 1)), rsp := 0x1FF000000000108 })

theorem witness_BranchesAndCalls : one.plainAt 2 ∧ isCodeIn (gs [(4, 5)]) 5 = true ∧ isCodeIn (gs [(4, 16)]) 16 = false ∧
    one.cur.ras.length < 16 ∧ standsAt spilling 2 = true ∧ spilling.cur.pfx = none ∧ spilling.cur.ras.length = 16 ∧ spilling.cur.ras.getLast? = some 16 ∧
    (match spilling.cCheck (spilling.cur.rsp - 8) 8 true true with
      | .ok [p] s1 => decide (p.far = none) && !p.l1 && decide (p.n = 8) && decide (s1.bad = []) && decide (s1.armed = []) && standsAt s1 2 &&
          decide (s1.cur = spilling.cur) && s1.mem.wf
      | _ => false) = true :=
  ⟨one_plain.2.1, by decide +kernel, by decide +kernel, by decide +kernel, by decide +kernel, by decide +kernel, by decide +kernel,
    by decide +kernel, by decide +kernel⟩

theorem witness_Returns :
    (let s := one.updCur (fun c => { c with ras := [5, 3] })
     s.hasCore ∧ s.cur.pfx = none ∧ s.cur.stepLeft = none ∧ s.cur.ras = [5, 3] ∧ isCodeIn s 5 = true) ∧
    (let s := one.updCur (fun c => { c with ras := [16] })
     isCodeIn s 16 = false) ∧
    one.cur.ras = [] ∧ one.cur.rsc = 0 ∧
    (let s := { one with mem := one.mem.set (tileBase 0 + 0x100) 5 }.updCur (fun c => { c with rsc := 1, rsp := 0x1FF000000000100 })
     (match s.cCheck s.cur.rsp 8 false true with
      | .ok ps s1 => (match s1.cReads false ps with
        | .ok bs s2 => decide (ofBytes bs = 5) && standsAt s2 2
        | _ => false)
      | _ => false) = true) :=
  ⟨⟨trivial, by decide +kernel, by decide +kernel, by decide +kernel, by decide +kernel⟩, by decide +kernel, by decide +kernel, by decide +kernel,
    by decide +kernel⟩

/-- `one` with both loop sets. -/
def looping (l0 l1 : LoopSet) : State := one.updCur (fun c => { c with loop0 := l0, loop1 := l1 })

/-- LE below, at and above the body; the boundaries of either set and of both; set 1 last; ends before the start; a handler. -/
theorem witness_Loops : one.cur.succ = some 2 ∧ one.hasSucc 2 ∧ (1 : CodeAddr) < 2 ∧ (2 : CodeAddr) ≤ 2 ∧
    ((okd (one.succAt 5)).map (fun r => r.1)) = some (some 6) ∧
    (let l : LoopSet := { lc := 3, ls := 1, le := 1, ae := 1 }
     let z := LoopSet.zero
     (looping z l).boundaryAt 1 ∧ (looping l z).boundaryAt 0 ∧ ¬ (looping l z).boundaryAt 1 ∧ ¬ (looping z l).boundaryAt 0 ∧
     (looping z { l with lc := 1 }).boundaryAt 1 ∧ (looping z { l with ls := 5 }).boundaryAt 1 ∧ (1 : CodeAddr) < 5 ∧ (looping l l).cur.stepLeft = none ∧
     ((looping l l).updCur (fun c => { c with intrap := true })).cur.intrap = true) :=
  ⟨by decide +kernel, ⟨by decide +kernel, by decide +kernel⟩, by decide, by decide, by decide +kernel, by unfold State.boundaryAt; decide +kernel⟩

/-- A load whose check and reads pass. -/
theorem witness_MemoryLoads : let s := gs [(5, 0x1FF000000000100)]
    standsAt s 2 = true ∧ (match s.cCheck 0x1FF000000000100 8 false true with
      | .ok ps s1 => (match s1.cReads false ps with
        | .ok bs _ => decide (ofBytes bs = 0)
        | _ => false)
      | _ => false) = true := by decide +kernel

/-- A misaligned one, and one outside the address space. -/
theorem witness_MemoryLoads_traps : trapped (one.cCheck 0x4001 8 false true) = some 6 ∧
    trapped (one.cCheck 0xFFFFFFFFFFFFFFFF 1 false false) = some 5 := by decide +kernel

/-- The last byte below 2^57 and the first at it; a misaligned one; a range that ends at 128 and one that passes it. -/
theorem witness_AccessChecks : (0x1FFFFFFFFFFFFFF : Word).toNat + 1 ≤ 2 ^ 57 ∧ 2 ^ 57 < (0x1FFFFFFFFFFFFFF : Word).toNat + 2 ∧
    2 ^ 57 ≤ (0x200000000000000 : Word).toNat ∧ (0x4001 : Word).toNat % 2 ≠ 0 ∧ (0x4078 : Word).toNat % 128 + 8 ≤ 128 ∧
    128 < (0x4079 : Word).toNat % 128 + 8 ∧
    ((okd (one.cCheck 0x4079 8 false false)).map (fun r => r.1.length)) = some 2 ∧ ((okd (one.cPart 0x4078 8 false)).map (fun r => r.1.n)) = some 8 ∧
    trapped (one.cPart 0x40000000 8 false) = some 7 := by decide +kernel

theorem witness_MemoryStores : (let s := gs [(5, 0x1FF000000000100)]
    standsAt s 2 = true ∧ s.pfxOk true true ∧ (match s.cCheck 0x1FF000000000100 8 true true with
      | .ok ps s1 => ps.all (fun p => decide (p.far = none)) && decide (s1.bad = []) && s1.mem.wf && decide (ps.length = 1)
      | _ => false) = true) ∧ trapped (one.cCheck 0x1FF0000000F4000 8 true true) = some 12 :=
  ⟨⟨by decide +kernel, (by intro p h; cases h), by decide +kernel⟩, by decide +kernel⟩

/-- Own tile and another tile of the launch; the last bytes of the scratchpad. -/
theorem witness_WindowAccesses_loads : ∀ p ∈ [(0, 0, 0x100), (1, 1, 0xFFFF8)],
    let s := two [(5, BitVec.ofNat 64 (0x1FF * 2 ^ 48 + p.1 * 2 ^ 24 + p.2.2))]
    standsAt s 2 = true ∧ s.who = .tile 0 ∧ (s.tile 0).bound = some 0 ∧ ((AMap.find? s.launches 0).map (fun l => (l.st, l.tiles[p.1]?))) = some (.run, some p.2.1) ∧
    s.bad = [] ∧ s.armed = [] ∧ (s.g 5 + (0 : BitVec 14).signExtend 64).toNat = 0x1FF * 2 ^ 48 + p.1 * 2 ^ 24 + p.2.2 ∧
    p.2.2 + 8 ≤ (s.tile p.2.1).spBytes ∧ p.2.2 % 8 = 0 := by decide +kernel

/-- The last word below the chain regions and the first in them, on the own tile and on another. -/
theorem witness_WindowAccesses_stores : ∀ p ∈ [(0, 0, 0xF3FF8), (0, 0, 0xF4000), (1, 1, 0xF4000)],
    let s := two [(5, BitVec.ofNat 64 (0x1FF * 2 ^ 48 + p.1 * 2 ^ 24 + p.2.2))]
    standsAt s 2 = true ∧ ((AMap.find? s.launches 0).map (fun l => (l.st, l.tiles[p.1]?))) = some (.run, some p.2.1) ∧ s.bad = [] ∧
    (s.g 5 + (0 : BitVec 14).signExtend 64).toNat = 0x1FF * 2 ^ 48 + p.1 * 2 ^ 24 + p.2.2 ∧ p.2.2 + 8 ≤ (s.tile p.2.1).spBytes ∧
    (s.tile p.2.1).spBytes - 48 * 1024 = 0xF4000 ∧ (s.tile p.2.1).spBytes ≤ 0x600000 := by decide +kernel

/-- A tile at the first and last double of the atomic region, misaligned, and outside; a management core by physical address. -/
theorem witness_Atomics : (∀ off ∈ [0x880000, 0x8BFFF8, 0x880004],
      let s := gs [(5, BitVec.ofNat 64 off), (6, 0x8C0000)]
      standsAt s 2 = true ∧ s.who = .tile 0 ∧ (s.g 5).toNat = off ∧ 0x880000 ≤ off ∧ off < 0x8C0000 ∧ s.bad = [] ∧ s.armed = [] ∧ 0x8C0000 ≤ (s.g 6).toNat) ∧
    (let s := coreS [(5, BitVec.ofNat 64 (tileBase 3 + 0x880000))]
     standsAt s 2 = true ∧ s.who = .core 0 ∧ (s.g 5).toNat = tileBase 3 + 0x880000) := by decide +kernel

theorem witness_SpecialRegisterReads : one.onTile 0 ∧ one.plainAt 2 ∧ one.cur.pfx = none := one_plain

/-- An unassigned number on a tile; a privileged one at P; a management core. -/
theorem witness_SpecialRegisterTraps : one.cur.pfx = none ∧ one.who = .tile 0 ∧ (us []).cur.atM = false ∧ (us []).cur.pfx = none ∧
    (coreS []).who = .core 0 ∧ (coreS []).cur.pfx = none := by decide +kernel

theorem witness_SpecialRegisterWrites : one.onTile 0 ∧ one.plainAt 2 ∧ one.cur.pfx = none ∧ one.cur.atM = true :=
  ⟨one_plain.1, one_plain.2.1, one_plain.2.2, by decide +kernel⟩

/-- The values on both sides of each bound. -/
theorem witness_CheckedRegisterWrites : one.onTile 0 ∧ one.plainAt 2 ∧ one.cur.pfx = none ∧ one.cur.atM = true ∧ one.mem.wf = true ∧
    (0xF3FE8 + 24 ≤ 0xF4000 ∧ 0xF3FE8 % 8 = 0 ∧ ¬ 0xF3FF0 + 24 ≤ 0xF4000) ∧
    ((0x1010101010 : Nat) % 32 = 16 ∧ (0x11 : Nat) % 32 = 17) ∧ (0xFFFFFFF : Word).toNat < 2 ^ 28 ∧ ¬ (0x10000000 : Word).toNat < 2 ^ 28 ∧
    (one.tile 0).lq.ents = [] ∧ (one.tile 0).seqw = 0 ∧ ((ts (fun t => { t with seqw := 8 }) []).tile 0).seqw ≠ 0 ∧
    standsAt (ts (fun t => { t with seqw := 8 }) []) 2 = true ∧ (1048576 - 48 * 1024) / 64 = 15616 :=
  ⟨one_plain.1, one_plain.2.1, one_plain.2.2, by decide +kernel, by decide +kernel, by decide +kernel⟩

/-- The entry of a command that has not begun. -/
def waiting (isn : Word) : QEntry :=
  { cmd := 0x9C000000, opv0 := 0, opv1 := 0, opv2 := 0, ximm := 0, isn := isn, at_ := 0, atM := true, region := 0, img := 0, scope := .domain,
    fol := none, st := .waiting, popped := false, held := false, rpc := none, run := 0, sub := 0, r0 := 0, r1 := 0, r2 := 0, beat := 0, row := 0,
    off := 0, cap := [], flags := 0, far := [], eff := false, rcur := 0, rline := none, carry := [], asc := false, parts := [], made := false, park := none }

/-- `ts` with a command at the head of XQ. -/
def queued (l : List (Reg × Word)) : State := ts (fun t => { t with xq := { t.xq with ents := [waiting 1], isn := 1 } }) l

/-- An uncompleted command refuses a queue number and a TCFG. -/
theorem witness_CheckedRegisterWrites_busy : standsAt (queued []) 2 = true ∧ (∃ e ∈ ((queued []).tile 0).xq.ents, e.st ≠ .done) := by
  decide +kernel

/-- Fewer tokens than N and as many; m zero, a ready tag, no count, a count outstanding. -/
theorem witness_TokensAndTags :
    (let s := ts (fun t => { t with xs := 3, tags := 0x8, tagn := 0x0100000000000000 }) [(5, 0x8), (6, 0x80), (7, 0x40), (8, 0x88)]
     standsAt s 2 = true ∧ s.who = .tile 0 ∧ s.cur.pfx = none ∧ (s.tile 0).xs < 4 ∧ 3 ≤ (s.tile 0).xs ∧ s.g 9 = 0 ∧ (s.tile 0).tags &&& s.g 5 ≠ 0 ∧
     (s.tile 0).tags &&& s.g 6 = 0 ∧ (s.tile 0).tagn.toNat / 2 ^ (8 * 7) % 256 = 1 ∧ (s.tile 0).tagn.toNat / 2 ^ (8 * 6) % 256 = 0 ∧
     (s.tile 0).tags &&& s.g 7 = 0 ∧ (s.tile 0).tags &&& s.g 8 ≠ s.g 8) := by decide +kernel

/-- The four states of a barrier register; a launch that holds a set and one that holds none; a BARAW that has arrived. -/
def barred (b : Bst) : State := ts (fun t => { t with bst := [(5, b)] }) []

theorem witness_Barriers : one.onTile 0 ∧ one.plainAt 2 ∧ ((one.tile 0).bar 5).cfg = false ∧
    (∀ m ∈ [false, true], ∀ a ∈ [false, true], let s := barred { cfg := true, member := m, arr := a, gen := 255, rel := false }
      standsAt s 2 = true ∧ ((s.tile 0).bar 5).member = m ∧ ((s.tile 0).bar 5).arr = a) ∧
    ((AMap.find? (barred { cfg := true, member := true, arr := false, gen := 0, rel := false }).launches 0).map (fun l => AMap.find? l.bars 5)) = some none ∧
    (let s := ls (fun l => { l with bars := [(5, { x0 := 0, y0 := 0, w := 1, h := 1, arrived := [] })] }) (barred { cfg := true, member := true, arr := false, gen := 0, rel := false })
     ((AMap.find? s.launches 0).map (fun l => (AMap.find? l.bars 5).isSome)) = some true ∧ standsAt s 2 = true) ∧
    (one.updCur (fun c => { c with arrived := true })).cur.arrived = true :=
  ⟨one_plain.1, one_plain.2.1, by decide +kernel⟩

/-- A set outside the rectangle, one that is busy, a good one; a release with a member missing and with all arrived. -/
theorem witness_Barriers_sets : let s := two [(5, 0x0001000200000000), (6, 0x0000000000000002), (7, 0x0001000100000001)]
    standsAt s 2 = true ∧ s.cur.pfx = none ∧ (s.tile 0).bound = some 0 ∧
    ((AMap.find? s.launches 0).map (fun l => (l.pkt.w, l.pkt.h, l.tiles, l.bars.length))) = some (2, 1, [0, 1], 0) ∧
    2 ≤ (s.g 6).toNat % 2 ^ 16 ∧ (s.g 7).toNat % 2 ^ 16 + (s.g 7).toNat / 2 ^ 32 % 2 ^ 16 ≤ 2 := by decide +kernel

/-- A barrier of two members with the given arrivals. -/
def barOf (l : List Nat) : BarSet := { x0 := 0, y0 := 0, w := 2, h := 1, arrived := l.map (fun g => (g, Scope.domain)) }

/-- A launch of two tiles. -/
def pairLaunch : Launch := { loadedLaunch with tiles := [0, 1], pkt := { loadedPacket with w := 2 } }

theorem witness_Barriers_release : pairLaunch.members (barOf []) = [0, 1] ∧ [0, 1].Nodup ∧ 1 ∉ (barOf [0]).arrived.map Prod.fst ∧
    (∀ g ∈ [0, 1], g ∈ (barOf [0, 1]).arrived.map Prod.fst) := by decide +kernel

theorem witness_QueueDrain : one.onTile 0 ∧ one.plainAt 2 ∧ (∀ e ∈ (one.tile 0).xq.ents, e.st = .done) ∧
    (∃ e ∈ ((queued []).tile 0).xq.ents, e.st ≠ .done) ∧ standsAt (queued []) 2 = true ∧ (0 : BitVec 5) = 0 ∧ (0 : Nat) < (7 : BitVec 10).toNat :=
  ⟨one_plain.1, one_plain.2.1, by decide +kernel⟩

/-- An empty and a full FROM, drained and not; a completion number reached and not; XRET filled, empty and drained, empty and not; a
latch set and none; an open batch with room and without. -/
theorem witness_FencesAndQueueWaits : one.onTile 0 ∧ one.plainAt 2 ∧ one.net = [] ∧ (9 : BitVec 6).getLsbD 3 = true ∧
    (1 : BitVec 6).getLsbD 1 = false ∧ (one.tile 0).xret = [] ∧ (one.tile 0).openBatch = [] ∧
    (let s := queued [(5, 1)]
     (s.tile 0).xq.seq.toNat < 1 ∧ (s.g 5).toNat ≤ (s.tile 0).xq.isn.toNat ∧ (s.tile 0).xret = []) ∧
    (let s := (ts (fun t => { t with xret := [7], openBatch := [(.x, 1)], batches := [[(.x, 2)]] }) []).updCur (fun c => { c with latches := 2 })
     standsAt s 2 = true ∧ (s.tile 0).xret = [7] ∧ s.cur.latches &&& 2 ≠ 0 ∧ s.cur.latches &&& 1 = 0 ∧ (s.tile 0).batches.length < 16) ∧
    ((ts (fun t => { t with openBatch := [(.x, 1)], batches := List.replicate 16 [(.x, 2)] }) []).tile 0).batches.length = 16 :=
  ⟨one_plain.1, one_plain.2.1, by decide +kernel⟩

/-- The loaded launch has no pool, so one at most of each region and priority. -/
theorem loaded_onePool : loadedLaunch.onePool := by
  intro a b
  show (0 : Nat) ≤ 1
  decide

/-- The same with the capacity of its region used up. -/
def fullPool (s : State) : State :=
  ls (fun l => { l with regions := [{ loadedRegion with pent := 0 }] }) s

/-- The pool store full of the values of one pairing object. -/
def fullStore (s : State) : State := { s with objs := [(0, { cap := 2 ^ 20, vals := List.replicate (2 ^ 20) 0 })] }

theorem fullStore_noRoom (s : State) : (fullStore s).storeRoom = false := by
  simp only [State.storeRoom, State.storeUsed, fullStore, List.map_cons, List.map_nil, List.sum_cons, List.sum_nil, List.length_replicate]
  simp [bitsN]
  omega

theorem witness_Spawns :
    (let s := us [(4, 1), (5, 9), (6, 0x1FF000000880000), (7, 16)]
     standsAt s 2 = true ∧ s.cur.pfx = none ∧ (s.tile 0).bound = some 0 ∧ AMap.find? s.launches 0 = some loadedLaunch ∧ s.bad = [] ∧ s.armed = [] ∧
     isCodeIn s (s.g 4) = true ∧ isCodeIn s (s.g 7) = false ∧ s.curRegion = 0 ∧ (s.g 6).toNat = 0x1FF * 2 ^ 48 + 0 * 2 ^ 24 + 0x880000) ∧
    loadedRegion.ended = false ∧ loadedLaunch.held 0 < loadedRegion.pent ∧ (us []).storeRoom = true ∧ loadedRegion.psva = 0 ∧
    ((AMap.find? (fullPool (us [])).launches 0).map (fun l => l.regions.map (fun r => decide (r.pent ≤ l.held 0)))) = some [true] := by decide +kernel

/-- A join block at the first double of the atomic region with COUNT n and the given WAITER bytes. -/
def joining (n : Nat) (w : List Byte) : State :=
  let s := us [(5, 0x1FF000000880000)]
  { s with mem := s.mem.setN (tileBase 0 + 0x880000) (leBytes 8 n ++ w) }

/-- COUNT 0, 2, and 1 with a bad and a good WAITER. -/
theorem witness_Joins :
    (∀ p ∈ [(0, []), (2, []), (1, []), (1, leBytes 4 1)],
      let s := joining p.1 p.2
      standsAt s 2 = true ∧ (s.g 5).toNat = 0x1FF * 2 ^ 48 + 0 * 2 ^ 24 + 0x880000 ∧ ofBytes (s.mem.getN (tileBase 0 + 0x880000) 8) = p.1 ∧
      (s.tile 0).bound = some 0 ∧ AMap.find? s.launches 0 = some loadedLaunch) ∧
    (let s := joining 1 (leBytes 4 1)
     let f := fun (i n : Nat) => ofBytes (s.mem.getN (tileBase 0 + 0x880008 + i) n)
     f 0 4 < 2 ^ 28 ∧ f 0 4 % 16 ≠ 0 ∧ (∃ x ∈ loadedLaunch.images[f 4 2]?, f 0 4 / 16 < x.2) ∧ f 6 2 = 0 ∧ f 28 1 < 8 ∧ f 29 2 = 0 ∧ f 31 1 = 0 ∧
     f 24 4 < loadedLaunch.regions.length ∧ f 28 1 ≤ 6) ∧ (us []).g 5 = 0 ∧ (joining 1 (leBytes 4 1)).storeRoom = true := by decide +kernel

theorem witness_HaltAndYield : one.onTile 0 ∧ one.cur.pfx = none ∧ one.cur.stepLeft = none ∧ one.cur.intrap = false ∧ one.cur.succ = some 2 ∧
    (one.tile 0).bound = some 0 ∧ AMap.find? one.launches 0 = some loadedLaunch ∧ (one.updCur (fun c => { c with intrap := true })).cur.intrap = true ∧
    (one.updCur (fun c => { c with succ := none })).cur.succ = none ∧ one.storeRoom = true :=
  ⟨one_plain.1, by decide +kernel⟩

/-- At P without DLA, at M; a misaligned packet; a queue above 63; a queue with room and without. -/
theorem witness_DeviceLaunch : (us []).mayLaunch = false ∧ one.mayLaunch = true ∧ (0x4001 : Word).toNat % 64 ≠ 0 ∧ 64 ≤ (64 : Word).toNat ∧
    (let s := gs [(4, 0x1FF000000000100), (5, 63)]
     (s.g 4).toNat % 64 = 0 ∧ (s.g 5).toNat < 64 ∧ (match s.cCheck (s.g 4) 128 false false with
       | .ok ps s1 => (match s1.cReads false ps with
         | .ok _ s2 => decide ((s2.lqueue 63).cfg = 0)
         | _ => false)
       | _ => false) = true) ∧
    (let q := { LQueue.reset with cfg := 0x403 }
     q.cfg.getLsbD 0 = true ∧ q.cfg.getLsbD 1 = true ∧ (q.tail - q.head).toNat < 2 ^ (q.cfg.toNat / 2 ^ 8 % 16)) := by decide +kernel

/-- A good identifier and the first bad ones; an outstanding operation without an answer, with one, with an error. -/
theorem witness_ObjectInstructions : one.plainAt 2 ∧ one.cur.pfx = none ∧ one.cur.obj = none ∧ one.dead = 0 ∧ 2 ^ 35 ≤ (0x800000000 : Word).toNat ∧
    17 ≤ (0x1100000 : Word).toNat / 2 ^ 20 % 64 ∧ (0x1000000 : Word).toNat / 2 ^ 20 % 64 = 16 ∧
    (∀ o ∈ ([{ rid := 3, ans := none, err := none }, { rid := 3, ans := some (true, 0), err := none }, { rid := 3, ans := some (false, 8), err := none },
       { rid := 3, ans := none, err := some 10 }, { rid := 3, ans := none, err := some 5 }] : List ObjWait),
      let s := one.updCur (fun c => { c with obj := some o })
      standsAt s 2 = true ∧ s.cur.obj = some o) :=
  ⟨one_plain.2.1, one_plain.2.2, by decide +kernel⟩

/-- Outside a handler, in one; on a core with and without EBASE; a cause that ends the domain. -/
theorem witness_TrapEntry : one.hasCore ∧ one.cur.intrap = false ∧ trapIllegal.cause ≠ 9 ∧ trapIllegal.cause < 34 ∧ one.onCore = false ∧ one.fw.st = 0 ∧
    one.trace.on = false ∧ one.cur.pfx = none ∧ one.cur.succ = some 2 ∧ some (5 : BitVec 12) ∉ one.me.dbg.codes ∧ (one.tile 0).bound = some 0 ∧
    AMap.find? one.launches 0 = some loadedLaunch ∧ 0 ∈ loadedLaunch.tiles ∧ loadedLaunch.tiles.Nodup ∧
    (one.tile 0).cont = some { launch := 0, img := 0, region := 0 } ∧ loadedLaunch.regions[0]? = some loadedRegion ∧
    (one.updCur (fun c => { c with intrap := true })).cur.intrap = true ∧ (TrapI.mk3 37 0 0).cause = 37 ∧ (coreS []).who = .core 0 ∧
    (coreS []).cur.trap.ebase = 0 ∧ ((coreS []).updCur (fun c => { c with trap := { c.trap with ebase := 1 } })).cur.trap.ebase ≠ 0 :=
  ⟨trivial, by decide +kernel⟩

/-- In a handler with a good EPC, a bad one, and IDLE; a core; no handler. -/
def handling (epc est : Word) : State :=
  one.updCur (fun c => { c with intrap := true, trap := { c.trap with epc := epc, estatus := est } })

theorem witness_ReturnFromTrap : one.hasCore ∧ one.cur.atM = true ∧ one.cur.pfx = none ∧ one.cur.stepLeft = none ∧ one.cur.intrap = false ∧
    (handling 5 0).cur.intrap = true ∧ (handling 5 0).onCore = false ∧ (handling 5 0).cur.trap.estatus.getLsbD 7 = false ∧
    isCodeIn (handling 5 0) 5 = true ∧ isCodeIn (handling 16 0) 16 = false ∧ (handling 0 0x80).cur.trap.estatus.getLsbD 7 = true ∧
    (let s := (coreS []).updCur (fun c => { c with intrap := true, trap := { c.trap with epc := 5 } })
     s.onCore = true ∧ s.cur.atM = true ∧ isCodeIn s 5 = true) :=
  ⟨trivial, by decide +kernel⟩

theorem witness_PerformanceMark : one.onTile 0 ∧ one.plainAt 2 ∧ one.cur.pfx = none ∧ one.trace.on = false ∧
    (let s := { one with trace := { one.trace with on := true, pa := 0x100000, sz := 8 } }
     standsAt s 2 = true ∧ s.trace.on = true ∧ s.mem.wf = true) :=
  ⟨one_plain.1, one_plain.2.1, one_plain.2.2, by decide +kernel⟩

theorem witness_CacheInstructions : one.plainAt 2 ∧ one.cur.pfx = none ∧ one.cur.atM = true ∧
    (∀ e ∈ one.tiles, ∀ i : Fin 4, (e.2.mxe.tickets[i]).pins = []) ∧ (coreS []).onCore = true ∧ standsAt (coreS []) 2 = true :=
  ⟨one_plain.2.1, one_plain.2.2, by decide +kernel⟩

theorem witness_SystemRegisters : one.plainAt 2 ∧ one.cur.pfx = none ∧ one.cur.atM = true ∧
    (∀ sa ∈ ([0x1400, 0x3010, 0x3018, 0x3020, 0x4200000, 0x40200000, 0x4000118, 0x40000118] : List Nat), ((gs [(5, BitVec.ofNat 64 sa)]).g 5).toNat = sa) ∧
    ((0x1401 : Nat) % 8 ≠ 0 ∧ 34 < 0x8C000000 / 2 ^ 26 ∧ 17 ≤ 0x44000000 / 2 ^ 26 ∧ 0x44000000 / 2 ^ 26 ≤ 32 ∧ (2 : Nat) ^ 41 ≤ 0x20000000000) :=
  ⟨one_plain.2.1, one_plain.2.2, by decide +kernel⟩

/-- The places and the INJC values of each clause. -/
theorem witness_StorageErrors : one.place 0x40 = .hbm 0 0x40 ∧
    one.place (tileBase 3 + 0x100) = .tile 3 0x100 ∧ ((one.tile 3).offBad 0x100 1) = false ∧ one.place (768 * 2 ^ 30) = .reserved ∧
    (0x80010000 : Word).getLsbD 31 = true ∧ (0x80010000 : Word).toNat / 2 ^ 16 % 4 = 1 ∧ (0x80000000 : Word).toNat / 2 ^ 16 % 4 = 0 ∧
    (0x8001003F : Word).toNat % 2 ^ 7 = 63 ∧ (0x80010040 : Word).toNat % 2 ^ 7 = 64 ∧ (0x4001 : Word).getLsbD 31 = false ∧
    (one.updCur (fun c => { c with inj := { c.inj with inja := 0x40 } })).cur.inj.inja = 0x40 := by decide +kernel

/-- One word for each kind of storage error: a good word, a correctable one, and PASS 0. -/
theorem witness_StorageErrors_scrub : (one.scrub 4 0).toNat % 2 ^ 32 ≠ 0 ∧ one.bad = [] ∧
    (let s := { one with bad := [{ mark := .home, pa := 2 ^ 49, len := 64, corr := true, inj := false }], scrubs := [(0x4000, 0)] }
     s.bad ≠ [] ∧ storeLevel (2 ^ 49) = (4, 0) ∧ (s.scrub 4 0).toNat % 2 ^ 32 = 0) := by decide +kernel

/-! #### Engines -/

/-- Tile 0 with a command at the head of a queue, begun. -/
def begun (q : Q) (i : Instr) (f : QEntry → QEntry) : State :=
  let w : Word := BitVec.ofNat 64 ((encode i).1 + (encode i).2 * 2 ^ 32)
  ts (fun t => t.setQueue q { t.queue q with isn := 1, ents := [f { waiting 1 with cmd := w, run := w, st := .begun }] }) []

/-- Room, a full queue (256 entries without a segment), a tag at 255 and one below, the open batch below its bound. -/
theorem witness_EngineIssue : one.onTile 0 ∧ one.plainAt 2 ∧ one.mem.wf = true ∧ (one.tile 0).lq.ents.length < 256 ∧ (one.tile 0).openBatch.length < 65535 ∧
    (let s := ts (fun t => { t with xq := { t.xq with ents := List.replicate 256 (waiting 1) } }) []
     standsAt s 2 = true ∧ (s.tile 0).xq.ents.length = 256) ∧
    (let s := ts (fun t => { t with tagn := 0xFE00FF }) []
     standsAt s 2 = true ∧ (s.tile 0).tagn.toNat % 256 = 255 ∧ (s.tile 0).tagn.toNat / 2 ^ 16 % 256 = 254) ∧
    (one.tile 0).lq.tail.getLsbD 31 = false :=
  ⟨one_plain.1, one_plain.2.1, by decide +kernel⟩

/-- A copy with FOL 1 in slot 1 and the instruction that follows it in slot 3. -/
def following : State :=
  let c := encode (.cld { e0 with fol := true })
  let x := encode (.vadd e0)
  (State.reset.loadProgram (leBytes 4 0x08000000 ++ [c.1, c.2, x.1, x.2].flatMap (fun w => leBytes 4 w))).updCur
    (fun c => { c with succ := some 3, lined := true })

theorem witness_EngineIssue_pair : standsAt following 3 = true ∧ (match following.followOn with
    | .ok (j, f) s1 => decide (j = .vadd e0) && decide (f = e0) && decide (s1.who = .tile 0) && decide (s1.cur.img = following.cur.img) &&
        decide (s1.cur.succ = some 5) && decide ((s1.tile 0).xq.ents.length < 256)
    | _ => false) = true := by decide +kernel

/-- The shape of the hypotheses on a head: alone, begun, of a running queue. -/
def headOf (s : State) (q : Q) (i : Instr) : Bool :=
  let x := (s.tile 0).queue q
  (match x.ents with
    | [en] => decide (en.st = .begun) && decide (en.sub = 0) && decide (x.isn = en.isn) && decide (en.instr = some i) && decide (en.beat = 0)
    | _ => false) && (s.tile 0).qRuns q && decide (x.segs = [])

/-- TOKP with a push; a set-up command; MWM whose rows stand, at the mark and above it; MCAP with XRET open and full; MZERO. -/
theorem witness_EngineCommandCompletion :
    headOf (begun .x (.tokp { e0 with f7 := 1, tok := 4 }) id) .x (.tokp { e0 with f7 := 1, tok := 4 }) = true ∧
    headOf (begun .x (.mshape e0) id) .x (.mshape e0) = true ∧
    headOf (begun .x (.mwm { e0 with ext := 128 }) id) .x (.mwm { e0 with ext := 128 }) = true ∧
    ((begun .x (.mwm { e0 with ext := 128 }) id).tile 0).mxe.z[0].wm = 128 ∧
    (let s := (begun .x (.mwm { e0 with ext := 5 }) id).updTile 0 (fun t => { t with mxe := { t.mxe with z := t.mxe.z.set 0 { ZTile.reset with wm := 4 } } })
     headOf s .x (.mwm { e0 with ext := 5 }) = true ∧ (s.tile 0).mxe.z[0].wm < 5) ∧
    headOf (begun .x (.mcap e0) id) .x (.mcap e0) = true ∧ ((begun .x (.mcap e0) id).tile 0).xret.length < 16 ∧
    (((begun .x (.mcap e0) id).updTile 0 (fun t => { t with xret := List.replicate 16 0 })).tile 0).xret.length = 16 ∧
    headOf (begun .x (.mzero { e0 with ext := 0x8001 }) id) .x (.mzero { e0 with ext := 0x8001 }) = true := by decide +kernel

theorem witness_VectorResults : (∀ i ∈ ([.vadd e0, .vmul { e0 with f7 := 0x20 }, .vsar { e0 with f7 := 0x10, ext := 1 }, .vbcast e0] : List Instr),
    headOf (begun .x i id) .x i = true) ∧ e0.et = 0 ∧ ({ e0 with f7 := 0x20 } : Eng).et = 2 ∧ ((begun .x (.vadd e0) id).tile 0).seqw = 0 := by
  decide +kernel

/-- The vector command's own effect: lanes without the mask keep, wrapping sums elsewhere. -/
theorem test_vadd : let s := (begun .x (.vadd { e0 with ga := 1, gb := 2, gc := 3, f7 := 0x10 }) id).updTile 0 (fun t => { t with vxe :=
      { t.vxe with v := (t.vxe.v.set 2 0xFFFF0001).set 3 0x00010002 } })
    (after (exec (.engineCommandCompletion 0 .x 1) s)).tile 0 |>.vxe.reg 1 = 3 := by decide +kernel

/-- Row copies whose rows are all made, with one outstanding count and two; without room to push; CPF. -/
theorem witness_TileEvents_copies :
    (∀ p ∈ ([(.l, .cld e0), (.l, .cpf { e0 with ext := 0 }), (.s, .cst e0)] : List (Q × Instr)),
      let s := (begun p.1 p.2 id).updTile 0 (fun t => { t with tagn := 2 })
      headOf s p.1 p.2 = true ∧ (s.tile 0).tagn.toNat % 256 = 2 ∧
      (((s.tile 0).queue p.1).ents.head?.map (fun en => (en.cmd.toNat / 2 ^ 26 % 64 == 0x31 || en.cmd.toNat / 2 ^ 26 % 64 == 0x32, en.r2.toNat % 2 ^ 24))) =
        some (true, 0)) ∧
    (let s := (begun .l (.cld { e0 with tok := 8 }) id).updTile 0 (fun t => { t with lx := 16, tagn := 1 })
     headOf s .l (.cld { e0 with tok := 8 }) = true ∧ (s.tile 0).lx = 16) := by decide +kernel

/-- A copy beat that meets a fault of disposition F: a source page that is not present. -/
theorem witness_TileEvents_freeze : (match begun .l (.cld e0) (fun en => { en with r0 := 0x100, r1 := 0x8000000000, r2 := 0x1000040 }) with
    | s => match (s.tile 0).lq.ents with
      | [en] => (match copyBeat s 0 .l en (.cld e0) with
        | .freeze f _ => !causeEnds f.cause
        | _ => false)
      | _ => false) = true := by decide +kernel

/-- A pending engine fault outside a handler and in one; three heads that wait on tokens. -/
theorem witness_TileEvents_faults :
    (let f : EngFault := { q := .x, cause := 23, sub := 1, info := 0, word := 0, isn := 1, frz := false, region := 0, host := false }
     let s := ts (fun t => { t with faults := [f] }) []
     (s.tile 0).firstFault = some f ∧ (s.tile 0).bound.isSome = true ∧ (s.tile 0).dbg.stopped = false ∧ s.fw.st = 0 ∧ (s.tile 0).tcc.intrap = false ∧
     s.mbox.duty.getLsbD 1 = false) ∧
    (let w := fun (c : Word) => { waiting 1 with cmd := c }
     let s := ts (fun t => { t with lq := { t.lq with ents := [w 0x200000000] }, xq := { t.xq with ents := [w 0x100000000] }, sq := { t.sq with ents := [w 0x100000000] } }) []
     let h := fun (q : Q) => ((s.tile 0).queue q).ents.find? (fun n => decide (n.st ≠ .done))
     h .l = some (w 0x200000000) ∧ h .x = some (w 0x100000000) ∧ h .s = some (w 0x100000000) ∧ (s.tile 0).qRuns .l = true ∧ (s.tile 0).xl = 0 ∧
     (s.tile 0).xs = 0 ∧ (s.tile 0).lx = 0 ∧ (0x200000000 : Word).getLsbD 33 = true ∧ (0x100000000 : Word).getLsbD 32 = true) := by decide +kernel

/-- A stalled tile whose queue is full, a pool with segments and one without; a ticket that is BUSY and one that is not. -/
theorem witness_TileEvents_growth :
    (let s := ts (fun t => { t with stall := 64, xq := { t.xq with ents := List.replicate 256 (waiting 1) } }) []
     (s.tile 0).growQueue = some .x ∧ (s.tile 0).bound = some 0 ∧ (s.tile 0).chargeRegion = 0 ∧ ((s.tile 0).xq.ents.getLast?).isSome = true ∧
     (s.freeSegs 0).length = 256 ∧ ({ s with segsFree := [(0, [])] } : State).freeSegs 0 = [] ∧ (s.tile 0).dbg.stopped = false) ∧
    0 + 16 ≤ { loadedRegion with growkb := 16 }.growkb ∧ ¬ loadedRegion.grown + 16 ≤ loadedRegion.growkb ∧
    ((one.tile 0).mxe.tk 2).st = 0 ∧
    (((ts (fun t => { t with mxe := { t.mxe with tickets := t.mxe.tickets.set 2 { Ticket.idle with st := 1 } } }) []).tile 0).mxe.tk 2).st = 1 := by
  decide +kernel

/-- Member 0 of two, four bytes a level, its partner's header in place or absent. -/
def reducing (hdr : List Byte) : State :=
  let s := begun .s (.cred { e0 with f7 := 2 }) (fun en => { en with r0 := 0x1000, r2 := 1, cap := [2, 0] })
  { s with mem := s.mem.setN (tileBase 0 + 0x1000 + 128) (leBytes 64 5 ++ hdr) }

theorem witness_TileEvents_cred :
    (let s := reducing (leBytes 4 1 ++ leBytes 4 1 ++ leBytes 4 2 ++ [0, 2, 0, 1])
     headOf s .s (.cred { e0 with f7 := 2 }) = true ∧ s.bad = [] ∧ s.armed = [] ∧ s.mem.wf = true ∧ (s.tile 0).spBytes ≤ 0x600000 ∧
     tileBase 0 + 0x1000 + 128 + 128 ≤ tileBase 0 + (s.tile 0).spBytes - 48 * 1024 ∧
     s.mem.get (tileBase 0 + 0x1000 + 128 + 64 + 15) = 1 ∧ ofBytes (s.mem.getN (tileBase 0 + 0x1000 + 128 + 64 + 4) 4) = 1) ∧
    (reducing []).mem.get (tileBase 0 + 0x1000 + 128 + 64 + 15) ≠ 1 := by decide +kernel

/-! #### The package -/

/-- The loaded package with one packet of tile 0 in the network. -/
def sent (f : Pkt → Pkt) : State := { one with net := [f (Pkt.make .rd 7 (.tile 0) (tileBase 0 + 0x100) 0)], nextRid := 8 }

/-- The common hypotheses on a request, and its place. -/
def served (s : State) : Bool :=
  match s.pkt? 7 with
  | some p => decide (p.dpkg = 0) && decide (p.spkg = 0) && !p.refused && decide (p.router = none) && decide (s.bad = []) && decide (s.armed = [])
  | none => false

/-- Reads and writes at HBM4E, a tile, the end of a tile's scratchpad, a hole, another package. -/
theorem witness_PacketsServed_places : (∀ f ∈ ([fun p => p, fun p => { p with typ := .wr, data := [1] }] : List (Pkt → Pkt)), served (sent f) = true) ∧
    one.place 0x40 = .hbm 0 0x40 ∧ one.place (tileBase 0 + 0x100) = .tile 0 0x100 ∧ one.place (768 * 2 ^ 30) = .reserved ∧
    one.place (2 ^ 40) = .far 1 ∧ (one.tile 0).offBad 0xFFFFF 1 = false ∧ (one.tile 0).offBad 0xFFFFF 2 = true ∧
    (one.tile 0).rowOpen 0x100 8 = false ∧ (one.tile 0).storeErr 0x100 8 = none ∧ (one.tile 0).storeErr 0xF4000 1 ≠ none ∧
    (let t := { one.tile 0 with mxe := { (one.tile 0).mxe with z := (one.tile 0).mxe.z.set 0 { ZTile.reset with wm := 0 } } }
     t.rowOpen 0x600000 10 = true) := by decide +kernel

/-- A word of the atomic region, misaligned, outside it. -/
theorem witness_PacketsServed_atoms : served (sent (fun p => { p with typ := .addw, data := leBytes 8 1, addr := tileBase 0 + 0x880000 })) = true ∧
    one.place (tileBase 0 + 0x8BFFF8) = .tile 0 0x8BFFF8 ∧ (0x8BFFF8 : Nat) + 8 ≤ 0x8C0000 ∧ (0x880004 : Nat) % 8 ≠ 0 ∧
    served (sent (fun p => { p with typ := .atm, data := leBytes 16 0, addr := tileBase 0 + 0x87FFF8 })) = true ∧
    0x87FFF8 + 8 * ofBytes ((leBytes 16 1).take 4) = 0x880000 := by decide +kernel

/-- A put with and without an entry of its own, and with 256 others; a flag that is satisfied, one that waits, and one that finds 64 held. -/
theorem witness_PacketsServed_flags :
    (let p := Pkt.make .put 7 (.tile 0) (tileBase 1 + 0x100) 0
     let a := fun (n : Nat) => ({ src := n, grp := 0, epoch := 0, p := 0, e := 0, u := 0, own := none } : Arrival)
     p.srcKey ≠ 1000 ∧ (let s := { sent (fun _ => p) with tiles := [(1, { Tile.reset with arrivals := [a p.srcKey, a 1000] })] }
       s.place p.addr = .tile 1 0x100 ∧ (s.tile 1).arrivals.length = 2 ∧ (s.tile 1).storeErr 0x100 8 = none ∧ (s.tile 1).held = []) ∧
     ({ Tile.reset with arrivals := List.replicate 256 (a 1000) } : Tile).arrivals.length = 256) ∧
    (let h : HeldFlag := { src := 1, grp := 0, epoch := 0, cnt := 1, pa := 0, val := 0, rid := 3, own := none }
     served (sent (fun p => { p with typ := .flag, cnt := 0, data := leBytes 8 1 })) = true ∧
     served (sent (fun p => { p with typ := .flag, cnt := 2, data := leBytes 8 1 })) = true ∧ h.rid ≠ 7 ∧
     ({ Tile.reset with held := List.replicate 64 h } : Tile).held.length = 64) := by decide +kernel

/-- Objects: absent, full, empty, of each class; a barrier with a member missing; a reserved type. -/
theorem witness_PacketsServed_objects :
    (let s := { sent (fun p => { p with typ := .qpush, addr := 0x40000, cnt := 5 }) with objs := [(0x40000, { cap := 1, vals := [] }), (0x80000, { cap := 1, vals := [9] })] }
     served s = true ∧ AMap.find? s.objs 5 = none ∧ AMap.find? s.objs (0x40000 % 2 ^ 26) = some { cap := 1, vals := [] } ∧ 0x40000 / 2 ^ 18 % 4 = 1 ∧
     0x80000 / 2 ^ 18 % 4 = 2 ∧ AMap.find? s.objs 0x80000 = some { cap := 1, vals := [] ++ [9] } ∧ 0 / 2 ^ 18 % 4 = 0) ∧
    pairLaunch.members (barOf []) = [0, 1] ∧ (∃ m ∈ pairLaunch.members (barOf []), m ≠ 0 ∧ m ∉ (barOf []).arrived.map Prod.fst) ∧
    served (sent (fun p => { p with typ := .ctrl, addr := 0 })) = true ∧ served (sent (fun p => { p with typ := .reserved })) = true := by decide +kernel

/-- Answers to a core and to a tile; the second packet of a pair; limits on both sides. -/
theorem witness_PacketAnswers :
    (∀ t ∈ ([.rdr, .wack, .atmr, .err, .qrsp, .hnak] : List PktT), (((sent (fun p => { p with typ := t, src := .core 3 })).pkt? 7).map
      (fun p => (p.typ, p.spkg, p.src))) = some (t, 0, .core 3)) ∧
    (Agent.tile 0).hasCore ∧ (((sent (fun p => { p with typ := .wack, tcc := false, counts := true, path := 3 })).pkt? 7).map
      (fun p => (p.tcc, p.counts, p.budget, decide (p.path < 4)))) = some (false, true, 0, true) ∧
    (let s := { sent (fun p => { p with refused := true }) with bedt := 2000 }
     (s.limits (.tile 0)).1 * 2000 ≠ 0 ∧ (0 : Word).toNat + 2000 ≤ s.bedt.toNat ∧ s.bedt.toNat ≤ (s.limits (.tile 0)).2 * 2000) ∧
    (sent (fun p => { p with router := some 3, budget := 10 })).net.map (fun p => p.router) = [some 3] ∧
    (let a := { Pkt.make .qpush 7 (.tile 0) 0x40000 0 with router := some 2 }
     let b := Pkt.make .qpop 8 (.tile 1) 0x40000 0
     let s := { one with net := [a, b] }
     s.pkt? 7 = some a ∧ s.pkt? 8 = some b ∧ s.oldestHeld 2 .qpush 0x40000 = some 7 ∧ 0x40000 / 2 ^ 18 % 4 ≤ 1) :=
  ⟨by decide +kernel, trivial, by decide +kernel⟩

/-- A port that is up with one flit unacknowledged. -/
def linked (f : Port → Port) : State :=
  { one with ports := [(2, f { Port.down with up := true, peer := 5, txq := [flitOf 1 0 0 []], txSeq := 1 })], bedt := 20000 }

/-- A flit with a good CRC in and out of sequence, one with a bad CRC, LACK of a flit that stands; a silent port; a dead peer. -/
theorem witness_Links : let s := linked id
    (s.port 2).up = true ∧ (s.port 2).resends < 8 ∧ (s.port 2).txq.length = 1 ∧
    (s.port 2).lastTx.toNat + 2000 ≤ s.bedt.toNat ∧ (s.port 2).lastRx.toNat + 20000 ≤ s.bedt.toNat ∧
    (s.port 2).peer ≠ 0 ∧ (s.port 2).peer < 512 ∧ s.dead.getLsbD 5 = false ∧ ({ s with dead := 0x20 } : State).dead.getLsbD 5 = true ∧ (s.port 3).up = false ∧
    AMap.getD ({ s with linkFails := [(2, 7)] } : State).linkFails 2 0 = 7 := by decide +kernel

/-- Flits of each kind whose CRC is good and whose fields are legal, in sequence and not. -/
theorem witness_Links_flits : ∀ k ∈ [0, 1, 3], ∀ n ∈ [0, 9],
    (let bs := leBytes 128 (flitOf k 0 n []).toNat
     (crc64 (bs.take 120)).toNat = ofBytes (bs.drop 120) ∧ badFlit bs = false ∧ leAt bs 0 1 = k ∧ leAt bs 2 2 = n) := by
  intro k hk n hn
  refine ⟨flitOf_crc k 0 n [], ?_⟩
  simp only [leBytes_flitOf]
  revert k n
  decide +kernel

/-- Misaligned records; a plan from two one-device layouts of one element; a chunk of length 0 and one that is moved. -/
def tlr (at_ : Nat) : List Byte :=
  [1, 1, 4, 0] ++ leBytes 4 1 ++ leBytes 12 0 ++ leBytes 2 1 ++ leBytes 6 0 ++ [0xFF, 0xFF, 0xFF, 0xFF] ++ leBytes 4 1 ++ List.replicate 28 0 ++ leBytes 8 at_

def sharding (f : Reshard → Reshard) : State :=
  let s := { one with mem := (one.mem.setN (2 ^ 49 + 0x500) (tlr 0x600)).setN (2 ^ 49 + 0x580) (tlr 0x700) }
  s.setRs 0 (f { Reshard.idle with src := 0x500, dst := 0x580, cur := 0x400 })

theorem witness_Resharding :
    (let s := sharding (fun r => { r with src := 1, dst := 1 })
     (s.rs 0).st ≠ 1 ∧ (s.rs 0).src.toNat % 64 ≠ 0 ∧ (s.rs 0).dst.toNat % 64 ≠ 0) ∧
    (match (sharding (fun r => { r with st := 1, loading := true })).rsPlan 0 with
      | .ok (.ok cs) s1 => decide (cs = [(0x600, 0x700, 4)]) && !(s1.rs 0).resume
      | _ => false) = true ∧
    (match (sharding (fun r => { r with st := 1, loading := true, host := true })).rsPlan 0 with
      | .ok (.error k) _ => decide (k = 3)
      | _ => false) = true ∧
    (let s := sharding (fun r => { r with st := 1, chunks := [(0x600, 0x700, 4), (0x600, 0x700, 0)] })
     (s.rs 0).far = [] ∧ (s.rs 0).loading = false ∧ (s.rs 0).chunks[(s.rs 0).done]? = some (0x600, 0x700, 4) ∧
     (match s.rsRead 0 0x600 4 with
       | .ok bs s1 => (match s1.rsWrite 0 0x700 bs with
         | .ok _ s2 => decide (s2.rs 0 = s.rs 0)
         | _ => false)
       | _ => false) = true) := by decide +kernel

/-- The loaded launch, in RUN and with records that fit; stopped by the debugger; saved; a test slice due and none. -/
theorem witness_Preemption : (one.launchAt 0 1).map (fun e => e.1) = some 0 ∧ one.launchAt 1 1 = none ∧ AMap.find? one.launches 0 = some loadedLaunch ∧
    loadedLaunch.opr = none ∧ one.pr.st ≠ 1 ∧ one.pr.st ≠ 3 ∧ loadedLaunch.st = .run ∧ (one.tile 0).dbg.stopped = false ∧ (ls (fun l => { l with tiles := [] }) one).saveFits 0 false = true ∧
    ((ts (fun t => { t with dbg := { t.dbg with stopped := true } }) []).tile 0).dbg.stopped = true ∧
    (((ls (fun l => { l with st := .saved }) one).launchAt 0 1).map (fun e => e.2.st)) = some .saved ∧
    (let due := fun (e : Nat × Launch) => e.2.slices.any (fun x => decide (x.1 = 2) && decide (x.2 ≤ one.bedt))
     List.find? due one.launches = none ∧ ((List.find? due (ls (fun l => { l with st := .saved, slices := [(2, 0)] }) one).launches).map (fun e => e.1)) = some 0) := by
  decide +kernel

/-- The mailbox full and empty, with messages waiting; the ring's head at its bound; object commands of each kind; requests. -/
theorem witness_MailboxAndObjects :
    (let b := one.mbox
     b.h2df = false ∧ b.d2hf = false ∧ ({ b with d2hf := true, d2hWait := [3] } : Mbox).d2hWait = 3 :: [] ∧ (16 : Nat) < (17 : BitVec 6).toNat) ∧
    (∀ v ∈ [2 ^ 46, 0xC0000, 0x5, 5 + (2 ^ 24 + 1) * 2 ^ 21], 2 ^ 46 ≤ v ∨ v % 2 ^ 20 / 2 ^ 18 = 3 ∨ (v / 2 ^ 20 % 2 = 0 ∧ (v / 2 ^ 21 % 2 ^ 25 = 0 ∨ 2 ^ 24 < v / 2 ^ 21 % 2 ^ 25))) ∧
    ((5 + 2 ^ 24 * 2 ^ 21) / 2 ^ 21 % 2 ^ 25 = 2 ^ 24) ∧
    (let s := { one with mbox := { one.mbox with reqs := [{ tag := 4, fn := 1, about := 0, data := [] }] } }
     s.mbox.h2df = false ∧ (s.mbox.reqs.find? (fun x => decide (x.tag = 4) && decide (x.fn = 1))).isSome = true ∧
     s.mbox.reqs.find? (fun x => decide (x.tag = 4) && decide (x.fn = 2)) = none ∧ s.mbox.duty.getLsbD 4 = false) ∧
    (let f : EngFault := { q := .x, cause := 7, sub := 1, info := 0, word := 0, isn := 1, frz := true, region := 0, host := true }
     let s := ts (fun t => { t with faults := [f], frz := true }) []
     (s.tile 0).frozenFault = some f ∧ (s.tile 0).bound = some 0 ∧ loadedLaunch.regions[f.region]? = some loadedRegion) := by decide +kernel

/-- Before the boot, in RECOVERY and running; registers of each kind; BAR2 at its last byte, past it, of no byte and of 65. -/
theorem witness_HostRegisters : State.reset.fw.boot ≠ 1 ∧ ({ State.reset.fw with boot := 2 } : Fw).boot = 2 ∧ one.fw.boot = 1 ∧ sysRegOf 4 = none ∧
    (sysRegOf 0x1400).isSome = true ∧ (one.lqueue 63).en = false ∧ one.ring.en = false ∧
    768 * 2 ^ 30 - 1 + 1 ≤ 768 * 2 ^ 30 ∧ 768 * 2 ^ 30 < 768 * 2 ^ 30 - 1 + 2 ∧ 64 < (65 : BitVec 7).toNat ∧ one.place 0x40 = .hbm 0 0x40 ∧ one.bad = [] ∧
    one.armed = [] ∧ overlap (2 ^ 49) 64 (2 ^ 49) 64 = true := by decide +kernel

/-- A header over an empty body: the magic, the digest of the body and nothing else. -/
def headerOver (magic : Nat) (d : List Byte) : List Byte := leBytes 4 magic ++ List.replicate 60 0 ++ d ++ List.replicate 128 0

/-- A configuration record of one package. -/
def record : CfgCopy :=
  { header := headerOver recordMagic (sha512 []), body := [],
    fields := { minsvn := 0, itile := 12, mcaps := [], spares := [], oosTiles := [3], oosSocks := [2], px := 0, py := 0, comp := [], savePa := 0,
                saveLen := 0, tables := [], peers := [], certs := [] } }

/-- SHA-512 of the empty message (FIPS 180-4). -/
theorem test_sha512 : sha512 [] = [0xcf, 0x83, 0xe1, 0x35, 0x7e, 0xef, 0xb8, 0xbd, 0xf1, 0x54, 0x28, 0x50, 0xd6, 0x6d, 0x80, 0x07,
    0xd6, 0x20, 0xe4, 0x05, 0x0b, 0x57, 0x15, 0xdc, 0x83, 0xf4, 0xa9, 0x21, 0xd3, 0x6c, 0xe9, 0xce,
    0x47, 0xd0, 0xd1, 0x3c, 0x5d, 0x85, 0xf2, 0xb0, 0xff, 0x83, 0x18, 0xd2, 0x87, 0x7e, 0xec, 0x2f,
    0x63, 0xb9, 0x31, 0xbd, 0x47, 0x41, 0x7a, 0x81, 0xa5, 0x38, 0x32, 0x7a, 0xf9, 0x27, 0xda, 0x3e] := by decide +kernel

/-- Where the root key's check answers yes (a free value, log entry 15), the record is valid. -/
theorem witness_FirmwareAndBoot_record (h : Config.signatureOk 0 (slice record.header 0 128) (slice record.header 128 64) = true) :
    ({ Fw.reset with flashA := some record } : Fw).record = some record := by
  have k : leAt record.header 16 1 = 0 := by decide +kernel
  have p : headerOk recordMagic record.header record.body = true := by
    rw [headerOk, k, h]
    decide +kernel
  have q : record.fields.routed = true := by decide +kernel
  simp [Fw.record, Fw.reset, CfgCopy.ok, p, q, Option.filter]

/-- No record; no slot that boots; each step of an update, with a staged image that is not good. -/
theorem witness_FirmwareAndBoot : State.reset.fw.record = none ∧ ({ Fw.reset with flashA := some record } : Fw).bootable 0 = none ∧
    one.fw.st = 0 ∧ (1 : Word).getLsbD 0 = true ∧ one.hfar = [] ∧ one.mbox.reqs = [] ∧
    (let s := { one with fw := { one.fw with st := 2, fwimg := 0x4000 } }
     s.fw.st = 2 ∧ (match s.staged with
       | .ok i u => decide (leAt i.header 0 4 ≠ imageMagic) && decide (u.fw.minsvn = 0)
       | _ => false) = true) ∧
    (let s := { one with fw := { one.fw with st := 3, deadline := 1 } }
     s.fw.st = 3 ∧ s.bedt < s.fw.deadline ∧ ¬ s.fw.deadline ≤ s.bedt ∧ (1 : Word) ≠ s.fw.beat0 ∧ s.fw.slot0 = none ∧
       ({ s with bedt := 1 } : State).fw.deadline ≤ 1) := by decide +kernel

theorem witness_Attestation : State.reset.fw.boot = 0 ∧ one.fw.boot ≠ 0 ∧ 3 < (4 : Byte).toNat ∧ (4 : Byte) ≠ 0xFF := by decide +kernel

/-- A debug request for the loaded launch. -/
def ask (a0 a1 : Word) : DbgReq :=
  { tag := 7, flg := 0, seq := 1, queue := 0, ltn0 := 0, ltn1 := 0, arg0 := a0, arg1 := a1, arg2 := 0, codes := List.replicate 8 0,
    addrs := List.replicate 4 0, watch := 0, bad := false }

theorem witness_Debug : one.mbox.h2df = false ∧ one.mbox.d2hf = false ∧ one.trace.stops = [] ∧ one.fw.st = 0 ∧ (ask 0 0).noArms = true ∧
    (ask 0 0).malformed = false ∧ (ask 0 0).ltn0 ≤ (ask 0 0).ltn1 ∧
    (match one.dbgTargets (ask 0 0) true with
      | .ok (k, l, gs) => decide (k = 0) && decide (l = loadedLaunch) && decide (gs = [0])
      | .error _ => false) = true ∧ (one.tile 0).xq.headEnt = none ∧
    one.launchAt 0 2 = none ∧ one.inHbm 0x40 = true ∧ (0x40 : Nat) % 64 = 0 ∧
    ({ ask 0x1000 8 with seq := 0 }).noTarget = true ∧ (ask 0 0).noTarget = false := by decide +kernel

/-- Each trigger of a stop that is armed, and each that is not; a sweep that is due. -/
theorem witness_Debug_triggers :
    (let s := ts (fun t => { t with dbg := { t.dbg with stopAt := some 5, allDue := true, addrs := [some 0x8000000000000001], watch := some 0x10100000001 },
                                    xq := { t.xq with ents := [waiting 1] } }) []
     s.bedt < 5 ∧ (5 : Word) ≤ ({ s with bedt := 5 } : State).bedt ∧ (s.tile 0).dbg.stopped = false ∧ (s.tile 0).cont.isSome = true ∧ (s.tile 0).tcc.pfx = none ∧
     (s.tile 0).tcc.waiting = false ∧ (s.tile 0).dbg.passAddr ≠ some (s.tile 0).tcc.pc ∧ (0x8000000000000001 : Word).toNat % 2 ^ 28 = (s.tile 0).tcc.pc.toNat ∧
     ((s.tile 0).xq.headEnt).map (fun e => e.isn) = some 1 ∧ (s.tile 0).qRuns .x = true ∧ 1 + 1 * 2 ^ 32 + 0 + (0 / 16 + 1) * 2 ^ 40 = 0x10100000001) ∧
    (let s := { one with trace := { one.trace with cntOn := true, cntPa := 0x1000, period := 100 }, bedt := 200000 }
     s.sweepDue 0 = true ∧ one.sweepDue 0 = false ∧ s.mem.wf = true) := by decide +kernel

/-- On and off the 2,000th and the 500th bed cycle; RATE at its bounds; a die that exists and one that does not; a frozen tile. -/
theorem witness_TimeAndGovernor : one.bedt.toNat % 2000 = 0 ∧ (1 : Nat) % 2000 ≠ 0 ∧ (50 : Word).toNat % 2048 = 50 ∧ (49 : Word).toNat % 2048 < 50 ∧
    (2000 : Word).toNat % 2048 ≤ 2000 ∧ 2000 < (2001 : Word).toNat % 2048 ∧
    (let s := { one with bedt := 500, gov := { one.gov with pending := [{ tile := 0, req := 0, readNo := 0, launch := 0, ltn := 0, entry := true, group := none, ends := [] }], next := some (100, true) } }
     s.bedt.toNat % 500 = 0 ∧ s.gov.slot ≠ s.bedt.toNat / 500 ∧ (∀ p ∈ s.gov.pending, p.group = none ∧ p.ends = [])) ∧
    ((one.tile 0).dbg.stopped = false) ∧ ((ts (fun t => { t with frz := true }) []).tile 0).frz = true := by decide +kernel

/-- A queue that is on with room, at its bound and past it; off; with a packet that can be read. -/
theorem witness_LaunchQueues :
    (let q := { LQueue.reset with cfg := 0x4401, base := 0x5000, tail := 1 }
     let s := { one with lqs := [(3, q)] }
     q.cfg.getLsbD 0 = true ∧ q.cfg.getLsbD 1 = false ∧ (16 - q.head : BitVec 32).toNat ≤ q.entries ∧ ¬ (17 - q.head : BitVec 32).toNat ≤ q.entries ∧
     s.nextQueue = some 3 ∧ one.nextQueue = none ∧ q.waiting = [] ∧ (one.lqueue 3).cfg.getLsbD 0 = false ∧
     4 ≤ (0x4401 : Word).toNat / 2 ^ 8 % 16 ∧ ¬ 4 ≤ (0x4301 : Word).toNat / 2 ^ 8 % 16 ∧
     (match s.hsRead viaPa 0x5000 128 with
       | .ok bs u => badPacket bs && !u.mbox.duty.getLsbD 0
       | _ => false) = true) := by decide +kernel

/-- A launch that waits with a fit; one that drains; one with a record for an idle tile; a region over its budget. -/
theorem witness_Launches :
    (let l := { loadedLaunch with st := .wait, tiles := [] }
     let s := { (ts (fun t => { t with bound := none }) []) with launches := [(0, l)] }
     AMap.find? s.launches 0 = some l ∧ l.opDesc = none ∧ s.first 0 l false = true ∧ s.mbox.duty.getLsbD 5 = false ∧
     (s.firstFit l.pkt (s.originsOf l)).isSome = true ∧ l.slots = []) ∧
    (let s := ls (fun l => { l with regions := [{ loadedRegion with rtime := 1, started := some 0 }] }) { one with bedt := 4000 }
     (AMap.find? s.launches 0).map (fun l => (l.st, l.regions.map (fun r => decide (0 + r.rtime * 1000 < s.ns)))) = some (.run, [true])) ∧
    (let s := ts (fun t => { t with cont := none }) []
     s.haltTree 0 loadedLaunch = true ∧ s.drained 0 loadedLaunch = true ∧ one.haltTree 0 loadedLaunch = false) ∧
    (let r : Rec := { code := 1, img := 0, frame := 0, jca := 0, region := 0, pri := 3 }
     let p : Pool := { region := 0, pri := 3, recs := [(r, 0)], level := 3, timer := 0 }
     let s := ls (fun l => { l with pools := [p] }) (ts (fun t => { t with cont := none }) [])
     s.choosePool 0 0 = some p ∧ (s.tile 0).tcc.intrap = false) := by decide +kernel

/-- An operator of two tasks: its task launches done and failed, one return needed. -/
def coded (f : Launch → Launch) (need : Nat) : State :=
  let d : OpDesc := { opDescOf [] with k := need, cr := 2 - need, mp := 1, n := 1 }
  let l := f { loadedLaunch with st := .done, task := some (0, 0), tiles := [] }
  { one with launches := [(0, loadedLaunch), (5, l)], oprs := [(0, { Opr.free with st := 1, desc := some d, launch := 0 })] }

theorem witness_CodedTasks :
    (let s := coded id 2
     s.taskOpen 0 0 = true ∧ s.taskOpen 1 0 = false ∧ ((s.taskLaunch 0 0).map (fun e => e.1)) = some 5 ∧ s.taskLaunch 0 1 = none ∧
     ((AMap.find? s.launches 5).map (fun l => (l.st, l.taskEnded, l.ost % 16))) = some (.done, false, 0) ∧
     ((s.opr 0).desc.map (fun d => (d.tasks, d.need))) = some (2, 2) ∧ (s.opr 0).posted = false) ∧
    (((AMap.find? (coded (fun l => { l with regions := [loadedRegion, { loadedRegion with ended := true }] }) 2).launches 5).map (fun l => l.taskEnded))) = some true := by
  decide +kernel

/-! #### Clauses beside the plain ones -/

/-- No struck register; one that a replay reads right and one that it does not. -/
theorem witness_StepRunsDecoded_parity : one.parityOf 0 (.add 1 2 3) = [] ∧
    (∀ c ∈ [true, false], let w : BadWord := { mark := .reg, pa := 4, len := 0, corr := c, inj := false }
      ({ gs [] with bad := [w] }.updCur (fun k => { k with iw := BitVec.ofNat 64 (encode (.add 3 4 5)).1 })).parityOf 0 (.add 3 4 5) = [w]) := by
  decide +kernel

/-- The loaded package with tile 0 saved, and with its die out of service. -/
def savedOne : State := ls (fun l => { l with st := .saved }) (ts (fun t => { t with bound := none }) [])

def dieOut : State := { one with fw := { one.fw with cfg := some { record.fields with oosSocks := [1] } } }

/-- A saved tile, a die out of service; a z word whose sum is too large; a compare-and-swap's length. -/
theorem witness_PacketsServed_edges :
    savedOne.place (tileBase 0 + 0x100) = .far 0 ∧ dieOut.place (tileBase 0 + 0x100) = .out ∧ dieOut.sockOut 1 = true ∧
    (let s := { one with mem := one.mem.setN (tileBase 0 + 0x600000) (leBytes 10 (2 ^ 79 - 1)) }
     (2 : Int) ^ 79 ≤ (BitVec.ofNat 80 (ofBytes (s.mem.getN (tileBase 0 + 0x600000) 10))).toInt + (BitVec.ofNat 80 (ofBytes (leBytes 10 1))).toInt ∧
     (s.tile 0).addErr 0x600000 10 = none ∧ (s.tile 0).rowOpen 0x600000 10 = false) ∧
    (leBytes 24 0).length = (if (6 : Nat) = 6 then 24 else 16) := by decide +kernel

/-- A put that satisfies the one flag held for it; a flag whose entry stands satisfied. -/
theorem witness_PacketsServed_meets :
    (let p := { Pkt.make .put 7 (.tile 0) (tileBase 1 + 0x100) 0 with last := true, cnt := 1 }
     let f := { Pkt.make .flag 8 (.tile 0) (tileBase 1 + 0x200) 0 with cnt := 1, data := leBytes 8 1 }
     let h : HeldFlag := { src := p.srcKey, grp := 0, epoch := 0, cnt := 1, pa := tileBase 1 + 0x200, val := 1, rid := 8, own := none }
     let s := { one with net := [p, f], tiles := [(1, { Tile.reset with held := [h] })] }
     s.pkt? 7 = some p ∧ s.pkt? 8 = some f ∧ f.srcKey = p.srcKey ∧ f.grp = p.grp ∧ f.epoch % 16 = p.epoch % 16 ∧ s.place f.addr = .tile 1 0x200 ∧
     (s.tile 1).storeErr 0x200 (f.data.take 8).length = none ∧ inZ 0x200 (f.data.take 8).length = false ∧ h.cnt = 0 + 1 ∧ (0 : Nat) + 1 = 0 + p.cnt ∧
     (s.tile 1).arrivals = []) ∧
    (let a : Arrival := { src := 0, grp := 0, epoch := 0, p := 1, e := 1, u := 1, own := none }
     a.u = 1 ∧ a.p = a.e) := by decide +kernel

/-- Another packet of the same put in the network, and none; a put whose packets are not all sent; a request to another package. -/
theorem witness_PacketAnswers_counts :
    (let p := { Pkt.make .wack 7 (.tile 0) (tileBase 1) 0 with tcc := false, counts := true, budget := 3 }
     let s := { one with net := [p, { p with rid := 8, typ := .put }] }
     s.pkt? 7 = some p ∧ p.tcc = false ∧ (s.net.filter (fun x => decide (x.rid ≠ 7))).any (fun x => x.counts && decide (x.budget = p.budget)) = true ∧
     ({ one with net := [p] } : State).net.filter (fun x => decide (x.rid ≠ 7)) = [] ∧ (one.tile 0).sq.ents = []) ∧
    (let p := { Pkt.make .ctrl 7 (.tile 0) 0x100001400 0 with dpkg := 1 }
     p.typ = .ctrl ∧ p.dpkg ≠ 0 ∧ p.spkg = 0 ∧ p.refused = false ∧ p.resent.toNat + (one.limits (.tile 0)).2 * 2000 ≤ (2 ^ 63 : Nat)) := by
  decide +kernel

/-- Flits of a notice, of LNAK, and of a kind that the link does not know; two flits unacknowledged. -/
theorem witness_Links_kinds : (∀ p ∈ ([(2, [1, 0, 2, 0], false), (4, [], false), (9, [], true)] : List (Nat × List Byte × Bool)),
      badFlit (leBytes 128 (flitOf p.1 0 0 p.2.1).toNat) = p.2.2) ∧
    (let s := linked (fun p => { p with txq := [0x70000, 0x80000] })
     (s.port 2).up = true ∧ (s.port 2).txq = [0x70000] ++ 0x80000 :: [] ∧ (0x80000 : BitVec 1024).toNat / 2 ^ 16 % 2 ^ 16 = 8) := by
  refine ⟨?_, by decide +kernel⟩
  intro p hp
  simp only [leBytes_flitOf]
  revert p
  decide +kernel

/-- A plan that must wait for another package, one whose record cannot be read, a cursor that can; a chunk of another package. -/
theorem witness_Resharding_loads :
    (match (sharding (fun r => { r with st := 1, loading := true, src := 0x10000000000 })).rsPlan 0 with
      | .wait _ => true
      | _ => false) = true ∧
    (let s := sharding (fun r => { r with st := 1, loading := true, resume := true })
     (match s.rsRead 0 0x400 16 with
      | .ok bs _ => decide (ofBytes (bs.take 8) = 0)
      | _ => false) = true) ∧
    (match (sharding (fun r => { r with st := 1 })).rsRead 0 0xC000000000 4 with
      | .trap _ _ => true
      | _ => false) = true ∧
    (match (sharding (fun r => { r with st := 1 })).rsRead 0 0x10000000000 4 with
      | .wait _ => true
      | _ => false) = true := by decide +kernel

/-- Two slices due; one left of a launch that was aborted. -/
theorem witness_Preemption_slices :
    (let s := ls (fun l => { l with st := .saved, slices := [(2, 0), (3, 9)] }) one
     let due := fun (e : Nat × Launch) => e.2.slices.any (fun x => decide (x.1 = 2) && decide (x.2 ≤ s.bedt))
     (List.find? due s.launches).map (fun e => (e.1, e.2.opr, e.2.aborted, e.2.slices.filter (fun x => decide (x.1 ≠ 2)))) = some (0, none, false, [(3, 9)])) ∧
    (let s := ls (fun l => { l with st := .saved, slices := [(2, 0)], aborted := true }) one
     (AMap.find? s.launches 0).map (fun l => (l.aborted, l.slices.filter (fun x => decide (x.1 ≠ 2)))) = some (true, [])) := by decide +kernel

/-- A record with the given fields, each an offset, a width in bytes and a value. -/
def fieldsOf (n : Nat) (fs : List (Nat × Nat × Nat)) : List Byte :=
  fs.foldl (fun bs f => bs.take f.1 ++ leBytes f.2.1 f.2.2 ++ bs.drop (f.1 + f.2.1)) (List.replicate n 0)

/-- A packet for one tile with a region table at 0x6000, an image table at 0x7000 and the entry in slot 1; fields added behind. -/
def packetBytes (fs : List (Nat × Nat × Nat)) : List Byte :=
  fieldsOf 128 ([(1, 1, 1), (8, 8, 0x1000), (16, 8, 0x6000), (24, 2, 1), (26, 2, 1), (32, 8, 0x7000), (40, 2, 1), (42, 2, 1), (48, 8, 2), (76, 4, 1)] ++ fs)

/-- Region 0 with the whole rectangle and room for 16 records; an image of one line at 0x4000. -/
def tabled (s : State) : State :=
  (s.poke 0x6000 (fieldsOf 256 [(0, 2, 0xFFFF), (5, 1, 1), (16, 4, 16)])).poke 0x7000 (fieldsOf 16 [(0, 8, 0x4000), (8, 4, 1)])

/-- Queue 3 on, with 16 entries at the base and one packet. -/
def withQueue (base : Nat) (p : List Byte) : State :=
  let s := tabled one
  let s := if base = 0x5000 then s.poke 0x5000 p else s
  { s with lqs := [(3, { LQueue.reset with cfg := 0x4401, base := BitVec.ofNat 64 base, tail := 1 })] }

/-- A coded operator's packet, its descriptor at 0x8000: one task (K 1, C 0) of one word. -/
def codedBytes : List Byte :=
  packetBytes [(0, 1, 1), (40, 2, 0), (42, 2, 0), (76, 4, 0), (112, 8, 0x8000)]

def descBytes (k : Nat) : List Byte :=
  fieldsOf 192 [(2, 1, k), (8, 4, 1), (12, 4, 1), (16, 4, 1), (96, 8, 192), (104, 4, 1), (112, 2, 0xFFFF)]

/-- The GiB at 0x40000000 mapped to package 1. -/
def mappedFar (s : State) : State := s.poke 0x3008 (leBytes 8 0x1000000007F)

/-- What reading the packet of queue 3 meets: the DETAIL of the first check that fails, 0 for none, 100 for a fault, 200 for a wait. -/
def meets (s : State) : Nat :=
  let q := s.lqueue 3
  match s.hsRead viaPa (q.base.toNat + 128 * (q.head.toNat % q.entries)) 128 with
  | .ok bs u =>
    let p := packetOf bs
    if badPacket bs then 1
    else match u.readNamed q.fw p with
      | .ok nm z =>
        let d := z.checkNamed q.fw p nm
        if d ≠ 0 then d
        else if !p.coded then 0
        else match z.checkOperator p.ptroot q.fw p.opdva.toNat true (match nm.opd with
            | some b => .ok b z
            | none => .trap hsBad z) with
          | .ok (.ok _) _ => 0
          | .ok (.error e) _ => 70 + e
          | .trap _ _ => 100
          | .wait _ => 200
      | .trap _ _ => 101
      | .wait _ => 201
  | .trap _ _ => 100
  | .wait _ => 200

/-- A packet that cannot be read, in another package, malformed, with a table that cannot be read, a bad size, a rectangle that is too
large, a good one; a table and an inner descriptor in another package; a good operator's packet, one whose descriptor is bad. -/
theorem witness_LaunchQueues_packets :
    (∀ x ∈ ([(withQueue 0xC000000000 [], 100), (withQueue 0x10000000000 [], 200), (withQueue 0x5000 (packetBytes [(1, 1, 0)]), 1),
        (withQueue 0x5000 (packetBytes [(16, 8, 0x80000000)]), 101), (withQueue 0x5000 (packetBytes [(8, 8, 0x10000000000)]), 101),
        (withQueue 0x5000 (packetBytes [(48, 8, 1)]), 2), (withQueue 0x5000 (packetBytes [(40, 2, 17)]), 6), (withQueue 0x5000 (packetBytes []), 0),
        (mappedFar (withQueue 0x5000 (packetBytes [(16, 8, 0x40000000)])), 201),
        (mappedFar ((withQueue 0x5000 codedBytes).poke 0x8000 (fieldsOf 192 [(0, 2, 0x40), (2, 1, 1), (8, 4, 1), (12, 4, 1), (16, 4, 1), (96, 8, 192), (104, 4, 1), (128, 8, 0x40000000)])), 200),
        ((withQueue 0x5000 codedBytes).poke 0x8000 (descBytes 1), 0), ((withQueue 0x5000 codedBytes).poke 0x8000 (descBytes 9), 74)] : List (State × Nat)),
      x.1.nextQueue = some 3 ∧ x.1.mbox.duty.getLsbD 0 = false ∧ (x.1.lqueue 3).ringFull = false ∧ (x.1.lqueue 3).waiting = [] ∧ meets x.1 = x.2) := by
  decide +kernel

/-- A completion ring of 16 entries that is full, with a record that waits for room; a post under DUTY VAL. -/
theorem witness_LaunchQueues_rings :
    (let q := { LQueue.reset with cfg := 0x4401, crtail := 16, waiting := [([], 0)] }
     q.ringFull = true ∧ (16 - (0 : BitVec 32)).toNat ≤ q.records ∧ q.waiting = [([], 0)] ∧ ((1 : BitVec 32) - q.crhead).toNat ≤ (q.crtail - q.crhead).toNat ∧
     (q.crtail - 1).toNat < q.records) ∧
    ({ (withQueue 0x5000 []) with mbox := { one.mbox with duty := 1 } } : State).mbox.duty.getLsbD 0 = true := by decide +kernel

/-- An outstanding request of a function about n, tag 4, with its data; under the given DUTY. -/
def asked (fn n : Nat) (data : List Byte) (duty : BitVec 6) (s : State) : State :=
  { s with mbox := { s.mbox with duty := duty, reqs := [{ tag := 4, fn := fn, about := n, data := data }] } }

/-- What a VAL answer releases is read, with the ring full and not; an answer of every duty that was asked for. -/
theorem witness_MailboxAndObjects_val :
    (let s := asked 1 3 (packetBytes [] ++ leBytes 8 7) 0 (withQueue 0x5000 [])
     let p := packetOf ((packetBytes [] ++ leBytes 8 7).take 128)
     s.mbox.h2df = false ∧ ((s.mbox.reqs.find? (fun x => decide (x.tag = 4) && decide (x.fn = 1))).map (fun r => r.about)) = some 3 ∧
     (s.lqueue 3).ringFull = false ∧ (s.lqueue 3).waiting = [] ∧ p.coded = false ∧ leAt (packetBytes [] ++ leBytes 8 7) 128 8 = 7 ∧
     (okd (({ s with mbox := { s.mbox with reqs := [] } } : State).readNamed (s.lqueue 3).fw p)).isSome = true) ∧
    ({ LQueue.reset with cfg := 0x4401, crtail := 16 } : LQueue).ringFull = true ∧
    (∀ fn ∈ [1, 2, 3, 6], ∀ a ∈ [1, 2, 3, 6], fn ≠ a → (asked fn 0 [] 0 one).mbox.reqs.find? (fun x => decide (x.tag = 4) && decide (x.fn = a)) = none) ∧
    ((asked 4 0 [] 0x10 one).mbox.duty.getLsbD 4 = true ∧ (asked 4 0 [] 0 one).mbox.duty.getLsbD 4 = false ∧ (one.tile 0).bound.isNone = false ∧
     (one.tile 1).bound.isNone = true ∧ (∀ q ∈ (AMap.getD one.logs 0 (0, [])).2, q.agg = false)) := by decide +kernel

/-- A launch that waits, at an origin where it fits, at one beyond the mesh, and running; a symmetry that it allows and one that it does not. -/
theorem witness_MailboxAndObjects_sched :
    (let l := { loadedLaunch with st := .wait, tiles := [] }
     let s := asked 6 0 [] 0x20 { (ts (fun t => { t with bound := none }) []) with launches := [(0, l)] }
     let s1 := ({ s with mbox := { s.mbox with reqs := [] } } : State)
     s.mbox.h2df = false ∧ AMap.find? s.launches 0 = some l ∧ s1.ready l false = true ∧ 0 ∈ l.pkt.syms ∧ 1 ∉ l.pkt.syms ∧ l.pkt.fixed = false ∧ l.slots = [] ∧
     (s1.fitAt l.pkt 0 0 0).isSome = true ∧ s1.fitAt l.pkt 16 0 0 = none) ∧ one.ready loadedLaunch false = false := by decide +kernel

/-- A decode request whose returns are those that have arrived, one of which came later; answers with code 0 and with another. -/
theorem witness_MailboxAndObjects_dec :
    (let d : OpDesc := { opDescOf [] with k := 1, cr := 1, mp := 1, n := 1 }
     let at_ := fun (o : Opr) => asked 3 0 (leBytes 4 0 ++ leBytes 4 1) 4 { one with oprs := [(0, o)] }
     let o := { Opr.free with st := 1, desc := some d, launch := 0, arr := 1, posted := true }
     (at_ o).opr 0 = o ∧ o.outstanding d.tasks = [1] ∧ d.tasks ≤ 12 ∧
     (∀ t ∈ o.arrived d.tasks, tbit (leAt (leBytes 4 0 ++ leBytes 4 1) 4 4) t = true) ∧
     (match ({ at_ o with mbox := one.mbox } : State).hsRead (viaLaunch 0 false) d.cva.toNat ((if d.outf = 1 then 10 else 16) * (d.k * d.mp * d.n)) with
       | .ok _ s2 => decide (s2.oprs = [(0, o)])
       | _ => false) = true ∧
     ({ o with posted := false } : Opr).posted = false) := by decide +kernel

/-- A word of HBM4E that cannot be corrected. -/
theorem witness_HostRegisters_bad :
    (let x : BadWord := { mark := .home, pa := 2 ^ 49, len := 64, corr := false, inj := false }
     ({ one with bad := [x] } : State).fw.boot = 1 ∧ ({ one with bad := [x] } : State).armed = [] ∧ ({ one with bad := [x] } : State).place 0x40 = .hbm 0 0x40 ∧
     overlap (2 ^ 49) 64 x.pa x.len = true) := by decide +kernel

/-- An image at 0x6000 whose body is empty, verified by a running package. -/
def stagedImage : State :=
  let s := one.poke 0x6000 (headerOver imageMagic (sha512 []))
  { s with fw := { s.fw with st := 2, fwimg := 0x6000 } }

theorem stagedImage_read : (match stagedImage.staged with
    | .ok i u => decide (i = fwImageOf (headerOver imageMagic (sha512 [])) []) && decide (u.fw.minsvn = 0) && u.cores.toList.all (fun x => !x.intrap)
    | _ => false) = true := by decide +kernel

/-- Where the root key's check answers yes (a free value, log entry 15), the staged image verifies, and no core is in a handler. -/
theorem witness_FirmwareAndBoot_staged (h : Config.signatureOk 0 (slice (headerOver imageMagic (sha512 [])) 0 128)
      (slice (headerOver imageMagic (sha512 [])) 128 64) = true) :
    stagedImage.fw.st = 2 ∧ ∃ i u, stagedImage.staged = .ok i u ∧ headerOk imageMagic i.header i.body = true ∧ u.fw.minsvn ≤ i.svn ∧
      ∀ x ∈ u.cores.toList, x.intrap = true → x.stopped = true := by
  have k := stagedImage_read
  split at k
  · rename_i i u e
    simp only [Bool.and_eq_true, decide_eq_true_eq, List.all_eq_true, Bool.not_eq_true'] at k
    obtain ⟨⟨rfl, m⟩, c⟩ := k
    refine ⟨rfl, _, u, e, ?_, by rw [m]; exact Nat.zero_le _, fun x hx => by simp [c x hx]⟩
    have z : leAt (headerOver imageMagic (sha512 [])) 16 1 = 0 := by decide +kernel
    rw [headerOk, fwImageOf, z, h]
    decide +kernel
  · cases k

/-- A later visit of a slot, with room left and two starts that wait; an error that ends while no tile runs ballast. -/
theorem witness_TimeAndGovernor_visits :
    (let p : Start := { tile := 0, req := 0, readNo := 0, launch := 0, ltn := 0, entry := true, group := none, ends := [] }
     let s := { one with bedt := 500, gov := { one.gov with slot := 1, used := 1, pending := [p, { p with tile := 1 }] } }
     s.bedt.toNat % 500 = 0 ∧ s.gov.slot = s.bedt.toNat / 500 ∧ (∀ p ∈ s.gov.pending, p.group = none ∧ p.ends = []) ∧
     1 < Nat.max 1 (s.gov.rate / (4 * Nat.max 1 s.gov.itile))) ∧
    (one.tiles.filter (fun e => e.2.ballast.any (fun b => decide (b < one.bedt)))).length ≤ 1 ∧
    one.hardHeld 0 = false ∧ (ls (fun l => { l with preempt := 2 }) one).hardHeld 0 = true ∧ one.stalls 0 = false := by decide +kernel

/-- A root's record. -/
def root : Rec := { code := 1, img := 0, frame := 0, jca := 0, region := 0, pri := 3 }

/-- A running launch with a root outside its pools, with room and without; a launch that waits behind another; a bad slot table with a full
ring; DUTY SCHED with a request out and without. -/
theorem witness_Launches_claims :
    (let s := ls (fun l => { l with roots := [root] }) one
     (AMap.find? s.launches 0).map (fun l => (l.st, l.roots)) = some (.run, [root]) ∧
     ((s.pushRec 0 root).map (fun u => ((AMap.find? u.launches 0).map (fun l => l.held 0)))) = some (some 1)) ∧
    (fullPool one).pushRec 0 root = none ∧ one.first 0 loadedLaunch false = false ∧
    (let l := { loadedLaunch with st := .wait, tiles := [], slots := List.replicate 3072 255 }
     let s := { (ts (fun t => { t with bound := none }) []) with launches := [(0, l)], lqs := [(0, { LQueue.reset with cfg := 0x4401, crtail := 16 })] }
     l.slots ≠ [] ∧ slotsOk l.slots l.pkt.w l.pkt.h = false ∧ (s.lqueue l.queue).ringFull = true ∧ (s.firstFit l.pkt (s.originsOf l)).isSome = true ∧
     s.first 0 l false = true) ∧
    (let l := { loadedLaunch with st := .wait, tiles := [] }
     let s := asked 6 0 [] 0x20 { (ts (fun t => { t with bound := none }) []) with launches := [(0, l)] }
     s.first 0 l false = true ∧ s.mbox.duty.getLsbD 5 = true ∧ l.task = none ∧ s.fw.st = 0 ∧ (∃ r ∈ s.mbox.reqs, r.fn = 6 ∧ r.about = 0) ∧
     (∀ r ∈ (asked 6 1 [] 0x20 one).mbox.reqs, r.fn = 6 → r.about ≠ 0)) := by decide +kernel

/-- A coded operator that waits, with a free register and dies, with none free, and running; drained with and without room for its record. -/
theorem witness_Launches_coded :
    (let d : OpDesc := { opDescOf [] with k := 1, mp := 1, n := 1, dies := 0xFFFF }
     let l := { loadedLaunch with st := .wait, tiles := [], opDesc := some d }
     let s := { one with launches := [(0, l)] }
     s.freeOpr = some 0 ∧ s.first 0 l true = true ∧ 0 < s.nextLaunch ∧ ((s.startOperator 0 0).opr 0).eras = 0 ∧
     ((({ s with launches := [(0, { l with opDesc := some { d with dies := 0 } })] } : State).startOperator 0 0).opr 0).eras ≠ 0 ∧
     ({ s with oprs := (List.range 16).map (fun r => (r, { Opr.free with st := 1 })) } : State).freeOpr = none) ∧
    (let l := { loadedLaunch with opr := some 0 }
     l.st = .run ∧ l.preempt = 0 ∧ l.opr = some 0) ∧
    (let l := { loadedLaunch with st := .drain }
     let s := ls (fun _ => l) (ts (fun t => { t with cont := none }) [])
     s.drained 0 l = true ∧ l.task = none ∧ (s.lqueue l.queue).ringFull = false ∧ (s.lqueue l.queue).waiting = [] ∧
     (let z := { s with lqs := [(0, { LQueue.reset with cfg := 0x4401, crtail := 16 })] }
      z.drained 0 l = true ∧ (z.lqueue l.queue).ringFull = true)) := by decide +kernel

/-- The record that an idle tile chooses: whole, corrected, lost, and spilled to an area that is mapped, absent, or in another package. -/
theorem witness_Launches_records :
    (∀ x ∈ ([([], none, 0), ([(1, true)], none, 0), ([(1, false)], none, 0), ([], some 2, 0), ([], some 2, 0x80000000), ([], some 2, 0x40000000)] :
        List (List (Nat × Bool) × Option Nat × Nat)),
      let p : Pool := { region := 0, pri := 3, recs := [({ root with ecc := x.1, spill := x.2.1 }, 0)], level := 3, timer := 0 }
      let s := mappedFar (ls (fun l => { l with pools := [p], regions := [{ loadedRegion with psva := BitVec.ofNat 64 x.2.2, pslen := 4096 }] })
        (ts (fun t => { t with cont := none }) []))
      s.choosePool 0 0 = some p ∧ (s.tile 0).bound = some 0 ∧ (s.tile 0).tcc.intrap = false ∧ (s.tile 0).dbg.stopped = false ∧
      (x.2.1 ≠ none → (match s.hsRead (viaLaunch 0 false) (x.2.2 + 64) 32 with
        | .ok _ _ => x.2.2 == 0
        | .trap _ _ => x.2.2 == 0x80000000
        | .wait _ => x.2.2 == 0x40000000) = true)) := by decide +kernel

/-- No launch for a task of an inner and of an outer operator; a request posted; a launch that waits on a die that is excluded. -/
theorem witness_CodedTasks_jobs :
    (let s := coded id 2
     let o := s.opr 0
     s.taskOpen 0 0 = true ∧ ({ s with launches := [(0, loadedLaunch)] } : State).taskLaunch 0 0 = none ∧
     (let t := { s with launches := [(0, loadedLaunch)], oprs := [(0, { o with desc := o.desc.map (fun (d : OpDesc) => { d with ctl := 0x40, cr := 2, pkgs := [1, 2, 3] }) })] }
      let answered := fun (b : Nat) => ({ t with oprs := [(0, { t.opr 0 with tst := [(0, b)] })] } : State).remoteDone 0 0
      t.remoteDone 0 0 = none ∧ answered 0 = some 0 ∧ answered 2 = some 2 ∧ t.taskOpen 0 0 = true ∧ t.taskLaunch 0 0 = none ∧ (t.opr 0).posted = false ∧
      (({ t.opr 0 with arr := tset 0 0 } : Opr).arrived 4).length < 2 ∧ ({ t.opr 0 with arr := tset 0 0 } : Opr).outstanding 4 ≠ []) ∧
     ({ o with posted := true } : Opr).posted = true ∧ (coded id 1).mbox.duty.getLsbD 2 = false ∧
     (asked 0 0 [] 4 (coded id 1)).mbox.duty.getLsbD 2 = true ∧ (asked 0 0 [] 4 (coded id 1)).fw.st = 0) ∧
    (let s := { coded (fun l => { l with st := .wait }) 2 with diesOut := [1] }
     ((AMap.find? s.launches 5).map (fun l => (l.st, l.taskEnded))) = some (.wait, false) ∧ s.sockOut ((s.opr 0).die 0) = false ∧
     ({ s with launches := [(5, { loadedLaunch with st := .wait, tiles := [] })] } : State).dieExcluded ((s.opr 0).die 0) = true) := by decide +kernel

/-- The returns that decide: read and in agreement, read and not correctable; a late one; the last one lost. -/
theorem witness_CodedTasks_decides :
    (let s := coded id 1
     let d : OpDesc := { opDescOf [] with k := 1, cr := 1, mp := 1, n := 1 }
     let o := { s.opr 0 with arr := 1 }
     let u := (s.foldTask 5).setOpr 0 o
     (s.opr 0).desc = some d ∧ o.arrived d.tasks = [0] ∧ d.need = 1 ∧ o.outstanding d.tasks = [1] ∧
     (match u.readReturns o d [0] with
       | .ok r z => decide (r = [(0, some [0], false)]) && decide (z.oprs = u.oprs) && (verdicts 1 1 [(0, [0])]).all (fun x => x.isSome) &&
         (match z.hsWrite (viaLaunch 0 true) d.cva.toNat (outBytes d (wordsOfC 1 1 (verdicts 1 1 [(0, [0])]))) with
           | .ok _ w => decide (w.oprs = u.oprs)
           | _ => false)
       | _ => false) = true) ∧
    (verdicts 1 1 [(0, [0]), (1, [5])]).any (fun x => x.isNone) = true ∧
    (let s := { coded id 1 with oprs := [(0, { (coded id 1).opr 0 with st := 2, c := [0] })] }
     (s.opr 0).st = 2 ∧ s.taskOpen 0 0 = true) ∧
    (let s := { coded (fun l => { l with regions := [loadedRegion, { loadedRegion with ended := true }] }) 2 with
       oprs := [(0, { (coded id 2).opr 0 with desc := some { opDescOf [] with k := 2, mp := 1, n := 1 }, eras := 2 })] }
     let o := { s.opr 0 with eras := 3 }
     s.taskOpen 0 0 = true ∧ (o.arrived 2).length < 2 ∧ o.outstanding 2 = [] ∧ (AMap.find? (s.foldTask 5).launches 0).isSome = true ∧
     (s.foldTask 5).hsPosted = false) := by decide +kernel

/-- A loop that starts beyond the image; ends not reached. -/
theorem witness_Loops_edges :
    (let l : LoopSet := { lc := 3, ls := 0x101, le := 0x102, ae := 1 }
     (looping LoopSet.zero l).image.2 ≤ lineOf l.ls ∧ l.ls ≤ l.le ∧ lineOf (1 : CodeAddr) < one.image.2 ∧ (0 : BitVec 32) = (0 : Word).truncate 32) ∧
    ((looping LoopSet.zero { lc := 3, ls := 0x101, le := 0x102, ae := 1 }).boundaryAt 1) := by
  unfold State.boundaryAt
  decide +kernel

/-- A part in a z tile of another package. -/
theorem witness_AccessChecks_far : (let p : CPart := { key := 0, n := 8, kind := .rc, l1 := false, cmp := false, remote := true, pa := 0x18000000600008, far := some 1, out := false, pin := none, va := 0x40000000 }
    p.far = some 1 ∧ 0x8000000000000 ≤ p.pa % 2 ^ 52 ∧ 0x600000 ≤ p.pa % 2 ^ 24 ∧ p.pa % 2 ^ 24 < 0x880000 ∧ 0 < p.n) := by decide +kernel

/-- A TAGS bit that is newly set, and none. -/
theorem witness_SpecialRegisterWrites_tags : (0x3 : Word) &&& ~~~ 0x1 ≠ 0 ∧ (0x1 : Word) &&& ~~~ 0x3 = 0 := by decide

/-- A command that uses SR in XQ; a count of tokens that grows; the links at both bounds. -/
theorem witness_CheckedRegisterWrites_more :
    (let s := ts (fun t => { t with xq := { t.xq with ents := [{ waiting 1 with cmd := cmdWord (.xcall e0) }] } }) []
     standsAt s 2 = true ∧ (s.tile 0).xq.usesSr = true) ∧ (one.tile 0).xq.usesSr = false ∧ (one.tile 0).lx < 16 ∧
    (let base := (1048576 - 48 * 1024) / 64
     base ≤ 15616 ∧ 15616 + 255 < base + 256 ∧ ¬ 15616 + 256 < base + 256) := by decide +kernel

/-- A barrier released since the tile arrived there. -/
theorem witness_Barriers_released :
    (let s := barred { cfg := true, member := true, arr := false, gen := 7, rel := true }
     standsAt s 2 = true ∧ ((s.tile 0).bar 5).rel = true ∧ s.cur.arrived = false ∧ (s.updCur (fun c => { c with arrived := true })).cur.arrived = true) := by
  decide +kernel

/-- A flag held since the fence began; a packet through a UO page; outstanding batches whose members have ended, and 16 whose members have
not; a queue with a number not reached. -/
theorem witness_FencesAndQueueWaits_more :
    (let h : HeldFlag := { src := 1, grp := 0, epoch := 0, cnt := 1, pa := 0, val := 0, rid := 3, own := none }
     let s := (ts (fun t => { t with held := [h] }) []).updCur (fun c => { c with waiting := true, fenceOn := [3] })
     standsAt s 2 = true ∧ (s.tile 0).held.map (fun h => h.rid) = [3] ∧ (∃ h ∈ (s.tile 0).held, h.rid ∈ s.cur.fenceOn) ∧ (0x10 : BitVec 6).getLsbD 4 = true) ∧
    (let p := { Pkt.make .put 7 (.tile 0) (tileBase 1) 0 with tcc := false, uo := true, q := .l }
     p.typ.performed = false ∧ p.uo = true) ∧
    one.openBatches 0 [[(.x, 1)], [(.x, 2)]] = [] ∧
    (let s := ts (fun t => { t with xq := { t.xq with ents := [waiting 1], isn := 1 }, openBatch := [(.x, 1)], batches := List.replicate 16 [(.x, 1)] }) []
     standsAt s 2 = true ∧ (s.openBatches 0 (s.tile 0).batches).length = 16 ∧ (s.tile 0).openBatch ≠ []) := by decide +kernel

/-- A pool store that is full: a region without a spill area, and one with; a pool at its bound, one that has ended. -/
theorem witness_Spawns_full : (fullStore one).storeRoom = false ∧ loadedRegion.psva = 0 ∧ loadedRegion.ended = false ∧
    ((fullPool one).pushRec 0 root = none) ∧ ((one.pushRec 0 root).map (fun u => u.me.cont)) = some one.me.cont ∧
    ((ls (fun l => { l with regions := [{ loadedRegion with ended := true }] }) one).pushRec 0 root).isSome = true ∧
    (2 ^ 57 ≤ (0x200000000000000 : Word).toNat ∧ (0x1FF000000880004 : Word).toNat % 8 ≠ 0 ∧ (0x100000 : Word).toNat < 0x1FF * 2 ^ 48) :=
  ⟨fullStore_noRoom one, by decide +kernel⟩

/-- A launch ring in another package, and one in this package's HBM4E. -/
theorem witness_DeviceLaunch_rings : one.place 0x10000000000 = .far 1 ∧ one.place 0x5000 = .hbm 5 0 := by decide +kernel

/-- An object of a die that is out of service. -/
theorem witness_ObjectInstructions_out : dieOut.sockOut ((0x100000 : Word).toNat / 2 ^ 20 % 64) = true ∧ (0x100000 : Word).toNat / 2 ^ 26 % 512 = 0 ∧
    (0x100000 : Word).toNat / 2 ^ 20 % 64 ≠ 0 ∧ (0x100000 : Word).toNat < 2 ^ 35 := by decide +kernel

/-- A freeze and an engine fault still to be taken. -/
theorem witness_ReturnFromTrap_pending :
    (let f : EngFault := { q := .x, cause := 23, sub := 1, info := 0, word := 0, isn := 1, frz := true, region := 0, host := false }
     let s := (handling 5 0).updTile 0 (fun t => { t with faults := [f], frz := true })
     s.cur.intrap = true ∧ s.onCore = false ∧ s.me.faults.any (fun f => f.frz) = true ∧ isCodeIn s 5 = true) := by decide +kernel

/-- A translation that a packet in the network still uses; one that a TLBINV of another space keeps. -/
theorem witness_CacheInstructions_pinned :
    (let e : TlbEnt := { space := 1, va := 0x4000, size := 4096, pa := 0x4000, ent := 0x7F }
     let p := { Pkt.make .put 7 (.tile 0) (tileBase 1) 0 with pin := some e }
     p.typ.performed = false ∧ p.pin = some e ∧ e.va ≤ 0x4000 ∧ 0x4000 < e.va + e.size ∧ 0x5000 ≥ e.va + e.size) := by decide +kernel

/-- A register of a die that is out of service; one of another package before and after its answer. -/
theorem witness_SystemRegisters_far : dieOut.sockOut (0x4000118 / 2 ^ 26) = true ∧ (sysRegOf 0x4000118).isSome = true ∧ one.sockOut 0 = false ∧
    (sysRegOf (0x100001400 % 2 ^ 32)).isSome = true ∧ 2 ^ 32 ≤ 0x100001400 ∧ 0x100001400 < 2 ^ 41 ∧ one.cur.far = [] ∧
    (let s := (gs [(5, 0x100001400)]).updCur (fun c => { c with far := [{ rid := 3, pa := 0x100001400, len := 8, wr := false, ans := some (leBytes 8 9), err := none }] })
     standsAt s 2 = true ∧ s.cur.far.length = 1) := by decide +kernel

/-- A retired block of L2; a value, a packet, a record, and the words of a tile that can be struck. -/
theorem witness_StorageErrors_sites : one.home 0x40 = .hbm 0 0x40 ∧ one.retired.contains (3 * 4096 + 0, 2 ^ 49) = false ∧
    ({ one with retired := [(3 * 4096 + 0, 2 ^ 49)] } : State).retired.contains (3 * 4096 + 0, (2 ^ 49 + 0x40) / 128 * 128) = true ∧
    one.home (tileBase 3 + 0x100) = .tile 3 0x100 ∧ (one.tile 3).offBad 0x100 1 = false ∧ one.home (2 ^ 40) = .far 1 ∧ one.home (768 * 2 ^ 30) = .reserved ∧
    (let s := { sent id with objs := [(5, { cap := 2, vals := [1, 2] })] }
     (s.pkt? 7).isSome = true ∧ (AMap.find? s.objs 5).map (fun o => o.vals.length) = some 2 ∧ 5 / 2 ^ 20 % 64 = 0) ∧
    (∀ x ∈ ([(.reg, 4, .add 3 4 5), (.xret, 0, .xretw 3), (.pred, 2, .pand 1 2 3)] : List (Mark × Nat × Instr)),
      let w : BadWord := { mark := x.1, pa := x.2.1, len := 0, corr := true, inj := false }
      ({ gs [] with bad := [w] } : State).parityOf 0 x.2.2 = [w]) ∧
    ({ gs [] with bad := [{ mark := .reg, pa := 3, len := 0, corr := true, inj := false }] } : State).parityOf 0 (.xretw 3) = [] := by
  decide +kernel

/-- Copies with a follow-on where the stream gives none; a full XQ; an open batch at its bound with 16 outstanding and with none. -/
theorem witness_EngineIssue_bounds :
    (let s := (gs []).updCur (fun c => { c with lined := true, iw := BitVec.ofNat 64 (encode (.cld { e0 with fol := true })).1 })
     standsAt s 2 = true ∧ (match s.followOn with
       | .trap _ _ => true
       | _ => false) = true) ∧
    ((following.updTile 0 (fun t => { t with xq := { t.xq with ents := List.replicate 256 (waiting 1) } })).tile 0).xq.ents.length = 256 ∧
    (let s := ts (fun t => { t with openBatch := List.replicate 65535 (.x, 1) }) []
     standsAt s 2 = true ∧ (s.openBatches 0 (s.tile 0).batches).length = 0) ∧
    (List.replicate 65535 ((.x, 1) : Q × Word)).length = 65535 :=
  ⟨by decide +kernel, by decide +kernel, by decide +kernel, List.length_replicate⟩

/-- MCAP without room for its push; a core that is in a handler when a fault of the host's is pending. -/
theorem witness_EngineCommandCompletion_mcap :
    (let s := (begun .x (.mcap { e0 with tok := 4 }) id).updTile 0 (fun t => { t with xl := 16 })
     headOf s .x (.mcap { e0 with tok := 4 }) = true ∧ (s.tile 0).xl = 16 ∧ (s.tile 0).xret = [] ∧
     (((s.tile 0).xq.ents.head?).map (fun en => en.cmd.getLsbD 34)) = some true) := by decide +kernel

/-- A freeze that belongs to the host: not posted yet, and posted. -/
theorem witness_TileEvents_host :
    (let f : EngFault := { q := .l, cause := 7, sub := 1, info := 0, word := 0, isn := 1, frz := true, region := 0, host := true }
     let s := ts (fun t => { t with faults := [f], frz := true }) []
     (s.tile 0).firstFault = some f ∧ f.host = true ∧ (∀ r ∈ s.mbox.reqs, ¬ (r.fn = 2 ∧ r.about = 0)) ∧
     (∃ r ∈ (asked 2 0 [] 0x2 s).mbox.reqs, r.fn = 2 ∧ r.about = 0)) := by decide +kernel

/-! #### Clauses of the second review -/

/-- The GiB at 0x40000000 mapped to the windows of tiles 0 to 63. -/
def mappedTiles (s : State) : State := s.poke 0x3008 (leBytes 8 0xFF0000000007F)

/-- The executing tile's launch as one that a pre-emption has saved. -/
def savedRunning : State := ls (fun l => { l with st := .saved }) one

/-- Whether an operation waits. -/
def waitsOn {α : Type} (r : Res α) : Bool := match r with
  | .wait _ => true
  | _ => false

/-- The return-address store empty and one spilled entry at an address. -/
def refilling (rsp : Word) (s : State) : State := s.updCur (fun c => { c with rsc := 1, rsp := rsp })

/-- A refill of no code address; one whose check traps and waits; one whose read waits. -/
theorem witness_Returns_refills :
    (let s := refilling 0x1FF000000000100 one
     s.cur.ras = [] ∧ s.cur.rsc ≠ 0 ∧ s.cur.stepLeft = none ∧ (match s.cCheck s.cur.rsp 8 false true with
      | .ok ps s1 => (match s1.cReads false ps with
        | .ok bs s2 => !isCodeIn s2 (BitVec.ofNat 64 (ofBytes bs)) && decide (s2.cur = s.cur)
        | _ => false)
      | _ => false) = true) ∧
    trapped ((refilling 0x1FF000000000104 one).cCheck 0x1FF000000000104 8 false true) = some 6 ∧
    waitsOn ((refilling 0x1FF000000000100 savedRunning).cCheck 0x1FF000000000100 8 false true) = true ∧
    (match (refilling 0x40000000 (mappedFar one)).cCheck 0x40000000 8 false true with
      | .ok ps s1 => waitsOn (s1.cReads false ps)
      | _ => false) = true := by decide +kernel

/-- A refill whose read meets an uncorrectable word. -/
theorem witness_Returns_lost :
    (let s := refilling 0x1FF000000000100 { one with bad := [{ mark := .home, pa := tileBase 0 + 0x100, len := 8, corr := false, inj := false }] }
     (match s.cCheck s.cur.rsp 8 false true with
      | .ok ps s1 => (trapped (s1.cReads false ps)).isSome
      | _ => false) = true) := by decide +kernel

/-- A spill whose check traps and one whose check waits; CALL's line in the image, a line past it. -/
theorem witness_BranchesAndCalls_spill :
    (∀ x ∈ [(0x1FF0000000F4008, one), (0x1FF000000000108, savedRunning)],
      let s := x.2.updCur (fun c => { c with ras := List.replicate 16 3, rsp := x.1 })
      standsAt s 2 = true ∧ s.cur.ras.length = 16 ∧ s.cur.ras.getLast? = some 3 ∧ s.cur.pfx = none ∧
      (if x.1 = 0x1FF000000000108 then waitsOn (s.cCheck (s.cur.rsp - 8) 8 true true) else (trapped (s.cCheck (s.cur.rsp - 8) 8 true true)).isSome) = true) ∧
    (0 : Int) ≤ (lineOf one.cur.pc : Int) + (0 : BitVec 19).toInt ∧ (lineOf one.cur.pc : Int) + (0 : BitVec 19).toInt < one.image.2 ∧
    ¬ ((lineOf one.cur.pc : Int) + (1 : BitVec 19).toInt < one.image.2) := by decide +kernel

/-- Set 0 ending, falling back, ending before its start and starting past the image, alone and after set 1; no successor. -/
theorem witness_Loops_sets :
    (let l : LoopSet := { lc := 3, ls := 1, le := 1, ae := 1 }
     let last := { l with lc := 1 }
     let low := { l with ls := 5 }
     let stray : LoopSet := { lc := 3, ls := 0x101, le := 0x102, ae := 1 }
     (∀ a ∈ [l, last, low, stray],
       (looping a LoopSet.zero).boundaryAt 0 ∧ ¬ (looping a LoopSet.zero).boundaryAt 1 ∧
       (looping a last).boundaryAt 1 ∧ (looping a last).boundaryAt 0 ∧ ((looping a last).cur.loop 1).lc = 1 ∧
       ((looping a last).updCur (fun c => { c with succ := none })).boundaryAt 0 ∧ ((looping a last).updCur (fun c => { c with succ := none })).cur.succ = none) ∧
     low.le < low.ls ∧ l.ls ≤ l.le ∧ lineOf l.ls < one.image.2 ∧ one.image.2 ≤ lineOf stray.ls ∧ stray.ls ≤ stray.le) := by
  unfold State.boundaryAt
  decide +kernel

/-- Two parts: of memory here, in two pages, and of one tile's window in another package. -/
theorem witness_AccessChecks_parts :
    (match one.cPart 0x4079 7 true with
      | .ok p s1 => (match s1.cPart 0x4080 1 true with
        | .ok q s2 => (match s2.cPartRules true p with
          | .ok _ s3 => (match s3.cPartRules true q with
            | .ok _ _ => !p.out && !q.out && decide (p.far = none)
            | _ => false)
          | _ => false)
        | _ => false)
      | _ => false) = true ∧
    (match (mappedFar one).cPart 0x40000079 7 true with
      | .ok p s1 => (match s1.cPart 0x40000080 1 true with
        | .ok q s2 => (match s2.cPartRules true p with
          | .ok _ s3 => (match s3.cPartRules true q with
            | .ok _ _ => decide (p.far = some 1) && decide (q.far = some 1) && decide (p.pin = q.pin)
            | _ => false)
          | _ => false)
        | _ => false)
      | _ => false) = true ∧
    trapped (one.cPart 0x3FFFFFFF 1 true) = none ∧ (trapped (one.cPart 0x40000000 7 true)).isSome = true ∧
    (let s := mappedTiles { coreS [] with fw := { (coreS []).fw with cfg := dieOut.fw.cfg } }
     (match s.cPart 0x40000100 8 true with
      | .ok p s1 => p.out && (okd (s1.cPartRules true p)).isSome
      | _ => false) = true) := by decide +kernel

/-- A management core's addresses: a double of a tile's atomic region, a misaligned one, one outside the region, one that is no window. -/
theorem witness_Atomics_core :
    (∀ v ∈ [tileBase 3 + 0x880000, tileBase 3 + 0x880004, tileBase 3 + 0x8C0000, 0x4000],
      let s := coreS [(5, BitVec.ofNat 64 v)]
      standsAt s 2 = true ∧ s.who = .core 0 ∧ (s.g 5).toNat = v ∧ s.sockOut (3 / 16 + 1) = false ∧ s.savedTile 3 = false) ∧
    (tileBase 3 + 0x880000) / 2 ^ 44 = 0xFF ∧ (tileBase 3 + 0x880000) / 2 ^ 41 % 8 = 0 ∧ ¬ (tileBase 3 + 0x8C0000) % 2 ^ 24 < 0x8C0000 ∧
    (0x4000 : Nat) / 2 ^ 44 ≠ 0xFF := by decide +kernel

/-- Engine instructions of every family. -/
theorem witness_SpecialRegisterTraps_engines : ∀ i ∈ ([.tokp e0, .xcall e0, .cld e0, .fget e0, .cbat e0, .fackw e0, .mma e0, .mstat e0, .vadd e0, .vdrainq e0] : List Instr),
    i.eng? ≠ none := by decide

/-- A command of XQ that uses SR, behind it a SEED held already; none. -/
theorem witness_CheckedRegisterWrites_seed :
    (let i := Instr.vqnt { e0 with ext := 3 * 2 ^ 6 }
     let w := BitVec.ofNat 64 ((encode i).1 + (encode i).2 * 2 ^ 32)
     let s := ts (fun t => { t with xq := { t.xq with ents := [{ waiting 1 with cmd := w }], isn := 1 }, seedNext := [(0, 5)] }) []
     standsAt s 2 = true ∧ (s.tile 0).seedNext ≠ []) ∧ (one.tile 0).xq.usesSr = false := by decide +kernel

/-- A SPAWNJ's join block, with room, without, discarded; a JOIN's record that its pool takes. -/
theorem witness_Spawns_joined :
    (let s := us [(4, 1), (5, 9), (6, 0x1FF000000880000)]
     loadedLaunch.st ≠ .saved ∧ loadedLaunch.tiles[0]? = some 0 ∧ (s.tile 0).bound = some 0 ∧ s.sockOut 1 = false ∧
     (s.g 6).toNat = 0x1FF * 2 ^ 48 + 0 * 2 ^ 24 + 0x880000 ∧
     (let r : Rec := { code := 1, img := s.curImg, frame := 9, jca := s.g 6, region := 0, pri := (s.tile 0).cpri.toNat / 8 % 8 }
      (match s.pushRec 0 r with
       | some u => decide (u.me.cont = s.me.cont) && decide (u.cur.intrap = s.cur.intrap) && decide (u.bad = [])
       | none => false) = true ∧ (fullPool s).pushRec 0 r = none ∧ standsAt (fullPool s) 2 = true)) ∧
    (let s := joining 1 (leBytes 4 1)
     (match s.pushRec 0 { root with pri := 0 } with
      | some u => decide (u.me.cont = s.me.cont) && decide (u.cur.intrap = s.cur.intrap) && decide (u.bad = [])
      | none => false) = true) := by decide +kernel

/-- A trace's place in HBM4E and in a tile. -/
theorem witness_PerformanceMark_places : one.place (0x5000 + 32 * (3 % 2 ^ 8)) = .hbm 5 96 ∧ one.place (tileBase 0 + 0x1000) = .tile 0 0x1000 ∧
    (one.tile 0).offBad 0x1000 32 = false ∧ one.mem.wf = true := by decide +kernel

/-- An address that translates and one that does not; a line of another package's memory. -/
theorem witness_CacheInstructions_lines : ((okd (one.translate one.who one.space 0x4000 .rd true)).map (fun r => r.1.pa)) = some 0x4000 ∧
    (trapped (one.translate one.who one.space 0x40000000 .rd true)).isSome = true ∧ one.lineKey 0x4000 ≠ one.lineKey 0x10000004000 := by decide +kernel

/-- The words of a packet, of a checksum store and of a record; a word struck before; an error's ring on and off. -/
theorem witness_StorageErrors_words :
    (let s := sent id
     (s.pkt? 7).map (fun p => (p.rid, p.data.length)) = some (7, 0) ∧ 8 * (7 : BitVec 6).toNat < 64 ∧ 64 ≤ 8 * (8 : BitVec 6).toNat) ∧
    (383 : BitVec 9).toNat < 384 ∧ 384 ≤ (384 : BitVec 9).toNat ∧ loadedLaunch.onePool ∧ one.ring.en = false ∧
    ({ one with bad := [{ mark := .pred, pa := 2, len := 0, corr := true, inj := false }] } : State).parityOf 0 (.pand 1 2 3) ≠ [] ∧
    (∀ c ∈ [true, false], let w : BadWord := { mark := .home, pa := 2 ^ 49 + 0x40, len := 64, corr := c, inj := false }
      let s := { one with bad := [w], scrubs := [(4 * 4096, 24)] }
      (s.scrub 4 0).toNat % 2 ^ 32 ≠ 0 ∧ s.bad = [w] ∧ s.ring.en = false) :=
  ⟨by decide +kernel, by decide, by decide, loaded_onePool, by decide +kernel⟩

/-- An entry's place in the fixed region and in a segment. -/
theorem witness_EngineIssue_places : ((one.tile 0).xq.tail).getLsbD 31 = false ∧ one.bad = [] ∧
    (let s := ts (fun t => { t with xq := { t.xq with tail := 0x80000010, segs := [5] } }) []
     standsAt s 2 = true ∧ ((s.tile 0).xq.tail).getLsbD 31 = true) := by decide +kernel

/-- An object deleted while the operation was on its way. -/
theorem witness_PacketsServed_gone :
    (let s := { sent (fun p => { p with typ := .qpop, addr := 0x40000, objGone := true }) with objs := [(0x40000, { cap := 1, vals := [3] })] }
     served s = true ∧ (s.pkt? 7).map (fun p => p.objGone) = some true ∧ AMap.find? s.objs (0x40000 % 2 ^ 26) ≠ none) := by decide +kernel

/-- A HNAK whose sender's domain stands, and one whose domain has ended; a put whose last acknowledgement has come, and one with an entry that
goes on making it. -/
theorem witness_PacketAnswers_ended :
    (let p := { Pkt.make .hnak 7 (.tile 0) (tileBase 1) 0 with code := 8, launch := some 0, region := 0 }
     let s := { ls (fun l => { l with regions := [{ loadedRegion with ended := true }] }) one with net := [p] }
     s.pkt? 7 = some p ∧ s.senderEnded p = true ∧ ({ one with net := [p] } : State).senderEnded p = false) ∧
    (let p := { Pkt.make .wack 7 (.tile 0) (tileBase 1) 0 with tcc := false, counts := true, budget := 3 }
     (∃ x ∈ [{ p with rid := 8, typ := .put }], x.counts = true ∧ x.src = .tile 0 ∧ x.path = p.path ∧ x.budget = p.budget ∧ x.typ ≠ .flag) ∧
     ∀ en ∈ (one.tile 0).sq.ents, en.st = .begun → en.made = true) := by decide +kernel

/-- A plan read while PAUSE stands, from the start and from the cursor; no chunk begun; a write of no mapped place. -/
theorem witness_Resharding_pauses :
    (∀ b ∈ [false, true], (match (sharding (fun r => { r with st := 1, loading := true, pausing := true, resume := b })).rsPlan 0 with
      | .ok (.ok cs) s1 => decide (cs = [(0x600, 0x700, 4)]) && (s1.rs 0).pausing && decide ((s1.rs 0).resume = b) &&
          (match s1.rsRead 0 (s1.rs 0).cur.toNat 16 with
           | .ok bs s2 => (s2.rs 0).pausing && decide (ofBytes (bs.take 8) < cs.length)
           | _ => false) &&
          (match s1.rsWrite 0 (s1.rs 0).cur.toNat (List.replicate 16 0) with
           | .ok _ _ => true
           | _ => false)
      | _ => false) = true) ∧
    (let s := sharding (fun r => { r with st := 1 })
     (s.rs 0).far = [] ∧ (s.rs 0).loading = false ∧ (okd (s.rsWrite 0 0x400 (leBytes 16 0))).isSome = true ∧
     (trapped (s.rsWrite 0 0xC000000000 [1])).isSome = true ∧ (s.rs 0).chunks[(s.rs 0).done]? = none) := by decide +kernel

/-- A last slice that fails; a message for a full buffer; an object in use by a packet; an answer's reserved code; a tile of a saved launch. -/
theorem witness_MailboxAndObjects_more :
    (let s := ls (fun l => { l with st := .saved, slices := [(2, 0)] }) one
     let due := fun (e : Nat × Launch) => e.2.slices.any (fun x => decide (x.1 = 2) && decide (x.2 ≤ s.bedt))
     (List.find? due s.launches).map (fun e => (e.1, e.2.slices.filter (fun x => decide (x.1 ≠ 2)))) = some (0, [])) ∧
    ({ one.mbox with h2df := true, h2dWait := [7] } : Mbox).h2df = true ∧
    (let p := Pkt.make .qpush 7 (.tile 0) 0x40000 0
     (p.typ = .qpush ∨ p.typ = .qpop) ∧ p.addr % 2 ^ 26 = 0x40000 ∧ p.dpkg = 0) ∧
    (5 : Nat) % 16 ≠ 0 ∧ Nat.min (5 % 16) 3 = 3 ∧ ((List.range 3).filter (tbit 3)).length < 3 ∧
    (asked 4 0 [] 0x10 one).mbox.duty.getLsbD 4 = true ∧ (∀ x ∈ (asked 4 0 [] 0x10 one).launches, ∀ y ∈ x.2.saved, y.1 ≠ 0) ∧
    ((∀ x ∈ one.launches, ∀ y ∈ x.2.saved, y.1 ≠ 3) ∧ (one.tile 3).bound.isNone = true) ∧ (8 : Nat) ≤ 16 ∧ 16 < (17 : Nat) := by decide +kernel

/-- A BAR0 access of 4 bytes, misaligned, and beyond the layout; a Tailstock's registers; the MSI-X table's bounds; readable, writable and other
registers by address. -/
theorem witness_HostRegisters_layout : one.fw.boot = 1 ∧ (4 : BitVec 7) ≠ 8 ∧ (0x1404 : Nat) % 8 ≠ 0 ∧ 2 ^ 22 ≤ (0x400000 : Nat) ∧
    (0x200000 : Nat) + 1 * 0x100000 + 8 * 5 < 2 ^ 22 ∧ (0x1F0418 : Nat) < 0x1F0420 ∧ (0x1F0418 : Nat) % 8 = 0 := by decide +kernel

theorem witness_HostRegisters_access :
    ((sysRegOf 0x1400).map (fun r => decide (r.host ≠ .none))) = some true ∧ ((sysRegOf 0x1100).map (fun r => decide (r.host = .rw))) = some true ∧
    ((sysRegOf 0x1400).map (fun r => decide (r.host = .ro))) = some true ∧ ({ one with fw := { one.fw with boot := 2 } } : State).fw.boot = 2 ∧
    ¬ (0x4000 ≤ (0x1400 : Nat) ∧ (0x1400 : Nat) ≤ 0x4200) := by decide +kernel

/-- VERIFY that has ended well, with every core at a boundary and with one in a handler; a request of a core on its way; the heartbeat made
and not, before and at the deadline; the request that waits. -/
theorem witness_FirmwareAndBoot_handover :
    (let i := fwImageOf (headerOver imageMagic (sha512 [])) []
     let s := { one with fw := { one.fw with st := 2, verified := true, slot0 := some i } }
     s.fw.ctl.getLsbD 1 = false ∧ s.fw.slot0 = some i ∧ (∀ p ∈ s.net, ∀ n ∈ [0, 1, 2, 3], p.src ≠ .core n) ∧
     (∀ x ∈ s.cores.toList, x.stopped = false → x.intrap = false ∧ x.pfx = none ∧ x.obj = none ∧ x.far = [] ∧ x.ffar = []) ∧
     (∃ x ∈ ({ s with cores := s.cores.set 0 { Tcc.reset with stopped := false, intrap := true } } : State).cores.toList, x.stopped = false ∧ x.intrap = true) ∧
     (∃ p ∈ ({ s with net := [Pkt.make .wr 7 (.core 2) 0 0] } : State).net, ∃ n, p.src = .core n) ∧
     (let h := { s with fw := { s.fw with st := 3, beat := false, deadline := 5 }, bedt := 5 }
      h.fw.st = 3 ∧ h.fw.deadline ≤ h.bedt ∧ (if h.fw.act then h.fw.slot1 else h.fw.slot0) = some i ∧
      ({ h with fw := { h.fw with slot0 := none } } : State).fw.slot0 = none ∧ ({ h.fw with beat := true } : Fw).beat = true)) ∧
    one.reading = none ∧ (∀ r ∈ one.mbox.reqs, r.fn ≠ 1) ∧ ({ one with reading := some 3 } : State).reading ≠ none :=
  ⟨⟨by decide +kernel, rfl, by decide +kernel, by decide +kernel, by decide +kernel, ⟨_, List.mem_singleton.mpr rfl, 2, rfl⟩, by decide +kernel⟩, by decide +kernel⟩

/-- Stack 0 by its stack-linear addresses (R315): the place of each is its own offset. -/
theorem place_linear (s : State) (x : Nat) (h : x < 2 ^ 34) (a : s.sockOut 1 = false) (b : s.sockOut 17 = false) (c : s.metaBytes 0 = 0) :
    s.place (2 ^ 49 + x) = .hbm 0 x := by
  have e0 : (2 ^ 49 + x) / 2 ^ 51 % 2 = 0 := by omega
  have e1 : bitsN (2 ^ 49 + x) 50 49 = 1 := by simp only [bitsN]; omega
  have e2 : bitsN (2 ^ 49 + x) 48 40 = 0 := by simp only [bitsN]; omega
  have e3 : bitsN (2 ^ 49 + x) 35 0 = x := by simp only [bitsN]; omega
  have e4 : bitsN (2 ^ 49 + x) 39 36 = 0 := by simp only [bitsN]; omega
  have e5 : ¬ (stackBytes - 0 ≤ x) := by simp only [stackBytes]; omega
  simp only [State.place, State.home, State.mapped, e0, e1, e2, e3, e4, c, stackOf, if_true, if_neg e5, a, b, Bool.or_self,
    show (1 : Nat) ≠ 0 by decide, if_false, ne_eq, not_true_eq_false, Bool.false_eq_true, show (0 : Nat) + 1 = 1 by rfl, show (0 : Nat) + 17 = 17 by rfl]

/-- Counting into stack 0 from 0x1000 on, a header still to be written and a sweep due. -/
def counting (headed : Nat) : State :=
  { one with trace := { one.trace with cntOn := true, cntPa := 2 ^ 49 + 0x1000, period := 100, headed := headed }, bedt := 200000 }

theorem witness_Debug_counts :
    let s := counting 5
    let key := fun (o : Nat) => (s.place (s.trace.cntPa + o)).key
    s.mem.wf = true ∧ (∀ o, o < 0x90000 → ∃ st off, s.place (s.trace.cntPa + o) = .hbm st off) ∧ (∀ j, j < 16 → key j = key 0 + j) ∧
    (∀ o j, o < 0x90000 → o % 8 = 0 → j < 8 → key (o + j) = key o + j) ∧ (∀ o p, o < 0x90000 → p < 0x90000 → key o = key p → o = p) := by
  have p : ∀ o, o < 0x100000 → (counting 5).place ((counting 5).trace.cntPa + o) = .hbm 0 (0x1000 + o) := fun o h => by
    show (counting 5).place (2 ^ 49 + 0x1000 + o) = _
    rw [Nat.add_assoc]
    exact place_linear _ _ (by omega) (by decide +kernel) (by decide +kernel) (by decide +kernel)
  refine ⟨by decide +kernel, fun o h => ⟨_, _, p o (by omega)⟩, fun j h => ?_, fun o j h _ hj => ?_, fun o q h hq e => ?_⟩
  · simp only [p j (by omega), p 0 (by omega), Place.key]; omega
  · simp only [p o (by omega), p (o + j) (by omega), Place.key]; omega
  · simp only [p o (by omega), p q (by omega), Place.key] at e; omega

/-- A sweep that is due, one that is not, a header that is due, and none; counters whose totals are distinct. -/
theorem witness_Debug_sweeps :
    (counting 5).sweepDue 1 = true ∧ (counting 5).sweepDue 0 = true ∧ (counting 5).hsPosted = false ∧ (((counting 5).counters 0).map (fun c => c.1)).Nodup ∧
    (((counting 5).counters 1).map (fun c => c.1)).Nodup ∧ AMap.getD (counting 5).trace.swAt 1 0 = 0 ∧ one.sweepDue 1 = false ∧ one.headDue = false ∧
    (let s := counting 0
     let z := { s with trace := { s.trace with sweeps := (List.range 17).map (fun u => (u, 1)) } }
     z.headDue = true ∧ z.sweepDue 1 = false) := by decide +kernel

/-- An answer of ARM: entries with V and without, with CLR and without; a posted write of the Headstock; an area of another package. -/
theorem witness_Debug_arms :
    (let r := { ask 1 0 with codes := [0x8005, 0] ++ List.replicate 6 0, addrs := [0x8000000000000001, 0, 0, 0], watch := 0x8000010100000001 }
     r.malformed = false ∧ r.badArms = false ∧ r.codes[0]? = some 0x8005 ∧ (0x8005 : BitVec 16).getLsbD 15 = true ∧ (0 : BitVec 16).getLsbD 15 = false ∧
     r.addrs[0]? = some 0x8000000000000001 ∧ r.watch.getLsbD 63 = true ∧ r.arg0.toNat ≤ 1) ∧
    one.hsPosted = false ∧ ({ one with net := [Pkt.make .wr 7 .headstock (2 ^ 40) 0] } : State).hsPosted = true ∧
    (2 ^ 40 % 4096 = 0 ∧ one.place (2 ^ 40) = .far 1) ∧
    (let s := ts (fun t => { t with dbg := { t.dbg with codes := [none, some 5] } }) []
     some (5 : BitVec 12) ∈ s.me.dbg.codes ∧ some (6 : BitVec 12) ∉ s.me.dbg.codes) := by decide +kernel

/-- The bed cycle after a heartbeat, and one that is not. -/
theorem witness_TimeAndGovernor_beat : (let s := { one with fw := { one.fw with st := 3, beat := true } }
    s.fw.st = 3 ∧ s.fw.beat = true) ∧ one.fw.st ≠ 3 := by decide +kernel

/-- A packet that is read again after its answer. -/
theorem witness_LaunchQueues_again : (let s := { mappedFar (withQueue 0x5000 (packetBytes [(16, 8, 0x40000000)])) with reading := some 3 }
    s.nextQueue = some 3 ∧ meets s = 201) := by decide +kernel

/-- A task's record still to be written, whose place is mapped, absent, in another package; written; a launch with a held request; a task of a
remote operator; several words of a record struck. -/
theorem witness_Launches_tasks :
    (∀ x ∈ [(0x5000, 0), (0x80000000, 1), (0x40000000, 2)],
      let d : OpDesc := { opDescOf [] with k := 1, mp := 1, n := 1, stva := x.1, ststr := 256 }
      let l := { loadedLaunch with st := .wait, tiles := [], task := some (0, 0), op := 0 }
      let s := mappedFar { one with launches := [(0, loadedLaunch), (5, l)], oprs := [(0, { Opr.free with st := 1, desc := some d, launch := 0 })] }
      l.recorded = false ∧ l.opDesc = none ∧ (s.opr 0).desc = some d ∧
      (match s.hsWrite (viaLaunch 0 true) (d.stva.toNat + 0 * d.ststr) (taskRecord d 0 0 (s.opr 0).outer) with
        | .ok _ z => decide (x.2 = 0) && (AMap.find? z.launches 5).isSome || decide (x.2 = 2)
        | .trap _ _ => decide (x.2 = 1)
        | .wait _ => decide (x.2 = 2)) = true) ∧
    (({ one.mbox with reqHeld := [(6, 0, [])] } : Mbox).reqHeld.any (fun x => decide (x.1 = 6) && decide (x.2.1 = 0)) = true) ∧
    loadedLaunch.remote = none ∧ [(0, true), (1, false)].all (fun (e : Nat × Bool) => e.2) = false := by decide +kernel

/-! #### What the engines compute -/

/-- The hypotheses on a command alone at the head of XQ, as a test. -/
def aloneIn (s : State) (i : Instr) : Bool :=
  let t := s.tile 0
  headOf s .x i && decide (t.seqw = 0) && decide (t.seedNext = []) && decide (t.xret.length < 16) && decide (s.bad = []) && decide (s.armed = []) &&
    !s.ring.en && s.mem.wf && (match t.xq.ents with
      | [en] => !en.made && !en.cmd.getLsbD 34 && !en.cmd.getLsbD 35 && decide (en.park = none) && decide (en.off = 0)
      | _ => false)

/-- The vector registers 2 and 3 set. -/
def vec (i : Instr) (r0 : Word) (a b : BitVec 2048) : State :=
  (begun .x i (fun en => { en with r0 := r0 })).updTile 0 (fun t => { t with vxe := { t.vxe with v := (t.vxe.v.set 2 a).set 3 b } })

/-- What the completion of the command at the head of XQ leaves. -/
def ran (s : State) : State := after (execEngineCommandCompletion 0 .x 1 s)

/-- The fields of a vector instruction from registers 2 and 3 into 1. -/
def ev (et : BitVec 7) (ext : BitVec 20) : Eng := { e0 with ga := 1, gb := 2, gc := 3, f7 := et * 16, ext := ext }

theorem witness_VectorResults_all : (∀ i ∈ ([.vpopc (ev 0 0), .vclmulh (ev 2 0), .vperm (ev 4 0), .vslide (ev 1 0x1FF0), .vsel (ev 0 0), .vcmplt (ev 0 0),
      .vmask (ev 0 0x60), .vredmin (ev 1 0x10), .vret (ev 0 0x30)] : List Instr), aloneIn (vec i 0 5 6) i = true) ∧ (ev 4 0).et = 4 ∧
    ((vec (.vret (ev 0 0)) 0 5 6).updTile 0 (fun t => { t with xret := List.replicate 16 0 })).mem.wf = true ∧
    ((ev 0 0x60).ext.extractLsb' 4 3).toNat = 6 ∧ (ev 1 0x10).xr = false := by decide +kernel

/-- Lane by lane: sums of set bits, a permutation, a comparison into m1, the least unsigned element, an element into XRET. -/
theorem test_vector_lanes :
    ((ran (vec (.vpopc (ev 0 0)) 0 0xFF00000003 0)).tile 0).vxe.reg 1 % 2 ^ 64 = 0x0000000800000002 ∧
    ((ran (vec (.vperm (ev 0 0)) 0 0x2200000011 0x1)).tile 0).vxe.reg 1 % 2 ^ 64 = 0x0000001100000022 ∧
    (((ran (vec (.vcmplt (ev 0 0)) 0 0x5FFFFFFFF 0x500000001)).tile 0).vxe.mask 1) = 1 ∧
    ((ran (vec (.vredmax (ev 0 0x10)) 0 0x5FFFFFFFF 0)).tile 0).vxe.reg 1 = 0xFFFFFFFF ∧
    ((ran (vec (.vret (ev 0 0x10)) 0 0x7700000011 0)).tile 0).xret = [0x77] := by decide +kernel

/-- 1.5 + 2.25 = 3.75, 1.5 × 2.25 = 3.375 and the greater of them, in fp32 (R58); the counts of the flags. -/
theorem test_vector_floats :
    ((ran (vec (.vfadd (ev 3 0)) 0 0x3FC00000 0x40100000)).tile 0).vxe.reg 1 % 2 ^ 32 = 0x40700000 ∧
    ((ran (vec (.vfmul (ev 3 0)) 0 0x3FC00000 0x40100000)).tile 0).vxe.reg 1 % 2 ^ 32 = 0x40580000 ∧
    ((ran (vec (.vfmax (ev 3 0)) 0 0x3FC00000 0x40100000)).tile 0).vxe.reg 1 % 2 ^ 32 = 0x40100000 ∧
    ((ran (vec (.vfadd (ev 3 0)) 0 0x3FC00000 0x40100000)).tile 0).fstat = 0 := by decide +kernel

/-- A word loaded into every lane's place and a store of lane 0. -/
theorem test_vector_memory :
    (let s := vec (.vld (ev 0 0)) 0x100 0 0
     ((ran { s with mem := s.mem.setN (tileBase 0 + 0x104) (leBytes 4 0xABCD) }).tile 0).vxe.reg 1 % 2 ^ 64 = 0x0000ABCD00000000) ∧
    (let s := (vec (.vst (ev 0 0)) 0x100 0 0).updTile 0 (fun t => { t with vxe := { t.vxe with v := t.vxe.v.set 1 0x12345678 } })
     (ran s).mem.getN (tileBase 0 + 0x100) 4 = [0x78, 0x56, 0x34, 0x12]) := by decide +kernel

theorem witness_VectorFloatsAndMemory : (∀ i ∈ ([.vfma (ev 4 0), .vfredadd (ev 3 0), .vfcmplt (ev 3 0), .vcvt (ev 0 0x1B0), .vqnt (ev 3 0), .vdq (ev 3 0), .vrange (ev 4 0),
      .vmse (ev 3 0), .vld (ev 0 0), .vgat (ev 0 0), .vst (ev 0 0), .vsct (ev 0 0x40), .vdefer (ev 0 0x30), .vdrainq (ev 0 0)] : List Instr),
      aloneIn (vec i 0x100 0x3F800000 0x3F800000) i = true) ∧
    (let t := (vec (.vdefer (ev 0 0)) 0 0 0).tile 0
     t.dqon = false ∧ ({ t with tcfg := 0x12 } : Tile).dqon = true ∧ t.offBad 0x100 4 = false ∧ t.rowOpen 0x100 4 = false ∧ inZ 0x100 8 = false ∧
     t.inQueues 0x100 8 = false ∧ inZ 0x600000 4 = true ∧ t.offBad 0x880000 8 = false ∧ atomBase ≤ 0x880000 ∧ 0x880008 ≤ atomEnd) := by decide +kernel

/-- An M × N × K of one block of 48 elements, both slots holding ones at scale 127 (2^0); a product's row, its predictions taken. -/
def product (i : Instr) (cap : List Word) (beat : Nat) : State :=
  let sl : Slot := { full := true, cnt := 1, kb := 1, fmt := 0, spn := 0, blocks := [{ e := 127, m := List.replicate 48 1, kept := List.replicate 48 true }] }
  (begun .x i (fun en => { en with cap := cap, beat := beat })).updTile 0 (fun t => { t with mxe := { t.mxe with a0 := sl, b0 := sl } })

/-- 48 products of 1 × 1, and the drain of such a word into 16 bytes. -/
theorem test_matrix :
    (let s := ran (product (.mma e0) [0, 1] 0)
     s.mem.getN (tileBase 0 + 0x600000) 10 = leBytes 10 48 ∧ (s.tile 0).mxe.z[0].wm = 1) ∧
    (let s := begun .x (.mdrainx e0) (fun en => { en with r0 := 0x200 })
     (ran { s with mem := s.mem.setN (tileBase 0 + 0x600000) (leBytes 10 (2 ^ 80 - 2)) }).mem.getN (tileBase 0 + 0x200) 16 =
       0xFE :: List.replicate 15 0xFF) := by decide +kernel

/-- A load of one block of 48 4-bit mantissas at 0x100 (24 bytes) with its scale group at 0x200, whose CHK and scale are given. -/
def loading (chk scale : Byte) : State :=
  let s := begun .x (.mlda e0) (fun en => { en with r0 := 0x100, r1 := 0x200 })
  { s with mem := (s.mem.setN (tileBase 0 + 0x100) (0x21 :: List.replicate 23 0)).setN (tileBase 0 + 0x200) [chk, scale] }

/-- The slot's first mantissas are 1 and 2 (the format's fields from bit 0 on), the scale 130; a bad CHK is cause 26, scale 0xFF cause 27. -/
theorem test_mlda :
    (let s := ran (loading 0 130)
     let b := (s.tile 0).mxe.a0.block 0
     b.e = 130 ∧ b.m.take 3 = [1, 2, 0] ∧ (s.tile 0).mxe.a0.full = true) ∧
    ((ran (loading 1 130)).tile 0).faults.map (fun f => f.cause) = [26] ∧ ((ran (loading 0 255)).tile 0).faults.map (fun f => f.cause) = [27] := by
  decide +kernel

/-- Loads of each kind; a product before its predictions, at a row and at its end, accumulating and not; each other command; tickets. -/
theorem witness_MatrixResults :
    aloneIn (loading 0 130) (.mlda e0) = true ∧ (loading 0 130).mem.getN (tileBase 0 + 0x200) 1 = [0] ∧ 0x100 + 24 ≤ ((loading 0 130).tile 0).spBytes ∧
    (∀ x ∈ ([(.mma e0, []), (.mmas { e0 with f7 := 1 }, [0]), (.mmaq e0, [0, 1]), (.mmap e0, [0, 1])] : List (Instr × List Word)),
      aloneIn (product x.1 x.2 0) x.1 = true ∧ ((product x.1 x.2 0).tile 0).mxe.a0.cnt = 1) ∧
    aloneIn (product (.mma e0) [0, 1] 0) (.mma e0) = true ∧ (0 : Nat) = 0 * 1 ∧ 1 * 1 ≤ (1 : Nat) ∧
    (∀ i ∈ ([.mchk e0, .mdrain e0, .mdrain { e0 with ext := 8 }, .mdrainx { e0 with f7 := 4 }, .mstat e0, .mstat { e0 with f7 := 2 }, .smvw e0] : List Instr),
      aloneIn (begun .x i id) i = true) ∧ (fpVal 24 0x3F800000).isFin = true ∧ (fpVal 24 0x7F800000).isFin = false ∧
    (let k := (one.tile 0).mxe
     (k.tk 0).st = 0 ∧ (∀ j : Fin 4, (k.tickets[j]).st < 4) ∧ k.z[0].wm ≤ 128) ∧
    (∀ e ∈ ([none, some (7, 1, 0)] : List (Option (Nat × Nat × Word))), let tk := { Ticket.idle with st := 2, err := e }
      let s := (begun .x (.smvw e0) id).updTile 0 (fun t => { t with mxe := { t.mxe with tickets := t.mxe.tickets.set 0 tk } })
      aloneIn s (.smvw e0) = true ∧ ((s.tile 0).mxe.tk 0).st = 2 ∧ (s.tile 0).inQueues tk.yoff (16 * tk.n) = false ∧ tk.res.length = tk.n) := by decide +kernel

/-- z0 all zero, and sums predicted for column 0 and row 0. -/
def summing (mode : Nat) (cr cc : Int) : State :=
  let z : ZTile := { ZTile.reset with cvalid := true, cr := cr :: List.replicate 127 0, cc := cc :: List.replicate 127 0 }
  (begun .x (.mchk { e0 with f7 := 1 }) id).updTile 0 (fun t => { t with mxe := { t.mxe with csMode := mode, z := t.mxe.z.set 0 z } })

theorem get_unlisted (m : Memory) (k : Nat) (h : ∀ c ∈ m, c.1 ≠ k) : m.get k = 0 := by
  induction m with
  | nil => rfl
  | cons c r ih =>
    have h0 := h c (List.mem_cons_self ..)
    simp only [Memory.get]
    split
    · exact absurd ‹_› (by simpa using h0)
    · exact ih (fun d hd => h d (List.mem_cons_of_mem _ hd))

/-- Every word of z0 is 0, so the sums differ by the predictions alone: in column 0, in row 0, in both by the same and not, in neither, in two. -/
theorem witness_MatrixResults_sums :
    (∀ (m : Nat) (a b : Int) (k : Nat), 2 ^ 51 ≤ k → (summing m a b).mem.get k = 0) ∧ 2 ^ 51 ≤ tileBase 0 + 0x600000 ∧
    (∀ x ∈ ([(2, 0, 0), (2, 3, 0), (2, 0, 3), (2, 3, 3), (1, 3, 3), (2, 3, 4)] : List (Nat × Int × Int)), aloneIn (summing x.1 x.2.1 x.2.2) (.mchk { e0 with f7 := 1 }) = true ∧
      ((summing x.1 x.2.1 x.2.2).tile 0).mxe.csMode ≠ 0 ∧ (((summing x.1 x.2.1 x.2.2).tile 0).mxe.zt 0).cvalid = true ∧
      ∀ j, j < 128 → (((summing x.1 x.2.1 x.2.2).tile 0).mxe.zt 0).cr.getD j 0 = if j = 0 then x.2.1 else 0) := by
  refine ⟨fun m a b k h => get_unlisted _ _ ?_, by decide, by decide +kernel⟩
  have e : (summing m a b).mem = one.mem := rfl
  have d : ∀ c ∈ one.mem, c.1 < 2 ^ 51 := by decide +kernel
  intro c hc
  exact Nat.ne_of_lt (Nat.lt_of_lt_of_le (d c (e ▸ hc)) h)

/-- The next move of the copy at the head of a queue, and the entry it leaves. -/
def moved (s : State) (q : Q) (i : Instr) : State :=
  match ((s.tile 0).queue q).ents with
  | [en] => after (s.copyMove 0 q en i)
  | _ => State.reset

def headEntry (s : State) (q : Q) : Option QEntry := ((s.tile 0).queue q).ents.head?

/-- A copy of one row of 64 bytes between the scratchpad and an address. -/
def copying (q : Q) (i : Instr) (r0 r1 : Word) : State := begun q i (fun en => { en with r0 := r0, r1 := r1, r2 := 0x1000040 })

/-- A load of the line at 0x4000, whose first word is 0x08000000; a store of scratchpad bytes there; a fill; each ends its row. -/
theorem test_copies :
    (let s := moved (copying .l (.cld e0) 0x100 0x4000) .l (.cld e0)
     s.mem.getN (tileBase 0 + 0x100) 4 = leBytes 4 0x08000000 ∧ (headEntry s .l).map (fun en => (en.row, en.off)) = some (1, 0)) ∧
    (let c := copying .s (.cst e0) 0x4000 0x100
     let s := moved { c with mem := c.mem.setN (tileBase 0 + 0x100) [7, 8, 9] } .s (.cst e0)
     s.mem.getN (s.place 0x4000).key 4 = [7, 8, 9, 0] ∧ (headEntry s .s).map (fun en => en.row) = some 1) ∧
    (let s := moved (copying .s (.cfill { e0 with f7 := 8 }) 0x200 0x1122) .s (.cfill { e0 with f7 := 8 })
     s.mem.getN (tileBase 0 + 0x200) 10 = [0x22, 0x11, 0, 0, 0, 0, 0, 0, 0x22, 0x11]) := by decide +kernel

/-- The hypotheses on a copy as a test. -/
def copyOk (s : State) (q : Q) : Bool :=
  match ((s.tile 0).queue q).ents with
  | [en] => decide (((s.tile 0).queue q).entry en.isn = some en) && !en.made && !en.asc && s.net.all (fun p => decide (p.src ≠ .tile 0)) &&
      decide (s.bad = []) && decide (s.armed = []) && s.mem.wf
  | _ => false

/-- Row copies of each kind; a page of HBM4E, of a tile's window and of another package; an add whose words overflow and one whose do not. -/
theorem witness_CopyBytes :
    (∀ x ∈ ([(.l, .cld e0), (.l, .cld { e0 with f7 := 1 }), (.l, .cgat e0), (.l, .fget e0), (.s, .cst e0), (.s, .cst { e0 with f7 := 1 }), (.s, .csct e0),
        (.s, .cfill e0), (.s, .fput e0), (.s, .fput { e0 with f7 := 9 })] : List (Q × Instr)),
      copyOk (copying x.1 x.2 0x100 0x4000) x.1 = true) ∧
    (match one.translate (.tile 0) (one.qSpace 0) 0x4000 .rd true with
      | .ok x s => decide (s = one) && decide (x.kind ≠ .so)
      | _ => false) = false ∧
    (∀ v ∈ [0x4000, 0x40000000], let s := after (Host.Outcome.next (match (mappedFar (copying .l (.cld e0) 0x100 0x4000)).translate (.tile 0) (one.qSpace 0) v .rd true with
        | .ok _ s => s
        | _ => one))
      (match s.translate (.tile 0) (s.qSpace 0) v .rd true with
       | .ok x u => decide (u = s) && decide (x.kind ≠ .so) && decide (s.place x.pa = if v = 0x4000 then .hbm 4 0 else .far 1)
       | _ => false) = true) ∧
    (match one.translate (.tile 0) (one.qSpace 0) 0x1FF000000880000 .wr true with
      | .ok x u => decide (u = one) && decide (one.place x.pa = .tile 0 0x880000) && decide (x.pa % 2 ^ 24 = 0x880000)
      | _ => false) = true ∧
    ¬ ((2 : Int) ^ 79 - 1 + 1 < 2 ^ 79) ∧ (one.tile 0).rowOpen 0x600000 10 = false ∧ inZ 0x600000 1 = true ∧ inZ 0x100 1 = false := by decide +kernel

/-- A CSTD of one word: three times the word at 0x300 over 2, put at 0x4000. -/
def dividing (w : Int) : State :=
  let d := fieldsOf 96 [(0, 4, 0x300), (32, 4, 3), (64, 8, 2), (72, 4, 1), (76, 1, 1)]
  let s := begun .s (.cstd e0) (fun en => { en with r0 := 0x4000, cap := d.map (fun b => b.zeroExtend 64) })
  { s with mem := s.mem.setN (tileBase 0 + 0x300) (leBytes 10 (BitVec.ofInt 80 w).toNat) }

/-- 3 · 10 / 2 = 15; 3 · 5 is odd (cause 31, sub-code 3). -/
theorem test_cstd :
    (headEntry (moved (dividing 10) .s (.cstd e0)) .s).map (fun en => (en.row, en.carry)) = some (1, leBytes 16 15) ∧
    ((moved (dividing 5) .s (.cstd e0)).tile 0).faults.map (fun f => (f.cause, f.sub)) = [(31, 3)] := by decide +kernel

/-- A CLDE of one block (FIN 0: 4 bits, FOUT 3: 12 bits) whose one panel has been read: mantissas 1 and -1, the rest 0, and scale 130. -/
def decoding (row : Nat) (chk : Byte) : State :=
  let d := fieldsOf 32 [(28, 2, 1), (30, 1, 3 * 8)]
  let cap : List Word := 0x101 :: d.map (fun b => b.zeroExtend 64)
  let cap := if row = 2 then cap ++ [9, 130] else cap
  let parts : List (Nat × List Byte) := [(16, chk :: 130 :: List.replicate 14 0), (24, 0xF1 :: List.replicate 23 0)]
  begun .l (.clde e0) (fun en => { en with r0 := 0x400, r2 := 0x500, row := row, cap := cap, parts := parts })

/-- The block is rewritten in 12 bits, the scales with their CHK; a bad CHK is cause 26, before anything is written. -/
theorem test_clde :
    (moved (decoding 1 0) .l (.clde e0)).mem.getN (tileBase 0 + 0x400) 4 = [0x01, 0xF0, 0xFF, 0] ∧
    (moved (decoding 2 0) .l (.clde e0)).mem.getN (tileBase 0 + 0x500) 2 = [0, 130] ∧
    ((moved (decoding 0 1) .l (.clde e0)).tile 0).faults.map (fun f => f.cause) = [26] := by decide +kernel

/-- Each state of a CLDE: a stream still to be read, its checks, its block, its scales; of a CSTD: its word, its bytes; an ATM to a tile and the
answer; FACKW's place; old values with a place and none. -/
theorem witness_CopyBytes_rest :
    (∀ n ∈ [0, 1, 2], copyOk (decoding n 0) .l = true ∧ (headEntry (decoding n 0) .l).map (fun en => en.cldeD.map (fun x => (x.next 0x101 en, x.nb))) = some (some (none, 1))) ∧
    (headEntry (decoding 0 0) .l).map (fun en => en.cldeD.map (fun x => x.next 0x101 { en with parts := [(0, []), (0, [])] })) = some (some (some 0)) ∧
    copyOk (dividing 10) .s = true ∧ (headEntry (dividing 10) .s).map (fun en => en.cstdD.isSome) = some true ∧
    (dividing 10).wholeParts 0 (waiting 1) 0x4000 16 = 16 ∧ (dividing 10).wholeParts 0 (waiting 1) 0x4000 0 = 0 ∧
    copyOk (begun .s (.cbat e0) (fun en => { en with r0 := 0x1FF000000880000, r1 := 0x100, r2 := 0x200 })) .s = true ∧
    copyOk (begun .s (.fackw { e0 with ga := 1 }) (fun en => { en with r0 := 0x100 })) .s = true ∧
    (let p := { Pkt.make .atmr 7 (.tile 0) (tileBase 0 + 0x880000) 0 with tcc := false, q := .s, isn := 1, data := leBytes 8 5, dst := 0x200 }
     let s := { begun .s (.cbat e0) id with net := [p] }
     (s.answer? 7 .atmr).map (fun x => x.dst) = some 0x200 ∧ (((s.tile 0).queue .s).entry 1).isSome = true ∧
     (s.tile 0).offBad 0x200 8 = false ∧ (s.tile 0).inQueues 0x200 8 = false ∧ inZ 0x200 8 = false ∧
     (after (execPktAtmrAnswer 7 s)).mem.getN (tileBase 0 + 0x200) 8 = leBytes 8 5) := by decide +kernel

end Sys2Proof.Tests
end

/-! SUPPORT. The step and the schedule: every meaning of `exec` answers a next state, whatever the state (`exec_goesOn`); so does
every move that names an agent that exists (`State.move_goesOn`); and a fresh round names only such agents (`State.round_legal`).
A step from a scheduled state therefore answers a scheduled state. -/

namespace Sys2Proof.Machine

/-! ### Shared operations

`fun_cases f` gives one goal for each branch of f; what is left to see is that each branch is a `.next`, or calls an operation that
goes on. -/

theorem Out.goesOn_next (t : State) : Out.goesOn (.next t) := ⟨t, rfl⟩

/-- Whatever its body gives, an instruction of the control core goes on. -/
theorem State.run_goesOn (s : State) (imx scp : Bool) (body : State → Res Flow) : (s.run imx scp body).goesOn :=
  s.run_next imx scp body

theorem State.simple_goesOn (s : State) (f : State → State) : (s.simple f).goesOn := State.run_goesOn ..

theorem State.alu2_goesOn (s : State) (d a b : Reg) (f : Word → Word → Word) : (s.alu2 d a b f).goesOn := State.simple_goesOn ..

theorem State.alu1_goesOn (s : State) (d a : Reg) (f : Word → Word) : (s.alu1 d a f).goesOn := State.simple_goesOn ..

theorem State.cmp2_goesOn (s : State) (pd : PReg) (a b : Reg) (f : Word → Word → Bool) : (s.cmp2 pd a b f).goesOn :=
  State.simple_goesOn ..

theorem State.runImm_goesOn (s : State) (own : Nat) (scp : Bool) (body : State → Res Flow) : (s.runImm own scp body).goesOn :=
  State.run_goesOn ..

theorem State.immS_goesOn (s : State) (d a : Reg) (imm : BitVec 16) (f : Word → Word → Word) : (s.immS d a imm f).goesOn :=
  State.runImm_goesOn ..

theorem State.immZ_goesOn (s : State) (d a : Reg) (imm : BitVec 16) (f : Word → Word → Word) : (s.immZ d a imm f).goesOn :=
  State.runImm_goesOn ..

theorem State.cmpI_goesOn (s : State) (pd : PReg) (a : Reg) (imm : BitVec 15) (f : Word → Word → Bool) :
    (s.cmpI pd a imm f).goesOn := State.runImm_goesOn ..

theorem State.loadTo_goesOn (s : State) (d a : Reg) (sz : BitVec 2) (off : BitVec 14) (acq : Bool) (ext : Nat → Word) :
    (s.loadTo d a sz off acq ext).goesOn := State.runImm_goesOn ..

theorem State.storeFrom_goesOn (s : State) (d a : Reg) (sz : BitVec 2) (off : BitVec 14) (rel : Bool) :
    (s.storeFrom d a sz off rel).goesOn := State.runImm_goesOn ..

theorem State.atom_goesOn (s : State) (aop : Nat) (d a b : Reg) (f : Word → Word → Word → Option Word) :
    (s.atom aop d a b f).goesOn := State.run_goesOn ..

theorem State.mtsRun_goesOn (s : State) (n : Nat) (g : Reg) (f : Word → State → Res Unit) : (s.mtsRun n g f).goesOn :=
  State.run_goesOn ..

theorem State.tileOnly_goesOn (s : State) (body : State → Res Flow) : (s.tileOnly body).goesOn := State.run_goesOn ..

theorem State.atMOnly_goesOn (s : State) (body : State → Res Flow) : (s.atMOnly body).goesOn := State.run_goesOn ..

theorem issue_goesOn (i : Instr) (e : Eng) (q : Q) (s : State) : (issue i e q s).goesOn := State.run_goesOn ..

theorem Out.map_goesOn {o : Out} (f : State → State) (h : o.goesOn) : (o.map f).goesOn := by
  obtain ⟨t, rfl⟩ := h
  exact Out.goesOn_next _

theorem Out.settled_goesOn {o : Out} (g : Nat) (h : o.goesOn) : (o.settled g).goesOn := by
  obtain ⟨t, rfl⟩ := h
  exact Out.goesOn_next _

theorem State.serve_goesOn (s : State) (rid : Nat) (typ : PktT) (f : Pkt → State) : (s.serve rid typ f).goesOn := by
  fun_cases State.serve <;> exact Out.goesOn_next _

theorem State.take_goesOn (s : State) (rid : Nat) (typ : PktT) (f : Pkt → State → State) : (s.take rid typ f).goesOn := by
  fun_cases State.take <;> exact Out.goesOn_next _

theorem State.answered_goesOn (s : State) (fn : Nat) (tag : BitVec 32) (f : HostReq → State → Res Unit) :
    (s.answered fn tag f).goesOn := by
  fun_cases State.answered <;> exact Out.goesOn_next _

theorem State.signed_goesOn (s : State) (nonce : BitVec 256) (body : List Byte) : (s.signed nonce body).goesOn := by
  fun_cases State.signed <;> exact Out.goesOn_next _

theorem State.prefixed_goesOn (s : State) (p : Pfx) : (s.prefixed p).goesOn := by
  fun_cases State.prefixed <;> exact Out.goesOn_next _

/-! ### Prefixes and breakpoints (chapters 3 and 15) -/

@[simp] theorem execScp_goesOn (scope : Scope) (s : State) : (execScp scope s).goesOn := by
  fun_cases execScp
  · exact Out.goesOn_next _
  · exact State.prefixed_goesOn _ _

@[simp] theorem execImx_goesOn (x : BitVec 48) (s : State) : (execImx x s).goesOn := by
  fun_cases execImx
  · exact Out.goesOn_next _
  · exact State.prefixed_goesOn _ _

@[simp] theorem execBkpt_goesOn (code : BitVec 12) (s : State) : (execBkpt code s).goesOn := by
  fun_cases execBkpt
  · exact Out.goesOn_next _
  · exact State.run_goesOn _ _ _ _

/-! ### Engines and queues (chapters 1, 6 and 8) -/

@[simp] theorem execCredPartnerArrival_goesOn (tile : Nat) (s : State) : (execCredPartnerArrival tile s).goesOn := by
  fun_cases execCredPartnerArrival <;> exact Out.goesOn_next _

@[simp] theorem execCopyFreeze_goesOn (tile : Nat) (q : Q) (isn : Word) (s : State) : (execCopyFreeze tile q isn s).goesOn := by
  fun_cases execCopyFreeze <;> exact Out.goesOn_next _

@[simp] theorem execEngineFaultTrap_goesOn (tile : Nat) (s : State) : (execEngineFaultTrap tile s).goesOn := by
  fun_cases execEngineFaultTrap <;> exact Out.goesOn_next _

@[simp] theorem execTokenDeadlock_goesOn (tile : Nat) (s : State) : (execTokenDeadlock tile s).goesOn := by
  fun_cases execTokenDeadlock <;> exact Out.goesOn_next _

@[simp] theorem execEngineCommandCompletion_goesOn (tile : Nat) (q : Q) (isn : Word) (s : State) :
    (execEngineCommandCompletion tile q isn s).goesOn := by
  fun_cases execEngineCommandCompletion <;> exact Out.goesOn_next _

@[simp] theorem execQueueGrowth_goesOn (tile : Nat) (s : State) : (execQueueGrowth tile s).goesOn := by
  fun_cases execQueueGrowth <;> exact Out.goesOn_next _

@[simp] theorem execTick_goesOn (s : State) : (execTick s).goesOn := by
  fun_cases execTick <;> exact Out.goesOn_next _

@[simp] theorem execCoreCycle_goesOn (die : Nat) (s : State) : (execCoreCycle die s).goesOn := by
  fun_cases execCoreCycle <;> exact Out.goesOn_next _

@[simp] theorem execRampSlot_goesOn (s : State) : (execRampSlot s).goesOn := by
  fun_cases execRampSlot <;> exact Out.goesOn_next _

/-! ### Launches and coded operators (chapters 10 and 11) -/

@[simp] theorem execLaunchPacketRead_goesOn (queue : BitVec 6) (s : State) : (execLaunchPacketRead queue s).goesOn := by
  fun_cases execLaunchPacketRead <;> exact Out.goesOn_next _

@[simp] theorem execLaunchClaim_goesOn (launch : Nat) (s : State) : (execLaunchClaim launch s).goesOn := by
  fun_cases execLaunchClaim <;> exact Out.goesOn_next _

@[simp] theorem execPoolAgeing_goesOn (launch region : Nat) (pri : BitVec 3) (s : State) :
    (execPoolAgeing launch region pri s).goesOn := by
  fun_cases execPoolAgeing <;> exact Out.goesOn_next _

@[simp] theorem execRtimeBudget_goesOn (launch region : Nat) (s : State) : (execRtimeBudget launch region s).goesOn := by
  fun_cases execRtimeBudget <;> exact Out.goesOn_next _

@[simp] theorem execHaltTreeFire_goesOn (launch : Nat) (s : State) : (execHaltTreeFire launch s).goesOn := by
  fun_cases execHaltTreeFire <;> exact Out.goesOn_next _

@[simp] theorem execLaunchDrainDone_goesOn (launch : Nat) (s : State) : (execLaunchDrainDone launch s).goesOn := by
  fun_cases execLaunchDrainDone <;> exact Out.goesOn_next _

@[simp] theorem execCodedTaskArrival_goesOn (opr task : BitVec 4) (s : State) : (execCodedTaskArrival opr task s).goesOn := by
  fun_cases execCodedTaskArrival <;> exact Out.goesOn_next _

@[simp] theorem execCodedTaskErasure_goesOn (opr task : BitVec 4) (s : State) : (execCodedTaskErasure opr task s).goesOn := by
  fun_cases execCodedTaskErasure <;> exact Out.goesOn_next _

@[simp] theorem execTestSliceEnd_goesOn (cluster : Nat) (pass : Bool) (s : State) :
    (execTestSliceEnd cluster pass s).goesOn := by
  fun_cases execTestSliceEnd <;> exact Out.goesOn_next _

/-! ### Packets, links and the re-sharding engines (chapter 12) -/

@[simp] theorem execPktReservedType_goesOn (rid : Nat) (s : State) : (execPktReservedType rid s).goesOn := by
  fun_cases execPktReservedType <;> exact Out.goesOn_next _

@[simp] theorem execRouterPairing_goesOn (router push pop : Nat) (s : State) :
    (execRouterPairing router push pop s).goesOn := by
  fun_cases execRouterPairing <;> exact Out.goesOn_next _

@[simp] theorem execDwellExpire_goesOn (rid : Nat) (s : State) : (execDwellExpire rid s).goesOn := by
  fun_cases execDwellExpire <;> exact Out.goesOn_next _

@[simp] theorem execPktAtmrAnswer_goesOn (rid : Nat) (s : State) : (execPktAtmrAnswer rid s).goesOn := by
  fun_cases execPktAtmrAnswer <;> exact Out.goesOn_next _

@[simp] theorem execPktHnakAnswer_goesOn (rid : Nat) (s : State) : (execPktHnakAnswer rid s).goesOn := by
  fun_cases execPktHnakAnswer <;> exact Out.goesOn_next _

@[simp] theorem execHnakResend_goesOn (rid : Nat) (s : State) : (execHnakResend rid s).goesOn := by
  fun_cases execHnakResend <;> exact Out.goesOn_next _

@[simp] theorem execRemoteTimeout_goesOn (rid : Nat) (s : State) : (execRemoteTimeout rid s).goesOn := by
  fun_cases execRemoteTimeout <;> exact Out.goesOn_next _

@[simp] theorem execBedLinkRetry_goesOn (router : Nat) (port : BitVec 3) (ok : Bool) (s : State) :
    (execBedLinkRetry router port ok s).goesOn := by
  fun_cases execBedLinkRetry <;> exact Out.goesOn_next _

@[simp] theorem execKwaupFlitReceive_goesOn (port : Nat) (flit : BitVec 1024) (s : State) :
    (execKwaupFlitReceive port flit s).goesOn := by
  fun_cases execKwaupFlitReceive <;> exact Out.goesOn_next _

@[simp] theorem execHbeatSend_goesOn (port : Nat) (s : State) : (execHbeatSend port s).goesOn := by
  fun_cases execHbeatSend <;> exact Out.goesOn_next _

@[simp] theorem execPeerDead_goesOn (port : Nat) (s : State) : (execPeerDead port s).goesOn := by
  fun_cases execPeerDead <;> exact Out.goesOn_next _

@[simp] theorem execRsChunkDone_goesOn (eng : BitVec 1) (s : State) : (execRsChunkDone eng s).goesOn := by
  fun_cases execRsChunkDone <;> exact Out.goesOn_next _

/-! ### Reliability, firmware, the host and the debugger (chapters 13 to 15) -/

@[simp] theorem execScrubRead_goesOn (site : ErrSite) (s : State) : (execScrubRead site s).goesOn := by
  fun_cases execScrubRead <;> exact Out.goesOn_next _

@[simp] theorem execStorageBitError_goesOn (site : ErrSite) (correctable : Bool) (s : State) :
    (execStorageBitError site correctable s).goesOn := by
  unfold execStorageBitError
  split <;> exact Out.goesOn_next _

@[simp] theorem execRetireAnswer_goesOn (tag : BitVec 32) (code : Byte) (payload : BitVec 1984) (s : State) :
    (execRetireAnswer tag code payload s).goesOn := by
  fun_cases execRetireAnswer <;> exact Out.goesOn_next _

@[simp] theorem execSysregWrite_goesOn (a : SysAccess) (v : Word) (s : State) : (execSysregWrite a v s).goesOn := by
  fun_cases execSysregWrite <;> exact Out.goesOn_next _

@[simp] theorem execBar2Access_goesOn (write : Bool) (off : Nat) (len : BitVec 7) (data : BitVec 512) (s : State) :
    (execBar2Access write off len data s).goesOn := by
  fun_cases execBar2Access <;> exact Out.goesOn_next _

@[simp] theorem execQuiesceEnd_goesOn (s : State) : (execQuiesceEnd s).goesOn := by
  fun_cases execQuiesceEnd <;> exact Out.goesOn_next _

@[simp] theorem execVerifyDone_goesOn (s : State) : (execVerifyDone s).goesOn := by
  fun_cases execVerifyDone <;> exact Out.goesOn_next _

@[simp] theorem execHeartbeatDeadline_goesOn (s : State) : (execHeartbeatDeadline s).goesOn := by
  fun_cases execHeartbeatDeadline <;> exact Out.goesOn_next _

@[simp] theorem execDbgTimedStop_goesOn (tile : Nat) (s : State) : (execDbgTimedStop tile s).goesOn := by
  fun_cases execDbgTimedStop <;> exact Out.goesOn_next _

@[simp] theorem execAddressBreakpointStop_goesOn (tile : Nat) (s : State) : (execAddressBreakpointStop tile s).goesOn := by
  fun_cases execAddressBreakpointStop <;> exact Out.goesOn_next _

@[simp] theorem execEntryWatchStop_goesOn (tile : Nat) (q : Q) (s : State) : (execEntryWatchStop tile q s).goesOn := by
  fun_cases execEntryWatchStop <;> exact Out.goesOn_next _

@[simp] theorem execSpdmGetMeasurements_goesOn (index : Byte) (nonce : BitVec 256) (s : State) :
    (execSpdmGetMeasurements index nonce s).goesOn := by
  fun_cases execSpdmGetMeasurements
  case case4 => exact Out.goesOn_next _
  all_goals exact State.signed_goesOn _ _ _
/-- Every instruction, and every operation and event of the hardware, answers a next state, whatever the state. -/
theorem exec_goesOn (i : Instr) (s : State) : Out.goesOn (exec i s) := by
  unfold exec
  cases i with
  -- Instructions of the control core: each is a form of `State.run`, or is issued to a queue.
  | add | sub | mul | mulh | mulhu | div | divu | rem | remu | and | or | xor | shl | shr | sar | min | max | minu | maxu
  | lea => exact State.alu2_goesOn ..
  | clz | ctz | popc | bswap | sextB | sextH | sextW | zextB | zextH | zextW | shli | shri | sari | movw =>
    exact State.alu1_goesOn ..
  | addi | movi => exact State.immS_goesOn ..
  | andi | ori | xori => exact State.immZ_goesOn ..
  | cmpeq | cmpne | cmplt | cmpltu | cmpge | cmpgeu => exact State.cmp2_goesOn ..
  | cmpeqi | cmpnei | cmplti | cmpltui | cmpgei | cmpgeui => exact State.cmpI_goesOn ..
  | pand | por | pxor | pnot | sel | synci | l1wb | l1inv | pmark | nop => exact State.simple_goesOn ..
  | bp | br | bnp | call | ji | calli | ret | loop | loopi | mfs | fence | fencep | qpush | qpop | trap | wfe =>
    exact State.run_goesOn ..
  | mts | mtsTcfg | mtsQueueNumber | mtsQueueLink | mtsTokc | mtsZwm | mtsDqn | mtsSeqw | mtsSeed | mtsLoopRegister
  | mtsEbase | injArm => exact State.mtsRun_goesOn ..
  | ld | lds | lda => exact State.loadTo_goesOn ..
  | st | stl => exact State.storeFrom_goesOn ..
  | pfl => exact State.runImm_goesOn ..
  | aadd | amin | amax | aminu | amaxu | axchg | acas | aand | aor | axor => exact State.atom_goesOn ..
  | tokw | tagwa | tagwl | tagff | tagclr | bara | barw | baraw | barset | bclose | waitb | qdrain | qseq | xretw | spawn
  | spawnj | join | halt | yield | launch => exact State.tileOnly_goesOn ..
  | eret | tlbinv | srd | swr => exact State.atMOnly_goesOn ..
  | tokp | xcall | mshape | manch | mzp | mpriv | mcode | mcsum | mlda | mldb | mma | mmas | mmaq | mmap | mchk | mdrain
  | mdrainx | mzero | mwm | mcap | mstat | smv | smvw | vadd | vsub | vmul | vmulh | vmulhu | vmin | vmax | vminu | vmaxu
  | vabs | vneg | vsadd | vssub | vand | vor | vxor | vnot | vshl | vshr | vsar | vpopc | vclz | vbrev | vclmull | vclmulh
  | vbcast | vret | vfadd | vfsub | vfmul | vfma | vfdiv | vfsqrt | vfmin | vfmax | vfabs | vfneg | vcmpeq | vcmplt
  | vcmpltu | vfcmpeq | vfcmplt | vsel | vmask | vredadd | vredmin | vredmax | vfredadd | vperm | vslide | vld | vst | vgat
  | vsct | vqnt | vdq | vcvt | vrange | vmse | vdefer | vdrainq | cld | clde | cgat | cpf | fget | cst | cstd | csct | cfill
  | fput | fputOf | cbat | fackw | cred => exact issue_goesOn ..
  -- Packets and answers of the host, met by one of the shared operations.
  | pktRd | pktWr | pktAddw | pktAtm | pktPut | pktFlag | pktQpushHome | pktQpopHome | pktCtrl => exact State.serve_goesOn ..
  | pktRdrAnswer | pktWackAnswer | pktQrspAnswer | pktErrAnswer => exact State.take_goesOn ..
  | valAnswer | fltAnswer | decAnswer | schedAnswer => exact State.answered_goesOn ..
  | spdmChallenge => exact State.signed_goesOn ..
  -- Events that answer a next state outright.
  | smvUnitDone | copyCompletion | tailWrite | crheadWrite | lqcfgWrite | tileChooseRecord | govcfgWrite | kwaupLnak
  | deathNotice | deadmapClear | rsGo | rsResume | rsHostPlan | rsPause | rsAbort | prectlSoft | prectlHard | prectlResume
  | objcmdCreate | objcmdDelete | mbctlH2df | mbctlD2hfClear | dutyWrite | errptrHeadWrite | packageReset | fwctlGo
  | fwhbHeartbeat | spdmGetVersion | spdmGetCapabilities | spdmNegotiateAlgorithms | spdmGetDigests | spdmGetCertificate
  | spdmUnsupported | mctpControl | doeDiscovery | dbgStop | dbgRun | dbgStep | dbgArm | dbgDump | dbgTrace | dbgCnt
  | allStopPropagate | counterSweep | bedCycle => exact Out.goesOn_next _
  -- Meanings with cases of their own, each with its lemma above.
  | scp | imx | bkpt | credPartnerArrival | copyFreeze | engineFaultTrap | tokenDeadlock | engineCommandCompletion
  | queueGrowth | tick | coreCycle | rampSlot | launchPacketRead | launchClaim | poolAgeing | rtimeBudget | haltTreeFire
  | launchDrainDone | codedTaskArrival | codedTaskErasure | testSliceEnd | pktReservedType | routerPairing | dwellExpire
  | pktAtmrAnswer | pktHnakAnswer | hnakResend | remoteTimeout | bedLinkRetry | kwaupFlitReceive | hbeatSend | peerDead
  | rsChunkDone | scrubRead | storageBitError | retireAnswer | sysregWrite | bar2Access | quiesceEnd | verifyDone
  | heartbeatDeadline | dbgTimedStop | addressBreakpointStop | entryWatchStop | spdmGetMeasurements => simp

/-! ### Engines' moves -/

theorem State.copyMove_goesOn (s : State) (g : Nat) (q : Q) (en : QEntry) (i : Instr) : (s.copyMove g q en i).goesOn := by
  fun_cases State.copyMove
  case case3 => exact execCopyFreeze_goesOn _ _ _ _
  all_goals exact Out.goesOn_next _

theorem State.stoppedMove_goesOn (s : State) (g : Nat) (q : Q) (isn : Word) : (s.stoppedMove g q isn).goesOn := by
  fun_cases State.stoppedMove
  · exact Out.goesOn_next _
  · exact Out.goesOn_next _
  · exact State.copyMove_goesOn _ _ _ _ _

theorem State.begunMove_goesOn (s : State) (g : Nat) (q : Q) (isn : Word) : (s.begunMove g q isn).goesOn := by
  fun_cases State.begunMove
  · exact Out.goesOn_next _
  · exact Out.goesOn_next _
  · exact Out.goesOn_next _
  · exact State.copyMove_goesOn _ _ _ _ _
  · exact execEngineCommandCompletion_goesOn _ _ _ _

theorem State.cmdMove_goesOn (s : State) (g : Nat) (q : Q) (en : QEntry) : (s.cmdMove g q en).goesOn := by
  fun_cases State.cmdMove
  · exact Out.goesOn_next _
  · exact Out.goesOn_next _
  · exact Out.map_goesOn _ (State.begunMove_goesOn _ _ _ _)

theorem State.aheadMove_goesOn (s : State) (g : Nat) (q : Q) (isn : Word) : (s.aheadMove g q isn).goesOn := by
  fun_cases State.aheadMove
  · exact Out.goesOn_next _
  · exact State.cmdMove_goesOn _ _ _ _
  · exact Out.goesOn_next _

/-- Of the moves of a queue only that of a tile above 255 is a fault of the model. -/
theorem State.engineMove_goesOn (s : State) {g : Nat} (q : Q) (hg : g < 256) : (s.engineMove g q).goesOn := by
  fun_cases State.engineMove
  · omega
  · exact Out.goesOn_next _
  · exact State.cmdMove_goesOn _ _ _ _

theorem State.engineTurn_goesOn (s : State) {g : Nat} (q : Q) (hg : g < 256) : (s.engineTurn g q).goesOn := by
  have move : ∀ t : State, (t.engineMove g q).goesOn := fun t => t.engineMove_goesOn q hg
  fun_cases State.engineTurn
  · exact move _
  · exact move _
  · exact Out.goesOn_next _
  · exact move _
  · exact Out.goesOn_next _
  · exact Out.map_goesOn _ (move _)

/-! ### The turn of an agent -/

/-- Whatever a fetch gives, the turn goes on if the way of executing does. -/
theorem State.execFetched_goesOn (s : State) {go : Instr → State → Out} (h : ∀ i t, (go i t).goesOn) :
    (s.execFetched go).goesOn := by
  fun_cases State.execFetched
  · exact h _ _
  · exact Out.goesOn_next _
  · exact Out.goesOn_next _

theorem State.parityTurn_goesOn (s : State) (g : Nat) (i : Instr) {go : State → Out} (h : ∀ t, (go t).goesOn) :
    (s.parityTurn g i go).goesOn := by
  fun_cases State.parityTurn
  · exact Out.goesOn_next _
  · exact h _
  · exact Out.map_goesOn _ (h _)

theorem State.tileTurn_goesOn (s : State) (g : Nat) : (s.tileTurn g).goesOn := by
  fun_cases State.tileTurn
  · exact State.execFetched_goesOn _ exec_goesOn
  · exact Out.goesOn_next _
  · exact Out.goesOn_next _
  · exact execEngineFaultTrap_goesOn _ _
  · exact Out.goesOn_next _
  · exact execAddressBreakpointStop_goesOn _ _
  · exact Out.settled_goesOn _ (State.execFetched_goesOn _ fun i t => t.parityTurn_goesOn _ i (exec_goesOn i))

/-- An agent that exists has its turn: the one fault of the model is for a tile above 255 or a core above 3. -/
theorem State.turn_goesOn (s : State) {a : Agent} (ha : a.legal = true) : (s.turn a).goesOn := by
  cases a with
  | tile g =>
    have hg : ¬ 256 ≤ g := by simpa [Agent.legal] using ha
    simp only [State.turn, if_neg hg]
    exact State.tileTurn_goesOn _ _
  | core n =>
    have hn : ¬ 4 ≤ n := by simpa [Agent.legal] using ha
    simp only [State.turn, if_neg hn]
    split
    · exact Out.goesOn_next _
    · exact State.execFetched_goesOn _ exec_goesOn
  | reshard | headstock => exact Out.goesOn_next _

/-! ### Moves of the package -/

theorem State.packetMove_goesOn (s : State) (rid : Nat) : (s.packetMove rid).goesOn := by
  simp only [State.packetMove]
  split
  · exact Out.goesOn_next _
  · rename_i p _
    cases p.typ with
    | rd | wr | addw | atm | put | flag | qpush | qpop | ctrl => exact State.serve_goesOn ..
    | rdr | wack | qrsp | err => exact State.take_goesOn ..
    | atmr | hnak | reserved => simp

theorem dbgOp_goesOn (op : Nat) (r : DbgReq) (s : State) : (dbgOp op r s).goesOn := by
  fun_cases dbgOp <;> exact Out.goesOn_next _

theorem State.takeMessage_goesOn (s : State) : s.takeMessage.goesOn := by
  fun_cases State.takeMessage
  · exact Out.goesOn_next _
  · exact State.answered_goesOn ..
  · exact State.answered_goesOn ..
  · exact State.answered_goesOn ..
  · exact State.answered_goesOn ..
  · exact execRetireAnswer_goesOn ..
  · exact dbgOp_goesOn ..
  · exact Out.goesOn_next _

theorem State.heldRequest_goesOn (s : State) : s.heldRequest.goesOn := by
  fun_cases State.heldRequest
  · exact Out.goesOn_next _
  · exact Out.goesOn_next _
  · exact Out.map_goesOn _ (dbgOp_goesOn _ _ _)

/-- A move that names an agent that exists, or none, goes on. -/
theorem State.move_goesOn (s : State) {m : Move} (hm : m.legal = true) : (s.move m).goesOn := by
  cases m with
  | run a => exact s.turn_goesOn hm
  | engine g q =>
    have hg : g < 256 := by simpa [Move.legal] using hm
    simp only [State.move]
    split
    · exact Out.goesOn_next _
    · exact s.engineTurn_goesOn q hg
  | ahead g q isn =>
    simp only [State.move]
    split
    · exact State.stoppedMove_goesOn _ _ _ _
    · split
      · exact Out.goesOn_next _
      · exact State.aheadMove_goesOn _ _ _ _
  | message =>
    simp only [State.move]
    apply Out.map_goesOn
    split
    · exact State.heldRequest_goesOn _
    · exact State.takeMessage_goesOn _
  | packet rid => exact s.packetMove_goesOn rid
  | boot | smv | choose | allStop | save | sweep | bedCycle => exact Out.goesOn_next _
  | grow | deadlock | timedStop | pair | dwell | resend | timeout | claim | age | budget | halt | drain | arrival | erasure
  | readPacket | quiesced | verified | deadline | reshard | hbeat | peerDead | slice | tick | rampSlot | coreCycle =>
    simp [State.move]

/-! ### The schedule (log entry 7) -/

theorem State.boundTiles_lt (s : State) {e : Nat × Tile} (he : e ∈ s.boundTiles) : e.1 < 256 := by
  obtain ⟨_, h⟩ := List.mem_filter.mp he
  simp only [Bool.and_eq_true, decide_eq_true_eq] at h
  exact h.1

/-- The one move of a list is legal if that move is. -/
theorem Move.legal_of_mem_singleton {m a : Move} (h : m ∈ [a]) (ha : a.legal = true) : m.legal = true := by
  rwa [List.mem_singleton.mp h]

theorem mem_insertBy {α : Type} (le : α → α → Bool) (a : α) (l : List α) {x : α} : x ∈ insertBy le a l ↔ x = a ∨ x ∈ l := by
  induction l with
  | nil => simp [insertBy]
  | cons b r ih =>
    simp only [insertBy]
    split
    · simp
    · simp only [List.mem_cons, ih]
      tauto

theorem mem_sortBy {α : Type} (le : α → α → Bool) (l : List α) {x : α} : x ∈ sortBy le l ↔ x ∈ l := by
  induction l with
  | nil => simp [sortBy]
  | cons a r ih =>
    rw [sortBy, List.foldr_cons, mem_insertBy, List.mem_cons]
    exact or_congr_right ih

theorem State.runMoves_legal (s : State) : ∀ m ∈ s.runMoves, m.legal = true := by
  intro m hm
  simp only [State.runMoves, List.mem_append, List.mem_map, List.mem_filter, List.mem_range, mem_sortBy] at hm
  obtain ⟨g, ⟨e, ⟨he, _⟩, rfl⟩, rfl⟩ | ⟨n, ⟨hn, _⟩, rfl⟩ := hm
  · simpa [Move.legal, Agent.legal] using s.boundTiles_lt he
  · simpa [Move.legal, Agent.legal] using hn

theorem tileMoves_legal {e : Nat × Tile} (he : e.1 < 256) : ∀ m ∈ tileMoves e, m.legal = true := by
  intro m hm
  simp only [tileMoves, List.mem_append, List.mem_map, List.mem_flatMap, List.mem_ite_nil_right, List.mem_singleton] at hm
  obtain ((((((((⟨q, _, rfl⟩ | ⟨q, _, c, _, rfl⟩) | ⟨k, _, rfl⟩) | ⟨_, q, _, c, _, rfl⟩) | ⟨_, rfl⟩) | ⟨_, rfl⟩) | ⟨_, rfl⟩) |
    ⟨_, rfl⟩) | ⟨_, rfl⟩) := hm
  · simpa [Move.legal] using he
  all_goals rfl

theorem State.pairMoves_legal (s : State) (p : Pkt) : ∀ m ∈ s.pairMoves p, m.legal = true := by
  intro m hm
  unfold State.pairMoves at hm
  split at hm
  · simp at hm
  · obtain ⟨x, _, hx⟩ := List.mem_filterMap.mp hm
    split_ifs at hx <;> cases hx <;> rfl

theorem State.pktMoves_legal (s : State) (p : Pkt) : ∀ m ∈ s.pktMoves p, m.legal = true := by
  intro m hm
  simp only [State.pktMoves, List.mem_append, List.mem_ite_nil_left, List.mem_singleton] at hm
  obtain hm | ⟨_, rfl⟩ := hm
  · split_ifs at hm
    · obtain h | h := List.mem_append.mp hm
      · exact s.pairMoves_legal p m h
      · exact Move.legal_of_mem_singleton h rfl
    · exact Move.legal_of_mem_singleton hm rfl
    · exact Move.legal_of_mem_singleton hm rfl
  · rfl

theorem launchMoves_legal (e : Nat × Launch) : ∀ m ∈ launchMoves e, m.legal = true := by
  intro m hm
  obtain ⟨k, l⟩ := e
  simp only [launchMoves, List.mem_append, List.mem_ite_nil_left, List.mem_singleton] at hm
  obtain ⟨_, rfl⟩ | hm := hm
  · rfl
  · split at hm
    · exact Move.legal_of_mem_singleton hm rfl
    · simp only [List.mem_append, List.mem_ite_nil_left, List.mem_map, List.mem_singleton] at hm
      obtain ((⟨_, rfl⟩ | ⟨_, _, rfl⟩) | ⟨_, _, rfl⟩) | rfl := hm <;> rfl
    · exact Move.legal_of_mem_singleton hm rfl
    · simp at hm
    · simp at hm

theorem State.taskMoves_legal (s : State) : ∀ m ∈ s.taskMoves, m.legal = true := by
  intro m hm
  simp only [State.taskMoves, List.mem_flatMap, List.mem_ite_nil_right, List.mem_cons, List.not_mem_nil, or_false] at hm
  obtain ⟨_, _, _, _, _, rfl | rfl⟩ := hm <;> rfl

theorem State.deviceMoves_legal (s : State) : ∀ m ∈ s.deviceMoves, m.legal = true := by
  intro m hm
  simp only [State.deviceMoves, List.mem_append, List.mem_flatMap, List.mem_map, List.mem_ite_nil_right, List.mem_cons,
    List.not_mem_nil, or_false] at hm
  obtain (((((hm | ⟨_, rfl⟩) | hm) | ⟨_, rfl⟩) | ⟨_, rfl⟩) | ⟨_, _, rfl | rfl⟩) | ⟨_, _, rfl⟩ := hm
  · split at hm
    · exact Move.legal_of_mem_singleton hm rfl
    · simp at hm
  · rfl
  · split at hm
    · exact Move.legal_of_mem_singleton hm rfl
    · exact Move.legal_of_mem_singleton hm rfl
    · exact Move.legal_of_mem_singleton hm rfl
    · simp at hm
  all_goals rfl

theorem State.sliceMoves_legal (s : State) : ∀ m ∈ s.sliceMoves, m.legal = true := by
  intro m hm
  simp only [State.sliceMoves, List.mem_flatMap, List.mem_map] at hm
  obtain ⟨_, _, _, _, rfl⟩ := hm
  rfl

theorem State.timeMoves_legal (s : State) : ∀ m ∈ s.timeMoves, m.legal = true := by
  intro m hm
  simp only [State.timeMoves, List.mem_cons, List.mem_append, List.mem_map, List.not_mem_nil, or_false] at hm
  obtain (rfl | ⟨_, _, rfl⟩) | rfl | rfl | rfl := hm <;> rfl

/-- Whatever the state, a fresh round names only tiles below 256 and management cores below 4. -/
theorem State.round_legal (s : State) : ∀ m ∈ s.round, m.legal = true := by
  intro m hm
  unfold State.round at hm
  split at hm
  · exact Move.legal_of_mem_singleton hm rfl
  · simp only [List.mem_append, List.mem_flatMap] at hm
    obtain ((((((h | ⟨e, he, h⟩) | ⟨p, _, h⟩) | ⟨e, _, h⟩) | h) | h) | h) | h := hm
    · exact s.runMoves_legal m h
    · exact tileMoves_legal (s.boundTiles_lt he) m h
    · exact s.pktMoves_legal p m h
    · exact launchMoves_legal e m h
    · exact s.taskMoves_legal m h
    · exact s.deviceMoves_legal m h
    · exact s.sliceMoves_legal m h
    · exact s.timeMoves_legal m h

theorem State.scheduled_iff (s : State) : s.scheduled = true ↔ s.who.legal = true ∧ ∀ m ∈ s.agenda, m.legal = true := by
  simp [State.scheduled]

/-- The moves in hand of a scheduled state name only agents that exist. -/
theorem State.inHand_legal {s : State} (h : s.scheduled = true) :
    ∀ m ∈ (if s.agenda.isEmpty then s.round else s.agenda), m.legal = true := by
  split
  · exact s.round_legal
  · exact ((s.scheduled_iff).mp h).2

/-- The agent that has had its turn after a legal move exists. -/
theorem Move.agent_legal {m : Move} {a : Agent} (hm : m.legal = true) (ha : a.legal = true) : (m.agent a).legal = true := by
  cases m with
  | run b => exact hm
  | _ => exact ha

/-- Settles O7: the agenda is empty after reset, and core 0 has the first turn. -/
theorem resetScheduled : Obligations.ResetScheduled := by
  unfold Obligations.ResetScheduled
  rfl

/-- Settles O8: the move in hand goes on, and what follows it is the rest of the moves in hand. -/
theorem stepKeepsSchedule : Obligations.StepKeepsSchedule := by
  unfold Obligations.StepKeepsSchedule
  intro s h
  have legal := State.inHand_legal h
  have hwho := ((s.scheduled_iff).mp h).1
  unfold step
  split
  next m r hmr =>
    rw [hmr] at legal
    obtain ⟨hm, hr⟩ := List.forall_mem_cons.mp legal
    obtain ⟨t, ht⟩ := s.move_goesOn hm
    rw [ht]
    exact ⟨_, rfl, (State.scheduled_iff _).mpr ⟨Move.agent_legal hm hwho, hr⟩⟩
  next => exact ⟨s, rfl, h⟩

end Sys2Proof.Machine

/-! SUPPORT. The registers of a control core: g0 (R16), what Table 1.1 gives at reset, and an MTS that meets a storage error. -/

namespace Sys2Proof.Machine

/-- Settles O9: the register file of a core that exists is read after it is written. -/
theorem registerZero : Obligations.RegisterZero := by
  unfold Obligations.RegisterZero
  intro s r v hc
  have hcur (r : Reg) : (s.setG r v).cur = s.cur.setG r v := s.cur_updCur _ hc
  refine ⟨Tcc.g_zero _, by rw [hcur, Tcc.setG_zero], fun hr => ?_, fun q hq => ?_⟩
  · rw [State.g, hcur, Tcc.g_setG_same _ r v hr]
  · rw [State.g, hcur, Tcc.g_setG_other _ r q v hq, State.g]

/-- PTILE alone of a tile's registers tells where the tile stands. -/
theorem Tile.sr_gid (t : Tile) (g h : Nat) {n : Nat} (hn : n ≠ 3) : t.sr g n = t.sr h n := by
  unfold Tile.sr
  split
  case h_3 => exact absurd rfl hn
  all_goals rfl

/-- The package after reset, with the turn at a tile. -/
def State.resetAt (g : Nat) : State := { State.reset with who := .tile g }

/-- After reset every tile reads as tile 0 does, but for PTILE. -/
theorem State.sr_resetAt (g : Nat) {n : Nat} (hn : n ≠ 3) : (State.resetAt g).sr n = (State.resetAt 0).sr n := by
  unfold State.sr
  split
  · rfl
  · split
    · rfl
    · exact Tile.sr_gid Tile.reset g 0 hn

/-- Settles O6: no register named depends on the tile, and those of tile 0 are closed values. -/
theorem resetValues : Obligations.ResetValues := by
  unfold Obligations.ResetValues
  intro g s
  have at0 {n : Nat} {v : Word} (hv : (State.resetAt 0).sr n = v) (hn : n ≠ 3 := by decide) : s.sr n = v :=
    (State.sr_resetAt g hn).trans hv
  have watermarks : ∀ n ∈ List.range 16, (State.resetAt 0).sr (0x050 + n) = 128 := by decide +kernel
  have zeros : ∀ n ∈ [0x010, 0x011, 0x012, 0x013, 0x014, 0x015, 0x019, 0x01A, 0x020, 0x021, 0x022, 0x023, 0x024, 0x025, 0x030,
      0x031, 0x032, 0x034, 0x036, 0x037, 0x038, 0x03B, 0x060, 0x061, 0x062, 0x080, 0x081],
      n ≠ 3 ∧ (State.resetAt 0).sr n = 0 := by decide +kernel
  have counts : ∀ n ∈ List.range 8, (State.resetAt 0).sr (0x040 + n) = 0 := by decide +kernel
  have barriers : ∀ n ∈ List.range 64, (State.resetAt 0).sr (0x100 + n) = 0 := by decide +kernel
  have links : (State.resetAt 0).sr 0x028 = 0xF4000 / 64 ∧ (State.resetAt 0).sr 0x029 = 0xF4000 / 64 ∧
      (State.resetAt 0).sr 0x02A = 0xF8000 / 64 ∧ (State.resetAt 0).sr 0x02B = 0xF8000 / 64 ∧
      (State.resetAt 0).sr 0x02C = 0xFC000 / 64 ∧ (State.resetAt 0).sr 0x02D = 0xFC000 / 64 := by decide +kernel
  obtain ⟨lqh, lqt, xqh, xqt, sqh, sqt⟩ := links
  exact ⟨at0 rfl, at0 rfl, at0 rfl, fun n hn => at0 (watermarks n hn) (by omega),
    ⟨at0 lqh, at0 lqt, at0 xqh, at0 xqt, at0 sqh, at0 sqt⟩, fun n hn => at0 (zeros n hn).2 (zeros n hn).1,
    fun n hn => at0 (counts n hn) (by omega), fun n hn => at0 (barriers n hn) (by omega), rfl, rfl, rfl, rfl, rfl, rfl⟩

/-- Tile 0 stands at an MTS to LISN in the firmware trap image; its sequence mirror is at offset 8 of its scratchpad, in a word that
holds an uncorrectable error. -/
def mirrorOnBadWord : State :=
  { State.reset with
    who := .tile 0
    fw := { Fw.reset with trapLines := 1 }
    tiles := [(0, { Tile.reset with seqw := 8, tcc := { Tcc.reset with succ := some 2, img := 0xFFFF } })]
    bad := [{ mark := .home, pa := tileBase 0 + 8, len := 8, corr := false, inj := false }] }

/-- The storage errors that stand after an instruction. -/
def Out.badWords (o : Out) : List BadWord :=
  match o with
  | .next s => s.bad
  | .fault _ => []
  | .refused _ => []

theorem mirrorOnBadWord_plain : mirrorOnBadWord.plainAt 2 :=
  ⟨trivial, ⟨rfl, by decide +kernel⟩, .inr ⟨.inl rfl, .inl rfl⟩, rfl⟩

/-- Refutes O38: the clause of a queue number with a mirror in use says that nothing but the numbers and the mirror's bytes changes,
with no hypothesis on storage errors; but where an error stands in the mirror's word, the write mends that word (R449), so that the
error is gone. -/
theorem not_checkedRegisterWrites : ¬ Obligations.CheckedRegisterWrites := by
  unfold Obligations.CheckedRegisterWrites
  intro h
  obtain ⟨_, _, _, _, _, atM⟩ := h mirrorOnBadWord 0 0 2 rfl mirrorOnBadWord_plain rfl
  obtain ⟨_, _, _, _, _, _, _, _, _, queues⟩ := atM rfl
  obtain ⟨_, mirrored, _⟩ := queues false .l
  have written := congrArg Out.badWords (mirrored (by decide +kernel) (by decide +kernel))
  have mended : Out.badWords (exec (.mtsQueueNumber 0 false .l) mirrorOnBadWord) = [] := by decide +kernel
  rw [mended] at written
  exact absurd written (by decide +kernel)

end Sys2Proof.Machine

/-! SUPPORT. The traps of the special registers and of instructions that a core or a level may not execute: one lemma for each
frame in which instructions test that (R15, R21, R120), and the access column of Table 1.1 for every register number. -/

namespace Sys2Proof.Machine

/-- Without a prefix, an instruction whose body traps raises that trap. -/
theorem State.run_trap {s s' : State} {imx scp : Bool} {body : State → Res Flow} {t : TrapI} (hp : s.cur.pfx = none)
    (hb : body s = .trap t s') : s.run imx scp body = .next (s'.raise t) := by
  rw [State.run_ok _ _ _ _ (s.pfxOk_none _ _ hp), hb]

/-- An instruction of tiles alone is illegal on a management core (R120). -/
theorem State.tileOnly_core {s : State} (body : State → Res Flow) (hc : s.onCore = true) (hp : s.cur.pfx = none) :
    s.tileOnly body = .next (s.raise trapIllegal) :=
  State.run_trap hp (by rw [if_pos hc])

/-- An instruction of M alone raises the privilege trap at P (R15). -/
theorem State.atMOnly_atP {s : State} (body : State → Res Flow) (hm : s.cur.atM = false) (hp : s.cur.pfx = none) :
    s.atMOnly body = .next (s.raise trapPrivilege) :=
  State.run_trap hp (by simp [hm])

theorem execMfs_trap {s : State} {n : BitVec 10} {t : TrapI} (d : Reg) (hp : s.cur.pfx = none) (h : s.mfsTrap n.toNat = some t) :
    execMfs d n s = .next (s.raise t) :=
  State.run_trap hp (by rw [h])

theorem State.mtsRun_trap {s : State} {n : Nat} {t : TrapI} (g : Reg) (f : Word → State → Res Unit) (hp : s.cur.pfx = none)
    (h : s.mtsTrap n = some t) : s.mtsRun n g f = .next (s.raise t) :=
  State.run_trap hp (by rw [h])

/-- An engine instruction is issued into its queue. -/
theorem exec_engine {i : Instr} {e : Eng} {q : Q} (s : State) (he : i.eng? = some e) (hq : i.queue? = some q) :
    exec i s = issue i e q s := by
  unfold Instr.eng? at he
  split at he
  case h_99 => cases he
  all_goals
    obtain rfl := Option.some.inj he
    obtain rfl := Option.some.inj hq
    rfl

/-- Every engine instruction has a queue. -/
theorem Instr.queue?_of_eng? {i : Instr} (h : i.eng? ≠ none) : ∃ q, i.queue? = some q := by
  unfold Instr.eng? at h
  split at h
  case h_99 => exact absurd rfl h
  all_goals exact ⟨_, rfl⟩

/-- Every engine instruction is illegal on a management core (R120). -/
theorem exec_engine_core {i : Instr} {s : State} (hi : i.eng? ≠ none) (hc : s.onCore = true) (hp : s.cur.pfx = none) :
    exec i s = .next (s.raise trapIllegal) := by
  obtain ⟨e, he⟩ := Option.ne_none_iff_exists'.mp hi
  obtain ⟨q, hq⟩ := Instr.queue?_of_eng? hi
  rw [exec_engine s he hq]
  exact State.run_trap hp (by rw [issueBody, if_pos hc])

theorem mem_map_range_add {a k n : Nat} : n ∈ (List.range k).map (fun j => a + j) ↔ a ≤ n ∧ n < a + k := by
  simp only [List.mem_map, List.mem_range]
  exact ⟨by rintro ⟨j, hj, rfl⟩; omega, fun h => ⟨n - a, by omega, by omega⟩⟩

/-- The numbers that Table 1.1 assigns on a tile. -/
def assignedSr : List Nat :=
  List.range 9 ++ [0x10, 0x11, 0x12, 0x13, 0x14, 0x15, 0x18, 0x19, 0x1A, 0x1B] ++
    [0x20, 0x21, 0x22, 0x23, 0x24, 0x25, 0x26, 0x28, 0x29, 0x2A, 0x2B, 0x2C, 0x2D, 0x2E, 0x30, 0x31, 0x32] ++
    [0x34, 0x35, 0x36, 0x37, 0x38, 0x39, 0x3A, 0x3B, 0x60, 0x61, 0x62, 0x70, 0x71, 0x72, 0x73, 0x74, 0x75, 0x80, 0x81] ++
    (List.range 8).map (fun j => 0x40 + j) ++ (List.range 16).map (fun j => 0x50 + j) ++ (List.range 64).map (fun j => 0x100 + j)

/-- Every other number is reserved on a tile. -/
theorem srAcc_reserved {n : Nat} (h : n ∉ assignedSr) : srAcc n = .reserved := by
  simp only [assignedSr, List.mem_append, mem_map_range_add, List.mem_range, List.mem_cons, List.not_mem_nil, or_false, not_or] at h
  rw [srAcc, if_neg (by omega), if_neg (by omega), if_neg (by omega), if_neg (by omega), if_neg (by omega)]

theorem srAcc_mOnly : ∀ n ∈ [0x70, 0x71, 0x72, 0x73, 0x74, 0x75, 0x80, 0x81], srAcc n = .mOnly := by decide

theorem srAcc_rwM : ∀ n ∈ [0x05, 0x07, 0x08, 0x19, 0x1B, 0x31, 0x34, 0x36, 0x60, 0x61, 0x62] ++ (List.range 8).map (fun j => 0x40 + j) ++
    (List.range 64).map (fun j => 0x100 + j), srAcc n = .rwM := by decide +kernel

/-- The numbers that a management core does not hold (R462) are reserved there. -/
theorem srAccCore_reserved {n : Nat} (h : n ∉ [0x00, 0x0A, 0x10, 0x11, 0x12, 0x13, 0x14, 0x15, 0x18, 0x19, 0x1A, 0x1B, 0x70, 0x71, 0x72,
    0x73, 0x74, 0x75, 0x80, 0x81]) : srAccCore n = .reserved := by
  simp only [List.mem_cons, List.not_mem_nil, or_false, not_or] at h
  rw [srAccCore, if_neg (by omega), if_neg (by omega), if_neg (by omega), if_neg (by omega)]

theorem State.onTile.srAcc {s : State} {k : Nat} (h : s.onTile k) (n : Nat) : s.srAcc n = Machine.srAcc n := by
  have hw : s.who = .tile k := h
  simp [State.srAcc, State.onCore, hw]

theorem State.onCore_of_core {s : State} {k : Nat} (h : s.who = .core k) : s.onCore = true := by simp [State.onCore, h]

theorem State.srAcc_core {s : State} (h : s.onCore = true) (n : Nat) : s.srAcc n = srAccCore n := if_pos h

/-- A number that is reserved for the core traps in MFS and in MTS. -/
theorem State.srTrap_reserved {s : State} {n : Nat} (h : s.srAcc n = .reserved) :
    s.mfsTrap n = some trapIllegal ∧ s.mtsTrap n = some trapIllegal := by
  simp [State.mfsTrap, State.mtsTrap, h]

/-- At P a register of M alone traps in MFS and in MTS. -/
theorem State.srTrap_mOnly {s : State} {n : Nat} (h : s.srAcc n = .mOnly) (hm : s.cur.atM = false) :
    s.mfsTrap n = some trapPrivilege ∧ s.mtsTrap n = some trapPrivilege := by
  simp [State.mfsTrap, State.mtsTrap, h, hm]

/-- At P a register that only M writes traps in MTS. -/
theorem State.mtsTrap_rwM {s : State} {n : Nat} (h : s.srAcc n = .rwM) (hm : s.cur.atM = false) : s.mtsTrap n = some trapPrivilege := by
  simp [State.mtsTrap, h, hm]

/-- The numbers of the registers that have an MTS of their own, and their access on a tile and on a management core. -/
theorem srAcc_ownForms : srAcc 0x035 = .rwM ∧ srAcc 0x030 = .rwM ∧ srAcc 0x03B = .rwM ∧ srAcc 0x073 = .mOnly ∧ srAcc 0x081 = .mOnly ∧
    (∀ z : BitVec 4, srAcc (0x050 + z.toNat) = .rwM) ∧
    ∀ (b : Bool) (q : Q), srAcc (srnNumber b q) = .rwM ∧ srAcc (0x028 + 2 * q.code + b2n b) = .rwM := by
  refine ⟨rfl, rfl, rfl, rfl, rfl, by decide, fun b q => ?_⟩
  cases b <;> cases q <;> exact ⟨rfl, rfl⟩

theorem srAccCore_ownForms : srAccCore 0x035 = .reserved ∧ srAccCore 0x030 = .reserved ∧ srAccCore 0x03B = .reserved ∧
    srAccCore 0x026 = .reserved ∧ srAccCore 0x039 = .reserved ∧ (∀ z : BitVec 4, srAccCore (0x050 + z.toNat) = .reserved) ∧
    ∀ (b : Bool) (q : Q), srAccCore (srnNumber b q) = .reserved ∧ srAccCore (0x028 + 2 * q.code + b2n b) = .reserved := by
  refine ⟨rfl, rfl, rfl, rfl, rfl, by decide, fun b q => ?_⟩
  cases b <;> cases q <;> exact ⟨rfl, rfl⟩

/-- Settles O36: each instruction tests its core and its level before it does anything. -/
theorem specialRegisterTraps : Obligations.SpecialRegisterTraps := by
  unfold Obligations.SpecialRegisterTraps
  constructor
  · intro s d n hp i assigned illegal privilege
    simp only [exec_mfs, exec_mts, exec_mtsTcfg, exec_mtsQueueNumber, exec_mtsQueueLink, exec_mtsTokc, exec_mtsZwm, exec_mtsDqn,
      exec_mtsEbase, exec_mtsSeqw, exec_mtsSeed, exec_injArm, exec_eret, exec_tlbinv, exec_srd, exec_swr]
    have mfs {t : TrapI} (h : s.mfsTrap n.toNat = some t) : execMfs d n s = .next (s.raise t) := execMfs_trap d hp h
    have mts {t : TrapI} (h : s.mtsTrap n.toNat = some t) : execMts d n s = .next (s.raise t) := State.mtsRun_trap d _ hp h
    refine ⟨fun k hk hi => ?_, fun k hk hm => ?_, fun k hk => ?_⟩
    · obtain ⟨hr, hw⟩ := State.srTrap_reserved ((hk.srAcc _).trans (srAcc_reserved hi))
      exact ⟨mfs hr, mts hw⟩
    · obtain ⟨tcfg, tokc, dqn, ebase, injc, zwm, queues⟩ := srAcc_ownForms
      have rwM {m : Nat} {f : Word → State → Res Unit} (h : srAcc m = .rwM) : s.mtsRun m d f = privilege :=
        State.mtsRun_trap d f hp (State.mtsTrap_rwM ((hk.srAcc m).trans h) hm)
      have mOnly {m : Nat} {f : Word → State → Res Unit} (h : srAcc m = .mOnly) : s.mtsRun m d f = privilege :=
        State.mtsRun_trap d f hp (State.srTrap_mOnly ((hk.srAcc m).trans h) hm).2
      refine ⟨fun hi => ?_, fun hi => rwM (srAcc_rwM i hi), rwM tcfg, fun b q => ⟨rwM (queues b q).1, rwM (queues b q).2⟩, rwM tokc,
        fun z => rwM (zwm z), rwM dqn, mOnly ebase, mOnly injc, State.atMOnly_atP _ hm hp, fun _ _ _ => State.atMOnly_atP _ hm hp,
        fun _ => ⟨State.atMOnly_atP _ hm hp, State.atMOnly_atP _ hm hp⟩⟩
      obtain ⟨hr, hw⟩ := State.srTrap_mOnly ((hk.srAcc _).trans (srAcc_mOnly i hi)) hm
      exact ⟨mfs hr, mts hw⟩
    · have hc := State.onCore_of_core hk
      obtain ⟨tcfg, tokc, dqn, seqw, seed, zwm, queues⟩ := srAccCore_ownForms
      have reserved {m : Nat} {f : Word → State → Res Unit} (h : srAccCore m = .reserved) : s.mtsRun m d f = illegal :=
        State.mtsRun_trap d f hp (State.srTrap_reserved ((State.srAcc_core hc m).trans h)).2
      refine ⟨fun hi => ?_, reserved tcfg, fun b q => ⟨reserved (queues b q).1, reserved (queues b q).2⟩, reserved tokc,
        fun z => reserved (zwm z), reserved dqn, reserved seqw, reserved seed⟩
      obtain ⟨hr, hw⟩ := State.srTrap_reserved ((State.srAcc_core hc _).trans (srAccCore_reserved hi))
      exact ⟨mfs hr, mts hw⟩
  · intro s n d x y hk hp illegal
    have hc := State.onCore_of_core hk
    have tiles (body : State → Res Flow) : s.tileOnly body = illegal := State.tileOnly_core body hc hp
    simp only [exec_tokw, exec_tagwa, exec_tagwl, exec_tagff, exec_tagclr, exec_bara, exec_barw, exec_baraw, exec_barset, exec_bclose,
      exec_waitb, exec_qdrain, exec_qseq, exec_xretw, exec_spawn, exec_spawnj, exec_join, exec_yield, exec_halt, exec_launch]
    exact ⟨fun _ _ _ => tiles _, tiles _, tiles _, fun _ => tiles _, tiles _, fun _ _ => tiles _, fun _ => tiles _, fun _ _ => tiles _,
      fun _ => tiles _, tiles _, fun _ => tiles _, fun _ => tiles _, fun _ => tiles _, tiles _, tiles _, tiles _, tiles _, tiles _,
      tiles _, tiles _, fun i hi => exec_engine_core hi hc hp⟩

end Sys2Proof.Machine

/-! SUPPORT. Accesses of the C path through the launch window (R50 to R53, R155 to R160): what an address of the window names, the
parts of an access there, and that neither L1 nor the blocks of HBM4E have a share in it. -/

namespace Sys2Proof.Machine

/-- The first address of a launch's window for its tile LTN (R53). -/
@[irreducible] def winBase (ltn : Nat) : Nat := 0x1FF * 2 ^ 48 + ltn * 2 ^ 24

/-- The executing agent's launch k has, as its tile LTN, tile h of this package, on a die in service and bound to it. -/
structure State.InWindow (s : State) (k ltn h : Nat) : Prop where
  space : s.space = .launch k
  named : ∃ l, AMap.find? s.launches k = some l ∧ l.st ≠ .saved ∧ l.tiles[ltn]? = some h
  ltn : ltn < 2 ^ 24
  gid : h < 256
  bound : (s.tile h).bound = some k
  inService : s.sockOut (h / 16 + 1) = false

/-- The translation that the launch window gives (R53). -/
def winXlat (h off : Nat) : Xlat := { pa := tileBase h + off, ent := winEntry, win := true, pin := none }

theorem winBase_eq (ltn : Nat) : winBase ltn = 0x1FF * 2 ^ 48 + ltn * 2 ^ 24 := by
  unfold winBase
  rfl

theorem bitsN_winBase {ltn off : Nat} (hl : ltn < 2 ^ 24) (ho : off < 2 ^ 24) :
    bitsN (winBase ltn + off) 56 48 = 0x1FF ∧ bitsN (winBase ltn + off) 47 24 = ltn ∧ bitsN (winBase ltn + off) 23 0 = off := by
  simp only [bitsN, winBase]
  omega

/-- Every level may read and write through the window (R53). -/
theorem permFault_winEntry (kd : AccKind) (atM : Bool) (va : Nat) (h : kd ≠ .ex) : permFault winEntry kd atM va = none := by
  cases kd with
  | ex => exact absurd rfl h
  | rd | wr => cases atM <;> rfl

theorem State.InWindow.translate {s : State} {k ltn h off : Nat} (w : s.InWindow k ltn h) (ho : off < 2 ^ 24) {kd : AccKind}
    (hk : kd ≠ .ex) (a : Agent) (atM : Bool) : s.translate a s.space (winBase ltn + off) kd atM = .ok (winXlat h off) s := by
  obtain ⟨l, hl, hs, ht⟩ := w.named
  obtain ⟨b1, b2, b3⟩ := bitsN_winBase w.ltn ho
  have hlow : ¬ 2 ^ 57 ≤ winBase ltn + off := by have := w.ltn; simp only [winBase]; omega
  simp [-Nat.reducePow, State.translate, hlow, b1, b2, b3, w.space, hl, hs, ht, permFault_winEntry kd atM _ hk, winXlat]

theorem bitsN_tileBase {h off : Nat} (hg : h < 256) (ho : off < 2 ^ 24) : (tileBase h + off) / 2 ^ 51 % 2 = 1 ∧
    bitsN (tileBase h + off) 51 44 = 0xFF ∧ bitsN (tileBase h + off) 43 41 = 0 ∧ bitsN (tileBase h + off) 40 32 = 0 ∧
    bitsN (tileBase h + off) 31 24 = h ∧ bitsN (tileBase h + off) 23 0 = off := by
  simp only [bitsN, tileBase]
  omega

/-- The window of a tile of this package names its bytes (Table 9.2). -/
theorem State.mapped_tileBase (s : State) {h off : Nat} (hg : h < 256) (ho : off < 2 ^ 24) :
    s.mapped (tileBase h + off) = .tile h off := by
  obtain ⟨b1, b2, b3, b4, b5, b6⟩ := bitsN_tileBase hg ho
  generalize tileBase h + off = pa at *
  have b0 : ¬ pa / 2 ^ 51 % 2 = 0 := by rw [b1]; exact Nat.one_ne_zero
  rw [State.mapped, if_neg b0, if_pos (And.intro b2 b3), if_neg (not_not.mpr b4), b5, b6]

theorem State.home_of_mapped {s : State} {pa h off : Nat} (hm : s.mapped pa = .tile h off) (hs : s.sockOut (h / 16 + 1) = false) :
    s.home pa = .tile h off := by
  rw [State.home, hm]
  simp only [hs, Bool.false_eq_true, if_false]

theorem State.place_of_home {s : State} {pa h off : Nat} (hm : s.home pa = .tile h off) (hs : (s.tile h).bound.isSome = true) :
    s.place pa = .tile h off := by
  have hsv : s.savedTile h = false := by
    have : (AMap.getD s.tiles h Tile.reset).bound.isNone = false := by
      rw [Option.isNone_eq_false_iff]; exact hs
    rw [State.savedTile, this, Bool.false_and]
  rw [State.place, hm]
  simp only [hsv, Bool.false_eq_true, if_false]

theorem State.InWindow.place {s : State} {k ltn h off : Nat} (w : s.InWindow k ltn h) (ho : off < 2 ^ 24) :
    s.place (tileBase h + off) = .tile h off :=
  State.place_of_home (State.home_of_mapped (s.mapped_tileBase w.gid ho) w.inService) (by rw [w.bound]; rfl)

/-- The part of an access that stands in the window of tile h: n bytes from the offset off, at the addresses pa and va. -/
def State.tilePart (s : State) (h off n pa va : Nat) : CPart :=
  { key := tileBase h + off, n := n, kind := .rc, l1 := false, cmp := false, remote := s.onCore || decide (s.gid ≠ h),
    pa := pa, far := none, out := false, pin := none, va := va }

/-- The part of an access in the launch window that starts at a local offset of tile h and has so many bytes. -/
def State.winPart (s : State) (ltn h : Nat) (p : Nat × Nat) : CPart := s.tilePart h p.1 p.2 (tileBase h + p.1) (winBase ltn + p.1)

/-- The pieces of an access in the window, by their local offsets. -/
def winPieces (ltn : Nat) (ps : List (Nat × Nat)) : List (Nat × Nat) := ps.map (fun p => (winBase ltn + p.1, p.2))

/-- A part whose translation names a tile's window is the bytes there, never held in L1 (R53, R311). -/
theorem State.cPart_tile {s : State} {va n h off : Nat} {write : Bool} {x : Xlat}
    (ht : s.translate s.who s.space va (if write then .wr else .rd) s.cur.atM = .ok x s) (hp : s.place x.pa = .tile h off)
    (hx : x.pin = none) : s.cPart va n write = .ok (s.tilePart h off n x.pa va) s := by
  rw [State.cPart, ht]
  simp only [Res.andThen, hp, hx]
  rfl

theorem State.InWindow.cPart {s : State} {k ltn h : Nat} (w : s.InWindow k ltn h) {p : Nat × Nat} (hp : p.1 < 2 ^ 24) (write : Bool) :
    s.cPart (winBase ltn + p.1) p.2 write = .ok (s.winPart ltn h p) s := by
  have hk : (if write = true then AccKind.wr else AccKind.rd) ≠ .ex := by cases write <;> simp
  exact State.cPart_tile (w.translate hp hk s.who s.cur.atM) (w.place hp) rfl

theorem State.InWindow.cParts {s : State} {k ltn h : Nat} (w : s.InWindow k ltn h) (write : Bool) (ps : List (Nat × Nat))
    (hp : ∀ p ∈ ps, p.1 < 2 ^ 24) : s.cParts write (winPieces ltn ps) = .ok (ps.map (s.winPart ltn h)) s := by
  induction ps with
  | nil => rfl
  | cons p r ih =>
    have hr := ih (fun x hx => hp x (List.mem_cons_of_mem _ hx))
    rw [winPieces] at hr
    rw [winPieces, List.map_cons, State.cParts, w.cPart (hp p List.mem_cons_self)]
    simp only [Res.andThen, hr, List.map_cons]

/-- The rules of a window for a part of the launch's own window are those of its tile. -/
theorem State.InWindow.cPartRules {s : State} {k ltn h : Nat} (w : s.InWindow k ltn h) {p : Nat × Nat} (hp : p.1 < 2 ^ 24)
    (write : Bool) : s.cPartRules write (s.winPart ltn h p) = s.cWindow h p.1 p.2 (winBase ltn + p.1) (tileBase h + p.1) write := by
  obtain ⟨_, _, _, _, b5, b6⟩ := bitsN_tileBase w.gid hp
  have hm : (tileBase h + p.1) % 2 ^ 24 = p.1 := by simpa [bitsN] using b6
  have hk : ¬ tileBase h + p.1 < 0xFF * 2 ^ 44 := by simp only [tileBase]; omega
  simp only [State.cPartRules, State.winPart, State.tilePart, Option.isSome_none, Bool.or_false, Bool.false_eq_true, if_false, if_neg hk, b5, hm]

/-- First byte of a tile's area that stores may not touch: its chain regions, or the deferral area where it is reserved (R28, R48). -/
def Tile.lowReserved (t : Tile) : Nat := t.spBytes - (if t.dqon then 304 * 1024 else 48 * 1024)

/-- Neither z tiles nor what lies above them are touched by bytes of the first 6 MiB that are scratchpad. -/
theorem Tile.scratch_rules (t : Tile) {off n : Nat} (h1 : off + n ≤ t.spBytes) (h2 : off + n ≤ 0x600000) :
    t.offBad off n = false ∧ inZ off n = false ∧ t.rowOpen off n = false := by
  have ez : zBase = 0x600000 := rfl
  have ea : atomEnd = 0x8C0000 := rfl
  have hz : inZ off n = false := by
    rw [Bool.eq_false_iff]
    intro h
    simp only [inZ, overlap, Bool.and_eq_true, decide_eq_true_eq] at h
    omega
  refine ⟨?_, hz, by simp [Tile.rowOpen, hz]⟩
  rw [Bool.eq_false_iff]
  intro h
  simp only [Tile.offBad, overlap, Bool.or_eq_true, Bool.and_eq_true, decide_eq_true_eq] at h
  omega

theorem State.cWindow_load (s : State) {h off n : Nat} (va pa : Nat) (h1 : off + n ≤ (s.tile h).spBytes) (h2 : off + n ≤ 0x600000) :
    s.cWindow h off n va pa false = .ok () s := by
  obtain ⟨hb, hz, ho⟩ := (s.tile h).scratch_rules h1 h2
  simp [State.cWindow, hb, ho]

theorem State.cWindow_store (s : State) {h off n : Nat} (va pa : Nat) (h1 : off + n ≤ (s.tile h).lowReserved) (h2 : off + n ≤ 0x600000) :
    s.cWindow h off n va pa true = .ok () s := by
  have h3 : off + n ≤ (s.tile h).spBytes := by simp only [Tile.lowReserved] at h1; omega
  obtain ⟨hb, hz, ho⟩ := (s.tile h).scratch_rules h3 h2
  have hq : (s.tile h).inQueues off n = false := by
    simp only [Tile.inQueues, overlap, Bool.and_eq_false_iff, decide_eq_false_iff_not]
    simp only [Tile.lowReserved] at h1
    omega
  simp [State.cWindow, hb, hz, hq, ho]

theorem State.cWindow_queues (s : State) {h off n : Nat} (va pa : Nat) (h0 : 0 < n) (h1 : off + n ≤ (s.tile h).spBytes)
    (h2 : off + n ≤ 0x600000) (h3 : (s.tile h).lowReserved ≤ off) : s.cWindow h off n va pa true =
      .trap (if !s.onCore && decide (s.gid = h) then TrapI.mk3 12 0 (BitVec.ofNat 64 off) else TrapI.mk3 35 7 (BitVec.ofNat 64 pa)) s := by
  obtain ⟨hb, hz, ho⟩ := (s.tile h).scratch_rules h1 h2
  have hq : (s.tile h).inQueues off n = true := by
    simp only [Tile.inQueues, overlap, Bool.and_eq_true, decide_eq_true_eq]
    simp only [Tile.lowReserved] at h3
    omega
  simp only [State.cWindow, hb, hz, hq, Bool.false_eq_true, if_false, Bool.and_false, Bool.and_self, if_true]
  split <;> rfl

/-- An access of at most 8 bytes is cut into one piece, or into two at a multiple of 128. -/
theorem pieces_small (va : Nat) {n : Nat} (h0 : 0 < n) (h8 : n ≤ 8) :
    (va % 128 + n ≤ 128 ∧ pieces 128 4 va n = [(va, n)]) ∨
    128 < va % 128 + n ∧ ∃ m, 0 < m ∧ m < n ∧ pieces 128 4 va n = [(va, m), (va + m, n - m)] := by
  by_cases hc : va % 128 + n ≤ 128
  · have hm : min n (128 - va % 128) = n := by omega
    exact .inl ⟨hc, by simp [pieces, hm, Nat.ne_of_gt h0]⟩
  · have hm : min n (128 - va % 128) = 128 - va % 128 := by omega
    have hr : min (n - (128 - va % 128)) (128 - (va + (128 - va % 128)) % 128) = n - (128 - va % 128) := by omega
    have h1 : n - (128 - va % 128) ≠ 0 := by omega
    refine .inr ⟨by omega, 128 - va % 128, by omega, by omega, ?_⟩
    simp [pieces, hm, hr, h1, Nat.ne_of_gt h0]

/-- The pieces of an access of at most 8 bytes at a local offset: one, or two that follow each other. -/
def cutOf (off n : Nat) (ps : List (Nat × Nat)) : Prop :=
  ps = [(off, n)] ∨ ∃ m, 0 < m ∧ m < n ∧ ps = [(off, m), (off + m, n - m)]

theorem cutOf_mem {off n : Nat} {ps : List (Nat × Nat)} (hc : cutOf off n ps) (h0 : 0 < n) :
    ∀ p ∈ ps, off ≤ p.1 ∧ p.1 + p.2 ≤ off + n ∧ 0 < p.2 := by
  rcases hc with rfl | ⟨m, h1, h2, rfl⟩
  · simp [h0]
  · simp only [List.mem_cons, List.not_mem_nil, or_false, forall_eq_or_imp, forall_eq]
    omega

theorem winBase_mod (ltn : Nat) : winBase ltn % 128 = 0 := by
  unfold winBase
  omega

/-- How an access in the window is cut (log entry 108). -/
theorem pieces_window (ltn off : Nat) {n : Nat} (h0 : 0 < n) (h8 : n ≤ 8) :
    ∃ ps, pieces 128 4 (winBase ltn + off) n = winPieces ltn ps ∧ cutOf off n ps ∧ (off % 128 + n ≤ 128 → ps = [(off, n)]) := by
  have hb := winBase_mod ltn
  rcases pieces_small (winBase ltn + off) h0 h8 with ⟨_, h⟩ | ⟨hm, m, h1, h2, h⟩
  · exact ⟨[(off, n)], h, .inl rfl, fun _ => rfl⟩
  · rw [Nat.add_assoc] at h
    exact ⟨[(off, m), (off + m, n - m)], h, .inr ⟨m, h1, h2, rfl⟩, fun hc => by omega⟩

theorem Res.andThen_ok {α β : Type} (a : α) (s : State) (f : α → State → Res β) : (Res.ok a s).andThen f = f a s := rfl

theorem Res.andThen_trap {α β : Type} (t : TrapI) (s : State) (f : α → State → Res β) : (Res.trap t s).andThen f = .trap t s := rfl

theorem State.cRules_ok {s : State} {write : Bool} {ps : List CPart} (h : ∀ p ∈ ps, s.cPartRules write p = .ok () s) :
    s.cRules write ps = .ok () s := by
  induction ps with
  | nil => rfl
  | cons p r ih =>
    rw [State.cRules, h p List.mem_cons_self]
    exact ih (fun x hx => h x (List.mem_cons_of_mem _ hx))

/-- Only parts in another package are put together (R157). -/
theorem CPart.join_near {ps : List CPart} (h : ∀ p ∈ ps, p.far = none) : CPart.join ps = ps := by
  unfold CPart.join
  split
  · rename_i p q
    simp [h p List.mem_cons_self]
  · rfl

theorem State.winPart_near (s : State) (ltn h : Nat) (ps : List (Nat × Nat)) :
    ∀ p ∈ ps.map (s.winPart ltn h), p.far = none ∧ p.out = false := by
  intro p hp
  obtain ⟨_, _, rfl⟩ := List.mem_map.mp hp
  exact ⟨rfl, rfl⟩

/-- The address check of R156 passes for an address of the window, and an alignment check where the offset is aligned. -/
theorem State.cCheck_parts {s : State} {ea : Word} {ltn off n : Nat} {al write : Bool} (hl : ltn < 2 ^ 24)
    (hea : ea.toNat = winBase ltn + off) (ho : off + n ≤ 2 ^ 24) (h0 : 0 < n) (ha : al = true → ea.toNat % n = 0) :
    s.cCheck ea n write al = (s.cParts write (pieces 128 4 (winBase ltn + off) n)).andThen fun ps s =>
      (s.cRules write ps).andThen fun _ s =>
        match ps.find? CPart.out with
        | some p => .trap (TrapI.mk3 35 1 (BitVec.ofNat 64 p.pa)) s
        | none => .ok (if write then CPart.join ps else ps) s := by
  have hr : ¬ (2 ^ 57 ≤ ea.toNat ∨ 2 ^ 57 < ea.toNat + n) := by
    rw [hea, winBase]
    omega
  have hal : (al && decide (ea.toNat % n ≠ 0)) = false := by cases al <;> simp_all
  rw [State.cCheck, if_neg hr, hal, hea]
  rfl

/-- The checks of an access in the window pass where its tile's rules hold for every piece. -/
theorem State.InWindow.cCheck_ok {s : State} {k ltn h off n : Nat} {ea : Word} {al write : Bool} {ps : List (Nat × Nat)}
    (w : s.InWindow k ltn h) (hea : ea.toNat = winBase ltn + off) (ho : off + n ≤ 0x600000) (h0 : 0 < n)
    (hps : pieces 128 4 (winBase ltn + off) n = winPieces ltn ps) (hc : cutOf off n ps)
    (ha : al = true → ea.toNat % n = 0)
    (hw : ∀ p ∈ ps, s.cWindow h p.1 p.2 (winBase ltn + p.1) (tileBase h + p.1) write = .ok () s) :
    s.cCheck ea n write al = .ok (ps.map (s.winPart ltn h)) s := by
  have hin : ∀ p ∈ ps, p.1 < 2 ^ 24 := fun p hp => by have := cutOf_mem hc h0 p hp; omega
  have hrules : s.cRules write (ps.map (s.winPart ltn h)) = .ok () s := State.cRules_ok (fun x hx => by
    obtain ⟨p, hp, rfl⟩ := List.mem_map.mp hx
    rw [w.cPartRules (hin p hp), hw p hp])
  have near := s.winPart_near ltn h ps
  have hout : (ps.map (s.winPart ltn h)).find? CPart.out = none := List.find?_eq_none.mpr (fun p hp => by simp [(near p hp).2])
  rw [State.cCheck_parts w.ltn hea (by omega) h0 ha, hps, w.cParts write ps hin]
  simp only [Res.andThen, hrules, hout, CPart.join_near (fun p hp => (near p hp).1), ite_self]

/-- The checks of an access of one piece in the window raise what the tile's rules raise. -/
theorem State.InWindow.cCheck_trap {s : State} {k ltn h off n : Nat} {ea : Word} {write : Bool} {t : TrapI}
    (w : s.InWindow k ltn h) (hea : ea.toNat = winBase ltn + off) (ho : off + n ≤ 0x600000) (h0 : 0 < n)
    (hps : pieces 128 4 (winBase ltn + off) n = winPieces ltn [(off, n)])
    (hw : s.cWindow h off n (winBase ltn + off) (tileBase h + off) write = .trap t s) :
    s.cCheck ea n write false = .trap t s := by
  have hin : ∀ p ∈ [(off, n)], p.1 < 2 ^ 24 := by simp only [List.mem_singleton, forall_eq]; omega
  have hrule : s.cPartRules write (s.winPart ltn h (off, n)) = .trap t s := (w.cPartRules (hin _ List.mem_cons_self) write).trans hw
  have hrules : s.cRules write ([(off, n)].map (s.winPart ltn h)) = .trap t s := by
    rw [List.map_cons, State.cRules, hrule]
    rfl
  rw [State.cCheck_parts w.ltn hea (by omega) h0 (fun h => absurd h Bool.false_ne_true), hps, w.cParts write _ hin]
  rw [Res.andThen_ok, hrules, Res.andThen_trap]

/-! ### The bytes -/

theorem Memory.getN_add (m : Memory) (k a b : Nat) : m.getN k (a + b) = m.getN k a ++ m.getN (k + a) b := by
  induction a generalizing k with
  | zero => simp [Memory.getN]
  | succ a ih =>
    have e : k + (a + 1) = k + 1 + a := by omega
    rw [Nat.succ_add, Memory.getN, Memory.getN, ih (k + 1), e, List.cons_append]

theorem Memory.setN_append (m : Memory) (k : Nat) (a b : List Byte) : m.setN k (a ++ b) = (m.setN k a).setN (k + a.length) b := by
  induction a generalizing m k with
  | nil => simp [Memory.setN]
  | cons x a ih =>
    have e : k + (x :: a).length = k + 1 + a.length := by simp only [List.length_cons]; omega
    rw [List.cons_append, Memory.setN, Memory.setN, ih, e]

theorem State.readHome_clean {s : State} (hs : s.clean) (src key n : Nat) :
    s.readHome src key n = { bytes := s.mem.getN key n, bad := none, inj := false, s := s } := by
  obtain ⟨hb, ha⟩ := hs
  simp [State.readHome, hb, ha]

/-- A part that stands in a tile window of this package: neither L1 nor the blocks of HBM4E have a share in it (R311, R321). -/
structure CPart.AtTile (p : CPart) : Prop where
  far : p.far = none
  l1 : p.l1 = false
  cmp : p.cmp = false
  low : 0xFF * 2 ^ 44 ≤ p.key
  high : p.key < 2 ^ 52

/-- No line of a tile window is in L1. -/
theorem State.l1Update_tile (s : State) {key : Nat} (h1 : 0xFF * 2 ^ 44 ≤ key) (h2 : key < 2 ^ 52) (bs : List Byte) :
    s.l1Update key bs = s := by
  have h : (s.onCore || (decide (0xFF * 2 ^ 44 ≤ key) && decide (key < 2 ^ 52))) = true := by
    rw [decide_eq_true h1, decide_eq_true h2, Bool.and_self, Bool.or_true]
  unfold State.l1Update
  rw [if_pos h]

theorem foldl_skip {α β : Type} (f : β → α → β) (l : List α) (b : β) (h : ∀ a, f b a = b) : l.foldl f b = b := by
  induction l with
  | nil => rfl
  | cons a r ih => rw [List.foldl_cons, h a, ih]

/-- No compressible block lies in a tile window (R321). -/
theorem State.eachBlock_tile (s : State) {key : Nat} (h1 : 0xFF * 2 ^ 44 ≤ key) (n : Nat) (f : State → Nat → State) :
    s.eachBlock key n f = s := by
  unfold State.eachBlock
  split
  · rfl
  · refine foldl_skip _ _ _ (fun i => ?_)
    have hk : ¬ (key / 128 + i) * 128 < 0xFF * 2 ^ 44 := by omega
    have hc : s.compressible ((key / 128 + i) * 128) = false := by rw [State.compressible, decide_eq_false hk, Bool.false_and]
    simp only [hc, Bool.false_eq_true, if_false]

theorem State.cRead_tile {s : State} {p : CPart} (hs : s.clean) (hp : p.AtTile) (bypass : Bool) :
    s.cRead p bypass = .ok (s.mem.getN p.key p.n) s := by
  have hh : s.cHome p = .ok (s.mem.getN p.key p.n) s := by rw [State.cHome, s.readHome_clean hs]
  have hpast : s.cPast p = .ok (s.mem.getN p.key p.n) s := by
    rw [State.cPast, hp.far]
    simp only [hh, Res.andThen, s.l1Update_tile hp.low hp.high]
  simp only [State.cRead, hp.far, hp.l1, hp.cmp, State.blockRead, Option.isSome_none, Bool.not_false, Bool.true_or, if_true, hpast,
    Bool.false_eq_true, if_false]

theorem State.cReads_tile {s : State} {ps : List CPart} (hs : s.clean) (hp : ∀ p ∈ ps, p.AtTile) (bypass : Bool) :
    s.cReads bypass ps = .ok (ps.flatMap (fun p => s.mem.getN p.key p.n)) s := by
  induction ps with
  | nil => rfl
  | cons p r ih =>
    rw [State.cReads, s.cRead_tile hs (hp p List.mem_cons_self)]
    simp only [Res.andThen, ih (fun x hx => hp x (List.mem_cons_of_mem _ hx)), List.flatMap_cons]

/-- A write of a part in a tile window changes memory alone, where no storage error stands. -/
theorem State.cWrite_tile {s : State} {p : CPart} (hs : s.bad = []) (hp : p.AtTile) (bs : List Byte) :
    s.cWrite p bs = .ok () { s with mem := s.mem.setN p.key bs } := by
  rw [State.cWrite, hp.far]
  simp only [s.writeHome_clean _ bs hs, State.blockWrite, State.eachBlock_tile _ hp.low, State.l1Update_tile _ hp.low hp.high]

theorem State.cWriteAll_tile {s : State} {xs : List (CPart × List Byte)} (hs : s.bad = []) (hp : ∀ x ∈ xs, x.1.AtTile) :
    s.cWriteAll xs = .ok () { s with mem := xs.foldl (fun m x => m.setN x.1.key x.2) s.mem } := by
  induction xs generalizing s with
  | nil => rfl
  | cons x r ih =>
    rw [State.cWriteAll, s.cWrite_tile hs (hp x List.mem_cons_self) x.2]
    exact ih (s := { s with mem := s.mem.setN x.1.key x.2 }) hs (fun y hy => hp y (List.mem_cons_of_mem _ hy))

theorem mem_cSplit {ps : List CPart} {bs : List Byte} {x : CPart × List Byte} (h : x ∈ cSplit ps bs) : x.1 ∈ ps := by
  induction ps generalizing bs with
  | nil => exact absurd h (by simp [cSplit])
  | cons p r ih =>
    rw [cSplit, List.mem_cons] at h
    rcases h with rfl | h
    · exact List.mem_cons_self
    · exact List.mem_cons_of_mem _ (ih h)

theorem State.cWrites_tile {s : State} {ps : List CPart} (hs : s.bad = []) (hp : ∀ p ∈ ps, p.AtTile) (bs : List Byte) :
    s.cWrites bs ps = .ok () { s with mem := (cSplit ps bs).foldl (fun m x => m.setN x.1.key x.2) s.mem } := by
  have hall : ∀ x ∈ cSplit ps bs, x.1.AtTile := fun x hx => hp x.1 (mem_cSplit hx)
  have hnear : (cSplit ps bs).filter (fun x => x.1.far.isNone) = cSplit ps bs :=
    List.filter_eq_self.mpr (fun x hx => by rw [(hall x hx).far]; rfl)
  simp only [State.cWrites, hnear, s.cWriteAll_tile hs hall, if_true]

theorem State.winPart_atTile (s : State) {ltn h : Nat} {p : Nat × Nat} (hg : h < 256) (hp : p.1 < 2 ^ 24) :
    (s.winPart ltn h p).AtTile where
  far := rfl
  l1 := rfl
  cmp := rfl
  low := by simp only [State.winPart, State.tilePart, tileBase]; omega
  high := by simp only [State.winPart, State.tilePart, tileBase]; omega

theorem State.winPart_key (s : State) (ltn h : Nat) (p : Nat × Nat) : (s.winPart ltn h p).key = tileBase h + p.1 := rfl

theorem State.winPart_n (s : State) (ltn h : Nat) (p : Nat × Nat) : (s.winPart ltn h p).n = p.2 := rfl

/-- What the pieces of an access read is what the access as a whole reads. -/
theorem cutOf_getN {off n : Nat} {ps : List (Nat × Nat)} (hc : cutOf off n ps) (m : Memory) (b : Nat) :
    ps.flatMap (fun p => m.getN (b + p.1) p.2) = m.getN (b + off) n := by
  rcases hc with rfl | ⟨i, h1, h2, rfl⟩
  · simp
  · have e := m.getN_add (b + off) i (n - i)
    rw [Nat.add_sub_of_le (Nat.le_of_lt h2), Nat.add_assoc] at e
    simp [e]

/-- What the pieces of a store write is what the store as a whole writes. -/
theorem State.cutOf_setN (s : State) {off n : Nat} {ps : List (Nat × Nat)} (hc : cutOf off n ps) {bs : List Byte} (hn : bs.length = n)
    (ltn h : Nat) (m : Memory) :
    (cSplit (ps.map (s.winPart ltn h)) bs).foldl (fun m x => m.setN x.1.key x.2) m = m.setN (tileBase h + off) bs := by
  rcases hc with rfl | ⟨i, h1, h2, rfl⟩
  · have ht : bs.take n = bs := by rw [← hn, List.take_length]
    simp only [List.map_cons, List.map_nil, cSplit, s.winPart_n, ht, List.foldl_cons, List.foldl_nil, s.winPart_key]
  · have ht : (bs.drop i).take (n - i) = bs.drop i := by rw [← hn, ← List.length_drop, List.take_length]
    have hl : (bs.take i).length = i := by rw [List.length_take, hn]; exact Nat.min_eq_left (Nat.le_of_lt h2)
    have e := m.setN_append (tileBase h + off) (bs.take i) (bs.drop i)
    rw [List.take_append_drop, hl, Nat.add_assoc] at e
    simp only [List.map_cons, List.map_nil, cSplit, s.winPart_n, ht, List.foldl_cons, List.foldl_nil, s.winPart_key, e]

/-! ### Loads and stores of a tile in its launch's window -/

theorem sextN_eq_toInt {w : Nat} (hw : 0 < w) (v : Nat) : sextN w v = (BitVec.ofNat w v).toInt := by
  obtain ⟨k, rfl⟩ := Nat.exists_eq_add_of_lt hw
  simp only [sextN, BitVec.toInt, BitVec.toNat_ofNat, Nat.zero_add, Nat.add_sub_cancel, Nat.pow_succ]
  split_ifs <;> omega

theorem szBytes_cases (sz : BitVec 2) : szBytes sz = 1 ∨ szBytes sz = 2 ∨ szBytes sz = 4 ∨ szBytes sz = 8 := by
  revert sz
  decide

/-- Without a prefix the effective address takes the instruction's own offset (R155). -/
theorem State.ea_plain {s : State} (x : Reg) (o : BitVec 14) (hp : s.cur.pfx = none) : s.ea x o = s.g x + o.signExtend 64 := by
  rw [State.ea, State.simm_eq, State.immSigned, State.imxValue, hp]
  rfl

/-- A state that agrees in what the stream looks at stands as plainly. -/
theorem State.plainAt_congr {s u : State} {a : CodeAddr} (h : s.plainAt a) (hw : u.who = s.who) (hc : u.cur = s.cur)
    (hi : u.image = s.image) : u.plainAt a := by
  unfold State.plainAt State.hasCore State.hasSucc State.noBoundary at *
  rwa [hw, hc, hi]

theorem State.onTile.gid {s : State} {g : Nat} (h : s.onTile g) : s.gid = g := by
  have hw : s.who = .tile g := h
  rw [State.gid, hw]

theorem State.onTile.cur {s : State} {g : Nat} (h : s.onTile g) : s.cur = (s.tile g).tcc := by
  have hw : s.who = .tile g := h
  rw [State.cur, hw, State.tccOf]

theorem State.onTile.onCore {s : State} {g : Nat} (h : s.onTile g) : s.onCore = false := by
  have hw : s.who = .tile g := h
  rw [State.onCore, hw]

/-- The image that a tile runs depends on its control core and its binding. -/
theorem State.onTile.image_congr {s u : State} {g : Nat} (hs : s.onTile g) (hu : u.onTile g) (ht : (u.tile g).tcc = (s.tile g).tcc)
    (hb : (u.tile g).bound = (s.tile g).bound) (hl : u.launches = s.launches) (hf : u.fw = s.fw) : u.image = s.image := by
  have hw : s.who = .tile g := hs
  have hv : u.who = .tile g := hu
  simp only [State.image, State.launchOf, hw, hv, ht, hb, hl, hf]

/-- A change of the executing tile beside its control core and its binding leaves it where it stands. -/
theorem State.plainAt_updMe {s : State} {g : Nat} {a : CodeAddr} (h : s.plainAt a) (ho : s.onTile g) (f : Tile → Tile)
    (ht : (f (s.tile g)).tcc = (s.tile g).tcc) (hb : (f (s.tile g)).bound = (s.tile g).bound) : (s.updMe f).plainAt a := by
  have hu : (s.updMe f).tile g = f (s.tile g) := by rw [State.updMe, ho.gid, State.tile_updTile_same]
  have ho' : (s.updMe f).onTile g := ho
  refine State.plainAt_congr h rfl ?_ (ho.image_congr ho' (by rw [hu, ht]) (by rw [hu, hb]) rfl rfl)
  rw [ho'.cur, ho.cur, hu, ht]

theorem State.onTile.inWindow {s : State} {g k ltn h : Nat} {l : Launch} (ho : s.onTile g) (hb : (s.tile g).bound = some k)
    (hl : AMap.find? s.launches k = some l) (hs : l.st ≠ .saved) (ht : l.tiles[ltn]? = some h) (hn : ltn < 2 ^ 24) (hg : h < 256)
    (hh : (s.tile h).bound = some k) (hi : s.sockOut (h / 16 + 1) = false) : s.InWindow k ltn h where
  space := by
    have hw : s.who = .tile g := ho
    simp [State.space, hw, hb]
  named := ⟨l, hl, hs, ht⟩
  ltn := hn
  gid := hg
  bound := hh
  inService := hi

theorem winBase_aligned {ltn off n : Nat} (hn : n = 1 ∨ n = 2 ∨ n = 4 ∨ n = 8) (h : off % n = 0) : (winBase ltn + off) % n = 0 := by
  have := winBase_mod ltn
  rcases hn with rfl | rfl | rfl | rfl <;> omega

/-- The size of an access is at least 1 and at most 8. -/
theorem szBytes_bounds (sz : BitVec 2) : 0 < szBytes sz ∧ szBytes sz ≤ 8 := by
  rcases szBytes_cases sz with h | h | h | h <;> rw [h] <;> decide

/-- The checks of a load in the window pass, and the parts are the pieces of its bytes. -/
theorem State.InWindow.loadChecks {s : State} {k ltn h off n : Nat} {ea : Word} {al : Bool} (w : s.InWindow k ltn h)
    (hea : ea.toNat = winBase ltn + off) (h0 : 0 < n) (h8 : n ≤ 8) (hsp : off + n ≤ (s.tile h).spBytes) (ho : off + n ≤ 0x600000)
    (ha : al = true → ea.toNat % n = 0) :
    ∃ ps, s.cCheck ea n false al = .ok (ps.map (s.winPart ltn h)) s ∧ cutOf off n ps := by
  obtain ⟨ps, hps, hc, _⟩ := pieces_window ltn off h0 h8
  refine ⟨ps, w.cCheck_ok hea ho h0 hps hc ha (fun p hp => ?_), hc⟩
  have := cutOf_mem hc h0 p hp
  exact s.cWindow_load _ _ (by omega) (by omega)

/-- A load in the window gives the bytes there; an LDA leaves L1 empty (R158, R313). -/
theorem State.InWindow.cLoad {s : State} {k ltn h off n : Nat} {ea : Word} {acq : Bool} (w : s.InWindow k ltn h) (hs : s.clean)
    (hea : ea.toNat = winBase ltn + off) (h0 : 0 < n) (h8 : n ≤ 8) (hsp : off + n ≤ (s.tile h).spBytes) (ho : off + n ≤ 0x600000)
    (ha : acq = true → ea.toNat % n = 0) :
    s.cLoad ea n acq = .ok (ofBytes (s.mem.getN (tileBase h + off) n)) (if acq then s.l1Drop else s) := by
  obtain ⟨ps, hck, hc⟩ := w.loadChecks hea h0 h8 hsp ho ha
  have hin : ∀ p ∈ ps.map (s.winPart ltn h), p.AtTile ∧ p.kind = .rc := fun x hx => by
    obtain ⟨p, hp, rfl⟩ := List.mem_map.mp hx
    have := cutOf_mem hc h0 p hp
    exact ⟨s.winPart_atTile w.gid (by omega), rfl⟩
  have hbytes : (ps.map (s.winPart ltn h)).flatMap (fun p => s.mem.getN p.key p.n) = s.mem.getN (tileBase h + off) n := by
    rw [List.flatMap_map]
    exact cutOf_getN hc s.mem (tileBase h)
  have hrc : (ps.map (s.winPart ltn h)).all (fun p => decide (p.kind = .rc)) = true :=
    List.all_eq_true.mpr (fun p hp => decide_eq_true (hin p hp).2)
  rw [State.cLoad, hck, Res.andThen_ok, hrc]
  simp only [Bool.and_true]
  rw [s.cReads_tile hs (fun p hp => (hin p hp).1), hbytes, Res.andThen_ok]

/-- A store in the window below what is reserved writes its bytes, and nothing else changes. -/
theorem State.InWindow.cStore {s : State} {k ltn h off n : Nat} {ea : Word} {rel : Bool} (w : s.InWindow k ltn h) (hs : s.bad = [])
    (hea : ea.toNat = winBase ltn + off) (h0 : 0 < n) (h8 : n ≤ 8) (hlo : off + n ≤ (s.tile h).lowReserved) (ho : off + n ≤ 0x600000)
    (ha : rel = true → ea.toNat % n = 0) (v : Nat) :
    s.cStore ea n v rel = .ok () { s with mem := s.mem.setN (tileBase h + off) (leBytes n v) } := by
  obtain ⟨ps, hps, hc, _⟩ := pieces_window ltn off h0 h8
  have hck : s.cCheck ea n true rel = .ok (ps.map (s.winPart ltn h)) s := w.cCheck_ok hea ho h0 hps hc ha (fun p hp => by
    have := cutOf_mem hc h0 p hp
    exact s.cWindow_store _ _ (by omega) (by omega))
  have hin : ∀ p ∈ ps.map (s.winPart ltn h), p.AtTile := fun x hx => by
    obtain ⟨p, hp, rfl⟩ := List.mem_map.mp hx
    have := cutOf_mem hc h0 p hp
    exact s.winPart_atTile w.gid (by omega)
  rw [State.cStore, hck, Res.andThen_ok, s.cWrites_tile hs hin, s.cutOf_setN hc (length_leBytes n v)]

/-- A store of one piece to what is reserved raises the queue-region fault, or a remote error at another tile (R28). -/
theorem State.InWindow.cStore_queues {s : State} {g k ltn h off n : Nat} {ea : Word} (w : s.InWindow k ltn h) (hg : s.onTile g)
    (hea : ea.toNat = winBase ltn + off) (h0 : 0 < n) (h8 : n ≤ 8) (hlo : (s.tile h).lowReserved ≤ off)
    (hsp : off + n ≤ (s.tile h).spBytes) (ho : off + n ≤ 0x600000) (hcut : off % 128 + n ≤ 128) (v : Nat) :
    s.cStore ea n v false = .trap (if g = h then TrapI.mk3 12 0 (BitVec.ofNat 64 off)
      else TrapI.mk3 35 7 (BitVec.ofNat 64 (tileBase h + off))) s := by
  obtain ⟨ps, hps, _, hone⟩ := pieces_window ltn off h0 h8
  rw [hone hcut] at hps
  have hw := s.cWindow_queues (winBase ltn + off) (tileBase h + off) h0 hsp ho hlo
  rw [hg.onCore, hg.gid, Bool.not_false, Bool.true_and] at hw
  rw [State.cStore, w.cCheck_trap hea ho h0 hps hw, Res.andThen_trap]
  simp only [decide_eq_true_eq]

/-- A prefetch of an address in the window does nothing (R160). -/
theorem State.InWindow.prefetch {s : State} {k ltn h off : Nat} {ea : Word} (w : s.InWindow k ltn h)
    (hea : ea.toNat = winBase ltn + off) (hsp : off + 1 ≤ (s.tile h).spBytes) (ho : off + 1 ≤ 0x600000) : s.prefetch ea = s := by
  obtain ⟨ps, hck, rfl | ⟨m, h1, h2, _⟩⟩ := w.loadChecks (al := false) hea Nat.one_pos (by decide) hsp ho (fun h => absurd h Bool.false_ne_true)
  · rw [State.prefetch, hck]
    rfl
  · omega

/-- Settles O33: the bytes of a window are those of the tile's own, whatever tile of the launch reads or writes them. -/
theorem windowAccesses : Obligations.WindowAccesses := by
  unfold Obligations.WindowAccesses
  constructor
  · intro s g k ltn h off l d x sz o a hg ha hp hb hl hst ht hn hh hbh hs hi hea n hsp ho v
    have w := hg.inWindow hb hl hst ht hn hh hbh hi
    obtain ⟨h0, h8⟩ := szBytes_bounds sz
    rw [← winBase_eq, ← State.ea_plain x o hp] at hea
    have hn1 : 1 ≤ n := h0
    have far : s.pfxOk (decide (o = 0)) true := s.pfxOk_none _ _ hp
    have loads (acq : Bool) (ext : Nat → Word) (u : State) (hu : (if acq then s.l1Drop else s) = u) (hpl : u.plainAt a)
        (hal : acq = true → off % n = 0) : s.loadTo d x sz o acq ext = .next ((u.setG d (ext v)).goneTo a) := by
      have hld : s.cLoad (s.ea x o) (szBytes sz) acq = .ok v u := hu ▸ w.cLoad hs hea h0 h8 hsp ho (fun h => by
        rw [hea]
        exact winBase_aligned (szBytes_cases sz) (hal h))
      exact State.runImm_plain s _ o true _ a (by rw [hld, Res.andThen_ok]) (State.plainAt_setG u d _ a hpl) far
    have hdrop : s.l1Drop = s.updMe (fun t => { t with l1 := [] }) := if_neg (by rw [hg.onCore]; exact Bool.false_ne_true)
    refine ⟨?_, ?_, ?_, fun hal => ?_⟩
    · rw [exec_ld]
      exact loads false _ s rfl ha (fun h => absurd h Bool.false_ne_true)
    · have hext : w64 (sextN (8 * szBytes sz) v) = BitVec.ofInt 64 (BitVec.ofNat (8 * n) v).toInt :=
        congrArg (BitVec.ofInt 64) (sextN_eq_toInt (by omega) v)
      rw [exec_lds, ← hext]
      exact loads false (fun v => w64 (sextN (8 * szBytes sz) v)) s rfl ha (fun h => absurd h Bool.false_ne_true)
    · rw [exec_pfl]
      refine State.runImm_plain s s o true _ a ?_ ha far
      rw [w.prefetch hea (by omega) (by omega)]
    · rw [exec_lda]
      exact loads true _ _ hdrop (State.plainAt_updMe ha hg _ rfl rfl) (fun _ => hal)
  · intro s g k ltn h off l d x sz o a hg ha hp hb hl hst ht hn hh hbh hs hi hea n sp lo hsp ho done
    have w := hg.inWindow hb hl hst ht hn hh hbh hi
    obtain ⟨h0, h8⟩ := szBytes_bounds sz
    have ho6 : off + szBytes sz ≤ 0x600000 := hsp.trans ho
    rw [← winBase_eq, ← State.ea_plain x o hp] at hea
    have far : s.pfxOk (decide (o = 0)) true := s.pfxOk_none _ _ hp
    have stores (rel : Bool) (hlo : off + n ≤ lo) (hal : rel = true → off % n = 0) : s.storeFrom d x sz o rel = done := by
      have hst := w.cStore hs hea h0 h8 hlo ho6 (rel := rel) (fun h => by
        rw [hea]
        exact winBase_aligned (szBytes_cases sz) (hal h)) (s.g d).toNat
      exact State.runImm_plain s _ o true _ a (by rw [hst]; rfl) ha far
    refine ⟨fun hlo => ⟨?_, fun hal => ?_⟩, fun hlo hcut => ?_⟩
    · rw [exec_st]
      exact stores false hlo (fun h => absurd h Bool.false_ne_true)
    · rw [exec_stl]
      exact stores true hlo (fun _ => hal)
    · have hst := w.cStore_queues hg hea h0 h8 hlo hsp ho6 hcut (s.g d).toNat
      rw [exec_st, execSt, State.storeFrom, State.runImm]
      refine State.run_trap hp ?_
      rw [hst, Res.andThen_trap]

end Sys2Proof.Machine

/-! SUPPORT. Issue of engine instructions (R24 to R29, R36, R106 to R110): what the entry that joins a queue leaves in the tile and in
the queue's chain, and what waits. -/

namespace Sys2Proof.Machine

/-! ### Bits and tag counts (R36) -/

theorem getLsbD_setBit {n : Nat} (v : BitVec n) {i : Nat} (hi : i < n) (b : Bool) (j : Nat) :
    (setBit v i b).getLsbD j = if j = i then b else v.getLsbD j := by
  have ht : BitVec.ofNat n (2 ^ i) = BitVec.twoPow n i := by
    exact BitVec.eq_of_toNat_eq (by rw [BitVec.toNat_ofNat, BitVec.toNat_twoPow])
  by_cases hj : j = i
  · subst hj
    cases b <;> simp [setBit, ht, hi]
  · by_cases hn : j < n
    · cases b <;> simp [setBit, ht, hj, hn]
    · have hv : v.getLsbD j = false := BitVec.getLsbD_of_ge v j (by omega)
      cases b <;> simp [setBit, ht, hj, hn, hv]
      omega

theorem Tile.tagCount_eq (t : Tile) (i : Nat) : t.tagCount i = t.tagn.toNat / 2 ^ (8 * i) % 256 := by
  rw [Tile.tagCount, bitsN, show 8 * i + 7 + 1 - 8 * i = 8 by omega]
  rfl

/-- Replacing byte c of a number by m. -/
theorem replace_byte {A p c m N : Nat} (hp : 0 < p) (hc : c = A / p % 256) (hm : m < 256) (hA : A < 256 * p * N) :
    (A - c * p + m * p) / p % 256 = m ∧ A - c * p + m * p < 256 * p * N := by
  have h1 := Nat.div_add_mod A p
  have h2 := Nat.div_add_mod (A / p) 256
  have hlo := Nat.mod_lt A hp
  have hN : A / p / 256 < N := by
    rw [Nat.div_div_eq_div_mul, Nat.mul_comm p 256]
    exact Nat.div_lt_of_lt_mul hA
  rw [← hc] at h2
  have e : A - c * p + m * p = p * (256 * (A / p / 256) + m) + A % p := by
    have : A = p * (256 * (A / p / 256)) + c * p + A % p := by
      conv_lhs => rw [← h1, ← h2]
      ring
    have e2 : A - c * p = p * (256 * (A / p / 256)) + A % p := by omega
    rw [e2]
    ring
  rw [e]
  constructor
  · rw [Nat.mul_add_div hp, Nat.div_eq_of_lt hlo]
    omega
  · calc p * (256 * (A / p / 256) + m) + A % p < p * (256 * (A / p / 256) + m) + p := by omega
      _ = p * (256 * (A / p / 256) + m + 1) := by ring
      _ ≤ p * (256 * N) := Nat.mul_le_mul_left _ (by omega)
      _ = 256 * p * N := by ring

set_option exponentiation.threshold 512 in
/-- A tag's count reads as it was set. -/
theorem Tile.tagCount_setTagCount (t : Tile) {i : Nat} (hi : i < 64) (n : Nat) : (t.setTagCount i n).tagCount i = n % 256 := by
  have hA : t.tagn.toNat < 256 * 2 ^ (8 * i) * 2 ^ (504 - 8 * i) := by
    have h := t.tagn.isLt
    have e : 256 * 2 ^ (8 * i) * 2 ^ (504 - 8 * i) = 2 ^ 512 := by
      rw [show (256 : Nat) = 2 ^ 8 from rfl, ← Nat.pow_add, ← Nat.pow_add]
      congr 1
      omega
    exact lt_of_lt_of_eq h e.symm
  obtain ⟨h1, h2⟩ := replace_byte (Nat.two_pow_pos (8 * i)) (t.tagCount_eq i) (Nat.mod_lt n (by decide)) hA
  have e : 256 * 2 ^ (8 * i) * 2 ^ (504 - 8 * i) = 2 ^ 512 := by
    rw [show (256 : Nat) = 2 ^ 8 from rfl, ← Nat.pow_add, ← Nat.pow_add]
    congr 1
    omega
  rw [e] at h2
  rw [Tile.tagCount_eq, Tile.setTagCount]
  simp only [BitVec.toNat_ofNat]
  rw [Nat.mod_eq_of_lt h2, h1]


/-! ### An entry joins a queue (R24 to R27) -/

theorem Tile.queue_setQueue_same (t : Tile) (q : Q) (x : Queue) : (t.setQueue q x).queue q = x := by
  cases q <;> rfl

theorem Tile.queue_setQueue_other (t : Tile) {q q' : Q} (x : Queue) (h : q' ≠ q) : (t.setQueue q x).queue q' = t.queue q' := by
  cases q <;> cases q' <;> first | rfl | exact absurd rfl h

theorem QEntry.length_bytes (e : QEntry) (link : BitVec 32) : (e.bytes link).length = 64 := by
  simp [QEntry.bytes, length_leBytes]

/-- An entry's bytes begin with the words of its command. -/
theorem QEntry.bytes_cmd (e : QEntry) (link : BitVec 32) : e.bytes link = leBytes 8 e.cmd.toNat ++ (e.bytes link).drop 8 := by
  simp [QEntry.bytes, length_leBytes]

/-- The bytes that begin a string are read where it was written. -/
theorem Memory.getN_setN_prefix (m : Memory) (k : Nat) (w : m.wf = true) {bs p r : List Byte} (hb : bs = p ++ r) {n : Nat}
    (hn : p.length = n) : (m.setN k bs).getN k n = p := by
  have h := Memory.getN_setN bs m k w
  have hl : bs.length = n + r.length := by rw [hb, List.length_append, hn]
  rw [hl, Memory.getN_add] at h
  exact (List.append_inj (h.trans hb) ((Memory.length_getN _ _ _).trans hn.symm)).1

/-- A link's index (Table 1.4). -/
theorem fld_index (v : BitVec 32) : fld v 23 0 = v.toNat % 2 ^ 24 := by
  simp [fld, bitsN]

/-- The queue once an entry has joined it. -/
def Queue.joined (tcfg : Word) (q : Q) (x : Queue) (en : QEntry) : Queue :=
  { x with
    ents := x.ents ++ [en]
    isn := en.isn
    tail := nextPos tcfg q x x.tail
    head := match x.ents with
      | [] => x.tail
      | _ :: _ => x.head }

/-- The tile once an entry has joined one of its queues. -/
def Tile.appended (t : Tile) (q : Q) (en : QEntry) : Tile :=
  (t.setQueue q (Queue.joined t.tcfg q (t.queue q) en)).bump (128 + q.code)

/-- The tile once an engine instruction is issued: the entry, the tag, the open batch. -/
def Tile.afterIssue (t : Tile) (i : Instr) (e : Eng) (q : Q) (en : QEntry) : Tile :=
  { t.appended q en with
    tags := if i.isCopy then setBit t.tags e.tag.toNat false else t.tags
    tagn := if i.isCopy then (t.setTagCount e.tag.toNat (t.tagCount e.tag.toNat + 1)).tagn else t.tagn
    openBatch := if e.bat then t.openBatch ++ [(q, en.isn)] else t.openBatch }

/-- Issue goes step by step: the entry, then the tag, then the open batch. -/
theorem Tile.afterIssue_eq (t : Tile) (i : Instr) (e : Eng) (q : Q) (en : QEntry) :
    t.afterIssue i e q en =
      (let t1 := if i.isCopy then (t.appended q en).tagIssue e.tag.toNat else t.appended q en
       if e.bat then { t1 with openBatch := t1.openBatch ++ [(q, en.isn)] } else t1) := by
  unfold Tile.afterIssue
  cases i.isCopy <;> cases e.bat <;> cases q <;> rfl

/-- The package once an entry's bytes stand in its queue's chain. -/
def State.chained (s : State) (k : Nat) (q : Q) (en : QEntry) : State :=
  let x := (s.tile k).queue q
  if bit x.tail 31 then s
  else s.storeHome (tileBase k + x.tail.toNat % 2 ^ 24 * 64) (en.bytes (nextPos (s.tile k).tcfg q x x.tail))

/-- The entry that an engine instruction issues. -/
def State.entryOf (s : State) (i : Instr) (e : Eng) (q : Q) : QEntry :=
  let ops := s.capture i e
  s.newEntry q (cmdWord i) ops.1 ops.2.1 ops.2.2 s.ximm (s.scope .domain) none

theorem State.storeHome_setTile (s : State) (k : Nat) (t : Tile) (key : Nat) (bs : List Byte) :
    (s.setTile k t).storeHome key bs = (s.storeHome key bs).setTile k t := by
  unfold State.storeHome
  split
  · rename_i h
    rw [if_pos (show s.bad.isEmpty = true from h)]
    rfl
  · rename_i h
    rw [if_neg (show ¬ s.bad.isEmpty = true from h)]
    rfl

/-- A write of the machine's own changes memory and the marks of storage errors alone. -/
theorem State.storeHome_rest (s : State) (key : Nat) (bs : List Byte) :
    { s.storeHome key bs with mem := s.mem, bad := s.bad } = s := by
  unfold State.storeHome
  split <;> rfl

theorem State.storeHome_bad (s : State) (key : Nat) (bs : List Byte) : ∀ w ∈ (s.storeHome key bs).bad, w ∈ s.bad := by
  unfold State.storeHome
  split
  · exact fun w h => h
  · exact fun w h => (List.mem_filter.mp h).1

theorem State.append_eq {s : State} {k : Nat} (ho : s.onTile k) (q : Q) (en : QEntry) :
    s.append q en = (s.chained k q en).setTile k ((s.tile k).appended q en) := by
  have hme : s.me = s.tile k := by rw [State.me, ho.gid]
  have hg (t : Tile) : (s.setTile k t).gid = k := State.onTile.gid (s := s.setTile k t) ho
  unfold State.append State.chained
  simp only [hme, State.updMe, ho.gid, State.updTile, hg, fld_index]
  split
  · rfl
  · rw [State.storeHome_setTile]
    rfl

/-- Chaining an entry changes memory and the marks of storage errors alone. -/
theorem State.chained_rest (s : State) (k : Nat) (q : Q) (en : QEntry) : { s.chained k q en with mem := s.mem, bad := s.bad } = s := by
  unfold State.chained
  dsimp only
  by_cases h : bit ((s.tile k).queue q).tail 31 = true
  · rw [if_pos h]
  · rw [if_neg h, State.storeHome_rest]

theorem State.chained_tile (s : State) (k : Nat) (q : Q) (en : QEntry) (g : Nat) : (s.chained k q en).tile g = s.tile g := by
  have h := congrArg State.tiles (s.chained_rest k q en)
  exact congrArg (fun m => AMap.getD m g Tile.reset) h

theorem State.chained_onTile {s : State} {k : Nat} (ho : s.onTile k) (q : Q) (en : QEntry) : (s.chained k q en).onTile k := by
  have h := congrArg State.who (s.chained_rest k q en)
  exact Eq.trans h ho

theorem State.chained_bad (s : State) (k : Nat) (q : Q) (en : QEntry) : ∀ w ∈ (s.chained k q en).bad, w ∈ s.bad := by
  unfold State.chained
  dsimp only
  by_cases h : bit ((s.tile k).queue q).tail 31 = true
  · rw [if_pos h]
    exact fun w hw => hw
  · rw [if_neg h]
    exact State.storeHome_bad _ _ _

/-- No byte outside an entry's 64 changes, and none where it stands in the die's pool. -/
theorem State.chained_get_other {s : State} (w : s.mem.wf = true) (k : Nat) (q : Q) (en : QEntry) {j : Nat}
    (h : ((s.tile k).queue q).tail.getLsbD 31 = true ∨ j < tileBase k + ((s.tile k).queue q).tail.toNat % 2 ^ 24 * 64 ∨
      tileBase k + ((s.tile k).queue q).tail.toNat % 2 ^ 24 * 64 + 64 ≤ j) : (s.chained k q en).mem.get j = s.mem.get j := by
  unfold State.chained
  dsimp only
  by_cases hb : bit ((s.tile k).queue q).tail 31 = true
  · rw [if_pos hb]
  · rw [if_neg hb]
    refine State.storeHome_get_other _ _ _ _ w ?_
    rw [QEntry.length_bytes]
    exact h.resolve_left hb

/-- The first 8 bytes of an entry are the words of its command. -/
theorem State.chained_cmd {s : State} (w : s.mem.wf = true) (hbad : s.bad = []) (k : Nat) (q : Q) (en : QEntry)
    (h : ((s.tile k).queue q).tail.getLsbD 31 = false) :
    (s.chained k q en).mem.getN (tileBase k + ((s.tile k).queue q).tail.toNat % 2 ^ 24 * 64) 8 = leBytes 8 en.cmd.toNat := by
  unfold State.chained
  dsimp only
  rw [if_neg (show ¬ bit ((s.tile k).queue q).tail 31 = true by rw [bit, h]; exact Bool.false_ne_true), State.storeHome_clean _ _ _ hbad]
  have hl := length_leBytes 8 en.cmd.toNat
  have hb := QEntry.bytes_cmd en (nextPos (s.tile k).tcfg q ((s.tile k).queue q) ((s.tile k).queue q).tail)
  generalize leBytes 8 en.cmd.toNat = p at *
  generalize tileBase k + ((s.tile k).queue q).tail.toNat % 2 ^ 24 * 64 = key
  dsimp only
  exact Memory.getN_setN_prefix s.mem key w hb hl

theorem State.issueOne_eq {s : State} {k : Nat} (ho : s.onTile k) (i : Instr) (e : Eng) (q : Q) :
    s.issueOne i e q = (s.chained k q (s.entryOf i e q)).setTile k ((s.tile k).afterIssue i e q (s.entryOf i e q)) := by
  have hu (t : Tile) (f : Tile → Tile) : ((s.chained k q (s.entryOf i e q)).setTile k t).updMe f =
      (s.chained k q (s.entryOf i e q)).setTile k (f t) := by
    rw [State.updMe, State.onTile.gid (s := (s.chained k q (s.entryOf i e q)).setTile k t) (s.chained_onTile ho _ _), State.updTile,
      State.tile_setTile_same, State.setTile_setTile]
  have hen : s.issueOne i e q =
      (let u := s.append q (s.entryOf i e q)
       let v := if i.isCopy then u.updMe (fun t => t.tagIssue e.tag.toNat) else u
       if e.bat then v.updMe (fun t => { t with openBatch := t.openBatch ++ [(q, (s.entryOf i e q).isn)] }) else v) := by
    unfold State.issueOne State.entryOf
    rcases s.capture i e with ⟨o0, o1, o2⟩
    rfl
  rw [hen, State.append_eq ho]
  rw [Tile.afterIssue_eq]
  cases i.isCopy <;> cases e.bat <;> simp only [hu, if_true, if_false, Bool.false_eq_true]

/-! ### What an issue leaves in the tile -/

theorem Tile.queue_afterIssue_same (t : Tile) (i : Instr) (e : Eng) (q : Q) (en : QEntry) :
    (t.afterIssue i e q en).queue q = Queue.joined t.tcfg q (t.queue q) en := by
  cases q <;> rfl

theorem Tile.queue_afterIssue_other (t : Tile) (i : Instr) (e : Eng) {q q' : Q} (en : QEntry) (h : q' ≠ q) :
    (t.afterIssue i e q en).queue q' = t.queue q' := by
  rw [← Tile.queue_setQueue_other t (Queue.joined t.tcfg q (t.queue q) en) h]
  cases q' <;> rfl

/-- The entry's fields at its issue (Table 1.4). -/
theorem State.entryOf_fields {s : State} {k : Nat} (ho : s.onTile k) (i : Instr) (e : Eng) (q : Q) :
    (s.entryOf i e q).cmd = cmdWord i ∧ ((s.entryOf i e q).opv0, (s.entryOf i e q).opv1, (s.entryOf i e q).opv2) = s.capture i e ∧
    (s.entryOf i e q).ximm = s.ximm ∧ (s.entryOf i e q).isn = ((s.tile k).queue q).isn + 1 ∧ (s.entryOf i e q).st = .waiting ∧
    (s.entryOf i e q).at_ = ((s.tile k).queue q).tail ∧ (s.entryOf i e q).atM = s.cur.atM ∧
    (s.entryOf i e q).scope = s.scope .domain := by
  have hme : s.me = s.tile k := by rw [State.me, ho.gid]
  rw [ho.cur, ← hme]
  exact ⟨rfl, rfl, rfl, rfl, rfl, rfl, rfl, rfl⟩

/-! ### Which instructions an issue holds back (R29, R36, R187) -/

theorem Queue.isFull_iff (x : Queue) : x.isFull = true ↔ ¬ x.ents.length < 256 + 256 * x.segs.length := by
  rw [Queue.isFull, decide_eq_true_iff, Nat.not_lt]
  rfl

theorem State.onTile.me {s : State} {k : Nat} (ho : s.onTile k) : s.me = s.tile k := by rw [State.me, ho.gid]

/-- The issue of an engine instruction that its queue and its tag have room for, its batch open. -/
def issueNow (i : Instr) (e : Eng) (q : Q) (s : State) : Res Flow := if e.fol then s.issuePair i e q else .ok .seq (s.issueOne i e q)

theorem issueBody_full {s : State} {k : Nat} (ho : s.onTile k) {i : Instr} {e : Eng} {q : Q}
    (h : ((s.tile k).queue q).isFull = true) : issueBody i e q s = .wait s := by
  simp [issueBody, ho.onCore, ho.me, h]

theorem issueBody_tag {s : State} {k : Nat} (ho : s.onTile k) {i : Instr} {e : Eng} {q : Q} (hi : i.isCopy = true)
    (h : (s.tile k).tagCount e.tag.toNat = 255) : issueBody i e q s = .wait s := by
  simp [issueBody, ho.onCore, ho.me, hi, h]

/-- With room in its queue and on its tag, an instruction waits for a batch that cannot be closed alone. -/
theorem issueBody_room {s : State} {k : Nat} (ho : s.onTile k) {i : Instr} {e : Eng} {q : Q}
    (h : ((s.tile k).queue q).isFull = false) (ht : i.isCopy = true → (s.tile k).tagCount e.tag.toNat ≠ 255) :
    issueBody i e q s =
      if e.bat && decide (65535 ≤ (s.tile k).openBatch.length) then
        (match s.bclose with
         | none => .wait s
         | some t' => issueNow i e q (s.updMe (fun _ => t')))
      else issueNow i e q s := by
  have hc : (i.isCopy && decide ((s.tile k).tagCount e.tag.toNat = 255)) = false := by
    simpa using ht
  simp only [issueBody, ho.onCore, ho.me, h, Bool.false_eq_true, if_false, hc]
  rfl

theorem issueBody_open {s : State} {k : Nat} (ho : s.onTile k) {i : Instr} {e : Eng} {q : Q}
    (h : ((s.tile k).queue q).isFull = false) (ht : i.isCopy = true → (s.tile k).tagCount e.tag.toNat ≠ 255)
    (hb : e.bat = true → (s.tile k).openBatch.length < 65535) : issueBody i e q s = issueNow i e q s := by
  have hc : (e.bat && decide (65535 ≤ (s.tile k).openBatch.length)) = false := by simpa using hb
  rw [issueBody_room ho h ht, hc]
  rfl

/-- An open batch that is not empty closes while fewer than 16 are outstanding (R187). -/
theorem State.bclose_eq {s : State} {k : Nat} (ho : s.onTile k) (h : (s.tile k).openBatch ≠ []) :
    s.bclose =
      if 16 ≤ (s.openBatches k (s.tile k).batches).length then none
      else some { s.tile k with
        openBatch := []
        batches := s.openBatches k (s.openBatches k (s.tile k).batches ++ [(s.tile k).openBatch]) } := by
  have he : (s.tile k).openBatch.isEmpty = false := by
    rw [List.isEmpty_eq_false_iff]; exact h
  simp only [State.bclose, ho.me, ho.gid, he, Bool.false_eq_true, if_false]

/-! ### The package after an issue -/

theorem State.issueOne_tile {s : State} {k : Nat} (ho : s.onTile k) (i : Instr) (e : Eng) (q : Q) :
    (s.issueOne i e q).tile k = (s.tile k).afterIssue i e q (s.entryOf i e q) := by
  rw [State.issueOne_eq ho, State.tile_setTile_same]

theorem State.issueOne_rest {s : State} {k : Nat} (ho : s.onTile k) (i : Instr) (e : Eng) (q : Q) :
    { s.issueOne i e q with tiles := s.tiles, mem := s.mem, bad := s.bad } = s := by
  rw [State.issueOne_eq ho]
  exact congrArg (fun u : State => { u with tiles := s.tiles }) (s.chained_rest k q (s.entryOf i e q))

theorem State.issueOne_onTile {s : State} {k : Nat} (ho : s.onTile k) (i : Instr) (e : Eng) (q : Q) : (s.issueOne i e q).onTile k := by
  have h := congrArg State.who (s.issueOne_rest ho i e q)
  exact Eq.trans h ho

theorem Tile.afterIssue_tcc (t : Tile) (i : Instr) (e : Eng) (q : Q) (en : QEntry) : (t.afterIssue i e q en).tcc = t.tcc := by
  cases q <;> rfl

theorem Tile.afterIssue_batches (t : Tile) (i : Instr) (e : Eng) (q : Q) (en : QEntry) :
    (t.afterIssue i e q en).batches = t.batches := by
  cases q <;> rfl

theorem State.issueOne_cur {s : State} {k : Nat} (ho : s.onTile k) (i : Instr) (e : Eng) (q : Q) : (s.issueOne i e q).cur = s.cur := by
  rw [(s.issueOne_onTile ho i e q).cur, State.issueOne_tile ho, Tile.afterIssue_tcc, ho.cur]

theorem State.issueOne_image {s : State} {k : Nat} (ho : s.onTile k) (i : Instr) (e : Eng) (q : Q) :
    (s.issueOne i e q).image = s.image := by
  have hl := congrArg State.launches (s.issueOne_rest ho i e q)
  have hf := congrArg State.fw (s.issueOne_rest ho i e q)
  refine ho.image_congr (s.issueOne_onTile ho i e q) ?_ ?_ hl hf
  · rw [State.issueOne_tile ho, Tile.afterIssue_tcc]
  · rw [State.issueOne_tile ho]
    cases q <;> rfl

theorem State.issueOne_plainAt {s : State} {k : Nat} {a : CodeAddr} (ho : s.onTile k) (ha : s.plainAt a) (i : Instr) (e : Eng) (q : Q) :
    (s.issueOne i e q).plainAt a :=
  State.plainAt_congr ha ((s.issueOne_onTile ho i e q).trans (Eq.symm ho)) (s.issueOne_cur ho i e q) (s.issueOne_image ho i e q)

theorem State.issueOne_bad {s : State} {k : Nat} (ho : s.onTile k) (i : Instr) (e : Eng) (q : Q) :
    ∀ w ∈ (s.issueOne i e q).bad, w ∈ s.bad := by
  rw [State.issueOne_eq ho]
  exact s.chained_bad k q _

theorem State.issueOne_tile_other {s : State} {k g : Nat} (ho : s.onTile k) (i : Instr) (e : Eng) (q : Q) (h : g ≠ k) :
    (s.issueOne i e q).tile g = s.tile g := by
  rw [State.issueOne_eq ho, State.tile_setTile_other _ _ _ _ h, State.chained_tile]

theorem State.issueOne_mem {s : State} {k : Nat} (ho : s.onTile k) (i : Instr) (e : Eng) (q : Q) :
    (s.issueOne i e q).mem = (s.chained k q (s.entryOf i e q)).mem := by
  rw [State.issueOne_eq ho, State.setTile_mem]

/-- Beside its queues, its tags, its open batch and its counters an issue leaves the tile. -/
theorem Tile.afterIssue_rest (t : Tile) (i : Instr) (e : Eng) (q : Q) (en : QEntry) :
    { t.afterIssue i e q en with
      lq := t.lq, xq := t.xq, sq := t.sq, tags := t.tags, tagn := t.tagn, openBatch := t.openBatch, counters := t.counters } = t := by
  cases q <;> rfl

theorem Tile.tags_afterIssue_other (t : Tile) {i : Instr} (e : Eng) (q : Q) (en : QEntry) (h : i.isCopy = false) :
    (t.afterIssue i e q en).tags = t.tags ∧ (t.afterIssue i e q en).tagn = t.tagn := by
  constructor <;> exact if_neg (by rw [h]; exact Bool.false_ne_true)

/-- A copy counts on its tag, whose ready bit falls (R36). -/
theorem Tile.tags_afterIssue_copy (t : Tile) {i : Instr} (e : Eng) (q : Q) (en : QEntry) (h : i.isCopy = true)
    (hn : t.tagCount e.tag.toNat ≠ 255) :
    (t.afterIssue i e q en).tagCount e.tag.toNat = t.tagCount e.tag.toNat + 1 ∧
    ∀ j, (t.afterIssue i e q en).tags.getLsbD j = (t.tags.getLsbD j && decide (j ≠ e.tag.toNat)) := by
  have htag : e.tag.toNat < 64 := e.tag.isLt
  have hlt : t.tagCount e.tag.toNat < 256 := by
    rw [Tile.tagCount_eq]
    exact Nat.mod_lt _ (by decide)
  have hn' : (t.afterIssue i e q en).tagn = (t.setTagCount e.tag.toNat (t.tagCount e.tag.toNat + 1)).tagn := if_pos h
  have ht : (t.afterIssue i e q en).tags = setBit t.tags e.tag.toNat false := if_pos h
  constructor
  · have hc := t.tagCount_setTagCount htag (t.tagCount e.tag.toNat + 1)
    rw [Nat.mod_eq_of_lt (by omega)] at hc
    rw [Tile.tagCount, hn']
    exact hc
  · intro j
    rw [ht, getLsbD_setBit _ htag]
    by_cases hj : j = e.tag.toNat
    · simp [hj]
    · simp [hj]

theorem State.ximm_eq (s : State) : s.ximm = s.immSigned (0 : BitVec 48) := by
  unfold State.ximm State.immSigned State.imxValue
  cases s.cur.pfx with
  | none => rfl
  | some p =>
    cases hm : p.imx with
    | none => simp [hm]
    | some x => simp [hm, w64, BitVec.signExtend]

theorem State.scope_eq (s : State) : s.scope .domain = (s.cur.pfx.bind (fun p => p.scp)).getD .domain := by
  unfold State.scope
  cases s.cur.pfx <;> rfl

/-- Without an IMX prefix an entry has no immediate. -/
theorem State.ximm_plain {s : State} (h : s.pfxOk false false) : s.ximm = 0 := by
  unfold State.ximm
  cases hp : s.cur.pfx with
  | none => rfl
  | some p =>
    obtain ⟨hx, _⟩ := h p hp
    cases hm : p.imx with
    | none => simp [hm]
    | some x => exact absurd (hx (by rw [hm]; rfl)) Bool.false_ne_true

/-! ### What the machine does with an engine instruction -/

section
variable {s : State} {k : Nat} {i : Instr} {e : Eng} {q : Q}

theorem exec_engine_run (he : i.eng? = some e) (hq : i.queue? = some q) (hp : s.pfxOk i.isCopy i.isCopy) :
    exec i s = match issueBody i e q s with
      | .ok f s' => .next (s'.finish f)
      | .trap t s' => .next (s'.raise t)
      | .wait s' => .next s'.waitsIn :=
  (exec_engine s he hq).trans (State.run_ok s _ _ (issueBody i e q) hp)

/-- An engine instruction waits for room in its queue (R29) and on its tag (R36). -/
theorem exec_engine_held (he : i.eng? = some e) (hq : i.queue? = some q) (hp : s.pfxOk i.isCopy i.isCopy) (ho : s.onTile k)
    (h : ((s.tile k).queue q).isFull = true ∨ (i.isCopy = true ∧ (s.tile k).tagCount e.tag.toNat = 255)) :
    exec i s = .next s.waitsIn := by
  rw [exec_engine_run he hq hp]
  obtain h | ⟨hi, h⟩ := h
  · rw [issueBody_full ho h]
  · rw [issueBody_tag ho hi h]

/-- With FOL = 0, room and its batch open, an engine instruction is issued. -/
theorem exec_engine_now (he : i.eng? = some e) (hq : i.queue? = some q) (hp : s.pfxOk i.isCopy i.isCopy) (ho : s.onTile k)
    (h : ((s.tile k).queue q).isFull = false) (ht : i.isCopy = true → (s.tile k).tagCount e.tag.toNat ≠ 255)
    (hb : e.bat = true → (s.tile k).openBatch.length < 65535) (hf : e.fol = false) {a : CodeAddr} (ha : s.plainAt a) :
    exec i s = .next ((s.issueOne i e q).goneTo a) := by
  rw [exec_engine_run he hq hp, issueBody_open ho h ht hb, issueNow, hf]
  exact congrArg Host.Outcome.next (State.finish_seq _ _ (State.issueOne_plainAt ho ha i e q))

/-- The tile once its open batch is closed. -/
def State.closed (s : State) (k : Nat) : Tile :=
  { s.tile k with
    openBatch := []
    batches := s.openBatches k (s.openBatches k (s.tile k).batches ++ [(s.tile k).openBatch]) }

/-- A batch at its bound holds its command back while 16 are outstanding (R187). -/
theorem exec_engine_batches (he : i.eng? = some e) (hq : i.queue? = some q) (hp : s.pfxOk i.isCopy i.isCopy) (ho : s.onTile k)
    (h : ((s.tile k).queue q).isFull = false) (ht : i.isCopy = true → (s.tile k).tagCount e.tag.toNat ≠ 255)
    (hb : e.bat = true) (hl : 65535 ≤ (s.tile k).openBatch.length) (hn : 16 ≤ (s.openBatches k (s.tile k).batches).length) :
    exec i s = .next s.waitsIn := by
  have hne : (s.tile k).openBatch ≠ [] := by
    rintro h0
    rw [h0] at hl
    exact absurd hl (by decide)
  rw [exec_engine_run he hq hp, issueBody_room ho h ht, hb, decide_eq_true hl, State.bclose_eq ho hne, if_pos hn]
  rfl

/-- With fewer outstanding it is closed, and the command opens the next one. -/
theorem exec_engine_closing (he : i.eng? = some e) (hq : i.queue? = some q) (hp : s.pfxOk i.isCopy i.isCopy) (ho : s.onTile k)
    (h : ((s.tile k).queue q).isFull = false) (ht : i.isCopy = true → (s.tile k).tagCount e.tag.toNat ≠ 255)
    (hb : e.bat = true) (hl : 65535 ≤ (s.tile k).openBatch.length) (hn : (s.openBatches k (s.tile k).batches).length < 16)
    (hf : e.fol = false) {a : CodeAddr} (ha : s.plainAt a) :
    exec i s = .next (((s.updMe (fun _ => s.closed k)).issueOne i e q).goneTo a) := by
  have hne : (s.tile k).openBatch ≠ [] := by
    rintro h0
    rw [h0] at hl
    exact absurd hl (by decide)
  have hc : s.bclose = some (s.closed k) := by
    rw [State.bclose_eq ho hne, if_neg (by omega)]
    rfl
  have ho' : (s.updMe (fun _ => s.closed k)).onTile k := ho
  rw [exec_engine_run he hq hp, issueBody_room ho h ht, hb, decide_eq_true hl, hc]
  simp only [Bool.and_self, if_true, issueNow, hf, Bool.false_eq_true, if_false]
  exact congrArg Host.Outcome.next (State.finish_seq _ _ (State.issueOne_plainAt ho' (State.plainAt_updMe ha ho _ rfl rfl) i e q))

end

/-! ### A copy and its follow-on (R109, R286) -/

theorem State.onTile.setCur_tile {s : State} {k : Nat} (ho : s.onTile k) (c : Tcc) : (s.setCur c).tile k = { s.tile k with tcc := c } := by
  have hw : s.who = .tile k := ho
  rw [State.setCur, hw, State.setTcc, State.tile_setTile_same]

theorem State.onTile.setCur {s : State} {k : Nat} (ho : s.onTile k) (c : Tcc) : (s.setCur c).onTile k := by
  have hw : s.who = .tile k := ho
  rw [State.setCur, hw, State.setTcc]
  exact ho

theorem State.onTile.setCur_rest {s : State} {k : Nat} (ho : s.onTile k) (c : Tcc) :
    (s.setCur c).launches = s.launches ∧ (s.setCur c).fw = s.fw := by
  have hw : s.who = .tile k := ho
  rw [State.setCur, hw]
  exact ⟨rfl, rfl⟩

/-- The image that a tile runs depends on the image its core names and on its binding. -/
theorem State.onTile.image_of_img {s u : State} {g : Nat} (hs : s.onTile g) (hu : u.onTile g)
    (ht : (u.tile g).tcc.img = (s.tile g).tcc.img) (hb : (u.tile g).bound = (s.tile g).bound) (hl : u.launches = s.launches)
    (hf : u.fw = s.fw) : u.image = s.image := by
  have hw : s.who = .tile g := hs
  have hv : u.who = .tile g := hu
  simp only [State.image, State.launchOf, hw, hv, ht, hb, hl, hf]

/-- Going on leaves what a tile holds beside its control core and its counters. -/
theorem State.onTile.goneTo_tile {s : State} {k : Nat} (ho : s.onTile k) (a : CodeAddr) :
    (s.goneTo a).tile k = Tile.bump { s.tile k with
      tcc := { s.cur with
        pfx := none, pfxp := false, waiting := false, far := [], ffar := [], pc := a, lined := s.cur.sameLine a } } 134 := by
  have h (c : Tcc) : (s.setCur c).gid = k := (ho.setCur c).gid
  rw [State.goneTo, State.leftAt]
  simp only [ho.onCore, Bool.false_eq_true, if_false, State.updMe, State.updCur, h, State.tile_updTile_same, ho.setCur_tile]

theorem State.onTile.goneTo_cur {s : State} {k : Nat} (ho : s.onTile k) (a : CodeAddr) :
    (s.goneTo a).cur = { s.cur with
      pfx := none, pfxp := false, waiting := false, far := [], ffar := [], pc := a, lined := s.cur.sameLine a } := by
  have h : (s.goneTo a).onTile k := by
    rw [State.goneTo, State.leftAt]
    simp only [ho.onCore, Bool.false_eq_true, if_false]
    exact ho.setCur _
  rw [h.cur, ho.goneTo_tile]
  rfl

/-- The entry of a follow-on: linked to the copy that it follows. -/
def State.followEntry (s : State) (q : Q) (j : Instr) (f : Eng) : QEntry :=
  let ops := s.capture j f
  s.newEntry .x (cmdWord j) ops.1 ops.2.1 ops.2.2 0 .domain (some (s.me.queue q).isn)

/-- A loop that counts ends at the instruction in hand. -/
def Tcc.loopEnds (c : Tcc) : Bool :=
  (decide (c.loop0.lc ≠ 0) && decide (c.loop0.ae = c.pc)) || (decide (c.loop1.lc ≠ 0) && decide (c.loop1.ae = c.pc))

/-- A control core that stood at a copy (c) and fetched its follow-on (c1), once both are issued: at the follow-on, and at the copy
where a loop ends there. -/
def Tcc.paired (c c1 c2 : Tcc) : Tcc :=
  { c2 with succ := c1.succ, pc := if c.loopEnds then c.pc else c1.pc, lined := c1.lined, ibuf := c1.ibuf }

/-- The package once a copy and its follow-on, fetched in s1, are issued. -/
def State.paired (s s1 : State) (i : Instr) (e : Eng) (q : Q) (j : Instr) (f : Eng) : State :=
  let s2 := (s1.setCur s.cur).issueOne i e q
  (s2.append .x (s2.followEntry q j f)).updCur (Tcc.paired s.cur s1.cur)

theorem State.issuePair_ok {s s1 : State} {i j : Instr} {e f : Eng} {q : Q} (h : s.followOn = .ok (j, f) s1) :
    s.issuePair i e q = if (s1.me.queue .x).isFull then .wait (s1.setCur s.cur) else .ok .seq (s.paired s1 i e q j f) := by
  unfold State.issuePair State.paired State.followEntry
  rw [h, Res.andThen_ok]
  dsimp only
  rcases ((s1.setCur s.cur).issueOne i e q).capture j f with ⟨o0, o1, o2⟩
  rfl

theorem State.append_rest {s : State} {k : Nat} (ho : s.onTile k) (q : Q) (en : QEntry) :
    { s.append q en with tiles := s.tiles, mem := s.mem, bad := s.bad } = s := by
  rw [State.append_eq ho]
  exact congrArg (fun u : State => { u with tiles := s.tiles }) (s.chained_rest k q en)

theorem State.append_onTile {s : State} {k : Nat} (ho : s.onTile k) (q : Q) (en : QEntry) : (s.append q en).onTile k := by
  have h := congrArg State.who (s.append_rest ho q en)
  exact Eq.trans h ho

theorem State.append_tile {s : State} {k : Nat} (ho : s.onTile k) (q : Q) (en : QEntry) :
    (s.append q en).tile k = (s.tile k).appended q en := by
  rw [State.append_eq ho, State.tile_setTile_same]

theorem State.append_cur {s : State} {k : Nat} (ho : s.onTile k) (q : Q) (en : QEntry) : (s.append q en).cur = s.cur := by
  rw [(s.append_onTile ho q en).cur, State.append_tile ho, ho.cur]
  cases q <;> rfl

section
variable {s s1 : State} {k : Nat} (ho : s1.onTile k) (i : Instr) (e : Eng) (q : Q) (j : Instr) (f : Eng)
include ho

theorem State.paired_onTile : (s.paired s1 i e q j f).onTile k :=
  (State.append_onTile (State.issueOne_onTile (ho.setCur s.cur) i e q) .x _).setCur _

theorem State.paired_tile :
    (s.paired s1 i e q j f).tile k =
      { (((s1.setCur s.cur).issueOne i e q).tile k).appended .x (((s1.setCur s.cur).issueOne i e q).followEntry q j f) with
        tcc := Tcc.paired s.cur s1.cur s.cur } := by
  have h1 := ho.setCur s.cur
  have h2 := State.issueOne_onTile h1 i e q
  have hc : ((s1.setCur s.cur).issueOne i e q).cur = s.cur := by
    rw [State.issueOne_cur h1, h1.cur, ho.setCur_tile]
  unfold State.paired
  dsimp only
  rw [State.updCur, (State.append_onTile h2 _ _).setCur_tile, State.append_tile h2, State.append_cur h2, hc]

theorem State.paired_cur : (s.paired s1 i e q j f).cur = Tcc.paired s.cur s1.cur s.cur := by
  rw [(State.paired_onTile ho i e q j f).cur, State.paired_tile ho]

theorem State.paired_image (hi : s1.cur.img = s.cur.img) : (s.paired s1 i e q j f).image = s1.image := by
  have h1 := ho.setCur s.cur
  have h2 := State.issueOne_onTile h1 i e q
  have hw : (s1.setCur s.cur).launches = s1.launches ∧ (s1.setCur s.cur).fw = s1.fw := ho.setCur_rest s.cur
  have hi1 := State.issueOne_rest h1 i e q
  have ha := State.append_rest h2 .x (((s1.setCur s.cur).issueOne i e q).followEntry q j f)
  have hl := congrArg State.launches hi1
  have hf := congrArg State.fw hi1
  have hl2 := congrArg State.launches ha
  have hf2 := congrArg State.fw ha
  obtain ⟨hl3, hf3⟩ := (State.append_onTile h2 .x (((s1.setCur s.cur).issueOne i e q).followEntry q j f)).setCur_rest
    (Tcc.paired s.cur s1.cur (((s1.setCur s.cur).issueOne i e q).append .x (((s1.setCur s.cur).issueOne i e q).followEntry q j f)).cur)
  refine ho.image_of_img (State.paired_onTile ho i e q j f) ?_ ?_ (hl3.trans (Eq.trans hl2 (Eq.trans hl hw.1)))
    (hf3.trans (Eq.trans hf2 (Eq.trans hf hw.2)))
  · rw [State.paired_tile ho, ← ho.cur, hi]
    rfl
  · rw [State.paired_tile ho, State.issueOne_tile h1, ho.setCur_tile]
    cases q <;> rfl

/-- The copy's entry stands in LQ, the follow-on's in XQ, linked to it. -/
theorem State.paired_entries : ∃ en en2 : QEntry,
    ((s.paired s1 i e .l j f).tile k).lq.ents = (s1.tile k).lq.ents ++ [en] ∧
    ((s.paired s1 i e .l j f).tile k).xq.ents = (s1.tile k).xq.ents ++ [en2] ∧ en.cmd = cmdWord i ∧ en2.cmd = cmdWord j ∧
    en.isn = (s1.tile k).lq.isn + 1 ∧ en2.isn = (s1.tile k).xq.isn + 1 ∧ en2.fol = some en.isn := by
  have h1 := ho.setCur s.cur
  have h2 := State.issueOne_onTile h1 i e .l
  obtain ⟨hcmd, _, _, hisn, _⟩ := State.entryOf_fields h1 i e .l
  have ht := State.issueOne_tile h1 i e .l
  rw [ho.setCur_tile] at hisn ht
  refine ⟨(s1.setCur s.cur).entryOf i e .l, ((s1.setCur s.cur).issueOne i e .l).followEntry .l j f, ?_, ?_, hcmd, rfl, hisn, ?_, ?_⟩
  · rw [State.paired_tile ho, ht]
    rfl
  · rw [State.paired_tile ho, ht]
    rfl
  · have : (((s1.setCur s.cur).issueOne i e .l).followEntry .l j f).isn = (((s1.setCur s.cur).issueOne i e .l).me.queue .x).isn + 1 := rfl
    rw [this, h2.me, ht]
    rfl
  · have : (((s1.setCur s.cur).issueOne i e .l).followEntry .l j f).fol = some (((s1.setCur s.cur).issueOne i e .l).me.queue .l).isn := rfl
    rw [this, h2.me, ht]
    rfl

/-- The pair leaves the stream at the follow-on's successor. -/
theorem State.paired_plainAt {a b : CodeAddr} (hs : s.plainAt a) (hi : s1.cur.img = s.cur.img) (hb : s1.hasSucc b)
    (hl : s.cur.intrap = true ∨ ((s.cur.loop0.lc = 0 ∨ s.cur.loop0.ae ≠ s1.cur.pc) ∧ (s.cur.loop1.lc = 0 ∨ s.cur.loop1.ae ≠ s1.cur.pc))) :
    (s.paired s1 i e q j f).plainAt b := by
  obtain ⟨_, _, hn, hd⟩ := hs
  have hw : (s.paired s1 i e q j f).who = .tile k := State.paired_onTile ho i e q j f
  have hc := State.paired_cur (s := s) ho i e q j f
  refine ⟨?_, ⟨?_, ?_⟩, ?_, ?_⟩
  · rw [State.hasCore, hw]
    trivial
  · rw [hc]
    exact hb.1
  · rw [State.paired_image ho i e q j f hi]
    exact hb.2
  · rw [State.noBoundary, hc]
    by_cases he : s.cur.loopEnds = true
    · refine .inl (hn.resolve_right ?_)
      simp only [Tcc.loopEnds, Bool.or_eq_true, Bool.and_eq_true, decide_eq_true_eq] at he
      tauto
    · simpa only [Tcc.paired, if_neg he] using hl
  · rw [hc]
    exact hd

end

/-- What the issue of an engine instruction asks about it. -/
def Instr.issueKind (i : Instr) : Option Eng × Option Q × Bool × Bool := (i.eng?, i.queue?, i.isCopy, i.isVector)

theorem Instr.issueKind_of_mem {l : List Instr} {e : Eng} {q : Q} {copy vec : Bool}
    (h : l.map Instr.issueKind = List.replicate l.length (some e, some q, copy, vec)) {i : Instr} (hi : i ∈ l) :
    i.eng? = some e ∧ i.queue? = some q ∧ i.isCopy = copy ∧ i.isVector = vec := by
  have hm := List.mem_map_of_mem (f := Instr.issueKind) hi
  rw [h] at hm
  simpa [Instr.issueKind] using List.eq_of_mem_replicate hm

/-- Settles O54: each instruction is issued as its kind asks, and a copy with FOL = 1 together with its follow-on. -/
theorem engineIssue : Obligations.EngineIssue := by
  unfold Obligations.EngineIssue
  intro s k e a ho ha w t tag loads stores matrix vector words three room count issues
  have issued (copy : Bool) (q : Q) (i : Instr) (ops : Word × Word × Word) (he : i.eng? = some e) (hq : i.queue? = some q)
      (hi : i.isCopy = copy) (hops : s.capture i e = ops) : issues copy q i ops := by
    subst hi hops
    intro hp
    have hfull (x : Queue) : x.isFull = false ↔ room x := by
      rw [← Bool.not_eq_true, Queue.isFull_iff, not_not]
    have hcount (t : Tile) : count t = t.tagCount tag := (t.tagCount_eq tag).symm
    refine ⟨fun h => exec_engine_held he hq hp ho (.inl ((Queue.isFull_iff _).mpr h)),
      fun hi h => exec_engine_held he hq hp ho (.inr ⟨hi, (hcount t).symm.trans h⟩), fun h ht hb hf => ?_, fun h ht hb hl => ⟨fun hn => ?_, fun hn hf => ?_⟩⟩
    · obtain ⟨hcmd, hops, hximm, hisn, hst, hat, hatM, hscope⟩ := s.entryOf_fields ho i e q
      have ht' (hi : i.isCopy = true) : t.tagCount tag ≠ 255 := hcount t ▸ ht hi
      have hut : (s.issueOne i e q).tile k = t.afterIssue i e q (s.entryOf i e q) := State.issueOne_tile ho i e q
      refine ⟨s.issueOne i e q, s.entryOf i e q, exec_engine_now he hq hp ho ((hfull _).mpr h) ht' hb hf ha, State.issueOne_cur ho i e q,
        State.issueOne_rest ho i e q, State.issueOne_bad ho i e q, fun g hg => State.issueOne_tile_other ho i e q hg, fun q' hq' => ?_,
        ?_, hcmd, hops, ?_, hisn, hst, hat, hatM, hscope.trans s.scope_eq, ?_⟩
      · rw [hut, Tile.queue_afterIssue_other _ _ _ _ hq']
      · dsimp only
        rw [hut]
        rw [Tile.queue_afterIssue_same, hcount, hcount]
        refine ⟨t.afterIssue_rest i e q _, rfl, hisn, rfl, ?_, t.tags_afterIssue_other e q _, fun hi => t.tags_afterIssue_copy e q _ hi (ht' hi)⟩
        rw [← hisn]
        rfl
      · rw [hximm]
        cases hi : i.isCopy with
        | false => exact State.ximm_plain (hi ▸ hp)
        | true => exact s.ximm_eq
      · rw [State.issueOne_mem ho]
        refine ⟨fun j hj => State.chained_get_other w k q _ hj, fun h31 hbad => ?_⟩
        rw [State.chained_cmd w hbad k q _ h31, hcmd]
        rfl
    · exact exec_engine_batches he hq hp ho ((hfull _).mpr h) (fun hi => hcount t ▸ ht hi) hb hl hn
    · have ho' : (s.updMe (fun _ => s.closed k)).onTile k := ho
      have htile : (s.updMe (fun _ => s.closed k)).tile k = s.closed k := by
        rw [State.updMe, ho.gid, State.tile_updTile_same]
      obtain ⟨hcmd, _, _, hisn, _⟩ := (s.updMe (fun _ => s.closed k)).entryOf_fields ho' i e q
      have hcur : (s.updMe (fun _ => s.closed k)).cur = s.cur := by
        rw [ho'.cur, htile, ho.cur]
        rfl
      have hq' : (s.closed k).queue q = t.queue q := by cases q <;> rfl
      rw [htile, hq'] at hisn
      refine ⟨(s.updMe (fun _ => s.closed k)).issueOne i e q, (s.updMe (fun _ => s.closed k)).entryOf i e q,
        exec_engine_closing he hq hp ho ((hfull _).mpr h) (fun hi => hcount t ▸ ht hi) hb hl hn hf ha,
        (State.issueOne_cur ho' i e q).trans hcur, ?_⟩
      rw [State.issueOne_tile ho', htile, Tile.queue_afterIssue_same, hq']
      refine ⟨rfl, hcmd, ?_, Tile.afterIssue_batches _ _ _ _ _⟩
      rw [← hisn]
      exact if_pos hb
  have all {copy vec : Bool} {q : Q} {ops : Instr → Word × Word × Word} {l : List Instr}
      (h : l.map Instr.issueKind = List.replicate l.length (some e, some q, copy, vec))
      (hops : ∀ i : Instr, i.isVector = vec → s.capture i e = ops i) : ∀ i ∈ l, issues copy q i (ops i) := by
    intro i hi
    obtain ⟨he, hq, hc, hv⟩ := Instr.issueKind_of_mem h hi
    exact issued copy q i (ops i) he hq hc (hops i hv)
  have plain (i : Instr) (hi : i.isVector = false) : s.capture i e = three := by
    rw [State.capture, captureWith, hi]
    rfl
  refine ⟨all rfl plain, all rfl plain, all rfl plain, all rfl ?_, issued _ _ _ _ rfl rfl rfl rfl, issued _ _ _ _ rfl rfl rfl rfl, ?_⟩
  · intro i hi
    rw [State.capture, captureWith, hi]
    rfl
  · intro i hi hp hf hr hc hb
    obtain ⟨he, hq, hcp, _⟩ : i.eng? = some e ∧ i.queue? = some .l ∧ i.isCopy = true ∧ i.isVector = false :=
      Instr.issueKind_of_mem rfl hi
    have hrun : exec i s = _ := exec_engine_run he hq (hcp ▸ hp)
    have hfull : (t.queue .l).isFull = false := by
      rw [← Bool.not_eq_true, Queue.isFull_iff, not_not]
      exact hr
    have hcount : t.tagCount tag ≠ 255 := (t.tagCount_eq tag).symm ▸ hc
    rw [issueBody_open ho hfull (fun _ => hcount) hb, issueNow, if_pos hf] at hrun
    refine ⟨fun tr s1 h => ?_, fun s1 h => ?_, fun j f s1 h => ⟨fun hx h1 => ?_, fun b hx h1 himg hsucc hl => ?_⟩⟩
    · rw [hrun, State.issuePair, h, Res.andThen_trap]
    · rw [hrun, State.issuePair, h]
      rfl
    · rw [hrun, State.issuePair_ok h, h1.me, if_pos (show ((s1.tile k).queue .x).isFull = true from (Queue.isFull_iff _).mpr hx)]
    · have hx' : ¬ ((s1.tile k).queue .x).isFull = true := by
        rw [Queue.isFull_iff, not_not]
        exact hx
      have hgo := State.finish_seq _ _ (State.paired_plainAt h1 i e .l j f ha himg hsucc hl)
      have hon := State.paired_onTile (s := s) h1 i e .l j f
      obtain ⟨en, en2, hl1, hx1, hfields⟩ := State.paired_entries (s := s) h1 i e j f
      refine ⟨(s.paired s1 i e .l j f).goneTo b, en, en2, ?_, ?_, ?_, ?_, ?_, hfields⟩
      · rw [hrun, State.issuePair_ok h, h1.me, if_neg hx']
        exact congrArg Host.Outcome.next hgo
      · rw [hon.goneTo_cur]
      · rw [hon.goneTo_cur, State.paired_cur h1]
        rfl
      · rw [hon.goneTo_tile]
        exact hl1
      · rw [hon.goneTo_tile]
        exact hx1

end Sys2Proof.Machine

/-! SUPPORT. Completion of the command at a queue's head (R26, R30, R32, R33, R36): what leaves the queue, what the tile then holds, and
the sequence mirror. -/

namespace Sys2Proof.Machine

/-! ### The head of a queue -/

/-- The oldest entry of a queue and those behind it: uncompleted, with the numbers that follow it, in the fixed region (R26). -/
structure Queue.AtHead (x : Queue) (en : QEntry) (rest : List QEntry) : Prop where
  ents : x.ents = en :: rest
  segs : x.segs = []
  last : rest = [] → x.isn = en.isn
  undone : ∀ r ∈ rest, r.st ≠ .done ∧ r.isn ≠ en.isn
  next : ∀ r, rest.head? = some r → r.isn = en.isn + 1

namespace Queue.AtHead
variable {x : Queue} {en : QEntry} {rest : List QEntry} (h : x.AtHead en rest)
include h

theorem entry : x.entry en.isn = some en := by
  rw [Queue.entry, h.ents, List.find?_cons_of_pos]
  exact decide_eq_true rfl

/-- A change of the entry with the head's number is one of the head. -/
theorem update (f : QEntry → QEntry) : updWhere (fun e => decide (e.isn = en.isn)) f x.ents = f en :: rest := by
  rw [updWhere, h.ents, List.map_cons, if_pos (decide_eq_true rfl)]
  congr 1
  refine (List.map_congr_left fun r hr => ?_).trans (List.map_id rest)
  rw [if_neg (by rw [decide_eq_true_eq]; exact (h.undone r hr).2)]
  rfl

theorem updated {f : QEntry → QEntry} (hf : (f en).isn = en.isn) :
    ({ x with ents := updWhere (fun e => decide (e.isn = en.isn)) f x.ents } : Queue).AtHead (f en) rest where
  ents := h.update f
  segs := h.segs
  last := by rw [hf]; exact h.last
  undone := by rw [hf]; exact h.undone
  next := by rw [hf]; exact h.next

/-- A head that is done leaves the queue, whose completion number reaches it (R26). -/
theorem settle (hd : en.st = .done) : x.settle.ents = rest ∧ x.settle.seq = en.isn ∧ x.settle.isn = x.isn ∧ x.settle.mpc = x.mpc ∧
    x.settle.segs = [] := by
  have hdrop : x.ents.dropWhile (fun e => decide (e.st = .done)) = rest := by
    rw [h.ents]
    cases rest with
    | nil => simp [hd]
    | cons r l => simp [hd, (h.undone r List.mem_cons_self).1]
  unfold Queue.settle
  rw [hdrop]
  cases rest with
  | nil => exact ⟨rfl, h.last rfl, rfl, rfl, h.segs⟩
  | cons r l =>
    refine ⟨rfl, ?_, rfl, rfl, h.segs⟩
    have hn := h.next r rfl
    simp only [hn, BitVec.add_sub_cancel]

end Queue.AtHead

/-- Returning to the first entry of the fixed region moves the queue's links alone. -/
theorem Queue.home_fields (x y : Queue) (b : Nat) : (Queue.home x y b).ents = y.ents ∧ (Queue.home x y b).seq = y.seq ∧
    (Queue.home x y b).isn = y.isn ∧ (Queue.home x y b).mpc = y.mpc ∧ (Queue.home x y b).segs = y.segs := by
  unfold Queue.home
  split <;> exact ⟨rfl, rfl, rfl, rfl, rfl⟩

/-! ### What settling leaves of a tile -/

/-- What a tile holds that the bookkeeping of its queues does not touch. -/
def Tile.apart (t : Tile) : (Nat × Nat × Nat × Nat) × List Word × Vector Word 32 × BitVec 5 × BitVec 64 × BitVec 512 × Mxe :=
  ((t.lx, t.xl, t.xs, t.sx), t.xret, t.tcc.regs, t.fstat, t.tags, t.tagn, t.mxe)

theorem Tile.apart_setQueue (t : Tile) (q : Q) (x : Queue) : (t.setQueue q x).apart = t.apart := by
  cases q <;> rfl

theorem Tile.queue_latch (t : Tile) (i : Nat) (q : Q) : (t.latch i).queue q = t.queue q := by
  cases q <;> rfl

theorem Tile.settleSeed_apart (t : Tile) : t.settleSeed.apart = t.apart ∧ (∀ q, t.settleSeed.queue q = t.queue q) ∧
    t.settleSeed.seqw = t.seqw := by
  unfold Tile.settleSeed
  dsimp only
  split
  · exact ⟨rfl, fun _ => rfl, rfl⟩
  · exact ⟨rfl, fun q => by cases q <;> rfl, rfl⟩

theorem State.returnSegs_none {s : State} {g : Nat} {q : Q} (h : ((s.tile g).queue q).segs = []) : s.returnSegs g q = s := by
  unfold State.returnSegs
  simp only [h, List.isEmpty_nil, if_true]

/-- The tile once queue q, whose head is done, has been settled, before the mirror. -/
def Tile.settledAs (t : Tile) (q : Q) : Tile :=
  (t.setQueue q (Queue.home (t.queue q) (t.queue q).settle (ringBase t.tcfg q))).settleSeed

/-- Settling a queue without segments: the tile, and the mirror where the completion number moves (R30). -/
theorem State.settleQueue_eq {s : State} {g : Nat} {q : Q} (h : ((s.tile g).queue q).settle.segs = []) :
    s.settleQueue g q =
      if ((s.tile g).queue q).settle.seq = ((s.tile g).queue q).seq then s.setTile g ((s.tile g).settledAs q)
      else (s.setTile g (((s.tile g).settledAs q).latch 4)).mirror g q := by
  obtain ⟨_, hseq, _, _, hsegs⟩ := Queue.home_fields ((s.tile g).queue q) ((s.tile g).queue q).settle (ringBase (s.tile g).tcfg q)
  unfold State.settleQueue
  dsimp only
  rw [State.returnSegs_none (by rw [State.tile_updTile_same, Tile.queue_setQueue_same, hsegs, h]), hseq, State.updTile_updTile]
  simp only [State.updTile, State.tile_setTile_same, State.setTile_setTile]
  rfl

theorem State.storeHome_tile (s : State) (key : Nat) (bs : List Byte) (g : Nat) : (s.storeHome key bs).tile g = s.tile g := by
  unfold State.storeHome
  split <;> rfl

theorem State.storeHome_who (s : State) (key : Nat) (bs : List Byte) : (s.storeHome key bs).who = s.who := by
  unfold State.storeHome
  split <;> rfl

theorem State.mirror_tile (s : State) (g : Nat) (q : Q) (h : Nat) : (s.mirror g q).tile h = s.tile h := by
  unfold State.mirror
  dsimp only
  split
  · rfl
  · rw [State.storeHome_tile]

theorem State.mirror_who (s : State) (g : Nat) (q : Q) : (s.mirror g q).who = s.who := by
  unfold State.mirror
  dsimp only
  split
  · rfl
  · rw [State.storeHome_who]

/-- A mirror in use holds the queue's completion number (R30). -/
theorem State.mirror_mem (s : State) (g : Nat) (q : Q) :
    ((s.tile g).seqw = 0 → (s.mirror g q).mem = s.mem) ∧
    ((s.tile g).seqw ≠ 0 → s.bad = [] → (s.mirror g q).mem =
      s.mem.setN (tileBase g + (s.tile g).seqw.toNat + 8 * q.code) (leBytes 8 ((s.tile g).queue q).seq.toNat)) := by
  unfold State.mirror
  dsimp only
  constructor
  · intro h
    rw [if_pos h]
  · intro h hb
    rw [if_neg h, State.storeHome_clean _ _ _ hb]

/-- Memory m with the number n in the mirror of queue q, where the number is a new one and the mirror of tile t is in use, is v's. -/
def State.Mirrored (v : State) (m : Memory) (bad : List BadWord) (g : Nat) (t : Tile) (q : Q) (n : Word) : Prop :=
  (t.seqw = 0 ∨ (t.queue q).seq = n → v.mem = m) ∧
  (t.seqw ≠ 0 → (t.queue q).seq ≠ n → bad = [] →
    v.mem = m.setN (tileBase g + t.seqw.toNat + 8 * q.code) (leBytes 8 n.toNat))

/-- What the queue is once its head has left. -/
structure Queue.Left (x y : Queue) (en : QEntry) (rest : List QEntry) : Prop where
  ents : y.ents = rest
  seq : y.seq = en.isn
  isn : y.isn = x.isn
  mpc : y.mpc = x.mpc

/-- A queue whose head is done is settled: the head leaves it, its completion number reaches the head's, and so does the mirror. -/
theorem State.settleQueue_head {s : State} {g : Nat} {q : Q} {en : QEntry} {rest : List QEntry}
    (h : ((s.tile g).queue q).AtHead en rest) (hd : en.st = .done) :
    ((s.tile g).queue q).Left (((s.settleQueue g q).tile g).queue q) en rest ∧ ((s.settleQueue g q).tile g).apart = (s.tile g).apart ∧
    (s.settleQueue g q).who = s.who ∧ (s.settleQueue g q).Mirrored s.mem s.bad g (s.tile g) q en.isn := by
  obtain ⟨hents, hseq, hisn, hmpc, hsegs⟩ := h.settle hd
  obtain ⟨ye, ys, yi, ym, _⟩ := Queue.home_fields ((s.tile g).queue q) ((s.tile g).queue q).settle (ringBase (s.tile g).tcfg q)
  obtain ⟨sa, sq, sw⟩ := ((s.tile g).setQueue q
    (Queue.home ((s.tile g).queue q) ((s.tile g).queue q).settle (ringBase (s.tile g).tcfg q))).settleSeed_apart
  have hq : ((s.tile g).settledAs q).queue q = Queue.home ((s.tile g).queue q) ((s.tile g).queue q).settle (ringBase (s.tile g).tcfg q) := by
    rw [Tile.settledAs, sq, Tile.queue_setQueue_same]
  have hleft : ((s.tile g).queue q).Left (((s.tile g).settledAs q).queue q) en rest := by
    rw [hq]
    exact ⟨ye.trans hents, ys.trans hseq, yi.trans hisn, ym.trans hmpc⟩
  have hapart : ((s.tile g).settledAs q).apart = (s.tile g).apart := sa.trans (Tile.apart_setQueue _ _ _)
  have hsw : ((s.tile g).settledAs q).seqw = (s.tile g).seqw := by
    rw [Tile.settledAs, sw]
    cases q <;> rfl
  rw [State.settleQueue_eq hsegs, hseq]
  by_cases hn : en.isn = ((s.tile g).queue q).seq
  · rw [if_pos hn, State.tile_setTile_same]
    exact ⟨hleft, hapart, rfl, fun _ => rfl, fun _ hc => absurd hn.symm hc⟩
  · rw [if_neg hn, State.mirror_tile, State.tile_setTile_same, Tile.queue_latch]
    obtain ⟨m0, m1⟩ := State.mirror_mem (s.setTile g (((s.tile g).settledAs q).latch 4)) g q
    rw [State.tile_setTile_same, Tile.queue_latch, hleft.seq] at m1
    rw [State.tile_setTile_same] at m0
    have hsw' : (((s.tile g).settledAs q).latch 4).seqw = (s.tile g).seqw := hsw
    rw [hsw'] at m0 m1
    exact ⟨hleft, hapart, State.mirror_who _ _ _, fun h0 => m0 (h0.resolve_right fun hc => hn hc.symm), fun h0 _ hb => m1 h0 hb⟩

/-! ### Push-after tokens (R33) -/

/-- Every FIFO that a command of queue q pushes has room. -/
def Tile.pushRoom (t : Tile) (q : Q) (cmd : Word) : Prop :=
  (q = .l → cmd.getLsbD 35 = true → t.lx < 16) ∧ (q = .x → cmd.getLsbD 34 = true → t.xl < 16) ∧
  (q = .x → cmd.getLsbD 35 = true → t.xs < 16) ∧ (q = .s → cmd.getLsbD 34 = true → t.sx < 16)

/-- The token counts of u are those of t with a, b, c and d more. -/
def Tile.Pushed (t u : Tile) (a b c d : Nat) : Prop := u.lx = t.lx + a ∧ u.xl = t.xl + b ∧ u.xs = t.xs + c ∧ u.sx = t.sx + d

/-- The tokens of a command of queue q have entered. -/
def Tile.PushedBy (t u : Tile) (q : Q) (cmd : Word) : Prop :=
  t.Pushed u (if q = .l ∧ cmd.getLsbD 35 = true then 1 else 0) (if q = .x ∧ cmd.getLsbD 34 = true then 1 else 0)
    (if q = .x ∧ cmd.getLsbD 35 = true then 1 else 0) (if q = .s ∧ cmd.getLsbD 34 = true then 1 else 0)

theorem pushesOf_eq (q : Q) (cmd : Word) : pushesOf q cmd = match q with
    | .l => if cmd.getLsbD 35 then [.lx] else []
    | .x => (if cmd.getLsbD 34 then [.xl] else []) ++ (if cmd.getLsbD 35 then [.xs] else [])
    | .s => if cmd.getLsbD 34 then [.sx] else [] := by
  unfold pushesOf bit
  cases q <;> cases cmd.getLsbD 34 <;> cases cmd.getLsbD 35 <;> rfl

theorem Tile.canPush_iff (t : Tile) (q : Q) (cmd : Word) : t.canPush q cmd = true ↔ t.pushRoom q cmd := by
  unfold Tile.canPush Tile.pushRoom
  rw [pushesOf_eq, List.all_eq_true]
  simp only [decide_eq_true_eq]
  cases q <;> cases cmd.getLsbD 34 <;> cases cmd.getLsbD 35 <;> simp [Tile.fifo]

/-- Push-after changes token counts and an event latch. -/
theorem Tile.pushes_fields (t : Tile) (q : Q) (cmd : Word) : t.PushedBy (t.pushes q cmd) q cmd ∧
    (∀ q', (t.pushes q cmd).queue q' = t.queue q') ∧ (t.pushes q cmd).seqw = t.seqw ∧ (t.pushes q cmd).xret = t.xret ∧
    (t.pushes q cmd).tcc.regs = t.tcc.regs ∧ (t.pushes q cmd).fstat = t.fstat ∧ (t.pushes q cmd).tags = t.tags ∧
    (t.pushes q cmd).tagn = t.tagn ∧ (t.pushes q cmd).mxe = t.mxe := by
  unfold Tile.PushedBy Tile.Pushed Tile.pushes
  rw [pushesOf_eq]
  cases q <;> cases cmd.getLsbD 34 <;> cases cmd.getLsbD 35 <;>
    exact ⟨⟨rfl, rfl, rfl, rfl⟩, fun q' => by cases q' <;> rfl, rfl, rfl, rfl, rfl, rfl, rfl, rfl⟩

/-! ### Completion (R26, R36) -/

/-- The tile once a command's tokens, tag and flags are in. -/
def Tile.paid (t : Tile) (q : Q) (e : QEntry) : Tile :=
  let t1 := (t.pushes q e.cmd).bump (131 + q.code)
  let t2 := match tagOf e.cmd with
    | some i => t1.tagComplete i
    | none => t1
  { t2 with fstat := t2.fstat ||| e.flags, stall := 0 }

/-- The completion of a copy on a tag touches the tag, its ready bit and an event latch. -/
theorem Tile.tagComplete_fields (t : Tile) (i : Nat) :
    (∀ q, (t.tagComplete i).queue q = t.queue q) ∧ (t.tagComplete i).seqw = t.seqw ∧ (t.tagComplete i).xret = t.xret ∧
    (t.tagComplete i).tcc.regs = t.tcc.regs ∧ (t.tagComplete i).fstat = t.fstat ∧ (t.tagComplete i).mxe = t.mxe ∧
    t.Pushed (t.tagComplete i) 0 0 0 0 := by
  unfold Tile.tagComplete
  dsimp only
  split <;> exact ⟨fun q => by cases q <;> rfl, rfl, rfl, rfl, rfl, rfl, rfl, rfl, rfl, rfl⟩

/-- What a tile holds once a command's tokens and flags are in, its queues as they were. -/
structure Tile.Paid (t u : Tile) (q : Q) (e : QEntry) : Prop where
  pushed : t.PushedBy u q e.cmd
  queue : ∀ q', u.queue q' = t.queue q'
  seqw : u.seqw = t.seqw
  xret : u.xret = t.xret
  regs : u.tcc.regs = t.tcc.regs
  fstat : u.fstat = t.fstat ||| e.flags
  mxe : u.mxe = t.mxe

theorem Tile.paid_fields (t : Tile) (q : Q) (e : QEntry) : t.Paid (t.paid q e) q e := by
  obtain ⟨hp, hq, hw, hx, hr, hf, _, _, hm⟩ := t.pushes_fields q e.cmd
  unfold Tile.paid
  cases tagOf e.cmd with
  | none =>
    refine ⟨hp, fun q' => ?_, hw, hx, hr, congrArg (· ||| e.flags) hf, hm⟩
    have h := hq q'
    cases q' <;> exact h
  | some i =>
    obtain ⟨tq, tw, tx, tr, tf, tm, t1, t2, t3, t4⟩ := ((t.pushes q e.cmd).bump (131 + q.code)).tagComplete_fields i
    obtain ⟨p1, p2, p3, p4⟩ := hp
    refine ⟨⟨Eq.trans t1 p1, Eq.trans t2 p2, Eq.trans t3 p3, Eq.trans t4 p4⟩, fun q' => ?_, Eq.trans tw hw, Eq.trans tx hx,
      Eq.trans tr hr, congrArg (· ||| e.flags) (Eq.trans tf hf), Eq.trans tm hm⟩
    have h1 := tq q'
    have h2 := hq q'
    cases q' <;> exact Eq.trans h1 h2

/-- The tile once the head of queue q has been marked as done. -/
def Tile.marked (t : Tile) (q : Q) (e : QEntry) : Tile :=
  let u := t.paid q e
  u.setQueue q (Queue.mpcIdle e.isn { u.queue q with
    ents := updWhere (fun k => decide (k.isn = e.isn)) (fun k => { k with st := .done }) (u.queue q).ents })

theorem Tile.setQueue_setQueue (t : Tile) (q : Q) (x y : Queue) : (t.setQueue q x).setQueue q y = t.setQueue q y := by
  cases q <;> rfl

/-- A command whose tokens have room completes: it is marked, its queue is settled, and its batch. -/
theorem State.complete_eq {s : State} {g : Nat} {q : Q} {e : QEntry} (he : ((s.tile g).queue q).entry e.isn = some e)
    (hp : (s.tile g).canPush q e.cmd = true) :
    s.complete g q e.isn = ((s.setTile g ((s.tile g).marked q e)).settleQueue g q).batchSettle g := by
  unfold State.complete
  rw [he]
  simp only [hp, Bool.not_true, Bool.false_eq_true, if_false, State.updEntry, State.updQueue, State.updTile_updTile]
  simp only [State.updTile, Tile.queue_setQueue_same, Tile.setQueue_setQueue]
  rfl

/-- One without room is held. -/
theorem State.complete_held {s : State} {g : Nat} {q : Q} {e : QEntry} (he : ((s.tile g).queue q).entry e.isn = some e)
    (hp : (s.tile g).canPush q e.cmd = false) :
    s.complete g q e.isn = s.updEntry g q e.isn (fun k => { k with held := true }) := by
  unfold State.complete
  rw [he]
  simp only [hp, Bool.not_false, if_true]

theorem Queue.mpcIdle_fields (isn : Word) (x : Queue) : (x.mpcIdle isn).ents = x.ents ∧ (x.mpcIdle isn).segs = x.segs ∧
    (x.mpcIdle isn).isn = x.isn ∧ (x.mpcIdle isn).seq = x.seq := by
  unfold Queue.mpcIdle
  split <;> exact ⟨rfl, rfl, rfl, rfl⟩

theorem Queue.mpcIdle_ents (isn : Word) (x : Queue) (l : List QEntry) :
    (Queue.mpcIdle isn { x with ents := l }).mpc = (x.mpcIdle isn).mpc := by
  unfold Queue.mpcIdle
  dsimp only
  split <;> rfl

theorem Queue.AtHead.mpcIdle {x : Queue} {en : QEntry} {rest : List QEntry} (h : x.AtHead en rest) (isn : Word) :
    (x.mpcIdle isn).AtHead en rest := by
  obtain ⟨he, hs, hi, _⟩ := x.mpcIdle_fields isn
  exact ⟨he.trans h.ents, hs.trans h.segs, fun hr => hi.trans (h.last hr), h.undone, h.next⟩

/-- The command en at the head of queue q of tile g has completed in v, from s on. -/
structure State.Completed (s v : State) (g : Nat) (q : Q) (en : QEntry) (rest : List QEntry) : Prop where
  ents : ((v.tile g).queue q).ents = rest
  seq : ((v.tile g).queue q).seq = en.isn
  isn : ((v.tile g).queue q).isn = ((s.tile g).queue q).isn
  mpc : ((v.tile g).queue q).mpc = (((s.tile g).queue q).mpcIdle en.isn).mpc
  apart : (v.tile g).apart = ((s.tile g).paid q en).apart
  who : v.who = s.who
  mem : v.Mirrored s.mem s.bad g (s.tile g) q en.isn

/-- The head of a queue completes when its push-after FIFOs have room. -/
theorem State.complete_head {s : State} {g : Nat} {q : Q} {en : QEntry} {rest : List QEntry}
    (h : ((s.tile g).queue q).AtHead en rest) (hp : (s.tile g).pushRoom q en.cmd) : s.Completed (s.complete g q en.isn) g q en rest := by
  have hpaid := (s.tile g).paid_fields q en
  rw [State.complete_eq h.entry ((Tile.canPush_iff _ _ _).mpr hp)]
  have hmq : ((s.tile g).marked q en).queue q = Queue.mpcIdle en.isn { (s.tile g).queue q with
      ents := updWhere (fun k => decide (k.isn = en.isn)) (fun k => { k with st := .done }) ((s.tile g).queue q).ents } := by
    rw [Tile.marked]
    dsimp only
    rw [Tile.queue_setQueue_same, hpaid.queue]
  have hhead : (((s.tile g).marked q en).queue q).AtHead { en with st := .done } rest := by
    rw [hmq]
    exact (h.updated (f := fun k => { k with st := .done }) rfl).mpcIdle _
  obtain ⟨_, _, hi, hs⟩ := Queue.mpcIdle_fields en.isn { (s.tile g).queue q with
      ents := updWhere (fun k => decide (k.isn = en.isn)) (fun k => { k with st := .done }) ((s.tile g).queue q).ents }
  rw [← hmq] at hi hs
  have hmw : ((s.tile g).marked q en).seqw = (s.tile g).seqw := by
    refine Eq.trans ?_ hpaid.seqw
    cases q <;> rfl
  obtain ⟨hl, ha, hw, hm⟩ := State.settleQueue_head (s := s.setTile g ((s.tile g).marked q en)) (q := q) (g := g)
    (by rw [State.tile_setTile_same]; exact hhead) rfl
  rw [State.tile_setTile_same] at hl ha hm
  have hq : ((((s.setTile g ((s.tile g).marked q en)).settleQueue g q).batchSettle g).tile g).queue q =
      (((s.setTile g ((s.tile g).marked q en)).settleQueue g q).tile g).queue q := by
    rw [State.batchSettle, State.tile_updTile_same]
    cases q <;> rfl
  exact {
    ents := by rw [hq, hl.ents]
    seq := by rw [hq, hl.seq]
    isn := by rw [hq, hl.isn, hi]
    mpc := by rw [hq, hl.mpc, hmq, Queue.mpcIdle_ents]
    apart := by
      refine Eq.trans ?_ (ha.trans (Tile.apart_setQueue _ _ _))
      rw [State.batchSettle, State.tile_updTile_same]
      rfl
    who := hw
    mem := by
      rw [State.Mirrored, hmw, hs] at hm
      exact hm }

/-- Tags and ready bits once a command word's copy has completed. -/
def Tile.tagsDone (t : Tile) (cmd : Word) : BitVec 64 × BitVec 512 :=
  match tagOf cmd with
  | some i => ((t.tagComplete i).tags, (t.tagComplete i).tagn)
  | none => (t.tags, t.tagn)

/-- A count depends on the counts alone. -/
theorem Tile.tagCount_congr {t u : Tile} (hn : u.tagn = t.tagn) (i : Nat) : u.tagCount i = t.tagCount i := by
  unfold Tile.tagCount
  rw [hn]

theorem Tile.setTagCount_congr {t u : Tile} (hn : u.tagn = t.tagn) (i n : Nat) : (u.setTagCount i n).tagn = (t.setTagCount i n).tagn := by
  unfold Tile.setTagCount
  rw [Tile.tagCount_congr hn]
  dsimp only
  rw [hn]

/-- The ready bit of a tag is set when its count reaches zero (R36). -/
theorem Tile.tagComplete_tags (t : Tile) (i : Nat) :
    (t.tagComplete i).tags =
      (if (t.setTagCount i (t.tagCount i - 1)).tagCount i = 0 then setBit t.tags i true else t.tags) ∧
    (t.tagComplete i).tagn = (t.setTagCount i (t.tagCount i - 1)).tagn := by
  unfold Tile.tagComplete
  dsimp only
  split
  · rename_i h
    exact ⟨(if_pos h).symm, rfl⟩
  · rename_i h
    exact ⟨(if_neg h).symm, rfl⟩

theorem Tile.tagsDone_congr {t u : Tile} (ht : u.tags = t.tags) (hn : u.tagn = t.tagn) (cmd : Word) : u.tagsDone cmd = t.tagsDone cmd := by
  unfold Tile.tagsDone
  cases tagOf cmd with
  | none => rw [ht, hn]
  | some i =>
    have hset := Tile.setTagCount_congr hn i (t.tagCount i - 1)
    dsimp only
    rw [(u.tagComplete_tags i).1, (u.tagComplete_tags i).2, (t.tagComplete_tags i).1, (t.tagComplete_tags i).2,
      Tile.tagCount_congr hn, hset, ht, Tile.tagCount_congr hset]

theorem Tile.paid_tags (t : Tile) (q : Q) (e : QEntry) : ((t.paid q e).tags, (t.paid q e).tagn) = t.tagsDone e.cmd := by
  obtain ⟨_, _, _, _, _, _, ht, hn, _⟩ := t.pushes_fields q e.cmd
  rw [← Tile.tagsDone_congr (u := (t.pushes q e.cmd).bump (131 + q.code)) ht hn]
  unfold Tile.paid Tile.tagsDone
  cases tagOf e.cmd <;> rfl

/-- The command en at the head of queue q of tile g has completed in v, with all that a tile then holds; s is the state with its
effects made. -/
structure State.Ended (s v : State) (g : Nat) (q : Q) (en : QEntry) (rest : List QEntry) : Prop where
  ents : ((v.tile g).queue q).ents = rest
  seq : ((v.tile g).queue q).seq = en.isn
  isn : ((v.tile g).queue q).isn = ((s.tile g).queue q).isn
  mpc : ((v.tile g).queue q).mpc = (((s.tile g).queue q).mpcIdle en.isn).mpc
  pushed : (s.tile g).PushedBy (v.tile g) q en.cmd
  xret : (v.tile g).xret = (s.tile g).xret
  regs : (v.tile g).tcc.regs = (s.tile g).tcc.regs
  fstat : (v.tile g).fstat = (s.tile g).fstat ||| en.flags
  tags : ((v.tile g).tags, (v.tile g).tagn) = (s.tile g).tagsDone en.cmd
  mxe : (v.tile g).mxe = (s.tile g).mxe
  who : v.who = s.who
  mem : v.Mirrored s.mem s.bad g (s.tile g) q en.isn

theorem State.updEntry_eq {s : State} {g : Nat} {q : Q} {isn : Word} (f : QEntry → QEntry) :
    s.updEntry g q isn f = s.setTile g ((s.tile g).setQueue q { (s.tile g).queue q with
      ents := updWhere (fun e => decide (e.isn = isn)) f ((s.tile g).queue q).ents }) := rfl

theorem State.updEntry_head {s : State} {g : Nat} {q : Q} {en : QEntry} {rest : List QEntry}
    (h : ((s.tile g).queue q).AtHead en rest) (f : QEntry → QEntry) :
    s.updEntry g q en.isn f = s.setTile g ((s.tile g).setQueue q { (s.tile g).queue q with ents := f en :: rest }) := by
  rw [State.updEntry_eq, h.update]

section
variable {s : State} {g : Nat} {q : Q} {en : QEntry} {rest : List QEntry} (h : ((s.tile g).queue q).AtHead en rest)
  {f : QEntry → QEntry} (hi : (f en).isn = en.isn) (hc : (f en).cmd = en.cmd)
include h hi hc

/-- A change of the head's own progress, and then its completion. -/
theorem State.ended_head (hf : (f en).flags = en.flags) (hp : (s.tile g).pushRoom q en.cmd) :
    s.Ended ((s.updEntry g q en.isn f).complete g q en.isn) g q en rest := by
  have ht : (s.updEntry g q en.isn f).tile g = (s.tile g).setQueue q { (s.tile g).queue q with
      ents := updWhere (fun e => decide (e.isn = en.isn)) f ((s.tile g).queue q).ents } := by
    rw [State.updEntry_eq, State.tile_setTile_same]
  have ha := Tile.apart_setQueue (s.tile g) q { (s.tile g).queue q with
      ents := updWhere (fun e => decide (e.isn = en.isn)) f ((s.tile g).queue q).ents }
  rw [← ht] at ha
  have hq : ((s.updEntry g q en.isn f).tile g).queue q = { (s.tile g).queue q with
      ents := updWhere (fun e => decide (e.isn = en.isn)) f ((s.tile g).queue q).ents } := by
    rw [ht, Tile.queue_setQueue_same]
  have hsw : ((s.updEntry g q en.isn f).tile g).seqw = (s.tile g).seqw := by
    rw [ht]
    cases q <;> rfl
  simp only [Tile.apart, Prod.mk.injEq] at ha
  obtain ⟨⟨a1, a2, a3, a4⟩, ax, ar, af, at_, an, am⟩ := ha
  have hh : (((s.updEntry g q en.isn f).tile g).queue q).AtHead (f en) rest := by
    rw [hq]
    exact h.updated hi
  have hroom : ((s.updEntry g q en.isn f).tile g).pushRoom q (f en).cmd := by
    rw [Tile.pushRoom, a1, a2, a3, a4, hc]
    exact hp
  have hv := State.complete_head hh hroom
  rw [hi] at hv
  obtain ⟨vents, vseq, visn, vmpc, vapart, vwho, vmem⟩ := hv
  have hpaid := ((s.updEntry g q en.isn f).tile g).paid_fields q (f en)
  have htags := ((s.updEntry g q en.isn f).tile g).paid_tags q (f en)
  simp only [Tile.apart, Prod.mk.injEq] at vapart
  obtain ⟨⟨v1, v2, v3, v4⟩, vx, vr, vf, vt, vn, vm⟩ := vapart
  obtain ⟨p1, p2, p3, p4⟩ := hpaid.pushed
  rw [a1, hc] at p1
  rw [a2, hc] at p2
  rw [a3, hc] at p3
  rw [a4, hc] at p4
  exact {
    ents := vents
    seq := vseq.trans hi
    isn := by rw [visn, hq]
    mpc := by rw [vmpc, hi, hq, Queue.mpcIdle_ents]
    pushed := ⟨v1.trans p1, v2.trans p2, v3.trans p3, v4.trans p4⟩
    xret := vx.trans (hpaid.xret.trans ax)
    regs := vr.trans (hpaid.regs.trans ar)
    fstat := by rw [vf, hpaid.fstat, af, hf]
    tags := by rw [vt, vn, htags, hc, Tile.tagsDone_congr at_ an]
    mxe := vm.trans (hpaid.mxe.trans am)
    who := vwho
    mem := by
      rw [State.Mirrored, hsw, hq, hi] at vmem
      exact vmem }

/-- Without room the head stays, held. -/
theorem State.held_head (hp : ¬ (s.tile g).pushRoom q en.cmd) :
    (s.updEntry g q en.isn f).complete g q en.isn = s.setTile g ((s.tile g).setQueue q { (s.tile g).queue q with
      ents := { f en with held := true } :: rest }) := by
  have hq : ((s.updEntry g q en.isn f).tile g).queue q = { (s.tile g).queue q with
      ents := updWhere (fun e => decide (e.isn = en.isn)) f ((s.tile g).queue q).ents } := by
    rw [State.updEntry_eq, State.tile_setTile_same, Tile.queue_setQueue_same]
  have hh : (((s.updEntry g q en.isn f).tile g).queue q).AtHead (f en) rest := by
    rw [hq]
    exact h.updated hi
  have hroom : ((s.updEntry g q en.isn f).tile g).canPush q (f en).cmd = false := by
    rw [← Bool.not_eq_true, Tile.canPush_iff, hc]
    intro hr
    refine hp ?_
    rw [State.updEntry_eq, State.tile_setTile_same] at hr
    cases q <;> exact hr
  have hv := State.complete_held hh.entry hroom
  rw [hi] at hv
  have hu := State.updEntry_head hh (fun k => { k with held := true })
  conv_lhs at hu => rw [hi]
  rw [hv, hu, State.updEntry_head h, State.tile_setTile_same, State.setTile_setTile, Tile.queue_setQueue_same, Tile.setQueue_setQueue]

end

end Sys2Proof.Machine

/-! SUPPORT. Commands that are no copies, begun at their queue's head: what they do and when they complete (R26, R32, R171, R232 to R234). -/

namespace Sys2Proof.Machine

/-- An entry whose effects are made, its flags as they were. -/
def QEntry.ended (e : QEntry) : QEntry := { e with made := true, park := none, held := false, flags := e.flags ||| 0 }

section
variable {s : State} {g : Nat} {q : Q} {en : QEntry} {rest : List QEntry} {i : Instr}

/-- ENGINE_COMMAND_COMPLETION of a running queue's head is its next effects. -/
theorem exec_completion_head (h : ((s.tile g).queue q).AtHead en rest) (hst : en.st = .begun) (hsub : en.sub = 0)
    (hr : (s.tile g).qRuns q = true) (hi : en.instr = some i) (hc : i.isCopy = false) (hx : ∀ e, i ≠ .xcall e) :
    exec (.engineCommandCompletion g q en.isn) s = .next (s.applyUnit g q en i) := by
  have hsub1 : ¬ en.sub = 1 := by omega
  rw [exec_engineCommandCompletion, execEngineCommandCompletion, h.entry]
  simp only [hst, hr, hi, hc, ne_eq, not_true_eq_false, decide_false, Bool.not_true, Bool.or_self, Bool.false_eq_true, if_false, hsub1]

/-- A command whose effects are made ends, unless its push-after finds no room. -/
theorem State.applyUnit_done {s' : State} (hm : en.made = false) (hv : i.isVector = false) (hs : en.sub = 0)
    (hu : s.unitRun g en i = .done s' 0 none) : s.applyUnit g q en i =
      (s'.updEntry g q en.isn QEntry.ended).complete g q en.isn := by
  have hr : en.inRoutine = false := by
    rw [QEntry.inRoutine, hs]
    rfl
  unfold State.applyUnit
  rw [hu]
  simp only [hm, hv, Bool.false_eq_true, if_false, Bool.false_and, State.madeUnit, Option.isSome_none, State.endUnit, hr, Bool.not_false, if_true]
  rfl

/-- One that pushes a value into XRET ends with the value there. -/
theorem State.applyUnit_push {s' : State} {v : Word} {t : Tile} (hm : en.made = false) (hv : i.isVector = false) (hs : en.sub = 0)
    (hu : s.unitRun g en i = .done s' 0 (some v)) (ht : (s'.tile g).pushXret v = some t) : s.applyUnit g q en i =
      ((s'.setTile g t).updEntry g q en.isn
        QEntry.ended).complete g q en.isn := by
  have hr : en.inRoutine = false := by
    rw [QEntry.inRoutine, hs]
    rfl
  unfold State.applyUnit
  rw [hu]
  simp only [hm, hv, Bool.false_eq_true, if_false, Bool.false_and, ht, State.madeUnit, Option.isSome_none, State.endUnit, hr, Bool.not_false,
    if_true]
  rfl

/-- While XRET is full it waits. -/
theorem State.applyUnit_full {s' : State} {v : Word} (hm : en.made = false) (hv : i.isVector = false)
    (hu : s.unitRun g en i = .done s' 0 (some v)) (ht : (s'.tile g).pushXret v = none) :
    s.applyUnit g q en i = s.setHeld g q en true := by
  unfold State.applyUnit
  rw [hu]
  simp only [hm, hv, Bool.false_eq_true, if_false, Bool.false_and, ht]

theorem State.applyUnit_hold (hm : en.made = false) (hu : s.unitRun g en i = .hold) :
    s.applyUnit g q en i = s.setHeld g q en (tableWait i) := by
  unfold State.applyUnit
  rw [hu]
  simp only [hm, Bool.false_eq_true, if_false]

end

/-! ### What the commands do -/

/-- TOKP, the set-up commands, whose effects their begin makes, and an MWM whose tile has the rows have nothing left to do. -/
theorem State.unitRun_nothing (s : State) (g : Nat) (en : QEntry) {e : Eng} {i : Instr}
    (h : i = .tokp e ∨ i ∈ [.mshape e, .manch e, .mzp e, .mpriv e, .mcode e, .mcsum e, .smv e] ∨
      (i = .mwm e ∧ e.w1 19 12 ≤ ((s.tile g).mxe.zt e.zn).wm)) :
    s.unitRun g en i = .done s 0 none ∧ i.isCopy = false ∧ i.isVector = false ∧ ∀ x, i ≠ .xcall x := by
  rcases h with rfl | h | ⟨rfl, h⟩
  · exact ⟨rfl, rfl, rfl, fun _ => Instr.noConfusion⟩
  · simp only [List.mem_cons, List.not_mem_nil, or_false] at h
    rcases h with rfl | rfl | rfl | rfl | rfl | rfl | rfl <;> exact ⟨rfl, rfl, rfl, fun _ => Instr.noConfusion⟩
  · refine ⟨?_, rfl, rfl, fun _ => Instr.noConfusion⟩
    rw [State.unitRun, matRun]
    dsimp only
    rw [if_pos h]

theorem State.unitRun_mwm_hold {s : State} {g : Nat} {e : Eng} (en : QEntry) (h : ((s.tile g).mxe.zt e.zn).wm < e.w1 19 12) :
    s.unitRun g en (.mwm e) = .hold := by
  rw [State.unitRun, matRun]
  dsimp only
  rw [if_neg (by omega)]

/-- The rows that an MWM asks of its z tile. -/
theorem mwm_rows (e : Eng) (x : Mxe) : e.w1 19 12 = e.ext.toNat % 256 ∧
    (x.zt e.zn).wm = (x.z[e.f7.toNat / 8]'(by have := e.f7.isLt; omega)).wm := by
  have hz : e.zn = e.f7.toNat / 8 := by
    have := e.f7.isLt
    simp only [Eng.zn, fld, bitsN]
    omega
  constructor
  · simp [Eng.w1, fld, bitsN]
  · have hlt : e.f7.toNat / 8 < 16 := by have := e.f7.isLt; omega
    rw [hz, Mxe.zt, dif_pos hlt]

/-- Holding the head changes nothing of it but that it is held. -/
theorem State.setHeld_head {s : State} {g : Nat} {q : Q} {en : QEntry} {rest : List QEntry} (h : ((s.tile g).queue q).AtHead en rest)
    (b : Bool) : s.setHeld g q en b = s.setTile g ((s.tile g).setQueue q { (s.tile g).queue q with
      ents := { en with held := b } :: rest }) :=
  State.updEntry_head h _

/-! ### MZERO (R232) -/

/-- The state once the z tiles of a list are zeroed. -/
def State.zeroTiles (s : State) (g : Nat) (anc : Int) (l : List Nat) : State := l.foldl (fun s z => s.zeroTile g z anc) s

theorem Memory.get_clear (m : Memory) (k n j : Nat) : (m.clear k n).get j = if k ≤ j ∧ j < k + n then 0 else m.get j := by
  induction m with
  | nil => simp [Memory.clear, Memory.get]
  | cons e r ih =>
    obtain ⟨a, b⟩ := e
    by_cases ha : k ≤ a ∧ a < k + n
    · rw [Memory.clear, if_pos ha, ih, Memory.get]
      split
      · rfl
      · rename_i hj
        rw [if_neg (by rintro rfl; exact hj ha)]
    · rw [Memory.clear, if_neg ha, Memory.get, ih, Memory.get]
      by_cases hj : a = j
      · subst hj
        rw [if_pos rfl, if_neg ha, if_pos rfl]
      · rw [if_neg hj, if_neg hj]

/-- Zeroing z tiles leaves a tile's queues, tokens, registers and flags. -/
theorem State.zeroTiles_tile (s : State) (g : Nat) (anc : Int) (l : List Nat) : ∃ (x : Mxe) (n : Nat),
    (s.zeroTiles g anc l).tile g = { s.tile g with mxe := x, stall := n } ∧
    ∀ z, z < 16 → z ∈ l ∨ ((s.tile g).mxe.zt z).wm = 128 → (x.zt z).wm = 128 := by
  induction l generalizing s with
  | nil => exact ⟨(s.tile g).mxe, (s.tile g).stall, rfl, fun z _ h => h.resolve_left (List.not_mem_nil)⟩
  | cons z r ih =>
    obtain ⟨x, n, ht, hw⟩ := ih (s.zeroTile g z anc)
    have h1 : (s.zeroTile g z anc).tile g = { s.tile g with
        mxe := (s.tile g).mxe.setZt z { ZTile.reset with zanc := BitVec.ofInt 16 anc }
        stall := if (128 : Nat) = ((s.tile g).mxe.zt z).wm then (s.tile g).stall else 0 } := by
      unfold State.zeroTile State.updZt
      rw [State.tile_updTile_same]
      rfl
    refine ⟨x, n, ?_, fun y hy h => hw y hy ?_⟩
    · rw [State.zeroTiles, List.foldl_cons]
      exact ht.trans (by rw [h1])
    · rw [h1]
      by_cases hyz : y = z
      · subst hyz
        right
        simp [Mxe.zt, Mxe.setZt, hy, ZTile.reset]
      · rcases h with h | h
        · exact .inl ((List.mem_cons.mp h).resolve_left hyz)
        · right
          rw [← h]
          by_cases hz : z < 16
          · simp [Mxe.zt, Mxe.setZt, hy, hz, Vector.getElem_set_ne, Ne.symm hyz]
          · simp [Mxe.setZt, hz]

theorem State.zeroTiles_who (s : State) (g : Nat) (anc : Int) (l : List Nat) :
    (s.zeroTiles g anc l).who = s.who ∧ (s.bad = [] → (s.zeroTiles g anc l).bad = []) := by
  induction l generalizing s with
  | nil => exact ⟨rfl, id⟩
  | cons z r ih =>
    obtain ⟨hw, hb⟩ := ih (s.zeroTile g z anc)
    refine ⟨hw, fun h => hb ?_⟩
    unfold State.zeroTile State.updZt State.updTile State.setTile
    simp [h]

/-- Every byte of the z tiles zeroed is zero, and no other byte has changed. -/
theorem State.zeroTiles_mem (s : State) (g : Nat) (anc : Int) (l : List Nat) (k : Nat) :
    (s.zeroTiles g anc l).mem.get k =
      if ∃ z ∈ l, localKey g (zOff z 0 0) ≤ k ∧ k < localKey g (zOff z 0 0) + 0x28000 then 0 else s.mem.get k := by
  induction l generalizing s with
  | nil => simp [State.zeroTiles]
  | cons z r ih =>
    have h1 : (s.zeroTile g z anc).mem = s.mem.clear (localKey g (zOff z 0 0)) 0x28000 := rfl
    have h := ih (s.zeroTile g z anc)
    rw [h1, Memory.get_clear] at h
    rw [State.zeroTiles, List.foldl_cons]
    refine h.trans ?_
    by_cases hr : ∃ y ∈ r, localKey g (zOff y 0 0) ≤ k ∧ k < localKey g (zOff y 0 0) + 0x28000
    · obtain ⟨y, hy, hk⟩ := hr
      rw [if_pos ⟨y, hy, hk⟩, if_pos ⟨y, List.mem_cons_of_mem _ hy, hk⟩]
    · rw [if_neg hr]
      by_cases hz : localKey g (zOff z 0 0) ≤ k ∧ k < localKey g (zOff z 0 0) + 0x28000
      · rw [if_pos hz, if_pos ⟨z, List.mem_cons_self, hz⟩]
      · rw [if_neg hz, if_neg]
        rintro ⟨y, hy, hk⟩
        rcases List.mem_cons.mp hy with rfl | hy
        · exact hz hk
        · exact hr ⟨y, hy, hk⟩

theorem mem_mzeroTiles (e : Eng) (n : Nat) : n ∈ mzeroTiles e ↔ n < 16 ∧ e.ext.getLsbD n = true := by
  have hw : e.w1 27 12 = e.ext.toNat % 2 ^ 16 := by simp [Eng.w1, fld, bitsN]
  rw [mzeroTiles, List.mem_filter, List.mem_range, hw, ← Nat.testBit_eq_decide_div_mod_eq, Nat.testBit_mod_two_pow]
  refine and_congr_right fun h => ?_
  rw [decide_eq_true h, Bool.true_and]
  rfl

/-- Which z tile holds a byte. -/
theorem in_zTile_iff (p : Nat → Prop) (b k : Nat) :
    (∃ z, (z < 16 ∧ p z) ∧ b + z * 0x28000 ≤ k ∧ k < b + z * 0x28000 + 0x28000) ↔
      b ≤ k ∧ k - b < 16 * 0x28000 ∧ p ((k - b) / 0x28000) := by
  constructor
  · rintro ⟨z, ⟨hz, hp⟩, hk⟩
    have hd : (k - b) / 0x28000 = z := by omega
    rw [hd]
    exact ⟨by omega, by omega, hp⟩
  · rintro ⟨h1, h2, hp⟩
    exact ⟨(k - b) / 0x28000, ⟨by omega, hp⟩, by omega, by omega⟩

/-- The bytes that an MZERO leaves. -/
theorem State.mzero_mem (s : State) (g : Nat) (e : Eng) (anc : Int) (k : Nat) :
    (s.zeroTiles g anc (mzeroTiles e)).mem.get k =
      if tileBase g + 0x600000 ≤ k ∧ k - (tileBase g + 0x600000) < 16 * 0x28000 ∧
        e.ext.getLsbD ((k - (tileBase g + 0x600000)) / 0x28000) = true then 0 else s.mem.get k := by
  rw [State.zeroTiles_mem]
  refine if_congr ?_ rfl rfl
  rw [← in_zTile_iff (fun n => e.ext.getLsbD n = true) (tileBase g + 0x600000) k]
  refine exists_congr fun z => and_congr (mem_mzeroTiles e z) ?_
  have hz : localKey g (zOff z 0 0) = tileBase g + 0x600000 + z * 0x28000 := by
    simp only [localKey, zOff, zBase]
    omega
  rw [hz]

/-! ### The settlement of O55 -/

/-- s' differs from s in what the effects of a command change: of tile g not its queues, token counts, general registers, flags or
mirror, and no storage error arises. -/
structure State.Effects (s s' : State) (g : Nat) : Prop where
  queue : ∀ q, (s'.tile g).queue q = (s.tile g).queue q
  tokens : (s.tile g).Pushed (s'.tile g) 0 0 0 0
  seqw : (s'.tile g).seqw = (s.tile g).seqw
  regs : (s'.tile g).tcc.regs = (s.tile g).tcc.regs
  fstat : (s'.tile g).fstat = (s.tile g).fstat
  who : s'.who = s.who
  bad : s.bad = [] → s'.bad = []

theorem State.Effects.refl (s : State) (g : Nat) : s.Effects s g := ⟨fun _ => rfl, ⟨rfl, rfl, rfl, rfl⟩, rfl, rfl, rfl, rfl, id⟩

theorem State.Effects.pushRoom {s s' : State} {g : Nat} (h : s.Effects s' g) (q : Q) (cmd : Word) :
    (s'.tile g).pushRoom q cmd ↔ (s.tile g).pushRoom q cmd := by
  obtain ⟨h1, h2, h3, h4⟩ := h.tokens
  rw [Tile.pushRoom, h1, h2, h3, h4]
  rfl

/-- A value enters XRET, with an event latch. -/
theorem State.Effects.pushXret (s : State) (g : Nat) (v : Word) : s.Effects
    (s.setTile g ({ s.tile g with xret := (s.tile g).xret ++ [v] }.latch 2)) g where
  queue q := by
    rw [State.tile_setTile_same]
    cases q <;> rfl
  tokens := by
    rw [State.tile_setTile_same]
    exact ⟨rfl, rfl, rfl, rfl⟩
  seqw := by rw [State.tile_setTile_same]; rfl
  regs := by rw [State.tile_setTile_same]; rfl
  fstat := by rw [State.tile_setTile_same]; rfl
  who := rfl
  bad := id

theorem State.Effects.zeroTiles (s : State) (g : Nat) (anc : Int) (l : List Nat) : s.Effects (s.zeroTiles g anc l) g := by
  obtain ⟨x, n, ht, _⟩ := s.zeroTiles_tile g anc l
  obtain ⟨hw, hb⟩ := s.zeroTiles_who g anc l
  exact {
    queue := fun q => by rw [ht]; cases q <;> rfl
    tokens := by rw [ht]; exact ⟨rfl, rfl, rfl, rfl⟩
    seqw := by rw [ht]
    regs := by rw [ht]
    fstat := by rw [ht]
    who := hw
    bad := hb }

/-- The micro-PC that names a command is idle once the command has ended (Table 1.8). -/
theorem Queue.mpcIdle_bit {x : Queue} {isn : Word} (h : x.mpc.toNat / 2 ^ 32 % 2 ^ 31 = isn.toNat % 2 ^ 31) :
    (x.mpcIdle isn).mpc.getLsbD 31 = false := by
  have hf : fld x.mpc 62 32 = isn.toNat % 2 ^ 31 := by
    rw [← h]
    rfl
  rw [Queue.mpcIdle, if_pos hf]
  dsimp only
  rw [getLsbD_setBit _ (by decide), if_pos rfl]

/-- Settles O55: the effects of each command are made, and then its head ends or is held. -/
theorem engineCommandCompletion : Obligations.EngineCommandCompletion := by
  unfold Obligations.EngineCommandCompletion
  intro s g q en rest e t x hents hst hsub hmade hruns hsegs hlast hundone hnext pal par pushes room completed stays outcome wm setup
  have hh : (t.queue q).AtHead en rest := ⟨hents, hsegs, hlast, hundone, hnext⟩
  have heff {s' : State} (hs : s.Effects s' g) : ((s'.tile g).queue q).AtHead en rest := by
    rw [hs.queue]
    exact hh
  have ended {s' v : State} (hs : s.Effects s' g) (h : s'.Ended v g q en rest) : completed v s'.mem (s'.tile g).xret := by
    obtain ⟨t1, t2, t3, t4⟩ := hs.tokens
    obtain ⟨p1, p2, p3, p4⟩ := h.pushed
    refine ⟨h.ents, h.seq, by rw [h.isn, hs.queue], fun hm => ?_, by rw [h.fstat, hs.fstat], h.xret, by rw [h.regs, hs.regs],
      h.who.trans hs.who, ⟨by rw [p1, t1]; rfl, by rw [p2, t2]; rfl, by rw [p3, t3]; rfl, by rw [p4, t4]; rfl⟩, ?_, ?_⟩
    · rw [h.mpc, hs.queue]
      exact Queue.mpcIdle_bit hm
    · have hm := h.mem.1
      rw [hs.seqw, hs.queue] at hm
      exact hm
    · have hm := h.mem.2
      rw [hs.seqw, hs.queue] at hm
      exact fun h1 h2 h3 => hm h1 h2 (hs.bad h3)
  have stayed {s' : State} {e' : QEntry} (hs : s.Effects s' g) (hm : s'.mem = s.mem) (he : e'.isn = en.isn) :
      stays (s'.setTile g ((s'.tile g).setQueue q { (s'.tile g).queue q with ents := e' :: rest })) := by
    obtain ⟨t1, t2, t3, t4⟩ := hs.tokens
    have ha := Tile.apart_setQueue (s'.tile g) q { (s'.tile g).queue q with ents := e' :: rest }
    simp only [Tile.apart, Prod.mk.injEq] at ha
    obtain ⟨⟨a1, a2, a3, a4⟩, _⟩ := ha
    refine ⟨?_, ?_, hm, ?_⟩ <;> rw [State.tile_setTile_same]
    · rw [Tile.queue_setQueue_same, hs.queue]
    · rw [Tile.queue_setQueue_same, hents, List.map_cons, List.map_cons, he]
    · exact ⟨a1.trans t1, a2.trans t2, a3.trans t3, a4.trans t4⟩
  have run {i : Instr} (hi : en.instr = some i) (hc : i.isCopy = false) (hx : ∀ z, i ≠ .xcall z) : outcome = .next (s.applyUnit g q en i) :=
    exec_completion_head hh hst hsub hruns hi hc hx
  have ends {s' : State} (hs : s.Effects s' g) (hr : room) : s'.Ended ((s'.updEntry g q en.isn QEntry.ended).complete g q en.isn) g q en rest :=
    State.ended_head (heff hs) rfl rfl (by simp [QEntry.ended]) ((hs.pushRoom q en.cmd).mpr hr)
  have holds {s' : State} (hs : s.Effects s' g) (hm : s'.mem = s.mem) (hr : ¬ room) :
      stays ((s'.updEntry g q en.isn QEntry.ended).complete g q en.isn) ∧
      (((s'.updEntry g q en.isn QEntry.ended).complete g q en.isn).tile g).xret = (s'.tile g).xret := by
    rw [State.held_head (heff hs) rfl rfl (fun h => hr ((hs.pushRoom q en.cmd).mp h))]
    refine ⟨stayed hs hm rfl, ?_⟩
    rw [State.tile_setTile_same]
    cases q <;> rfl
  have hwm := mwm_rows e t.mxe
  have hself := State.Effects.refl s g
  refine ⟨fun i hi hk => ?_, fun hq hb hi hw => ?_, fun hq hb hi => ?_, fun hq hb hi hr => ?_⟩
  · obtain ⟨hu, hc, hv, hx⟩ := State.unitRun_nothing s g en (e := e) (i := i) (by
      rcases hk with h | ⟨_, h | ⟨h, hw⟩⟩
      · exact .inl h
      · exact .inr (.inl h)
      · exact .inr (.inr ⟨h, by rw [hwm.1, hwm.2]; exact hw⟩))
    rw [run hi hc hx, State.applyUnit_done hmade hv hsub hu]
    exact ⟨fun hr => ⟨_, rfl, ended hself (ends hself hr)⟩, fun hr => ⟨_, rfl, (holds hself rfl hr).1⟩⟩
  · rw [run hi rfl (fun _ => Instr.noConfusion), State.applyUnit_hold hmade (State.unitRun_mwm_hold en (by rw [hwm.1, hwm.2]; exact hw)),
      State.setHeld_head hh]
    exact ⟨_, rfl, stayed hself rfl rfl⟩
  · have hu : s.unitRun g en (.mcap e) = .done s 0 (some t.mcap) := rfl
    rw [run hi rfl (fun _ => Instr.noConfusion)]
    refine ⟨fun hl hr => ?_, fun hl hr => ?_, fun hl => ?_⟩
    · have hp : (s.tile g).pushXret t.mcap = some ({ t with xret := t.xret ++ [t.mcap] }.latch 2) := if_neg (Nat.not_le.mpr hl)
      rw [State.applyUnit_push hmade rfl hsub hu hp]
      have hs := State.Effects.pushXret s g t.mcap
      have h := ended hs (ends hs hr)
      rw [State.tile_setTile_same] at h
      exact ⟨_, rfl, h⟩
    · have hp : (s.tile g).pushXret t.mcap = some ({ t with xret := t.xret ++ [t.mcap] }.latch 2) := if_neg (Nat.not_le.mpr hl)
      rw [State.applyUnit_push hmade rfl hsub hu hp]
      obtain ⟨h, hx⟩ := holds (State.Effects.pushXret s g t.mcap) rfl hr
      rw [State.tile_setTile_same] at hx
      exact ⟨_, rfl, h, hx⟩
    · have hp : (s.tile g).pushXret t.mcap = none := if_pos hl
      rw [State.applyUnit_full hmade rfl hu hp, State.setHeld_head hh]
      refine ⟨_, rfl, stayed hself rfl rfl, ?_⟩
      rw [State.tile_setTile_same]
      cases q <;> rfl
  · have hu : s.unitRun g en (.mzero e) = .done (s.zeroTiles g en.anc (mzeroTiles e)) 0 none := rfl
    rw [run hi rfl (fun _ => Instr.noConfusion), State.applyUnit_done hmade rfl hsub hu]
    have hs := State.Effects.zeroTiles s g en.anc (mzeroTiles e)
    obtain ⟨y, n, ht, hz⟩ := s.zeroTiles_tile g en.anc (mzeroTiles e)
    have hend := ends hs hr
    have h := ended hs hend
    have hx : (((s.zeroTiles g en.anc (mzeroTiles e))).tile g).xret = t.xret := by rw [ht]
    rw [hx] at h
    refine ⟨_, _, rfl, h, fun k => s.mzero_mem g e en.anc k, fun n hn => ?_⟩
    have hw := hz n.val n.isLt (.inl ((mem_mzeroTiles e n.val).mpr ⟨n.isLt, hn⟩))
    rw [Mxe.zt, dif_pos n.isLt] at hw
    rw [hend.mxe, ht]
    exact hw

end Sys2Proof.Machine

/-! SUPPORT. The end of a copy (R36, R280) and its freeze (R278), at the head of a queue. -/

namespace Sys2Proof.Machine

/-- The row copies. -/
def rowCopies (e : Eng) : List Instr := [.cld e, .cgat e, .fget e, .fput e, .cst e, .csct e, .cfill e]

/-- Nothing of a copy command is left to move: it fills no memory, or its rows are all made (R274, R285). -/
def QEntry.allMoved (en : QEntry) (e : Eng) (i : Instr) : Prop :=
  i = .cpf e ∨ (i ∈ rowCopies e ∧ (en.r2.toNat % 2 ^ 24 = 0 ∨ en.r2.toNat / 2 ^ 24 % 2 ^ 16 ≤ en.row))

theorem rowCopy_rows {en : QEntry} {e : Eng} {i : Instr} (h : i ∈ rowCopies e) :
    ∃ c, rowCopy en i = some c ∧ c.len = fld en.r2 23 0 ∧ c.rows = fld en.r2 39 24 := by
  simp only [rowCopies, List.mem_cons, List.not_mem_nil, or_false] at h
  rcases h with rfl | rfl | rfl | rfl | rfl | rfl | rfl
  case inr.inr.inr.inr.inr.inr =>
    unfold rowCopy
    dsimp only
    split <;> exact ⟨_, rfl, rfl, rfl⟩
  all_goals exact ⟨_, rfl, rfl, rfl⟩

/-- The last beat of a copy whose rows are made is behind it. -/
theorem copyBeat_allMoved {en : QEntry} {e : Eng} {i : Instr} (h : en.allMoved e i) (s : State) (g : Nat) (q : Q) :
    copyBeat s g q en i = .fin s ∧ i.isCopy = true := by
  rcases h with rfl | ⟨hi, hr⟩
  · refine ⟨?_, rfl⟩
    unfold copyBeat
    split <;> rfl
  · obtain ⟨c, hc, hlen, hrows⟩ := rowCopy_rows (en := en) hi
    have hend : (c.null || decide (c.rows ≤ en.row)) = true := by
      simp only [RowCopy.null, Bool.or_eq_true, decide_eq_true_eq]
      rw [hlen, hrows]
      simp only [fld, bitsN]
      omega
    constructor
    · unfold copyBeat
      rw [hc]
      dsimp only
      split
      · rfl
      · rw [rowBeat, if_pos hend]
    · simp only [rowCopies, List.mem_cons, List.not_mem_nil, or_false] at hi
      rcases hi with rfl | rfl | rfl | rfl | rfl | rfl | rfl <;> rfl

section
variable {s : State} {g : Nat} {q : Q} {en : QEntry} {rest : List QEntry} {i : Instr}

theorem State.copyAt_head (h : ((s.tile g).queue q).AtHead en rest) (hst : en.st = .begun) (hsub : en.sub = 0)
    (hr : (s.tile g).qRuns q = true) (hi : en.instr = some i) (hc : i.isCopy = true) : s.copyAt g q en.isn = some (en, i) := by
  have ho : (s.tile g).qOpen q = true := (Bool.and_eq_true_iff.mp hr).1
  have hsub1 : ¬ en.sub = 1 := by omega
  rw [State.copyAt, h.entry]
  simp [hst, ho, hsub1, hi, hc]

/-- The state with a copy's last packet accounted for (R274). -/
def State.sent (s : State) (g : Nat) (en : QEntry) (i : Instr) : State := if en.made then s else s.putSent g en i

theorem State.sent_effects (s : State) (g : Nat) (en : QEntry) (i : Instr) : s.Effects (s.sent g en i) g ∧
    ((s.sent g en i).tile g).tags = (s.tile g).tags ∧ ((s.sent g en i).tile g).tagn = (s.tile g).tagn := by
  have acked (p : Nat) : s.Effects (s.updTile g (fun t => t.acked p)) g ∧
      ((s.updTile g (fun t => t.acked p)).tile g).tags = (s.tile g).tags ∧
      ((s.updTile g (fun t => t.acked p)).tile g).tagn = (s.tile g).tagn := by
    have ht : ∃ a, (s.updTile g (fun t => t.acked p)).tile g = { s.tile g with ack := a } := by
      rw [State.tile_updTile_same]
      unfold Tile.acked
      split <;> exact ⟨_, rfl⟩
    obtain ⟨a, ht⟩ := ht
    refine ⟨⟨fun q => ?_, ?_, ?_, ?_, ?_, rfl, id⟩, ?_, ?_⟩ <;> rw [ht]
    · cases q <;> rfl
    · exact ⟨rfl, rfl, rfl, rfl⟩
  unfold State.sent State.putSent
  split
  · exact ⟨State.Effects.refl s g, rfl, rfl⟩
  · split
    · split
      · exact ⟨State.Effects.refl s g, rfl, rfl⟩
      · exact acked _
    · exact ⟨State.Effects.refl s g, rfl, rfl⟩

/-- COPY_COMPLETION of a copy at the head whose rows are made is its end. -/
theorem exec_copyCompletion_head {e : Eng} (h : ((s.tile g).queue q).AtHead en rest) (hst : en.st = .begun) (hsub : en.sub = 0)
    (hr : (s.tile g).qRuns q = true) (hi : en.instr = some i) (hm : en.allMoved e i) :
    exec (.copyCompletion g q en.isn) s =
      .next (((s.sent g en i).updEntry g q en.isn (fun e => { e with made := true })).complete g q en.isn) := by
  obtain ⟨hb, hc⟩ := copyBeat_allMoved hm s g q
  have hin : en.inRoutine = false := by
    rw [QEntry.inRoutine, hsub]
    rfl
  have hord : ((s.tile g).queue q).ordWait en = false := by
    simp [Queue.ordWait, h.ents]
  rw [exec_copyCompletion, execCopyCompletion, State.copyFinish, State.copyAt_head h hst hsub hr hi hc]
  dsimp only
  rw [hb]
  simp only [hord, Bool.false_eq_true, if_false, State.endUnit, hin, Bool.not_false, if_true]
  rfl

end

/-! ### Tags (R36) -/

/-- The tag that the command word of a copy names. -/
theorem tagOf_copy {cmd : Word} (h : cmd.toNat / 2 ^ 26 % 64 = 0x31 ∨ cmd.toNat / 2 ^ 26 % 64 = 0x32) :
    tagOf cmd = some (cmd.toNat / 2 ^ 36 % 64) :=
  if_pos h

/-- A completed copy's tag counts one less, and is ready when its count reaches zero. -/
theorem Tile.tagsDone_copy {t u : Tile} {cmd : Word} {i : Nat} (ht : tagOf cmd = some i) (hi : i < 64) (hn : 0 < t.tagCount i)
    (hu : (u.tags, u.tagn) = t.tagsDone cmd) : u.tagCount i = t.tagCount i - 1 ∧
    ∀ j, u.tags.getLsbD j = (t.tags.getLsbD j || (decide (j = i) && decide (t.tagCount i = 1))) := by
  have hlt : t.tagCount i < 256 := by
    rw [Tile.tagCount_eq]
    exact Nat.mod_lt _ (by decide)
  have hset : (t.setTagCount i (t.tagCount i - 1)).tagCount i = t.tagCount i - 1 := by
    rw [t.tagCount_setTagCount hi, Nat.mod_eq_of_lt (by omega)]
  obtain ⟨h1, h2⟩ := t.tagComplete_tags i
  simp only [Tile.tagsDone, ht, Prod.mk.injEq] at hu
  obtain ⟨hut, hun⟩ := hu
  constructor
  · rw [Tile.tagCount_congr (hun.trans h2), hset]
  · intro j
    rw [hut, h1, hset]
    by_cases h : t.tagCount i = 1
    · rw [if_pos (by omega), getLsbD_setBit _ hi]
      by_cases hj : j = i <;> simp [hj, h]
    · rw [if_neg (by omega)]
      simp [h]

/-! ### Freezes (R278) -/

/-- A fault of disposition F freezes its tile: all queues stop and the fault waits, whatever settles before. -/
theorem State.freezeTile_tile {t : TrapI} (hc : causeEnds t.cause = false) (s : State) (g : Nat) (q : Q) (en : QEntry) :
    let v := s.freezeTile g q en t
    (v.tile g).frz = true ∧ (v.tile g).lq.stopped = true ∧ (v.tile g).xq.stopped = true ∧ (v.tile g).sq.stopped = true ∧
    ({ q := q, cause := t.cause, sub := t.sub, info := t.info, word := en.cmd, isn := en.isn, frz := true, region := en.region,
       host := v.mbox.duty.getLsbD 1 && (decide (t.cause = 7) || decide (t.cause = 8)) } : EngFault) ∈ (v.tile g).faults := by
  unfold State.freezeTile State.freeze
  simp only [hc, Bool.false_eq_true, if_false, State.tile_updTile_same, true_and]
  exact List.mem_append_right _ (List.mem_singleton.mpr rfl)

theorem exec_copyFreeze_head {s s' : State} {g : Nat} {q : Q} {en : QEntry} {rest : List QEntry} {i : Instr} {t : TrapI}
    (h : ((s.tile g).queue q).AtHead en rest) (hst : en.st = .begun) (hsub : en.sub = 0) (hr : (s.tile g).qRuns q = true)
    (hi : en.instr = some i) (hc : i.isCopy = true) (hb : copyBeat s g q en i = .freeze t s') :
    exec (.copyFreeze g q en.isn) s = .next (s'.freezeTile g q en t) := by
  rw [exec_copyFreeze, execCopyFreeze, State.copyAt_head h hst hsub hr hi hc]
  simp only [hr, hb, Bool.not_true, Bool.false_and, Bool.false_eq_true, if_false]

/-! ### A copy at the head ends (R280) -/

section
variable {s : State} {g : Nat} {q : Q} {en : QEntry} {rest : List QEntry} {i : Instr} {tag : Nat}

/-- With room for its tokens a copy leaves its queue, and its tag counts one less. -/
theorem copy_ended (h : ((s.tile g).queue q).AtHead en rest) (hr : (s.tile g).pushRoom q en.cmd) (ht : tagOf en.cmd = some tag)
    (hi : tag < 64) (hn : 0 < (s.tile g).tagCount tag) :
    let v := ((s.sent g en i).updEntry g q en.isn (fun e => { e with made := true })).complete g q en.isn
    ((v.tile g).queue q).ents = rest ∧ ((v.tile g).queue q).seq = en.isn ∧
    (v.tile g).tagCount tag = (s.tile g).tagCount tag - 1 ∧ (v.tile g).tcc.regs = (s.tile g).tcc.regs ∧
    (∀ j, (v.tile g).tags.getLsbD j =
      ((s.tile g).tags.getLsbD j || (decide (j = tag) && decide ((s.tile g).tagCount tag = 1)))) ∧
    (s.tile g).PushedBy (v.tile g) q en.cmd := by
  obtain ⟨hs, hst, hsn⟩ := s.sent_effects g en i
  have hh : (((s.sent g en i).tile g).queue q).AtHead en rest := by
    rw [hs.queue]
    exact h
  have hend := State.ended_head hh (f := fun e => { e with made := true }) rfl rfl rfl ((hs.pushRoom q en.cmd).mpr hr)
  obtain ⟨t1, t2, t3, t4⟩ := hs.tokens
  obtain ⟨p1, p2, p3, p4⟩ := hend.pushed
  obtain ⟨hcount, htags⟩ := Tile.tagsDone_copy ht hi hn (hend.tags.trans (Tile.tagsDone_congr hst hsn en.cmd))
  refine ⟨hend.ents, hend.seq, hcount, hend.regs.trans hs.regs, htags, ?_, ?_, ?_, ?_⟩
  · rw [p1, t1, Nat.add_zero]
  · rw [p2, t2, Nat.add_zero]
  · rw [p3, t3, Nat.add_zero]
  · rw [p4, t4, Nat.add_zero]

/-- Without room it stays, and so do the completion number and its tag. -/
theorem copy_stays (h : ((s.tile g).queue q).AtHead en rest) (hr : ¬ (s.tile g).pushRoom q en.cmd) :
    let v := ((s.sent g en i).updEntry g q en.isn (fun e => { e with made := true })).complete g q en.isn
    ((v.tile g).queue q).seq = ((s.tile g).queue q).seq ∧ (v.tile g).tagn = (s.tile g).tagn ∧ (v.tile g).tags = (s.tile g).tags := by
  obtain ⟨hs, hst, hsn⟩ := s.sent_effects g en i
  have hh : (((s.sent g en i).tile g).queue q).AtHead en rest := by
    rw [hs.queue]
    exact h
  have ha := Tile.apart_setQueue ((s.sent g en i).tile g) q { ((s.sent g en i).tile g).queue q with
    ents := { en with made := true, held := true } :: rest }
  simp only [Tile.apart, Prod.mk.injEq] at ha
  obtain ⟨_, _, _, _, at_, an, _⟩ := ha
  dsimp only
  rw [State.held_head hh (f := fun e => { e with made := true }) rfl rfl (fun hp => hr ((hs.pushRoom q en.cmd).mp hp)),
    State.tile_setTile_same, Tile.queue_setQueue_same]
  exact ⟨by rw [hs.queue], an.trans hsn, at_.trans hst⟩

end

end Sys2Proof.Machine

/-! SUPPORT. What records and reads leave of tiles and launches, and the events of a tile's faults, its queues and its stack MV unit
(R35, R238, R388 to R390, R429 to R431). -/

namespace Sys2Proof.Machine

/-! ### Writes that are not of tiles or launches -/

/-- s' has the tiles and the launches of s. -/
def State.SameTiles (s s' : State) : Prop := s'.tiles = s.tiles ∧ s'.launches = s.launches

theorem State.SameTiles.refl (s : State) : s.SameTiles s := ⟨rfl, rfl⟩

theorem State.SameTiles.trans {s s' s'' : State} (h : s.SameTiles s') (h' : s'.SameTiles s'') : s.SameTiles s'' :=
  ⟨h'.1.trans h.1, h'.2.trans h.2⟩

theorem State.SameTiles.tile {s s' : State} (h : s.SameTiles s') (g : Nat) : s'.tile g = s.tile g := by
  rw [State.tile, h.1, State.tile]

theorem State.SameTiles.foldl {α : Type} {f : State → α → State} (hf : ∀ (s : State) a, s.SameTiles (f s a)) (l : List α) (s : State) :
    s.SameTiles (l.foldl f s) := by
  induction l generalizing s with
  | nil => exact .refl s
  | cons a r ih => exact (hf s a).trans (ih (f s a))

theorem State.SameTiles.eachBlock {f : State → Nat → State} (hf : ∀ (s : State) k, s.SameTiles (f s k)) (s : State) (key n : Nat) :
    s.SameTiles (s.eachBlock key n f) := by
  unfold State.eachBlock
  split
  · exact .refl s
  · refine State.SameTiles.foldl (fun u i => ?_) _ _
    dsimp only
    split
    · exact hf _ _
    · exact .refl _

theorem State.SameTiles.blockFlat (s : State) (key n : Nat) : s.SameTiles (s.blockFlat key n) := by
  refine State.SameTiles.eachBlock (fun u k => ?_) s key n
  exact ⟨rfl, rfl⟩

theorem State.SameTiles.blockLeave (s : State) (key : Nat) : s.SameTiles (s.blockLeave key) := by
  unfold State.blockLeave
  dsimp only
  split <;> exact ⟨rfl, rfl⟩

theorem State.SameTiles.blockWrite (s : State) (cmp : Bool) (key n : Nat) : s.SameTiles (s.blockWrite cmp key n) := by
  refine State.SameTiles.eachBlock (fun u k => ?_) s key n
  dsimp only
  split
  · refine State.SameTiles.trans ?_ (State.SameTiles.blockLeave _ _)
    exact ⟨rfl, rfl⟩
  · exact ⟨rfl, rfl⟩

theorem State.SameTiles.storeHome (s : State) (key : Nat) (bs : List Byte) : s.SameTiles (s.storeHome key bs) := by
  unfold State.storeHome
  split <;> exact ⟨rfl, rfl⟩

theorem State.SameTiles.sendBytes (n vl fuel : Nat) (s : State) (bs : List Byte) : s.SameTiles (State.sendBytes s n vl fuel bs) := by
  induction fuel generalizing s bs with
  | zero => exact .refl s
  | succ f ih =>
    unfold State.sendBytes
    split
    · exact .refl s
    · exact State.SameTiles.trans (s' := s.sendFlit n 0 vl (bs.take 112)) ⟨rfl, rfl⟩ (ih _ _)

theorem State.SameTiles.depart (s : State) (p : Pkt) : s.SameTiles (s.depart p) := by
  unfold State.depart
  split
  · exact ⟨rfl, rfl⟩
  · split
    · exact ⟨rfl, rfl⟩
    · rename_i u hu
      unfold State.kwaup at hu
      split at hu
      · cases hu
      · obtain rfl := Option.some.inj hu
        exact State.SameTiles.sendBytes _ _ _ _ _

theorem State.SameTiles.request (s : State) (p : Pkt) : s.SameTiles (s.request p) := by
  unfold State.request
  dsimp only
  split
  · exact ⟨rfl, rfl⟩
  · refine State.SameTiles.trans ?_ (State.SameTiles.depart _ _)
    exact ⟨rfl, rfl⟩

theorem State.SameTiles.putPa (s : State) (pa : Nat) (bs : List Byte) : s.SameTiles (s.putPa pa bs) := by
  unfold State.putPa
  split
  · exact (State.SameTiles.storeHome _ _ _).trans (State.SameTiles.blockWrite _ _ _ _)
  · split
    · exact .refl s
    · exact State.SameTiles.storeHome _ _ _
  · exact State.SameTiles.request _ _
  · exact .refl s
  · exact .refl s

theorem State.SameTiles.sendRecord (s : State) (r : ErrRec) : s.SameTiles (s.sendRecord r) := by
  unfold State.sendRecord
  dsimp only
  split
  · exact ⟨rfl, rfl⟩
  · exact State.SameTiles.trans (s' := (s.msix 64).putPa _ _)
      (State.SameTiles.trans (s' := s.msix 64) ⟨rfl, rfl⟩ (State.SameTiles.putPa _ _ _)) ⟨rfl, rfl⟩

/-- A trace record leaves a tile but for its counters. -/
theorem State.traceRec_tile (s : State) (g kind info h : Nat) : ∃ c, (s.traceRec g kind info).tile h = { s.tile h with counters := c } := by
  unfold State.traceRec
  dsimp only
  split
  · exact ⟨_, rfl⟩
  · have hb : ∃ c, (s.updTile g (fun t => t.bump 140)).tile h = { s.tile h with counters := c } := by
      by_cases hg : h = g
      · subst hg
        rw [State.tile_updTile_same]
        exact ⟨_, rfl⟩
      · rw [State.tile_updTile_other _ _ _ _ hg]
        exact ⟨_, rfl⟩
    obtain ⟨c, hc⟩ := hb
    refine ⟨c, Eq.trans ?_ hc⟩
    exact (State.SameTiles.putPa (s.updTile g (fun t => t.bump 140)) _ _).tile h

/-! ### The trap of an engine fault (R429 to R431, R469) -/

theorem dropFault_eq (f : EngFault) (l : List EngFault) : dropFault f l = l.erase f := by
  induction l with
  | nil => rfl
  | cons x r ih =>
    rw [dropFault, List.erase_cons, ih]
    simp

theorem State.postD2h_keeps (s : State) (bs : List Byte) : (s.postD2h bs).tiles = s.tiles ∧ (s.postD2h bs).mbox.reqs = s.mbox.reqs := by
  unfold State.postD2h
  dsimp only
  split <;> exact ⟨rfl, rfl⟩

/-- A request of a function is posted with its data, the tiles as they were. -/
theorem State.postRequest_posted (s : State) (fn about : Nat) (bs : List Byte) (h : s.fw.st = 0) : ∃ rq : HostReq,
    (s.postRequest fn about bs).tiles = s.tiles ∧ (s.postRequest fn about bs).mbox.reqs = s.mbox.reqs ++ [rq] ∧ rq.fn = fn ∧
    rq.about = about ∧ rq.data = bs := by
  refine ⟨{ tag := s.mbox.nextTag, fn := fn, about := about, data := bs }, ?_⟩
  have hp : s.postRequest fn about bs = s.postNow fn about bs := by
    rw [State.postRequest, decide_eq_true h, Bool.true_or]
    exact if_pos rfl
  obtain ⟨ht, hr⟩ := s.postD2h_keeps (leBytes 4 fn ++ leBytes 4 s.mbox.nextTag ++ bs)
  rw [hp, State.postNow]
  exact ⟨ht, congrArg (· ++ _) hr, rfl, rfl, rfl⟩

/-- A control core that has entered its handler, with the STATUS it had in estatus (R428). -/
def Tcc.trapped (c : Tcc) (t : TrapI) (epc : CodeAddr) (eword : Word) (src : Nat) (frz : Bool) (estatus : Word) : Tcc :=
  { c with
    trap := { c.trap with
      epc := BitVec.ofNat 64 epc.toNat, ecause := ecauseOf t src frz, einfo := t.info, eword := eword, estatus := estatus }
    atM := true, intrap := true, pfx := none, pfxp := false, arrived := false, waiting := false, lined := false, img := 0xFFFF
    pc := c.trap.ebase.truncate 28 }

theorem State.enterTrap_tile {s : State} {g : Nat} (ho : s.onTile g) (t : TrapI) (epc : CodeAddr) (eword : Word) (src : Nat)
    (frz : Bool) (cisn : Nat) (idle : Bool) : ∃ est n, (s.enterTrap t epc eword src frz cisn idle).tile g =
      { s.tile g with tcc := s.cur.trapped t epc eword src frz est, counters := n } := by
  have hon (c : Tcc) : (s.setCur c).onCore = false := (ho.setCur c).onCore
  have hgid (c : Tcc) : (s.setCur c).gid = g := (ho.setCur c).gid
  unfold State.enterTrap
  simp only [hon, hgid, ho.onCore, Bool.false_eq_true, if_false]
  obtain ⟨n, hn⟩ := State.traceRec_tile (s.setCur (s.cur.trapped t epc eword src frz
    (BitVec.ofNat 64 ((s.cur.status (s.frzOf s.who)).toNat % 64 + b2n s.cur.arrived * 64 + b2n idle * 128 + cisn % 2 ^ 32 * 2 ^ 32))))
    g 4 ((ecauseOf t src frz).toNat % 65536) g
  rw [ho.setCur_tile] at hn
  exact ⟨_, n, hn⟩

/-- The tile, and its control core, once its first fault is taken out of those that wait. -/
def Tile.tookFault (t : Tile) (f : EngFault) : Tile :=
  { t with faults := dropFault f t.faults, barWait := none, ballast := none, trapRegion := f.region, tcc := { t.tcc with far := [], ffar := [] } }

/-- What ENGINE_FAULT_TRAP does where the tile's first fault may be taken (R429). -/
theorem exec_engineFaultTrap_taken {s : State} {g : Nat} {f : EngFault} (hf : (s.tile g).firstFault = some f)
    (hi : (s.tile g).tcc.intrap = false) (hb : (s.tile g).bound.isSome = true) (hd : (s.tile g).dbg.stopped = false) (hw : s.fw.st = 0)
    (hh : f.host = false) : ∃ v : State, exec (.engineFaultTrap g) s = .next v ∧ ∃ est n, v.tile g = { (s.tile g).tookFault f with
      tcc := ((s.tile g).tookFault f).tcc.trapped { (TrapI.mk3 f.cause f.sub f.info) with epc := none }
        (if (s.tile g).cont.isNone then 0 else match (s.tile g).tcc.pfx with
          | some p => p.start
          | none => (s.tile g).tcc.pc) f.word (f.q.code + 1) f.frz est
      counters := n } := by
  have hbn : (s.tile g).bound.isNone = false := by
    rw [Option.isNone_eq_false_iff]
    exact hb
  have ho : ({ s.updTile g (fun t => t.tookFault f) with who := .tile g } : State).onTile g := rfl
  have ht : ({ s.updTile g (fun t => t.tookFault f) with who := .tile g } : State).tile g = (s.tile g).tookFault f := by
    have h := State.tile_updTile_same s g (fun t => t.tookFault f)
    exact h
  have hg : ¬ ((s.tile g).tcc.intrap || (s.tile g).bound.isNone || (s.tile g).dbg.stopped || decide (s.fw.st ≠ 0)) = true := by
    simp [hi, hbn, hd, hw]
  rw [exec_engineFaultTrap, execEngineFaultTrap]
  dsimp only
  rw [hf]
  dsimp only
  rw [if_neg hg, hh]
  refine ⟨_, if_neg Bool.false_ne_true, ?_⟩
  obtain ⟨est, n, hv⟩ := State.enterTrap_tile ho { (TrapI.mk3 f.cause f.sub f.info) with epc := none }
    (if (s.tile g).cont.isNone then 0 else match (s.tile g).tcc.pfx with
          | some p => p.start
          | none => (s.tile g).tcc.pc) f.word (f.q.code + 1) f.frz (f.isn.toNat % 2 ^ 32) (s.tile g).cont.isNone
  rw [ho.cur, ht] at hv
  exact ⟨est, n, hv⟩

/-! ### Token deadlock (R35) -/

theorem popsOf_eq (q : Q) (cmd : Word) : popsOf q cmd = match q with
    | .l => if cmd.getLsbD 33 then [.xl] else []
    | .x => (if cmd.getLsbD 32 then [.lx] else []) ++ (if cmd.getLsbD 33 then [.sx] else [])
    | .s => if cmd.getLsbD 32 then [.xs] else [] := by
  unfold popsOf bit
  cases q <;> cases cmd.getLsbD 32 <;> cases cmd.getLsbD 33 <;> rfl

theorem Tile.canPop_empty {t : Tile} {q : Q} {cmd : Word} {f : Fifo} (h : f ∈ popsOf q cmd) (h0 : t.fifo f = 0) :
    t.canPop q cmd = false := by
  rw [← Bool.not_eq_true, Tile.canPop, List.all_eq_true]
  intro hall
  have := hall f h
  rw [decide_eq_true_eq, h0] at this
  exact absurd this (by decide)

/-- A head that may not take its tokens waits on them alone. -/
theorem State.tokenWait_head {s : State} {g : Nat} {q : Q} {en : QEntry} (h : ((s.tile g).queue q).headEnt = some en)
    (hst : en.st = .waiting) (hp : en.popped = false) (hf : en.fol = none) (hc : (s.tile g).canPop q en.cmd = false) :
    s.tokenWait g q = true := by
  rw [State.tokenWait]
  dsimp only
  rw [h]
  simp [hst, hp, hf, hc]

/-- The fault of XQ that a command meets, as it waits to be taken. -/
def EngFault.ofX (t : TrapI) (en : QEntry) : EngFault :=
  { q := .x, cause := t.cause, sub := t.sub, info := t.info, word := en.cmd, isn := en.isn, frz := false, region := en.region, host := false }

/-- An engine fault that ends no domain stops its queue and waits. -/
theorem State.engineFault_tile {t : TrapI} (hc : causeEnds t.cause = false) (s : State) (g : Nat) (en : QEntry) :
    let v := s.engineFault g .x en t
    (v.tile g).xq.stopped = true ∧ v.mem = s.mem ∧ (v.tile g).tcc = (s.tile g).tcc ∧
    (v.tile g).faults = (s.tile g).faults ++ [EngFault.ofX t en] := by
  unfold State.engineFault
  simp only [hc, Bool.false_eq_true, if_false, State.tile_updTile_same, State.updQueue]
  exact ⟨rfl, rfl, rfl, rfl⟩

/-! ### Queue growth (R388 to R390) -/

theorem getD_mem_erase {l : List Nat} (hn : l.Nodup) {i : Nat} (hi : i < l.length) : l.getD i 0 ∈ l ∧ l.eraseIdx i = l.erase (l.getD i 0) := by
  rw [List.getD_eq_getElem _ _ hi]
  refine ⟨List.getElem_mem hi, ?_⟩
  rw [List.erase_eq_eraseIdx_of_idxOf (i := i)]
  · exact List.Nodup.idxOf_getElem hn i hi

/-- A segment joins a queue's chain after its newest entry, and nothing else of the launches or the pool changes. -/
theorem State.insertSeg_tile {s : State} {g : Nat} {q : Q} {en : QEntry} (h : ((s.tile g).queue q).ents.getLast? = some en)
    (seg region : Nat) : let v := s.insertSeg g q seg region
    ((v.tile g).queue q).segs = ((s.tile g).queue q).segs ++ [(seg, en.at_, ((s.tile g).queue q).tail, region)] ∧
    ((v.tile g).queue q).tail = BitVec.ofNat 32 (seg + 2 ^ 31) ∧ ((v.tile g).queue q).ents = ((s.tile g).queue q).ents ∧
    (v.tile g).stall = 0 ∧ v.launches = s.launches ∧ v.segsFree = s.segsFree := by
  have hs (u : State) (key : Nat) (bs : List Byte) : (u.storeHome key bs).segsFree = u.segsFree := by
    unfold State.storeHome
    split <;> rfl
  have hq (t : Tile) (x : Queue) : ({ (t.setQueue q x).bump 137 with stall := 0 } : Tile).queue q = x := by cases q <;> rfl
  unfold State.insertSeg
  dsimp only
  rw [h]
  dsimp only
  generalize BitVec.ofNat 32 (seg + 2 ^ 31) = first
  by_cases hb : bit en.at_ 31 = true
  · rw [if_pos hb, State.tile_updTile_same, hq]
    exact ⟨rfl, rfl, rfl, rfl, rfl, rfl⟩
  · obtain ⟨_, hl⟩ := State.SameTiles.storeHome (s.updTile g (fun t => { (t.setQueue q { (s.tile g).queue q with
      segs := ((s.tile g).queue q).segs ++ [(seg, en.at_, ((s.tile g).queue q).tail, region)]
      tail := first }).bump 137 with stall := 0 })) (tileBase g + fld en.at_ 23 0 * 64 + 40) (leBytes 4 first.toNat)
    rw [if_neg hb, State.storeHome_tile, State.tile_updTile_same, hs, hl, hq]
    exact ⟨rfl, rfl, rfl, rfl, rfl, rfl⟩

/-- Sending the record of a launch leaves its regions. -/
theorem State.sendLaunchRecord_regions (s : State) {k : Nat} {m : AMap Launch} {l : Launch} (h : s.launches = AMap.put m k l)
    (r : ErrRec) : ∃ l', AMap.find? (s.sendLaunchRecord k r).launches k = some l' ∧ l'.regions = l.regions := by
  have hf : AMap.find? s.launches k = some l := by
    rw [h]
    exact AMap.find?_put_same _ _ _
  unfold State.sendLaunchRecord
  rw [hf]
  dsimp only
  rw [(State.SameTiles.sendRecord _ _).2]
  exact ⟨_, AMap.find?_put_same _ _ _, rfl⟩

/-- The regions of a launch with those of a domain ended. -/
def endRegions (dom : Nat) (rs : List Region) : List Region := rs.map (fun x => if x.dom = dom then { x with ended := true } else x)

theorem ended_of_mem_endRegions {dom : Nat} {rs : List Region} {x : Region} (h : x ∈ endRegions dom rs) (hx : x.dom = dom) :
    x.ended = true := by
  obtain ⟨y, _, rfl⟩ := List.mem_map.mp h
  by_cases hy : y.dom = dom
  · rw [if_pos hy]
  · rw [if_neg hy] at hx
    exact absurd hx hy

/-- The end of a fault domain ends every region of it (R435). -/
theorem State.endDomain_ended {s : State} {k : Nat} {l : Launch} (h : AMap.find? s.launches k = some l) (dom : Nat) (r : ErrRec) :
    ∃ l', AMap.find? (s.endDomain k dom r).launches k = some l' ∧ ∀ x ∈ l'.regions, x.dom = dom → x.ended = true := by
  have key (u : State) (m : AMap Launch) (l1 : Launch) (hu : u.launches = AMap.put m k l1) (rs : List Region)
      (hl : l1.regions = endRegions dom rs) (r : ErrRec) : ∃ l', AMap.find? (u.sendLaunchRecord k r).launches k = some l' ∧
      ∀ x ∈ l'.regions, x.dom = dom → x.ended = true := by
    obtain ⟨l', hl', hr⟩ := u.sendLaunchRecord_regions hu r
    refine ⟨l', hl', fun x hx => ?_⟩
    rw [hr, hl] at hx
    exact ended_of_mem_endRegions hx
  unfold State.endDomain
  rw [h]
  exact key _ _ _ rfl _ rfl _

/-- The launch with 16 KiB more charged to a region (R389). -/
def Launch.charged (l : Launch) (region : Nat) : Launch :=
  { l with regions := l.regions.modify region (fun r => { r with grown := r.grown + 16 }) }

theorem Launch.charged_region {l : Launch} {region : Nat} {r : Region} (h : l.regions[region]? = some r) :
    ∃ r', (l.charged region).regions[region]? = some r' ∧ r'.grown = r.grown + 16 := by
  refine ⟨{ r with grown := r.grown + 16 }, ?_, rfl⟩
  rw [Launch.charged, List.getElem?_modify_eq, h]
  rfl

/-- The package with the i-th free segment of a die taken for a region of launch k, and the n-th free choice made. -/
def State.tookSeg (s : State) (die k : Nat) (l : Launch) (region i n : Nat) : State :=
  { s with
    launches := AMap.put s.launches k (l.charged region)
    free := n
    segsFree := AMap.put s.segsFree die ((s.freeSegs die).eraseIdx i) }

section
variable {s : State} {g k : Nat} {q : Q} {l : Launch} {r : Region} (hs : 64 ≤ (s.tile g).stall) (hd : (s.tile g).dbg.stopped = false)
  (hq : (s.tile g).growQueue = some q) (hb : (s.tile g).bound = some k) (hl : AMap.find? s.launches k = some l)
  (hr : l.regions[(s.tile g).chargeRegion]? = some r)
include hs hd hq hb hl hr

/-- A stalled queue takes one of the free segments, its region charged 16 KiB. -/
theorem exec_queueGrowth_grown (hf : s.freeSegs (g / 16) ≠ []) (hg : r.grown + 16 ≤ r.growkb) : ∃ i n, i < (s.freeSegs (g / 16)).length ∧
    exec (.queueGrowth g) s = .next ((s.tookSeg (g / 16) k l (s.tile g).chargeRegion i n).insertSeg g q
      ((s.freeSegs (g / 16)).getD i 0) (s.tile g).chargeRegion) := by
  have h0 : ¬ ((s.tile g).stall < 64 ∨ (s.tile g).dbg.stopped = true) := by
    rw [hd]
    simp only [Bool.false_eq_true, or_false]
    omega
  have he : ¬ (s.freeSegs (g / 16)).isEmpty = true := by
    rw [List.isEmpty_iff]
    exact hf
  refine ⟨_, s.free + 1, Nat.mod_lt (Config.unstated 11 [BitVec.ofNat 64 s.free]).toNat (List.length_pos_iff.mpr hf), ?_⟩
  rw [exec_queueGrowth, execQueueGrowth]
  dsimp only
  rw [if_neg h0, hq, hb]
  dsimp only
  rw [hl]
  dsimp only
  rw [hr]
  dsimp only
  rw [if_neg he, if_neg (by omega)]
  rfl

/-- Without one, or over its limit, the charged region's domain ends (R390). -/
theorem exec_queueGrowth_fault (h : s.freeSegs (g / 16) = [] ∨ r.growkb < r.grown + 16) :
    ∃ rec, exec (.queueGrowth g) s = .next (s.endDomain k r.dom rec) := by
  have h0 : ¬ ((s.tile g).stall < 64 ∨ (s.tile g).dbg.stopped = true) := by
    rw [hd]
    simp only [Bool.false_eq_true, or_false]
    omega
  have hdom : l.domOf (s.tile g).chargeRegion = r.dom := by
    rw [Launch.domOf, hr]
  rw [exec_queueGrowth, execQueueGrowth]
  dsimp only
  rw [if_neg h0, hq, hb]
  dsimp only
  rw [hl]
  dsimp only
  rw [hr]
  dsimp only
  by_cases he : (s.freeSegs (g / 16)).isEmpty = true
  · rw [if_pos he, State.growFault, hdom]
    exact ⟨_, rfl⟩
  · have hg : r.growkb < r.grown + 16 := h.resolve_left (fun h => he (by rw [h]; rfl))
    rw [if_neg he, if_pos hg, State.growFault, hdom]
    exact ⟨_, rfl⟩

end

/-! ### The stack MV unit (R238) -/

/-- Every tile's matrix engine is as it was. -/
def State.SameMxe (s s' : State) : Prop := ∀ g, (s'.tile g).mxe = (s.tile g).mxe

theorem State.SameMxe.refl (s : State) : s.SameMxe s := fun _ => rfl

theorem State.SameMxe.trans {s s' s'' : State} (h : s.SameMxe s') (h' : s'.SameMxe s'') : s.SameMxe s'' :=
  fun g => (h' g).trans (h g)

theorem State.SameTiles.mxe {s s' : State} (h : s.SameTiles s') : s.SameMxe s' := fun g => by rw [h.tile]

theorem State.SameMxe.updTile (s : State) (g : Nat) {f : Tile → Tile} (hf : ∀ t, (f t).mxe = t.mxe) : s.SameMxe (s.updTile g f) := by
  intro h
  by_cases hg : h = g
  · subst hg
    rw [State.tile_updTile_same, hf]
  · rw [State.tile_updTile_other _ _ _ _ hg]

theorem State.SameMxe.updInj (s : State) (a : Agent) (f : Inj → Inj) : s.SameMxe (s.updInj a f) := by
  unfold State.updInj
  split
  · exact State.SameMxe.updTile _ _ fun _ => rfl
  · split <;> exact State.SameMxe.refl _
  · exact State.SameMxe.refl _
  · exact State.SameMxe.refl _

theorem State.SameMxe.tileOut (s : State) (g : Nat) : s.SameMxe (s.tileOut g) := by
  unfold State.tileOut
  dsimp only
  split
  · exact State.SameMxe.updTile _ _ fun _ => rfl
  · split
    · exact State.SameMxe.refl _
    · exact State.SameMxe.updTile _ _ fun _ => rfl

theorem State.SameMxe.portDown (s : State) (port : Nat) : s.SameMxe (s.portDown port) := by
  unfold State.portDown
  dsimp only
  split <;> exact State.SameMxe.refl _

theorem State.SameMxe.retireUnit (s : State) (level inst : Nat) (r : LogRec) (row : Bool) : s.SameMxe (s.retireUnit level inst r row) := by
  unfold State.retireUnit
  dsimp only
  split
  · split
    · split
      · exact State.SameMxe.refl _
      · exact State.SameMxe.trans (s' := { s with retired := lineOfMxe inst r.loc row :: s.retired }) (State.SameMxe.refl _)
          (State.SameMxe.updTile _ _ fun _ => rfl)
    · exact State.SameMxe.tileOut _ _
  · split
    · split <;> exact State.SameMxe.refl _
    · split
      · exact State.SameMxe.portDown _ _
      · split
        · split
          · exact State.SameMxe.refl _
          · split <;> exact State.SameMxe.refl _
        · split <;> split <;> exact State.SameMxe.refl _

theorem State.SameMxe.ite {s u v : State} (c : Prop) [Decidable c] (hu : s.SameMxe u) (hv : s.SameMxe v) :
    s.SameMxe (if c then u else v) := by
  split
  · exact hu
  · exact hv

theorem State.SameMxe.logEvent (s : State) (level inst : Nat) (loc : Word) (kind : Nat) (inj : Bool) (src : Nat) :
    s.SameMxe (s.logEvent level inst loc kind inj src) := by
  have check {s0 : State} (c : Prop) [Decidable c] (er : ErrRec) (r : LogRec) (row : Bool) :
      s0.SameMxe (if c then (s0.sendRecord er).retireUnit level inst r row else s0) :=
    .ite c ((State.SameTiles.sendRecord _ _).mxe.trans (State.SameMxe.retireUnit _ _ _ _ _)) (.refl _)
  unfold State.logEvent
  dsimp only
  generalize hu : ({ s with logs := _ } : State) = u
  have hs : s.SameMxe u := by
    subst hu
    exact fun _ => rfl
  refine hs.trans ?_
  refine .ite _ (State.SameTiles.sendRecord u _).mxe (.ite _ (.refl _) ?_)
  refine .ite _ (.trans (.ite _ (.refl _) (check _ _ _ _)) (check _ _ _ _)) (.ite _ (.refl _) (check _ _ _ _))

theorem State.SameMxe.strike {s : State} {h : HomeRead} (hs : s.SameMxe h.s) (src key : Nat) (a : Armed) :
    s.SameMxe (strike src key a h).s := by
  have hi := hs.trans (State.SameMxe.updInj h.s a.agent injFired)
  unfold Machine.strike
  dsimp only
  split
  · exact hi.trans (State.SameMxe.logEvent { h.s.updInj a.agent injFired with armed := _ } _ _ _ _ _ _)
  · split <;> exact hi

theorem State.SameMxe.meetBad {s : State} {h : HomeRead} (hs : s.SameMxe h.s) (src : Nat) (w : BadWord) :
    s.SameMxe (meetBad src w h).s := by
  have hl := hs.trans (State.SameMxe.logEvent h.s w.level.1 w.level.2 w.loc (if w.corr then 1 else 2) w.inj src)
  unfold Machine.meetBad
  generalize h.s.logEvent w.level.1 w.level.2 w.loc (if w.corr then 1 else 2) w.inj src = u at *
  dsimp only
  split <;> exact hl

theorem foldr_readMxe {α : Type} {s : State} {f : α → HomeRead → HomeRead} (hf : ∀ a h, s.SameMxe h.s → s.SameMxe (f a h).s)
    (l : List α) (h : HomeRead) (hs : s.SameMxe h.s) : s.SameMxe (l.foldr f h).s := by
  induction l with
  | nil => exact hs
  | cons a r ih => exact hf a _ ih

/-- A read at the home leaves every matrix engine. -/
theorem State.SameMxe.readHome (s : State) (src key n : Nat) : s.SameMxe (s.readHome src key n).s := by
  unfold State.readHome
  dsimp only
  split
  · exact .refl s
  · exact foldr_readMxe (fun w h hs => hs.meetBad src w) _ _ (foldr_readMxe (fun a h hs => hs.strike src key a) _ _ (.refl s))

theorem State.SameMxe.pinRead (pins : List TlbEnt) (l : List (Nat × Nat)) (s : State) : s.SameMxe (s.pinRead pins l).2 := by
  induction l generalizing s with
  | nil => exact .refl s
  | cons p r ih =>
    obtain ⟨va, n⟩ := p
    unfold State.pinRead
    dsimp only
    have hs (k k' : Nat) : s.SameMxe ((s.blockFlat k n).readHome 3 k' n).s :=
      (State.SameTiles.blockFlat s k n).mxe.trans (State.SameMxe.readHome _ _ _ _)
    split
    · exact hs _ _
    · split <;> rename_i hp <;> obtain rfl := congrArg Prod.snd hp <;> exact (hs _ _).trans (ih _)

theorem Mxe.tk_setTk_same (x : Mxe) (k : BitVec 2) (t : Ticket) : (x.setTk k t).tk k = t := by
  simp [Mxe.tk, Mxe.setTk]

theorem Mxe.tk_setTk_other (x : Mxe) {j k : BitVec 2} (t : Ticket) (h : j ≠ k) : (x.setTk k t).tk j = x.tk j := by
  have hn : k.toNat ≠ j.toNat := fun e => h (BitVec.eq_of_toNat_eq e.symm)
  simp [Mxe.tk, Mxe.setTk, Vector.getElem_set_ne, hn]

/-- Ticket k is done and the others are as they were. -/
def State.TicketDone (s v : State) (g : Nat) (k : BitVec 2) : Prop :=
  ((v.tile g).mxe.tk k).st = 2 ∧ ∀ j, j ≠ k → (v.tile g).mxe.tk j = (s.tile g).mxe.tk j

theorem State.TicketDone.setTk {s s' : State} (h : s.SameMxe s') (g : Nat) (k : BitVec 2) {t : Ticket} (ht : t.st = 2) :
    s.TicketDone (s'.updMxe g (fun x => x.setTk k t)) g k := by
  unfold State.TicketDone State.updMxe
  rw [State.tile_updTile_same]
  refine ⟨by rw [Mxe.tk_setTk_same, ht], fun j hj => ?_⟩
  rw [Mxe.tk_setTk_other _ _ hj, h g]

/-- The unit of the stack ends a BUSY ticket, with a result or an error (R238, R239). -/
theorem State.smvDone_ticket {s : State} {g : Nat} {k : BitVec 2} (h : ((s.tile g).mxe.tk k).st = 1) :
    s.TicketDone (s.smvDone g k) g k := by
  unfold State.smvDone
  dsimp only
  rw [if_neg (not_not.mpr h)]
  have read {u u' : State} {l : List (Nat × Nat)} {r : Except TrapI (List Byte)}
      (hp : u.pinRead ((s.tile g).mxe.tk k).pins l = (r, u')) : u.SameMxe u' := by
    have hm := State.SameMxe.pinRead ((s.tile g).mxe.tk k).pins l u
    rwa [hp] at hm
  split
  · rename_i hp
    exact State.TicketDone.setTk (read hp) g k rfl
  · rename_i hp
    split
    · rename_i hq
      exact State.TicketDone.setTk ((read hp).trans (read hq)) g k rfl
    · rename_i hq
      have h2 := (read hp).trans (read hq)
      split
      · exact State.TicketDone.setTk h2 g k rfl
      · exact State.TicketDone.setTk h2 g k rfl
      · split <;> exact State.TicketDone.setTk h2 g k rfl

end Sys2Proof.Machine

/-! SUPPORT. One level of a CRED of 32-bit integers (R297, R298): the partner's header, the sums, the header cleared. -/

namespace Sys2Proof.Machine

/-! ### Local accesses of an engine in the scratchpad -/

theorem State.lRead_scratch {s : State} (hs : s.clean) {g off n : Nat} (q : Q) (h1 : off + n ≤ (s.tile g).spBytes)
    (h2 : off + n ≤ 0x600000) : s.lRead g q off n = .ok (s.mem.getN (localKey g off) n) s := by
  obtain ⟨_, _, ho⟩ := (s.tile g).scratch_rules h1 h2
  unfold State.lRead
  rw [ho, if_neg Bool.false_ne_true]
  generalize localKey g off = key
  rw [State.readHome_clean hs]

/-- A write that is no add, which its tile neither refuses nor holds, is one at the home. -/
theorem State.tileWrite_plain {s s' : State} {path g off : Nat} {bs : List Byte} {add : Bool} (ha : ¬ add = true)
    (he : (s.tile g).storeErr off bs.length = none) (ho : (s.tile g).rowOpen off bs.length = false)
    (hw : (s.zTouched g off bs.length).writeHome (localKey g off) bs = .ok s') : s.tileWrite path g off bs add = .ok s' := by
  unfold State.tileWrite
  dsimp only
  rw [if_neg ha, he]
  dsimp only
  rw [ho, if_neg Bool.false_ne_true, if_neg ha, hw]

/-- What the target answers is what the access answers. (The function is unfolded by itself, before its arguments are put in: the write
at the target must stay closed.) -/
theorem State.lWrite_ok {s s' : State} {g off : Nat} {q : Q} {bs : List Byte} (h : s.tileWrite (pathNo q) g off bs false = .ok s') :
    s.lWrite g q off bs = .ok () s' := by
  obtain ⟨f, hf⟩ : ∃ f, f = @State.lWrite := ⟨_, rfl⟩
  rw [← hf]
  delta State.lWrite at hf
  rw [hf]
  beta_reduce
  generalize s.tileWrite (pathNo q) g off bs false = r at h ⊢
  rw [h]

theorem State.lWrite_scratch {s : State} (hb : s.bad = []) {g off : Nat} {bs : List Byte} (q : Q)
    (h1 : off + bs.length ≤ (s.tile g).lowReserved) (h2 : off + bs.length ≤ 0x600000) :
    s.lWrite g q off bs = .ok () { s with mem := s.mem.setN (localKey g off) bs } := by
  have h3 : off + bs.length ≤ (s.tile g).spBytes := by simp only [Tile.lowReserved] at h1; omega
  obtain ⟨hbad, hz, ho⟩ := (s.tile g).scratch_rules h3 h2
  have hq : (s.tile g).inQueues off bs.length = false := by
    simp only [Tile.inQueues, overlap, Bool.and_eq_false_iff, decide_eq_false_iff_not]
    simp only [Tile.lowReserved] at h1
    omega
  have he : (s.tile g).storeErr off bs.length = none := by
    simp [Tile.storeErr, hbad, hz, hq]
  have ht : s.zTouched g off bs.length = s := by
    simp [State.zTouched, hz]
  have hw : (s.zTouched g off bs.length).writeHome (localKey g off) bs = .ok { s with mem := s.mem.setN (localKey g off) bs } := by
    rw [ht, State.writeHome_clean _ _ _ hb]
  exact State.lWrite_ok (State.tileWrite_plain Bool.false_ne_true he ho hw)

/-! ### Bytes read and written -/

/-- A field of bytes read from memory is read at its own address. -/
theorem slice_getN (m : Memory) (k : Nat) {n i j : Nat} (h : i + j ≤ n) : slice (m.getN k n) i j = m.getN (k + i) j := by
  obtain ⟨r, rfl⟩ := Nat.exists_eq_add_of_le h
  have ha : m.getN k (i + j + r) = m.getN k i ++ (m.getN (k + i) j ++ m.getN (k + (i + j)) r) := by
    rw [Memory.getN_add m k (i + j) r, Memory.getN_add m k i j, List.append_assoc]
  unfold slice
  rw [ha, List.drop_left' (Memory.length_getN m k i), List.take_left' (Memory.length_getN m (k + i) j)]
  dsimp only
  rw [Memory.length_getN, Nat.sub_self, List.replicate_zero, List.append_nil]

theorem leAt_getN (m : Memory) (k : Nat) {n i j : Nat} (h : i + j ≤ n) : leAt (m.getN k n) i j = ofBytes (m.getN (k + i) j) := by
  rw [leAt, slice_getN m k h]

/-- Bytes written are read back in part. -/
theorem Memory.getN_setN_part (m : Memory) (a : Nat) (w : m.wf = true) {bs : List Byte} {i j : Nat} (h : i + j ≤ bs.length) :
    (m.setN a bs).getN (a + i) j = (bs.drop i).take j := by
  have hs := slice_getN (m.setN a bs) a h
  have hl : ((bs.drop i).take j).length = j := by
    rw [List.length_take, List.length_drop]
    omega
  rw [Memory.getN_setN bs m a w] at hs
  rw [← hs]
  unfold slice
  dsimp only
  rw [hl, Nat.sub_self, List.replicate_zero, List.append_nil]

/-- Bytes away from those written are as they were. -/
theorem Memory.getN_setN_away (m : Memory) (a : Nat) (w : m.wf = true) (bs : List Byte) {k n : Nat}
    (h : k + n ≤ a ∨ a + bs.length ≤ k) : (m.setN a bs).getN k n = m.getN k n := by
  induction n generalizing k with
  | zero => rfl
  | succ n ih =>
    rw [Memory.getN, Memory.getN, ih (by omega), Memory.get_setN_other _ _ _ _ w (by omega)]

/-! ### The sums of a level -/

/-- The sums of 32-bit elements from the e-th on. -/
def addWords (xs ys : List Byte) : (n : Nat) → (e : Nat) → List Byte
  | 0, _ => []
  | n + 1, e => leBytes 4 ((ofBytes (slice xs (4 * e) 4) + ofBytes (slice ys (4 * e) 4)) % 2 ^ 32) ++ addWords xs ys n (e + 1)

theorem length_addWords (xs ys : List Byte) (n e : Nat) : (addWords xs ys n e).length = 4 * n := by
  induction n generalizing e with
  | zero => rfl
  | succ n ih =>
    rw [addWords, List.length_append, length_leBytes, ih]
    omega

theorem addWords_elem (xs ys : List Byte) {n k : Nat} (h : k < n) (e : Nat) : ((addWords xs ys n e).drop (4 * k)).take 4 =
    leBytes 4 ((ofBytes (slice xs (4 * (e + k)) 4) + ofBytes (slice ys (4 * (e + k)) 4)) % 2 ^ 32) := by
  induction n generalizing k e with
  | zero => omega
  | succ n ih =>
    rw [addWords]
    cases k with
    | zero =>
      rw [Nat.mul_zero, List.drop_zero, List.take_left' (length_leBytes 4 _), Nat.add_zero]
    | succ k =>
      rw [show 4 * (k + 1) = 4 + 4 * k by omega, ← List.drop_drop, List.drop_left' (length_leBytes 4 _), ih (by omega),
        show e + 1 + k = e + (k + 1) by omega]

end Sys2Proof.Machine

/-! SUPPORT. CRED_PARTNER_ARRIVAL (R297, R298): a level of 32-bit integers whose partner's header stands. -/

namespace Sys2Proof.Machine

theorem State.lWrite_wrote {s : State} (hb : s.bad = []) (q : Q) {g off : Nat} {bs : List Byte}
    (h1 : off + bs.length ≤ (s.tile g).lowReserved) (h2 : off + bs.length ≤ 0x600000) : ∃ u, s.lWrite g q off bs = .ok () u ∧
    u.mem = s.mem.setN (localKey g off) bs ∧ u.bad = [] ∧ u.tile g = s.tile g :=
  ⟨_, State.lWrite_scratch hb q h1 h2, rfl, hb, rfl⟩

/-! ### What a level's sums and places are -/

/-- The sums of 32-bit integers overflow nowhere and set no flag. -/
theorem credSums_words (rm : Nat) (xs ys : List Byte) (n k : Nat) : credSums 2 rm xs ys n k = (addWords xs ys n k, 0, none) := by
  induction n generalizing k with
  | zero => rfl
  | succ n ih =>
    have hs : credSize 2 = 4 := rfl
    have hz : (0 : BitVec 5) ||| 0 = 0 := BitVec.or_self
    have ha (x y : List Byte) : credAdd 2 rm x y = some (leBytes 4 ((ofBytes x + ofBytes y) % 2 ^ 32), 0) := rfl
    rw [credSums, addWords]
    dsimp only
    rw [hs, Nat.mul_comm k 4, ha, ih]
    dsimp only
    rw [hz]

/-- A number of at least 2^k has more than k digits. -/
theorem lt_bitLen {f v k : Nat} (hv : v < 2 ^ f) (h : 2 ^ k ≤ v) : k < bitLen f v := by
  have hpos : 0 < v := Nat.lt_of_lt_of_le (Nat.two_pow_pos k) h
  induction f generalizing v k with
  | zero => rw [Nat.pow_zero] at hv; omega
  | succ f ih =>
    rw [bitLen, if_neg (by omega)]
    cases k with
    | zero => omega
    | succ k =>
      rw [Nat.pow_succ] at hv h
      have := ih (v := v / 2) (k := k) (by omega) (by omega) (by have := Nat.two_pow_pos k; omega)
      omega

theorem credReceives_of {en : QEntry} {n i : Nat} (hn : (en.cap.getD 0 0).toNat = n) (hi : (en.cap.getD 1 0).toNat = i)
    (h1 : n < 65536) (h2 : i % 2 ^ (en.row + 1) ≠ 2 ^ en.row) (h3 : i + 2 ^ en.row < n) : credReceives en = true := by
  have hl : en.row < credLv n := lt_bitLen (f := 17) (by omega) (by omega)
  rw [credReceives, hn, hi]
  simp [hl, h2, h3]

theorem credEt_words {e : Eng} (h : e.f7.toNat % 8 = 2) : credEt e = 2 := by
  simp only [credEt, fld, bitsN]
  omega

theorem credD_words {e : Eng} (h : credEt e = 2) (c : Nat) : credD e c = (4 * c + 63) / 64 * 64 := by
  rw [credD, h, cdiv, show c * credSize 2 = 4 * c from Nat.mul_comm c 4]
  omega

/-! ### What the changes of an entry leave -/

theorem updWhere_head {en : QEntry} (rest : List QEntry) (f : QEntry → QEntry) :
    ∃ r, updWhere (fun e => decide (e.isn = en.isn)) f (en :: rest) = f en :: r := by
  refine ⟨updWhere (fun e => decide (e.isn = en.isn)) f rest, ?_⟩
  rw [updWhere, List.map_cons, if_pos (decide_eq_true rfl)]
  rfl

theorem State.updEntry_sq {s : State} {g : Nat} {en : QEntry} {rest : List QEntry} (h : (s.tile g).sq.ents = en :: rest)
    (f : QEntry → QEntry) : let t := (s.updEntry g .s en.isn f).tile g
    (∃ r, t.sq.ents = f en :: r) ∧ t.sq.seq = (s.tile g).sq.seq ∧ t.lowReserved = (s.tile g).lowReserved := by
  have ht : (s.updEntry g .s en.isn f).tile g = { s.tile g with
      sq := { (s.tile g).sq with ents := updWhere (fun e => decide (e.isn = en.isn)) f (s.tile g).sq.ents } } := by
    rw [State.updEntry_eq, State.tile_setTile_same]
    rfl
  dsimp only
  rw [ht, h]
  exact ⟨updWhere_head rest f, rfl, rfl⟩

theorem State.noteEff_rest (s : State) (g : Nat) (isn : Word) : (s.noteEff g .s isn).mem = s.mem ∧ (s.noteEff g .s isn).bad = s.bad ∧
    (s.noteEff g .s isn).tile g = (s.updEntry g .s isn (fun e => { e with eff := true })).tile g := ⟨rfl, rfl, rfl⟩

theorem State.noteMpc_sq (s : State) (g : Nat) (isn : Word) : (s.noteMpc g .s isn).mem = s.mem ∧
    ((s.noteMpc g .s isn).tile g).sq.ents = (s.tile g).sq.ents ∧ ((s.noteMpc g .s isn).tile g).sq.seq = (s.tile g).sq.seq := by
  have hm (v : Word) : (s.setMpc g .s v).mem = s.mem ∧ ((s.setMpc g .s v).tile g).sq.ents = (s.tile g).sq.ents ∧
      ((s.setMpc g .s v).tile g).sq.seq = (s.tile g).sq.seq := by
    have ht : (s.setMpc g .s v).tile g = { s.tile g with sq := { (s.tile g).sq with mpc := v } } := State.tile_updTile_same _ _ _
    rw [ht]
    exact ⟨rfl, rfl, rfl⟩
  unfold State.noteMpc
  split
  · split
    · exact hm _
    · exact ⟨rfl, rfl, rfl⟩
  · exact ⟨rfl, rfl, rfl⟩

theorem Queue.entry_head {x : Queue} {en : QEntry} {rest : List QEntry} (h : x.ents = en :: rest) : x.entry en.isn = some en := by
  rw [Queue.entry, h, List.find?_cons_of_pos]
  exact decide_eq_true rfl

/-! ### The level -/

section
variable {s : State} {g : Nat} {en : QEntry} {e : Eng} {rest : List QEntry}

theorem State.credAt_head (h : (s.tile g).sq.ents = en :: rest) (hst : en.st = .begun) (hsub : en.sub = 0)
    (hr : (s.tile g).qRuns .s = true) (hi : en.instr = some (.cred e)) (hc : credReceives en = true) : s.credAt g = some (en, e) := by
  have hh : (s.tile g).sq.headEnt = some en := by
    rw [Queue.headEnt, h, List.find?_cons_of_pos]
    simp [hst]
  have ho : (s.tile g).qOpen .s = true := (Bool.and_eq_true_iff.mp hr).1
  have hsub1 : ¬ en.sub = 1 := by omega
  have hca : s.copyAt g .s en.isn = some (en, .cred e) := by
    have he : ((s.tile g).queue .s).entry en.isn = some en := Queue.entry_head h
    rw [State.copyAt, he]
    simp [hst, ho, hsub1, hi, Instr.isCopy]
  rw [State.credAt, hh]
  dsimp only
  rw [hca]
  dsimp only
  rw [hc, hr]
  rfl

end

@[simp] theorem Res.toBeat_ok {α : Type} (a : α) (s : State) (f : α → State → BeatRes) : (Res.ok a s).toBeat f = f a s := rfl

/-- The header that the partner of rank i has sent for level l stands at k (R297). -/
structure CredHeader (m : Memory) (k c i n l : Nat) : Prop where
  flag : m.get (k + 15) = 1
  count : ofBytes (m.getN k 4) = c
  rank : ofBytes (m.getN (k + 4) 4) = i + 2 ^ l
  ranks : ofBytes (m.getN (k + 8) 4) = n
  level : ofBytes (m.getN (k + 12) 1) = l
  type : ofBytes (m.getN (k + 13) 1) = 2

/-- The c elements of a CRED at off and the receive area of its level, of d bytes and a header, at a, in the tile's scratchpad below
what is reserved. -/
structure State.CredArea (s : State) (g : Nat) (en : QEntry) (e : Eng) (c d a : Nat) : Prop where
  type : credEt e = 2
  count : en.r2.toNat = c
  some : 0 < c
  size : credD e c = d
  room : 4 * c ≤ d
  place : en.r0.toNat + (en.row + 1) * (d + 64) = a
  above : en.r0.toNat + 4 * c ≤ a
  low : a + d + 64 ≤ (s.tile g).lowReserved
  scratch : (s.tile g).spBytes ≤ 0x600000

/-- The sums of a level. -/
def levelSums (m : Memory) (kx ka c : Nat) : List Byte := addWords (m.getN kx (4 * c)) (m.getN ka (4 * c)) c 0

theorem length_levelSums (m : Memory) (kx ka c : Nat) : (levelSums m kx ka c).length = 4 * c := length_addWords _ _ _ _

section
variable {s : State} {g : Nat} {en : QEntry} {e : Eng} {rest : List QEntry} {c d a n i : Nat}

theorem State.CredArea.arrived (h : s.CredArea g en e c d a) :
    credArrived s g en e = (s.mem.get (localKey g (a + d) + 15) == 1) := by
  rw [credArrived, h.count, h.size, h.place, localKey, localKey, Nat.add_assoc (tileBase g)]

theorem credReduce_waits (h : s.CredArea g en e c d a) (hf : s.mem.get (localKey g (a + d) + 15) ≠ 1) :
    credReduce s g .s en e = .hold s := by
  have ha : (!credArrived s g en e) = true := by
    rw [h.arrived, beq_eq_false_iff_ne.mpr hf]
    rfl
  rw [credReduce]
  exact if_pos ha

/-- A level is reduced: the sums stand in the elements' place, the header is cleared, and the command is at the next level. -/
theorem credReduce_level (h : s.CredArea g en e c d a) (hq : (s.tile g).sq.ents = en :: rest) (hs : s.clean)
    (hn : (en.cap.getD 0 0).toNat = n) (hi : (en.cap.getD 1 0).toNat = i)
    (hh : CredHeader s.mem (localKey g (a + d)) c i n en.row) : ∃ u, credReduce s g .s en e = .more u ∧
    u.mem = (s.mem.setN (localKey g en.r0.toNat) (levelSums s.mem (localKey g en.r0.toNat) (localKey g a) c)).setN
      (localKey g (a + d)) (List.replicate 16 0) ∧
    (u.tile g).sq.ents.head?.map (fun n => n.row) = some (en.row + 1) ∧ (u.tile g).sq.seq = (s.tile g).sq.seq := by
  have hlow : (s.tile g).lowReserved ≤ (s.tile g).spBytes := Nat.sub_le _ _
  obtain ⟨_, _, h0, _, hroom, _, habove, hfit, hsp⟩ := id h
  have ha : (!credArrived s g en e) = false := by
    rw [h.arrived, hh.flag]
    rfl
  have hread (off k : Nat) (hk : off + k ≤ a + d + 64) : s.lRead g .s off k = .ok (s.mem.getN (localKey g off) k) s :=
    State.lRead_scratch hs .s (by omega) (by omega)
  have hfields : ¬ (leAt (s.mem.getN (localKey g (a + d)) 16) 0 4 ≠ c ∨ leAt (s.mem.getN (localKey g (a + d)) 16) 8 4 ≠ n ∨
      leAt (s.mem.getN (localKey g (a + d)) 16) 13 1 ≠ 2 ∨ leAt (s.mem.getN (localKey g (a + d)) 16) 12 1 ≠ en.row ∨
      leAt (s.mem.getN (localKey g (a + d)) 16) 4 4 ≠ i + 2 ^ en.row) := by
    rw [leAt_getN _ _ (by decide), leAt_getN _ _ (by decide), leAt_getN _ _ (by decide), leAt_getN _ _ (by decide),
      leAt_getN _ _ (by decide), Nat.add_zero, hh.count, hh.ranks, hh.type, hh.level, hh.rank]
    simp
  have hempty : ¬ (levelSums s.mem (localKey g en.r0.toNat) (localKey g a) c).isEmpty = true := by
    rw [List.isEmpty_iff_length_eq_zero, length_levelSums]
    omega
  rw [credReduce]
  dsimp only
  rw [ha, if_neg Bool.false_ne_true, hn, hi, h.count, h.size, h.type, h.place, hread _ _ (by omega), Res.toBeat_ok, if_neg hfields,
    show c * credSize 2 = 4 * c from Nat.mul_comm c 4, hread _ _ (by omega), Res.toBeat_ok, hread _ _ (by omega), Res.toBeat_ok,
    credSums_words, ← levelSums]
  dsimp only
  have hlen := length_levelSums s.mem (localKey g en.r0.toNat) (localKey g a) c
  generalize levelSums s.mem (localKey g en.r0.toNat) (localKey g a) c = out at hlen hempty ⊢
  obtain ⟨u, hwx, hmx, hbx, htx⟩ := State.lWrite_wrote hs.1 Q.s (off := en.r0.toNat) (bs := out) (g := g) (by omega) (by omega)
  have hseq : (u.tile g).sq.seq = (s.tile g).sq.seq := by rw [htx]
  rw [← htx] at hq
  rw [hwx, Res.toBeat_ok, if_neg hempty]
  obtain ⟨hme, hbe, hte⟩ := u.noteEff_rest g en.isn
  obtain ⟨⟨r, hents⟩, hse, hle⟩ := State.updEntry_sq hq (fun e => { e with eff := true })
  rw [← hte] at hents hse hle
  generalize u.noteEff g .s en.isn = w at hme hbe hents hse hle ⊢
  have hfit' : a + d + 64 ≤ (w.tile g).lowReserved := by rw [hle, htx]; exact hfit
  obtain ⟨v, hwh, hmh, _, hth⟩ := State.lWrite_wrote (hbe.trans hbx) Q.s (off := a + d) (bs := List.replicate 16 0) (g := g)
    (by rw [List.length_replicate]; omega) (by rw [List.length_replicate]; omega)
  rw [← hth] at hents hse
  rw [hwh, Res.toBeat_ok]
  obtain ⟨⟨r', hents'⟩, hsv, _⟩ := State.updEntry_sq hents
    (fun k => { k with row := k.row + 1, beat := k.beat + 1, far := [], flags := k.flags ||| 0 })
  refine ⟨_, rfl, ?_, congrArg (fun l => l.head?.map (fun n => n.row)) hents', hsv.trans (hse.trans hseq)⟩
  exact hmh.trans (by rw [hme, hmx])
/-- What CRED_PARTNER_ARRIVAL does where the header has come. -/
theorem exec_credPartnerArrival_level (hat : s.credAt g = some (en, e)) (h : s.CredArea g en e c d a)
    (hq : (s.tile g).sq.ents = en :: rest) (hs : s.clean) (hn : (en.cap.getD 0 0).toNat = n) (hi : (en.cap.getD 1 0).toNat = i)
    (hh : CredHeader s.mem (localKey g (a + d)) c i n en.row) : ∃ v, exec (.credPartnerArrival g) s = .next v ∧
    v.mem = (s.mem.setN (localKey g en.r0.toNat) (levelSums s.mem (localKey g en.r0.toNat) (localKey g a) c)).setN
      (localKey g (a + d)) (List.replicate 16 0) ∧
    (v.tile g).sq.ents.head?.map (fun n => n.row) = some (en.row + 1) ∧ (v.tile g).sq.seq = (s.tile g).sq.seq := by
  obtain ⟨u, hu, hmem, hrow, hseq⟩ := credReduce_level h hq hs hn hi hh
  obtain ⟨hm, he, hx⟩ := u.noteMpc_sq g en.isn
  refine ⟨u.noteMpc g .s en.isn, ?_, hm.trans hmem, by rw [he, hrow], hx.trans hseq⟩
  rw [exec_credPartnerArrival, execCredPartnerArrival, hat]
  dsimp only
  rw [hu]

theorem exec_credPartnerArrival_waits (hat : s.credAt g = some (en, e)) (h : s.CredArea g en e c d a)
    (hf : s.mem.get (localKey g (a + d) + 15) ≠ 1) : exec (.credPartnerArrival g) s = .next s := by
  rw [exec_credPartnerArrival, execCredPartnerArrival, hat]
  dsimp only
  rw [credReduce_waits h hf]

end

/-! ### The bytes that a level leaves -/

section
variable {m : Memory} (w : m.wf = true) {kx ka kh c : Nat}
include w

theorem levelMem_sum (h : kx + 4 * c ≤ kh) {k : Nat} (hk : k < c) :
    ofBytes (((m.setN kx (levelSums m kx ka c)).setN kh (List.replicate 16 0)).getN (kx + 4 * k) 4) =
      (ofBytes (m.getN (kx + 4 * k) 4) + ofBytes (m.getN (ka + 4 * k) 4)) % 2 ^ 32 := by
  rw [Memory.getN_setN_away _ _ (Memory.setN_wf _ _ _ w) _ (by omega),
    Memory.getN_setN_part _ _ w (by rw [length_levelSums]; omega), levelSums, addWords_elem _ _ hk, Nat.zero_add,
    slice_getN _ _ (by omega), slice_getN _ _ (by omega), ofBytes_leBytes_lt]
  exact Nat.mod_lt _ (by decide)

theorem levelMem_other {k : Nat} (h1 : k < kx ∨ kx + 4 * c ≤ k) (h2 : k < kh ∨ kh + 16 ≤ k) :
    ((m.setN kx (levelSums m kx ka c)).setN kh (List.replicate 16 0)).get k = m.get k := by
  rw [Memory.get_setN_other _ _ _ _ (Memory.setN_wf _ _ _ w) (by rw [List.length_replicate]; exact h2),
    Memory.get_setN_other _ _ _ _ w (by rw [length_levelSums]; exact h1)]

theorem levelMem_cleared {k : Nat} (hk : k < 16) :
    (m.setN kh (List.replicate 16 0)).get (kh + k) = 0 := by
  rw [Memory.get_setN_same _ _ _ _ w (by rw [List.length_replicate]; exact hk)]
  exact List.getElem_replicate _

end

end Sys2Proof.Machine

/-! SUPPORT. The events of a tile: a copy's end and freeze, an engine fault, a token deadlock, queue growth, a ticket, a level (O60). -/

namespace Sys2Proof.Machine

theorem leBytes_ofNat (n : Nat) : leBytes 8 (BitVec.ofNat 64 n).toNat = leBytes 8 n := by
  have h := leBytes_ofBytes (leBytes 8 n)
  rw [length_leBytes, ofBytes_leBytes] at h
  exact h

section
variable {s : State} {g : Nat} {f : EngFault} (hf : (s.tile g).firstFault = some f)
include hf

/-- A fault waits while the tile's core is in its handler. -/
theorem exec_engineFaultTrap_inHandler (h : (s.tile g).tcc.intrap = true) : exec (.engineFaultTrap g) s = .next s := by
  rw [exec_engineFaultTrap, execEngineFaultTrap]
  dsimp only
  rw [hf]
  dsimp only
  rw [h]
  rfl

/-- A fault of the host's is posted to it, once. -/
theorem exec_engineFaultTrap_host (hi : (s.tile g).tcc.intrap = false) (hb : (s.tile g).bound.isSome = true)
    (hd : (s.tile g).dbg.stopped = false) (hw : s.fw.st = 0) (hh : f.host = true) : exec (.engineFaultTrap g) s =
    .next (if s.mbox.reqs.any (fun r => decide (r.fn = 2) && decide (r.about = g)) then s
      else s.postRequest 2 g (leBytes 8 (f.isn.toNat % 2 ^ 32 + f.q.code * 2 ^ 32 + g % 16 * 2 ^ 36 + (g / 16 + 1) * 2 ^ 40) ++
        leBytes 8 f.info.toNat ++ leBytes 1 f.cause ++ leBytes 1 f.sub)) := by
  have hbn : (s.tile g).bound.isNone = false := Option.isNone_eq_false_iff.mpr hb
  have hg : ¬ ((s.tile g).tcc.intrap || (s.tile g).bound.isNone || (s.tile g).dbg.stopped || decide (s.fw.st ≠ 0)) = true := by
    simp [hi, hbn, hd, hw]
  rw [exec_engineFaultTrap, execEngineFaultTrap]
  dsimp only
  rw [hf]
  dsimp only
  rw [if_neg hg, if_pos hh, entryName, leBytes_ofNat]

end

theorem any_request {l : List HostReq} {g : Nat} : l.any (fun r => decide (r.fn = 2) && decide (r.about = g)) = true ↔
    ∃ r ∈ l, r.fn = 2 ∧ r.about = g := by
  simp only [List.any_eq_true, Bool.and_eq_true, decide_eq_true_eq]

/-- Three heads that wait on tokens alone give XQ the fault (R35). -/
theorem exec_tokenDeadlock_found {s : State} {g : Nat} {ex : QEntry} (hx : (s.tile g).xq.headEnt = some ex)
    (h : ∀ q, s.tokenWait g q = true ∧ (s.tile g).qRuns q = true) :
    exec (.tokenDeadlock g) s = .next (s.engineFault g .x ex (TrapI.mk3 13 0 0)) := by
  rw [exec_tokenDeadlock, execTokenDeadlock, hx]
  refine if_pos ?_
  simp [h]

/-- Settles O60: each event is what its own lemma above says of it. -/
theorem tileEvents : Obligations.TileEvents := by
  unfold Obligations.TileEvents
  refine ⟨?_, ?_, ?_, ?_, ?_, ?_⟩
  · intro s g q en rest e t x hents hst hsub hr hsegs hlast hundone hnext pal par room tag count hcmd hpos
    have hh : (t.queue q).AtHead en rest := ⟨hents, hsegs, hlast, hundone, hnext⟩
    have htag : tagOf en.cmd = some tag := tagOf_copy hcmd
    have hlt : tag < 64 := Nat.mod_lt _ (by decide)
    have hcount (u : Tile) : count u = u.tagCount tag := (u.tagCount_eq tag).symm
    rw [hcount] at hpos
    refine ⟨fun i hi hm => ⟨fun hroom => ?_, fun hroom => ?_⟩, fun i f s' hi hc hb he => ?_⟩
    · obtain ⟨h1, h2, h3, h4, h5, p1, p2, p3, p4⟩ := copy_ended (i := i) hh hroom htag hlt hpos
      refine ⟨_, exec_copyCompletion_head hh hst hsub hr hi hm, h1, h2, ?_, h4, ?_, p1, p2, p3, p4⟩
      · rw [hcount, hcount]
        exact h3
      · have hone : decide (count t = 1) = decide (t.tagCount tag = 1) := decide_eq_decide.mpr (by rw [hcount])
        exact fun j => (h5 j).trans (by rw [hone])
    · exact ⟨_, exec_copyCompletion_head hh hst hsub hr hi hm, copy_stays hh hroom⟩
    · exact ⟨_, exec_copyFreeze_head hh hst hsub hr hi hc hb, State.freezeTile_tile he s' g q en⟩
  · intro s g f t c hf hb hd hw
    refine ⟨exec_engineFaultTrap_inHandler hf, fun hi hh hno => ?_, fun hi hh hany => ?_, fun hi hh => ?_⟩
    · obtain ⟨rq, h1, h2, h3, h4, h5⟩ := s.postRequest_posted 2 g (leBytes 8 (f.isn.toNat % 2 ^ 32 + f.q.code * 2 ^ 32 +
        g % 16 * 2 ^ 36 + (g / 16 + 1) * 2 ^ 40) ++ leBytes 8 f.info.toNat ++ leBytes 1 f.cause ++ leBytes 1 f.sub) hw
      refine ⟨_, rq, ?_, h1, h2, h3, h4, h5⟩
      rw [exec_engineFaultTrap_host hf hi hb hd hw hh, if_neg]
      rw [any_request]
      exact fun ⟨r, hr, hrf⟩ => hno r hr hrf
    · rw [exec_engineFaultTrap_host hf hi hb hd hw hh, if_pos (any_request.mpr hany)]
    · obtain ⟨v, hv, est, n, ht⟩ := exec_engineFaultTrap_taken hf hi hb hd hw hh
      refine ⟨v, hv, ?_⟩
      rw [ht]
      refine ⟨?_, rfl, rfl, rfl, rfl, rfl, rfl, rfl, rfl, rfl, dropFault_eq f _, fun q => by cases q <;> rfl⟩
      by_cases hn : t.cont.isNone = true
      · exact (congrArg (fun a : CodeAddr => BitVec.ofNat 64 a.toNat) (if_pos hn)).trans (if_pos hn).symm
      · exact (congrArg (fun a : CodeAddr => BitVec.ofNat 64 a.toNat) (if_neg hn)).trans
          ((BitVec.ofNat_toNat 64 _).trans (if_neg hn).symm)
  · intro s g el ex es t heads hl hx hs hlp hl0 hsp hs0 hxp
    have wait {q : Q} {en : QEntry} {f : Fifo} (h : heads q en) (hp : f ∈ popsOf q en.cmd) (h0 : t.fifo f = 0) :
        s.tokenWait g q = true ∧ t.qRuns q = true := by
      obtain ⟨h1, h2, h3, h4, h5⟩ := h
      exact ⟨State.tokenWait_head h1 h2 h3 h4 (Tile.canPop_empty hp h0), h5⟩
    have hall : ∀ q, s.tokenWait g q = true ∧ t.qRuns q = true := by
      intro q
      cases q with
      | l => exact wait (f := .xl) hl (by simp [popsOf_eq, hlp]) hl0
      | s => exact wait (f := .xs) hs (by simp [popsOf_eq, hsp]) hs0
      | x =>
        rcases hxp with ⟨hp, h0⟩ | ⟨hp, h0⟩
        · exact wait (f := .lx) hx (by simp [popsOf_eq, hp]) h0
        · exact wait (f := .sx) hx (by simp [popsOf_eq, hp]) h0
    exact ⟨_, exec_tokenDeadlock_found hx.1 hall, State.engineFault_tile rfl s g ex⟩
  · intro s g k region q l r en t hst hd hq hb hl hreg hr hlast
    subst hreg
    refine ⟨fun hf hnd hg => ?_, fun h => ?_⟩
    · obtain ⟨i, n, hi, he⟩ := exec_queueGrowth_grown hst hd hq hb hl hr hf hg
      obtain ⟨hmem, herase⟩ := getD_mem_erase hnd hi
      refine ⟨_, (s.freeSegs (g / 16)).getD i 0, he, hmem, ?_⟩
      obtain ⟨r', hr', hgrown⟩ := Launch.charged_region hr
      obtain ⟨h1, h2, h3, h4, h5, h6⟩ := State.insertSeg_tile (s := s.tookSeg (g / 16) k l t.chargeRegion i n) hlast
        ((s.freeSegs (g / 16)).getD i 0) t.chargeRegion
      refine ⟨?_, h1, h2, h3, h4, l.charged t.chargeRegion, r', ?_, hr', hgrown⟩
      · rw [State.freeSegs, h6]
        exact (AMap.getD_put_same _ _ _ _).trans herase
      · rw [h5]
        exact AMap.find?_put_same _ _ _
    · obtain ⟨rec, he⟩ := exec_queueGrowth_fault hst hd hq hb hl hr h
      obtain ⟨l', h1, h2⟩ := State.endDomain_ended hl r.dom rec
      exact ⟨_, l', he, h1, h2⟩
  · intro s g k tk
    refine ⟨fun h => ⟨_, rfl, State.smvDone_ticket h⟩, fun h => ?_⟩
    rw [exec_smvUnitDone, execSmvUnitDone, State.smvDone]
    exact congrArg _ (if_pos h)
  · intro s g n i c en e rest t hq hst hsub hr hi hcap hr2 h0 hc he hn hin hlev hto hs w hsp d x area read hfit
    have het := credEt_words he
    have hd : credD e c = d := credD_words het c
    have hcount : en.r2.toNat = c := by rw [hr2, BitVec.toNat_ofNat, Nat.mod_eq_of_lt (by omega)]
    have hranks : (en.cap.getD 0 0).toNat = n := by
      rw [hcap, List.getD_cons_zero, BitVec.toNat_ofNat, Nat.mod_eq_of_lt (by omega)]
    have hrank : (en.cap.getD 1 0).toNat = i := by
      rw [hcap, List.getD_cons_succ, List.getD_cons_zero, BitVec.toNat_ofNat, Nat.mod_eq_of_lt (by omega)]
    have hroom : 4 * c ≤ d := by omega
    have habove : d + 64 ≤ (en.row + 1) * (d + 64) := Nat.le_mul_of_pos_left _ (Nat.succ_pos _)
    have hka : area = localKey g (en.r0.toNat + (en.row + 1) * (d + 64)) := Nat.add_assoc _ _ _
    generalize ha : en.r0.toNat + (en.row + 1) * (d + 64) = a at hka
    have hkh : area + d = localKey g (a + d) := by rw [hka, localKey, localKey, Nat.add_assoc]
    have hlow : a + d + 64 ≤ t.lowReserved := by
      rw [hkh, localKey] at hfit
      rw [Tile.lowReserved]
      generalize tileBase g = b at hfit
      omega
    have harea : s.CredArea g en e c d a := ⟨het, hcount, h0, hd, hroom, ha, by omega, hlow, hsp⟩
    have hat : s.credAt g = some (en, e) := State.credAt_head hq hst hsub hr hi (credReceives_of hranks hrank hn hlev hto)
    rw [hkh, hka]
    refine ⟨exec_credPartnerArrival_waits hat harea, fun k1 k2 k3 k4 k5 k6 => ?_⟩
    obtain ⟨v, hv, hmem, hrow, hseq⟩ := exec_credPartnerArrival_level hat harea hq hs hranks hrank ⟨k1, k2, k3, k4, k5, k6⟩
    have hapart : x + 4 * c ≤ localKey g (a + d) := by
      rw [← hkh, hka, localKey]
      omega
    refine ⟨v, hv, fun k hk => ?_, fun k hk => ?_, fun k h1 h2 => ?_, hrow, hseq⟩ <;> rw [hmem]
    · exact levelMem_sum w hapart hk
    · exact levelMem_cleared (Memory.setN_wf _ _ _ w) hk
    · exact levelMem_other w h1 h2

end Sys2Proof.Machine

/-! SUPPORT. Chapter 3's words: for each layout of the encoder, what the decoder's fields read of a word that has it, and that these
fields give the word back. From the two, decoding undoes encoding and encoding undoes decoding, major by major. -/

namespace Sys2Proof.Machine

/-! ### Fields -/

/-- A field within the low bits that are known is a field of their value. -/
theorem bitsN_of_low {w top v : Nat} (h : bitsN w top 0 = v) {hi : Nat} (lo : Nat) (hh : hi ≤ top) :
    bitsN w hi lo = bitsN v hi lo := by
  subst h
  simp only [bitsN, pow_zero, Nat.div_one, Nat.sub_zero]
  rcases Nat.lt_or_ge hi lo with hl | hl
  · have : hi + 1 - lo = 0 := by omega
    simp [this, Nat.mod_one]
  · have e : top + 1 = lo + (top + 1 - lo) := by omega
    have e2 : top + 1 - lo = (hi + 1 - lo) + (top - hi) := by omega
    rw [e, pow_add, Nat.mod_mul_right_div_self, e2, pow_add, Nat.mod_mul_right_mod]

theorem toNat_fD (w : Nat) : (fD w).toNat = bitsN w 25 21 := by
  simp only [fD, bitsN, BitVec.toNat_ofNat]
  omega

theorem toNat_fA (w : Nat) : (fA w).toNat = bitsN w 20 16 := by
  simp only [fA, bitsN, BitVec.toNat_ofNat]
  omega

theorem toNat_fB (w : Nat) : (fB w).toNat = bitsN w 15 11 := by
  simp only [fB, bitsN, BitVec.toNat_ofNat]
  omega

theorem toNat_fP (w : Nat) : (fP w).toNat = bitsN w 25 23 := by
  simp only [fP, bitsN, BitVec.toNat_ofNat]
  omega

theorem fD_eq_zero {w : Nat} (h : bitsN w 25 21 = 0) : fD w = 0 := BitVec.eq_of_toNat_eq ((toNat_fD w).trans h)

theorem fA_eq_zero {w : Nat} (h : bitsN w 20 16 = 0) : fA w = 0 := BitVec.eq_of_toNat_eq ((toNat_fA w).trans h)

theorem fB_eq_zero {w : Nat} (h : bitsN w 15 11 = 0) : fB w = 0 := BitVec.eq_of_toNat_eq ((toNat_fB w).trans h)

@[simp] theorem scopeOf_code (x : Scope) : scopeOf x.code = x := by cases x <;> rfl

@[simp] theorem fifoOf_code (x : Fifo) : fifoOf x.code = x := by cases x <;> rfl

@[simp] theorem queueOf_code (q : Q) : queueOf q.code = q := by cases q <;> rfl

@[simp] theorem bcode_beq (b : Bool) : (bcode b == 1) = b := by cases b <;> rfl

theorem code_scopeOf {n : Nat} (h : n < 4) : (scopeOf n).code = n := by
  interval_cases n <;> rfl

theorem code_fifoOf {n : Nat} (h : n < 4) : (fifoOf n).code = n := by
  interval_cases n <;> rfl

theorem code_queueOf {n : Nat} (h : n < 3) : (queueOf n).code = n := by
  interval_cases n <;> rfl

theorem bcode_of_lt {n : Nat} (h : n < 2) : bcode (n == 1) = n := by
  interval_cases n <;> rfl

theorem need_ok {z : Nat} {i j : Instr} (hz : z = 0) (hi : i = j) : need z i = .ok j := by
  rw [need, if_pos hz, hi]

theorem need_eq_ok {z : Nat} {i j : Instr} (h : need z i = .ok j) : z = 0 ∧ i = j := by
  unfold need at h
  split at h
  · exact ⟨‹_›, by cases h; rfl⟩
  · exact nomatch h

/-! ### Layouts -/

theorem encDab_fields {m low w v : Nat} {d a b : Reg} (h : encDab m d a b low = (w, v)) (hm : m < 64) (hl : low < 0x800) :
    bitsN w 31 26 = m ∧ fD w = d ∧ fA w = a ∧ fB w = b ∧ bitsN w 10 0 = low := by
  obtain ⟨rfl, -⟩ := Prod.mk.inj h
  refine ⟨?_, BitVec.eq_of_toNat_eq ?_, BitVec.eq_of_toNat_eq ?_, BitVec.eq_of_toNat_eq ?_, ?_⟩ <;>
    simp only [toNat_fD, toNat_fA, toNat_fB, bitsN] <;> omega

theorem encDab_eq {m low w : Nat} {d a b : Reg} (hw : w < 2 ^ 32) (hm : bitsN w 31 26 = m) (hd : fD w = d) (ha : fA w = a)
    (hb : fB w = b) (hl : bitsN w 10 0 = low) : encDab m d a b low = (w, 0) := by
  subst hd ha hb
  simp only [encDab, toNat_fD, toNat_fA, toNat_fB, Prod.mk.injEq, and_true]
  simp only [bitsN] at *
  omega

theorem encDa_fields {m low w v : Nat} {d a : Reg} (h : encDa m d a low = (w, v)) (hm : m < 64) (hl : low < 0x10000) :
    bitsN w 31 26 = m ∧ fD w = d ∧ fA w = a ∧ bitsN w 15 0 = low := by
  obtain ⟨rfl, -⟩ := Prod.mk.inj h
  refine ⟨?_, BitVec.eq_of_toNat_eq ?_, BitVec.eq_of_toNat_eq ?_, ?_⟩ <;>
    simp only [toNat_fD, toNat_fA, bitsN] <;> omega

theorem encDa_eq {m low w : Nat} {d a : Reg} (hw : w < 2 ^ 32) (hm : bitsN w 31 26 = m) (hd : fD w = d) (ha : fA w = a)
    (hl : bitsN w 15 0 = low) : encDa m d a low = (w, 0) := by
  subst hd ha
  simp only [encDa, toNat_fD, toNat_fA, Prod.mk.injEq, and_true]
  simp only [bitsN] at *
  omega

theorem encP_fields {m kind low w v : Nat} {p : PReg} (h : encP m p kind low = (w, v)) (hm : m < 64) (hk : kind < 8)
    (hl : low < 0x100000) : bitsN w 31 26 = m ∧ fP w = p ∧ bitsN w 22 20 = kind ∧ bitsN w 19 0 = low := by
  obtain ⟨rfl, -⟩ := Prod.mk.inj h
  refine ⟨?_, BitVec.eq_of_toNat_eq ?_, ?_, ?_⟩ <;> simp only [toNat_fP, bitsN] <;> omega

theorem encP_eq {m kind low w : Nat} {p : PReg} (hw : w < 2 ^ 32) (hm : bitsN w 31 26 = m) (hp : fP w = p)
    (hk : bitsN w 22 20 = kind) (hl : bitsN w 19 0 = low) : encP m p kind low = (w, 0) := by
  subst hp
  simp only [encP, toNat_fP, Prod.mk.injEq, and_true]
  simp only [bitsN] at *
  omega

theorem encBr_fields {m w v : Nat} {p : PReg} {ld : BitVec 19} {slot : BitVec 4} (h : encBr m p ld slot = (w, v)) (hm : m < 64) :
    bitsN w 31 26 = m ∧ fP w = p ∧ BitVec.ofNat 19 (bitsN w 22 4) = ld ∧ BitVec.ofNat 4 (bitsN w 3 0) = slot := by
  obtain ⟨rfl, -⟩ := Prod.mk.inj h
  refine ⟨?_, BitVec.eq_of_toNat_eq ?_, BitVec.eq_of_toNat_eq ?_, BitVec.eq_of_toNat_eq ?_⟩ <;>
    simp only [toNat_fP, bitsN, BitVec.toNat_ofNat] <;> omega

theorem encBr_eq {m w : Nat} {p : PReg} (hw : w < 2 ^ 32) (hm : bitsN w 31 26 = m) (hp : fP w = p) :
    encBr m p (BitVec.ofNat 19 (bitsN w 22 4)) (BitVec.ofNat 4 (bitsN w 3 0)) = (w, 0) := by
  subst hp
  simp only [encBr, toNat_fP, BitVec.toNat_ofNat, Prod.mk.injEq, and_true]
  simp only [bitsN] at *
  omega

theorem encMem_fields {m w v : Nat} {d a : Reg} {sz : BitVec 2} {off : BitVec 14} (h : encMem m d a sz off = (w, v)) (hm : m < 64) :
    bitsN w 31 26 = m ∧ fD w = d ∧ fA w = a ∧ BitVec.ofNat 2 (bitsN w 15 14) = sz ∧ BitVec.ofNat 14 (bitsN w 13 0) = off := by
  obtain ⟨rfl, -⟩ := Prod.mk.inj h
  refine ⟨?_, BitVec.eq_of_toNat_eq ?_, BitVec.eq_of_toNat_eq ?_, BitVec.eq_of_toNat_eq ?_, BitVec.eq_of_toNat_eq ?_⟩ <;>
    simp only [toNat_fD, toNat_fA, bitsN, BitVec.toNat_ofNat] <;> omega

theorem encMem_eq {m w : Nat} {d : Reg} (hw : w < 2 ^ 32) (hm : bitsN w 31 26 = m) (hd : fD w = d) :
    encMem m d (fA w) (BitVec.ofNat 2 (bitsN w 15 14)) (BitVec.ofNat 14 (bitsN w 13 0)) = (w, 0) := by
  subst hd
  simp only [encMem, toNat_fD, toNat_fA, BitVec.toNat_ofNat, Prod.mk.injEq, and_true]
  simp only [bitsN] at *
  omega

theorem encSpr_fields {srn dir w v : Nat} {g : Reg} (h : encSpr g srn dir = (w, v)) (hs : srn < 1024) (hd : dir < 2) :
    bitsN w 31 26 = 0x14 ∧ fD w = g ∧ bitsN w 20 11 = srn ∧ bitsN w 10 1 = 0 ∧ bitsN w 0 0 = dir := by
  obtain ⟨rfl, -⟩ := Prod.mk.inj h
  refine ⟨?_, BitVec.eq_of_toNat_eq ?_, ?_, ?_, ?_⟩ <;> simp only [toNat_fD, bitsN] <;> omega

theorem encSpr_eq {srn dir w : Nat} (hw : w < 2 ^ 32) (hm : bitsN w 31 26 = 0x14) (hs : bitsN w 20 11 = srn) (hz : bitsN w 10 1 = 0)
    (hd : bitsN w 0 0 = dir) : encSpr (fD w) srn dir = (w, 0) := by
  simp only [encSpr, toNat_fD, Prod.mk.injEq, and_true]
  simp only [bitsN] at *
  omega

theorem encSync_fields {arg fn w v : Nat} {d a : Reg} (h : encSync d a arg fn = (w, v)) (hf : fn < 64) (hg : arg < 1024) :
    bitsN w 31 26 = 0x1C ∧ fD w = d ∧ fA w = a ∧ bitsN w 15 6 = arg ∧ bitsN w 5 0 = fn := by
  obtain ⟨hm, hd, ha, hl⟩ := encDa_fields h (by decide) (by omega)
  refine ⟨hm, hd, ha, ?_, ?_⟩ <;> simp only [bitsN] at * <;> omega

theorem encSync_eq {arg fn w : Nat} {d a : Reg} (hw : w < 2 ^ 32) (hm : bitsN w 31 26 = 0x1C) (hd : fD w = d) (ha : fA w = a)
    (hg : bitsN w 15 6 = arg) (hf : bitsN w 5 0 = fn) : encSync d a arg fn = (w, 0) := by
  refine encDa_eq hw hm hd ha ?_
  simp only [bitsN] at *
  omega

theorem encSys_fields {arg fn w v : Nat} {d a : Reg} (h : encSys d a arg fn = (w, v)) (hf : fn < 16) (hg : arg < 4096) :
    bitsN w 31 26 = 0x33 ∧ fD w = d ∧ fA w = a ∧ bitsN w 15 4 = arg ∧ bitsN w 3 0 = fn := by
  obtain ⟨hm, hd, ha, hl⟩ := encDa_fields h (by decide) (by omega)
  refine ⟨hm, hd, ha, ?_, ?_⟩ <;> simp only [bitsN] at * <;> omega

theorem encSys_eq {arg fn w : Nat} {d a : Reg} (hw : w < 2 ^ 32) (hm : bitsN w 31 26 = 0x33) (hd : fD w = d) (ha : fA w = a)
    (hg : bitsN w 15 4 = arg) (hf : bitsN w 3 0 = fn) : encSys d a arg fn = (w, 0) := by
  refine encDa_eq hw hm hd ha ?_
  simp only [bitsN] at *
  omega

/-- The second word of the engine format (Table 3.4). -/
theorem engOf_encEng (m min : Nat) (e : Eng) (hm : min < 16) : engOf (encEng m min e).1 (encEng m min e).2 = e := by
  obtain ⟨ga, gb, gc, f7, tok, tag, bat, fol, ext⟩ := e
  have hb := Laws.Words.bcode_lt bat
  have hf := Laws.Words.bcode_lt fol
  have bit10 : bitsN (encEng m min ⟨ga, gb, gc, f7, tok, tag, bat, fol, ext⟩).2 10 10 = bcode bat := by
    simp only [encEng, bitsN]
    omega
  have bit11 : bitsN (encEng m min ⟨ga, gb, gc, f7, tok, tag, bat, fol, ext⟩).2 11 11 = bcode fol := by
    simp only [encEng, bitsN]
    omega
  simp only [engOf, bit10, bit11, bcode_beq, Eng.mk.injEq, true_and]
  refine ⟨?_, ?_, ?_, ?_, ?_, ?_, ?_⟩ <;> apply BitVec.eq_of_toNat_eq <;>
    simp only [toNat_fD, toNat_fA, toNat_fB, encEng, bitsN, BitVec.toNat_ofNat] <;> omega

theorem encEng_fields {m min w v : Nat} {e : Eng} (h : encEng m min e = (w, v)) (hm : m < 64) (hn : min < 16) :
    bitsN w 31 26 = m ∧ bitsN w 10 7 = min ∧ engOf w v = e := by
  have he := engOf_encEng m min e hn
  rw [h] at he
  obtain ⟨rfl, -⟩ := Prod.mk.inj h
  refine ⟨?_, ?_, he⟩ <;> simp only [bitsN] <;> omega

theorem encEng_eq {w v : Nat} (hw : w < 2 ^ 32) (hv : v < 2 ^ 32) :
    encEng (bitsN w 31 26) (bitsN w 10 7) (engOf w v) = (w, v) := by
  have h10 : bcode (bitsN v 10 10 == 1) = bitsN v 10 10 := bcode_of_lt (by simp only [bitsN]; omega)
  have h11 : bcode (bitsN v 11 11 == 1) = bitsN v 11 11 := bcode_of_lt (by simp only [bitsN]; omega)
  simp only [encEng, engOf, h10, h11, toNat_fD, toNat_fA, toNat_fB, BitVec.toNat_ofNat, Prod.mk.injEq]
  simp only [bitsN]
  omega

/-! ### Which parser reads a word -/

theorem parse_alu {w v : Nat} (h : bitsN w 31 26 = 0x01) : parse w v = parseAlu w := by simp only [parse, h]

theorem parse_alu1 {w v : Nat} (h : bitsN w 31 26 = 0x02) : parse w v = parseAlu1 w := by simp only [parse, h]

theorem parse_shi {w v : Nat} (h : bitsN w 31 26 = 0x07) : parse w v = parseShi w := by simp only [parse, h]

theorem parse_cmp {w v : Nat} (h : bitsN w 31 26 = 0x0A) : parse w v = parseCmp w := by simp only [parse, h]

theorem parse_cmpi {w v : Nat} (h : bitsN w 31 26 = 0x0B) : parse w v = parseCmpi w := by simp only [parse, h]

theorem parse_pred {w v : Nat} (h : bitsN w 31 26 = 0x0C) : parse w v = parsePred w := by simp only [parse, h]

theorem parse_jmp {w v : Nat} (h : bitsN w 31 26 = 0x11) : parse w v = parseJmp w := by simp only [parse, h]

theorem parse_spr {w v : Nat} (h : bitsN w 31 26 = 0x14) : parse w v = parseSpr w := by simp only [parse, h]

theorem parse_atom {w v : Nat} (h : bitsN w 31 26 = 0x1B) : parse w v = parseAtom w := by simp only [parse, h]

theorem parse_sync {w v : Nat} (h : bitsN w 31 26 = 0x1C) : parse w v = parseSync w := by simp only [parse, h]

theorem parse_fencep {w v : Nat} (h : bitsN w 31 26 = 0x1D) : parse w v = parseFencep w := by simp only [parse, h]

theorem parse_work {w v : Nat} (h : bitsN w 31 26 = 0x1E) : parse w v = parseWork w := by simp only [parse, h]

theorem parse_qobj {w v : Nat} (h : bitsN w 31 26 = 0x1F) : parse w v = parseQobj w := by simp only [parse, h]

theorem parse_sys {w v : Nat} (h : bitsN w 31 26 = 0x33) : parse w v = parseSys w := by simp only [parse, h]

theorem parse_branch {w v m : Nat} (h : bitsN w 31 26 = m) (hm : 0x0E ≤ m ∧ m ≤ 0x10) : parse w v = parseBranch m w := by
  obtain ⟨lo, hi⟩ := hm
  interval_cases m <;> simp only [parse, h]

theorem parse_mem {w v m : Nat} (h : bitsN w 31 26 = m) (hm : 0x15 ≤ m ∧ m ≤ 0x1A) : parse w v = parseMem m w := by
  obtain ⟨lo, hi⟩ := hm
  interval_cases m <;> simp only [parse, h]

theorem parse_engine {w v m : Nat} (h : bitsN w 31 26 = m) (hm : 0x20 ≤ m ∧ m ≤ 0x32) : parse w v = parseEngine m w v := by
  obtain ⟨lo, hi⟩ := hm
  interval_cases m <;> simp only [parse, parseLong, h]

/-! ### Operands within a layout -/

theorem lea_low (sh : BitVec 3) {w : Nat} (h : bitsN w 10 0 = 0x020 + sh.toNat) :
    (0x020 ≤ bitsN w 10 0 ∧ bitsN w 10 0 ≤ 0x027) ∧ BitVec.ofNat 3 (bitsN w 10 0 % 8) = sh := by
  refine ⟨by omega, BitVec.eq_of_toNat_eq ?_⟩
  rw [h, BitVec.toNat_ofNat]
  omega

theorem shi_low (sh : BitVec 6) {k w : Nat} (hk : k < 3) (h : bitsN w 15 0 = k * 0x40 + sh.toNat) :
    bitsN w 15 8 = 0 ∧ bitsN w 7 6 = k ∧ BitVec.ofNat 6 (bitsN w 5 0) = sh := by
  refine ⟨?_, ?_, BitVec.eq_of_toNat_eq ?_⟩ <;> simp only [bitsN, BitVec.toNat_ofNat] at * <;> omega

theorem cmp_low (a b : Reg) {w : Nat} (h : bitsN w 19 0 = a.toNat * 0x8000 + b.toNat * 0x400) :
    BitVec.ofNat 5 (bitsN w 19 15) = a ∧ BitVec.ofNat 5 (bitsN w 14 10) = b ∧ bitsN w 9 0 = 0 := by
  refine ⟨BitVec.eq_of_toNat_eq ?_, BitVec.eq_of_toNat_eq ?_, ?_⟩ <;> simp only [bitsN, BitVec.toNat_ofNat] at * <;> omega

theorem cmpi_low (a : Reg) (imm : BitVec 15) {w : Nat} (h : bitsN w 19 0 = a.toNat * 0x8000 + imm.toNat) :
    BitVec.ofNat 5 (bitsN w 19 15) = a ∧ BitVec.ofNat 15 (bitsN w 14 0) = imm := by
  refine ⟨BitVec.eq_of_toNat_eq ?_, BitVec.eq_of_toNat_eq ?_⟩ <;> simp only [bitsN, BitVec.toNat_ofNat] at * <;> omega

theorem pred_low (a b : PReg) {w : Nat} (h : bitsN w 19 0 = a.toNat * 0x20000 + b.toNat * 0x4000) :
    BitVec.ofNat 3 (bitsN w 19 17) = a ∧ BitVec.ofNat 3 (bitsN w 16 14) = b ∧ bitsN w 16 14 = b.toNat ∧ bitsN w 13 0 = 0 := by
  refine ⟨BitVec.eq_of_toNat_eq ?_, BitVec.eq_of_toNat_eq ?_, ?_, ?_⟩ <;> simp only [bitsN, BitVec.toNat_ofNat] at * <;> omega

/-- ARG of a barrier instruction: its number, and the code of its scope. -/
theorem barrier_arg (n : BitVec 6) (x : Scope) :
    (n.toNat + x.code * 0x40) / 256 = 0 ∧ BitVec.ofNat 6 (n.toNat + x.code * 0x40) = n ∧
      scopeOf (bitsN (n.toNat + x.code * 0x40) 7 6) = x := by
  have hx := Laws.Words.scope_lt x
  have code : bitsN (n.toNat + x.code * 0x40) 7 6 = x.code := by simp only [bitsN]; omega
  refine ⟨by omega, BitVec.eq_of_toNat_eq ?_, by rw [code, scopeOf_code]⟩
  rw [BitVec.toNat_ofNat]
  omega

/-- ARG of TOKW: N, the code of the FIFO, and POP. -/
theorem tokw_arg (n : BitVec 5) (f : Fifo) (pop : Bool) :
    (n.toNat + f.code * 0x20 + bcode pop * 0x80) / 256 = 0 ∧ BitVec.ofNat 5 (n.toNat + f.code * 0x20 + bcode pop * 0x80) = n ∧
      fifoOf (bitsN (n.toNat + f.code * 0x20 + bcode pop * 0x80) 6 5) = f ∧
      (bitsN (n.toNat + f.code * 0x20 + bcode pop * 0x80) 7 7 == 1) = pop := by
  have hf := Laws.Words.fifo_lt f
  have hp := Laws.Words.bcode_lt pop
  have code : bitsN (n.toNat + f.code * 0x20 + bcode pop * 0x80) 6 5 = f.code := by simp only [bitsN]; omega
  have flag : bitsN (n.toNat + f.code * 0x20 + bcode pop * 0x80) 7 7 = bcode pop := by simp only [bitsN]; omega
  refine ⟨by omega, BitVec.eq_of_toNat_eq ?_, by rw [code, fifoOf_code], by rw [flag, bcode_beq]⟩
  rw [BitVec.toNat_ofNat]
  omega

/-- ARG of TLBINV: KIND, and the code of the scope. -/
theorem tlbinv_arg (kind : BitVec 2) (x : Scope) :
    (kind.toNat + x.code * 4) / 16 = 0 ∧ BitVec.ofNat 2 (kind.toNat + x.code * 4) = kind ∧
      scopeOf (bitsN (kind.toNat + x.code * 4) 3 2) = x := by
  have hx := Laws.Words.scope_lt x
  have code : bitsN (kind.toNat + x.code * 4) 3 2 = x.code := by simp only [bitsN]; omega
  refine ⟨by omega, BitVec.eq_of_toNat_eq ?_, by rw [code, scopeOf_code]⟩
  rw [BitVec.toNat_ofNat]
  omega

/-! ### MTS by its number -/

theorem mtsOf_zwm (g : Reg) (z : BitVec 4) : mtsOf g (0x050 + z.toNat) = .mtsZwm g z := by
  generalize hn : 0x050 + z.toNat = n
  unfold mtsOf
  split
  case h_26 =>
    have hz : BitVec.ofNat 4 (n - 0x050) = z := BitVec.eq_of_toNat_eq (by rw [BitVec.toNat_ofNat]; omega)
    rw [if_pos (by omega), hz]
  all_goals omega

theorem mtsOf_queueNumber (g : Reg) (comp : Bool) (q : Q) : mtsOf g (srnQueueNumber comp q) = .mtsQueueNumber g comp q := by
  cases comp <;> cases q <;> rfl

theorem mtsOf_queueLink (g : Reg) (tail : Bool) (q : Q) : mtsOf g (srnQueueLink tail q) = .mtsQueueLink g tail q := by
  cases tail <;> cases q <;> rfl

theorem mtsOf_loop (g : Reg) (set : BitVec 1) (which : LoopReg) : mtsOf g (srnLoop set which) = .mtsLoopRegister g set which := by
  obtain rfl | rfl : set = 0 ∨ set = 1 := by revert set; decide
  all_goals cases which <;> rfl

/-- A number without a rule of its own is written by the plain MTS. -/
theorem mtsOf_plain (g : Reg) (srn : BitVec 10) (h : srnOwn srn.toNat = false) : mtsOf g srn.toNat = .mts g srn := by
  revert h
  generalize hn : srn.toNat = n
  intro h
  unfold mtsOf
  split
  case h_26 =>
    have plain : ¬ (0x050 ≤ n ∧ n ≤ 0x05F) := by
      rintro ⟨lo, hi⟩
      simp [srnOwn, lo, hi] at h
    rw [if_neg plain, ← hn, BitVec.ofNat_toNat, BitVec.setWidth_eq]
  all_goals exact absurd h (by decide)

/-! ### Words with a layout of their own -/

theorem movw_fields {d : Reg} {hi : Bool} {imm : BitVec 32} {w v : Nat} (h : encode (.movw d hi imm) = (w, v)) :
    bitsN w 31 26 = 0x09 ∧ fD w = d ∧ bitsN w 20 1 = 0 ∧ (bitsN w 0 0 == 1) = hi ∧ BitVec.ofNat 32 v = imm := by
  obtain ⟨rfl, rfl⟩ := Prod.mk.inj h
  have hb := Laws.Words.bcode_lt hi
  have flag : bitsN (0x09 * 0x4000000 + d.toNat * 0x200000 + bcode hi) 0 0 = bcode hi := by simp only [bitsN]; omega
  refine ⟨?_, BitVec.eq_of_toNat_eq ?_, ?_, by rw [flag, bcode_beq], by simp⟩ <;> simp only [toNat_fD, bitsN] <;> omega

theorem loop_fields {set : BitVec 1} {a : Reg} {le : CodeAddr} {w v : Nat} (h : encode (.loop set a le) = (w, v)) :
    bitsN w 31 26 = 0x12 ∧ bitsN w 19 0 + bitsN v 31 28 = 0 ∧ BitVec.ofNat 1 (bitsN w 25 25) = set ∧
      BitVec.ofNat 5 (bitsN w 24 20) = a ∧ BitVec.ofNat 28 (bitsN v 27 0) = le := by
  obtain ⟨rfl, rfl⟩ := Prod.mk.inj h
  refine ⟨?_, ?_, BitVec.eq_of_toNat_eq ?_, BitVec.eq_of_toNat_eq ?_, BitVec.eq_of_toNat_eq ?_⟩ <;>
    simp only [bitsN, BitVec.toNat_ofNat] <;> omega

theorem loopi_fields {set : BitVec 1} {cnt : BitVec 20} {le : CodeAddr} {w v : Nat} (h : encode (.loopi set cnt le) = (w, v)) :
    bitsN w 31 26 = 0x13 ∧ bitsN w 24 20 + bitsN v 31 28 = 0 ∧ BitVec.ofNat 1 (bitsN w 25 25) = set ∧
      BitVec.ofNat 20 (bitsN w 19 0) = cnt ∧ BitVec.ofNat 28 (bitsN v 27 0) = le := by
  obtain ⟨rfl, rfl⟩ := Prod.mk.inj h
  refine ⟨?_, ?_, BitVec.eq_of_toNat_eq ?_, BitVec.eq_of_toNat_eq ?_, BitVec.eq_of_toNat_eq ?_⟩ <;>
    simp only [bitsN, BitVec.toNat_ofNat] <;> omega

theorem fencep_fields {frm tom : BitVec 6} {x : Scope} {w v : Nat} (h : encode (.fencep frm tom x) = (w, v)) :
    bitsN w 31 26 = 0x1D ∧ bitsN w 11 0 = 0 ∧ BitVec.ofNat 6 (bitsN w 25 20) = frm ∧ BitVec.ofNat 6 (bitsN w 19 14) = tom ∧
      scopeOf (bitsN w 13 12) = x := by
  obtain ⟨rfl, -⟩ := Prod.mk.inj h
  have hx := Laws.Words.scope_lt x
  have code : bitsN (0x1D * 0x4000000 + frm.toNat * 0x100000 + tom.toNat * 0x4000 + x.code * 0x1000) 13 12 = x.code := by
    simp only [bitsN]; omega
  refine ⟨?_, ?_, BitVec.eq_of_toNat_eq ?_, BitVec.eq_of_toNat_eq ?_, by rw [code, scopeOf_code]⟩ <;>
    simp only [bitsN, BitVec.toNat_ofNat] <;> omega

theorem imx_fields {x : BitVec 48} {w v : Nat} (h : encode (.imx x) = (w, v)) :
    bitsN w 31 26 = 0x3F ∧ bitsN w 25 16 = 0 ∧ BitVec.ofNat 48 (v * 65536 + bitsN w 15 0) = x := by
  obtain ⟨rfl, rfl⟩ := Prod.mk.inj h
  refine ⟨?_, ?_, BitVec.eq_of_toNat_eq ?_⟩ <;> simp only [bitsN, BitVec.toNat_ofNat] <;> omega

/-- What `wf` says, rule by rule. -/
theorem Instr.wf_rules {i : Instr} (h : i.wf = true) :
    i.isEvent = false ∧ i.controlRule = true ∧ i.fieldRule = true ∧ i.streamRule = true := by
  simpa [Instr.wf, and_assoc] using h

/-- QSEL of a well-formed TOKP or XCALL is a queue (R107). -/
theorem qsel_of_fieldRule {i : Instr} {e : Eng} (h : i.fieldRule = true) (hi : i = .tokp e ∨ i = .xcall e) :
    e.f7.toNat % 4 ≠ 3 := by
  have rule : i.copyRule = true := by
    simp only [Instr.fieldRule, Bool.and_eq_true] at h
    exact h.1.2
  have sel : fld e.f7 1 0 ≠ 3 := by
    rcases hi with rfl | rfl <;> simp only [Instr.copyRule, Bool.and_eq_true, decide_eq_true_eq] at rule <;> exact rule.2
  simpa [fld, bitsN] using sel

/-- An MTS with number srn (R152). -/
theorem parse_mts {g : Reg} {srn w v : Nat} (he : encSpr g srn 1 = (w, v)) (hs : srn < 1024) : parse w v = .ok (mtsOf g srn) := by
  obtain ⟨hm, hg, hn, hz, hd⟩ := encSpr_fields he hs (by decide)
  rw [parse_spr hm]
  simp only [parseSpr, hg, hn, hz, hd]
  rfl

/-- What the decoder reads of the words of a well-formed instruction is the instruction. -/
theorem parse_encode {i : Instr} {w v : Nat} (h : i.wf = true) (he : encode i = (w, v)) : parse w v = .ok i := by
  obtain ⟨hev, hc, hf, -⟩ := Instr.wf_rules h
  cases i with
  | add d a b | sub d a b | mul d a b | mulh d a b | mulhu d a b | div d a b | divu d a b | rem d a b | remu d a b | and d a b
  | or d a b | xor d a b | shl d a b | shr d a b | sar d a b | min d a b | max d a b | minu d a b | maxu d a b =>
    obtain ⟨hm, hd, ha, hb, hl⟩ := encDab_fields he (by decide) (by decide)
    rw [parse_alu hm]
    simp only [parseAlu, hd, ha, hb, hl]
  | lea d a b sh =>
    obtain ⟨hm, hd, ha, hb, hl⟩ := encDab_fields he (by decide) (by omega)
    obtain ⟨hr, hs⟩ := lea_low sh hl
    rw [parse_alu hm, ← hd, ← ha, ← hb, ← hs]
    simp only [parseAlu]
    generalize bitsN w 10 0 = fn at hr
    split
    case h_20 => exact if_pos hr
    all_goals omega
  | clz d a | ctz d a | popc d a | bswap d a | sextB d a | sextH d a | sextW d a | zextB d a | zextH d a | zextW d a =>
    obtain ⟨hm, hd, ha, hl⟩ := encDa_fields he (by decide) (by decide)
    rw [parse_alu1 hm]
    simp only [parseAlu1, hd, ha, bitsN_of_low hl 11 (Nat.le_refl 15), bitsN_of_low hl 0 (show 10 ≤ 15 by decide)]
    rfl
  | addi d a imm | andi d a imm | ori d a imm | xori d a imm =>
    obtain ⟨hm, hd, ha, hl⟩ := encDa_fields he (by decide) imm.isLt
    simp only [parse, hm, hd, ha, hl, BitVec.ofNat_toNat, BitVec.setWidth_eq]
  | shli d a sh | shri d a sh | sari d a sh =>
    obtain ⟨hm, hd, ha, hl⟩ := encDa_fields he (by decide) (by omega)
    obtain ⟨hz, hk, hs⟩ := shi_low sh (by decide) hl
    rw [parse_shi hm]
    simp only [parseShi, hd, ha, hz, hk, hs]
    rfl
  | movi d imm =>
    obtain ⟨hm, hd, ha, hl⟩ := encDa_fields he (by decide) imm.isLt
    simp only [parse, hm, hd, ← toNat_fA, ha, hl, BitVec.ofNat_toNat, BitVec.setWidth_eq]
    rfl
  | movw d hi imm =>
    obtain ⟨hm, hd, hz, hh, hi⟩ := movw_fields he
    simp only [parse, parseLong, hm, hd, hz, hh, hi]
    rfl
  | cmpeq p a b | cmpne p a b | cmplt p a b | cmpltu p a b | cmpge p a b | cmpgeu p a b =>
    obtain ⟨hm, hp, hk, hl⟩ := encP_fields he (by decide) (by decide) (by omega)
    obtain ⟨ha, hb, hz⟩ := cmp_low a b hl
    rw [parse_cmp hm]
    simp only [parseCmp, hp, hk, ha, hb, hz]
    rfl
  | cmpeqi p a imm | cmpnei p a imm | cmplti p a imm | cmpltui p a imm | cmpgei p a imm | cmpgeui p a imm =>
    obtain ⟨hm, hp, hk, hl⟩ := encP_fields he (by decide) (by decide) (by omega)
    obtain ⟨ha, hi⟩ := cmpi_low a imm hl
    rw [parse_cmpi hm]
    simp only [parseCmpi, hp, hk, ha, hi]
  | pand p a b | por p a b | pxor p a b =>
    obtain ⟨hm, hp, hk, hl⟩ := encP_fields he (by decide) (by decide) (by omega)
    obtain ⟨ha, hb, -, hz⟩ := pred_low a b hl
    rw [parse_pred hm]
    simp only [parsePred, hp, hk, ha, hb, hz]
    rfl
  | pnot p a =>
    obtain ⟨hm, hp, hk, hl⟩ := encP_fields he (by decide) (by decide) (by omega)
    obtain ⟨ha, -, hb, hz⟩ := pred_low (w := w) a 0 (by simp [hl])
    rw [parse_pred hm]
    simp only [parsePred, hp, hk, ha, hb, hz]
    rfl
  | sel d a b ps =>
    obtain ⟨hm, hd, ha, hb, hl⟩ := encDab_fields he (by decide) (by omega)
    have hz : bitsN w 7 0 = 0 := by simp only [bitsN] at *; omega
    have hs : bitsN w 10 8 = ps.toNat := by simp only [bitsN] at *; omega
    simp only [parse, hm, hd, ha, hb, hz, hs, BitVec.ofNat_toNat, BitVec.setWidth_eq]
    rfl
  | bp p ld slot =>
    obtain ⟨hm, hp, hd, hs⟩ := encBr_fields he (by decide)
    obtain ⟨taken, -⟩ : p ≠ 0 ∧ slot ≠ 0 := by simpa [Instr.controlRule] using hc
    rw [parse_branch hm (by decide)]
    simp only [parseBranch, hp, hd, hs, if_neg taken]
  | br ld slot | call ld slot =>
    obtain ⟨hm, hp, hd, hs⟩ := encBr_fields he (by decide)
    rw [parse_branch hm (by decide)]
    simp only [parseBranch, hp, hd, hs]
    rfl
  | bnp p ld slot =>
    obtain ⟨hm, hp, hd, hs⟩ := encBr_fields he (by decide)
    rw [parse_branch hm (by decide)]
    simp only [parseBranch, hp, hd, hs]
  | ji a | calli a | ret =>
    obtain ⟨hm, hd, ha, hl⟩ := encDa_fields he (by decide) (by decide)
    rw [parse_jmp hm]
    simp only [parseJmp, ← toNat_fD, ← toNat_fA, hd, ha, bitsN_of_low hl 2 (Nat.le_refl 15),
      bitsN_of_low hl 0 (show 1 ≤ 15 by decide)]
    rfl
  | loop set a le =>
    obtain ⟨hm, hz, hs, ha, hl⟩ := loop_fields he
    simp only [parse, parseLong, hm, hz, hs, ha, hl]
    rfl
  | loopi set cnt le =>
    obtain ⟨hm, hz, hs, hc, hl⟩ := loopi_fields he
    simp only [parse, parseLong, hm, hz, hs, hc, hl]
    rfl
  | mfs g srn =>
    obtain ⟨hm, hg, hs, hz, hd⟩ := encSpr_fields he srn.isLt (by decide)
    rw [parse_spr hm]
    simp only [parseSpr, hg, hs, hz, hd, BitVec.ofNat_toNat, BitVec.setWidth_eq]
    rfl
  | mts g srn =>
    rw [parse_mts he srn.isLt, mtsOf_plain g srn (by simpa [Instr.controlRule] using hc)]
  | mtsTcfg g | mtsTokc g | mtsDqn g | mtsSeqw g | mtsSeed g | mtsEbase g | injArm g =>
    obtain ⟨hm, hg, hs, hz, hd⟩ := encSpr_fields he (by decide) (by decide)
    rw [parse_spr hm]
    simp only [parseSpr, hg, hs, hz, hd]
    rfl
  | mtsQueueNumber g comp q => rw [parse_mts he (Laws.Words.srnQueueNumber_lt comp q), mtsOf_queueNumber]
  | mtsQueueLink g tail q => rw [parse_mts he (Laws.Words.srnQueueLink_lt tail q), mtsOf_queueLink]
  | mtsZwm g z => rw [parse_mts he (by omega), mtsOf_zwm]
  | mtsLoopRegister g set which => rw [parse_mts he (Laws.Words.srnLoop_lt set which), mtsOf_loop]
  | ld d a sz off | st d a sz off | lda d a sz off | stl d a sz off =>
    obtain ⟨hm, hd, ha, hs, ho⟩ := encMem_fields he (by decide)
    rw [parse_mem hm (by decide)]
    simp only [parseMem, hd, ha, hs, ho]
  | lds d a sz off =>
    obtain ⟨hm, hd, ha, hs, ho⟩ := encMem_fields he (by decide)
    rw [parse_mem hm (by decide)]
    have narrow : sz ≠ 3 := by simpa [Instr.controlRule] using hc
    simp only [parseMem, hd, ha, hs, ho, if_neg narrow]
  | pfl a sz off =>
    obtain ⟨hm, hd, ha, hs, ho⟩ := encMem_fields he (by decide)
    rw [parse_mem hm (by decide)]
    simp only [parseMem, ← toNat_fD, hd, ha, hs, ho]
    rfl
  | aadd d a b | amin d a b | amax d a b | aminu d a b | amaxu d a b | axchg d a b | acas d a b | aand d a b | aor d a b
  | axor d a b =>
    obtain ⟨hm, hd, ha, hb, hl⟩ := encDab_fields he (by decide) (by decide)
    rw [parse_atom hm]
    simp only [parseAtom, hd, ha, hb, bitsN_of_low hl 4 (Nat.le_refl 10), bitsN_of_low hl 0 (show 3 ≤ 10 by decide)]
    rfl
  | tokw d n f pop =>
    have hf := Laws.Words.fifo_lt f
    have hp := Laws.Words.bcode_lt pop
    obtain ⟨hm, hd, ha, hg, hf⟩ := encSync_fields he (by decide) (by omega)
    obtain ⟨harg, hn, hfifo, hpop⟩ := tokw_arg n f pop
    rw [parse_sync hm]
    simp only [parseSync, ← toNat_fA, hd, ha, hg, hf, harg, hn, hfifo, hpop]
    rfl
  | tagwa d a | tagwl d a | tagclr a | fence | bclose | xretw d =>
    obtain ⟨hm, hd, ha, hg, hf⟩ := encSync_fields he (by decide) (by decide)
    rw [parse_sync hm]
    simp only [parseSync, ← toNat_fD, ← toNat_fA, hd, ha, hg, hf]
    rfl
  | tagff d a clr =>
    obtain ⟨hm, hd, ha, hg, hf⟩ := encSync_fields he (by decide) (by have := Laws.Words.bcode_lt clr; omega)
    rw [parse_sync hm]
    simp only [parseSync, hd, ha, hg, hf]
    cases clr <;> rfl
  | bara n x =>
    obtain ⟨hm, hd, ha, hg, hf⟩ := encSync_fields he (by decide) (by have := Laws.Words.scope_lt x; omega)
    obtain ⟨harg, hn, hx⟩ := barrier_arg n x
    rw [parse_sync hm]
    simp only [parseSync, ← toNat_fD, ← toNat_fA, hd, ha, hg, hf, harg, hn, hx]
    rfl
  | baraw d n x =>
    obtain ⟨hm, hd, ha, hg, hf⟩ := encSync_fields he (by decide) (by have := Laws.Words.scope_lt x; omega)
    obtain ⟨harg, hn, hx⟩ := barrier_arg n x
    rw [parse_sync hm]
    simp only [parseSync, ← toNat_fA, hd, ha, hg, hf, harg, hn, hx]
    rfl
  | barw d n | barset a n | waitb d n | qdrain n =>
    obtain ⟨hm, hd, ha, hg, hf⟩ := encSync_fields he (by decide) (by omega)
    rw [parse_sync hm]
    simp only [parseSync, ← toNat_fD, ← toNat_fA, hd, ha, hg, hf, BitVec.ofNat_toNat, BitVec.setWidth_eq]
    exact need_ok (by rw [Nat.div_eq_of_lt n.isLt]; rfl) rfl
  | qseq d a q =>
    obtain ⟨hm, hd, ha, hg, hf⟩ := encSync_fields he (by decide) (by have := Laws.Words.q_lt q; omega)
    rw [parse_sync hm]
    simp only [parseSync, hd, ha, hg, hf]
    cases q <;> rfl
  | fencep frm tom x =>
    obtain ⟨hm, hz, hf, ht, hx⟩ := fencep_fields he
    rw [parse_fencep hm]
    simp only [parseFencep, hz, hf, ht, hx]
    rfl
  | spawn a b | spawnj d a b | join d a | halt | yield | launch d a b =>
    obtain ⟨hm, hd, ha, hb, hl⟩ := encDab_fields he (by decide) (by decide)
    rw [parse_work hm]
    simp only [parseWork, ← toNat_fD, ← toNat_fA, ← toNat_fB, hd, ha, hb, bitsN_of_low hl 4 (Nat.le_refl 10),
      bitsN_of_low hl 0 (show 3 ≤ 10 by decide)]
    rfl
  | qpush a b =>
    obtain ⟨hm, hd, ha, hb, hl⟩ := encDab_fields he (by decide) (by decide)
    rw [parse_qobj hm]
    simp only [parseQobj, ← toNat_fD, hd, ha, hb, bitsN_of_low hl 8 (Nat.le_refl 10), bitsN_of_low hl 1 (show 7 ≤ 10 by decide),
      bitsN_of_low hl 0 (show 0 ≤ 10 by decide)]
    rfl
  | qpop d pd a =>
    obtain ⟨hm, hd, ha, hb, hl⟩ := encDab_fields he (by decide) (by omega)
    have hz : bitsN w 7 1 = 0 := by simp only [bitsN] at *; omega
    have h1 : bitsN w 0 0 = 1 := by simp only [bitsN] at *; omega
    have hp : bitsN w 10 8 = pd.toNat := by simp only [bitsN] at *; omega
    rw [parse_qobj hm]
    simp only [parseQobj, ← toNat_fB, hd, ha, hb, hz, h1, hp, BitVec.ofNat_toNat, BitVec.setWidth_eq]
    rfl
  | trap code | bkpt code | pmark code =>
    obtain ⟨hm, hd, ha, hg, hf⟩ := encSys_fields he (by decide) code.isLt
    rw [parse_sys hm]
    simp only [parseSys, ← toNat_fD, ← toNat_fA, hd, ha, hg, hf, BitVec.ofNat_toNat, BitVec.setWidth_eq]
    rfl
  | eret | synci | l1wb | srd d a | swr d a =>
    obtain ⟨hm, hd, ha, hg, hf⟩ := encSys_fields he (by decide) (by decide)
    rw [parse_sys hm]
    simp only [parseSys, ← toNat_fD, ← toNat_fA, hd, ha, hg, hf]
    rfl
  | tlbinv a kind x =>
    obtain ⟨hm, hd, ha, hg, hf⟩ := encSys_fields he (by decide) (by have := Laws.Words.scope_lt x; omega)
    obtain ⟨harg, hk, hx⟩ := tlbinv_arg kind x
    rw [parse_sys hm]
    simp only [parseSys, ← toNat_fD, hd, ha, hg, hf, harg, hk, hx]
    rfl
  | l1inv a all =>
    obtain ⟨hm, hd, ha, hg, hf⟩ := encSys_fields he (by decide) (by have := Laws.Words.bcode_lt all; omega)
    rw [parse_sys hm]
    simp only [parseSys, ← toNat_fD, hd, ha, hg, hf]
    cases all <;> rfl
  | wfe d mask =>
    obtain ⟨hm, hd, ha, hg, hf⟩ := encSys_fields he (by decide) (by omega)
    rw [parse_sys hm]
    simp only [parseSys, ← toNat_fA, hd, ha, hg, hf, BitVec.ofNat_toNat, BitVec.setWidth_eq]
    exact need_ok (by rw [Nat.div_eq_of_lt mask.isLt]; rfl) rfl
  | nop =>
    obtain ⟨rfl, rfl⟩ := Prod.mk.inj he
    rfl
  | scp x =>
    obtain ⟨rfl, rfl⟩ := Prod.mk.inj he
    cases x <;> rfl
  | imx x =>
    obtain ⟨hm, hz, hx⟩ := imx_fields he
    simp only [parse, parseLong, hm, hz, hx]
    rfl
  | tokp e | xcall e =>
    obtain ⟨hm, hn, he'⟩ := encEng_fields he (by decide) (by decide)
    rw [parse_engine hm (by decide), parseEngine, hn, he']
    exact if_neg (qsel_of_fieldRule hf (by simp))
  | mshape e | manch e | mzp e | mpriv e | mcode e | mcsum e | mlda e | mldb e | mma e | mmas e | mmaq e | mmap e | mchk e | mdrain e
  | mdrainx e | mzero e | mwm e | mcap e | mstat e | smv e | smvw e | vadd e | vsub e | vmul e | vmulh e | vmulhu e | vmin e | vmax e
  | vminu e | vmaxu e | vabs e | vneg e | vsadd e | vssub e | vand e | vor e | vxor e | vnot e | vshl e | vshr e | vsar e | vpopc e
  | vclz e | vbrev e | vclmull e | vclmulh e | vbcast e | vret e | vfadd e | vfsub e | vfmul e | vfma e | vfdiv e | vfsqrt e | vfmin e
  | vfmax e | vfabs e | vfneg e | vcmpeq e | vcmplt e | vcmpltu e | vfcmpeq e | vfcmplt e | vsel e | vmask e | vredadd e | vredmin e
  | vredmax e | vfredadd e | vperm e | vslide e | vld e | vst e | vgat e | vsct e | vqnt e | vdq e | vcvt e | vrange e | vmse e
  | vdefer e | vdrainq e | cld e | clde e | cgat e | cpf e | fget e | cst e | cstd e | csct e | cfill e | fput e | fputOf e | cbat e
  | fackw e | cred e =>
    obtain ⟨hm, hn, hf⟩ := encEng_fields he (by decide) (by decide)
    rw [parse_engine hm (by decide), parseEngine, hn, hf]
    rfl
  | _ => exact Bool.noConfusion hev

/-- Settles O2: the word's fields are the operands. -/
theorem decodeEncode : Obligations.DecodeEncode := by
  unfold Obligations.DecodeEncode
  intro i h
  have hp : parse (encode i).1 (encode i).2 = .ok i := parse_encode h rfl
  rw [decode, hp]
  exact if_pos h

/-! ### From the fields to the word -/

theorem encode_parseAlu {w : Nat} {i : Instr} (hw : w < 2 ^ 32) (hm : bitsN w 31 26 = 0x01) (h : parseAlu w = .ok i) :
    encode i = (w, 0) := by
  simp only [parseAlu] at h
  split at h
  case h_20 =>
    split at h
    case isTrue hr =>
      obtain ⟨hlo, hhi⟩ := hr
      cases h
      exact encDab_eq hw hm rfl rfl rfl (by rw [BitVec.toNat_ofNat]; omega)
    case isFalse => exact nomatch h
  all_goals
    cases h
    exact encDab_eq hw hm rfl rfl rfl ‹_›

theorem encode_parseAlu1 {w : Nat} {i : Instr} (hw : w < 2 ^ 32) (hm : bitsN w 31 26 = 0x02) (h : parseAlu1 w = .ok i) :
    encode i = (w, 0) := by
  simp only [parseAlu1] at h
  split at h
  case h_11 => exact nomatch h
  all_goals
    obtain ⟨hz, rfl⟩ := need_eq_ok h
    exact encDa_eq hw hm rfl rfl (by simp only [bitsN] at *; omega)

theorem encode_parseShi {w : Nat} {i : Instr} (hw : w < 2 ^ 32) (hm : bitsN w 31 26 = 0x07) (h : parseShi w = .ok i) :
    encode i = (w, 0) := by
  simp only [parseShi] at h
  split at h
  case h_4 => exact nomatch h
  all_goals
    obtain ⟨hz, rfl⟩ := need_eq_ok h
    exact encDa_eq hw hm rfl rfl (by simp only [bitsN, BitVec.toNat_ofNat] at *; omega)

theorem encode_parseCmp {w : Nat} {i : Instr} (hw : w < 2 ^ 32) (hm : bitsN w 31 26 = 0x0A) (h : parseCmp w = .ok i) :
    encode i = (w, 0) := by
  simp only [parseCmp] at h
  split at h
  case h_7 => exact nomatch h
  all_goals
    obtain ⟨hz, rfl⟩ := need_eq_ok h
    exact encP_eq hw hm rfl ‹_› (by simp only [bitsN, BitVec.toNat_ofNat] at *; omega)

theorem encode_parseCmpi {w : Nat} {i : Instr} (hw : w < 2 ^ 32) (hm : bitsN w 31 26 = 0x0B) (h : parseCmpi w = .ok i) :
    encode i = (w, 0) := by
  simp only [parseCmpi] at h
  split at h
  case h_7 => exact nomatch h
  all_goals
    cases h
    exact encP_eq hw hm rfl ‹_› (by simp only [bitsN, BitVec.toNat_ofNat] at *; omega)

theorem encode_parsePred {w : Nat} {i : Instr} (hw : w < 2 ^ 32) (hm : bitsN w 31 26 = 0x0C) (h : parsePred w = .ok i) :
    encode i = (w, 0) := by
  simp only [parsePred] at h
  split at h
  case h_5 => exact nomatch h
  all_goals
    obtain ⟨hz, rfl⟩ := need_eq_ok h
    exact encP_eq hw hm rfl ‹_› (by simp only [bitsN, BitVec.toNat_ofNat] at *; omega)

theorem encode_parseBranch {w m : Nat} {i : Instr} (hw : w < 2 ^ 32) (hm : bitsN w 31 26 = m) (hr : 0x0E ≤ m ∧ m ≤ 0x10)
    (h : parseBranch m w = .ok i) : encode i = (w, 0) := by
  simp only [parseBranch] at h
  split at h
  case h_1 =>
    split at h <;> cases h
    · exact encBr_eq hw hm ‹_›
    · exact encBr_eq hw hm rfl
  case h_2 =>
    cases h
    exact encBr_eq hw hm rfl
  case h_3 h1 h2 =>
    have high : m ≠ 0x0E ∧ m ≠ 0x0F := ⟨h1, h2⟩
    obtain rfl : m = 0x10 := by omega
    split at h <;> cases h
    exact encBr_eq hw hm ‹_›

theorem encode_parseJmp {w : Nat} {i : Instr} (hw : w < 2 ^ 32) (hm : bitsN w 31 26 = 0x11) (h : parseJmp w = .ok i) :
    encode i = (w, 0) := by
  simp only [parseJmp] at h
  split at h
  case h_4 => exact nomatch h
  case h_3 =>
    obtain ⟨hz, rfl⟩ := need_eq_ok h
    exact encDa_eq hw hm (fD_eq_zero (by omega)) (fA_eq_zero (by omega)) (by simp only [bitsN] at *; omega)
  all_goals
    obtain ⟨hz, rfl⟩ := need_eq_ok h
    exact encDa_eq hw hm (fD_eq_zero (by omega)) rfl (by simp only [bitsN] at *; omega)

/-- Every MTS is encoded by its number. -/
theorem encode_mtsOf (g : Reg) {srn : Nat} (h : srn < 1024) : encode (mtsOf g srn) = encSpr g srn 1 := by
  unfold mtsOf
  split
  case h_26 =>
    split
    case isTrue hr =>
      show encSpr g (0x050 + (BitVec.ofNat 4 (srn - 0x050)).toNat) 1 = _
      rw [BitVec.toNat_ofNat]
      congr 1
      omega
    case isFalse =>
      show encSpr g (BitVec.ofNat 10 srn).toNat 1 = _
      rw [BitVec.toNat_ofNat, Nat.mod_eq_of_lt h]
  all_goals rfl

theorem encode_parseSpr {w : Nat} {i : Instr} (hw : w < 2 ^ 32) (hm : bitsN w 31 26 = 0x14) (h : parseSpr w = .ok i) :
    encode i = (w, 0) := by
  have hs : bitsN w 20 11 < 1024 := by simp only [bitsN]; omega
  simp only [parseSpr] at h
  split at h
  case isTrue hd =>
    obtain ⟨hz, rfl⟩ := need_eq_ok h
    exact encSpr_eq hw hm (by rw [BitVec.toNat_ofNat, Nat.mod_eq_of_lt hs]) hz hd
  case isFalse hd =>
    obtain ⟨hz, rfl⟩ := need_eq_ok h
    exact (encode_mtsOf (fD w) hs).trans (encSpr_eq hw hm rfl hz (by simp only [bitsN] at *; omega))

theorem encode_parseMem {w m : Nat} {i : Instr} (hw : w < 2 ^ 32) (hm : bitsN w 31 26 = m) (hr : 0x15 ≤ m ∧ m ≤ 0x1A)
    (h : parseMem m w = .ok i) : encode i = (w, 0) := by
  simp only [parseMem] at h
  split at h
  case h_2 =>
    split at h <;> cases h
    exact encMem_eq hw hm rfl
  case h_6 h1 h2 h3 h4 h5 =>
    have high : m ≠ 0x15 ∧ m ≠ 0x16 ∧ m ≠ 0x17 ∧ m ≠ 0x18 ∧ m ≠ 0x19 := ⟨h1, h2, h3, h4, h5⟩
    obtain rfl : m = 0x1A := by omega
    obtain ⟨hz, rfl⟩ := need_eq_ok h
    exact encMem_eq hw hm (fD_eq_zero hz)
  all_goals
    cases h
    exact encMem_eq hw hm rfl

theorem encode_parseAtom {w : Nat} {i : Instr} (hw : w < 2 ^ 32) (hm : bitsN w 31 26 = 0x1B) (h : parseAtom w = .ok i) :
    encode i = (w, 0) := by
  simp only [parseAtom] at h
  split at h
  case h_11 => exact nomatch h
  all_goals
    obtain ⟨hz, rfl⟩ := need_eq_ok h
    exact encDab_eq hw hm rfl rfl rfl (by simp only [bitsN] at *; omega)

theorem encode_parseSync {w : Nat} {i : Instr} (hw : w < 2 ^ 32) (hm : bitsN w 31 26 = 0x1C) (h : parseSync w = .ok i) :
    encode i = (w, 0) := by
  simp only [parseSync] at h
  have harg : bitsN w 15 6 < 1024 := by simp only [bitsN]; omega
  generalize hg : bitsN w 15 6 = arg at h harg
  split at h
  case h_1 hf =>
    obtain ⟨hz, rfl⟩ := need_eq_ok h
    refine encSync_eq hw hm rfl (fA_eq_zero (by omega)) ?_ hf
    rw [hg, code_fifoOf (by simp only [bitsN]; omega), bcode_of_lt (by simp only [bitsN]; omega), BitVec.toNat_ofNat]
    simp only [bitsN]
    omega
  case h_4 hf =>
    obtain ⟨hz, rfl⟩ := need_eq_ok h
    exact encSync_eq hw hm rfl rfl (by rw [hg, bcode_of_lt (by omega)]; omega) hf
  case h_5 hf =>
    obtain ⟨hz, rfl⟩ := need_eq_ok h
    exact encSync_eq hw hm (fD_eq_zero (by omega)) rfl (by omega) hf
  case h_6 hf =>
    obtain ⟨hz, rfl⟩ := need_eq_ok h
    refine encSync_eq hw hm (fD_eq_zero (by omega)) (fA_eq_zero (by omega)) ?_ hf
    rw [hg, code_scopeOf (by simp only [bitsN]; omega), BitVec.toNat_ofNat]
    simp only [bitsN]
    omega
  case h_8 hf =>
    obtain ⟨hz, rfl⟩ := need_eq_ok h
    refine encSync_eq hw hm rfl (fA_eq_zero (by omega)) ?_ hf
    rw [hg, code_scopeOf (by simp only [bitsN]; omega), BitVec.toNat_ofNat]
    simp only [bitsN]
    omega
  case h_14 hf =>
    split at h
    case isTrue => exact nomatch h
    case isFalse hq =>
      obtain ⟨hz, rfl⟩ := need_eq_ok h
      exact encSync_eq hw hm rfl rfl (by rw [hg, code_queueOf (by omega)]; omega) hf
  case h_16 => exact nomatch h
  case h_2 hf | h_3 hf =>
    obtain ⟨hz, rfl⟩ := need_eq_ok h
    exact encSync_eq hw hm rfl rfl (by omega) hf
  case h_7 hf | h_12 hf =>
    obtain ⟨hz, rfl⟩ := need_eq_ok h
    exact encSync_eq hw hm rfl (fA_eq_zero (by omega)) (by rw [BitVec.toNat_ofNat]; omega) hf
  case h_9 hf =>
    obtain ⟨hz, rfl⟩ := need_eq_ok h
    exact encSync_eq hw hm (fD_eq_zero (by omega)) rfl (by rw [BitVec.toNat_ofNat]; omega) hf
  case h_10 hf | h_11 hf =>
    obtain ⟨hz, rfl⟩ := need_eq_ok h
    exact encSync_eq hw hm (fD_eq_zero (by omega)) (fA_eq_zero (by omega)) (by omega) hf
  case h_13 hf =>
    obtain ⟨hz, rfl⟩ := need_eq_ok h
    exact encSync_eq hw hm (fD_eq_zero (by omega)) (fA_eq_zero (by omega)) (by rw [BitVec.toNat_ofNat]; omega) hf
  case h_15 hf =>
    obtain ⟨hz, rfl⟩ := need_eq_ok h
    exact encSync_eq hw hm rfl (fA_eq_zero (by omega)) (by omega) hf

theorem encode_parseFencep {w : Nat} {i : Instr} (hw : w < 2 ^ 32) (hm : bitsN w 31 26 = 0x1D) (h : parseFencep w = .ok i) :
    encode i = (w, 0) := by
  obtain ⟨hz, rfl⟩ := need_eq_ok h
  refine Prod.ext ?_ rfl
  show 0x1D * 0x4000000 + _ * 0x100000 + _ * 0x4000 + _ * 0x1000 = w
  rw [code_scopeOf (by simp only [bitsN]; omega), BitVec.toNat_ofNat, BitVec.toNat_ofNat]
  simp only [bitsN] at *
  omega

/-- The low bits of a word whose bits above FN are zero. -/
theorem low_of_fn {w fn : Nat} (hz : bitsN w 10 4 = 0) (hf : bitsN w 3 0 = fn) : bitsN w 10 0 = fn := by
  simp only [bitsN] at *
  omega

theorem encode_parseWork {w : Nat} {i : Instr} (hw : w < 2 ^ 32) (hm : bitsN w 31 26 = 0x1E) (h : parseWork w = .ok i) :
    encode i = (w, 0) := by
  simp only [parseWork] at h
  split at h
  case h_1 hf =>
    obtain ⟨hz, rfl⟩ := need_eq_ok h
    exact encDab_eq hw hm (fD_eq_zero (by omega)) rfl rfl (low_of_fn (by omega) hf)
  case h_2 hf | h_6 hf =>
    obtain ⟨hz, rfl⟩ := need_eq_ok h
    exact encDab_eq hw hm rfl rfl rfl (low_of_fn (by omega) hf)
  case h_3 hf =>
    obtain ⟨hz, rfl⟩ := need_eq_ok h
    exact encDab_eq hw hm rfl rfl (fB_eq_zero (by omega)) (low_of_fn (by omega) hf)
  case h_4 hf | h_5 hf =>
    obtain ⟨hz, rfl⟩ := need_eq_ok h
    exact encDab_eq hw hm (fD_eq_zero (by omega)) (fA_eq_zero (by omega)) (fB_eq_zero (by omega)) (low_of_fn (by omega) hf)
  case h_7 => exact nomatch h

theorem encode_parseQobj {w : Nat} {i : Instr} (hw : w < 2 ^ 32) (hm : bitsN w 31 26 = 0x1F) (h : parseQobj w = .ok i) :
    encode i = (w, 0) := by
  simp only [parseQobj] at h
  split at h <;> obtain ⟨hz, rfl⟩ := need_eq_ok h
  case isTrue h0 =>
    obtain ⟨z1, z2, z3⟩ : bitsN w 7 1 = 0 ∧ bitsN w 25 21 = 0 ∧ bitsN w 10 8 = 0 := by omega
    refine encDab_eq hw hm (fD_eq_zero z2) rfl rfl ?_
    simp only [bitsN] at z1 z3 h0 ⊢
    omega
  case isFalse h0 =>
    obtain ⟨z1, z2⟩ : bitsN w 7 1 = 0 ∧ bitsN w 15 11 = 0 := by omega
    refine encDab_eq hw hm rfl rfl (fB_eq_zero z2) ?_
    simp only [bitsN, BitVec.toNat_ofNat] at z1 h0 ⊢
    omega

theorem encode_parseSys {w : Nat} {i : Instr} (hw : w < 2 ^ 32) (hm : bitsN w 31 26 = 0x33) (h : parseSys w = .ok i) :
    encode i = (w, 0) := by
  simp only [parseSys] at h
  have harg : bitsN w 15 4 < 4096 := by simp only [bitsN]; omega
  generalize hg : bitsN w 15 4 = arg at h harg
  split at h
  case h_1 hf | h_3 hf | h_8 hf =>
    obtain ⟨hz, rfl⟩ := need_eq_ok h
    exact encSys_eq hw hm (fD_eq_zero (by omega)) (fA_eq_zero (by omega)) (by rw [BitVec.toNat_ofNat]; omega) hf
  case h_2 hf | h_4 hf | h_6 hf =>
    obtain ⟨hz, rfl⟩ := need_eq_ok h
    exact encSys_eq hw hm (fD_eq_zero (by omega)) (fA_eq_zero (by omega)) (by omega) hf
  case h_5 hf =>
    obtain ⟨hz, rfl⟩ := need_eq_ok h
    refine encSys_eq hw hm (fD_eq_zero (by omega)) rfl ?_ hf
    rw [hg, code_scopeOf (by simp only [bitsN]; omega), BitVec.toNat_ofNat]
    simp only [bitsN]
    omega
  case h_7 hf =>
    obtain ⟨hz, rfl⟩ := need_eq_ok h
    exact encSys_eq hw hm (fD_eq_zero (by omega)) rfl (by rw [hg, bcode_of_lt (by omega)]; omega) hf
  case h_9 hf | h_10 hf =>
    obtain ⟨hz, rfl⟩ := need_eq_ok h
    exact encSys_eq hw hm rfl rfl (by omega) hf
  case h_11 hf =>
    obtain ⟨hz, rfl⟩ := need_eq_ok h
    exact encSys_eq hw hm rfl (fA_eq_zero (by omega)) (by rw [BitVec.toNat_ofNat]; omega) hf
  case h_12 => exact nomatch h

/-- An engine instruction is encoded by its major, its minor and its fields. -/
theorem encode_parseEngine {m w v : Nat} {i : Instr} (h : parseEngine m w v = .ok i) :
    encode i = encEng m (bitsN w 10 7) (engOf w v) := by
  simp only [parseEngine] at h
  generalize bitsN w 10 7 = min at *
  generalize engOf w v = e at *
  split at h
  case h_1 =>
    simp only [parseQctl] at h
    split at h
    case isTrue => exact nomatch h
    case isFalse =>
      split at h <;> cases h
      all_goals rfl
  case h_18 => exact nomatch h
  all_goals
    simp only [parseMajor21, parseMajor22, parseMajor23, parseMajor24, parseMajor25, parseMajor26, parseMajor29, parseMajor2A,
      parseMajor2B, parseMajor2C, parseMajor2D, parseMajor2E, parseMajor2F, parseMajor30, parseMajor31, parseMajor32] at h
    split at h <;> cases h
    all_goals rfl

/-- The words of the 64-bit forms. -/
theorem encode_parseLong {w v : Nat} {i : Instr} (hw : w < 2 ^ 32) (hv : v < 2 ^ 32) (h : parseLong (bitsN w 31 26) w v = .ok i) :
    encode i = (w, v) := by
  simp only [parseLong] at h
  split at h
  case h_1 hm =>
    obtain ⟨hz, rfl⟩ := need_eq_ok h
    refine Prod.ext ?_ ?_
    · show 0x09 * 0x4000000 + _ * 0x200000 + bcode _ = w
      rw [toNat_fD, bcode_of_lt (by simp only [bitsN]; omega)]
      simp only [bitsN] at *
      omega
    · exact (BitVec.toNat_ofNat v 32).trans (Nat.mod_eq_of_lt hv)
  case h_2 hm =>
    obtain ⟨hz, rfl⟩ := need_eq_ok h
    refine Prod.ext ?_ ?_
    · show 0x12 * 0x4000000 + _ * 0x2000000 + _ * 0x100000 = w
      simp only [BitVec.toNat_ofNat, bitsN] at *
      omega
    · show BitVec.toNat _ = v
      simp only [BitVec.toNat_ofNat, bitsN] at *
      omega
  case h_3 hm =>
    obtain ⟨hz, rfl⟩ := need_eq_ok h
    refine Prod.ext ?_ ?_
    · show 0x13 * 0x4000000 + _ * 0x2000000 + _ = w
      simp only [BitVec.toNat_ofNat, bitsN] at *
      omega
    · show BitVec.toNat _ = v
      simp only [BitVec.toNat_ofNat, bitsN] at *
      omega
  case h_4 hm =>
    obtain ⟨hz, rfl⟩ := need_eq_ok h
    refine Prod.ext ?_ ?_
    · show 0x3F * 0x4000000 + BitVec.toNat _ % 0x10000 = w
      simp only [BitVec.toNat_ofNat, bitsN] at *
      omega
    · show BitVec.toNat _ / 0x10000 = v
      simp only [BitVec.toNat_ofNat, bitsN] at *
      omega
  case h_5 => exact (encode_parseEngine h).trans (encEng_eq hw hv)

/-- Only the majors of 64-bit forms are left to `parseLong` (R101). -/
theorem longMajor_of_parseLong {m w v : Nat} {i : Instr} (h : parseLong m w v = .ok i) : longMajor m = true := by
  simp only [parseLong] at h
  split at h
  case h_5 =>
    simp only [parseEngine] at h
    split at h
    case h_18 => exact nomatch h
    all_goals rfl
  all_goals rfl

/-- The major map (Table 3.6): a word that decodes is the first word of its instruction. -/
theorem encode_parse {w v : Nat} {i : Instr} (hw : w < 2 ^ 32) (hv : v < 2 ^ 32) (h : parse w v = .ok i) :
    encode i = (w, if longMajor (bitsN w 31 26) then v else 0) := by
  simp only [parse] at h
  split at h
  case h_32 => rw [longMajor_of_parseLong h]; exact encode_parseLong hw hv h
  all_goals rename_i hm; rw [hm]
  case h_1 => exact encode_parseAlu hw hm h
  case h_2 => exact encode_parseAlu1 hw hm h
  case h_3 | h_4 | h_5 | h_6 =>
    cases h
    exact encDa_eq hw hm rfl rfl (by simp only [BitVec.toNat_ofNat, bitsN]; omega)
  case h_7 => exact encode_parseShi hw hm h
  case h_8 =>
    obtain ⟨hz, rfl⟩ := need_eq_ok h
    exact encDa_eq hw hm rfl (fA_eq_zero hz) (by simp only [BitVec.toNat_ofNat, bitsN]; omega)
  case h_9 => exact encode_parseCmp hw hm h
  case h_10 => exact encode_parseCmpi hw hm h
  case h_11 => exact encode_parsePred hw hm h
  case h_12 =>
    obtain ⟨hz, rfl⟩ := need_eq_ok h
    exact encDab_eq hw hm rfl rfl rfl (by simp only [BitVec.toNat_ofNat, bitsN] at *; omega)
  case h_13 | h_14 | h_15 =>
    rw [hm] at h
    exact encode_parseBranch hw hm (by decide) h
  case h_16 => exact encode_parseJmp hw hm h
  case h_17 => exact encode_parseSpr hw hm h
  case h_18 | h_19 | h_20 | h_21 | h_22 | h_23 =>
    rw [hm] at h
    exact encode_parseMem hw hm (by decide) h
  case h_24 => exact encode_parseAtom hw hm h
  case h_25 => exact encode_parseSync hw hm h
  case h_26 => exact encode_parseFencep hw hm h
  case h_27 => exact encode_parseWork hw hm h
  case h_28 => exact encode_parseQobj hw hm h
  case h_29 => exact encode_parseSys hw hm h
  case h_30 =>
    obtain ⟨hz, rfl⟩ := need_eq_ok h
    refine Prod.ext ?_ rfl
    show 0x34 * 0x4000000 = w
    simp only [bitsN] at *
    omega
  case h_31 =>
    obtain ⟨hz, rfl⟩ := need_eq_ok h
    refine Prod.ext ?_ rfl
    show 0x3E * 0x4000000 + Scope.code _ = w
    rw [code_scopeOf (by simp only [bitsN]; omega)]
    simp only [bitsN] at *
    omega

/-- Settles O3: every field of a word that decodes is an operand, an opcode or zero. -/
theorem encodeDecode : Obligations.EncodeDecode := by
  unfold Obligations.EncodeDecode
  intro w0 w1 i h0 h1 h
  unfold decode at h
  split at h
  case h_1 => exact nomatch h
  case h_2 j hp =>
    have major : bitsN w0 31 26 = w0 / 2 ^ 26 := by simp only [bitsN]; omega
    split at h
    case isFalse => exact nomatch h
    case isTrue hwf =>
      cases h
      exact ⟨hwf, by rw [encode_parse h0 h1 hp, major]⟩

/-- Settles O1: the decoder computes each example. -/
theorem decodeWords : Obligations.DecodeWords := by
  unfold Obligations.DecodeWords
  exact ⟨rfl, rfl, rfl, rfl, rfl, rfl, rfl, rfl, rfl, rfl, rfl, rfl, rfl, rfl, rfl⟩

end Sys2Proof.Machine

/-! SUPPORT. The prefixes (R112 to R115, R122): every instruction asks for those it takes before it does anything, and a prefix goes on
at its successor. -/

namespace Sys2Proof.Machine

/-! ### Prefixes that an instruction does not take -/

/-- The instruction that answers o from s takes IMX and SCP as the flags say: with another prefix before it, it raises the
illegal-instruction trap (R114). -/
def Out.takes (o : Out) (s : State) (imx scp : Bool) : Prop :=
  ∀ p, s.cur.pfx = some p → (p.imx.isSome = true ∧ imx = false) ∨ (p.scp.isSome = true ∧ scp = false) →
    o = .next (s.raise trapIllegal)

section
variable (s : State)

theorem State.run_takes (imx scp : Bool) (body : State → Res Flow) : Out.takes (s.run imx scp body) s imx scp :=
  fun p hp h => s.run_illegal imx scp body p hp h

theorem State.simple_takes (f : State → State) : Out.takes (s.simple f) s false false := s.run_takes _ _ _

theorem State.alu2_takes (d a b : Reg) (f : Word → Word → Word) : Out.takes (s.alu2 d a b f) s false false := s.simple_takes _

theorem State.alu1_takes (d a : Reg) (f : Word → Word) : Out.takes (s.alu1 d a f) s false false := s.simple_takes _

theorem State.cmp2_takes (pd : PReg) (a b : Reg) (f : Word → Word → Bool) : Out.takes (s.cmp2 pd a b f) s false false :=
  s.simple_takes _

theorem State.mtsRun_takes (n : Nat) (g : Reg) (f : Word → State → Res Unit) : Out.takes (s.mtsRun n g f) s false false :=
  s.run_takes _ _ _

theorem State.tileOnly_takes (body : State → Res Flow) : Out.takes (s.tileOnly body) s false false := s.run_takes _ _ _

theorem State.atMOnly_takes (body : State → Res Flow) : Out.takes (s.atMOnly body) s false false := s.run_takes _ _ _

theorem State.atom_takes (aop : Nat) (d a b : Reg) (f : Word → Word → Word → Option Word) :
    Out.takes (s.atom aop d a b f) s false true := s.run_takes _ _ _

theorem issue_takes (i : Instr) (e : Eng) (q : Q) : Out.takes (issue i e q s) s i.isCopy i.isCopy := s.run_takes _ _ _

/-- An immediate form takes IMX where its own immediate is zero (R112). -/
theorem State.runImm_takes {n : Nat} (imm : BitVec n) (scp : Bool) (body : State → Res Flow) :
    Out.takes (s.runImm imm.toNat scp body) s (decide (imm = 0)) scp := by
  have own : decide (imm.toNat = 0) = decide (imm = 0) := decide_eq_decide.mpr (BitVec.toNat_inj (y := 0#n))
  rw [← own]
  exact s.run_takes _ _ _

theorem State.immS_takes (d a : Reg) (imm : BitVec 16) (f : Word → Word → Word) :
    Out.takes (s.immS d a imm f) s (decide (imm = 0)) false := s.runImm_takes _ _ _

theorem State.immZ_takes (d a : Reg) (imm : BitVec 16) (f : Word → Word → Word) :
    Out.takes (s.immZ d a imm f) s (decide (imm = 0)) false := s.runImm_takes _ _ _

theorem State.cmpI_takes (pd : PReg) (a : Reg) (imm : BitVec 15) (f : Word → Word → Bool) :
    Out.takes (s.cmpI pd a imm f) s (decide (imm = 0)) false := s.runImm_takes _ _ _

theorem State.loadTo_takes (d a : Reg) (sz : BitVec 2) (off : BitVec 14) (acq : Bool) (ext : Nat → Word) :
    Out.takes (s.loadTo d a sz off acq ext) s (decide (off = 0)) true := s.runImm_takes _ _ _

theorem State.storeFrom_takes (d a : Reg) (sz : BitVec 2) (off : BitVec 14) (rel : Bool) :
    Out.takes (s.storeFrom d a sz off rel) s (decide (off = 0)) true := s.runImm_takes _ _ _

end

/-- An armed BKPT is not looked at before its prefixes are. -/
theorem execBkpt_takes (code : BitVec 12) (s : State) : Out.takes (execBkpt code s) s false false := by
  intro p hp h
  have unarmed : ¬ (s.cur.pfx.isNone && s.bkptArmed code) = true := by simp [hp]
  rw [execBkpt, if_neg unarmed]
  exact s.run_takes _ _ _ p hp h

/-- Every instruction takes the prefixes that R112 and R113 give it, and no other. -/
theorem exec_takes {i : Instr} (s : State) (he : i.isEvent = false) (himx : ∀ x, i ≠ .imx x) (hscp : ∀ x, i ≠ .scp x) :
    Out.takes (exec i s) s (takesImx i) (takesScp i) := by
  unfold exec
  cases i with
  | add | sub | mul | mulh | mulhu | div | divu | rem | remu | and | or | xor | shl | shr | sar | min | max | minu | maxu
  | lea => exact s.alu2_takes _ _ _ _
  | clz | ctz | popc | bswap | sextB | sextH | sextW | zextB | zextH | zextW | shli | shri | sari | movw =>
    exact s.alu1_takes _ _ _
  | addi | movi => exact s.immS_takes _ _ _ _
  | andi | ori | xori => exact s.immZ_takes _ _ _ _
  | cmpeq | cmpne | cmplt | cmpltu | cmpge | cmpgeu => exact s.cmp2_takes _ _ _ _
  | cmpeqi | cmpnei | cmplti | cmpltui | cmpgei | cmpgeui => exact s.cmpI_takes _ _ _ _
  | pand | por | pxor | pnot | sel | synci | l1wb | l1inv | pmark | nop => exact s.simple_takes _
  | bp | br | bnp | call | ji | calli | ret | loop | loopi | mfs | fence | fencep | qpush | qpop | trap | wfe =>
    exact s.run_takes _ _ _
  | mts | mtsTcfg | mtsQueueNumber | mtsQueueLink | mtsTokc | mtsZwm | mtsDqn | mtsSeqw | mtsSeed | mtsLoopRegister
  | mtsEbase | injArm => exact s.mtsRun_takes _ _ _
  | ld | lds | lda => exact s.loadTo_takes _ _ _ _ _ _
  | st | stl => exact s.storeFrom_takes _ _ _ _ _
  | pfl => exact s.runImm_takes _ _ _
  | aadd | amin | amax | aminu | amaxu | axchg | acas | aand | aor | axor => exact s.atom_takes _ _ _ _ _
  | tokw | tagwa | tagwl | tagff | tagclr | bara | barw | baraw | barset | bclose | waitb | qdrain | qseq | xretw | spawn
  | spawnj | join | halt | yield | launch => exact s.tileOnly_takes _
  | eret | tlbinv | srd | swr => exact s.atMOnly_takes _
  | bkpt code => exact execBkpt_takes code s
  | tokp | xcall | mshape | manch | mzp | mpriv | mcode | mcsum | mlda | mldb | mma | mmas | mmaq | mmap | mchk | mdrain
  | mdrainx | mzero | mwm | mcap | mstat | smv | smvw | vadd | vsub | vmul | vmulh | vmulhu | vmin | vmax | vminu | vmaxu
  | vabs | vneg | vsadd | vssub | vand | vor | vxor | vnot | vshl | vshr | vsar | vpopc | vclz | vbrev | vclmull | vclmulh
  | vbcast | vret | vfadd | vfsub | vfmul | vfma | vfdiv | vfsqrt | vfmin | vfmax | vfabs | vfneg | vcmpeq | vcmplt
  | vcmpltu | vfcmpeq | vfcmplt | vsel | vmask | vredadd | vredmin | vredmax | vfredadd | vperm | vslide | vld | vst | vgat
  | vsct | vqnt | vdq | vcvt | vrange | vmse | vdefer | vdrainq | cld | clde | cgat | cpf | fget | cst | cstd | csct | cfill
  | fput | fputOf | cbat | fackw | cred => exact issue_takes _ _ _ _
  | imx x => exact absurd rfl (himx x)
  | scp x => exact absurd rfl (hscp x)
  | _ => exact Bool.noConfusion he

/-! ### IMX and SCP -/

theorem State.pfxOr_eq (s : State) :
    s.pfxOr = s.cur.pfx.getD { imx := none, scp := none, start := s.cur.pc, w0 := s.cur.iw.truncate 32, w1 := 0 } := by
  simp only [State.pfxOr]
  cases s.cur.pfx <;> rfl

/-- After a prefix whose successor lies in the image, the unit is read on there. -/
theorem State.prefixed_next {s : State} {a : CodeAddr} (p : Pfx) (hc : s.hasCore) (h : s.hasSucc a) :
    s.prefixed p = .next (s.updCur (fun c => { c with pfx := some p, waiting := false, pc := a, lined := c.sameLine a })) := by
  obtain ⟨hs, hi⟩ := h
  have hcur := s.cur_updCur (fun c => { c with pfx := some p, waiting := false }) hc
  have himg : (s.updCur (fun c => { c with pfx := some p, waiting := false })).image = s.image := s.image_setCur _ rfl
  simp only [State.prefixed, hcur, hs, himg, if_neg (Nat.not_le.mpr hi)]
  simp only [State.updCur, State.setCur_setCur, Tcc.sameLine, hs]

/-- A prefix that is the last word of a chain (R98). -/
theorem State.prefixed_last {s : State} (p : Pfx) (hc : s.hasCore) (h : s.cur.succ = none) :
    s.prefixed p = .next ((s.updCur (fun c => { c with pfx := some p, waiting := false })).raise trapIllegal) := by
  have hcur := s.cur_updCur (fun c => { c with pfx := some p, waiting := false }) hc
  simp only [State.prefixed, hcur, h]

theorem exec_imx_first {s : State} (x : BitVec 48) (h : s.pfxOr.imx = none) :
    exec (.imx x) s = s.prefixed { s.pfxOr with imx := some x } := if_neg (by simp [h])

theorem exec_scp_first {s : State} (x : Scope) (h : s.pfxOr.scp = none) :
    exec (.scp x) s = s.prefixed { s.pfxOr with scp := some x } := if_neg (by simp [h])

/-- Settles O26: each instruction asks for its prefixes before it does anything. -/
theorem prefixes : Obligations.Prefixes := by
  unfold Obligations.Prefixes
  refine ⟨fun s i p he himx hscp hp h => exec_takes s he himx hscp p hp h, fun s x sc hc => ?_⟩
  rw [← s.pfxOr_eq]
  refine ⟨fun h a ha => ?_, fun h a ha => ?_, fun h => if_pos h, fun h => if_pos h, fun hs => ⟨fun h => ?_, fun h => ?_⟩⟩
  · rw [exec_imx_first x h, State.prefixed_next _ hc ha]
  · rw [exec_scp_first sc h, State.prefixed_next _ hc ha]
  · rw [exec_imx_first x h, State.prefixed_last _ hc hs]
  · rw [exec_scp_first sc h, State.prefixed_last _ hc hs]

end Sys2Proof.Machine

/-! SUPPORT. A fetch (R92 to R101, R111, R117) in a line that has been entered, and the turn of a control core that runs what it
fetches. -/

namespace Sys2Proof.Machine

/-! ### The fetch -/

/-- The successor of an instruction whose last word is in slot k, by LAST and NEXT of its line's link word (R97). -/
theorem succOf_eq (line k link : Nat) :
    succOf line k link = if k < 15 then some (mkCode line (k + 1))
      else if link / 2 ^ 27 % 2 = 1 then none else some (mkCode (link % 2 ^ 24) 1) := by
  simp only [succOf, bitsN, pow_zero, Nat.div_one]
  rfl

/-- What a fetch gives once it has the words of its instruction: what they decode to, or the illegal-instruction trap. -/
def State.decoded (s : State) (w0 w1 : Nat) : Res Instr :=
  match decode w0 w1 with
  | .ok i => .ok i s
  | .error _ => .trap trapIllegal s

theorem State.decoded_ok {s : State} {w0 w1 : Nat} {i : Instr} (h : decode w0 w1 = .ok i) : s.decoded w0 w1 = .ok i s := by
  rw [State.decoded, h]

theorem State.decoded_error {s : State} {w0 w1 : Nat} {e : DecodeError} (h : decode w0 w1 = .error e) :
    s.decoded w0 w1 = .trap trapIllegal s := by
  rw [State.decoded, h]

/-- The words of a fetch from its first word w0 on, in the state after it has been read, in a slot of a line with a link word. -/
def State.fetchRest (s : State) (base line slot link w0 : Nat) : Res Instr :=
  if longMajor (bitsN w0 31 26) then
    if slot = 15 then .trap trapIllegal s
    else
      (s.fetchWord (base + 4 * (slot + 1))).andThen fun w1 s =>
        (s.updCur (fun c => { c with iw := BitVec.ofNat 64 (w0 + w1 * 2 ^ 32), succ := succOf line (slot + 1) link })).decoded w0 w1
  else (s.updCur (fun c => { c with succ := succOf line slot link })).decoded w0 0

/-- A fetch in a line that has been entered, whose link word and first word can be read, with no prefix before it. -/
theorem State.fetch_entered {s s1 s2 : State} {link w0 : Nat} (s0 : State) (hs0 : s0 = s.updCur (fun c => { c with iw := 0 }))
    (himg : s0.onCore = true ∨ s0.cur.img ≠ 0xFFFF ∨ s0.cur.atM = true)
    (hlink : s0.fetchWord (s0.image.1 + lineOf s0.cur.pc * 64) = .ok link s1) (hlined : s1.cur.lined = true)
    (hword : s1.fetchWord (s0.image.1 + lineOf s0.cur.pc * 64 + 4 * slotOf s0.cur.pc) = .ok w0 s2) (hpfx : s2.cur.pfx = none) :
    s.fetch = (s2.updCur (fun c => { c with iw := BitVec.ofNat 64 w0 })).fetchRest (s0.image.1 + lineOf s0.cur.pc * 64)
      (lineOf s0.cur.pc) (slotOf s0.cur.pc) link w0 := by
  have level : (!s0.onCore && decide (s0.cur.img = 0xFFFF) && !s0.cur.atM) = false := by
    rcases himg with h | h | h
    · simp [h]
    · rw [decide_eq_false h, Bool.and_false, Bool.false_and]
    · simp [h]
  have noted : s2.updCur (fun c => { c.noteWord w0 with iw := BitVec.ofNat 64 w0 }) =
      s2.updCur (fun c => { c with iw := BitVec.ofNat 64 w0 }) := by
    simp only [State.updCur, Tcc.noteWord, hpfx]
  simp only [State.fetch, ← hs0, level, hlink, Res.andThen, hlined, Bool.not_true, Bool.false_and, Bool.false_eq_true,
    if_false, if_true, hword, noted]
  rfl

/-- Settles O5: the words are read one after another, and the link word gives the successor. -/
theorem fetchDecodes : Obligations.FetchDecodes := by
  unfold Obligations.FetchDecodes
  intro s link w0 s1 s2 s0 line slot base after hc himg hlink hlined hword hpfx hc2 hw got
  have hafter (k : Nat) : succOf line k link = after k := succOf_eq line k link
  have major : bitsN w0 31 26 = w0 / 2 ^ 26 := by simp only [bitsN]; omega
  rw [State.fetch_entered s0 rfl himg hlink hlined hword hpfx, State.fetchRest, major]
  refine ⟨fun hshort => ?_, fun hlong hslot => ?_, fun hlong hslot w1 s3 hw1 => ?_⟩
  · rw [if_neg (ne_true_of_eq_false hshort), State.updCur_updCur _ _ _ hc2, hafter]
    exact ⟨fun i => State.decoded_ok, fun e => State.decoded_error⟩
  · rw [if_pos hlong, if_pos hslot]
  · rw [if_pos hlong, if_neg (Nat.ne_of_lt hslot), hw1, Res.andThen, hafter]
    exact ⟨fun i => State.decoded_ok, fun e => State.decoded_error⟩

/-! ### The step -/

/-- A step makes the first of the moves in hand. -/
theorem step_eq_move {s : State} {m : Move} {rest : List Move} (h : (if s.agenda = [] then s.round else s.agenda) = m :: rest) :
    step s = (s.move m).sched rest (m.agent s.who) := by
  simp only [step, List.isEmpty_iff, h]

/-- Without a storage error an instruction of a tile is executed as it is (R447). -/
theorem State.parityTurn_clean {s : State} (g : Nat) (i : Instr) (go : State → Out) (h : s.bad = []) :
    s.parityTurn g i go = go s := by
  have none : s.parityOf g i = [] := by simp [State.parityOf, h]
  simp [State.parityTurn, none, h]

theorem State.execFetched_ok {s s1 : State} {i : Instr} (go : Instr → State → Out) (h : s.fetch = .ok i s1) :
    s.execFetched go = go i s1 := by rw [State.execFetched, h]

theorem State.execFetched_trap {s s1 : State} {t : TrapI} (go : Instr → State → Out) (h : s.fetch = .trap t s1) :
    s.execFetched go = .next (s1.raise t) := by rw [State.execFetched, h]

/-- The turn of a tile that runs, with nothing to take first and no breakpoint at its pc. -/
theorem State.turn_tile {s : State} {g : Nat} (hg : g < 256) (hr : (s.tile g).runs = true) (hh : s.tccHeld g = false)
    (hp : (s.tile g).tcc.pend = none) (hf : (s.tile g).takesFault = false) (ha : (s.tile g).addrHit = false) :
    s.turn (.tile g) = ((({ s with who := .tile g } : State).setTile g (s.tile g).passed).execFetched
      (fun i s => s.parityTurn g i (exec i))).settled g := by
  have running : (s.tile g).dbg.stopped = false ∧ (s.tile g).bound.isNone = false := by
    simp only [Tile.runs, Bool.and_eq_true, Bool.not_eq_true'] at hr
    obtain ⟨⟨⟨-, hs⟩, -⟩, hb⟩ := hr
    exact ⟨hs, by simpa using hb⟩
  obtain ⟨hs, hb⟩ := running
  have held : ({ s with who := .tile g } : State).tccHeld g = false := hh
  have htile : ({ s with who := .tile g } : State).tile g = s.tile g := rfl
  simp only [State.turn, if_neg (Nat.not_le.mpr hg), State.tileTurn, htile, hs, hb, held, hp, hf, hr, ha,
    Bool.false_and, Bool.or_false, Bool.not_true, Bool.false_eq_true, if_false]

/-- The turn of a management core that is neither stopped nor held. -/
theorem State.turn_core {s : State} {n : Nat} (hn : n < 4) (hs : ({ s with who := .core n } : State).cur.stopped = false)
    (hh : ({ s with who := .core n } : State).coreHeld ({ s with who := .core n } : State).cur = false) :
    s.turn (.core n) = ({ s with who := .core n } : State).execFetched exec := by
  simp only [State.turn, if_neg (Nat.not_le.mpr hn), hs, hh, Bool.or_false, Bool.false_eq_true, if_false]

/-- Settles O4: the first move is the turn, and the turn is the fetch and what it gives. -/
theorem stepRunsDecoded : Obligations.StepRunsDecoded := by
  unfold Obligations.StepRunsDecoded
  refine ⟨fun s m rest => step_eq_move, fun s g rest h hg hr hh hp hf ha => ?_, fun s n rest h hn hs hh => ?_⟩
  · have turn : s.move (.run (.tile g)) = _ := s.turn_tile hg hr hh hp hf ha
    rw [step_eq_move h, turn]
    refine ⟨fun i s1 hi => ⟨?_, fun hb => State.parityTurn_clean g i (exec i) hb⟩, fun t s1 ht => ?_⟩
    · rw [State.execFetched_ok _ hi]
      rfl
    · rw [State.execFetched_trap _ ht]
      rfl
  · have turn : s.move (.run (.core n)) = _ := s.turn_core hn hs hh
    rw [step_eq_move h, turn]
    refine ⟨fun i s1 hi => ?_, fun t s1 ht => ?_⟩
    · rw [State.execFetched_ok _ hi]
      rfl
    · rw [State.execFetched_trap _ ht]
      rfl

end Sys2Proof.Machine

/-! SUPPORT. The integer, compare and predicate instructions (R132 to R139): the value of each row of Table 4.1 in unbounded integers,
and of the bit instructions. -/

namespace Sys2Proof.Machine

/-! ### Arithmetic and shifts -/

theorem Word.add_eq (x y : Word) : x + y = BitVec.ofNat 64 (x.toNat + y.toNat) := by
  simp [BitVec.toNat_eq]

theorem Word.sub_eq (x y : Word) : x - y = BitVec.ofInt 64 ((x.toNat : Int) - y.toNat) := by
  have := y.isLt
  apply BitVec.eq_of_toNat_eq
  rw [BitVec.toNat_sub, BitVec.toNat_ofInt]
  omega

theorem Word.mul_eq (x y : Word) : x * y = BitVec.ofInt 64 (x.toInt * y.toInt) := by
  simp [BitVec.ofInt_mul]

theorem remU_eq (x y : Word) :
    remU x y = if y = 0 then x else BitVec.ofInt 64 ((x.toNat : Int) - y.toNat * (x.toNat / y.toNat : Nat)) := by
  have h : (x.toNat : Int) - y.toNat * (x.toNat / y.toNat : Nat) = (x.toNat % y.toNat : Nat) := by
    rw [Int.sub_eq_iff_eq_add]
    exact_mod_cast (Nat.mod_add_div x.toNat y.toNat).symm
  rw [remU, h, BitVec.ofInt_natCast]

theorem Word.shl_eq (x : Word) (n : Nat) : x <<< n = BitVec.ofNat 64 (x.toNat * 2 ^ n) := by
  simp [BitVec.toNat_eq, Nat.shiftLeft_eq]

theorem Word.shr_eq (x : Word) (n : Nat) : x >>> n = BitVec.ofNat 64 (x.toNat / 2 ^ n) := by
  have := Nat.div_le_self x.toNat (2 ^ n)
  have := x.isLt
  rw [BitVec.toNat_eq, BitVec.toNat_ushiftRight, Nat.shiftRight_eq_div_pow, BitVec.toNat_ofNat, Nat.mod_eq_of_lt (by omega)]

theorem Word.sar_eq (x : Word) (n : Nat) : x.sshiftRight n = BitVec.ofInt 64 (Int.fdiv x.toInt (2 ^ n)) := by
  rw [BitVec.sshiftRight, Int.shiftRight_eq_div_pow, Int.fdiv_eq_ediv_of_nonneg _ (by positivity)]
  norm_cast

theorem Word.mulh_eq (x y : Word) : w64 (x.toInt * y.toInt / 2 ^ 64) = BitVec.ofInt 64 (Int.fdiv (x.toInt * y.toInt) (2 ^ 64)) := by
  rw [Int.fdiv_eq_ediv_of_nonneg _ (by positivity), w64]

theorem Word.lea_eq (x y : Word) (n : Nat) : x + y * BitVec.ofNat 64 (2 ^ n) = BitVec.ofNat 64 (x.toNat + y.toNat * 2 ^ n) := by
  simp [BitVec.toNat_eq, Nat.add_mod, Nat.mul_mod]

theorem Word.movwHigh_eq (x : Word) (w : BitVec 32) :
    (w ++ x.truncate 32 : BitVec 64) = BitVec.ofNat 64 (w.toNat * 2 ^ 32 + x.toNat % 2 ^ 32) := by
  have hw := w.isLt
  have hx := Nat.mod_lt x.toNat (Nat.two_pow_pos 32)
  have hl : (x.truncate 32).toNat = x.toNat % 2 ^ 32 := BitVec.toNat_setWidth 32 x
  rw [BitVec.toNat_eq, BitVec.toNat_append, BitVec.toNat_ofNat, hl, ← Nat.shiftLeft_add_eq_or_of_lt hx, Nat.shiftLeft_eq]
  omega

theorem Word.zeroExtend_eq {n : Nat} (x : BitVec n) : x.zeroExtend 64 = BitVec.ofNat 64 x.toNat := by
  simp

theorem Word.zext_eq (x : Word) (n : Nat) : (x.truncate n).zeroExtend 64 = BitVec.ofNat 64 (x.toNat % 2 ^ n) := by
  simp [BitVec.toNat_eq]

/-! ### Bits (R133) -/

theorem bitLen_le (f v : Nat) : bitLen f v ≤ f := by
  induction f generalizing v with
  | zero => exact Nat.le_refl 0
  | succ f ih =>
    have := ih (v / 2)
    rw [bitLen]
    split <;> omega

theorem bitLen_zero (f : Nat) : bitLen f 0 = 0 := by
  cases f <;> rfl

/-- The highest one of a number stands below its length. -/
theorem bitLen_bounds {f v : Nat} (hv : v ≠ 0) (hf : v < 2 ^ f) :
    0 < bitLen f v ∧ 2 ^ (bitLen f v - 1) ≤ v ∧ v < 2 ^ bitLen f v := by
  induction f generalizing v with
  | zero => simp at hf; omega
  | succ f ih =>
    rw [bitLen, if_neg hv, Nat.add_sub_cancel_left, Nat.add_comm 1, Nat.pow_succ]
    by_cases hh : v / 2 = 0
    · rw [hh, bitLen_zero]
      omega
    · obtain ⟨h0, h1, h2⟩ := ih hh (by rw [Nat.pow_succ] at hf; omega)
      have e : 2 ^ bitLen f (v / 2) = 2 ^ (bitLen f (v / 2) - 1) * 2 := by
        rw [← Nat.pow_succ, Nat.succ_eq_add_one, Nat.sub_add_cancel h0]
      omega

/-- CLZ (R133). -/
theorem clzN_spec (x : Word) : (x = 0 → clzN 64 x.toNat = 64) ∧
    (x ≠ 0 → clzN 64 x.toNat < 64 ∧ 2 ^ (63 - clzN 64 x.toNat) ≤ x.toNat ∧ x.toNat < 2 ^ (64 - clzN 64 x.toNat)) := by
  refine ⟨fun h => by rw [h]; rfl, fun h => ?_⟩
  have hx : x.toNat ≠ 0 := fun e => h (BitVec.eq_of_toNat_eq e)
  obtain ⟨h0, h1, h2⟩ := bitLen_bounds hx x.isLt
  have hle := bitLen_le 64 x.toNat
  have e1 : 63 - (64 - bitLen 64 x.toNat) = bitLen 64 x.toNat - 1 := by omega
  have e2 : 64 - (64 - bitLen 64 x.toNat) = bitLen 64 x.toNat := by omega
  rw [clzN, e1, e2]
  exact ⟨by omega, h1, h2⟩

theorem ctzN_zero (f : Nat) : ctzN f 0 = f := by
  induction f with
  | zero => rfl
  | succ f ih => rw [ctzN, if_neg (by decide), ih, Nat.add_comm]

/-- The trailing zeros of a number are the power of 2 in it. -/
theorem ctzN_bounds {f v : Nat} (hv : v ≠ 0) (hf : v < 2 ^ f) :
    ctzN f v < f ∧ v % 2 ^ ctzN f v = 0 ∧ v % 2 ^ (ctzN f v + 1) ≠ 0 := by
  induction f generalizing v with
  | zero => simp at hf; omega
  | succ f ih =>
    rw [ctzN]
    split
    · simp [Nat.mod_one]; omega
    · obtain ⟨h0, h1, h2⟩ := ih (v := v / 2) (by omega) (by rw [Nat.pow_succ] at hf; omega)
      have hs (k : Nat) : v % 2 ^ (1 + k) = 2 * (v / 2 % 2 ^ k) := by
        rw [Nat.pow_add, pow_one, Nat.mod_mul]
        omega
      rw [Nat.add_assoc, hs, hs]
      omega

/-- CTZ (R133). -/
theorem ctzN_spec (x : Word) : (x = 0 → ctzN 64 x.toNat = 64) ∧
    (x ≠ 0 → ctzN 64 x.toNat < 64 ∧ x.toNat % 2 ^ ctzN 64 x.toNat = 0 ∧ x.toNat % 2 ^ (ctzN 64 x.toNat + 1) ≠ 0) :=
  ⟨fun h => by rw [h]; exact ctzN_zero 64, fun h => ctzN_bounds (fun e => h (BitVec.eq_of_toNat_eq e)) x.isLt⟩

/-- The ones among the low n bits are counted from the lowest on. -/
theorem popc_eq_countP (n v : Nat) : popc n v = (List.range n).countP (fun i => v.testBit i) := by
  induction n generalizing v with
  | zero => rfl
  | succ n ih =>
    rw [popc, ih, List.range_succ_eq_map, List.countP_cons, List.countP_map, Nat.add_comm]
    congr 1
    · exact List.countP_congr (fun i _ => by simp [Function.comp, Nat.testBit_succ])
    · rw [Nat.testBit_zero]
      split <;> simp_all

/-- The bytes of a number, from the lowest on. -/
theorem getElem_leBytes {n v i : Nat} (h : i < (leBytes n v).length) : (leBytes n v)[i] = BitVec.ofNat 8 (v / 256 ^ i) := by
  induction n generalizing v i with
  | zero => exact absurd h (by simp [leBytes])
  | succ n ih =>
    cases i with
    | zero => simp [leBytes]
    | succ i =>
      have hi : i < (leBytes n (v / 256)).length := by simpa [leBytes] using h
      simp only [leBytes, List.getElem_cons_succ, ih hi, Nat.div_div_eq_div_mul, ← pow_succ']

/-- Byte i of the number that a byte string stands for. -/
theorem ofBytes_byte {l : List Byte} {i : Nat} (h : i < l.length) : ofBytes l / 256 ^ i % 256 = (l[i]).toNat := by
  induction l generalizing i with
  | nil => exact absurd h (by simp)
  | cons b r ih =>
    have hb := b.isLt
    cases i with
    | zero => simp only [ofBytes, pow_zero, Nat.div_one, List.getElem_cons_zero]; omega
    | succ i =>
      rw [pow_succ', ← Nat.div_div_eq_div_mul, ofBytes, Nat.add_mul_div_left _ _ (by decide), Nat.div_eq_of_lt hb, Nat.zero_add]
      exact ih (by simpa using h)

/-- BSWAP (R133): byte i becomes byte 7 - i. -/
theorem bswap_byte (x : Word) {i : Nat} (hi : i < 8) :
    (BitVec.ofNat 64 (ofBytes (leBytes 8 x.toNat).reverse)).toNat / 2 ^ (8 * i) % 256 = x.toNat / 2 ^ (8 * (7 - i)) % 256 := by
  have hlen : (leBytes 8 x.toNat).reverse.length = 8 := by simp
  have hlt := ofBytes_lt (leBytes 8 x.toNat).reverse
  rw [hlen] at hlt
  have hp (k : Nat) : 2 ^ (8 * k) = 256 ^ k := pow_mul 2 8 k
  rw [BitVec.toNat_ofNat, Nat.mod_eq_of_lt (lt_of_lt_of_eq hlt (by norm_num)), hp, hp, ofBytes_byte (by omega), List.getElem_reverse,
    getElem_leBytes]
  simp

/-! ### The instructions -/

/-- Settles O24: each form writes what its operation computes, and the operation is the table's row in unbounded integers. -/
theorem integerInstructions : Obligations.IntegerInstructions := by
  unfold Obligations.IntegerInstructions
  constructor
  · intro s d x y ps h sh i hi w a ha u z writes
    simp only [exec_add, exec_sub, exec_mul, exec_mulh, exec_mulhu, exec_div, exec_divu, exec_rem, exec_remu, exec_and, exec_or, exec_xor,
      exec_shl, exec_shr, exec_sar, exec_min, exec_max, exec_minu, exec_maxu, exec_lea, exec_shli, exec_shri, exec_sari, exec_movw,
      exec_sextB, exec_sextH, exec_sextW, exec_zextB, exec_zextH, exec_zextW, exec_sel, exec_nop, exec_addi, exec_andi, exec_ori,
      exec_xori, exec_movi]
    have immS {x : Reg} {f : Word → Word → Word} {v : Word} (hv : f (s.g x) (s.immSigned i) = v) (hp : s.pfxOk (decide (i = 0)) false) :
        s.immS d x i f = writes d v := hv ▸ s.immS_plain d x i f a ha hp
    have immZ {x : Reg} {f : Word → Word → Word} {v : Word} (hv : f (s.g x) (s.immZero i) = v) (hp : s.pfxOk (decide (i = 0)) false) :
        s.immZ d x i f = writes d v := hv ▸ s.immZ_plain d x i f a ha hp
    refine ⟨fun hp => ?_, immS (Word.add_eq _ _), immZ rfl, immZ rfl, immZ rfl, immS (x := 0) rfl⟩
    have two {f : Word → Word → Word} {v : Word} (hv : f (s.g x) (s.g y) = v) : s.alu2 d x y f = writes d v :=
      hv ▸ s.alu2_plain d x y f a ha hp
    have one {r : Reg} {f : Word → Word} {v : Word} (hv : f (s.g r) = v) : s.alu1 d r f = writes d v :=
      hv ▸ s.alu1_plain d r f a ha hp
    have movw : (if hi then w ++ (s.g d).truncate 32 else w.zeroExtend 64 : Word) =
        if hi then BitVec.ofNat 64 (w.toNat * 2 ^ 32 + u d % 2 ^ 32) else BitVec.ofNat 64 w.toNat := by
      rw [Word.movwHigh_eq, Word.zeroExtend_eq]
    have plain := s.pfxOk_none false false hp
    exact ⟨two (Word.add_eq _ _), two (Word.sub_eq _ _), two (Word.mul_eq _ _), two (Word.mulh_eq _ _), two rfl, two rfl, two rfl,
      two rfl, two (remU_eq _ _), two rfl, two rfl, two rfl, two (Word.shl_eq _ _), two (Word.shr_eq _ _), two (Word.sar_eq _ _),
      two rfl, two rfl, two rfl, two rfl, two (Word.lea_eq _ _ _), one (Word.shl_eq _ _), one (Word.shr_eq _ _), one (Word.sar_eq _ _),
      one movw, one rfl, one rfl, one rfl, one (Word.zext_eq _ 8), one (Word.zext_eq _ 16), one (Word.zext_eq _ 32),
      s.simple_plain _ a (s.plainAt_setG d _ a ha) plain, s.simple_plain _ a ha plain⟩
  · intro s d r a ha hp x
    simp only [exec_clz, exec_ctz, exec_popc, exec_bswap]
    have one (f : Word → Word) := s.alu1_plain d r f a ha hp
    refine ⟨⟨_, one _, clzN_spec x⟩, ⟨_, one _, ctzN_spec x⟩, ?_, ⟨_, one _, fun i hi => bswap_byte x hi⟩⟩
    rw [execPopc, one, popc_eq_countP]
    rfl

/-- Settles O25: each form writes what it compares or combines, the immediate sign-extended for every kind. -/
theorem compareAndPredicateInstructions : Obligations.CompareAndPredicateInstructions := by
  unfold Obligations.CompareAndPredicateInstructions
  intro s p x y k l j a ha u z writes
  simp only [exec_cmpeq, exec_cmpne, exec_cmplt, exec_cmpltu, exec_cmpge, exec_cmpgeu, exec_pand, exec_por, exec_pxor, exec_pnot,
    exec_cmpeqi, exec_cmpnei, exec_cmplti, exec_cmpltui, exec_cmpgei, exec_cmpgeui]
  have imm (f : Word → Word → Bool) (hp : s.pfxOk (decide (j = 0)) false) : s.cmpI p x j f = writes p (f (s.g x) (s.immSigned j)) :=
    s.cmpI_plain p x j f a ha hp
  refine ⟨fun hp => ?_, imm _, imm _, imm _, imm _, imm _, imm _⟩
  have compares (f : Word → Word → Bool) : s.cmp2 p x y f = writes p (f (s.g x) (s.g y)) := s.cmp2_plain p x y f a ha hp
  have combines (f : State → Bool) : s.simple (fun s => s.setP p (f s)) = writes p (f s) := s.setP_plain p f a ha hp
  have differs : (s.pd k != s.pd l) = xor (s.pd k) (s.pd l) := by cases s.pd k <;> cases s.pd l <;> rfl
  exact ⟨compares _, compares _, compares _, compares _, compares _, compares _, combines _, combines _,
    (combines (fun s => s.pd k != s.pd l)).trans (congrArg (writes p) differs), combines _⟩

end Sys2Proof.Machine

/-! SUPPORT. Transfers of control (R140 to R144): what an instruction's body gives decides where execution goes on, and the return-address
store with its spill and refill. -/

namespace Sys2Proof.Machine

/-! ### From a body to the next state -/

section
variable {s s' : State} {imx scp : Bool} {body : State → Res Flow}

/-- With prefixes it takes, an instruction that is done leaves the stream as its body says. -/
theorem State.run_done {f : Flow} (hp : s.pfxOk imx scp) (hb : body s = .ok f s') : s.run imx scp body = .next (s'.finish f) := by
  rw [State.run_ok _ _ _ _ hp, hb]
  rfl

/-- With prefixes it takes, an instruction whose body traps raises that trap. -/
theorem State.run_raises {t : TrapI} (hp : s.pfxOk imx scp) (hb : body s = .trap t s') : s.run imx scp body = .next (s'.raise t) := by
  rw [State.run_ok _ _ _ _ hp, hb]

/-- With prefixes it takes, an instruction whose body waits waits. -/
theorem State.run_holds (hp : s.pfxOk imx scp) (hb : body s = .wait s') : s.run imx scp body = .next s'.waitsIn := by
  rw [State.run_ok _ _ _ _ hp, hb]

theorem State.run_goto {a : CodeAddr} (hp : s.cur.pfx = none) (hb : body s = .ok (.goto a) s') (hc : s'.hasCore)
    (hd : s'.cur.stepLeft = none) : s.run imx scp body = .next (s'.jumpedTo a) :=
  (State.run_done (s.pfxOk_none _ _ hp) hb).trans (congrArg _ (s'.finish_goto a hc hd))

theorem State.run_seq {a : CodeAddr} (hp : s.cur.pfx = none) (hb : body s = .ok .seq s') (ha : s'.plainAt a) :
    s.run imx scp body = .next (s'.goneTo a) :=
  (State.run_done (s.pfxOk_none _ _ hp) hb).trans (congrArg _ (s'.finish_seq a ha))

end

/-- Where an instruction with a taken and a not taken way goes on. -/
theorem State.run_branch {s : State} {a b : CodeAddr} {body : State → Res Flow} {taken : Bool} (ha : s.plainAt a) (hp : s.cur.pfx = none)
    (hb : body s = .ok (if taken then .goto b else .seq) s) :
    s.run false false body = .next (if taken then s.jumpedTo b else s.goneTo a) := by
  obtain ⟨hc, _, _, hd⟩ := id ha
  cases taken with
  | true => exact State.run_goto hp hb hc hd
  | false => exact State.run_seq hp hb ha

/-! ### Targets -/

theorem State.branchTarget_ok {s : State} {ld : BitVec 19} (slot : BitVec 4)
    (h : 0 ≤ (lineOf s.cur.pc : Int) + ld.toInt ∧ (lineOf s.cur.pc : Int) + ld.toInt < s.image.2) :
    s.branchTarget ld slot = .ok (mkCode ((lineOf s.cur.pc : Int) + ld.toInt).toNat slot.toNat) := if_pos h

theorem State.branchTarget_error {s : State} {ld : BitVec 19} (slot : BitVec 4)
    (h : ¬ (0 ≤ (lineOf s.cur.pc : Int) + ld.toInt ∧ (lineOf s.cur.pc : Int) + ld.toInt < s.image.2)) :
    s.branchTarget ld slot = .error (trapCode (BitVec.ofInt 64 (((lineOf s.cur.pc : Int) + ld.toInt) * 16 + slot.toNat))) := if_neg h

theorem State.checkCode_ok {s : State} {v : Word} (h : s.codeOk v) : s.checkCode v = some (v.truncate 28) := if_pos h

theorem State.checkCode_none {s : State} {v : Word} (h : ¬ s.codeOk v) : s.checkCode v = none := if_neg h

/-! ### A write of the C path in this package -/

/-- What a write at its home may change beside memory: blocks, the choices made, and the executing tile's L1. What the instruction
stream looks at stays. -/
structure State.Beside (s s' : State) : Prop where
  who : s'.who = s.who
  cur : s'.cur = s.cur
  image : s'.image = s.image
  mem : s'.mem = s.mem
  bad : s'.bad = s.bad

theorem State.Beside.refl (s : State) : s.Beside s := ⟨rfl, rfl, rfl, rfl, rfl⟩

theorem State.Beside.trans {s s' s'' : State} (h : s.Beside s') (h' : s'.Beside s'') : s.Beside s'' :=
  ⟨h'.who.trans h.who, h'.cur.trans h.cur, h'.image.trans h.image, h'.mem.trans h.mem, h'.bad.trans h.bad⟩

theorem State.Beside.eachBlock {f : State → Nat → State} (hf : ∀ (s : State) k, s.Beside (f s k)) (s : State) (key n : Nat) :
    s.Beside (s.eachBlock key n f) := by
  have fold (l : List Nat) (g : State → Nat → State) (hg : ∀ (s : State) k, s.Beside (g s k)) (u : State) :
      u.Beside (l.foldl g u) := by
    induction l generalizing u with
    | nil => exact .refl u
    | cons i r ih => exact (hg u i).trans (ih _)
  unfold State.eachBlock
  split
  · exact .refl s
  · refine fold _ _ (fun u i => ?_) s
    dsimp only
    split
    · exact hf _ _
    · exact .refl _

theorem State.Beside.blockLeave (s : State) (key : Nat) : s.Beside (s.blockLeave key) := by
  unfold State.blockLeave
  dsimp only
  split <;> exact ⟨rfl, rfl, rfl, rfl, rfl⟩

theorem State.Beside.blockWrite (s : State) (cmp : Bool) (key n : Nat) : s.Beside (s.blockWrite cmp key n) := by
  refine .eachBlock (fun u k => ?_) s key n
  dsimp only
  split
  · refine State.Beside.trans ?_ (State.Beside.blockLeave _ _)
    exact ⟨rfl, rfl, rfl, rfl, rfl⟩
  · exact ⟨rfl, rfl, rfl, rfl, rfl⟩

/-- A change of the executing tile beside its control core and its binding. -/
theorem State.Beside.updMe (s : State) {f : Tile → Tile} (hc : s.onCore = false) (ht : ∀ t, (f t).tcc = t.tcc)
    (hb : ∀ t, (f t).bound = t.bound) : s.Beside (s.updMe f) := by
  cases hw : s.who with
  | tile g =>
    have ho : s.onTile g := hw
    have ho' : (s.updMe f).onTile g := hw
    have hu : (s.updMe f).tile g = f (s.tile g) := by rw [State.updMe, ho.gid, State.tile_updTile_same]
    exact ⟨rfl, by rw [ho'.cur, ho.cur, hu, ht], ho.image_congr ho' (by rw [hu, ht]) (by rw [hu, hb]) rfl rfl, rfl, rfl⟩
  | core n => simp [State.onCore, hw] at hc
  | reshard n => simp [State.onCore, hw] at hc
  | headstock => simp [State.onCore, hw] at hc

theorem State.Beside.l1Update (s : State) (key : Nat) (bs : List Byte) : s.Beside (s.l1Update key bs) := by
  unfold State.l1Update
  split
  · exact .refl s
  · rename_i h
    have hc : s.onCore = false := by
      cases hc : s.onCore with
      | false => rfl
      | true => simp [hc] at h
    split
    · exact .refl s
    · exact .updMe s hc (fun _ => rfl) (fun _ => rfl)

theorem State.Beside.plainAt {s s' : State} (h : s.Beside s') {a : CodeAddr} (ha : s.plainAt a) : s'.plainAt a :=
  State.plainAt_congr ha h.who h.cur h.image

/-- A part of this package is written: its bytes stand in memory, and nothing else that counts has changed. -/
theorem State.cWrite_near {s : State} {p : CPart} (hs : s.bad = []) (hp : p.far = none) (bs : List Byte) :
    ∃ s', s.cWrite p bs = .ok () s' ∧ State.Beside { s with mem := s.mem.setN p.key bs } s' := by
  unfold State.cWrite
  simp only [hp, s.writeHome_clean _ bs hs]
  exact ⟨_, rfl, (State.Beside.blockWrite _ _ _ _).trans (State.Beside.l1Update _ _ _)⟩

theorem State.cWriteAll_near {s : State} {xs : List (CPart × List Byte)} (hs : s.bad = []) (hp : ∀ x ∈ xs, x.1.far = none) :
    ∃ s', s.cWriteAll xs = .ok () s' ∧ State.Beside { s with mem := xs.foldl (fun m x => m.setN x.1.key x.2) s.mem } s' := by
  induction xs generalizing s with
  | nil => exact ⟨s, rfl, .refl s⟩
  | cons x r ih =>
    obtain ⟨u, hu, b⟩ := s.cWrite_near hs (hp x List.mem_cons_self) x.2
    obtain ⟨v, hv, b'⟩ := ih (s := u) (b.bad.trans hs) (fun y hy => hp y (List.mem_cons_of_mem _ hy))
    refine ⟨v, by rw [State.cWriteAll, hu, Res.andThen_ok, hv], ?_⟩
    rw [b.mem] at b'
    exact ⟨b'.who.trans b.who, b'.cur.trans b.cur, b'.image.trans b.image, b'.mem, b'.bad.trans b.bad⟩

/-- A store whose parts all lie in this package writes each of them once. -/
theorem State.cWrites_near {s : State} {ps : List CPart} (hs : s.bad = []) (hp : ∀ p ∈ ps, p.far = none) (bs : List Byte) :
    ∃ s', s.cWrites bs ps = .ok () s' ∧
      State.Beside { s with mem := (cSplit ps bs).foldl (fun m x => m.setN x.1.key x.2) s.mem } s' := by
  have hall : ∀ x ∈ cSplit ps bs, x.1.far = none := fun x hx => hp x.1 (mem_cSplit hx)
  have hnear : (cSplit ps bs).filter (fun x => x.1.far.isNone) = cSplit ps bs :=
    List.filter_eq_self.mpr (fun x hx => by rw [hall x hx]; rfl)
  obtain ⟨s', h, b⟩ := s.cWriteAll_near hs hall
  exact ⟨s', by simp only [State.cWrites, hnear, h, if_true], b⟩

end Sys2Proof.Machine

/-! SUPPORT. Branches and calls (R140 to R142, R144): a call pushes its successor, through memory where the return-address store is full
(R20). -/

namespace Sys2Proof.Machine

/-! ### Calls -/

theorem State.pushRa_room {s : State} {a : CodeAddr} (h : s.cur.ras.length < 16) :
    s.pushRa a = .ok () (s.updCur (fun c => { c with ras := a :: c.ras })) := by
  cases hl : s.cur.ras.getLast? with
  | none =>
    simp only [State.pushRa, hl, State.updCur]
    rw [List.getLast?_eq_none_iff.mp hl]
  | some old => simp only [State.pushRa, hl, if_pos h, State.updCur]

/-- The return-address store after a spill: the oldest entry has gone to memory, a is the newest (R144). -/
def Tcc.spilled (c : Tcc) (a : CodeAddr) (rsp : Word) : Tcc := { c with ras := a :: c.ras.dropLast, rsp := rsp, rsc := c.rsc + 1 }

/-- With 16 entries the oldest goes to memory below RSP (R144). -/
theorem State.pushRa_full {s : State} {a old : CodeAddr} (h : s.cur.ras.length = 16) (ho : s.cur.ras.getLast? = some old) :
    s.pushRa a = (s.cCheck (s.cur.rsp - 8) 8 true true).andThen fun ps u =>
      (u.cWrites (leBytes 8 old.toNat) ps).andThen fun _ v =>
        .ok () (v.updCur (fun c => { c with ras := a :: c.ras.dropLast, rsp := s.cur.rsp - 8, rsc := c.rsc + 1 })) := by
  have hn : ¬ s.cur.ras.length < 16 := by omega
  simp only [State.pushRa, ho, if_neg hn]

theorem State.callTo_succ {s : State} {tgt a : CodeAddr} (h : s.cur.succ = some a) :
    s.callTo tgt = (s.pushRa a).andThen fun _ u => .ok (.goto tgt) u := by
  simp only [State.callTo, h]

/-- A call with room in the return-address store pushes its successor and goes to its target (R142). -/
theorem State.run_call {s : State} {body : State → Res Flow} {tgt a : CodeAddr} (ha : s.plainAt a) (hp : s.cur.pfx = none)
    (hr : s.cur.ras.length < 16) (hb : body s = s.callTo tgt) :
    s.run false false body = .next ((s.updCur (fun c => { c with ras := a :: c.ras })).jumpedTo tgt) := by
  obtain ⟨hc, ⟨hsucc, _⟩, _, hd⟩ := ha
  refine State.run_goto hp ?_ ((s.updCur_hasCore _).mpr hc) (by rw [s.cur_updCur _ hc]; exact hd)
  rw [hb, State.callTo_succ hsucc, State.pushRa_room hr, Res.andThen_ok]

/-- The control core after its instruction has retired and execution continues at a. -/
def Tcc.leftAt (c : Tcc) (a : CodeAddr) (l : Bool) : Tcc :=
  { c with pfx := none, pfxp := false, waiting := false, far := [], ffar := [], pc := a, lined := l }

/-- The counter of retired instructions is no part of a control core. -/
theorem State.cur_leftAt {s : State} (hc : s.hasCore) (a : CodeAddr) (l : Bool) : (s.leftAt a l).cur = s.cur.leftAt a l := by
  have e : (s.updCur (fun c => c.leftAt a l)).cur = s.cur.leftAt a l := s.cur_updCur _ hc
  refine Eq.trans ?_ e
  unfold State.leftAt
  split
  · rfl
  · rename_i h
    exact (State.Beside.updMe (s.updCur (fun c => c.leftAt a l)) (f := fun t => t.bump 134) (by simpa using h) (fun _ => rfl)
      (fun _ => rfl)).cur

theorem State.mem_leftAt (s : State) (a : CodeAddr) (l : Bool) : (s.leftAt a l).mem = s.mem := by
  unfold State.leftAt
  dsimp only
  split
  · exact s.updCur_mem _
  · exact s.updCur_mem _

/-- The spill of a call writes the oldest entry's bytes in one part of this package, and nothing else of memory (R144). -/
theorem State.run_spill {s s1 : State} {body : State → Res Flow} {tgt a old : CodeAddr} {p : CPart} (ha : s.plainAt a)
    (hp : s.cur.pfx = none) (hb : body s = s.callTo tgt) (hr : s.cur.ras.length = 16) (ho : s.cur.ras.getLast? = some old)
    (hck : s.cCheck (s.cur.rsp - 8) 8 true true = .ok [p] s1) (hf : p.far = none) (hn : p.n = 8) (hs : s1.bad = [])
    (h1 : s1.plainAt a) (hcur : s1.cur = s.cur) (hw : s1.mem.wf = true) :
    ∃ t, s.run false false body = .next t ∧ t.cur.pc = tgt ∧ t.cur.rsp = s.cur.rsp - 8 ∧ t.cur.rsc = s.cur.rsc + 1 ∧
      t.cur.ras = a :: s.cur.ras.dropLast ∧ t.mem.getN p.key 8 = leBytes 8 old.toNat ∧
      (∀ k, k < p.key ∨ p.key + 8 ≤ k → t.mem.get k = s1.mem.get k) := by
  obtain ⟨_, ⟨hsucc, _⟩, _, _⟩ := ha
  obtain ⟨u, hu, b⟩ := s1.cWrites_near hs (ps := [p]) (by simpa using hf) (leBytes 8 old.toNat)
  have hlen : (leBytes 8 old.toNat).length = 8 := length_leBytes 8 old.toNat
  have hmem : u.mem = s1.mem.setN p.key (leBytes 8 old.toNat) := by
    have ht : (leBytes 8 old.toNat).take p.n = leBytes 8 old.toNat := List.take_of_length_le (by omega)
    rw [b.mem]
    simp only [cSplit, ht, List.foldl_cons, List.foldl_nil]
  have hcu : u.cur = s.cur := b.cur.trans hcur
  have hu1 : u.plainAt a := b.plainAt h1
  obtain ⟨hcore, _, _, hd⟩ := hu1
  generalize hv : u.updCur (fun c => c.spilled a (s.cur.rsp - 8)) = v
  have hvcur : v.cur = s.cur.spilled a (s.cur.rsp - 8) := by rw [← hv, ← hcu, u.cur_updCur _ hcore]
  have hvc : v.hasCore := hv ▸ (u.updCur_hasCore _).mpr hcore
  have hbody : body s = .ok (.goto tgt) v := by
    rw [hb, State.callTo_succ hsucc, State.pushRa_full hr ho, hck, Res.andThen_ok, hu, ← hv]
    rfl
  have hcur' := State.cur_leftAt hvc tgt false
  have hm : (v.jumpedTo tgt).mem = s1.mem.setN p.key (leBytes 8 old.toNat) :=
    (v.mem_leftAt tgt false).trans (by rw [← hv, u.updCur_mem, hmem])
  rw [hvcur] at hcur'
  refine ⟨v.jumpedTo tgt, State.run_goto hp hbody hvc (by rw [hvcur, ← hcu]; exact hd), congrArg Tcc.pc hcur', congrArg Tcc.rsp hcur',
    congrArg Tcc.rsc hcur', congrArg Tcc.ras hcur', ?_, fun k hk => ?_⟩
  · have h := Memory.getN_setN (leBytes 8 old.toNat) s1.mem p.key hw
    rwa [hlen, ← hm] at h
  · rw [hm]
    exact Memory.get_setN_other _ _ _ _ hw (by rwa [hlen])

/-- Settles O27: each form checks its target first; a call then pushes its successor, through memory where the store is full. -/
theorem branchesAndCalls : Obligations.BranchesAndCalls := by
  unfold Obligations.BranchesAndCalls
  refine ⟨?_, ?_, ?_⟩
  · intro s ps ld slot a ha hp line tgt
    simp only [exec_br, exec_bp, exec_bnp]
    have branch {taken : Bool} (h : 0 ≤ line ∧ line < s.image.2) :
        s.run false false (fun s => s.branch taken ld slot) = .next (if taken then s.jumpedTo tgt else s.goneTo a) :=
      State.run_branch ha hp (by rw [State.branch, State.branchTarget_ok slot h])
    refine ⟨fun h => ⟨branch h, branch h, ?_⟩, fun h => ?_⟩
    · refine (branch (taken := !s.pd ps) h).trans ?_
      cases s.pd ps <;> rfl
    · have stray {taken : Bool} : s.run false false (fun s => s.branch taken ld slot) =
          .next (s.raise (trapCode (BitVec.ofInt 64 (line * 16 + slot.toNat)))) :=
        State.run_trap hp (by rw [State.branch, State.branchTarget_error slot h])
      exact ⟨stray, stray, stray⟩
  · intro s r ld slot a ha hp line pushed
    obtain ⟨hc, _, _, hd⟩ := id ha
    simp only [exec_ji, exec_calli, exec_call]
    refine ⟨fun h => ?_, fun h => ⟨?_, ?_⟩, fun h => ?_, fun hl h => ?_, fun hl h0 h1 => ?_⟩
    · exact State.run_goto hp (by rw [State.checkCode_ok h]) hc hd
    · exact State.run_trap hp (by rw [State.checkCode_none h])
    · exact State.run_trap hp (by rw [State.checkCode_none h])
    · exact State.run_trap hp (by rw [State.branchTarget_error slot h])
    · exact State.run_call ha hp hl (by rw [State.checkCode_ok h])
    · exact State.run_call ha hp hl (by rw [State.branchTarget_ok slot ⟨h0, h1⟩])
  · intro s i r ld slot tgt a old ha hp line hi hr ho
    obtain ⟨_, ⟨hsucc, _⟩, _, _⟩ := id ha
    have calls : ∃ body, exec i s = s.run false false body ∧ body s = s.callTo tgt := by
      rcases hi with ⟨rfl, h, rfl⟩ | ⟨rfl, h0, h1, rfl⟩
      · exact ⟨_, exec_calli r s, by rw [State.checkCode_ok h]⟩
      · exact ⟨_, exec_call ld slot s, by rw [State.branchTarget_ok slot ⟨h0, h1⟩]⟩
    obtain ⟨body, hrun, hb⟩ := calls
    have hfull := State.callTo_succ hsucc (tgt := tgt)
    rw [State.pushRa_full hr ho] at hfull
    rw [hrun]
    refine ⟨fun p s1 hck hf _ hn hs h1 hcur hw => State.run_spill ha hp hb hr ho hck hf hn hs.1 h1 hcur hw, fun t s1 hck => ?_,
      fun s1 hck => ?_⟩
    · exact State.run_trap hp (by rw [hb, hfull, hck]; rfl)
    · exact State.run_holds (s.pfxOk_none _ _ hp) (by rw [hb, hfull, hck]; rfl)

end Sys2Proof.Machine

/-! SUPPORT. Returns (R143, R144): a return pops the newest entry, from memory where the return-address store is empty. -/

namespace Sys2Proof.Machine

theorem State.popRa_store {s : State} {v : CodeAddr} {rest : List CodeAddr} (h : s.cur.ras = v :: rest) :
    s.popRa = .ok (v.zeroExtend 64) (s.updCur (fun c => { c with ras := rest })) := by
  simp only [State.popRa, h, State.updCur, Word.zeroExtend_eq]

/-- The return-address store is empty and nothing was spilled (R143). -/
theorem State.popRa_underflow {s : State} (h : s.cur.ras = []) (hc : s.cur.rsc = 0) : s.popRa = .trap (TrapI.mk3 10 0 0) s := by
  simp only [State.popRa, h, hc, if_true]

/-- The return-address store is empty: the newest spilled entry is read at RSP (R144). -/
theorem State.popRa_refill {s : State} (h : s.cur.ras = []) (hc : s.cur.rsc ≠ 0) :
    s.popRa = (s.cCheck s.cur.rsp 8 false true).andThen fun ps u => (u.cReads false ps).andThen fun bs v =>
      .ok (BitVec.ofNat 64 (ofBytes bs)) (v.updCur (fun c => { c with rsp := c.rsp + 8, rsc := c.rsc - 1 })) := by
  simp only [State.popRa, h, if_neg hc]

/-- Whether a value is a code address of the image depends on IMG of the core alone. -/
theorem State.codeOk_updCur (s : State) {f : Tcc → Tcc} (hf : (f s.cur).img = s.cur.img) (v : Word) :
    (s.updCur f).codeOk v ↔ s.codeOk v := by
  unfold State.codeOk State.updCur
  rw [State.image_setCur s _ hf]

/-- RET goes to the address that it pops, where that is a code address of the image (R143). -/
theorem execRet_ok {s s' : State} {v : Word} (hp : s.cur.pfx = none) (h : s.popRa = .ok v s') (hv : s'.codeOk v) :
    execRet s = .next (s'.finish (.goto (v.truncate 28))) := by
  unfold execRet
  rw [State.run_ok _ _ _ _ (s.pfxOk_none _ _ hp), h, Res.andThen_ok, State.checkCode_ok hv]
  rfl

/-- An address that is none leaves the store, RSP and RSC as they were (R143). -/
theorem execRet_stray {s s' : State} {v : Word} (hp : s.cur.pfx = none) (h : s.popRa = .ok v s') (hv : ¬ s'.codeOk v) :
    execRet s = .next ((s'.updCur (fun c => { c with ras := s.cur.ras, rsp := s.cur.rsp, rsc := s.cur.rsc })).raise (trapCode v)) :=
  State.run_trap hp (by rw [h, Res.andThen_ok, State.checkCode_none hv])

theorem execRet_trap {s s' : State} {t : TrapI} (hp : s.cur.pfx = none) (h : s.popRa = .trap t s') :
    execRet s = .next (s'.raise t) := State.run_trap hp (by rw [h, Res.andThen_trap])

theorem execRet_wait {s s' : State} (hp : s.cur.pfx = none) (h : s.popRa = .wait s') : execRet s = .next s'.waitsIn :=
  State.run_holds (s.pfxOk_none _ _ hp) (by rw [h]; rfl)

/-- A trap forgets first what the core sent to other packages, so that an update that changes nothing does not show. -/
theorem State.raise_updCur_self {s : State} (hc : s.hasCore) {f : Tcc → Tcc} (hf : f s.cur = s.cur) (t : TrapI) :
    (s.updCur f).raise t = s.raise t := by
  unfold State.raise
  rw [State.updCur_updCur s f _ hc, State.updCur, hf]
  rfl

theorem CodeAddr.truncate_zeroExtend (v : CodeAddr) : (v.zeroExtend 64).truncate 28 = v := by
  simp

/-- Settles O28: what is popped decides, from the store or from memory. -/
theorem returns : Obligations.Returns := by
  unfold Obligations.Returns
  intro s hc hp hd
  simp only [exec_ret]
  refine ⟨fun v rest hr hv => ?_, fun v rest hr hv => ?_, fun hr h0 => execRet_trap hp (State.popRa_underflow hr h0), fun hr h0 => ?_⟩
  · have hv' := (s.codeOk_updCur (f := fun c => { c with ras := rest }) rfl _).mpr hv
    rw [execRet_ok hp (State.popRa_store hr) hv', CodeAddr.truncate_zeroExtend]
    exact congrArg _ (State.finish_goto _ v ((s.updCur_hasCore _).mpr hc) (by rw [s.cur_updCur _ hc]; exact hd))
  · have hv' := mt (s.codeOk_updCur (f := fun c => { c with ras := rest }) rfl _).mp hv
    rw [execRet_stray hp (State.popRa_store hr) hv', State.updCur_updCur s _ _ hc]
    exact congrArg _ (State.raise_updCur_self hc rfl _)
  · have hpop := State.popRa_refill hr h0
    refine ⟨fun t s1 hk => execRet_trap hp (by rw [hpop, hk]; rfl), fun s1 hk => execRet_wait hp (by rw [hpop, hk]; rfl),
      fun ps s1 hk => ?_⟩
    rw [hk, Res.andThen_ok] at hpop
    refine ⟨fun t s2 hb => execRet_trap hp (by rw [hpop, hb]; rfl), fun s2 hb => execRet_wait hp (by rw [hpop, hb]; rfl),
      fun bs s2 hb hc2 => ?_⟩
    rw [hb, Res.andThen_ok] at hpop
    have ok := s2.codeOk_updCur (f := fun c => { c with rsp := c.rsp + 8, rsc := c.rsc - 1 }) rfl (BitVec.ofNat 64 (ofBytes bs))
    refine ⟨fun hv => execRet_ok hp hpop (ok.mpr hv), fun hv => ?_⟩
    rw [execRet_stray hp hpop (mt ok.mp hv), State.updCur_updCur s2 _ _ hc2, hr]

end Sys2Proof.Machine

/-! SUPPORT. Hardware loops (R146 to R150): how a set is filled, what a boundary does to it, and how an instruction that is done leaves the
stream at one. -/

namespace Sys2Proof.Machine

/-! ### LOOP and LOOPI (R146) -/

/-- A loop end below the body is refused (R146). -/
theorem State.loopStart_low {s : State} {set : BitVec 1} {n : BitVec 32} {le body : CodeAddr} (hs : s.cur.succ = some body)
    (h : le < body) : s.loopStart set n le = .trap (TrapI.mk3 11 0 (set.zeroExtend 64)) s := by
  simp only [State.loopStart, hs, if_pos h, Word.zeroExtend_eq]

/-- The set that LOOP fills. -/
def Tcc.filled (c : Tcc) (set : BitVec 1) (n : BitVec 32) (body le : CodeAddr) : Tcc :=
  c.setLoop set.toNat { lc := n, ls := body, le := le, ae := le }

theorem State.loopStart_count {s : State} {set : BitVec 1} {n : BitVec 32} {le body : CodeAddr} (hs : s.cur.succ = some body)
    (h : body ≤ le) (hn : n ≠ 0) : s.loopStart set n le = .ok .seq (s.updCur (fun c => c.filled set n body le)) := by
  simp only [State.loopStart, hs, if_neg (BitVec.not_lt.mpr h), if_pos hn]
  rfl

/-- A count of 0 skips the body: the instruction goes on behind the loop's end (R146). -/
theorem State.loopStart_skip {s s1 : State} {set : BitVec 1} {le body skip : CodeAddr} (hs : s.cur.succ = some body) (h : body ≤ le)
    (hk : s.succAt le = .ok (some skip) s1) (hl : lineOf skip < (s1.updCur (fun c => c.filled set 0 body le)).image.2) :
    s.loopStart set 0 le =
      .ok .seq ((s1.updCur (fun c => c.filled set 0 body le)).updCur (fun c => { c with succ := some skip })) := by
  simp only [State.loopStart, hs, if_neg (BitVec.not_lt.mpr h), ne_eq, not_true_eq_false, if_false, hk, Res.andThen_ok]
  exact if_neg (Nat.not_le.mpr hl)

/-! ### A boundary of one set (R147) -/

/-- Set n has ended. -/
def Tcc.loopOff (n : Nat) (c : Tcc) : Tcc := c.setLoop n { c.loop n with lc := 0 }

/-- Set n has one turn less to go. -/
def Tcc.loopDown (n : Nat) (c : Tcc) : Tcc := c.setLoop n { c.loop n with lc := (c.loop n).lc - 1, ae := (c.loop n).le }

section
variable {c : Tcc} {k n : Nat} {a : CodeAddr} (h : (c.loop n).ae = a ∧ (c.loop n).lc ≠ 0 ∧ c.intrap = false)
include h

theorem Tcc.boundary_off (h1 : (c.loop n).lc = 1) : c.boundary k n a = .on (c.loopOff n) := by
  rw [Tcc.boundary, if_pos h, if_pos h1, Tcc.loopOff]

theorem Tcc.boundary_back (h1 : (c.loop n).lc ≠ 1) (h2 : (c.loop n).ls ≤ (c.loop n).le) (h3 : lineOf (c.loop n).ls < k) :
    c.boundary k n a = .back (c.loopDown n) (c.loop n).ls := by
  rw [Tcc.boundary, if_pos h, if_neg h1, if_neg (BitVec.not_lt.mpr h2), if_neg (Nat.not_le.mpr h3), Tcc.loopDown]

theorem Tcc.boundary_low {last : Bool} (hl : c.succ.isNone = last) (h1 : (c.loop n).lc ≠ 1) (h2 : (c.loop n).le < (c.loop n).ls) :
    c.boundary k n a = .bad (TrapI.mk3 11 0 (BitVec.ofNat 64 (n + if last then 256 else 0))) := by
  rw [Tcc.boundary, if_pos h, if_neg h1, if_pos h2, hl]

theorem Tcc.boundary_stray (h1 : (c.loop n).lc ≠ 1) (h2 : (c.loop n).ls ≤ (c.loop n).le) (h3 : k ≤ lineOf (c.loop n).ls) :
    c.boundary k n a = .bad (trapCode ((c.loop n).ls.zeroExtend 64)) := by
  rw [Tcc.boundary, if_pos h, if_neg h1, if_neg (BitVec.not_lt.mpr h2), if_pos h3, Word.zeroExtend_eq]

end

/-- No boundary of set n falls on the instruction. -/
theorem Tcc.boundary_no {c : Tcc} {k n : Nat} {a : CodeAddr} (h : ¬ ((c.loop n).ae = a ∧ (c.loop n).lc ≠ 0 ∧ c.intrap = false)) :
    c.boundary k n a = .on c := if_neg h

/-! ### Both sets, set 1 first (R149) -/

section
variable {c c' c'' : Tcc} {k : Nat} {a b : CodeAddr} {t : TrapI}

theorem Tcc.boundaries_back (h : c.boundary k 1 a = .back c' b) : c.boundaries k a = .inr (c', some b) := by
  simp only [Tcc.boundaries, h]

theorem Tcc.boundaries_bad (h : c.boundary k 1 a = .bad t) : c.boundaries k a = .inl (t, c) := by
  simp only [Tcc.boundaries, h]

theorem Tcc.boundaries_back0 (h : c.boundary k 1 a = .on c') (h0 : c'.boundary k 0 a = .back c'' b) :
    c.boundaries k a = .inr (c'', some b) := by
  simp only [Tcc.boundaries, h, h0]

theorem Tcc.boundaries_bad0 (h : c.boundary k 1 a = .on c') (h0 : c'.boundary k 0 a = .bad t) : c.boundaries k a = .inl (t, c') := by
  simp only [Tcc.boundaries, h, h0]

theorem Tcc.boundaries_on (h : c.boundary k 1 a = .on c') (h0 : c'.boundary k 0 a = .on c'') :
    c.boundaries k a = .inr (c'', none) := by
  simp only [Tcc.boundaries, h, h0]

end

/-! ### Retiring at a boundary -/

/-- The control core whose instruction has retired and that has not yet looked at its loops. -/
def Tcc.ended (c : Tcc) : Tcc := { c with far := [], ffar := [], pfx := none, pfxp := false, waiting := false }

/-- What is left of a retirement in the stream: the boundaries of the loops, then the successor (R147, R98). -/
def State.leave (s : State) : State :=
  match s.cur.boundaries s.image.2 s.cur.pc with
  | .inl (t, c) => ((s.setCur c).raise { t with epc := some (s.cur.succ.getD s.cur.pc) }).countRetired
  | .inr (c, some a) => (s.setCur { c with pc := a, lined := false }).countRetired
  | .inr (c, none) => (s.setCur c).fallOn.countRetired

section
variable {s : State} {f : Tcc → Tcc} (hc : s.hasCore)
include hc

theorem State.finish_seq_leave : s.finish .seq = (s.updCur Tcc.ended).leave := by
  have e : (s.updCur (fun c => { c with far := [], ffar := [] })).updCur
      (fun c => { c with pfx := none, pfxp := false, waiting := false }) = s.updCur Tcc.ended := State.updCur_updCur s _ _ hc
  rw [← e]
  rfl

/-- The boundaries of the control core as it stands after its instruction. -/
theorem State.boundaries_ended : (s.updCur Tcc.ended).cur.boundaries (s.updCur Tcc.ended).image.2 (s.updCur Tcc.ended).cur.pc =
    s.cur.ended.boundaries s.image.2 s.cur.pc := by
  have himg : (s.updCur Tcc.ended).image = s.image := s.image_setCur _ rfl
  rw [s.cur_updCur _ hc, himg]
  rfl

/-- A loop goes back to its start. -/
theorem State.finish_back {b : CodeAddr} (hd : (f s.cur.ended).stepLeft = none) (hf : f s.cur.ended = (f s.cur).ended)
    (h : s.cur.ended.boundaries s.image.2 s.cur.pc = .inr (f s.cur.ended, some b)) : s.finish .seq = (s.updCur f).jumpedTo b := by
  rw [← State.boundaries_ended hc, hf] at h
  rw [hf] at hd
  rw [State.finish_seq_leave hc, State.leave, h]
  simp only
  rw [State.countRetired_plain _ (by rw [State.updCur, State.setCur_setCur, s.cur_setCur _ hc]; exact hd), State.jumpedTo, State.leftAt,
    State.updCur_updCur s _ _ hc, State.updCur, State.setCur_setCur]
  simp only [State.setCur_onCore, State.updCur_onCore]
  rfl

/-- Every loop that ends here has ended. -/
theorem State.finish_on {a : CodeAddr} (hs : s.hasSucc a) (hd : s.cur.stepLeft = none) (hf : f s.cur.ended = (f s.cur).ended)
    (hk : (f s.cur).succ = s.cur.succ ∧ (f s.cur).img = s.cur.img ∧ (f s.cur).stepLeft = s.cur.stepLeft)
    (h : s.cur.ended.boundaries s.image.2 s.cur.pc = .inr (f s.cur.ended, none)) : s.finish .seq = (s.updCur f).goneTo a := by
  obtain ⟨hsucc, himg, hstep⟩ := hk
  have hcur := s.cur_updCur f hc
  have himage : (s.setCur (f s.cur).ended).image = s.image := s.image_setCur _ himg
  have hsuc' : (f s.cur).ended.succ = some a := hsucc.trans hs.1
  rw [← State.boundaries_ended hc, hf] at h
  rw [State.finish_seq_leave hc, State.leave, h]
  simp only
  rw [State.updCur, State.setCur_setCur, State.fallOn, s.cur_setCur _ hc]
  simp only [hsuc', himage, if_neg (Nat.not_le.mpr hs.2)]
  rw [State.setCur_setCur, State.countRetired_plain _ (by rw [s.cur_setCur _ hc]; exact hstep.trans hd), State.goneTo, State.leftAt, hcur,
    State.updCur_updCur s _ _ hc]
  simp only [State.updCur, State.setCur_onCore, hsucc.trans hs.1]
  rfl

/-- A boundary traps, with EPC the successor, or the instruction itself where there is none. -/
theorem State.finish_traps {t : TrapI} {e : CodeAddr} (he : s.cur.succ.getD s.cur.pc = e)
    (h : s.cur.ended.boundaries s.image.2 s.cur.pc = .inl (t, f s.cur.ended)) :
    s.finish .seq = (((s.updCur Tcc.ended).updCur f).raise { t with epc := some e }).countRetired := by
  rw [← State.boundaries_ended hc] at h
  have hcur := s.cur_updCur Tcc.ended hc
  have he' : s.cur.ended.succ.getD s.cur.ended.pc = e := he
  rw [State.finish_seq_leave hc, State.leave, h]
  simp only
  have hu : (s.updCur Tcc.ended).updCur f = (s.updCur Tcc.ended).setCur (f s.cur.ended) :=
    congrArg (fun c => (s.updCur Tcc.ended).setCur (f c)) hcur
  rw [hcur, he', hu]

end

/-- Settles O29: a loop instruction fills its set; a boundary is evaluated for set 1, and where that has ended or has none, for set 0. -/
theorem loops : Obligations.Loops := by
  unfold Obligations.Loops
  constructor
  · intro s set r cnt le body hc hp hs
    simp only [exec_loop, exec_loopi]
    have ok := s.pfxOk_none false false hp
    have wide (h : cnt ≠ 0) : cnt.zeroExtend 32 ≠ 0 := by bv_omega
    refine ⟨fun h => ⟨?_, ?_⟩, fun h hk => ?_, fun h hk => ?_, fun skip s1 h hk hl => ⟨fun h0 => ?_, fun h0 => ?_⟩⟩
    · exact State.run_trap hp (State.loopStart_low hs h)
    · exact State.run_trap hp (State.loopStart_low hs h)
    · exact State.run_done ok (State.loopStart_count hs h hk)
    · exact State.run_done ok (State.loopStart_count hs h (wide hk))
    · exact State.run_done ok (by rw [h0]; exact State.loopStart_skip hs h hk hl)
    · exact State.run_done ok (by rw [h0]; exact State.loopStart_skip hs h hk hl)
  · intro s hc hd l ended off down fits stray low traps only1 only0 both
    refine ⟨fun h ⟨h1, h2, h3⟩ => ?_, fun ⟨h, hn⟩ ⟨h1, h2, h3⟩ => ?_, fun ⟨h, h0, he⟩ ⟨h1, h2, h3⟩ => ?_, fun a ha => ?_, fun hs => ?_⟩
    · exact State.finish_back (f := Tcc.loopDown 1) hc hd rfl (Tcc.boundaries_back (Tcc.boundary_back h h1 h2 h3))
    · exact State.finish_back (f := Tcc.loopDown 0) hc hd rfl
        (Tcc.boundaries_back0 (Tcc.boundary_no hn) (Tcc.boundary_back h h1 h2 h3))
    · exact State.finish_back (f := fun c => (c.loopOff 1).loopDown 0) hc hd rfl
        (Tcc.boundaries_back0 (Tcc.boundary_off h he) (Tcc.boundary_back h0 h1 h2 h3))
    · have next : s.cur.succ.getD s.cur.pc = a := by rw [ha.1]; rfl
      have more : s.cur.succ.isNone = false := by rw [ha.1]; rfl
      refine ⟨fun ⟨h, hn⟩ he => ?_, fun ⟨h, hn⟩ he => ?_, fun ⟨h, h0, he⟩ he0 => ?_, fun h ⟨h1, h2⟩ => ?_, fun ⟨h, hn⟩ ⟨h1, h2⟩ => ?_,
        fun ⟨h, h0, he⟩ ⟨h1, h2⟩ => ?_, fun h ⟨h1, h2, h3⟩ => ?_, fun ⟨h, hn⟩ ⟨h1, h2, h3⟩ => ?_, fun ⟨h, h0, he⟩ ⟨h1, h2, h3⟩ => ?_,
        fun hi => ?_⟩
      · exact State.finish_on (f := Tcc.loopOff 1) hc ha hd rfl ⟨rfl, rfl, rfl⟩
          (Tcc.boundaries_on (Tcc.boundary_off h he) (Tcc.boundary_no hn))
      · exact State.finish_on (f := Tcc.loopOff 0) hc ha hd rfl ⟨rfl, rfl, rfl⟩
          (Tcc.boundaries_on (Tcc.boundary_no hn) (Tcc.boundary_off h he))
      · exact State.finish_on (f := fun c => (c.loopOff 1).loopOff 0) hc ha hd rfl ⟨rfl, rfl, rfl⟩
          (Tcc.boundaries_on (Tcc.boundary_off h he) (Tcc.boundary_off h0 he0))
      · exact State.finish_traps (f := id) hc next (Tcc.boundaries_bad (Tcc.boundary_low (c := s.cur.ended) h more h1 h2))
      · exact State.finish_traps (f := id) hc next
          (Tcc.boundaries_bad0 (Tcc.boundary_no hn) (Tcc.boundary_low (c := s.cur.ended) h more h1 h2))
      · exact State.finish_traps (f := Tcc.loopOff 1) hc next
          (Tcc.boundaries_bad0 (Tcc.boundary_off h he) (Tcc.boundary_low (c := s.cur.ended.loopOff 1) (n := 0) h0 more h1 h2))
      · exact State.finish_traps (f := id) hc next (Tcc.boundaries_bad (Tcc.boundary_stray h h1 h2 h3))
      · exact State.finish_traps (f := id) hc next (Tcc.boundaries_bad0 (Tcc.boundary_no hn) (Tcc.boundary_stray h h1 h2 h3))
      · exact State.finish_traps (f := Tcc.loopOff 1) hc next
          (Tcc.boundaries_bad0 (Tcc.boundary_off h he) (Tcc.boundary_stray h0 h1 h2 h3))
      · exact State.finish_seq s a ⟨hc, ha, .inl hi, hd⟩
    · have next : s.cur.succ.getD s.cur.pc = s.cur.pc := by rw [hs]; rfl
      have last : s.cur.succ.isNone = true := by rw [hs]; rfl
      refine ⟨fun h ⟨h1, h2⟩ => ?_, fun ⟨h, hn⟩ ⟨h1, h2⟩ => ?_, fun ⟨h, h0, he⟩ ⟨h1, h2⟩ => ?_⟩
      · exact State.finish_traps (f := id) hc next (Tcc.boundaries_bad (Tcc.boundary_low (c := s.cur.ended) h last h1 h2))
      · exact State.finish_traps (f := id) hc next
          (Tcc.boundaries_bad0 (Tcc.boundary_no hn) (Tcc.boundary_low (c := s.cur.ended) h last h1 h2))
      · exact State.finish_traps (f := Tcc.loopOff 1) hc next
          (Tcc.boundaries_bad0 (Tcc.boundary_off h he) (Tcc.boundary_low (c := s.cur.ended.loopOff 1) (n := 0) h0 last h1 h2))

end Sys2Proof.Machine

/-! SUPPORT. The checks of an access of the C path (R156, R157): what one part and two parts give, in the order of the checks. -/

namespace Sys2Proof.Machine

/-! ### Parts -/

/-- A part has the bytes that were asked for. -/
theorem State.cPart_n {s s' : State} {va n : Nat} {write : Bool} {p : CPart} (h : s.cPart va n write = .ok p s') : p.n = n := by
  unfold State.cPart at h
  cases ht : s.translate s.who s.space va (if write then .wr else .rd) s.cur.atM with
  | trap t u => rw [ht] at h; cases h
  | wait u => rw [ht] at h; cases h
  | ok x u =>
    rw [ht, Res.andThen_ok] at h
    dsimp only at h
    split at h <;> cases h <;> rfl

/-- An access of at most 8 bytes that does not pass a multiple of 128 has one part (log entry 108). -/
theorem pieces_one {va n : Nat} (h0 : 0 < n) (hc : va % 128 + n ≤ 128) : pieces 128 4 va n = [(va, n)] := by
  have hm : min n (128 - va % 128) = n := by omega
  simp [pieces, hm, Nat.ne_of_gt h0]

/-- One that passes a multiple of 128 is cut there. -/
theorem pieces_two {va n : Nat} (h8 : n ≤ 8) (hc : 128 < va % 128 + n) :
    pieces 128 4 va n = [(va, 128 - va % 128), (va + (128 - va % 128), n - (128 - va % 128))] := by
  have hm : min n (128 - va % 128) = 128 - va % 128 := by omega
  have hr : min (n - (128 - va % 128)) (128 - (va + (128 - va % 128)) % 128) = n - (128 - va % 128) := by omega
  have h1 : n - (128 - va % 128) ≠ 0 := by omega
  have h2 : n ≠ 0 := by omega
  simp [pieces, hm, hr, h1, h2]

/-! ### The whole check -/

/-- What the checks answer once every part has passed them: a part behind a socket out of service answers for the access (R396). -/
def partsOr (ps : List CPart) (write : Bool) (s : State) : Res (List CPart) :=
  match ps.find? CPart.out with
  | some p => .trap (TrapI.mk3 35 1 (BitVec.ofNat 64 p.pa)) s
  | none => .ok (if write then CPart.join ps else ps) s

theorem State.cCheck_range {s : State} {ea : Word} {n : Nat} {write al : Bool} (h : 2 ^ 57 ≤ ea.toNat ∨ 2 ^ 57 < ea.toNat + n) :
    s.cCheck ea n write al = .trap (TrapI.mk3 5 0 ea) s := if_pos h

theorem State.cCheck_misaligned {s : State} {ea : Word} {n : Nat} {write : Bool} (h : ¬ (2 ^ 57 ≤ ea.toNat ∨ 2 ^ 57 < ea.toNat + n))
    (ha : ea.toNat % n ≠ 0) : s.cCheck ea n write true = .trap (TrapI.mk3 6 0 ea) s := by
  rw [State.cCheck, if_neg h, if_pos (by simpa using ha)]

/-- An access inside the address space, aligned where it must be: translation of every part, then the rules of every part. -/
theorem State.cCheck_translates {s : State} {ea : Word} {n : Nat} {write al : Bool} (h : ¬ (2 ^ 57 ≤ ea.toNat ∨ 2 ^ 57 < ea.toNat + n))
    (ha : al = true → ea.toNat % n = 0) : s.cCheck ea n write al =
      (s.cParts write (pieces 128 4 ea.toNat n)).andThen fun ps u => (u.cRules write ps).andThen fun _ v => partsOr ps write v := by
  have hal : (al && decide (ea.toNat % n ≠ 0)) = false := by cases al <;> simp_all
  rw [State.cCheck, if_neg h, hal]
  rfl

theorem State.cParts_one (s : State) (write : Bool) (va n : Nat) :
    s.cParts write [(va, n)] = (s.cPart va n write).andThen fun p u => .ok [p] u := rfl

theorem State.cParts_two (s : State) (write : Bool) (va n vb m : Nat) : s.cParts write [(va, n), (vb, m)] =
    (s.cPart va n write).andThen fun p u => (u.cPart vb m write).andThen fun q v => .ok [p, q] v := by
  rw [State.cParts]
  cases s.cPart va n write with
  | trap t u => rfl
  | wait u => rfl
  | ok p u =>
    rw [Res.andThen_ok, Res.andThen_ok, State.cParts_one]
    cases u.cPart vb m write <;> rfl

theorem State.cRules_one (s : State) (write : Bool) (p : CPart) : s.cRules write [p] = s.cPartRules write p := by
  rw [State.cRules]
  cases s.cPartRules write p <;> rfl

theorem partsOr_out {ps : List CPart} {p : CPart} (h : ps.find? CPart.out = some p) (write : Bool) (s : State) :
    partsOr ps write s = .trap (TrapI.mk3 35 1 (BitVec.ofNat 64 p.pa)) s := by
  simp only [partsOr, h]

theorem partsOr_in {ps : List CPart} (h : ps.find? CPart.out = none) (write : Bool) (s : State) :
    partsOr ps write s = .ok (if write then CPart.join ps else ps) s := by
  simp only [partsOr, h]

/-- A part alone is never joined. -/
theorem partsOr_one (p : CPart) (write : Bool) (s : State) :
    partsOr [p] write s = if p.out then .trap (TrapI.mk3 35 1 (BitVec.ofNat 64 p.pa)) s else .ok [p] s := by
  cases h : p.out with
  | true => exact partsOr_out (by simp [h]) write s
  | false =>
    rw [partsOr_in (by simp [h])]
    cases write <;> rfl

/-- Two parts of a store that go as one request: they stand together in one window, under one translation (log entry 108). -/
def CPart.oneWith (p q : CPart) : Prop :=
  p.far ≠ none ∧ p.far = q.far ∧ p.pin = q.pin ∧ p.pa / 2 ^ 51 % 2 = 1 ∧ q.pa = p.pa + p.n ∧ q.pa / 2 ^ 24 = p.pa / 2 ^ 24

theorem CPart.join_one {p q : CPart} (h : p.oneWith q) : CPart.join [p, q] = [{ p with n := p.n + q.n }] := by
  obtain ⟨h1, h2⟩ := h
  exact if_pos ⟨Option.ne_none_iff_isSome.mp h1, h2⟩

theorem CPart.join_two {p q : CPart} (h : ¬ p.oneWith q) : CPart.join [p, q] = [p, q] :=
  if_neg (fun ⟨h1, h2⟩ => h ⟨Option.ne_none_iff_isSome.mpr h1, h2⟩)

/-- A store into the z tiles of a window in another package is refused at once; everything else is tested there (R44). -/
theorem State.cPartRules_far {s : State} {p : CPart} (h : p.far ≠ none ∨ p.out = true) (write : Bool) :
    s.cPartRules write p = if write && decide (p.pa / 2 ^ 51 % 2 = 1) && inZ (p.pa % 2 ^ 24) p.n then
      .trap (TrapI.mk3 6 0 (BitVec.ofNat 64 p.va)) s else .ok () s := by
  have hf : (p.far.isSome || p.out) = true := by
    rcases h with h | h
    · rw [Option.ne_none_iff_isSome.mp h, Bool.true_or]
    · rw [h, Bool.or_true]
  rw [State.cPartRules, if_pos hf]

/-- Settles O31: the checks' order is that of the definition, for one part and for two. -/
theorem accessChecks : Obligations.AccessChecks := by
  unfold Obligations.AccessChecks
  constructor
  · intro s ea n write
    refine ⟨fun h al => State.cCheck_range (by omega), fun h1 h2 h3 => State.cCheck_misaligned (by omega) h3, fun hr h0 h8 => ?_⟩
    have checks := State.cCheck_translates (s := s) (ea := ea) (n := n) (write := write) (al := false) (by omega)
      (fun h => absurd h Bool.false_ne_true)
    refine ⟨fun hc => ?_, fun hc => ?_⟩
    · rw [pieces_one h0 hc, State.cParts_one] at checks
      refine ⟨fun p s1 hp => ?_, fun t s1 hp => by rw [checks, hp]; rfl⟩
      rw [hp, Res.andThen_ok, Res.andThen_ok, State.cRules_one] at checks
      refine ⟨fun s2 h => ?_, fun t s2 h => by rw [checks, h]; rfl, fun s2 h => by rw [checks, h]; rfl⟩
      rw [checks, h, Res.andThen_ok, partsOr_one]
    · intro m
      rw [pieces_two h8 hc, State.cParts_two] at checks
      refine ⟨fun p q s1 s2 hp hq => ?_, fun t s1 hp => by rw [checks, hp]; rfl, fun p t s1 s2 hp hq => ?_⟩
      · rw [hp, Res.andThen_ok, hq, Res.andThen_ok, Res.andThen_ok, State.cRules] at checks
        refine ⟨fun s3 s4 h3 h4 => ?_, fun t s3 h3 => by rw [checks, h3]; rfl, fun t s3 s4 h3 h4 => ?_⟩
        · rw [h3, Res.andThen_ok, State.cRules_one, h4, Res.andThen_ok] at checks
          rw [checks]
          have hpn : p.n = m := State.cPart_n hp
          have hqn : q.n = n - m := State.cPart_n hq
          refine ⟨fun h => partsOr_out (by simp [h]) _ _, fun h h' => partsOr_out (by simp [h, h']) _ _, fun h h' => ?_⟩
          rw [partsOr_in (by simp [h, h'])]
          refine ⟨fun ⟨hw, h1⟩ => ?_, fun hn => ?_⟩
          · have hone : p.oneWith q := by rw [CPart.oneWith, hpn]; exact h1
            rw [if_pos hw, CPart.join_one hone, hpn, hqn, Nat.add_sub_cancel' (by omega)]
          · split
            · rename_i hw
              rw [CPart.join_two (fun h1 => hn ⟨hw, by rw [CPart.oneWith, hpn] at h1; exact h1⟩)]
            · rfl
        · rw [checks, h3, Res.andThen_ok, State.cRules_one, h4]
          rfl
      · rw [checks, hp, Res.andThen_ok, hq]
        rfl
  · intro s p hp
    refine ⟨fun h1 h2 h3 h4 => ?_, State.cPartRules_far hp false⟩
    have hw : p.pa / 2 ^ 51 % 2 = 1 := by omega
    have hz : inZ (p.pa % 2 ^ 24) p.n = true := by
      have ez : zBase = 0x600000 := rfl
      have ea : atomBase = 0x880000 := rfl
      simp only [inZ, overlap, Bool.and_eq_true, decide_eq_true_eq]
      omega
    rw [State.cPartRules_far hp, hz, decide_eq_true hw]
    rfl

end Sys2Proof.Machine

/-! SUPPORT. Reads of the special registers of a tile (R152 to R154, Table 1.1): where a number's register stands, and what an MFS leaves
at a plain place. -/

namespace Sys2Proof.Machine

/-! ### Where a register stands -/

/-- The numbers of the registers that a control core holds itself. -/
abbrev coreSr (n : Nat) : Prop := (0x010 ≤ n ∧ n ≤ 0x01B) ∨ (0x070 ≤ n ∧ n ≤ 0x081)

theorem State.sr_core {n : Nat} (s : State) (h : coreSr n) : s.sr n = s.cur.sr n := by
  have h0 : n ≠ 0 := by unfold coreSr at h; omega
  rw [State.sr, if_neg h0]
  exact if_pos h

section
variable {s : State} {k n : Nat} (ho : s.onTile k)
include ho

theorem State.onTile.sr_status : s.sr 0 = s.cur.status (s.tile k).frz := by
  have hw : s.who = .tile k := ho
  simp only [State.sr, if_true, State.frzOf, hw]

theorem State.onTile.sr_tile (h0 : n ≠ 0) (h : ¬ coreSr n) : s.sr n = (s.tile k).sr k n := by
  have hw : s.who = .tile k := ho
  rw [State.sr, if_neg h0]
  refine (if_neg h).trans ?_
  rw [hw]

/-- A register that a level may read at all is read. -/
theorem State.onTile.mfsTrap_none (h : Machine.srAcc n ≠ .reserved) (hm : Machine.srAcc n = .mOnly → s.cur.atM = true) :
    s.mfsTrap n = none := by
  rw [State.mfsTrap, ho.srAcc]
  cases hn : Machine.srAcc n with
  | reserved => exact absurd hn h
  | mOnly => simp [hm hn]
  | ro | rwM | rw => rfl

/-- A register that is read-only at both levels, or that the level may write, takes an MTS without a trap. -/
theorem State.onTile.mtsTrap_none
    (h : Machine.srAcc n = .ro ∨ Machine.srAcc n = .rw ∨ Machine.srAcc n ≠ .reserved ∧ s.cur.atM = true) : s.mtsTrap n = none := by
  rw [State.mtsTrap, ho.srAcc]
  rcases h with h | h | ⟨h, hm⟩
  · rw [h]
  · rw [h]
  · cases hn : Machine.srAcc n with
    | reserved => exact absurd hn h
    | mOnly | rwM => simp [hm]
    | ro | rw => rfl

end

/-- The numbers of the registers of a tile that come in arrays: tag counts, watermarks, barriers. -/
def arraySr (n : Nat) : Prop := (0x040 ≤ n ∧ n ≤ 0x047) ∨ (0x050 ≤ n ∧ n ≤ 0x05F) ∨ (0x100 ≤ n ∧ n ≤ 0x13F)

theorem srAcc_array {n : Nat} (h : arraySr n) : srAcc n = .rwM := by
  unfold arraySr at h
  rw [srAcc, if_neg (by omega), if_neg (by omega), if_neg (by omega), if_pos (by omega)]

theorem Tile.sr_array (t : Tile) (g : Nat) {n : Nat} (h : arraySr n) : t.sr g n =
    if 0x040 ≤ n ∧ n ≤ 0x047 then BitVec.ofNat 64 (bitsN t.tagn.toNat (64 * (n - 0x040) + 63) (64 * (n - 0x040)))
    else if h : 0x050 ≤ n ∧ n ≤ 0x05F then BitVec.ofNat 64 (t.mxe.z[n - 0x050]'(by omega)).wm
    else (t.bar (n - 0x100)).word := by
  unfold arraySr at h
  unfold Tile.sr
  split
  case h_37 => rfl
  all_goals omega

theorem Tile.sr_tagn (t : Tile) (g : Nat) {i : Nat} (h : i < 8) :
    t.sr g (0x040 + i) = BitVec.ofNat 64 (t.tagn.toNat / 2 ^ (64 * i) % 2 ^ 64) := by
  have hw : 64 * i + 63 + 1 - 64 * i = 64 := by omega
  rw [Tile.sr_array _ _ (by unfold arraySr; omega), if_pos (by omega), Nat.add_sub_cancel_left, bitsN, hw]

theorem Tile.sr_watermark (t : Tile) (g : Nat) {i : Nat} (h : i < 16) : t.sr g (0x050 + i) = BitVec.ofNat 64 t.mxe.z[i].wm := by
  rw [Tile.sr_array _ _ (by unfold arraySr; omega), if_neg (by omega), dif_pos (by omega)]
  simp only [Nat.add_sub_cancel_left]

theorem Tile.sr_barrier (t : Tile) (g : Nat) {i : Nat} (h : i < 64) : t.sr g (0x100 + i) = (t.bar i).word := by
  rw [Tile.sr_array _ _ (by unfold arraySr; omega), if_neg (by omega), dif_neg (by omega), Nat.add_sub_cancel_left]

/-- The trap registers have the numbers from 0x070 on. -/
theorem Tcc.sr_trap (c : Tcc) {i : Nat} (h : i < 6) : c.sr (0x070 + i) = c.trap.get i := by
  unfold Tcc.sr
  split
  case h_13 => rw [Nat.add_sub_cancel_left]
  all_goals omega

/-! ### MFS (R152) -/

theorem execMfs_plain {s : State} {n : BitVec 10} {v : Word} {a : CodeAddr} (d : Reg) (ha : s.plainAt a) (hp : s.cur.pfx = none)
    (ht : s.mfsTrap n.toNat = none) (hv : s.sr n.toNat = v) : execMfs d n s = .next ((s.setG d v).goneTo a) :=
  State.run_seq hp (by rw [ht, hv]) (State.plainAt_setG s d v a ha)

/-- STATUS between two units (Table 1.2). -/
theorem Tcc.status_noPrefix {c : Tcc} (h : c.pfx = none) (frz : Bool) : c.status frz =
    BitVec.ofNat 64 (b2n c.atM + 2 * (b2n (decide (c.loop0.lc ≠ 0)) + b2n (decide (c.loop1.lc ≠ 0))) + 8 * b2n frz +
      16 * b2n c.intrap + 32 * b2n c.pfxp) := by
  rw [Tcc.status, h, Option.isSome_none, Bool.false_or]
  exact congrArg (BitVec.ofNat 64) (by omega)

theorem Queue.headWaits_eq (x : Queue) : x.headWaits = (x.ents.find? (fun e => decide (e.st ≠ .done))).any (fun e => e.held) := by
  unfold Queue.headWaits
  cases x.ents.find? (fun e => decide (e.st ≠ .done)) <;> rfl

/-- Some queue has grown beyond its own memory (QSTAT bit 15). -/
theorem segs_grown {α : Type} (x y z : List α) :
    (!(x.isEmpty && y.isEmpty && z.isEmpty)) = decide (0 < x.length + y.length + z.length) := by
  cases x <;> cases y <;> cases z <;> simp

theorem Bst.word_eq (b : Bst) :
    b.word = BitVec.ofNat 64 (b2n b.cfg + 2 * b2n b.member + 4 * b2n b.arr + 256 * b.gen.toNat) := by
  rw [Bst.word, Nat.mul_comm (b2n b.member), Nat.mul_comm (b2n b.arr), Nat.mul_comm b.gen.toNat]
  rfl

theorem toNat_srn {b i : Nat} (h : b + i < 1024) : (BitVec.ofNat 10 (b + i)).toNat = b + i := by
  rw [BitVec.toNat_ofNat]
  exact Nat.mod_eq_of_lt h

/-- Settles O35: each number is read where its register stands. -/
theorem specialRegisterReads : Obligations.SpecialRegisterReads := by
  unfold Obligations.SpecialRegisterReads
  intro s k d a ho ha hp t c reads z N full waits cap
  have hc : s.cur = c := ho.cur
  have read {n : BitVec 10} {v : Word} (hv : s.sr n.toNat = v) (hr : srAcc n.toNat ≠ .reserved)
      (hm : srAcc n.toNat = .mOnly → c.atM = true) : reads n v := by
    rw [← hc] at hm
    exact execMfs_plain d ha hp (ho.mfsTrap_none hr hm) hv
  have core {n : BitVec 10} {v : Word} (hv : c.sr n.toNat = v) (hn : coreSr n.toNat := by decide)
      (hr : srAcc n.toNat ≠ .reserved := by decide) (hm : srAcc n.toNat ≠ .mOnly := by decide) : reads n v :=
    read ((s.sr_core hn).trans (by rw [hc, hv])) hr (fun h => absurd h hm)
  have atM {n : BitVec 10} {v : Word} (hm : c.atM = true) (hv : c.sr n.toNat = v) (hn : coreSr n.toNat := by decide)
      (hr : srAcc n.toNat ≠ .reserved := by decide) : reads n v :=
    read ((s.sr_core hn).trans (by rw [hc, hv])) hr (fun _ => hm)
  have tile {n : BitVec 10} {v : Word} (hv : t.sr k n.toNat = v) (h0 : n.toNat ≠ 0 := by decide) (hn : ¬ coreSr n.toNat := by decide)
      (hr : srAcc n.toNat ≠ .reserved := by decide) (hm : srAcc n.toNat ≠ .mOnly := by decide) : reads n v :=
    read ((ho.sr_tile h0 hn).trans hv) hr (fun h => absurd h hm)
  have status : s.sr 0 = N (b2n c.atM + 2 * (b2n (decide (c.loop0.lc ≠ 0)) + b2n (decide (c.loop1.lc ≠ 0))) + 8 * b2n t.frz +
      16 * b2n c.intrap + 32 * b2n c.pfxp) := by
    rw [hc] at hp
    rw [ho.sr_status, hc]
    exact Tcc.status_noPrefix hp t.frz
  have qstat : t.sr k 0x032 = N (t.xret.length + full t.lq * 2 ^ 8 + full t.xq * 2 ^ 9 + full t.sq * 2 ^ 10 +
      waits t.lq * 2 ^ 12 + waits t.xq * 2 ^ 13 + waits t.sq * 2 ^ 14 +
      b2n (decide (0 < t.lq.segs.length + t.xq.segs.length + t.sq.segs.length)) * 2 ^ 15) := by
    show t.qstat = _
    rw [Tile.qstat, Queue.headWaits_eq, Queue.headWaits_eq, Queue.headWaits_eq, segs_grown]
    rfl
  have array {b i : Nat} {v : Word} (hi : arraySr (b + i)) (hv : t.sr k (b + i) = v) : reads (BitVec.ofNat 10 (b + i)) v := by
    have hn : (BitVec.ofNat 10 (b + i)).toNat = b + i := toNat_srn (by unfold arraySr at hi; omega)
    have hw := srAcc_array hi
    rw [← hn] at hi hv hw
    exact tile hv (by unfold arraySr at hi; omega) (by unfold arraySr at hi; unfold coreSr; omega) (by rw [hw]; decide) (by rw [hw]; decide)
  exact ⟨read (n := 0x000) status (by decide) (fun h => absurd h (by decide)), tile rfl, tile rfl, tile rfl, tile rfl, tile rfl, tile rfl,
    tile rfl, tile rfl, core rfl, core rfl, core rfl, core rfl, core rfl, core rfl, core rfl, core rfl, core rfl, core rfl,
    tile rfl, tile rfl, tile rfl, tile rfl, tile rfl, tile rfl, tile rfl, tile rfl, tile rfl, tile rfl, tile rfl, tile rfl, tile rfl,
    tile rfl, tile rfl, tile rfl, tile qstat, tile rfl, tile rfl, tile rfl, tile rfl, tile rfl, tile rfl, tile rfl, tile rfl,
    fun i => array (by unfold arraySr; omega) (t.sr_tagn k i.isLt), fun i => array (by unfold arraySr; omega) (t.sr_watermark k i.isLt),
    tile rfl, tile rfl, tile rfl,
    fun i => array (by unfold arraySr; omega) ((t.sr_barrier k i.isLt).trans (Bst.word_eq _)),
    fun hm => ⟨atM hm (c.sr_trap (i := 0) (by decide)), atM hm (c.sr_trap (i := 1) (by decide)), atM hm (c.sr_trap (i := 2) (by decide)),
      atM hm (c.sr_trap (i := 3) (by decide)), atM hm (c.sr_trap (i := 4) (by decide)), atM hm (c.sr_trap (i := 5) (by decide)),
      atM hm rfl, atM hm rfl⟩⟩

end Sys2Proof.Machine

/-! SUPPORT. Writes of the special registers of a tile (R152 to R154): what a write of a wide register leaves of it, and what an MTS leaves
at a plain place. -/

namespace Sys2Proof.Machine

/-! ### A field of a wide register -/

/-- A with the w bits from bit a on replaced by v. -/
def putField (A a w v : Nat) : Nat := A - A / 2 ^ a % 2 ^ w * 2 ^ a + v * 2 ^ a

theorem putField_eq (A a w v : Nat) : putField A a w v = 2 ^ a * (2 ^ w * (A / 2 ^ (a + w)) + v) + A % 2 ^ a := by
  have h1 := Nat.div_add_mod A (2 ^ a)
  have h2 := Nat.div_add_mod (A / 2 ^ a) (2 ^ w)
  rw [Nat.div_div_eq_div_mul, ← Nat.pow_add] at h2
  have e : A = 2 ^ a * (2 ^ w * (A / 2 ^ (a + w))) + A / 2 ^ a % 2 ^ w * 2 ^ a + A % 2 ^ a := by
    conv_lhs => rw [← h1, ← h2]
    ring
  have e2 : A - A / 2 ^ a % 2 ^ w * 2 ^ a = 2 ^ a * (2 ^ w * (A / 2 ^ (a + w))) + A % 2 ^ a := by omega
  rw [putField, e2]
  ring

theorem testBit_putField {A a w v : Nat} (hv : v < 2 ^ w) (j : Nat) :
    (putField A a w v).testBit j = if a ≤ j ∧ j < a + w then v.testBit (j - a) else A.testBit j := by
  rw [putField_eq, Nat.testBit_two_pow_mul_add _ (Nat.mod_lt A (Nat.two_pow_pos a)), Nat.testBit_two_pow_mul_add _ hv]
  by_cases h1 : j < a
  · rw [if_pos h1, if_neg (by omega), Nat.testBit_mod_two_pow, decide_eq_true h1, Bool.true_and]
  · by_cases h2 : j - a < w
    · rw [if_neg h1, if_pos h2, if_pos (by omega)]
    · rw [if_neg h1, if_neg h2, if_neg (by omega), Nat.testBit_div_two_pow]
      congr 1
      omega

theorem putField_lt {A a w v n : Nat} (hv : v < 2 ^ w) (hA : A < 2 ^ n) (hn : a + w ≤ n) : putField A a w v < 2 ^ n := by
  refine Nat.lt_pow_two_of_testBit _ (fun j hj => ?_)
  rw [testBit_putField hv, if_neg (by omega)]
  exact Nat.testBit_lt_two_pow (lt_of_lt_of_le hA (Nat.pow_le_pow_right (by decide) hj))

/-- The words of a register of which word i is replaced. -/
theorem word_putField {A v : Nat} (hv : v < 2 ^ 64) (i j : Nat) :
    putField A (64 * i) 64 v / 2 ^ (64 * j) % 2 ^ 64 = if j = i then v else A / 2 ^ (64 * j) % 2 ^ 64 := by
  refine Nat.eq_of_testBit_eq (fun b => ?_)
  rw [Nat.testBit_mod_two_pow, Nat.testBit_div_two_pow, testBit_putField hv]
  by_cases hb : b < 64
  · rw [decide_eq_true hb, Bool.true_and]
    by_cases h : j = i
    · subst h
      rw [if_pos (by omega), if_pos rfl, Nat.add_sub_cancel]
    · rw [if_neg (by omega), if_neg h, Nat.testBit_mod_two_pow, Nat.testBit_div_two_pow, decide_eq_true hb, Bool.true_and]
  · rw [decide_eq_false hb, Bool.false_and]
    refine (Nat.testBit_lt_two_pow (lt_of_lt_of_le (b := 2 ^ 64) ?_ (Nat.pow_le_pow_right (by decide) (by omega)))).symm
    split
    · exact hv
    · exact Nat.mod_lt _ (by decide)

/-! ### MTS (R152, R153) -/

/-- A change of the executing tile that the stream does not look at: the latches of its control core and what is not its binding. -/
theorem State.plainAt_updMe_latches {s : State} {g : Nat} {a : CodeAddr} (h : s.plainAt a) (ho : s.onTile g) {f : Tile → Tile}
    (hb : (f (s.tile g)).bound = (s.tile g).bound) {l : BitVec 6} (ht : (f (s.tile g)).tcc = { (s.tile g).tcc with latches := l }) :
    (s.updMe f).plainAt a := by
  have hw : s.who = .tile g := ho
  have hu : (s.updMe f).tile g = f (s.tile g) := by rw [State.updMe, ho.gid, State.tile_updTile_same]
  have ho' : (s.updMe f).onTile g := ho
  have hcur : (s.updMe f).cur = { s.cur with latches := l } := by rw [ho'.cur, hu, ht, ho.cur]
  have himg : (s.updMe f).image = s.image := by
    have hw' : (s.updMe f).who = .tile g := ho
    simp only [State.image, State.launchOf, hw, hw', hu, ht, hb]
    rfl
  obtain ⟨hc, hs, hn, hd⟩ := h
  unfold State.plainAt State.hasSucc State.noBoundary at *
  rw [hcur, himg]
  exact ⟨hc, hs, hn, hd⟩

theorem Tile.setSr_keeps (t : Tile) (n : Nat) (v : Word) :
    (t.setSr n v).bound = t.bound ∧ ∃ l, (t.setSr n v).tcc = { t.tcc with latches := l } := by
  unfold Tile.setSr
  split
  case h_4 =>
    dsimp only
    split
    · exact ⟨rfl, _, rfl⟩
    · exact ⟨rfl, _, rfl⟩
  case h_12 =>
    split
    · exact ⟨rfl, _, rfl⟩
    · split <;> exact ⟨rfl, _, rfl⟩
  all_goals exact ⟨rfl, _, rfl⟩

theorem Tcc.setSr_keeps (n : Nat) (v : Word) (c : Tcc) : (c.setSr n v).succ = c.succ ∧ (c.setSr n v).img = c.img ∧
    (c.setSr n v).intrap = c.intrap ∧ (c.setSr n v).loop0 = c.loop0 ∧ (c.setSr n v).loop1 = c.loop1 ∧ (c.setSr n v).pc = c.pc ∧
    (c.setSr n v).stepLeft = c.stepLeft := by
  unfold Tcc.setSr
  split
  case h_5 => split <;> exact ⟨rfl, rfl, rfl, rfl, rfl, rfl, rfl⟩
  all_goals exact ⟨rfl, rfl, rfl, rfl, rfl, rfl, rfl⟩

section
variable {s : State} {k : Nat} {g : Reg} {n : BitVec 10} {a : CodeAddr} (ha : s.plainAt a) (hp : s.cur.pfx = none)
  (ht : s.mtsTrap n.toNat = none)
include ha hp ht

/-- An MTS to a register of the control core writes it and goes on. -/
theorem execMts_core (hn : coreSr n.toNat) : execMts g n s = .next ((s.updCur (fun c => c.setSr n.toNat (s.g g))).goneTo a) := by
  unfold execMts State.mtsRun
  refine State.run_seq hp ?_ (s.plainAt_updCur _ a ha (Tcc.setSr_keeps n.toNat (s.g g)))
  rw [ht]
  dsimp only
  rw [if_pos hn]
  rfl

/-- An MTS to a register of the tile writes it and goes on. -/
theorem execMts_tile (ho : s.onTile k) (hn : ¬ coreSr n.toNat) :
    execMts g n s = .next ((s.updMe (fun t => t.setSr n.toNat (s.g g))).goneTo a) := by
  obtain ⟨hb, l, hl⟩ := (s.tile k).setSr_keeps n.toNat (s.g g)
  unfold execMts State.mtsRun
  refine State.run_seq hp ?_ (State.plainAt_updMe_latches (f := fun t => t.setSr n.toNat (s.g g)) ha ho hb hl)
  rw [ht]
  dsimp only
  rw [if_neg hn, ho.onCore]
  rfl

end

theorem Tile.setSr_array (t : Tile) {n : Nat} (h : arraySr n) (v : Word) : t.setSr n v =
    if 0x040 ≤ n ∧ n ≤ 0x047 then
      { t with tagn := BitVec.ofNat 512 (putField t.tagn.toNat (64 * (n - 0x040)) 64 v.toNat) }
    else if 0x100 ≤ n ∧ n ≤ 0x13F then { t with bst := AMap.put t.bst (n - 0x100) (bstOf v) } else t := by
  unfold arraySr at h
  unfold Tile.setSr
  split
  case h_12 =>
    have hw : 64 * (n - 0x040) + 63 + 1 - 64 * (n - 0x040) = 64 := by omega
    dsimp only
    rw [bitsN, hw]
    rfl
  all_goals omega

theorem Tile.setSr_tagn (t : Tile) {i : Nat} (h : i < 8) (v : Word) :
    t.setSr (0x040 + i) v = { t with tagn := BitVec.ofNat 512 (putField t.tagn.toNat (64 * i) 64 v.toNat) } := by
  rw [Tile.setSr_array _ (by unfold arraySr; omega), if_pos (by omega), Nat.add_sub_cancel_left]

theorem Tile.setSr_barrier (t : Tile) {i : Nat} (h : i < 64) (v : Word) :
    t.setSr (0x100 + i) v = { t with bst := AMap.put t.bst i (bstOf v) } := by
  rw [Tile.setSr_array _ (by unfold arraySr; omega), if_neg (by omega), if_pos (by omega), Nat.add_sub_cancel_left]

theorem Tcc.setSr_trap (c : Tcc) {i : Nat} (h : i < 6) (v : Word) :
    c.setSr (0x070 + i) v = { c with trap := c.trap.set i v } := by
  unfold Tcc.setSr
  split
  case h_5 => rw [if_pos (by omega), Nat.add_sub_cancel_left]
  all_goals omega

theorem bstOf_eq (v : Word) : bstOf v =
    { cfg := v.getLsbD 0, member := v.getLsbD 1, arr := v.getLsbD 2, gen := (v >>> 8).truncate 8, rel := false } := by
  have hg : BitVec.ofNat 8 (fld v 15 8) = (v >>> 8).truncate 8 := by
    simp [BitVec.toNat_eq, fld, bitsN, Nat.shiftRight_eq_div_pow]
  rw [bstOf, hg]
  rfl

set_option exponentiation.threshold 512 in
/-- Settles O37: each number is written where its register stands; the rest of the tile and of the core stays. -/
theorem specialRegisterWrites : Obligations.SpecialRegisterWrites := by
  unfold Obligations.SpecialRegisterWrites
  intro s k g a ho ha hp v mts tile core trap
  have open_ {n : Nat} (h : srAcc n = .ro ∨ srAcc n = .rw) : s.mtsTrap n = none :=
    ho.mtsTrap_none (h.elim .inl (fun h => .inr (.inl h)))
  have atM {n : Nat} (hm : s.cur.atM = true) (h : srAcc n ≠ .reserved) : s.mtsTrap n = none := ho.mtsTrap_none (.inr (.inr ⟨h, hm⟩))
  have onCore {n : BitVec 10} {f : Tcc → Tcc} (ht : s.mtsTrap n.toNat = none) (hf : s.cur.setSr n.toNat v = f s.cur)
      (hn : coreSr n.toNat := by decide) : mts n = core f :=
    (execMts_core ha hp ht hn).trans (congrArg (fun c => Host.Outcome.next ((s.setCur c).goneTo a)) hf)
  have onTile {n : BitVec 10} {f : Tile → Tile} (ht : s.mtsTrap n.toNat = none) (hf : s.me.setSr n.toNat v = f s.me)
      (hn : ¬ coreSr n.toNat := by decide) : mts n = tile f :=
    (execMts_tile ha hp ht ho hn).trans (congrArg (fun t => Host.Outcome.next ((s.setTile s.gid t).goneTo a)) hf)
  refine ⟨onCore (open_ (by decide)) rfl, onTile (open_ (by decide)) rfl, onTile (open_ (by decide)) rfl, fun n hn => ?_, fun hm => ?_⟩
  · simp only [List.mem_cons, List.not_mem_nil, or_false] at hn
    rcases hn with rfl | rfl | rfl | rfl | rfl | rfl | rfl | rfl | rfl | rfl
    case inr.inr.inr.inr.inr.inr.inl => exact .inr (onCore (open_ (by decide)) rfl)
    all_goals exact .inl (onTile (open_ (by decide)) rfl)
  · have core {n : BitVec 10} {f : Tcc → Tcc} (hf : s.cur.setSr n.toNat v = f s.cur) (hn : coreSr n.toNat := by decide)
        (hr : srAcc n.toNat ≠ .reserved := by decide) : mts n = core f := onCore (atM hm hr) hf hn
    have tile {n : BitVec 10} {f : Tile → Tile} (hf : s.me.setSr n.toNat v = f s.me) (hn : ¬ coreSr n.toNat := by decide)
        (hr : srAcc n.toNat ≠ .reserved := by decide) : mts n = tile f := onTile (atM hm hr) hf hn
    have array {b i : Nat} {f : Tile → Tile} (hi : arraySr (b + i)) (hf : s.me.setSr (b + i) v = f s.me) :
        mts (BitVec.ofNat 10 (b + i)) = .next ((s.updMe f).goneTo a) := by
      have hn : (BitVec.ofNat 10 (b + i)).toNat = b + i := toNat_srn (by unfold arraySr at hi; omega)
      have hw := srAcc_array hi
      rw [← hn] at hi hf hw
      exact tile hf (by unfold arraySr at hi; unfold coreSr; omega) (by rw [hw]; decide)
    refine ⟨tile rfl, tile rfl, tile rfl, core rfl, core rfl, tile rfl, tile rfl, tile rfl, tile rfl, tile rfl, tile rfl, fun i => ?_,
      fun i => array (by unfold arraySr; omega) (by rw [Tile.setSr_barrier _ i.isLt, bstOf_eq]), core (Tcc.setSr_trap _ (i := 0) (by decide) v),
      core (Tcc.setSr_trap _ (i := 1) (by decide) v), core (Tcc.setSr_trap _ (i := 2) (by decide) v),
      core (Tcc.setSr_trap _ (i := 4) (by decide) v), core (Tcc.setSr_trap _ (i := 5) (by decide) v), core rfl⟩
    refine ⟨_, array (by unfold arraySr; omega) (s.me.setSr_tagn i.isLt v), fun j hj => ?_⟩
    have hme : s.me = s.tile k := by rw [State.me, ho.gid]
    rw [hme, BitVec.toNat_ofNat, Nat.mod_eq_of_lt (putField_lt v.isLt (s.tile k).tagn.isLt (by omega)), word_putField v.isLt]

end Sys2Proof.Machine

/-! SUPPORT. Atomics (R162 to R165): the word that an ATOM names, and what an ATOM leaves at a plain place. -/

namespace Sys2Proof.Machine

/-! ### The word an ATOM names -/

/-- The offsets of the atomic region of a tile (R162). -/
abbrev inAtoms (off : Nat) : Prop := 0x880000 ≤ off ∧ off < 0x8C0000

theorem atoms_iff (off : Nat) : (decide (atomBase ≤ off) && decide (off < atomEnd)) = decide (inAtoms off) :=
  (Bool.decide_and (atomBase ≤ off) (off < atomEnd)).symm

section
variable {s : State} {v : Word}

theorem State.atomPlace_tile {h : Nat} (ho : s.onTile h) : s.atomPlace v =
    if v.toNat / 2 ^ 24 ≠ 0 ∨ ¬ inAtoms v.toNat then .trap (TrapI.mk3 5 0 v) s
    else if v.toNat % 8 ≠ 0 then .trap (TrapI.mk3 6 0 v) s else .ok (h, v.toNat) s := by
  simp only [State.atomPlace, atoms_iff, ho.onCore, ho.gid, Bool.false_eq_true, if_false, Bool.not_eq_true', decide_eq_false_iff_not]

theorem State.atomPlace_core {n : Nat} (hw : s.who = .core n)
    (h : ¬ (v.toNat / 2 ^ 44 = 0xFF ∧ v.toNat / 2 ^ 41 % 8 = 0 ∧ inAtoms (v.toNat % 2 ^ 24))) :
    s.atomPlace v = .trap (TrapI.mk3 5 0 v) s := by
  have hc : s.onCore = true := by rw [State.onCore, hw]
  simp only [State.atomPlace, atoms_iff, hc, if_true, Bool.not_eq_true', decide_eq_false_iff_not]
  split
  case isTrue => rfl
  case isFalse hr =>
    have hm : s.mapped v.toNat = .reserved := by
      simp only [bitsN] at hr
      rw [State.mapped, if_neg (by omega), if_neg (by simp only [bitsN]; omega)]
    have hp : s.place v.toNat = .reserved := by rw [State.place, State.home, hm]
    rw [hp]

theorem State.atomPlace_window {n h off : Nat} (hw : s.who = .core n) (hv : v.toNat = tileBase h + off) (hh : h < 256)
    (ho : inAtoms off) (hs : s.sockOut (h / 16 + 1) = false) (hsv : s.savedTile h = false) :
    s.atomPlace v = if off % 8 ≠ 0 then .trap (TrapI.mk3 6 0 v) s else .ok (h, off) s := by
  have hc : s.onCore = true := by rw [State.onCore, hw]
  have hlow : off < 2 ^ 24 := by omega
  have hp : s.place v.toNat = .tile h off := by
    rw [hv, State.place, State.home_of_mapped (s.mapped_tileBase hh hlow) hs]
    simp only [hsv, Bool.false_eq_true, if_false]
  obtain ⟨_, b, _⟩ := bitsN_tileBase hh hlow
  rw [← hv] at b
  unfold tileBase at hv
  have hr : ¬ (v.toNat / 2 ^ 52 ≠ 0 ∨ bitsN v.toNat 51 44 ≠ 0xFF ∨ ¬ inAtoms (v.toNat % 2 ^ 24)) := by
    unfold inAtoms at *
    omega
  have h8 : v.toNat % 8 = off % 8 := by omega
  simp only [State.atomPlace, atoms_iff, hc, if_true, Bool.not_eq_true', decide_eq_false_iff_not, if_neg hr, hp, h8]

end

/-! ### What an ATOM leaves -/

section
variable {s : State} {aop : Nat} {d x y : Reg} {f : Word → Word → Word → Option Word}

theorem State.atom_trap {t : TrapI} (hp : s.pfxOk false true) (h : s.atomPlace (s.g x) = .trap t s) :
    s.atom aop d x y f = .next (s.raise t) := State.run_raises hp (by rw [h]; rfl)

variable {h off : Nat} {a : CodeAddr} (hp : s.pfxOk false true) (hs : s.clean) (ha : s.plainAt a)
  (hpl : s.atomPlace (s.g x) = .ok (h, off) s) (hh : h < 256)
include hp hs ha hpl hh

/-- An ATOM that writes nothing returns the old word. -/
theorem State.atom_keeps (hf : f (BitVec.ofNat 64 (ofBytes (s.mem.getN (tileBase h + off) 8))) (s.g y) (s.g d) = none) :
    s.atom aop d x y f = .next ((s.setG d (BitVec.ofNat 64 (ofBytes (s.mem.getN (tileBase h + off) 8)))).goneTo a) := by
  have hn : ¬ h = 256 := by omega
  refine (State.run_done hp ?_).trans (congrArg _ (State.finish_seq _ a (State.plainAt_setG s d _ a ha)))
  simp only [hpl, Res.andThen_ok, if_neg hn, State.readHome_clean hs, hf]

/-- An ATOM that writes a new word returns the old one. -/
theorem State.atom_writes {new : Word}
    (hf : f (BitVec.ofNat 64 (ofBytes (s.mem.getN (tileBase h + off) 8))) (s.g y) (s.g d) = some new) :
    s.atom aop d x y f = .next ((State.setG { s with mem := s.mem.setN (tileBase h + off) (leBytes 8 new.toNat) } d
      (BitVec.ofNat 64 (ofBytes (s.mem.getN (tileBase h + off) 8)))).goneTo a) := by
  have hn : ¬ h = 256 := by omega
  refine (State.run_done hp ?_).trans
    (congrArg _ (State.finish_seq _ a (State.plainAt_setG _ d _ a (State.plainAt_congr ha rfl rfl rfl))))
  simp only [hpl, Res.andThen_ok, if_neg hn, State.readHome_clean hs, hf, State.writeHome_clean s _ _ hs.1]

end

/-- Each of the ten ATOMs traps where the word that it names cannot be found. -/
theorem exec_atoms_trap {s : State} {d r y : Reg} {t : TrapI} (hp : s.pfxOk false true) (h : s.atomPlace (s.g r) = .trap t s) :
    ∀ i ∈ [Instr.aadd d r y, .amin d r y, .amax d r y, .aminu d r y, .amaxu d r y, .axchg d r y, .acas d r y,
      .aand d r y, .aor d r y, .axor d r y], exec i s = .next (s.raise t) := by
  simp [execAadd, execAmin, execAmax, execAminu, execAmaxu, execAxchg, execAcas, execAand, execAor, execAxor, State.atom_trap hp h]

/-- Settles O34: the word that an ATOM names is found first; then the row of the table says what is written there. -/
theorem atomics : Obligations.Atomics := by
  unfold Obligations.Atomics
  intro s d x y off h key a ha hp hs hh hwho hlo hhi hkey
  subst hkey
  have hpl : s.atomPlace (s.g x) = if off % 8 ≠ 0 then .trap (TrapI.mk3 6 0 (s.g x)) s else .ok (h, off) s := by
    rcases hwho with ⟨ho, hx⟩ | ⟨n, hw, hx, hsock, hsv⟩
    · rw [State.atomPlace_tile ho, hx, if_neg (by unfold inAtoms; omega)]
    · exact State.atomPlace_window hw hx hh ⟨hlo, hhi⟩ hsock hsv
  refine ⟨fun h8 => ?_, fun h8 => ?_, fun r hw hr => ?_, fun r n hw hr => ?_⟩
  · rw [if_neg (not_not.mpr h8)] at hpl
    simp only [exec_aadd, exec_amin, exec_amax, exec_aminu, exec_amaxu, exec_axchg, exec_acas, exec_aand, exec_aor, exec_axor, execAadd,
      execAmin, execAmax, execAminu, execAmaxu, execAxchg, execAcas, execAand, execAor, execAxor]
    refine ⟨?_, State.atom_writes hp hs ha hpl hh rfl, State.atom_writes hp hs ha hpl hh rfl, State.atom_writes hp hs ha hpl hh rfl,
      State.atom_writes hp hs ha hpl hh rfl, State.atom_writes hp hs ha hpl hh rfl, State.atom_writes hp hs ha hpl hh rfl,
      State.atom_writes hp hs ha hpl hh rfl, State.atom_writes hp hs ha hpl hh rfl, fun he hb => ?_, fun hne => ?_⟩
    · exact State.atom_writes hp hs ha hpl hh (congrArg some (Word.add_eq _ _))
    · exact State.atom_writes hp hs ha hpl hh (if_pos ⟨he, fun e => hb e.symm⟩)
    · exact State.atom_keeps hp hs ha hpl hh (if_neg fun ⟨he, hb⟩ => hne.elim (fun hd => hd he) (fun e => hb e.symm))
  · rw [if_pos h8] at hpl
    exact exec_atoms_trap hp hpl
  · have ho : s.onTile h := hw
    refine exec_atoms_trap hp ?_
    rw [State.atomPlace_tile ho, if_pos (.inr (by unfold inAtoms; omega))]
  · exact exec_atoms_trap hp (State.atomPlace_core hw hr)

end Sys2Proof.Machine

/-! SUPPORT. What the checks of an access and a prefetch may leave (R156, R160, R311, R318, R448): translations, block states, lines of L1;
the executing core stays, but for an armed error that strikes, and memory where no storage error stands or is armed. -/

namespace Sys2Proof.Machine

/-! ### The executing core stays -/

/-- The executing core is as it was, but for its pair INJA and INJC (R455). -/
structure State.SameCore (s s' : State) : Prop where
  who : s'.who = s.who
  cur : { s'.cur with inj := s.cur.inj } = s.cur

namespace State.SameCore

theorem refl (s : State) : s.SameCore s := ⟨rfl, rfl⟩

theorem trans {s s' s'' : State} (h : s.SameCore s') (h' : s'.SameCore s'') : s.SameCore s'' :=
  ⟨h'.who.trans h.who, (congrArg (fun c : Tcc => { c with inj := s.cur.inj }) h'.cur).trans h.cur⟩

theorem regs {s s' : State} (h : s.SameCore s') : s'.cur.regs = s.cur.regs := by
  have e := congrArg Tcc.regs h.cur
  exact e

theorem preds {s s' : State} (h : s.SameCore s') : s'.cur.preds = s.cur.preds := by
  have e := congrArg Tcc.preds h.cur
  exact e

theorem ite {s u v : State} (c : Prop) [Decidable c] (hu : s.SameCore u) (hv : s.SameCore v) : s.SameCore (if c then u else v) := by
  split
  · exact hu
  · exact hv

theorem ofBeside {s s' : State} (h : s.Beside s') : s.SameCore s' := ⟨h.who, by rw [h.cur]⟩

theorem updTile (s : State) (g : Nat) {f : Tile → Tile} (hf : ∀ t, { (f t).tcc with inj := t.tcc.inj } = t.tcc) :
    s.SameCore (s.updTile g f) := by
  refine ⟨rfl, ?_⟩
  unfold State.cur State.tccOf
  rw [State.updTile_who]
  split
  · rename_i h _
    by_cases hg : h = g
    · subst hg
      rw [State.tile_updTile_same]
      exact hf _
    · rw [State.tile_updTile_other _ _ _ _ hg]
  all_goals rfl

theorem updInj (s : State) (a : Agent) (f : Inj → Inj) : s.SameCore (s.updInj a f) := by
  unfold State.updInj
  split
  case h_1 => exact updTile _ _ fun _ => rfl
  case h_2 n =>
    split
    case isFalse => exact .refl s
    case isTrue hn =>
      refine ⟨rfl, ?_⟩
      unfold State.cur State.tccOf
      dsimp only
      split
      case h_2 m _ =>
        split
        case isTrue hm =>
          rw [Vector.getElem_set]
          split
          · rename_i e
            subst e
            rfl
          · rfl
        case isFalse => rfl
      all_goals rfl
  all_goals exact .refl s

theorem storeHome (s : State) (key : Nat) (bs : List Byte) : s.SameCore (s.storeHome key bs) := by
  unfold State.storeHome
  split <;> exact ⟨rfl, rfl⟩

theorem sendBytes (n vl fuel : Nat) (s : State) (bs : List Byte) : s.SameCore (State.sendBytes s n vl fuel bs) := by
  induction fuel generalizing s bs with
  | zero => exact .refl s
  | succ f ih =>
    unfold State.sendBytes
    exact .ite _ (.refl s) (State.SameCore.trans (s' := s.sendFlit n 0 vl (bs.take 112)) ⟨rfl, rfl⟩ (ih _ _))

theorem depart (s : State) (p : Pkt) : s.SameCore (s.depart p) := by
  unfold State.depart
  refine .ite _ ⟨rfl, rfl⟩ ?_
  split
  · exact ⟨rfl, rfl⟩
  · rename_i u hu
    unfold State.kwaup at hu
    split at hu
    · cases hu
    · obtain rfl := Option.some.inj hu
      exact sendBytes _ _ _ _ _

theorem request (s : State) (p : Pkt) : s.SameCore (s.request p) :=
  have sent (p : Pkt) : s.SameCore (State.send { s with nextRid := s.nextRid + 1 } p) := ⟨rfl, rfl⟩
  .ite _ (sent _) ((sent _).trans (depart _ _))

theorem putPa (s : State) (pa : Nat) (bs : List Byte) : s.SameCore (s.putPa pa bs) := by
  unfold State.putPa
  split
  · exact (storeHome _ _ _).trans (ofBeside (State.Beside.blockWrite _ _ _ _))
  · exact .ite _ (.refl s) (storeHome _ _ _)
  · exact request _ _
  · exact .refl s
  · exact .refl s

theorem sendRecord (s : State) (r : ErrRec) : s.SameCore (s.sendRecord r) := by
  have posted (pa : Nat) (bs : List Byte) : s.SameCore ((s.msix 64).putPa pa bs) :=
    State.SameCore.trans (s' := s.msix 64) ⟨rfl, rfl⟩ (putPa _ _ _)
  unfold State.sendRecord
  exact .ite _ ⟨rfl, rfl⟩ ((posted _ _).trans ⟨rfl, rfl⟩)

theorem tileOut (s : State) (g : Nat) : s.SameCore (s.tileOut g) :=
  .ite _ (updTile _ _ fun _ => rfl) (.ite _ ⟨rfl, rfl⟩ (updTile _ _ fun _ => rfl))

theorem portDown (s : State) (port : Nat) : s.SameCore (s.portDown port) := by
  unfold State.portDown
  dsimp only
  split <;> exact ⟨rfl, rfl⟩

theorem retireUnit (s : State) (level inst : Nat) (r : LogRec) (row : Bool) : s.SameCore (s.retireUnit level inst r row) :=
  have kept {l : List (Nat × Nat)} : s.SameCore { s with retired := l } := ⟨rfl, rfl⟩
  .ite _ (.ite _ (.ite _ (.refl s) (kept.trans (updTile _ _ fun _ => rfl))) (tileOut _ _))
    (.ite _ (.ite _ (.refl s) ⟨rfl, rfl⟩)
      (.ite _ (portDown _ _) (.ite _ (.ite _ kept (.ite _ (.refl s) ⟨rfl, rfl⟩)) (.ite _ (.refl s) kept))))

theorem logEvent (s : State) (level inst : Nat) (loc : Word) (kind : Nat) (inj : Bool) (src : Nat) :
    s.SameCore (s.logEvent level inst loc kind inj src) := by
  have check {u v : State} (hu : u.SameCore v) (c : Prop) [Decidable c] (er : ErrRec) (r : LogRec) (row : Bool) :
      u.SameCore (if c then (v.sendRecord er).retireUnit level inst r row else v) :=
    hu.trans (.ite c ((sendRecord _ _).trans (retireUnit _ _ _ _ _)) (.refl _))
  unfold State.logEvent
  dsimp only
  generalize hu : ({ s with logs := _ } : State) = u
  have hs : s.SameCore u := by
    subst hu
    exact ⟨rfl, rfl⟩
  refine hs.trans (.ite _ (sendRecord u _) (.ite _ (.refl _) (.ite _ (check ?_ _ _ _ _) ?_)))
  · exact .ite _ (.refl _) (check (.refl _) _ _ _ _)
  · exact .ite _ (.refl _) (check (.refl _) _ _ _ _)

theorem strike {s : State} {h : HomeRead} (hs : s.SameCore h.s) (src key : Nat) (a : Armed) : s.SameCore (strike src key a h).s := by
  have hi := hs.trans (updInj h.s a.agent injFired)
  unfold Machine.strike
  generalize h.s.updInj a.agent injFired = u at *
  have ha : s.SameCore { u with armed := u.armed.filter (fun x => decide (x ≠ a)) } := hi.trans ⟨rfl, rfl⟩
  dsimp only
  split
  · exact ha.trans (logEvent _ _ _ _ _ _ _)
  · split
    · exact ha.trans ⟨rfl, rfl⟩
    · exact ha

theorem meetBad {s : State} {h : HomeRead} (hs : s.SameCore h.s) (src : Nat) (w : BadWord) : s.SameCore (meetBad src w h).s := by
  have hl := hs.trans (logEvent h.s w.level.1 w.level.2 w.loc (if w.corr then 1 else 2) w.inj src)
  unfold Machine.meetBad
  generalize h.s.logEvent w.level.1 w.level.2 w.loc (if w.corr then 1 else 2) w.inj src = u at *
  dsimp only
  split
  · exact hl.trans ⟨rfl, rfl⟩
  · exact hl

theorem foldr_read {α : Type} {s : State} {f : α → HomeRead → HomeRead} (hf : ∀ a h, s.SameCore h.s → s.SameCore (f a h).s)
    (l : List α) (h : HomeRead) (hs : s.SameCore h.s) : s.SameCore (l.foldr f h).s := by
  induction l with
  | nil => exact hs
  | cons a r ih => exact hf a _ ih

theorem readHome (s : State) (src key n : Nat) : s.SameCore (s.readHome src key n).s := by
  unfold State.readHome
  dsimp only
  split
  · exact .refl s
  · exact foldr_read (fun w h hs => hs.meetBad src w) _ _ (foldr_read (fun a h hs => hs.strike src key a) _ _ (.refl s))

end State.SameCore

/-! ### What a check leaves -/

/-- What the checks of an access may do to the state. -/
structure State.Quiet (s s' : State) : Prop where
  core : s.SameCore s'
  store : s.clean → s'.clean ∧ s'.mem = s.mem

namespace State.Quiet

theorem refl (s : State) : s.Quiet s := ⟨.refl s, fun h => ⟨h, rfl⟩⟩

theorem trans {s s' s'' : State} (h : s.Quiet s') (h' : s'.Quiet s'') : s.Quiet s'' :=
  ⟨h.core.trans h'.core, fun hs => (h'.store (h.store hs).1).imp_right (fun e => e.trans (h.store hs).2)⟩

theorem updTile (s : State) (g : Nat) {f : Tile → Tile} (hf : ∀ t, (f t).tcc = t.tcc) : s.Quiet (s.updTile g f) :=
  ⟨.updTile s g (fun t => by rw [hf]), fun h => ⟨h, rfl⟩⟩

theorem readHome (s : State) (src key n : Nat) : s.Quiet (s.readHome src key n).s :=
  ⟨.readHome s src key n, fun h => by rw [State.readHome_clean h]; exact ⟨h, rfl⟩⟩

theorem addTlb (s : State) (a : Agent) (e : TlbEnt) : s.Quiet (s.addTlb a e) := by
  cases a with
  | tile g => exact updTile s g (f := fun t => { t with tlb := e :: t.tlb }) (fun _ => rfl)
  | core n => exact ⟨⟨rfl, rfl⟩, fun h => ⟨h, rfl⟩⟩
  | reshard n => exact ⟨⟨rfl, rfl⟩, fun h => ⟨h, rfl⟩⟩
  | headstock => exact ⟨⟨rfl, rfl⟩, fun h => ⟨h, rfl⟩⟩

theorem blockMiss (s : State) (cmp : Bool) (key : Nat) : s.Quiet (s.blockMiss cmp key).2 := by
  unfold State.blockMiss
  split
  · exact .refl s
  · dsimp only
    split <;> exact ⟨⟨rfl, rfl⟩, fun h => ⟨h, rfl⟩⟩

theorem l1Fill (s : State) (key : Nat) : s.Quiet (s.l1Fill key) := by
  have hr := readHome s s.who.code (l1Line key) 128
  unfold State.l1Fill
  dsimp only
  split
  · exact hr
  · exact hr.trans (updTile _ _ (f := fun t => { t with l1 := AMap.put t.l1 (l1Line key) _ }) fun _ => rfl)

end State.Quiet

/-- Whatever the outcome, it leaves a state that `P` holds of. -/
def Res.Leaves {α : Type} (P : State → Prop) : Res α → Prop
  | .ok _ s => P s
  | .trap _ s => P s
  | .wait s => P s

theorem Res.Leaves.mono {α : Type} {P P' : State → Prop} {r : Res α} (h : r.Leaves P) (hp : ∀ s, P s → P' s) : r.Leaves P' := by
  cases r <;> exact hp _ h

theorem Res.Leaves.ite {α : Type} {P : State → Prop} (c : Prop) [Decidable c] {r r' : Res α} (h : r.Leaves P) (h' : r'.Leaves P) :
    (if c then r else r').Leaves P := by
  split
  · exact h
  · exact h'

theorem Res.Leaves.andThen {α β : Type} {s : State} {r : Res α} {f : α → State → Res β} (h : r.Leaves s.Quiet)
    (hf : ∀ a s', r = .ok a s' → (f a s').Leaves s'.Quiet) : (r.andThen f).Leaves s.Quiet := by
  cases r with
  | ok a s' => exact (hf a s' rfl).mono fun _ => h.trans
  | trap t s' => exact h
  | wait s' => exact h

namespace State.Quiet

theorem readPte (s : State) (src table i va : Nat) : (s.readPte src table i va).Leaves s.Quiet := by
  unfold State.readPte
  dsimp only
  split
  · split <;> exact readHome _ _ _ _
  all_goals exact refl s

theorem contOk (src table va : Nat) (e : Word) (l : List Nat) (s : State) : (s.contOk src table va e l).Leaves s.Quiet := by
  induction l generalizing s with
  | nil => exact refl s
  | cons i r ih =>
    refine (readPte s src table i va).andThen fun x u _ => ?_
    exact .ite _ (ih u) (refl u)

/-- One level of a walk, where the walks from the tables below it are known. -/
theorem walk_level (src va lvl : Nat) (below : ∀ l, lvl = l + 1 → ∀ (s : State) table, (s.walk src l table va).Leaves s.Quiet)
    (s : State) (table : Nat) : (s.walk src lvl table va).Leaves s.Quiet := by
  have trap {α : Type} (t : TrapI) (u : State) : (Res.trap t u : Res α).Leaves u.Quiet := refl u
  rw [State.walk.eq_def]
  refine (readPte s _ _ _ _).andThen fun e u _ => ?_
  refine .ite _ (trap _ u) (.ite _ (.ite _ (trap _ u) (.ite _ (trap _ u) ?_)) (.ite _ (trap _ u) ?_))
  · refine Res.Leaves.andThen (.ite _ (contOk _ _ _ _ _ u) (refl u)) fun ok v _ => ?_
    exact .ite _ (trap _ v) (refl v)
  · split
    · exact trap _ u
    · exact below _ rfl u _

theorem walk (src va lvl table : Nat) (s : State) : (s.walk src lvl table va).Leaves s.Quiet := by
  induction lvl generalizing s table with
  | zero => exact walk_level src va 0 (fun l h => absurd h (Nat.succ_ne_zero l).symm) s table
  | succ l ih => exact walk_level src va (l + 1) (fun l' h u tab => by obtain rfl := Nat.succ.inj h; exact ih tab u) s table

theorem translate (s : State) (a : Agent) (sp : Space) (va : Nat) (k : AccKind) (atM : Bool) :
    (s.translate a sp va k atM).Leaves s.Quiet := by
  unfold State.translate
  dsimp only
  split
  · exact refl s
  · split
    · repeat' split
      all_goals exact refl s
    · split
      · split <;> exact refl s
      · refine (walk _ _ _ _ s).andThen fun e u _ => ?_
        split <;> exact addTlb u a _

theorem cPart (s : State) (va n : Nat) (write : Bool) : (s.cPart va n write).Leaves s.Quiet := by
  refine (translate s _ _ _ _ _).andThen fun x u _ => ?_
  dsimp only
  split <;> exact refl u

theorem cParts (write : Bool) (l : List (Nat × Nat)) (s : State) : (s.cParts write l).Leaves s.Quiet := by
  induction l generalizing s with
  | nil => exact refl s
  | cons x r ih => exact (cPart s x.1 x.2 write).andThen fun p u _ => (ih u).andThen fun ps v _ => refl v

theorem cPartRules (s : State) (write : Bool) (p : CPart) : (s.cPartRules write p).Leaves s.Quiet := by
  unfold State.cPartRules State.cWindow
  dsimp only
  repeat' split
  all_goals exact refl s

theorem cRules (write : Bool) (l : List CPart) (s : State) : (s.cRules write l).Leaves s.Quiet := by
  induction l generalizing s with
  | nil => exact refl s
  | cons p r ih => exact (cPartRules s write p).andThen fun _ u _ => ih u

theorem cCheck (s : State) (ea : Word) (n : Nat) (write aligned : Bool) : (s.cCheck ea n write aligned).Leaves s.Quiet := by
  unfold State.cCheck
  split
  · exact refl s
  · split
    · exact refl s
    · refine (cParts write _ s).andThen fun ps u _ => (cRules write ps u).andThen fun _ v _ => ?_
      split <;> exact refl v

end State.Quiet

end Sys2Proof.Machine

/-! SUPPORT. Loads and prefetches (R155 to R160): what LD, LDS and LDA answer for each outcome of the checks and reads of the C path. -/

namespace Sys2Proof.Machine

/-- The effective address takes the immediate in force (R112, R155). -/
theorem State.ea_eq (s : State) (x : Reg) (off : BitVec 14) : s.ea x off = s.g x + s.immSigned off := by
  rw [State.ea, State.simm_eq]

theorem State.runImm_eq {n : Nat} (s : State) (imm : BitVec n) (scp : Bool) (body : State → Res Flow) :
    s.runImm imm.toNat scp body = s.run (decide (imm = 0)) scp body := by
  rw [State.runImm, decide_toNat_zero]

/-! ### A load -/

section
variable {s s1 s2 : State} {d x : Reg} {sz : BitVec 2} {off : BitVec 14} {acq : Bool} {ext : Nat → Word} {ps : List CPart}
  {bs : List Byte} {t : TrapI} (hp : s.pfxOk (decide (off = 0)) true)
include hp

/-- A load whose parts have been read writes their value. -/
theorem State.loadTo_done (hc : s.cCheck (s.g x + s.immSigned off) (szBytes sz) false acq = .ok ps s1)
    (hr : s1.cReads (acq && ps.all (fun p => decide (p.kind = .rc))) ps = .ok bs s2) : s.loadTo d x sz off acq ext =
      .next (((if acq && ps.all (fun p => decide (p.kind = .rc)) then s2.l1Drop else s2).setG d (ext (ofBytes bs))).finish .seq) := by
  rw [State.loadTo, State.runImm_eq]
  refine State.run_done hp ?_
  simp only [State.ea_eq, State.cLoad, hc, hr, Res.andThen_ok]

theorem State.loadTo_check (hc : s.cCheck (s.g x + s.immSigned off) (szBytes sz) false acq = .trap t s1) :
    s.loadTo d x sz off acq ext = .next (s1.raise t) := by
  rw [State.loadTo, State.runImm_eq]
  refine State.run_raises hp ?_
  simp only [State.ea_eq, State.cLoad, hc, Res.andThen_trap]

variable (hc : s.cCheck (s.g x + s.immSigned off) (szBytes sz) false acq = .ok ps s1)
include hc

theorem State.loadTo_read (hr : s1.cReads (acq && ps.all (fun p => decide (p.kind = .rc))) ps = .trap t s2) :
    s.loadTo d x sz off acq ext = .next (s2.raise t) := by
  rw [State.loadTo, State.runImm_eq]
  refine State.run_raises hp ?_
  simp only [State.ea_eq, State.cLoad, hc, hr, Res.andThen_ok, Res.andThen_trap]

theorem State.loadTo_wait (hr : s1.cReads (acq && ps.all (fun p => decide (p.kind = .rc))) ps = .wait s2) :
    s.loadTo d x sz off acq ext = .next s2.waitsIn := by
  rw [State.loadTo, State.runImm_eq]
  refine State.run_holds hp ?_
  simp only [State.ea_eq, State.cLoad, hc, hr, Res.andThen_ok]
  rfl

end

/-! ### A prefetch -/

/-- A prefetch does no more than a check and the fill of a line. -/
theorem State.Quiet.prefetch (s : State) (ea : Word) : s.Quiet (s.prefetch ea) := by
  have hc := State.Quiet.cCheck s ea 1 false false
  unfold State.prefetch
  cases h : s.cCheck ea 1 false false with
  | trap t u => rw [h] at hc; exact hc
  | wait u => exact .refl s
  | ok ps u =>
    rw [h] at hc
    have hm (p : CPart) : s.Quiet (u.blockMiss p.cmp p.key).2 := State.Quiet.trans hc (State.Quiet.blockMiss _ _ _)
    dsimp only
    split
    · rename_i p v e
      obtain ⟨rfl, rfl⟩ := Res.ok.inj e
      split
      · exact hc
      · split
        · exact hm p
        · exact (hm p).trans (State.Quiet.l1Fill _ _)
    · rename_i e
      obtain ⟨rfl, rfl⟩ := Res.ok.inj e
      exact hc
    · contradiction
    · contradiction

/-- Settles O30: a load follows the outcome of its checks and reads; a prefetch leaves what they may leave. -/
theorem memoryLoads : Obligations.MemoryLoads := by
  unfold Obligations.MemoryLoads
  refine ⟨fun s d x sz off _ hp => ?_, fun s x sz off _ hp => ?_⟩
  · refine ⟨fun ps s1 bs s2 hc hr => ⟨State.loadTo_done hp hc hr, ?_⟩, fun ps s1 bs s2 hc hr => State.loadTo_done hp hc hr,
      fun t s1 hc => ⟨State.loadTo_check hp hc, State.loadTo_check hp hc⟩, fun t s1 hc => State.loadTo_check hp hc,
      fun ps s1 t s2 hc hr => ⟨State.loadTo_read hp hc hr, State.loadTo_read hp hc hr⟩,
      fun ps s1 s2 hc hr => ⟨State.loadTo_wait hp hc hr, State.loadTo_wait hp hc hr⟩⟩
    have hw : 0 < 8 * 2 ^ sz.toNat := by positivity
    rw [← sextN_eq_toInt hw]
    exact State.loadTo_done hp hc hr
  · have hq := State.Quiet.prefetch s (s.ea x off)
    refine ⟨s.prefetch (s.ea x off), ?_, hq.core.cur, fun h => (hq.store h).2, hq.core.who⟩
    rw [exec_pfl, execPfl, State.runImm_eq]
    exact State.run_done hp rfl

end Sys2Proof.Machine

/-! SUPPORT. Stores (R155 to R158): the parts that the checks give, what their writes leave of memory, and what ST and STL answer. -/

namespace Sys2Proof.Machine

/-! ### The parts of a store -/

theorem Res.andThen_eq_ok {α β : Type} {r : Res α} {f : α → State → Res β} {b : β} {v : State} (h : r.andThen f = .ok b v) :
    ∃ a u, r = .ok a u ∧ f a u = .ok b v := by
  cases r with
  | ok a u => exact ⟨a, u, rfl, h⟩
  | trap t u => cases h
  | wait u => cases h

/-- The parts have the sizes of the pieces they come from. -/
theorem State.cParts_sizes {write : Bool} {l : List (Nat × Nat)} {s s' : State} {ps : List CPart} (h : s.cParts write l = .ok ps s') :
    ps.map CPart.n = l.map Prod.snd := by
  induction l generalizing s ps with
  | nil => cases h; rfl
  | cons x r ih =>
    obtain ⟨p, u, hp, h⟩ := Res.andThen_eq_ok h
    obtain ⟨qs, v, hq, h⟩ := Res.andThen_eq_ok h
    cases h
    rw [List.map_cons, List.map_cons, State.cPart_n hp, ih hq]

/-- A part of this package is never the join of two. -/
theorem CPart.join_single {ps : List CPart} {p : CPart} (h : CPart.join ps = [p]) (hf : p.far = none) : ps = [p] := by
  unfold CPart.join at h
  split at h
  · split at h
    · rename_i a b hj
      obtain rfl := List.singleton_inj.mp h
      rw [show a.far = none from hf] at hj
      cases hj.1
    · cases h
  · exact h

/-- An access of at most 8 bytes that has one part, in this package, has it whole. -/
theorem State.cCheck_single {s s1 : State} {ea : Word} {n : Nat} {write al : Bool} {p : CPart} (h0 : 0 < n) (h8 : n ≤ 8)
    (hf : p.far = none) (h : s.cCheck ea n write al = .ok [p] s1) : p.n = n := by
  by_cases hr : 2 ^ 57 ≤ ea.toNat ∨ 2 ^ 57 < ea.toNat + n
  · rw [State.cCheck_range hr] at h
    cases h
  by_cases ha : al = true → ea.toNat % n = 0
  case neg =>
    obtain ⟨rfl, hne⟩ := Classical.not_imp.mp ha
    rw [State.cCheck_misaligned hr hne] at h
    cases h
  rw [State.cCheck_translates hr ha] at h
  obtain ⟨ps, u, hps, h⟩ := Res.andThen_eq_ok h
  obtain ⟨_, v, _, h⟩ := Res.andThen_eq_ok h
  have hone : ps = [p] := by
    unfold partsOr at h
    split at h
    · cases h
    · obtain ⟨e, _⟩ := Res.ok.inj h
      cases write with
      | true => exact CPart.join_single e hf
      | false => exact e
  have hn := State.cParts_sizes hps
  rw [hone] at hn
  rcases pieces_small ea.toNat h0 h8 with ⟨_, e⟩ | ⟨_, m, _, _, e⟩
  · rw [e] at hn
    exact List.singleton_inj.mp hn
  · rw [e] at hn
    cases hn

/-! ### What the writes leave of memory -/

/-- Memory after the writes of the parts of a store. -/
def Memory.setParts (m : Memory) (xs : List (CPart × List Byte)) : Memory := xs.foldl (fun m x => m.setN x.1.key x.2) m

theorem Memory.setParts_wf {xs : List (CPart × List Byte)} {m : Memory} (w : m.wf = true) : (m.setParts xs).wf = true := by
  induction xs generalizing m with
  | nil => exact w
  | cons x r ih => exact ih (Memory.setN_wf x.2 m x.1.key w)

theorem Memory.get_setParts_other {xs : List (CPart × List Byte)} {m : Memory} {k : Nat} (w : m.wf = true)
    (h : ∀ x ∈ xs, k < x.1.key ∨ x.1.key + x.2.length ≤ k) : (m.setParts xs).get k = m.get k := by
  induction xs generalizing m with
  | nil => rfl
  | cons x r ih =>
    exact (ih (Memory.setN_wf x.2 m x.1.key w) (fun y hy => h y (List.mem_cons_of_mem _ hy))).trans
      (Memory.get_setN_other x.2 m x.1.key k w (h x List.mem_cons_self))

theorem length_cSplit {ps : List CPart} {bs : List Byte} {x : CPart × List Byte} (h : x ∈ cSplit ps bs) : x.2.length ≤ x.1.n := by
  induction ps generalizing bs with
  | nil => cases h
  | cons p r ih =>
    rcases List.mem_cons.mp h with rfl | h
    · exact List.length_take_le _ _
    · exact ih h

/-! ### A store -/

section
variable {s s1 : State} {d x : Reg} {sz : BitVec 2} {off : BitVec 14} {rel : Bool} (hp : s.pfxOk (decide (off = 0)) true)
include hp

theorem State.storeFrom_check {t : TrapI} (hc : s.cCheck (s.g x + s.immSigned off) (szBytes sz) true rel = .trap t s1) :
    s.storeFrom d x sz off rel = .next (s1.raise t) := by
  rw [State.storeFrom, State.runImm_eq]
  refine State.run_raises hp ?_
  simp only [State.ea_eq, State.cStore, hc, Res.andThen_trap]

theorem State.storeFrom_done {s2 : State} {ps : List CPart} (hc : s.cCheck (s.g x + s.immSigned off) (szBytes sz) true rel = .ok ps s1)
    (hw : s1.cWrites (leBytes (szBytes sz) (s.g d).toNat) ps = .ok () s2) : s.storeFrom d x sz off rel = .next (s2.finish .seq) := by
  rw [State.storeFrom, State.runImm_eq]
  refine State.run_done hp ?_
  simp only [State.ea_eq, State.cStore, hc, hw, Res.andThen_ok]

end

/-- Settles O32: the checks leave registers and memory, and the parts of this package are written once each. -/
theorem memoryStores : Obligations.MemoryStores := by
  unfold Obligations.MemoryStores
  intro s d x sz off _ hp ea n stores
  obtain ⟨h0, h8⟩ := szBytes_bounds sz
  suffices h : ∀ al, stores (s.storeFrom d x sz off al) al from ⟨h false, h true⟩
  refine fun al => ⟨fun ps s1 hc hfar hbad hwf => ?_, fun t s1 hc => ⟨State.storeFrom_check hp hc, fun hs => ?_⟩⟩
  · have hq := State.Quiet.cCheck s ea n true al
    rw [hc] at hq
    obtain ⟨s2, hw, hb⟩ := s1.cWrites_near hbad hfar (leBytes n (s.g d).toNat)
    have hm : s2.mem = s1.mem.setParts (cSplit ps (leBytes n (s.g d).toNat)) := hb.mem
    have hcur : s2.cur = s1.cur := hb.cur
    refine ⟨s2, State.storeFrom_done hp hc hw, hcur, by rw [hcur, hq.core.regs], by rw [hcur, hq.core.preds], ?_, fun hs => (hq.store hs).2,
      fun k hk => ?_, fun p he => ?_⟩
    · rw [hm]
      exact Memory.setParts_wf hwf
    · rw [hm]
      refine Memory.get_setParts_other hwf fun y hy => ?_
      have hl := length_cSplit hy
      have := hk y.1 (mem_cSplit hy)
      omega
    · subst he
      have hn : p.n = n := State.cCheck_single h0 h8 (hfar p List.mem_cons_self) hc
      have ht : (leBytes n (s.g d).toNat).take p.n = leBytes n (s.g d).toNat := by
        rw [hn, List.take_of_length_le (by rw [length_leBytes])]
      have hset := Memory.getN_setN (leBytes n (s.g d).toNat) s1.mem p.key hwf
      rw [length_leBytes] at hset
      rw [hm]
      simp only [cSplit, ht]
      exact hset
  · have hq := State.Quiet.cCheck s ea n true al
    rw [hc] at hq
    exact (hq.store hs).2

end Sys2Proof.Machine

/-! SUPPORT. Waiting and synchronisation (R168 to R193): an instruction of the tile alone at a plain place, and the tokens and tags
that it waits for. -/

namespace Sys2Proof.Machine

/-! ### An instruction of a tile -/

section
variable {s u : State} {k : Nat} {body : State → Res Flow} (ho : s.onTile k) (hp : s.cur.pfx = none)
include ho hp

/-- On a tile, with no prefix, an instruction of the tile leaves the stream as its body says. -/
theorem State.tileOnly_done {f : Flow} (hb : body s = .ok f u) : s.tileOnly body = .next (u.finish f) :=
  State.run_done (s.pfxOk_none _ _ hp) (by simp only [ho.onCore, Bool.false_eq_true, if_false, hb])

theorem State.tileOnly_seq {a : CodeAddr} (hb : body s = .ok .seq u) (ha : u.plainAt a) : s.tileOnly body = .next (u.goneTo a) :=
  (State.tileOnly_done ho hp hb).trans (congrArg _ (u.finish_seq a ha))

theorem State.tileOnly_raises {t : TrapI} (hb : body s = .trap t u) : s.tileOnly body = .next (u.raise t) :=
  State.run_raises (s.pfxOk_none _ _ hp) (by simp only [ho.onCore, Bool.false_eq_true, if_false, hb])

theorem State.tileOnly_holds (hb : body s = .wait u) : s.tileOnly body = .next u.waitsIn :=
  State.run_holds (s.pfxOk_none _ _ hp) (by simp only [ho.onCore, Bool.false_eq_true, if_false, hb])

end

/-! ### Masks of tags (R36) -/

theorem Tile.busyTags_eq_zero (t : Tile) (m : Word) : t.busyTags m = 0 ↔ ∀ i < 64, m.getLsbD i = true → t.tagCount i = 0 := by
  simp [Tile.busyTags, bit, List.filter_eq_nil_iff]

/-- The tags of a mask that have an outstanding count are fewer than the mask's exactly where one has none. -/
theorem Tile.busyTags_lt_popc (t : Tile) (m : Word) :
    t.busyTags m < popc 64 m.toNat ↔ ∃ i < 64, m.getLsbD i = true ∧ t.tagCount i = 0 := by
  have hsplit : popc 64 m.toNat = t.busyTags m + (List.range 64).countP (fun i => m.getLsbD i && !decide (t.tagCount i ≠ 0)) := by
    rw [popc_eq_countP, Tile.busyTags, ← List.countP_eq_length_filter,
      List.countP_eq_countP_filter_add _ _ (fun i => decide (t.tagCount i ≠ 0)), List.countP_filter, List.countP_filter]
    simp [bit, BitVec.testBit_toNat]
  rw [hsplit, Nat.lt_add_right_iff_pos, List.countP_pos_iff]
  simp

/-- No tag of a mask is left exactly where all of them are ready. -/
theorem Word.and_not_ready {m t : Word} : (m &&& ~~~(t &&& m) = 0) ↔ t &&& m = m := by
  simp only [BitVec.eq_of_getLsbD_eq_iff, BitVec.getLsbD_and, BitVec.getLsbD_not]
  refine forall₂_congr fun i hi => ?_
  cases m.getLsbD i <;> cases t.getLsbD i <;> simp [hi]

theorem Word.getLsbD_left (m t : Word) {i : Nat} (hi : i < 64) :
    (m &&& ~~~(t &&& m)).getLsbD i = true ↔ m.getLsbD i = true ∧ t.getLsbD i = false := by
  simp only [BitVec.getLsbD_and, BitVec.getLsbD_not]
  cases m.getLsbD i <;> cases t.getLsbD i <;> simp [hi]

/-- The trailing zeros of a number end at its least one. -/
theorem ctzN_eq {f v i : Nat} (hf : i < f) (h1 : v.testBit i = true) (h0 : ∀ j < i, v.testBit j = false) : ctzN f v = i := by
  induction i generalizing f v with
  | zero =>
    obtain ⟨f, rfl⟩ := Nat.exists_eq_succ_of_ne_zero (by omega : f ≠ 0)
    rw [ctzN, if_pos (by simpa using h1)]
  | succ i ih =>
    obtain ⟨f, rfl⟩ := Nat.exists_eq_succ_of_ne_zero (by omega : f ≠ 0)
    have hv : ¬ v % 2 = 1 := by simpa using h0 0 (by omega)
    rw [ctzN, if_neg hv, ih (by omega) (by rwa [← Nat.testBit_succ]) (fun j hj => by
      rw [← Nat.testBit_succ]; exact h0 (j + 1) (by omega)), Nat.add_comm]

/-! ### Tokens and tags (R173 to R176) -/

/-- Settles O39: each instruction follows the count of its FIFO, or the ready bits and outstanding counts of its mask. -/
theorem tokensAndTags : Obligations.TokensAndTags := by
  unfold Obligations.TokensAndTags
  intro s k d x n a ho ha hp t m r count done
  have waits {body : State → Res Flow} (hb : body s = .wait s) : s.tileOnly body = .next s.waitsIn := State.tileOnly_holds ho hp hb
  have writes {body : State → Res Flow} {v : Word} (hb : body s = .ok .seq (s.setG d v)) : s.tileOnly body = done s v :=
    State.tileOnly_seq ho hp hb (State.plainAt_setG s d v a ha)
  have dead {body : State → Res Flow} (hb : body s = .trap (TrapI.mk3 14 0 m) s) :
      s.tileOnly body = .next (s.raise (TrapI.mk3 14 0 m)) := State.tileOnly_raises ho hp hb
  have hcount (i : Nat) : t.tagCount i = count i := by
    simp only [Tile.tagCount, bitsN, count, show 8 * i + 7 + 1 - 8 * i = 8 by omega]
    rfl
  have hall : t.busyTags m = 0 ↔ ∀ i < 64, m.getLsbD i = true → count i = 0 := by simp only [Tile.busyTags_eq_zero, hcount]
  have hleft : t.busyTags (m &&& ~~~r) < popc 64 (m &&& ~~~r).toNat ↔
      ∃ i < 64, m.getLsbD i = true ∧ t.tags.getLsbD i = false ∧ count i = 0 := by
    rw [Tile.busyTags_lt_popc]
    refine exists_congr fun i => and_congr_right fun hi => ?_
    rw [Word.getLsbD_left m t.tags hi, hcount, and_assoc]
  have hleft0 : m &&& ~~~r = 0 ↔ r = m := Word.and_not_ready
  have least {i : Nat} (hi : i < 64) (h1 : r.getLsbD i = true) (h0 : ∀ j < i, r.getLsbD j = false) : ctzN 64 r.toNat = i :=
    ctzN_eq hi (by rwa [BitVec.testBit_toNat]) (fun j hj => by rw [BitVec.testBit_toNat]; exact h0 j hj)
  simp only [exec_tokw, exec_tagwa, exec_tagwl, exec_tagff, exec_tagclr]
  refine ⟨fun f c hc => ?_, fun h => ?_, fun hm hr hd => ?_, fun hr hb => ?_, fun h => ?_, fun h => ?_, fun hr hb => ?_, fun hr c => ?_,
    fun i hi h1 h0 => ?_, ?_⟩
  · have hf : c = s.me.fifo f := by rw [hc, ho.me]; cases f <;> rfl
    subst hf
    refine ⟨fun h p => waits (if_pos h), fun h => ⟨writes (if_neg (Nat.not_lt.mpr h)), ?_⟩⟩
    refine State.tileOnly_seq ho hp ((if_neg (Nat.not_lt.mpr h)).trans ?_) (State.plainAt_setG _ d _ a (State.plainAt_updMe ha ho _ ?_ ?_))
    all_goals cases f <;> rfl
  · exact writes (by simp only [ho.me]; exact if_pos h)
  · exact dead (by simp only [ho.me]; rw [if_neg (by tauto), if_pos (hall.mpr hd)])
  · obtain ⟨i, hi, h1, h2⟩ := hb
    have hm : m ≠ 0 := fun e => by simp [e] at h1
    have hn : ¬ t.busyTags m = 0 := fun e => h2 (hall.mp e i hi h1)
    exact waits (by simp only [ho.me]; rw [if_neg (by tauto), if_neg hn])
  · exact writes (by simp only [ho.me]; exact if_pos (hleft0.mpr h))
  · have hn : ¬ m &&& ~~~r = 0 := fun e => by
      obtain ⟨i, _, h1, h2, _⟩ := h
      rw [← hleft0.mp e, BitVec.getLsbD_and, h2] at h1
      exact Bool.false_ne_true h1
    exact dead (by simp only [ho.me]; rw [if_neg hn, if_pos (hleft.mpr h)])
  · have hn : ¬ ∃ i < 64, m.getLsbD i = true ∧ t.tags.getLsbD i = false ∧ count i = 0 := fun ⟨i, hi, h1, h2, h3⟩ => hb i hi h1 h2 h3
    exact waits (by simp only [ho.me]; rw [if_neg (mt hleft0.mp hr), if_neg (mt hleft.mp hn)])
  · have hz : ctzN 64 ((s.tile k).tags &&& s.g x).toNat = 64 := by rw [show (s.tile k).tags &&& s.g x = 0 from hr]; exact ctzN_zero 64
    exact writes (by simp only [ho.me, hz, lt_irrefl, decide_false, Bool.and_false, Bool.false_eq_true, if_false]; rfl)
  · have hz : ctzN 64 ((s.tile k).tags &&& s.g x).toNat = i := least hi h1 h0
    refine ⟨writes (by simp only [ho.me, hz, Bool.false_and, Bool.false_eq_true, if_false]), ?_⟩
    refine State.tileOnly_seq ho hp ?_ (State.plainAt_setG _ d _ a (State.plainAt_updMe ha ho _ rfl rfl))
    simp only [ho.me, hz, hi, decide_true, Bool.true_and, if_true]
    rfl
  · exact State.tileOnly_seq ho hp rfl (State.plainAt_updMe ha ho _ rfl rfl)

end Sys2Proof.Machine

/-! SUPPORT. QDRAIN (R189): its words, and its wait for the masked queues. -/

namespace Sys2Proof.Machine

theorem wf_qdrain (m : BitVec 3) : (Instr.qdrain m).wf = decide (m ≠ 0) := by
  have he : (Instr.qdrain m).isEvent = false := rfl
  have hc : (Instr.qdrain m).controlRule = decide (m ≠ 0) := rfl
  have hf : (Instr.qdrain m).fieldRule = true := rfl
  have hs : (Instr.qdrain m).streamRule = true := rfl
  rw [Instr.wf, he, hc, hf, hs, Bool.and_true, Bool.and_true, Bool.not_false, Bool.true_and]

/-- The words of major 0x1C with FN 0x0C, by their fields. -/
theorem decode_qdrain {w d x arg : Nat} (hm : bitsN w 31 26 = 0x1C) (hf : bitsN w 5 0 = 0x0C) (hd : bitsN w 25 21 = d)
    (hx : bitsN w 20 16 = x) (ha : bitsN w 15 6 = arg) : decode w 0 =
      if d + x + arg / 8 = 0 then if (BitVec.ofNat 3 arg) ≠ 0 then .ok (.qdrain (BitVec.ofNat 3 arg)) else .error .reservedForm
      else .error .nonZeroField := by
  have hp : parse w 0 = need (d + x + arg / 8) (.qdrain (BitVec.ofNat 3 arg)) := by
    rw [parse, hm, parseSync, hf, hd, hx, ha]
    rfl
  rw [decode, hp, need]
  by_cases hz : d + x + arg / 8 = 0
  · simp only [hz, if_true, wf_qdrain, decide_eq_true_eq]
  · simp only [hz, if_false]

theorem Queue.drained_iff (x : Queue) : x.drained = true ↔ ∀ e ∈ x.ents, e.st = .done := by
  simp [Queue.drained]

/-- Settles O41: the fields of the word decide the decoding; the masked queues decide the wait. -/
theorem queueDrain : Obligations.QueueDrain := by
  unfold Obligations.QueueDrain
  constructor
  · intro d x arg w
    have hd := d.isLt
    have hx := x.isLt
    have harg := arg.isLt
    have hdec := decode_qdrain (w := w) (d := d.toNat) (x := x.toNat) (arg := arg.toNat) (by simp only [bitsN, w]; omega)
      (by simp only [bitsN, w]; omega) (by simp only [bitsN, w]; omega) (by simp only [bitsN, w]; omega) (by simp only [bitsN, w]; omega)
    rw [hdec]
    have hz : d.toNat + x.toNat + arg.toNat / 8 = 0 ↔ d = 0 ∧ x = 0 ∧ arg.toNat < 8 := by
      rw [← BitVec.toNat_inj, ← BitVec.toNat_inj]
      show _ ↔ d.toNat = 0 ∧ x.toNat = 0 ∧ _
      omega
    have hmask (h8 : arg.toNat < 8) : (BitVec.ofNat 3 arg.toNat ≠ 0) ↔ 0 < arg.toNat := by
      rw [ne_eq, ← BitVec.toNat_inj, BitVec.toNat_ofNat]
      show ¬ arg.toNat % 8 = 0 ↔ _
      omega
    refine ⟨fun h1 h2 h3 h4 => by rw [if_pos (hz.mpr ⟨h1, h2, h4⟩), if_pos ((hmask h4).mpr h3)], fun h => ?_⟩
    by_cases h8 : d.toNat + x.toNat + arg.toNat / 8 = 0
    · obtain ⟨h1, h2, h4⟩ := hz.mp h8
      have h3 : ¬ 0 < arg.toNat := fun h3 => h ⟨h1, h2, h3, h4⟩
      rw [if_pos h8, if_neg (mt (hmask h4).mp h3)]
      exact ⟨_, rfl⟩
    · rw [if_neg h8]
      exact ⟨_, rfl⟩
  · intro s k m a ho ha hp t done all
    have hall : ((!bit m 0 || (s.me.queue .l).drained) && (!bit m 1 || (s.me.queue .x).drained) &&
        (!bit m 2 || (s.me.queue .s).drained)) = true ↔ all := by
      have hq (q : Queue) (b : Bool) : (!b || q.drained) = true ↔ (b = true → ∀ e ∈ q.ents, e.st = .done) := by
        rw [← Queue.drained_iff]
        cases b <;> simp
      rw [ho.me, Bool.and_eq_true, Bool.and_eq_true, hq, hq, hq, and_assoc]
      rfl
    rw [exec_qdrain, execQdrain]
    exact ⟨fun h => State.tileOnly_seq ho hp (if_pos (hall.mpr h)) ha, fun h => State.tileOnly_holds ho hp (if_neg (mt hall.mp h))⟩

end Sys2Proof.Machine

/-! SUPPORT. Fences, batches and the waits for a queue (R183 to R193), WFE (R309): what each waits for, and what it leaves. -/

namespace Sys2Proof.Machine

theorem State.scope_in_force (s : State) (dflt : Scope) : s.scope dflt = (s.cur.pfx.bind (fun p => p.scp)).getD dflt := by
  unfold State.scope
  cases s.cur.pfx <;> rfl

/-! ### What a fence waits for (R184, R328) -/

/-- Nothing that a queue sent is left to be performed. -/
theorem State.unanswered_iff (s : State) (k : Nat) (q : Q) (all : Bool) : s.unanswered k q all = false ↔
    ∀ p ∈ s.net, p.src = .tile k → p.tcc = false → p.q = q → (all = true ∨ p.uo = false) → p.typ.undone = false := by
  simp only [State.unanswered, List.any_eq_false, Bool.not_eq_true]
  refine forall₂_congr fun p _ => ?_
  by_cases h1 : p.src = .tile k <;> by_cases h2 : p.q = q <;> cases p.tcc <;> cases p.uo <;> cases all <;> simp [h1, h2]

theorem State.fenced_iff (s : State) (k : Nat) (all : Bool) (q : Q) : s.fenced k all q = true ↔
    ((∀ e ∈ ((s.tile k).queue q).ents, e.st = .done ∨ s.fenceSkips k all e = true) ∧ s.unanswered k q all = false) ∧
    (q = .x → ∀ y ∈ (s.tile k).mxe.tickets.toList, y.reads all = false) := by
  simp only [State.fenced, Bool.and_eq_true, Bool.or_eq_true, List.all_eq_true, decide_eq_true_eq, Bool.not_eq_true']
  by_cases h : q = .x <;> simp [h]

/-- Every queue that a path mask names. -/
theorem maskQueues_all (m : BitVec 6) (f : Q → Bool) : (maskQueues m).all f = true ↔
    (m.getLsbD 1 = true → f .l = true) ∧ (m.getLsbD 2 = true → f .s = true) ∧ (m.getLsbD 3 = true → f .x = true) := by
  simp only [maskQueues, bit, List.all_append, Bool.and_eq_true, and_assoc]
  by_cases h1 : m.getLsbD 1 = true <;> by_cases h2 : m.getLsbD 2 = true <;> by_cases h3 : m.getLsbD 3 = true <;> simp [h1, h2, h3]

/-- What a fence that is done leaves: a scope wider than tile empties L1 for path C (R313). -/
def State.fenceDone (s : State) (tom : BitVec 6) (sc : Scope) : State := if bit tom 0 && decide (sc ≠ .tile) then s.l1Drop else s

/-- The flags that a fence waits for: those that the tile held when it began. -/
def State.fenceFlags (s : State) (frm : BitVec 6) : List Nat :=
  if !maskOutside frm then [] else if s.cur.waiting then s.cur.fenceOn else s.me.held.map (fun h => h.rid)

theorem State.fenceFlags_eq (s : State) (frm : BitVec 6) : s.fenceFlags frm =
    if frm.getLsbD 4 = true ∨ frm.getLsbD 5 = true then (if s.cur.waiting = true then s.cur.fenceOn else s.me.held.map (fun h => h.rid))
    else [] := by
  have ho : maskOutside frm = true ↔ frm.getLsbD 4 = true ∨ frm.getLsbD 5 = true := Bool.or_eq_true_iff
  rw [State.fenceFlags]
  by_cases h : maskOutside frm = true
  · rw [if_pos (ho.mp h), h]
    rfl
  · rw [if_neg (mt ho.mpr h), Bool.eq_false_iff.mpr h]
    rfl

/-- A fence has nothing to wait for. -/
def State.fenceMet (s : State) (frm tom : BitVec 6) (sc : Scope) : Bool :=
  frm = 0 || tom = 0 || s.onCore || ((maskQueues frm).all (s.fenced s.gid (decide (sc = .domain))) &&
    !s.me.held.any (fun h => (s.fenceFlags frm).contains h.rid))

theorem State.fence_eq (s : State) (frm tom : BitVec 6) (sc : Scope) : s.fence frm tom sc =
    if s.fenceMet frm tom sc then .ok .seq (s.fenceDone tom sc)
    else .wait (s.updCur (fun c => { c with fenceOn := s.fenceFlags frm })) := by
  simp only [State.fence, State.fenceMet, Bool.or_eq_true, decide_eq_true_eq, or_assoc]
  rfl

theorem State.fenceMet_core {s : State} (hc : s.onCore = true) (frm tom : BitVec 6) (sc : Scope) : s.fenceMet frm tom sc = true := by
  simp [State.fenceMet, hc]

/-- A fence from path C alone has nothing to wait for. -/
theorem State.fenceMet_fence (s : State) (sc : Scope) : s.fenceMet 1 1 sc = true := by
  have hq : maskQueues 1 = [] := by decide
  have ho : maskOutside 1 = false := by decide
  rw [State.fenceMet, State.fenceFlags, hq, ho]
  simp

theorem State.fenceDone_core {s : State} (hc : s.onCore = true) (tom : BitVec 6) (sc : Scope) : s.fenceDone tom sc = s := by
  simp [State.fenceDone, State.l1Drop, hc]

theorem State.onTile.fenceDone {s : State} {k : Nat} (ho : s.onTile k) (tom : BitVec 6) (sc : Scope) : s.fenceDone tom sc =
    if tom.getLsbD 0 = true ∧ sc ≠ .tile then s.updMe (fun t => { t with l1 := [] }) else s := by
  simp [State.fenceDone, State.l1Drop, ho.onCore, bit]

theorem State.onTile.fenceDone_plainAt {s : State} {k : Nat} {a : CodeAddr} (ho : s.onTile k) (ha : s.plainAt a) (tom : BitVec 6)
    (sc : Scope) : (s.fenceDone tom sc).plainAt a := by
  rw [ho.fenceDone]
  split
  · exact State.plainAt_updMe ha ho _ rfl rfl
  · exact ha

theorem State.onTile.fenceMet {s : State} {k : Nat} (ho : s.onTile k) (frm tom : BitVec 6) (sc : Scope) :
    s.fenceMet frm tom sc = true ↔ frm = 0 ∨ tom = 0 ∨
      ((frm.getLsbD 1 = true → s.fenced k (decide (sc = .domain)) .l = true) ∧
       (frm.getLsbD 2 = true → s.fenced k (decide (sc = .domain)) .s = true) ∧
       (frm.getLsbD 3 = true → s.fenced k (decide (sc = .domain)) .x = true) ∧
       ∀ h ∈ (s.tile k).held, h.rid ∉ s.fenceFlags frm) := by
  simp only [State.fenceMet, ho.onCore, ho.gid, ho.me, Bool.or_eq_true, Bool.and_eq_true, decide_eq_true_eq, maskQueues_all, and_assoc,
    Bool.not_eq_true', List.any_eq_false, List.contains_iff_mem, Bool.false_eq_true, or_false, or_assoc]

/-! ### Batches (R187, R188) -/

/-- A tile whose open batch has become the newest of the outstanding ones. -/
def Tile.withBatches (bs : List (List (Q × Word))) (t : Tile) : Tile := { t with openBatch := [], batches := bs }

theorem State.bclose_full {s : State} {k : Nat} (ho : s.onTile k)
    (h : (s.tile k).openBatch ≠ [] ∧ 16 ≤ (s.openBatches k (s.tile k).batches).length) : s.bclose = none := by
  rw [State.bclose_eq ho h.1, if_pos h.2]

theorem State.bclose_closes {s : State} {k : Nat} (ho : s.onTile k)
    (h : ¬ ((s.tile k).openBatch ≠ [] ∧ 16 ≤ (s.openBatches k (s.tile k).batches).length)) :
    s.bclose = some ((s.tile k).withBatches (if (s.tile k).openBatch = [] then s.openBatches k (s.tile k).batches
      else s.openBatches k (s.openBatches k (s.tile k).batches ++ [(s.tile k).openBatch]))) := by
  by_cases he : (s.tile k).openBatch = []
  · rw [if_pos he]
    unfold State.bclose Tile.withBatches
    simp only [ho.me, ho.gid, he, List.isEmpty_nil, if_true]
  · rw [if_neg he, State.bclose_eq ho he, if_neg (fun h16 => h ⟨he, h16⟩)]
    rfl

theorem State.onTile.updMe_const {s : State} {k : Nat} (ho : s.onTile k) (f : Tile → Tile) :
    s.updMe (fun _ => f (s.tile k)) = s.updMe f := by
  simp only [State.updMe, State.updTile, ho.gid]

/-! ### At a plain place -/

/-- A fence on a tile goes on once it has nothing to wait for. -/
theorem State.onTile.run_fence {s : State} {k : Nat} {a : CodeAddr} (ho : s.onTile k) (ha : s.plainAt a) (hp : s.pfxOk false true)
    (frm tom : BitVec 6) (sc : State → Scope) : s.run false true (fun s => s.fence frm tom (sc s)) =
      if s.fenceMet frm tom (sc s) then .next ((s.fenceDone tom (sc s)).goneTo a)
      else .next (s.updCur (fun c => { c with fenceOn := s.fenceFlags frm })).waitsIn := by
  by_cases h : s.fenceMet frm tom (sc s) = true
  · rw [if_pos h, State.run_done hp ((s.fence_eq _ _ _).trans (if_pos h)), State.finish_seq _ a (ho.fenceDone_plainAt ha _ _)]
  · rw [if_neg h, State.run_holds hp ((s.fence_eq _ _ _).trans (if_neg h))]

/-- No fence holds a management core up. -/
theorem State.run_fence_core {s : State} {a : CodeAddr} (hc : s.onCore = true) (ha : s.plainAt a) (hp : s.pfxOk false true)
    (frm tom : BitVec 6) (sc : State → Scope) : s.run false true (fun s => s.fence frm tom (sc s)) = .next (s.goneTo a) := by
  rw [State.run_done hp ((s.fence_eq _ _ _).trans (if_pos (State.fenceMet_core hc _ _ _))), State.fenceDone_core hc, s.finish_seq a ha]

section
variable {s : State} {k : Nat} {a : CodeAddr} (ho : s.onTile k) (hp : s.cur.pfx = none) (d : Reg)
include ho hp

theorem execQseq_waits {x : Reg} {q : Q}
    (h : ((s.tile k).queue q).seq.toNat < Nat.min (s.g x).toNat ((s.tile k).queue q).isn.toNat) :
    execQseq d x q s = .next s.waitsIn :=
  State.tileOnly_holds ho hp (by simp only [ho.me, if_neg (Nat.not_le.mpr h)])

theorem execXretw_underflow (h : (s.tile k).xret = []) (hd : (s.tile k).xq.drained = true) :
    execXretw d s = .next (s.raise (TrapI.mk3 18 0 0)) :=
  State.tileOnly_raises ho hp (by simp only [ho.me, h, hd, if_true])

theorem execXretw_waits (h : (s.tile k).xret = []) (hd : ¬ (s.tile k).xq.drained = true) : execXretw d s = .next s.waitsIn :=
  State.tileOnly_holds ho hp (by simp only [ho.me, h]; exact if_neg hd)

theorem execBclose_waits (h : s.bclose = none) : execBclose s = .next s.waitsIn :=
  State.tileOnly_holds ho hp (by simp only [h])

theorem execWaitb_full (h : s.bclose = none) (n : BitVec 4) : execWaitb d n s = .next s.waitsIn :=
  State.tileOnly_holds ho hp (by simp only [h])

variable {bs : List (List (Q × Word))}

theorem execWaitb_waits (h : s.bclose = some ((s.tile k).withBatches bs)) {n : BitVec 4} (hn : n.toNat < bs.length) :
    execWaitb d n s = .next (s.updMe (Tile.withBatches bs)).waitsIn := by
  have hk : ¬ ((s.tile k).withBatches bs).batches.length ≤ n.toNat := Nat.not_le.mpr hn
  exact State.tileOnly_holds ho hp (by simp only [h, if_neg hk, ho.updMe_const])

variable (ha : s.plainAt a)
include ha

theorem execQseq_goes {x : Reg} {q : Q}
    (h : Nat.min (s.g x).toNat ((s.tile k).queue q).isn.toNat ≤ ((s.tile k).queue q).seq.toNat) :
    execQseq d x q s = .next ((s.setG d ((s.tile k).queue q).seq).goneTo a) :=
  State.tileOnly_seq ho hp (by simp only [ho.me, if_pos h]) (State.plainAt_setG s d _ a ha)

theorem execXretw_takes {v : Word} {r : List Word} (h : (s.tile k).xret = v :: r) :
    execXretw d s = .next (((s.updMe (fun t => { t with xret := r })).setG d v).goneTo a) :=
  State.tileOnly_seq ho hp (by simp only [ho.me, h]) (State.plainAt_setG _ d v a (State.plainAt_updMe ha ho _ rfl rfl))

theorem execBclose_closes (h : s.bclose = some ((s.tile k).withBatches bs)) :
    execBclose s = .next ((s.updMe (Tile.withBatches bs)).goneTo a) :=
  State.tileOnly_seq ho hp (by simp only [h, ho.updMe_const]) (State.plainAt_updMe ha ho _ rfl rfl)

theorem execWaitb_goes (h : s.bclose = some ((s.tile k).withBatches bs)) {n : BitVec 4} (hn : bs.length ≤ n.toNat) :
    execWaitb d n s = .next (((s.updMe (Tile.withBatches bs)).setG d (BitVec.ofNat 64 bs.length)).goneTo a) := by
  have hk : ((s.tile k).withBatches bs).batches.length ≤ n.toNat := hn
  exact State.tileOnly_seq ho hp (by simp only [h, if_pos hk, ho.updMe_const]; rfl)
    (State.plainAt_setG _ d _ a (State.plainAt_updMe ha ho _ rfl rfl))

end

theorem execL1wb_goes {s : State} {a : CodeAddr} (ha : s.plainAt a) (hp : s.cur.pfx = none) : execL1wb s = .next (s.goneTo a) :=
  s.simple_plain _ a ha (s.pfxOk_none _ _ hp)

theorem execSynci_goes {s : State} {a : CodeAddr} (ha : s.plainAt a) (hp : s.cur.pfx = none) :
    execSynci s = .next ((s.updCur (fun c => { c with ibuf := [] })).goneTo a) :=
  s.simple_plain _ a (s.plainAt_updCur _ a ha fun _ => ⟨rfl, rfl, rfl, rfl, rfl, rfl, rfl⟩) (s.pfxOk_none _ _ hp)

theorem execWfe_waits {s : State} (hp : s.cur.pfx = none) (d : Reg) {m : BitVec 6} (h : s.cur.latches &&& m = 0) :
    execWfe d m s = .next s.waitsIn := State.run_holds (s.pfxOk_none _ _ hp) (if_pos h)

theorem execWfe_takes {s : State} {a : CodeAddr} (ha : s.plainAt a) (hp : s.cur.pfx = none) (d : Reg) {m : BitVec 6}
    (h : s.cur.latches &&& m ≠ 0) : execWfe d m s =
      .next (((s.updCur (fun c => { c with latches := c.latches &&& ~~~m })).setG d
        (BitVec.ofNat 64 (s.cur.latches &&& m).toNat)).goneTo a) :=
  State.run_seq hp ((if_neg h).trans (by rw [Word.zeroExtend_eq]))
    (State.plainAt_setG _ d _ a (s.plainAt_updCur _ a ha fun _ => ⟨rfl, rfl, rfl, rfl, rfl, rfl, rfl⟩))

/-- Settles O42: each instruction goes on where the lemma about what it waits for says so, and waits otherwise. -/
theorem fencesAndQueueWaits : Obligations.FencesAndQueueWaits := by
  unfold Obligations.FencesAndQueueWaits
  constructor
  · intro s k d x q a ho ha t waits done drained fenced
    constructor
    · intro hp force
      refine ⟨?_, ?_⟩
      · rw [exec_fence, execFence, ho.run_fence ha hp, if_pos (s.fenceMet_fence _), ho.fenceDone, s.scope_in_force]
      · intro frm tom dflt sc all clear on met
        have hsc : s.scope dflt = sc := s.scope_in_force dflt
        have hon : s.fenceFlags frm = on := by rw [s.fenceFlags_eq, ho.me]
        have hf (y : Q) : s.fenced k all y = true ↔
            clear (t.queue y) y ∧ (y = .x → ∀ z ∈ t.mxe.tickets.toList, z.reads all = false) := by
          simp only [State.fenced_iff, State.unanswered_iff, clear, all, decide_eq_true_eq, t]
        have hmet : s.fenceMet frm tom sc = true ↔ frm = 0 ∨ tom = 0 ∨ met := by
          rw [ho.fenceMet, hon, hf, hf, hf]
          simp [met, Tile.queue, t]
        rw [exec_fencep, execFencep, ho.run_fence ha hp, hsc, hon]
        exact ⟨fun h => by rw [if_pos (hmet.mpr h), ho.fenceDone], fun h => if_neg (mt hmet.mp h)⟩
    · intro hp left closes bs
      have hd (y : Queue) : y.drained = true ↔ drained y := y.drained_iff
      have hn (y : Queue) : Nat.min (s.g x).toNat y.isn.toNat =
          if (s.g x).toNat ≤ y.isn.toNat then (s.g x).toNat else y.isn.toNat := Nat.min_def
      simp only [exec_l1wb, exec_synci, exec_qseq, exec_xretw, exec_bclose, exec_wfe, exec_waitb]
      refine ⟨execL1wb_goes ha hp, execSynci_goes ha hp, ⟨fun h => execQseq_goes ho hp d ha (by rw [hn]; exact h),
          fun h => execQseq_waits ho hp d (by rw [hn]; exact h)⟩,
        fun v r h => execXretw_takes ho hp d ha h, fun h he => execXretw_underflow ho hp d h ((hd _).mpr he),
        fun h he => execXretw_waits ho hp d h (mt (hd _).mp he),
        fun m => ⟨fun h => execWfe_takes ha hp d h, fun h => execWfe_waits hp d h⟩, fun h => ?_, fun h => ?_⟩
      · have hb := State.bclose_full ho h
        exact ⟨execBclose_waits ho hp hb, fun n => execWaitb_full ho hp d hb n⟩
      · have hb := State.bclose_closes ho h
        exact ⟨execBclose_closes ho hp ha hb, fun n => ⟨fun hn => execWaitb_goes ho hp d ha hb hn, fun hn => execWaitb_waits ho hp d hb hn⟩⟩
  · intro s n a frm tom sc hw ha hp
    have hc : s.onCore = true := s.onCore_of_core hw
    rw [exec_fence, exec_fencep, execFence, execFencep]
    exact ⟨State.run_fence_core hc ha hp _ _ _, State.run_fence_core hc ha hp _ _ _⟩

end Sys2Proof.Machine

/-! SUPPORT. Pools (R196, R201, R378, R380): what a push leaves in the pools of a launch, and where an instruction that pushes is held. -/

namespace Sys2Proof.Machine

/-! ### The pools of a launch -/

/-- A push changes the pools of its launch alone. -/
theorem Launch.addRec_rest (l : Launch) (r : Rec) (now : Word) : l.addRec r now = { l with pools := (l.addRec r now).pools } := by
  unfold Launch.addRec
  dsimp only
  split <;> rfl

/-- A pool with one record more at its end. -/
def Pool.newest (p : Pool) (r : Rec) (now : Word) : Pool :=
  { p with recs := p.recs ++ [(r, now)], timer := if p.recs.isEmpty then now else p.timer }

/-- The pool is that of a region and priority. -/
def Pool.of (region pri : Nat) (p : Pool) : Bool := decide (p.region = region) && decide (p.pri = pri)

theorem Pool.of_iff {region pri : Nat} {p : Pool} : p.of region pri = true ↔ p.region = region ∧ p.pri = pri := by
  simp [Pool.of]

theorem Launch.addRec_pools (l : Launch) (r : Rec) (now : Word) : (l.addRec r now).pools =
    if l.pools.any (Pool.of r.region r.pri) then
      l.pools.map (fun p => if p.of r.region r.pri then p.newest r now else p)
    else l.pools ++ [{ region := r.region, pri := r.pri, recs := [(r, now)], level := r.pri, timer := now }] := by
  unfold Launch.addRec
  dsimp only
  split
  · rename_i h
    exact (if_pos h).symm
  · rename_i h
    exact (if_neg h).symm

/-- A change of the records of some pools leaves each pool its region and priority. -/
theorem Pool.filter_newest (c : Pool → Bool) (r : Rec) (now : Word) (region pri : Nat) (ps : List Pool) :
    (ps.map (fun p => if c p then p.newest r now else p)).filter (Pool.of region pri) =
      (ps.filter (Pool.of region pri)).map (fun p => if c p then p.newest r now else p) := by
  rw [List.filter_map]
  congr 1
  refine List.filter_congr fun p _ => ?_
  dsimp only [Function.comp]
  split <;> rfl

/-- The record is the newest of its pool. -/
theorem Launch.recsOf_addRec_same {l : Launch} (h1 : l.onePool) (r : Rec) (now : Word) :
    (l.addRec r now).recsOf r.region r.pri = l.recsOf r.region r.pri ++ [(r, now)] := by
  have hone : (l.pools.filter (Pool.of r.region r.pri)).length ≤ 1 := h1 r.region r.pri
  show ((l.addRec r now).pools.filter (Pool.of r.region r.pri)).flatMap _ = (l.pools.filter (Pool.of r.region r.pri)).flatMap _ ++ _
  rw [l.addRec_pools]
  split
  case isTrue h =>
    obtain ⟨p, hp, hpo⟩ := List.any_eq_true.mp h
    obtain ⟨q, hq⟩ := List.length_eq_one_iff.mp (Nat.le_antisymm hone (List.length_pos_of_mem (List.mem_filter.mpr ⟨hp, hpo⟩)))
    have hqo : q.of r.region r.pri = true := (List.mem_filter.mp (hq ▸ List.mem_cons_self)).2
    rw [Pool.filter_newest, hq]
    simp [hqo, Pool.newest]
  case isFalse h =>
    have hn : l.pools.filter (Pool.of r.region r.pri) = [] := by
      simpa [List.filter_eq_nil_iff] using h
    rw [List.filter_append, hn]
    simp [Pool.of]

/-- Every other pool is as before. -/
theorem Launch.recsOf_addRec_other (l : Launch) (r : Rec) (now : Word) {region pri : Nat} (hne : (region, pri) ≠ (r.region, r.pri)) :
    (l.addRec r now).recsOf region pri = l.recsOf region pri := by
  have hother (p : Pool) (hp : p.of region pri = true) : p.of r.region r.pri = false := by
    obtain ⟨rfl, rfl⟩ := Pool.of_iff.mp hp
    exact Bool.eq_false_iff.mpr fun e => hne (Prod.ext (Pool.of_iff.mp e).1 (Pool.of_iff.mp e).2)
  show ((l.addRec r now).pools.filter (Pool.of region pri)).flatMap _ = (l.pools.filter (Pool.of region pri)).flatMap _
  rw [l.addRec_pools]
  split
  case isTrue =>
    rw [Pool.filter_newest]
    congr 1
    exact (List.map_congr_left fun p hp => by rw [hother p (List.mem_filter.mp hp).2]; rfl).trans (List.map_id _)
  case isFalse =>
    have hnew : (Pool.mk r.region r.pri [(r, now)] r.pri now).of region pri = false :=
      Bool.eq_false_iff.mpr fun e => by simpa [Pool.of] using (hother _ e)
    rw [List.filter_append, List.filter_cons_of_neg (by rw [hnew]; exact Bool.false_ne_true), List.filter_nil, List.append_nil]

/-! ### A push -/

/-- The image that runs depends on the images of a launch alone. -/
theorem State.image_of_images {s u : State} (hw : u.who = s.who) (ht : u.tiles = s.tiles) (hf : u.fw = s.fw)
    (hl : ∀ g, (u.launchOf g).map Launch.images = (s.launchOf g).map Launch.images) : u.image = s.image := by
  have htile (g : Nat) : u.tile g = s.tile g := by rw [State.tile, ht]; rfl
  unfold State.image
  rw [hw, hf]
  split
  case h_1 g _ =>
    have h := hl g
    rw [htile]
    cases hu : u.launchOf g with
    | none =>
      rw [hu] at h
      rw [Option.map_eq_none_iff.mp h.symm]
    | some m =>
      rw [hu] at h
      obtain ⟨m', hs, hm⟩ := Option.map_eq_some_iff.mp h.symm
      rw [hs]
      dsimp only
      rw [hm]
  all_goals rfl

/-- The package once a record has joined its pool of launch k. -/
def State.afterPush (s : State) (k : Nat) (l : Launch) (r : Rec) : State :=
  { s with launches := AMap.put s.launches k (l.addRec r s.bedt) }

section
variable {s : State} {k : Nat} {l : Launch} {r : Rec} (hl : AMap.find? s.launches k = some l)
include hl

/-- A push into a pool that takes it, with room in the store, is what the claims call a push. -/
theorem State.pushRec_pushed (h1 : l.onePool) (ht : l.takes r.region) (hr : s.storeRoom = true) :
    s.pushRec k r = some (s.afterPush k l r) ∧ s.pushed (s.afterPush k l r) k r := by
  obtain ⟨x, hx, he, hp⟩ := ht
  exact ⟨State.pushRec_room s k r l x hl hx he hp hr, l, _, hl, rfl, l.recsOf_addRec_same h1 r _,
    fun _ _ => l.recsOf_addRec_other r _, l.addRec_rest r _⟩

/-- A record of an ended region is discarded (R435). -/
theorem State.pushRec_ended (he : ∃ x, l.regions[r.region]? = some x ∧ x.ended = true) : s.pushRec k r = some s := by
  obtain ⟨x, hx, he⟩ := he
  simp only [State.pushRec, hl, hx, he, if_true]

theorem State.plainAt_putLaunch {l' : Launch} (hi : l'.images = l.images) {a : CodeAddr} (ha : s.plainAt a) :
    State.plainAt { s with launches := AMap.put s.launches k l' } a := by
  refine State.plainAt_congr ha rfl rfl (State.image_of_images rfl rfl rfl fun g => ?_)
  unfold State.launchOf
  show (match (s.tile g).bound with | none => none | some j => AMap.find? (AMap.put s.launches k l') j).map _ = _
  cases (s.tile g).bound with
  | none => rfl
  | some j =>
    dsimp only
    rw [AMap.find?_put]
    split
    · rename_i h
      rw [h, hl, Option.map_some, Option.map_some, hi]
    · rfl

theorem State.afterPush_plainAt {a : CodeAddr} (ha : s.plainAt a) : (s.afterPush k l r).plainAt a :=
  State.plainAt_putLaunch hl (by rw [l.addRec_rest]) ha

end

/-! ### An instruction that pushes (R201) -/

theorem State.pushOr_held {s : State} {r : Rec} (h : s.pushRec (s.me.bound.getD 0) r = none) : s.pushOr r = .wait s := by
  rw [State.pushOr, h]

/-- A push that leaves the continuation running lets its instruction go on. -/
theorem State.pushOr_pushes {s u : State} {r : Rec} (h : s.pushRec (s.me.bound.getD 0) r = some u) (hc : u.me.cont = s.me.cont)
    (hi : u.cur.intrap = s.cur.intrap) : s.pushOr r = .ok .seq u := by
  rw [State.pushOr, h]
  dsimp only
  rw [hc, hi]
  cases s.me.cont <;> cases s.cur.intrap <;> rfl

end Sys2Proof.Machine

/-! SUPPORT. Join blocks and the continuations that an instruction starts (R194 to R197, R201): SPAWN, SPAWNJ and JOIN. -/

namespace Sys2Proof.Machine

/-! ### A join block (R195) -/

section
variable {s : State} {j : Word}

theorem State.joinKey_beyond (h : 2 ^ 57 ≤ j.toNat) : s.joinKey j = .trap (TrapI.mk3 5 0 j) s := if_pos h

theorem State.joinKey_misaligned (h : j.toNat < 2 ^ 57) (h8 : j.toNat % 8 ≠ 0) : s.joinKey j = .trap (TrapI.mk3 6 0 j) s :=
  (if_neg (Nat.not_le.mpr h)).trans (if_pos h8)

/-- An address below the launch window names no join block. -/
theorem State.joinKey_below (h : j.toNat < 0x1FF * 2 ^ 48) (h8 : j.toNat % 8 = 0) : s.joinKey j = .trap (TrapI.mk3 5 0 j) s := by
  have hw : bitsN j.toNat 56 48 ≠ 0x1FF := by simp only [bitsN]; omega
  exact (if_neg (by omega)).trans ((if_neg (not_not.mpr h8)).trans (if_pos hw))

variable {k ltn h off : Nat}

/-- In the launch window, a block of the atomic region stands at its tile. -/
theorem State.InWindow.joinKey (w : s.InWindow k ltn h) (hj : j.toNat = winBase ltn + off) (h8 : off % 8 = 0)
    (hlo : 0x880000 ≤ off) (hhi : off + 40 ≤ 0x8C0000) : s.joinKey j = .ok (tileBase h + off) s := by
  have ho : off < 2 ^ 24 := by omega
  obtain ⟨b1, _, b3⟩ := bitsN_winBase w.ltn ho
  have hlow : ¬ 2 ^ 57 ≤ winBase ltn + off := by have := w.ltn; rw [winBase_eq]; omega
  have hal : ¬ (winBase ltn + off) % 8 ≠ 0 := not_not.mpr (winBase_aligned (by decide) h8)
  have hin : ¬ (off < atomBase ∨ atomEnd < off + 40) := by
    have e1 : atomBase = 0x880000 := rfl
    have e2 : atomEnd = 0x8C0000 := rfl
    omega
  rw [State.joinKey, hj, if_neg hlow, if_neg hal, b1, if_neg (not_not.mpr rfl), w.translate ho (by decide), Res.andThen_ok]
  simp only [b3, if_neg hin, winXlat, w.place ho]
  rfl

end

theorem State.joinRead_clean {s : State} (hs : s.clean) (key n : Nat) : s.joinRead key n = .ok (s.mem.getN key n) s := by
  rw [State.joinRead, State.readHome_clean hs]

theorem State.joinWrite_clean {s : State} (hs : s.bad = []) (key : Nat) (v : Word) :
    s.joinWrite key v = .ok () { s with mem := s.mem.setN key (leBytes 8 v.toNat) } := by
  rw [State.joinWrite, s.writeHome_clean _ _ hs]

/-! ### SPAWN and SPAWNJ (R196) -/

section
variable {s u : State} {g : Nat} (ho : s.onTile g) (hp : s.cur.pfx = none) {x y d : Reg}
include ho hp

theorem execSpawn_stray (h : ¬ s.codeOk (s.g x)) : execSpawn x y s = .next (s.raise (trapCode (s.g x))) :=
  State.tileOnly_raises ho hp (by rw [State.checkCode_none h])

theorem execSpawnj_stray (h : ¬ s.codeOk (s.g x)) : execSpawnj d x y s = .next (s.raise (trapCode (s.g x))) :=
  State.tileOnly_raises ho hp (by rw [State.checkCode_none h])

variable (hc : s.codeOk (s.g x))
include hc

theorem execSpawn_held (h : s.pushRec (s.me.bound.getD 0) (s.spawnRec ((s.g x).truncate 28) (s.g y) 0) = none) :
    execSpawn x y s = .next s.waitsIn :=
  State.tileOnly_holds ho hp (by rw [State.checkCode_ok hc]; exact State.pushOr_held h)

theorem execSpawn_pushes (h : s.pushRec (s.me.bound.getD 0) (s.spawnRec ((s.g x).truncate 28) (s.g y) 0) = some u)
    (hu : u.me.cont = s.me.cont) (hi : u.cur.intrap = s.cur.intrap) : execSpawn x y s = .next (u.finish .seq) :=
  State.tileOnly_done ho hp (by rw [State.checkCode_ok hc]; exact State.pushOr_pushes h hu hi)

theorem execSpawnj_address {t : TrapI} (h : s.joinKey (s.g d) = .trap t s) : execSpawnj d x y s = .next (s.raise t) :=
  State.tileOnly_raises ho hp (by simp only [State.checkCode_ok hc, h, Res.andThen_trap])

variable {key : Nat} (hk : s.joinKey (s.g d) = .ok key s) (hs : s.clean)
include hk hs

theorem execSpawnj_held (h : s.pushRec (s.me.bound.getD 0) (s.spawnRec ((s.g x).truncate 28) (s.g y) (s.g d)) = none) :
    execSpawnj d x y s = .next s.waitsIn :=
  State.tileOnly_holds ho hp (by
    simp only [State.checkCode_ok hc, hk, Res.andThen_ok, State.joinRead_clean hs, State.pushOr_held h]
    rfl)

/-- A SPAWNJ whose push leaves its continuation running counts it in the join block. -/
theorem execSpawnj_pushes (h : s.pushRec (s.me.bound.getD 0) (s.spawnRec ((s.g x).truncate 28) (s.g y) (s.g d)) = some u)
    (hu : u.me.cont = s.me.cont) (hi : u.cur.intrap = s.cur.intrap) (hb : u.bad = []) :
    execSpawnj d x y s =
      .next (State.finish { u with mem := u.mem.setN key (leBytes 8 ((ofBytes (s.mem.getN key 8) + 1) % 2 ^ 64)) } .seq) := by
  have hv : (BitVec.ofNat 64 (ofBytes (s.mem.getN key 8)) + 1 : Word).toNat = (ofBytes (s.mem.getN key 8) + 1) % 2 ^ 64 := by
    have one : (1 : Word).toNat = 1 := rfl
    rw [BitVec.toNat_add, BitVec.toNat_ofNat, one]
    omega
  refine State.tileOnly_done ho hp ?_
  simp only [State.checkCode_ok hc, hk, Res.andThen_ok, State.joinRead_clean hs, State.pushOr_pushes h hu hi,
    State.joinWrite_clean hb, hv, reduceCtorEq, if_false]

end

/-- Settles O43: the push decides what SPAWN and SPAWNJ do; what precedes it are the checks of the code address and the block's. -/
theorem spawns : Obligations.Spawns := by
  unfold Obligations.Spawns
  intro s g k l d x y a ho ha hp hb hl h1 hs c base rec_
  have hk : s.me.bound.getD 0 = k := by rw [ho.me, hb]; rfl
  have hrec (jca : Word) : s.spawnRec ((s.g x).truncate 28) (s.g y) jca = rec_ jca := by
    simp only [State.spawnRec, ho.me]
    rfl
  have hroom {jca : Word} (ht : l.takes s.curRegion) (hr : s.storeRoom = true) := State.pushRec_pushed (r := rec_ jca) hl h1 ht hr
  have hheld {jca : Word} (hlt : s.curRegion < l.regions.length) (h : ∀ r, l.regions[s.curRegion]? = some r →
      r.ended = false ∧ (r.pent ≤ l.held s.curRegion ∨ s.storeRoom = false ∧ r.psva = 0)) : s.pushRec k (rec_ jca) = none :=
    have hx := List.getElem?_eq_getElem hlt
    State.pushRec_held s k (rec_ jca) l _ hl hx (h _ hx).1 (h _ hx).2
  have hgone {jca : Word} (he : ∃ r, l.regions[s.curRegion]? = some r ∧ r.ended = true) : s.pushRec k (rec_ jca) = some s :=
    State.pushRec_ended hl he
  simp only [exec_spawn, exec_spawnj]
  refine ⟨fun h => ⟨execSpawn_stray ho hp h, execSpawnj_stray ho hp h⟩, fun hc ht hr => ?_,
    fun hc h hlt => execSpawn_held ho hp hc (by rw [hk, hrec]; exact hheld hlt h),
    fun hc h => execSpawn_held ho hp hc (by rw [hk, hrec]; exact h),
    fun hc u h hu hi => execSpawn_pushes ho hp hc (by rw [hk, hrec]; exact h) hu hi, fun hc he => ?_,
    fun hc => ⟨fun h => execSpawnj_address ho hp hc (State.joinKey_beyond h),
      fun h h8 => execSpawnj_address ho hp hc (State.joinKey_misaligned h h8),
      fun h h8 => execSpawnj_address ho hp hc (State.joinKey_below h h8)⟩,
    fun ltn h off hc hst hn hh h256 hbh hsock hj h8 hlo hhi => ?_⟩
  · obtain ⟨hpush, hpushed⟩ := hroom (jca := 0) ht hr
    refine ⟨s.afterPush k l (rec_ 0), ?_, hpushed⟩
    rw [execSpawn_pushes (u := s.afterPush k l (rec_ 0)) ho hp hc (by rw [hk, hrec]; exact hpush) rfl rfl,
      State.finish_seq _ a (State.afterPush_plainAt hl ha)]
  · rw [execSpawn_pushes (u := s) ho hp hc (by rw [hk, hrec]; exact hgone he) rfl rfl, State.finish_seq _ a ha]
  · have hkey := (ho.inWindow hb hl hst hh hn h256 hbh hsock).joinKey (hj.trans (by rw [winBase_eq])) h8 hlo hhi
    have hpush (u : State) (h : s.pushRec k (rec_ (s.g d)) = some u) (hu : u.me.cont = s.me.cont) (hi : u.cur.intrap = s.cur.intrap)
        (hbad : u.bad = []) := execSpawnj_pushes ho hp hc hkey hs (by rw [hk, hrec]; exact h) hu hi hbad
    have hcount {u : State} (hu : u.plainAt a) (m : Memory) : State.finish { u with mem := m } .seq = State.goneTo { u with mem := m } a :=
      State.finish_seq _ a (State.plainAt_congr hu rfl rfl rfl)
    refine ⟨fun ht hr => ?_, fun h hlt => execSpawnj_held ho hp hc hkey hs (by rw [hk, hrec]; exact hheld hlt h),
      fun h => execSpawnj_held ho hp hc hkey hs (by rw [hk, hrec]; exact h), hpush, fun he => ?_⟩
    · obtain ⟨h, hpushed⟩ := hroom (jca := s.g d) ht hr
      refine ⟨s.afterPush k l (rec_ (s.g d)), ?_, hpushed⟩
      rw [hpush _ h rfl rfl hs.1, hcount (State.afterPush_plainAt hl ha)]
    · rw [hpush s (hgone he) rfl rfl hs.1, hcount ha]

/-! ### The waiter record (R194, R197) -/

/-- What R197 asks of the fields of a waiter record on a tile of launch l at a level: CODE, IMG, the reserved bytes, REGION, PRI, FLG. -/
def Launch.waiterOk (l : Launch) (atM : Bool) (f : Nat → Nat → Nat) : Prop :=
  f 0 4 < 2 ^ 28 ∧ f 0 4 % 16 ≠ 0 ∧ (∃ b n, l.images[f 4 2]? = some (b, n) ∧ f 0 4 / 16 < n) ∧ f 6 2 = 0 ∧
    f 28 1 < 8 ∧ f 29 2 = 0 ∧ (f 31 1 = 0 ∨ f 31 1 = 128) ∧ f 24 4 < l.regions.length ∧ (f 28 1 ≤ 6 ∨ atM = true) ∧
    (f 31 1 = 128 → f 24 4 = 0 ∧ f 28 1 = 0)

/-- The record that a waiter record's fields name: FLG.INH takes the region and the base priority of the joining continuation. -/
def State.waiterRec (s : State) (f : Nat → Nat → Nat) : Rec :=
  { code := BitVec.ofNat 28 (f 0 4), img := BitVec.ofNat 16 (f 4 2), frame := BitVec.ofNat 64 (f 8 8), jca := BitVec.ofNat 64 (f 16 8),
    region := if f 31 1 = 128 then s.curRegion else f 24 4, pri := if f 31 1 = 128 then s.me.cpri.toNat / 8 % 8 else f 28 1 }

section
variable {s : State} {l : Launch} (hl : s.launchOf s.gid = some l) (key : Nat)
include hl

theorem State.waiter_eq {f : Nat → Nat → Nat} (hf : f = fun i n => ofBytes (s.mem.getN (key + i) n)) :
    (l.waiterOk s.cur.atM f → s.waiter (s.mem.getN key 32) = some (s.waiterRec f)) ∧
    (¬ l.waiterOk s.cur.atM f → s.waiter (s.mem.getN key 32) = none) := by
  have field {i n : Nat} (h : i + n ≤ 32) : leAt (s.mem.getN key 32) i n = f i n := by rw [leAt_getN _ _ h, hf]
  simp only [State.waiter, hl, field (show 0 + 4 ≤ 32 by decide), field (show 4 + 2 ≤ 32 by decide),
    field (show 24 + 4 ≤ 32 by decide), field (show 28 + 1 ≤ 32 by decide), field (show 31 + 1 ≤ 32 by decide),
    field (show 6 + 2 ≤ 32 by decide), field (show 29 + 2 ≤ 32 by decide), field (show 8 + 8 ≤ 32 by decide),
    field (show 16 + 8 ≤ 32 by decide)]
  unfold Launch.waiterOk
  cases l.images[f 4 2]? with
  | none => simp
  | some x =>
    have hx : (∃ b n, some x = some (b, n) ∧ f 0 4 / 16 < n) ↔ f 0 4 / 16 < x.2 :=
      ⟨fun ⟨b, n, e, h⟩ => by rw [Option.some.inj e]; exact h, fun h => ⟨x.1, x.2, rfl, h⟩⟩
    rw [hx]
    constructor
    · rintro ⟨h1, h2, h3, h4, h5, h6, h7, h8, h9, h10⟩
      rw [if_neg]
      · simp [State.waiterRec, fld, bitsN]
      · cases hm : s.cur.atM <;> simp [hm] at h9 ⊢ <;> omega
    · intro hn
      rw [if_pos]
      cases hm : s.cur.atM <;> simp [hm] at hn ⊢ <;> omega

end

/-! ### JOIN (R196, R197) -/

section
variable {s u : State} {g : Nat} (ho : s.onTile g) (hp : s.cur.pfx = none) {x d : Reg}
include ho hp

theorem execJoin_zero {a : CodeAddr} (ha : s.plainAt a) (h : s.g x = 0) : execJoin d x s = .next ((s.setG d 0).goneTo a) :=
  State.tileOnly_seq ho hp (if_pos h) (State.plainAt_setG s d 0 a ha)

variable {key : Nat} {old : Word} {r : Rec} (h0 : s.g x ≠ 0) (hk : s.joinKey (s.g x) = .ok key s) (hs : s.clean)
  (hold : BitVec.ofNat 64 (ofBytes (s.mem.getN key 8)) = old)
include h0 hk hs hold

theorem execJoin_under (h : old.toInt ≤ 0) : execJoin d x s = .next (s.raise (TrapI.mk3 16 1 (s.g x))) :=
  State.tileOnly_raises ho hp (by
    simp only [if_neg h0, hk, Res.andThen_ok, State.joinRead_clean hs, hold, if_pos h])

theorem execJoin_lowers (h : 0 < old.toInt) (h1 : old ≠ 1) : execJoin d x s =
    .next ((State.setG { s with mem := s.mem.setN key (leBytes 8 (old - 1).toNat) } d (old - 1)).finish .seq) :=
  State.tileOnly_done ho hp (by
    simp only [if_neg h0, hk, Res.andThen_ok, State.joinRead_clean hs, hold, if_neg (Int.not_le.mpr h), ne_eq, h1, not_false_eq_true,
      if_true, State.joinWrite_clean hs.1])

variable (h1 : old = 1)
include h1

theorem execJoin_badRecord (h : s.waiter (s.mem.getN (key + 8) 32) = none) :
    execJoin d x s = .next (s.raise (TrapI.mk3 16 2 (s.g x))) :=
  State.tileOnly_raises ho hp (by
    subst h1
    simp only [if_neg h0, hk, Res.andThen_ok, State.joinRead_clean hs, hold, h]
    rfl)

variable (hw : s.waiter (s.mem.getN (key + 8) 32) = some r)
include hw

theorem execJoin_held (h : s.pushRec (s.me.bound.getD 0) r = none) : execJoin d x s = .next s.waitsIn :=
  State.tileOnly_holds ho hp (by
    subst h1
    simp only [if_neg h0, hk, Res.andThen_ok, State.joinRead_clean hs, hold, hw, State.pushOr_held h]
    rfl)

/-- The last JOIN of a block starts its waiter and makes COUNT zero. -/
theorem execJoin_pushes (h : s.pushRec (s.me.bound.getD 0) r = some u) (hu : u.me.cont = s.me.cont)
    (hi : u.cur.intrap = s.cur.intrap) (hb : u.bad = []) : execJoin d x s =
      .next ((State.setG { u with mem := u.mem.setN key (leBytes 8 (old - 1).toNat) } d (old - 1)).finish .seq) :=
  State.tileOnly_done ho hp (by
    subst h1
    simp only [if_neg h0, hk, Res.andThen_ok, State.joinRead_clean hs, hold, hw, State.pushOr_pushes h hu hi, State.joinWrite_clean hb]
    rfl)

end

/-- Settles O44: COUNT decides between a fault, a lower COUNT and the waiter; the waiter's fields and its pool decide what the last JOIN does. -/
theorem joins : Obligations.Joins := by
  unfold Obligations.Joins
  intro s g k ltn h off l d x a ho ha hp hb hl hone hst hs
  have hbk : s.me.bound.getD 0 = k := by rw [ho.me, hb]; rfl
  have hlo : s.launchOf s.gid = some l := by rw [ho.gid, State.launchOf, hb]; exact hl
  rw [exec_join]
  refine ⟨execJoin_zero ho hp ha, ?_⟩
  intro hj hltn hh h256 h8 hlow hhigh hsock hbh key old lowered f inh region pri good r
  have h0 : s.g x ≠ 0 := fun e => by
    have : (s.g x).toNat = 0 := by rw [e]; rfl
    omega
  have hk : s.joinKey (s.g x) = .ok key s := (ho.inWindow hb hl hst hh hltn h256 hbh hsock).joinKey (hj.trans (by rw [winBase_eq])) h8 hlow hhigh
  obtain ⟨hok, hbad⟩ := State.waiter_eq hlo (key + 8) (f := f) rfl
  have hr : s.waiterRec f = r := by rw [State.waiterRec, ho.me]
  have hplain {u : State} (hu : u.plainAt a) (m : Memory) (v : Word) :
      State.finish (State.setG { u with mem := m } d v) .seq = (State.setG { u with mem := m } d v).goneTo a :=
    State.finish_seq _ a (State.plainAt_setG _ d v a (State.plainAt_congr hu rfl rfl rfl))
  have hold : BitVec.ofNat 64 (ofBytes (s.mem.getN key 8)) = old := rfl
  have hw (hg : good) : s.waiter (s.mem.getN (key + 8) 32) = some r := hr ▸ hok hg
  refine ⟨fun h => execJoin_under ho hp h0 hk hs hold (Int.lt_add_one_iff.mp h), fun h => ?_,
    fun h1 hg => execJoin_badRecord ho hp h0 hk hs hold h1 (hbad hg), fun h1 hg ht hr => ?_,
    fun h1 hg h => execJoin_held ho hp h0 hk hs hold h1 (hw hg) (by rw [hbk]; exact h), fun u h1 hg h hu hi hb => ?_, fun he => ?_⟩
  · have hne : old ≠ 1 := fun e => by
      have : old.toInt = 1 := by rw [e]; rfl
      omega
    rw [execJoin_lowers ho hp h0 hk hs hold (lt_trans Int.one_pos h) hne, hplain ha]
  · obtain ⟨hpush, hpushed⟩ := State.pushRec_pushed (r := r) hl hone ht hr
    refine ⟨s.afterPush k l r, ?_, hpushed⟩
    rw [execJoin_pushes (u := s.afterPush k l r) ho hp h0 hk hs hold h1 (hw hg) (by rw [hbk]; exact hpush) rfl rfl hs.1,
      hplain (State.afterPush_plainAt hl ha)]
    rfl
  · rw [execJoin_pushes ho hp h0 hk hs hold h1 (hw hg) (by rw [hbk]; exact h) hu hi hb]
    have hz : old - 1 = 0 := by rw [h1]; rfl
    rw [hz]
    rfl
  · obtain ⟨z, hz, he, hle⟩ := he
    exact State.pushRec_held s k r l z hl hz he (.inl hle)

end Sys2Proof.Machine

/-! SUPPORT. The end of a continuation (R199, R379): HALT and YIELD. A push, also one that goes by the spill area and ends the region's
domain (R378, R435), leaves the executing agent the one that executes. -/

namespace Sys2Proof.Machine

/-! ### The agent that executes -/

theorem foldl_who {α : Type} {f : State → α → State} (hf : ∀ s a, (f s a).who = s.who) (l : List α) (s : State) :
    (l.foldl f s).who = s.who := by
  induction l generalizing s with
  | nil => rfl
  | cons a r ih => exact (ih _).trans (hf s a)

theorem State.returnSegs_who (s : State) (g : Nat) (q : Q) : (s.returnSegs g q).who = s.who := by
  unfold State.returnSegs
  dsimp only
  split
  · rfl
  · split
    · rfl
    · split <;> rfl

theorem State.settleQueue_who (s : State) (g : Nat) (q : Q) : (s.settleQueue g q).who = s.who := by
  unfold State.settleQueue
  dsimp only
  split
  · exact State.returnSegs_who _ _ _
  · exact (State.mirror_who _ _ _).trans (State.returnSegs_who _ _ _)

theorem State.discardQueue_who (s : State) (l : Launch) (dom g : Nat) (q : Q) : (s.discardQueue l dom g q).who = s.who :=
  State.settleQueue_who _ _ _

theorem State.endTile_who (s : State) (l : Launch) (dom g : Nat) : (s.endTile l dom g).who = s.who := by
  unfold State.endTile
  dsimp only
  rw [State.updTile_who]
  exact foldl_who (f := fun s q => s.discardQueue l dom g q) (fun s q => s.discardQueue_who l dom g q) _ s

theorem State.sendLaunchRecord_who (s : State) (k : Nat) (r : ErrRec) : (s.sendLaunchRecord k r).who = s.who := by
  unfold State.sendLaunchRecord
  split
  · exact (State.SameCore.sendRecord _ _).who
  · exact (State.SameCore.sendRecord _ _).who

/-- The end of a domain leaves the executing agent. -/
theorem State.endDomain_who (s : State) (k dom : Nat) (r : ErrRec) : (s.endDomain k dom r).who = s.who := by
  unfold State.endDomain
  split
  · exact (State.SameCore.sendRecord _ _).who
  · refine (State.sendLaunchRecord_who _ _ _).trans ?_
    exact foldl_who (fun s g => s.endTile_who _ dom g) _ s

theorem State.writeHome_who {s t : State} {key : Nat} {bs : List Byte} (h : s.writeHome key bs = .ok t) : t.who = s.who := by
  unfold State.writeHome at h
  split at h
  · cases h; rfl
  · dsimp only at h
    split at h
    · cases h
    · cases h; rfl

/-- Outcomes one after the other leave what each of them leaves. -/
theorem Res.Leaves.bind {α β : Type} {P : State → Prop} {r : Res α} {f : α → State → Res β} (h : r.Leaves P)
    (hf : ∀ a s, P s → (f a s).Leaves P) : (r.andThen f).Leaves P := by
  cases r with
  | ok a s => exact hf a s h
  | trap t s => exact h
  | wait s => exact h

theorem Res.Leaves.of_ok {α : Type} {P : State → Prop} {r : Res α} {a : α} {s : State} (h : r.Leaves P) (e : r = .ok a s) : P s := by
  rwa [e] at h

theorem Res.Leaves.of_trap {α : Type} {P : State → Prop} {r : Res α} {t : TrapI} {s : State} (h : r.Leaves P) (e : r = .trap t s) :
    P s := by
  rwa [e] at h

/-- The same agent executes. -/
def State.SameWho (s u : State) : Prop := u.who = s.who

/-- What a write of n bytes at a local offset does to z tile z (R44). -/
def State.zTouch (g off n : Nat) (s : State) (z : Nat) : State :=
  if overlap off n (zOff z 0 0) 0x28000 then s.updZt g z (fun t => { t with cvalid := false }) else s

theorem State.zTouch_who (g off n : Nat) (s : State) (z : Nat) : (s.zTouch g off n z).who = s.who := by
  unfold State.zTouch
  split <;> rfl

theorem State.zTouched_who (s : State) (g off n : Nat) : (s.zTouched g off n).who = s.who := by
  unfold State.zTouched
  split
  · rfl
  · exact foldl_who (f := State.zTouch g off n) (State.zTouch_who g off n) _ s

/-- An answer of a target leaves a state with a property. -/
def TgtRes.Leaves (P : State → Prop) : TgtRes → Prop
  | .ok s => P s
  | .err _ s => P s
  | .wait => True

/-- (The kind of the write stays a variable: the kernel would evaluate a closed one.) -/
theorem State.tileWrite_who (s : State) (path g off : Nat) (bs : List Byte) {add : Bool} (ha : ¬ add = true) :
    (s.tileWrite path g off bs add).Leaves s.SameWho := by
  unfold State.tileWrite
  dsimp only
  rw [if_neg ha, if_neg ha]
  cases (s.tile g).storeErr off bs.length with
  | some c => exact Eq.refl s.who
  | none =>
    dsimp only
    split
    · exact True.intro
    · cases hw : (s.zTouched g off bs.length).writeHome (localKey g off) bs with
      | error e => exact Eq.refl s.who
      | ok u => exact (State.writeHome_who hw).trans (s.zTouched_who g off bs.length)

/-- (The write at a tile stays closed, as in `State.lWrite_ok`.) -/
theorem State.hsWritePa_who (s : State) (pa : Nat) (bs : List Byte) : (s.hsWritePa pa bs).Leaves s.SameWho := by
  have ht (g off : Nat) := s.tileWrite_who Agent.headstock.code g off bs Bool.false_ne_true
  unfold State.hsWritePa
  obtain ⟨write, hw⟩ : ∃ f, f = @State.tileWrite := ⟨_, rfl⟩
  rw [← hw] at ht ⊢
  cases s.place pa with
  | hbm st off =>
    dsimp only
    cases hw : s.writeHome (Place.hbm st off).key bs with
    | error e => exact Eq.refl s.who
    | ok u => exact (State.Beside.blockWrite _ _ _ _).who.trans (State.writeHome_who hw)
  | tile g off =>
    have ht := ht g off
    dsimp only
    generalize write s Agent.headstock.code g off bs false = r at ht ⊢
    cases r with
    | ok u => exact ht
    | err c u => exact ht
    | wait => exact Eq.refl s.who
  | far p => exact (State.SameCore.request _ _).who
  | out => exact Eq.refl s.who
  | reserved => exact Eq.refl s.who

theorem State.hsWrites_who {tr : State → Nat → Res Nat} (htr : ∀ s va, (tr s va).Leaves s.SameWho) (ps : List (Nat × Nat)) (s : State)
    (bs : List Byte) : (s.hsWrites tr bs ps).Leaves s.SameWho := by
  induction ps generalizing s bs with
  | nil => rfl
  | cons p r ih =>
    refine (htr s p.1).bind fun pa u hu => ?_
    refine Res.Leaves.bind ((u.hsWritePa_who pa _).mono fun v hv => hv.trans hu) fun _ v hv => ?_
    exact (ih v _).mono fun x hx => hx.trans hv

theorem viaLaunch_who (k : Nat) (w : Bool) (s : State) (va : Nat) : (viaLaunch k w s va).Leaves s.SameWho := by
  refine Res.Leaves.bind ((State.Quiet.translate s _ _ _ _ _).mono fun u hu => hu.core.who) fun x u hu => hu

theorem State.updLaunch_who (s : State) (k : Nat) (f : Launch → Launch) : (s.updLaunch k f).who = s.who := by
  unfold State.updLaunch
  split <;> rfl

/-- A push leaves the executing agent. -/
theorem State.pushRec_who {s u : State} {k : Nat} {r : Rec} (h : s.pushRec k r = some u) : u.who = s.who := by
  unfold State.pushRec at h
  split at h
  · cases h; rfl
  · split at h
    · cases h; rfl
    · split at h
      · cases h; rfl
      · split at h
        · cases h
        · split at h
          · cases h; rfl
          · split at h
            · cases h
            · dsimp only at h
              have hw (v : State) (va : Nat) : (v.hsWrite (viaLaunch k true) va r.bytes).Leaves v.SameWho :=
                State.hsWrites_who (viaLaunch_who k true) _ v _
              split at h
              · cases h
              · rename_i e
                cases h
                have hv := (hw _ _).of_trap e
                exact (State.endDomain_who _ _ _ _).trans hv
              · rename_i e
                cases h
                have hv := (hw _ _).of_ok e
                exact (State.updLaunch_who _ _ _).trans hv

/-! ### The end of a continuation -/

/-- A control core that is left idle at the end of its continuation. -/
def Tcc.idled (c : Tcc) : Tcc := { c with waiting := false, arrived := false, pfx := none, pfxp := false, far := [], ffar := [] }

/-- A tile whose continuation has ended, with the retired instruction counted (Table 15.7). -/
def Tile.haltedCont (t : Tile) : Tile := Tile.bump { t with cont := none, tcc := t.tcc.idled } 134

theorem State.onTile.endCont_finish {s : State} {g : Nat} (ho : s.onTile g) (hd : s.cur.stepLeft = none) :
    s.endCont.finish .gone = s.updMe Tile.haltedCont := by
  have ho' : s.endCont.onTile g := ho
  have htile : s.endCont.tile g = { s.tile g with cont := none, tcc :=
      { (s.tile g).tcc with waiting := false, arrived := false, pfx := none, pfxp := false } } := by
    rw [State.endCont, State.updMe, ho.gid, State.tile_updTile_same]
  have hu : s.endCont.updCur (fun c => { c with far := [], ffar := [] }) =
      s.setTile g { s.tile g with cont := none, tcc := (s.tile g).tcc.idled } := by
    have hw : s.endCont.who = .tile g := ho
    rw [State.updCur, ho'.cur, State.setCur, hw, State.setTcc, htile]
    rw [State.endCont, State.updMe, ho.gid, State.updTile, State.setTile_setTile]
    rfl
  have ho2 : (s.setTile g { s.tile g with cont := none, tcc := (s.tile g).tcc.idled }).onTile g := ho
  rw [State.finish, hu]
  show State.countRetired _ = _
  rw [State.countRetired_plain, ho2.onCore]
  · rw [if_neg Bool.false_ne_true, State.updMe, ho2.gid, State.updTile, State.tile_setTile_same, State.setTile_setTile, State.updMe, ho.gid]
    rfl
  · rw [ho2.cur, State.tile_setTile_same]
    rw [ho.cur] at hd
    exact hd

section
variable {s : State} {g : Nat} (ho : s.onTile g) (hp : s.cur.pfx = none)
include ho hp

theorem execHalt_handler (h : s.cur.intrap = true) : execHalt s = .next (s.raise trapIllegal) :=
  State.tileOnly_raises ho hp (if_pos h)

theorem execYield_handler (h : s.cur.intrap = true) : execYield s = .next (s.raise trapIllegal) :=
  State.tileOnly_raises ho hp (if_pos h)

variable (h : s.cur.intrap = false)
include h

theorem execHalt_ends (hd : s.cur.stepLeft = none) : execHalt s = .next (s.updMe Tile.haltedCont) :=
  (State.tileOnly_done ho hp (by rw [h]; rfl)).trans (congrArg _ (ho.endCont_finish hd))

theorem execYield_last (hs : s.cur.succ = none) : execYield s = .next (s.raise (noSucc s)) :=
  State.tileOnly_raises ho hp (by simp only [h, Bool.false_eq_true, if_false, hs])

variable {a : CodeAddr} (hs : s.cur.succ = some a)
include hs

theorem execYield_held (hr : s.pushRec (s.me.bound.getD 0) (s.spawnRec a s.me.frm s.me.jca) = none) : execYield s = .next s.waitsIn :=
  State.tileOnly_holds ho hp (by
    simp only [h, Bool.false_eq_true, if_false, hs, State.pushOr_held hr]
    rfl)

/-- Whatever the push leaves, the continuation ends there. -/
theorem execYield_ends {u : State} (hr : s.pushRec (s.me.bound.getD 0) (s.spawnRec a s.me.frm s.me.jca) = some u)
    (hd : u.cur.stepLeft = none) : execYield s = .next (u.updMe Tile.haltedCont) := by
  have hu : u.onTile g := (State.pushRec_who hr).trans ho
  refine (State.tileOnly_done (f := .gone) (u := u.endCont) ho hp ?_).trans (congrArg _ (hu.endCont_finish hd))
  simp only [h, Bool.false_eq_true, if_false, hs, State.pushOr, hr]
  rfl

end

/-- Settles O45: the push of YIELD's record decides whether it waits or ends the continuation; HALT ends it. -/
theorem haltAndYield : Obligations.HaltAndYield := by
  unfold Obligations.HaltAndYield
  intro s g k l a ho hp hd idle ended
  rw [exec_halt, exec_yield]
  refine ⟨fun h => ⟨execHalt_handler ho hp h, execYield_handler ho hp h⟩, fun h => execHalt_ends ho hp h hd,
    fun h hs => ⟨_, execYield_last ho hp h hs⟩, ?_⟩
  · intro h hs r hb hl hone
    have hk : s.me.bound.getD 0 = k := by rw [ho.me, hb]; rfl
    have hr : s.spawnRec a s.me.frm s.me.jca = r := by simp only [State.spawnRec, ho.me]; rfl
    refine ⟨fun ht hroom => ?_, fun hn => execYield_held ho hp h hs (by rw [hk, hr]; exact hn), fun he => ?_,
      fun u hu hdu => execYield_ends ho hp h hs (by rw [hk, hr]; exact hu) hdu⟩
    · obtain ⟨hpush, hpushed⟩ := State.pushRec_pushed (r := r) hl hone ht hroom
      exact ⟨s.afterPush k l r, execYield_ends ho hp h hs (by rw [hk, hr]; exact hpush) hd, hpushed⟩
    · obtain ⟨z, hz, he, hle⟩ := he
      exact State.pushRec_held s k r l z hl hz he (.inl hle)

end Sys2Proof.Machine

/-! SUPPORT. Requests (R393, R404, R405) and the operations on pairing objects (R202 to R205): QPUSH and QPOP send one packet, wait for its
answer, and end with what it says. -/

namespace Sys2Proof.Machine

/-! ### A request in the network -/

/-- Sending flits changes ports alone. -/
theorem State.sendBytes_rest (n vl fuel : Nat) (s : State) (bs : List Byte) : { s.sendBytes n vl fuel bs with ports := s.ports } = s := by
  induction fuel generalizing s bs with
  | zero => rfl
  | succ f ih =>
    rw [State.sendBytes]
    split
    · rfl
    · have h := ih (s.sendFlit n 0 vl (bs.take 112)) (bs.drop 112)
      exact congrArg (fun u : State => { u with ports := s.ports }) h

theorem State.kwaup_rest {s u : State} {p : Pkt} {srct dstt dpkg rid : Nat} (h : s.kwaup p srct dstt dpkg rid = some u) :
    { u with ports := s.ports } = s := by
  unfold State.kwaup at h
  split at h
  · cases h
  · rw [← Option.some.inj h]
    exact State.sendBytes_rest _ _ _ _ _

/-- A packet names the request that q is, refused or not. -/
structure Pkt.Names (q p : Pkt) : Prop where
  rid : q.rid = p.rid
  src : q.src = p.src
  addr : q.addr = p.addr
  cnt : q.cnt = p.cnt
  dpkg : q.dpkg = p.dpkg
  data : q.data = p.data

/-- A request that departs leaves memory and identifiers, and stands in the network itself or as its refusal. -/
theorem State.depart_sent {s : State} {p : Pkt} (hp : p ∈ s.net) : (s.depart p).mem = s.mem ∧ (s.depart p).nextRid = s.nextRid ∧
    (s.depart p).net.length = s.net.length ∧ ∃ q ∈ (s.depart p).net, q.Names p := by
  have refused (c : Nat) (e : Bool) : ∃ q ∈ (s.updPkt p.rid (fun x => x.refuse c e)).net, q.Names p :=
    ⟨p.refuse c e, List.mem_map.mpr ⟨p, hp, by simp⟩, ⟨rfl, rfl, rfl, rfl, rfl, rfl⟩⟩
  unfold State.depart
  split
  · exact ⟨rfl, rfl, List.length_map _, refused _ _⟩
  · split
    · exact ⟨rfl, rfl, List.length_map _, refused _ _⟩
    · rename_i u hu
      have hr := State.kwaup_rest hu
      have hm := congrArg State.mem hr
      have hi := congrArg State.nextRid hr
      have hn := congrArg State.net hr
      exact ⟨hm, hi, congrArg List.length hn, p, hn ▸ hp, ⟨rfl, rfl, rfl, rfl, rfl, rfl⟩⟩

/-- A request takes the next identifier and stands in the network; memory stays. -/
theorem State.request_sent (s : State) (p : Pkt) : (s.request p).mem = s.mem ∧ (s.request p).nextRid = s.nextRid + 1 ∧
    s.net.length < (s.request p).net.length ∧ ∃ q ∈ (s.request p).net, q.Names { p with rid := s.nextRid } := by
  have hin : { p with rid := s.nextRid, sent := s.bedt, resent := s.bedt } ∈
      s.net ++ [{ p with rid := s.nextRid, sent := s.bedt, resent := s.bedt }] := List.mem_append_right _ List.mem_cons_self
  unfold State.request
  dsimp only
  split
  · exact ⟨rfl, rfl, by simp [State.send], _, hin, ⟨rfl, rfl, rfl, rfl, rfl, rfl⟩⟩
  · obtain ⟨hm, hi, hl, q, hq, hn⟩ := State.depart_sent (s := State.send { s with nextRid := s.nextRid + 1 }
      { p with rid := s.nextRid, sent := s.bedt, resent := s.bedt }) hin
    exact ⟨hm, hi, by rw [hl]; simp [State.send], q, hq, ⟨hn.rid, hn.src, hn.addr, hn.cnt, hn.dpkg, hn.data⟩⟩

/-! ### An operation on an object -/

theorem badObj_iff (id : Word) : badObj id = true ↔ 2 ^ 35 ≤ id.toNat ∨ 17 ≤ id.toNat / 2 ^ 20 % 64 := by
  rw [badObj, Bool.or_eq_true, decide_eq_true_eq, decide_eq_true_eq]
  rfl

/-- The home die of an object of this package is out of service (R396). -/
def State.objUnserved (s : State) (id : Word) : Prop :=
  id.toNat / 2 ^ 26 % 512 = 0 ∧ id.toNat / 2 ^ 20 % 64 ≠ 0 ∧ s.sockOut (id.toNat / 2 ^ 20 % 64) = true

section
variable {s : State} {typ : PktT} {id v : Word} {fin : Bool → Word → State → State}

theorem State.objOp_badId (h : s.cur.obj = none) (hb : badObj id = true) : s.objOp typ id v fin = .trap (TrapI.mk3 17 1 id) s := by
  simp only [State.objOp, h, hb, if_true]

theorem State.objUnserved_iff : (decide (fld id 34 26 = 0) && decide (fld id 25 20 ≠ 0) && s.sockOut (fld id 25 20)) = true ↔
    s.objUnserved id := by
  rw [Bool.and_eq_true, Bool.and_eq_true, decide_eq_true_eq, decide_eq_true_eq, and_assoc]
  rfl

theorem State.objOp_unserved (h : s.cur.obj = none) (hb : ¬ badObj id = true) (hu : s.objUnserved id) :
    s.objOp typ id v fin = .trap (TrapI.mk3 35 1 id) s := by
  simp only [State.objOp, h]
  exact (if_neg hb).trans (if_pos (State.objUnserved_iff.mpr hu))

/-- The packet of an operation. -/
def State.objPkt (s : State) (typ : PktT) (id v : Word) : Pkt :=
  { Pkt.make typ 0 s.who id.toNat s.bedt with cnt := v.toNat, budget := s.dwell, dpkg := fld id 34 26,
                                              router := if s.dwell = 0 then none else some s.gid }

/-- A core that waits for the answer to a request. -/
def Tcc.asks (rid : Nat) (c : Tcc) : Tcc := { c with obj := some { rid := rid, ans := none, err := none } }

/-- With nothing outstanding, the operation's packet is sent and noted. -/
theorem State.objOp_sends (hc : s.hasCore) (h : s.cur.obj = none) (hb : ¬ badObj id = true) (hu : ¬ s.objUnserved id) :
    ∃ u : State, s.objOp typ id v fin = .wait u ∧ u.cur.obj = some { rid := s.nextRid, ans := none, err := none } ∧
      u.nextRid = s.nextRid + 1 ∧ u.mem = s.mem ∧
      ∃ q, s.net.length < u.net.length ∧ q ∈ u.net ∧ q.rid = s.nextRid ∧ q.src = s.who ∧ q.addr = id.toNat ∧ q.cnt = v.toNat := by
  have hw : s.objOp typ id v fin = .wait ((s.updCur (Tcc.asks s.nextRid)).request (s.objPkt typ id v)) := by
    simp only [State.objOp, h]
    exact (if_neg hb).trans (if_neg (mt State.objUnserved_iff.mp hu))
  refine ⟨_, hw, ?_⟩
  have hobj : (s.updCur (Tcc.asks s.nextRid)).cur.obj = some { rid := s.nextRid, ans := none, err := none } := by
    rw [State.cur_updCur s _ hc]
    rfl
  have hkeep := State.SameCore.request (s.updCur (Tcc.asks s.nextRid)) (s.objPkt typ id v)
  obtain ⟨hm, hi, hl, q, hq, hn⟩ := State.request_sent (s.updCur (Tcc.asks s.nextRid)) (s.objPkt typ id v)
  have hcur := congrArg Tcc.obj hkeep.cur
  rw [State.updCur_mem] at hm
  rw [State.updCur_nextRid] at hi hn
  rw [State.updCur_net] at hl
  exact ⟨hcur.trans hobj, hi, hm, q, hl, hq, hn.rid, hn.src, hn.addr, hn.cnt⟩

variable {o : ObjWait}

/-- The answer has been taken. -/
def State.objTaken (s : State) : State := s.updCur (fun c => { c with obj := none })

theorem State.objOp_waits (h : s.cur.obj = some o) (he : o.err = none) (ha : o.ans = none) : s.objOp typ id v fin = .wait s := by
  simp only [State.objOp, h, he, ha]

theorem State.objOp_answered {e : Bool} {x : Word} (h : s.cur.obj = some o) (he : o.err = none) (ha : o.ans = some (e, x)) :
    s.objOp typ id v fin = .ok .seq (fin e x s.objTaken) := by
  simp only [State.objOp, h, he, ha]
  rfl

theorem State.objOp_refused {c : Nat} {eff : Bool} (h : s.cur.obj = some o) (he : o.err = some (c, eff)) : s.objOp typ id v fin =
    .trap (if c = 10 ∨ c = 11 then TrapI.mk3 17 (c - 8) id else { TrapI.mk3 35 c id with effect := eff }) s.objTaken := by
  simp only [State.objOp, h, he]
  split <;> rfl

theorem State.objTaken_plainAt {a : CodeAddr} (ha : s.plainAt a) : s.objTaken.plainAt a :=
  s.plainAt_updCur _ a ha fun _ => ⟨rfl, rfl, rfl, rfl, rfl, rfl, rfl⟩

end

/-- What QPOP does with its answer. -/
def State.popped (d : Reg) (p : PReg) (empty : Bool) (x : Word) (s : State) : State :=
  ((if empty then s else s.l1Drop).setG d (if empty then 0 else x)).setP p empty

theorem State.plainAt_l1Drop {s : State} {a : CodeAddr} (ha : s.plainAt a) : s.l1Drop.plainAt a := by
  unfold State.l1Drop
  split
  · exact ha
  · rename_i h
    exact (State.Beside.updMe s (f := fun t => { t with l1 := [] }) (Bool.eq_false_iff.mpr h) (fun _ => rfl) (fun _ => rfl)).plainAt ha

/-- Settles O47: both instructions are one operation, whose request, wait, answer and errors are those of `objOp`. -/
theorem objectInstructions : Obligations.ObjectInstructions := by
  unfold Obligations.ObjectInstructions
  intro s d x y p a ha hp id bad clear
  have hpx : s.pfxOk false false := s.pfxOk_none _ _ hp
  have hbad : badObj id = true ↔ bad := badObj_iff id
  have hc : s.hasCore := ha.1
  have hclear : clear.plainAt a := State.objTaken_plainAt ha
  have hpop : execQpop d p x s = s.run false false (fun s => s.objOp .qpop (s.g x) 0 (State.popped d p)) := rfl
  rw [exec_qpush, exec_qpop, execQpush, hpop]
  refine ⟨fun h hb => ?_, ?_⟩
  · exact ⟨State.run_raises hpx (State.objOp_badId h (hbad.mpr hb)), State.run_raises hpx (State.objOp_badId h (hbad.mpr hb))⟩
  intro unserved
  refine ⟨fun h hb hu => ?_, fun h hb hu => ⟨?_, ?_⟩, fun o e v h he ho => ⟨?_, fun hem => ?_, fun hem => ?_⟩, fun o h he ho => ?_,
    fun o c eff h he => ?_⟩
  · have hn := mt hbad.mp hb
    exact ⟨State.run_raises hpx (State.objOp_unserved h hn hu), State.run_raises hpx (State.objOp_unserved h hn hu)⟩
  · obtain ⟨u, hw, hrest⟩ := State.objOp_sends (typ := .qpush) (v := s.g y) (fin := fun _ _ s => s) hc h (mt hbad.mp hb) hu
    exact ⟨u, State.run_holds hpx hw, hrest⟩
  · obtain ⟨u, hw, hrest⟩ := State.objOp_sends (typ := .qpop) (v := 0) (fin := State.popped d p) hc h (mt hbad.mp hb) hu
    exact ⟨u, State.run_holds hpx hw, hrest⟩
  · exact State.run_seq hp (State.objOp_answered h he ho) hclear
  · subst hem
    exact State.run_seq hp (State.objOp_answered h he ho) (State.plainAt_setP _ _ _ _ (State.plainAt_setG _ d _ _ hclear))
  · subst hem
    exact State.run_seq hp (State.objOp_answered h he ho)
      (State.plainAt_setP _ _ _ _ (State.plainAt_setG _ d _ _ (State.plainAt_l1Drop hclear)))
  · exact ⟨State.run_holds hpx (State.objOp_waits h he ho), State.run_holds hpx (State.objOp_waits h he ho)⟩
  · exact ⟨State.run_raises hpx (State.objOp_refused h he), State.run_raises hpx (State.objOp_refused h he)⟩

end Sys2Proof.Machine

/-! SUPPORT. LAUNCH (R200, R361): the checks of its operands, the Headstock's write of the packet's copy, and the new tail. -/

namespace Sys2Proof.Machine

/-! ### The states of blocks -/

/-- Of a state alone the states of blocks and the stream of free choices have moved. -/
def State.BlocksMoved (s u : State) : Prop := ∃ b f, u = { s with blocks := b, free := f }

theorem State.BlocksMoved.refl (s : State) : s.BlocksMoved s := ⟨_, _, rfl⟩

theorem State.BlocksMoved.trans {s u w : State} (h : s.BlocksMoved u) (h' : u.BlocksMoved w) : s.BlocksMoved w := by
  obtain ⟨b, f, rfl⟩ := h
  obtain ⟨b', f', rfl⟩ := h'
  exact ⟨b', f', rfl⟩

theorem State.BlocksMoved.foldl {α : Type} {f : State → α → State} (hf : ∀ (s : State) a, s.BlocksMoved (f s a)) (l : List α) (s : State) :
    s.BlocksMoved (l.foldl f s) := by
  induction l generalizing s with
  | nil => exact .refl s
  | cons a r ih => exact (hf s a).trans (ih _)

theorem State.BlocksMoved.eachBlock {f : State → Nat → State} (hf : ∀ (s : State) k, s.BlocksMoved (f s k)) (s : State) (key n : Nat) :
    s.BlocksMoved (s.eachBlock key n f) := by
  unfold State.eachBlock
  split
  · exact .refl s
  · refine State.BlocksMoved.foldl (fun u i => ?_) _ _
    dsimp only
    split
    · exact hf _ _
    · exact .refl _

theorem State.BlocksMoved.blockLeave (s : State) (key : Nat) : s.BlocksMoved (s.blockLeave key) := by
  unfold State.blockLeave
  dsimp only
  split
  · exact .refl s
  · exact ⟨_, _, rfl⟩

theorem State.BlocksMoved.blockWrite (s : State) (cmp : Bool) (key n : Nat) : s.BlocksMoved (s.blockWrite cmp key n) := by
  refine .eachBlock (fun u k => ?_) s key n
  dsimp only
  split
  · exact State.BlocksMoved.trans ⟨_, _, rfl⟩ (.blockLeave _ _)
  · exact ⟨_, _, rfl⟩

/-! ### A write of the Headstock -/

/-- With no storage error standing, a write of the Headstock to this package's memory puts the bytes there and moves block states alone. -/
theorem State.hsPut_hbm {s : State} {pa st off : Nat} {bs : List Byte} (hpl : s.place pa = .hbm st off) (hb : s.bad = []) :
    { s with mem := s.mem.setN (2 ^ 49 + st * 2 ^ 36 + off) bs }.BlocksMoved (s.hsPut pa bs) := by
  have hput : s.hsPut pa bs = ({ s with mem := s.mem.setN (Place.hbm st off).key bs } : State).blockWrite false (Place.hbm st off).key
      bs.length := by
    simp only [State.hsPut, State.hsWritePa, hpl, State.writeHome_clean _ _ _ hb]
  rw [hput]
  exact .blockWrite _ _ _ _

/-- A write of the Headstock to another package is a request with the bytes. -/
theorem State.hsPut_far {s : State} {pa pkg : Nat} {bs : List Byte} (hpl : s.place pa = .far pkg) : (s.hsPut pa bs).mem = s.mem ∧
    ∃ w ∈ (s.hsPut pa bs).net, w.rid = s.nextRid ∧ w.addr = pa ∧ w.dpkg = pkg ∧ w.data = bs := by
  have hput : s.hsPut pa bs = s.request { s.hsPkt .wr pa pkg with len := bs.length, data := bs } := by
    simp only [State.hsPut, State.hsWritePa, hpl]
  obtain ⟨hm, -, -, w, hw, hn⟩ := s.request_sent { s.hsPkt .wr pa pkg with len := bs.length, data := bs }
  rw [hput]
  exact ⟨hm, w, hw, hn.rid, hn.addr, hn.dpkg, hn.data⟩

/-! ### LAUNCH -/

/-- A launch queue takes a packet of a device: it is enabled, open to devices and not full (R361). -/
def LQueue.takes (q : LQueue) : Prop :=
  q.cfg.getLsbD 0 = true ∧ q.cfg.getLsbD 1 = true ∧ (q.tail - q.head).toNat < 2 ^ (q.cfg.toNat / 2 ^ 8 % 16)

theorem LQueue.not_takes_iff (q : LQueue) : (!q.en ∨ !q.dev ∨ q.entries ≤ (q.tail - q.head).toNat) ↔ ¬ q.takes := by
  have he : q.entries = 2 ^ (q.cfg.toNat / 2 ^ 8 % 16) := rfl
  rw [LQueue.takes, he, LQueue.en, LQueue.dev, bit, bit, not_and_or, not_and_or, Bool.not_eq_true', Bool.not_eq_true', Bool.not_eq_true,
    Bool.not_eq_true, not_lt]

/-- The state after a packet is appended to queue n. -/
def State.launched (s : State) (n : Nat) (bs : List Byte) : State :=
  (s.hsPut ((s.lqueue n).base.toNat + 128 * ((s.lqueue n).tail.toNat % (s.lqueue n).entries)) bs).setLqueue n
    { s.lqueue n with tail := (s.lqueue n).tail + 1 }

section
variable {s : State} {g : Nat} {d x y : Reg} (ho : s.onTile g) (hp : s.cur.pfx = none)
include ho hp

theorem execLaunch_notAllowed (hm : s.mayLaunch = false) : execLaunch d x y s = .next (s.raise trapPrivilege) :=
  State.tileOnly_raises ho hp (if_pos (by rw [hm]; rfl))

variable (hm : s.mayLaunch = true)
include hm

theorem execLaunch_unaligned (ha : (s.g x).toNat % 64 ≠ 0) : execLaunch d x y s = .next (s.raise (TrapI.mk3 6 0 (s.g x))) :=
  State.tileOnly_raises ho hp (by simp only [hm, Bool.not_true, Bool.false_eq_true, if_false]; exact if_pos ha)

variable (ha : (s.g x).toNat % 64 = 0)
include ha

theorem execLaunch_noQueue (hn : 64 ≤ (s.g y).toNat) : execLaunch d x y s = .next (s.raise (TrapI.mk3 5 0 (s.g y))) :=
  State.tileOnly_raises ho hp (by
    simp only [hm, Bool.not_true, Bool.false_eq_true, if_false]
    exact (if_neg (not_not.mpr ha)).trans (if_pos hn))

variable (hn : (s.g y).toNat < 64)
include hn

theorem execLaunch_noAddress (hv : 2 ^ 57 ≤ (s.g x).toNat) : execLaunch d x y s = .next (s.raise (TrapI.mk3 5 0 (s.g x))) :=
  State.tileOnly_raises ho hp (by
    simp only [hm, Bool.not_true, Bool.false_eq_true, if_false]
    exact (if_neg (not_not.mpr ha)).trans ((if_neg (not_le.mpr hn)).trans (if_pos hv)))

variable (hv : (s.g x).toNat < 2 ^ 57)
include hv

theorem execLaunch_unchecked {t : TrapI} {s1 : State} (hc : s.cCheck (s.g x) 128 false false = .trap t s1) :
    execLaunch d x y s = .next (s1.raise t) :=
  State.tileOnly_raises ho hp (by
    simp only [hm, Bool.not_true, Bool.false_eq_true, if_false, hc, Res.andThen_trap]
    exact (if_neg (not_not.mpr ha)).trans ((if_neg (not_le.mpr hn)).trans (if_neg (not_le.mpr hv))))

variable {ps : List CPart} {s1 : State} (hc : s.cCheck (s.g x) 128 false false = .ok ps s1)
include hc

theorem execLaunch_unread {t : TrapI} {s2 : State} (hr : s1.cReads false ps = .trap t s2) :
    execLaunch d x y s = .next (s2.raise t) :=
  State.tileOnly_raises ho hp (by
    simp only [hm, Bool.not_true, Bool.false_eq_true, if_false, hc, Res.andThen_ok, hr, Res.andThen_trap]
    exact (if_neg (not_not.mpr ha)).trans ((if_neg (not_le.mpr hn)).trans (if_neg (not_le.mpr hv))))

variable {bs : List Byte} {s2 : State} (hr : s1.cReads false ps = .ok bs s2)
include hr

theorem execLaunch_refused (hq : ¬ (s2.lqueue (s.g y).toNat).takes) :
    execLaunch d x y s = .next ((s2.setG d (BitVec.allOnes 64)).finish .seq) :=
  State.tileOnly_done ho hp (by
    simp only [hm, Bool.not_true, Bool.false_eq_true, if_false, hc, Res.andThen_ok, hr]
    refine (if_neg (not_not.mpr ha)).trans ((if_neg (not_le.mpr hn)).trans ((if_neg (not_le.mpr hv)).trans ?_))
    exact (if_pos ((LQueue.not_takes_iff _).mpr hq)).trans rfl)

theorem execLaunch_appends (hq : (s2.lqueue (s.g y).toNat).takes) : execLaunch d x y s =
    .next (((s2.launched (s.g y).toNat bs).setG d (BitVec.ofNat 64 ((s2.lqueue (s.g y).toNat).tail + 1).toNat)).finish .seq) :=
  State.tileOnly_done ho hp (by
    simp only [hm, Bool.not_true, Bool.false_eq_true, if_false, hc, Res.andThen_ok, hr]
    refine (if_neg (not_not.mpr ha)).trans ((if_neg (not_le.mpr hn)).trans ((if_neg (not_le.mpr hv)).trans ?_))
    refine (if_neg (mt (LQueue.not_takes_iff _).mp (not_not.mpr hq))).trans ?_
    rw [Word.zeroExtend_eq]
    rfl)

end

/-- Settles O46: each outcome of LAUNCH is one of the lemmas above; what the ring holds then is the Headstock's write. -/
theorem deviceLaunch : Obligations.DeviceLaunch := by
  unfold Obligations.DeviceLaunch
  intro s g d x y ho hp va n
  rw [exec_launch]
  refine ⟨execLaunch_notAllowed ho hp, fun h => by rw [State.mayLaunch, h, Bool.true_or], execLaunch_unaligned ho hp,
    execLaunch_noQueue ho hp, fun hm ha hn hv ps s1 bs s2 hc hr => ?_, fun hm ha hn hv => ⟨?_, ?_⟩, execLaunch_noAddress ho hp⟩
  · intro q size room
    refine ⟨execLaunch_refused ho hp hm ha hn hv hc hr, fun hq => ?_⟩
    intro pa u
    refine ⟨execLaunch_appends ho hp hm ha hn hv hc hr hq, fun st off hpl hb => ?_, fun pkg hpl => State.hsPut_far hpl⟩
    obtain ⟨b, f, hu⟩ := State.hsPut_hbm (bs := bs) hpl hb
    have hput : u = _ := hu
    rw [hput]
    exact ⟨rfl, rfl⟩
  · intro t s1 hc
    exact execLaunch_unchecked ho hp hm ha hn hv hc
  · intro ps s1 t s2 hc hr
    exact execLaunch_unread ho hp hm ha hn hv hc hr

end Sys2Proof.Machine

/-! SUPPORT. Named barriers of a tile (R178 to R181, R186): the checks, the arrival, and the wait. -/

namespace Sys2Proof.Machine

/-- At a state with no prefix a tile's instruction is what its body does there. -/
theorem State.tileOnly_congr {s : State} {k : Nat} {f g : State → Res Flow} (ho : s.onTile k) (hp : s.cur.pfx = none) (h : f s = g s) :
    s.tileOnly f = s.tileOnly g := by
  cases hg : g s with
  | ok w u => rw [State.tileOnly_done ho hp hg, State.tileOnly_done ho hp (h.trans hg)]
  | trap t u => rw [State.tileOnly_raises ho hp hg, State.tileOnly_raises ho hp (h.trans hg)]
  | wait u => rw [State.tileOnly_holds ho hp hg, State.tileOnly_holds ho hp (h.trans hg)]

/-- A tile whose arrival at barrier n is under way. -/
def Tile.arrives (n : Nat) (t : Tile) : Tile := { t with bst := AMap.put t.bst n { t.bar n with arr := true, rel := false } }

/-- The wait of a tile at barrier n is noted, under governor settings v at time now (R460). -/
def Tile.waitsAt (n : Nat) (v : Gov) (now : Word) (t : Tile) : Tile :=
  let old := decide (t.barWait = some n)
  let tapered := old && t.tapered
  let on := v.balen && t.xq.ents.all (fun e => decide (e.st ≠ .begun)) && !tapered
  { t with barWait := some n, tapered := tapered,
           ballast := if old && t.ballast.isSome then t.ballast else if on then some now else none }

theorem State.waitBar_eq (s : State) (n : Nat) : s.waitBar n = s.updMe (Tile.waitsAt n s.gov s.bedt) := rfl

section
variable {s : State} {k : Nat} (ho : s.onTile k)
include ho

theorem State.onTile.barCheck_some {n : Nat} {t : TrapI} : s.barCheck n = some t ↔
    (((s.tile k).bar n).cfg = false ∧ t = TrapI.mk3 15 3 (BitVec.ofNat 64 n)) ∨
    (((s.tile k).bar n).cfg = true ∧ ((s.tile k).bar n).member = false ∧ t = TrapI.mk3 15 4 (BitVec.ofNat 64 n)) := by
  rw [State.barCheck, ho.me]
  cases ((s.tile k).bar n).cfg <;> cases ((s.tile k).bar n).member <;> simp [eq_comm]

theorem State.onTile.barCheck_none {n : Nat} (hc : ((s.tile k).bar n).cfg = true) (hm : ((s.tile k).bar n).member = true) :
    s.barCheck n = none := by
  rw [State.barCheck, ho.me]
  simp only [hc, hm, Bool.not_true, Bool.false_eq_true, if_false]

/-! ### The arrival -/

theorem State.onTile.arrive_unheld {n : Nat} {sc : Scope} (h : ∀ l, s.launchOf k = some l → AMap.find? l.bars n = none) :
    s.arrive n sc = s.updMe (Tile.arrives n) := by
  have hb : (s.updMe (Tile.arrives n)).me.bound = (s.tile k).bound := by
    rw [State.onTile.me (s := s.updMe (Tile.arrives n)) ho, State.updMe, ho.gid, State.tile_updTile_same]
    rfl
  unfold State.arrive
  show (match (s.updMe (Tile.arrives n)).me.bound with | none => _ | some i => _) = _
  rw [hb]
  unfold State.launchOf at h
  cases hk : (s.tile k).bound with
  | none => rfl
  | some i =>
    rw [hk] at h
    dsimp only at h ⊢
    show (match AMap.find? s.launches i with | none => _ | some l => _) = _
    cases hl : AMap.find? s.launches i with
    | none => rfl
    | some l =>
      dsimp only
      rw [h l hl]
      rfl

theorem State.onTile.arrive_held {n i : Nat} {sc : Scope} {l : Launch} (hb : (s.tile k).bound = some i)
    (hl : AMap.find? s.launches i = some l) (hn : (AMap.find? l.bars n).isSome = true) : s.arrive n sc =
    { s.updMe (Tile.arrives n) with
      net := s.net ++ [{ Pkt.make .ctrl s.nextRid (.tile k) i s.bedt with cnt := n, scope := sc }], nextRid := s.nextRid + 1 } := by
  have hb' : (s.updMe (Tile.arrives n)).me.bound = some i := by
    rw [State.onTile.me (s := s.updMe (Tile.arrives n)) ho, State.updMe, ho.gid, State.tile_updTile_same]
    exact hb
  obtain ⟨b, hn⟩ := Option.isSome_iff_exists.mp hn
  unfold State.arrive
  show (match (s.updMe (Tile.arrives n)).me.bound with | none => _ | some i => _) = _
  rw [hb', ho.gid]
  show (match AMap.find? s.launches i with | none => _ | some l => _) = _
  rw [hl]
  dsimp only
  rw [hn]
  rfl

/-- Wherever the set is held, an arrival moves the tile's own BST and nothing else of its tile. -/
theorem State.onTile.arrive_tile (n : Nat) (sc : Scope) : (s.arrive n sc).onTile k ∧ (s.arrive n sc).tile k = (s.tile k).arrives n := by
  have here : (s.updMe (Tile.arrives n)).tile k = (s.tile k).arrives n := by
    rw [State.updMe, ho.gid, State.tile_updTile_same]
  by_cases h : ∀ l, s.launchOf k = some l → AMap.find? l.bars n = none
  · rw [ho.arrive_unheld h]
    exact ⟨ho, here⟩
  · push Not at h
    obtain ⟨l, hl, hn⟩ := h
    unfold State.launchOf at hl
    cases hb : (s.tile k).bound with
    | none => rw [hb] at hl; cases hl
    | some i =>
      rw [hb] at hl
      rw [ho.arrive_held hb hl (Option.isSome_iff_ne_none.mpr hn)]
      exact ⟨ho, here⟩

/-- The executing core bears the mark *arrived* (R186). -/
def State.marked (s : State) : State := s.updCur (fun c => { c with arrived := true })

theorem State.onTile.arrive_marked_tile (n : Nat) (sc : Scope) : (s.arrive n sc).marked.onTile k ∧
    (s.arrive n sc).marked.tile k = { (s.tile k).arrives n with tcc := { s.cur with arrived := true } } := by
  obtain ⟨hv, ht⟩ := ho.arrive_tile n sc
  have hcur : (s.arrive n sc).cur = s.cur := by rw [hv.cur, ht, ho.cur]; rfl
  exact ⟨hv.setCur _, by rw [State.marked, State.updCur, hv.setCur_tile, ht, hcur]⟩

/-! ### The wait -/

theorem State.onTile.barWaitFor_waits {n : Nat} {d : Reg} (hc : ((s.tile k).bar n).cfg = true) (hm : ((s.tile k).bar n).member = true)
    (ha : ((s.tile k).bar n).arr = true) : s.barWaitFor d n = .wait (s.waitBar n) := by
  rw [State.barWaitFor, ho.barCheck_none hc hm, ho.me]
  exact if_pos ha

theorem State.onTile.waitBar_tile (n : Nat) : (s.waitBar n).tile k = (s.tile k).waitsAt n s.gov s.bedt := by
  rw [State.waitBar_eq, State.updMe, ho.gid, State.tile_updTile_same]

theorem State.onTile.waitBar_cur (n : Nat) : (s.waitBar n).cur = s.cur := by
  rw [State.onTile.cur (s := s.waitBar n) ho, ho.waitBar_tile n, ho.cur]
  rfl

/-- A tile that has passed barrier n: where its own arrival was in the generation released, its L1 is emptied (R313). -/
def State.passed (s : State) (k n : Nat) : State :=
  if ((s.tile k).bar n).rel = true then
    s.updMe (fun t => { t with bst := AMap.put t.bst n { (s.tile k).bar n with rel := false }, l1 := [] })
  else s

theorem State.onTile.barWaitFor_passes {n : Nat} {d : Reg} (hc : ((s.tile k).bar n).cfg = true)
    (hm : ((s.tile k).bar n).member = true) (ha : ((s.tile k).bar n).arr = false) : s.barWaitFor d n =
    .ok .seq (((s.passed k n).updCur (fun c => { c with arrived := false })).setG d (BitVec.ofNat 64 ((s.tile k).bar n).gen.toNat)) := by
  rw [State.barWaitFor, ho.barCheck_none hc hm, ho.me]
  refine (if_neg (by rw [ha]; exact Bool.false_ne_true)).trans ?_
  have drop : ∀ b : Bst, (s.updMe (fun t => { t with bst := AMap.put t.bst n b })).l1Drop =
      s.updMe (fun t => { t with bst := AMap.put t.bst n b, l1 := [] }) := fun b => by
    have hc : (s.updMe (fun t => { t with bst := AMap.put t.bst n b })).onCore = false := State.onTile.onCore (g := k) ho
    rw [State.l1Drop, if_neg (by rw [hc]; exact Bool.false_ne_true)]
    exact State.updTile_updTile s s.gid _ _
  rw [State.passed, drop, Word.zeroExtend_eq]

theorem State.onTile.passed_plainAt {n : Nat} {a : CodeAddr} (ha : s.plainAt a) : (s.passed k n).plainAt a := by
  unfold State.passed
  split
  · exact State.plainAt_updMe ha ho _ rfl rfl
  · exact ha

/-! ### The instructions -/

variable (hp : s.cur.pfx = none)
include hp

theorem execBara_faults {n : BitVec 6} {sc : Scope} {t : TrapI} (h : s.barCheck n.toNat = some t) : execBara n sc s = .next (s.raise t) :=
  State.tileOnly_raises ho hp (by rw [h])

theorem execBarw_faults {n : BitVec 6} {d : Reg} {t : TrapI} (h : s.barCheck n.toNat = some t) : execBarw d n s = .next (s.raise t) :=
  State.tileOnly_raises ho hp (by rw [State.barWaitFor, h])

theorem execBaraw_faults {n : BitVec 6} {d : Reg} {sc : Scope} {t : TrapI} (h : s.barCheck n.toNat = some t) :
    execBaraw d n sc s = .next (s.raise t) :=
  State.tileOnly_raises ho hp (by rw [State.barWaitFor, h, ite_self])

/-- BARAW that has arrived is BARW. -/
theorem execBaraw_marked {n : BitVec 6} {d : Reg} {sc : Scope} (h : s.cur.arrived = true) : execBaraw d n sc s = execBarw d n s :=
  State.tileOnly_congr ho hp (if_pos h)

variable {n : BitVec 6} {d : Reg} {sc : Scope} (hc : ((s.tile k).bar n.toNat).cfg = true)
  (hm : ((s.tile k).bar n.toNat).member = true)
include hc hm

theorem execBara_held (h : ((s.tile k).bar n.toNat).arr = true) : execBara n sc s = .next s.waitsIn :=
  State.tileOnly_holds ho hp (by rw [ho.barCheck_none hc hm, ho.me]; exact if_pos h)

theorem execBaraw_held (h : ((s.tile k).bar n.toNat).arr = true) (hm' : s.cur.arrived = false) :
    execBaraw d n sc s = .next s.waitsIn :=
  State.tileOnly_holds ho hp (by
    rw [ho.barCheck_none hc hm, ho.me, hm']
    exact if_pos h)

theorem execBarw_held (h : ((s.tile k).bar n.toNat).arr = true) : execBarw d n s = .next (s.waitBar n.toNat).waitsIn :=
  State.tileOnly_holds ho hp (ho.barWaitFor_waits hc hm h)

variable (h : ((s.tile k).bar n.toNat).arr = false)
include h

theorem execBara_arrives {a : CodeAddr} (ha : (s.arrive n.toNat sc).plainAt a) :
    execBara n sc s = .next ((s.arrive n.toNat sc).goneTo a) :=
  State.tileOnly_seq ho hp (by rw [ho.barCheck_none hc hm, ho.me, h]; rfl) ha

theorem execBarw_passes {a : CodeAddr} (ha : s.plainAt a) : execBarw d n s = .next ((((s.passed k n.toNat).updCur
    (fun c => { c with arrived := false })).setG d (BitVec.ofNat 64 ((s.tile k).bar n.toNat).gen.toNat)).goneTo a) :=
  State.tileOnly_seq ho hp (ho.barWaitFor_passes hc hm h) (State.plainAt_setG _ d _ a
    (State.plainAt_updCur _ _ a (ho.passed_plainAt ha) fun _ => ⟨rfl, rfl, rfl, rfl, rfl, rfl, rfl⟩))

/-- An unmarked BARAW arrives, is marked, and waits. -/
theorem execBaraw_arrives (hm' : s.cur.arrived = false) : ∃ u : State, execBaraw d n sc s = .next u.waitsIn ∧
    u.cur = { s.cur with arrived := true } ∧ ((u.tile k).bar n.toNat).arr = true ∧ (u.tile k).barWait = some n.toNat := by
  obtain ⟨hu, htile⟩ := ho.arrive_marked_tile n.toNat sc
  have hbar : ((s.arrive n.toNat sc).marked.tile k).bar n.toNat = { (s.tile k).bar n.toNat with arr := true, rel := false } := by
    rw [htile]
    exact AMap.getD_put_same _ _ _ _
  have hwait := hu.barWaitFor_waits (d := d) (n := n.toNat) (by rw [hbar]; exact hc) (by rw [hbar]; exact hm) (by rw [hbar])
  refine ⟨(s.arrive n.toNat sc).marked.waitBar n.toNat, State.tileOnly_holds ho hp ?_, ?_, ?_, ?_⟩
  · rw [hm', ho.barCheck_none hc hm, ho.me, h]
    exact hwait
  · rw [hu.waitBar_cur, hu.cur, htile]
  · rw [hu.waitBar_tile]
    exact congrArg Bst.arr hbar
  · rw [hu.waitBar_tile]
    rfl

end

end Sys2Proof.Machine

/-! SUPPORT. Changes of many tiles: the tiles of a list, each changed by a function of its own. -/

namespace Sys2Proof.Machine

/-- Changes every tile of a list, tile g by `f g`. -/
def State.updTiles (f : Nat → Tile → Tile) (l : List Nat) (s : State) : State := l.foldl (fun s g => s.updTile g (f g)) s

theorem State.updTiles_rest (f : Nat → Tile → Tile) (l : List Nat) (s : State) : { s.updTiles f l with tiles := s.tiles } = s := by
  induction l generalizing s with
  | nil => rfl
  | cons g r ih => exact congrArg (fun u : State => { u with tiles := s.tiles }) (ih (s.updTile g (f g)))

theorem State.updTiles_tile_of_notMem (f : Nat → Tile → Tile) {l : List Nat} {g : Nat} (h : g ∉ l) (s : State) :
    (s.updTiles f l).tile g = s.tile g := by
  induction l generalizing s with
  | nil => rfl
  | cons x r ih =>
    obtain ⟨hx, hr⟩ := not_or.mp (mt List.mem_cons.mpr h)
    exact (ih hr _).trans (State.tile_updTile_other s x g _ hx)

theorem State.updTiles_tile_of_mem (f : Nat → Tile → Tile) {l : List Nat} (hn : l.Nodup) {g : Nat} (h : g ∈ l) (s : State) :
    (s.updTiles f l).tile g = f g (s.tile g) := by
  induction l generalizing s with
  | nil => cases h
  | cons x r ih =>
    obtain ⟨hx, hr⟩ := List.nodup_cons.mp hn
    by_cases he : g = x
    · subst he
      exact (State.updTiles_tile_of_notMem f hx _).trans (State.tile_updTile_same s g _)
    · exact (ih hr ((List.mem_cons.mp h).resolve_left he) _).trans (congrArg _ (State.tile_updTile_other s x g _ he))

theorem State.updTiles_launches (f : Nat → Tile → Tile) (l : List Nat) (s : State) : (s.updTiles f l).launches = s.launches := by
  have h := congrArg State.launches (s.updTiles_rest f l)
  exact h

theorem State.updTiles_mem (f : Nat → Tile → Tile) (l : List Nat) (s : State) : (s.updTiles f l).mem = s.mem := by
  have h := congrArg State.mem (s.updTiles_rest f l)
  exact h

theorem State.updTiles_who (f : Nat → Tile → Tile) (l : List Nat) (s : State) : (s.updTiles f l).who = s.who := by
  have h := congrArg State.who (s.updTiles_rest f l)
  exact h

theorem State.updTiles_fw (f : Nat → Tile → Tile) (l : List Nat) (s : State) : (s.updTiles f l).fw = s.fw := by
  have h := congrArg State.fw (s.updTiles_rest f l)
  exact h

/-- What every change of one tile keeps of it, the change of a list of tiles keeps of each. -/
theorem State.updTiles_keeps {α : Type} (π : Tile → α) {f : Nat → Tile → Tile} (hf : ∀ g t, π (f g t) = π t) (l : List Nat) (s : State)
    (g : Nat) : π ((s.updTiles f l).tile g) = π (s.tile g) := by
  induction l generalizing s with
  | nil => rfl
  | cons x r ih =>
    refine (ih (s.updTile x (f x))).trans ?_
    by_cases he : g = x
    · subst he
      rw [State.tile_updTile_same, hf]
    · rw [State.tile_updTile_other s x g _ he]

/-- Changes of tiles beside their control cores and bindings leave the executing tile where it stands. -/
theorem State.onTile.updTiles_plainAt {s : State} {k : Nat} {a : CodeAddr} (ho : s.onTile k) (ha : s.plainAt a)
    {f : Nat → Tile → Tile} (ht : ∀ g t, (f g t).tcc = t.tcc) (hb : ∀ g t, (f g t).bound = t.bound) (l : List Nat) :
    (s.updTiles f l).cur = s.cur ∧ (s.updTiles f l).plainAt a := by
  have ho' : (s.updTiles f l).onTile k := (s.updTiles_who f l).trans ho
  have htcc := s.updTiles_keeps Tile.tcc ht l k
  have hcur : (s.updTiles f l).cur = s.cur := by rw [ho'.cur, ho.cur, htcc]
  exact ⟨hcur, State.plainAt_congr ha (s.updTiles_who f l) hcur (ho.image_congr ho' htcc (s.updTiles_keeps Tile.bound hb l k)
    (s.updTiles_launches f l) (s.updTiles_fw f l))⟩

/-! ### BARSET (R178) -/

/-- Column and row of a tile of a launch lie in the rectangle of a set. -/
def BarSet.holds (b : BarSet) (lw ltn : Nat) : Prop :=
  b.x0 ≤ ltn % lw ∧ ltn % lw < b.x0 + b.w ∧ b.y0 ≤ ltn / lw ∧ ltn / lw < b.y0 + b.h

theorem mem_rectLtns {lw x0 y0 w h n : Nat} (hw : x0 + w ≤ lw) : n ∈ rectLtns lw x0 y0 w h ↔
    x0 ≤ n % lw ∧ n % lw < x0 + w ∧ y0 ≤ n / lw ∧ n / lw < y0 + h := by
  simp only [rectLtns, List.mem_flatMap, List.mem_map, List.mem_range]
  constructor
  · rintro ⟨y, hy, x, hx, rfl⟩
    have hmod : ((y0 + y) * lw + x0 + x) % lw = x0 + x := by
      rw [Nat.add_assoc, Nat.mul_comm, Nat.mul_add_mod, Nat.mod_eq_of_lt (by omega)]
    have hdiv : ((y0 + y) * lw + x0 + x) / lw = y0 + y := by
      rw [Nat.add_assoc, Nat.mul_comm, Nat.mul_add_div (by omega), Nat.div_eq_of_lt (by omega), Nat.add_zero]
    omega
  · rintro ⟨h1, h2, h3, h4⟩
    have hn := Nat.div_add_mod n lw
    refine ⟨n / lw - y0, by omega, n % lw - x0, by omega, ?_⟩
    rw [Nat.add_sub_cancel' h3, Nat.mul_comm, Nat.add_assoc, Nat.add_sub_cancel' h1, hn]

/-- A tile is a member of a set exactly where its place in the launch is in the set's rectangle. -/
theorem Launch.mem_members {l : Launch} {b : BarSet} (hn : l.tiles.Nodup) (hw : b.x0 + b.w ≤ l.pkt.w) {ltn g : Nat}
    (ht : l.tiles[ltn]? = some g) : g ∈ l.members b ↔ b.holds l.pkt.w ltn := by
  rw [Launch.members, List.mem_filterMap, BarSet.holds, ← mem_rectLtns hw]
  constructor
  · rintro ⟨m, hm, hg⟩
    obtain ⟨hlt, rfl⟩ := List.getElem?_eq_some_iff.mp ht
    obtain ⟨hlt', he⟩ := List.getElem?_eq_some_iff.mp hg
    rwa [← (List.Nodup.getElem_inj_iff hn).mp he]
  · exact fun h => ⟨ltn, h, ht⟩

/-- The rectangle that BARSET's operand names in a launch: a size of 0 reaches to the launch's edge. -/
def Launch.barRect (l : Launch) (v : Nat) : BarSet :=
  { x0 := v % 2 ^ 16
    y0 := v / 2 ^ 16 % 2 ^ 16
    w := if v / 2 ^ 32 % 2 ^ 16 = 0 then l.pkt.w - v % 2 ^ 16 else v / 2 ^ 32 % 2 ^ 16
    h := if v / 2 ^ 48 = 0 then l.pkt.h - v / 2 ^ 16 % 2 ^ 16 else v / 2 ^ 48
    arrived := [] }

/-- A set lies in a rectangle of lw by lh. -/
def BarSet.inside (b : BarSet) (lw lh : Nat) : Prop := b.x0 < lw ∧ b.y0 < lh ∧ b.x0 + b.w ≤ lw ∧ b.y0 + b.h ≤ lh

/-- Two sets have one rectangle. -/
def BarSet.sameRect (b c : BarSet) : Prop := b.x0 = c.x0 ∧ b.y0 = c.y0 ∧ b.w = c.w ∧ b.h = c.h

theorem BarSet.not_inside_iff (b : BarSet) (lw lh : Nat) : (lw ≤ b.x0 ∨ lh ≤ b.y0 ∨ lw < b.x0 + b.w ∨ lh < b.y0 + b.h) ↔
    ¬ b.inside lw lh := by
  rw [BarSet.inside]
  omega

/-- Barrier n of a launch holds the rectangle of a set. -/
def Launch.keepsBar (l : Launch) (n : Nat) (b : BarSet) : Bool :=
  match AMap.find? l.bars n with
  | some o => decide ({ o with arrived := [] } = b)
  | none => false

/-- The open generation of barrier n has an arrival. -/
def Launch.busyBar (l : Launch) (n : Nat) : Bool :=
  match AMap.find? l.bars n with
  | some o => !o.arrived.isEmpty
  | none => false

theorem Launch.keepsBar_iff {l : Launch} {n : Nat} {b : BarSet} (hb : b.arrived = []) : l.keepsBar n b = true ↔
    ∃ o, AMap.find? l.bars n = some o ∧ o.sameRect b := by
  unfold Launch.keepsBar
  cases AMap.find? l.bars n with
  | none => simp
  | some o =>
    cases b
    simp only at hb
    simp [BarSet.sameRect, hb]

theorem Launch.busyBar_iff {l : Launch} {n : Nat} : l.busyBar n = true ↔ ∃ o, AMap.find? l.bars n = some o ∧ o.arrived ≠ [] := by
  unfold Launch.busyBar
  cases AMap.find? l.bars n with
  | none => simp
  | some o => simp

/-- A launch whose barrier n holds a set: its arrivals stay where it held the same. -/
def Launch.withBar (l : Launch) (n : Nat) (b : BarSet) : Launch :=
  if l.keepsBar n b then l else { l with bars := AMap.put l.bars n b }

/-- A tile whose barrier n is set, the tile a member or not; a change begins the count of R388 again. -/
def Tile.barred (n : Nat) (member : Bool) (t : Tile) : Tile :=
  { t with bst := AMap.put t.bst n { t.bar n with cfg := true, member := member },
           stall := if { t.bar n with cfg := true, member := member } = t.bar n then t.stall else 0 }

/-- What the setting of barrier n of a launch does to tile g. -/
def Launch.barTile (l : Launch) (n : Nat) (b : BarSet) (g : Nat) : Tile → Tile :=
  Tile.barred n (((l.withBar n b).members b).contains g)

/-- Barrier n of launch i is set on the launch and on every tile of it. -/
def State.barredAll (s : State) (i : Nat) (l : Launch) (n : Nat) (b : BarSet) : State :=
  State.updTiles (l.barTile n b) l.tiles { s with launches := AMap.put s.launches i (l.withBar n b) }

theorem fld_low16 (v : Word) : fld v 15 0 = v.toNat % 2 ^ 16 := by simp [fld, bitsN]

theorem fld_high16 (v : Word) : fld v 63 48 = v.toNat / 2 ^ 48 := by
  have h := v.isLt
  simp only [fld, bitsN]
  omega

section
variable {s : State} {k i : Nat} {l : Launch} {x : Reg} {n : BitVec 6} (ho : s.onTile k) (hp : s.cur.pfx = none)
  (hb : (s.tile k).bound = some i) (hl : AMap.find? s.launches i = some l)
include ho hp hb hl

/-- BARSET on a tile of a launch, by the rectangle of its operand. -/
theorem execBarset_eq {b : BarSet} (hr : b = l.barRect (s.g x).toNat) : execBarset x n s = s.tileOnly (fun s =>
    if l.pkt.w ≤ b.x0 ∨ l.pkt.h ≤ b.y0 ∨ l.pkt.w < b.x0 + b.w ∨ l.pkt.h < b.y0 + b.h then
      .trap (TrapI.mk3 15 1 (BitVec.ofNat 64 n.toNat)) s
    else if (!l.keepsBar n.toNat b && l.busyBar n.toNat) = true then .trap (TrapI.mk3 15 2 (BitVec.ofNat 64 n.toNat)) s
    else .ok .seq (s.barredAll i l n.toNat b)) := by
  refine State.tileOnly_congr ho hp ?_
  simp only [ho.me, hb, hl, Launch.dims, fld_low16, fld_high16, Word.zeroExtend_eq, hr]
  rfl

theorem execBarset_outside (h : ¬ (l.barRect (s.g x).toNat).inside l.pkt.w l.pkt.h) :
    execBarset x n s = .next (s.raise (TrapI.mk3 15 1 (BitVec.ofNat 64 n.toNat))) :=
  (execBarset_eq ho hp hb hl rfl).trans (State.tileOnly_raises ho hp (if_pos ((BarSet.not_inside_iff _ _ _).mpr h)))

variable (h : (l.barRect (s.g x).toNat).inside l.pkt.w l.pkt.h)
include h

theorem execBarset_busy (hs : l.keepsBar n.toNat (l.barRect (s.g x).toNat) = false) (hb' : l.busyBar n.toNat = true) :
    execBarset x n s = .next (s.raise (TrapI.mk3 15 2 (BitVec.ofNat 64 n.toNat))) :=
  (execBarset_eq ho hp hb hl rfl).trans (State.tileOnly_raises ho hp
    ((if_neg (mt (BarSet.not_inside_iff _ _ _).mp (not_not.mpr h))).trans (if_pos (by rw [hs, hb']; rfl))))

theorem execBarset_sets {a : CodeAddr} (hs : l.keepsBar n.toNat (l.barRect (s.g x).toNat) = true ∨ l.busyBar n.toNat = false)
    (ha : (s.barredAll i l n.toNat (l.barRect (s.g x).toNat)).plainAt a) :
    execBarset x n s = .next ((s.barredAll i l n.toNat (l.barRect (s.g x).toNat)).goneTo a) :=
  (execBarset_eq ho hp hb hl rfl).trans (State.tileOnly_seq ho hp
    ((if_neg (mt (BarSet.not_inside_iff _ _ _).mp (not_not.mpr h))).trans
      (if_neg (by rcases hs with hs | hs <;> simp [hs]))) ha)

end

/-! ### What BARSET leaves -/

theorem Launch.withBar_bars (l : Launch) (n : Nat) (b : BarSet) : l.withBar n b = { l with bars := (l.withBar n b).bars } := by
  unfold Launch.withBar
  split <;> rfl

theorem Launch.withBar_other {l : Launch} {n j : Nat} {b : BarSet} (h : j ≠ n) :
    AMap.find? (l.withBar n b).bars j = AMap.find? l.bars j := by
  unfold Launch.withBar
  split
  · rfl
  · exact AMap.find?_put_other _ _ _ _ h

/-- The set that barrier n then holds: the rectangle, with the arrivals of the same set or none. -/
theorem Launch.withBar_set {l : Launch} {n : Nat} {b : BarSet} (hb : b.arrived = []) : ∃ c, AMap.find? (l.withBar n b).bars n = some c ∧
    c.sameRect b ∧ (∀ o, AMap.find? l.bars n = some o → o.sameRect b → c.arrived = o.arrived) ∧
    ((∀ o, AMap.find? l.bars n = some o → ¬ o.sameRect b) → c.arrived = []) := by
  have hk := Launch.keepsBar_iff (l := l) (n := n) hb
  unfold Launch.withBar
  split
  next h =>
    obtain ⟨o, ho, hs⟩ := hk.mp h
    refine ⟨o, ho, hs, fun o' ho' _ => ?_, fun hd => absurd hs (hd o ho)⟩
    rw [Option.some.inj (ho.symm.trans ho')]
  next h =>
    exact ⟨b, AMap.find?_put_same _ _ _, ⟨rfl, rfl, rfl, rfl⟩, fun o ho hs => absurd (hk.mpr ⟨o, ho, hs⟩) h, fun _ => hb⟩

theorem Launch.withBar_members (l : Launch) (n : Nat) (b c : BarSet) : (l.withBar n b).members c = l.members c := by
  rw [Launch.withBar_bars]
  rfl

theorem Tile.barred_bar (n : Nat) (m : Bool) (t : Tile) : (t.barred n m).bar n = { t.bar n with cfg := true, member := m } :=
  AMap.getD_put_same _ _ _ _

theorem Tile.barred_bar_other {n j : Nat} (h : j ≠ n) (m : Bool) (t : Tile) : (t.barred n m).bar j = t.bar j :=
  AMap.getD_put_other _ _ _ _ _ h

/-- On every tile of the launch CFG is 1 and MEMBER says whether the set's rectangle holds its place. -/
theorem State.barredAll_bar {s : State} {i n ltn g : Nat} {l : Launch} {b : BarSet} (hn : l.tiles.Nodup) (hw : b.x0 + b.w ≤ l.pkt.w)
    (ht : l.tiles[ltn]? = some g) {m : Bool} (hm : m = true ↔ b.holds l.pkt.w ltn) : ((s.barredAll i l n b).tile g).bar n =
    { (s.tile g).bar n with cfg := true, member := m } := by
  have hmem : ((l.withBar n b).members b).contains g = m := by
    rw [Launch.withBar_members, Bool.eq_iff_iff, List.contains_iff_mem, hm, Launch.mem_members hn hw ht]
  rw [State.barredAll, State.updTiles_tile_of_mem _ hn (List.mem_of_getElem? ht), Launch.barTile, Tile.barred_bar, hmem]
  rfl

theorem State.barredAll_mem (s : State) (i : Nat) (l : Launch) (n : Nat) (b : BarSet) : (s.barredAll i l n b).mem = s.mem :=
  State.updTiles_mem _ _ _

theorem State.barredAll_launch (s : State) (i : Nat) (l : Launch) (n : Nat) (b : BarSet) :
    AMap.find? (s.barredAll i l n b).launches i = some (l.withBar n b) := by
  rw [State.barredAll, State.updTiles_launches]
  exact AMap.find?_put_same _ _ _

/-- Of every tile, all but the barriers and the count of R388 stays. -/
theorem State.barredAll_tile (s : State) (i : Nat) (l : Launch) (n : Nat) (b : BarSet) (g : Nat) :
    { (s.barredAll i l n b).tile g with bst := (s.tile g).bst, stall := (s.tile g).stall } = s.tile g :=
  State.updTiles_keeps (fun t => { t with bst := (s.tile g).bst, stall := (s.tile g).stall }) (f := l.barTile n b) (fun _ _ => rfl) _ _ g

theorem State.barredAll_outside (s : State) (i n : Nat) {l : Launch} (b : BarSet) {g : Nat} (h : g ∉ l.tiles) :
    (s.barredAll i l n b).tile g = s.tile g := State.updTiles_tile_of_notMem _ h _

theorem State.barredAll_bar_other (s : State) (i : Nat) (l : Launch) {n j : Nat} (b : BarSet) (h : j ≠ n) (g : Nat) :
    ((s.barredAll i l n b).tile g).bar j = (s.tile g).bar j :=
  State.updTiles_keeps (fun t => t.bar j) (f := l.barTile n b) (fun _ _ => Tile.barred_bar_other h _ _) _ _ g

theorem State.onTile.barredAll_plainAt {s : State} {k i n : Nat} {l : Launch} {b : BarSet} {a : CodeAddr} (ho : s.onTile k)
    (ha : s.plainAt a) (hl : AMap.find? s.launches i = some l) :
    (s.barredAll i l n b).cur = s.cur ∧ (s.barredAll i l n b).plainAt a :=
  State.onTile.updTiles_plainAt (s := { s with launches := AMap.put s.launches i (l.withBar n b) })
    (f := l.barTile n b) ho
    (State.plainAt_putLaunch hl (by rw [Launch.withBar_bars]) ha) (fun _ _ => rfl) (fun _ _ => rfl) l.tiles

/-! ### The release (R181, R182) -/

/-- A tile that no longer waits at a barrier. -/
def Tile.freed (t : Tile) : Tile := { t with barWait := none, ballast := none }

/-- A tile whose start is held back. -/
def Tile.gate (t : Tile) : Tile := { t with gated := true }

/-- What a request of starts leaves unchanged. -/
theorem State.requestStarts_rest (s : State) (entry : Bool) (l : List Nat) :
    { s.requestStarts entry l with gov := s.gov } = s.updTiles (fun _ => Tile.gate) l := by
  have h : (s.updTiles (fun _ => Tile.gate) l).gov = s.gov := by
    have h := congrArg State.gov (s.updTiles_rest (fun _ => Tile.gate) l)
    exact h
  rw [← h]
  rfl

theorem State.requestStarts_tile (s : State) (entry : Bool) (l : List Nat) (g : Nat) :
    (s.requestStarts entry l).tile g = (s.updTiles (fun _ => Tile.gate) l).tile g := by
  have h := congrArg (fun u : State => u.tile g) (s.requestStarts_rest entry l)
  exact h

theorem State.requestStarts_launches (s : State) (entry : Bool) (l : List Nat) : (s.requestStarts entry l).launches = s.launches := by
  have h := congrArg State.launches (s.requestStarts_rest entry l)
  exact h.trans (s.updTiles_launches _ l)

theorem State.requestStarts_mem (s : State) (entry : Bool) (l : List Nat) : (s.requestStarts entry l).mem = s.mem := by
  have h := congrArg State.mem (s.requestStarts_rest entry l)
  exact h.trans (s.updTiles_mem _ l)

/-- The members of a set that wait at barrier n. -/
def State.waiters (s : State) (n : Nat) (ms : List Nat) : List Nat := ms.filter (fun g => decide ((s.tile g).barWait = some n))

/-- The state after the release of barrier n of launch k to members ms, before starts are requested. -/
def State.generationOver (s : State) (k n : Nat) (l : Launch) (b : BarSet) (ms : List Nat) : State :=
  { (s.updTiles (fun _ t => t.released n) ms).updTiles (fun _ => Tile.freed) (s.waiters n ms) with
    launches := AMap.put s.launches k { l with bars := AMap.put l.bars n { b with arrived := [] } } }

section
variable {s : State} {k n : Nat} {l : Launch} {b : BarSet} (hl : AMap.find? s.launches k = some l) (hb : AMap.find? l.bars n = some b)
include hl hb

theorem State.release_awaited (h : ∃ g ∈ l.members b, g ∉ b.arrived.map Prod.fst) : s.release k n = s := by
  obtain ⟨g, hg, hn⟩ := h
  simp only [State.release, hl, hb]
  refine if_pos ?_
  rw [Bool.not_eq_true', List.all_eq_false]
  exact ⟨g, hg, by rwa [List.contains_iff_mem]⟩

/-- The release of a generation, with the starts that it requests. -/
theorem State.release_complete (h : ∀ g ∈ l.members b, g ∈ b.arrived.map Prod.fst) : ∃ starts, (∀ g ∈ starts, g ∈ l.members b) ∧
    (s.release k n = s.generationOver k n l b (l.members b) ∨
     s.release k n = (s.generationOver k n l b (l.members b)).requestStarts false starts) := by
  refine ⟨(s.waiters n (l.members b)).filter (fun g => (s.tile g).ballast.isNone),
    fun g hg => List.mem_of_mem_filter (List.mem_of_mem_filter hg), ?_⟩
  have hall : ¬ (!(l.members b).all (fun g => (b.arrived.map Prod.fst).contains g)) = true := by
    rw [Bool.not_eq_true', Bool.not_eq_false, List.all_eq_true]
    exact fun g hg => List.contains_iff_mem.mpr (h g hg)
  have hlaunch : ((s.updTiles (fun _ t => t.released n) (l.members b)).updTiles (fun _ => Tile.freed)
      (s.waiters n (l.members b))).launches = s.launches := by rw [State.updTiles_launches, State.updTiles_launches]
  simp only [State.release, hl, hb]
  rw [if_neg hall, State.generationOver, ← hlaunch]
  split
  · exact .inl rfl
  · exact .inr rfl

end

section
variable (s : State) (k n : Nat) (l : Launch) (b : BarSet) (ms : List Nat)

theorem State.generationOver_tile (g : Nat) : (s.generationOver k n l b ms).tile g =
    ((s.updTiles (fun _ t => t.released n) ms).updTiles (fun _ => Tile.freed) (s.waiters n ms)).tile g := rfl

theorem State.generationOver_mem : (s.generationOver k n l b ms).mem = s.mem :=
  (State.updTiles_mem _ _ _).trans (State.updTiles_mem _ _ _)

theorem State.generationOver_other {g : Nat} (h : g ∉ ms) : (s.generationOver k n l b ms).tile g = s.tile g := by
  rw [State.generationOver_tile, State.updTiles_tile_of_notMem _ (l := s.waiters n ms) (fun hg => h (List.mem_of_mem_filter hg)),
    State.updTiles_tile_of_notMem _ h]

theorem Tile.released_bar (t : Tile) : (t.released n).bar n = { t.bar n with gen := (t.bar n).gen + 1, arr := false, rel := true } :=
  AMap.getD_put_same _ _ _ _

theorem Tile.released_latch (t : Tile) : (t.released n).tcc.latches.getLsbD 3 = true := by
  have h := getLsbD_setBit t.tcc.latches (i := 3) (by decide) true 3
  exact h.trans (by simp)

/-- What freeing keeps of a tile is, of each member, what the release gives it. -/
theorem State.generationOver_member {α : Type} (π : Tile → α) (hf : ∀ t : Tile, π t.freed = π t) (hn : ms.Nodup) {g : Nat} (h : g ∈ ms) :
    π ((s.generationOver k n l b ms).tile g) = π ((s.tile g).released n) := by
  rw [State.generationOver_tile, State.updTiles_keeps π (fun _ => hf), State.updTiles_tile_of_mem _ hn h]

end

section
variable {s : State} {k n : Nat} {l : Launch} {b : BarSet} (hl : AMap.find? s.launches k = some l) (hb : AMap.find? l.bars n = some b)
  (h : ∀ g ∈ l.members b, g ∈ b.arrived.map Prod.fst)
include hl hb h

/-- What neither freeing nor gating changes of a tile is, of each member, what the release gives it. -/
theorem State.release_member {α : Type} (π : Tile → α) (hf : ∀ t : Tile, π t.freed = π t) (hg : ∀ t : Tile, π t.gate = π t)
    (hn : (l.members b).Nodup) {g : Nat} (hm : g ∈ l.members b) : π ((s.release k n).tile g) = π ((s.tile g).released n) := by
  obtain ⟨starts, -, hr | hr⟩ := State.release_complete hl hb h
  · rw [hr, State.generationOver_member s k n l b _ π hf hn hm]
  · rw [hr, State.requestStarts_tile, State.updTiles_keeps π (fun _ => hg), State.generationOver_member s k n l b _ π hf hn hm]

theorem State.release_other {g : Nat} (hm : g ∉ l.members b) : (s.release k n).tile g = s.tile g := by
  obtain ⟨starts, hs, hr | hr⟩ := State.release_complete hl hb h
  · rw [hr, State.generationOver_other s k n l b _ hm]
  · rw [hr, State.requestStarts_tile, State.updTiles_tile_of_notMem _ (mt (hs g) hm), State.generationOver_other s k n l b _ hm]

theorem State.release_mem : (s.release k n).mem = s.mem := by
  obtain ⟨starts, -, hr | hr⟩ := State.release_complete hl hb h
  · rw [hr, State.generationOver_mem]
  · rw [hr, State.requestStarts_mem, State.generationOver_mem]

theorem State.release_launch : AMap.find? (s.release k n).launches k =
    some { l with bars := AMap.put l.bars n { b with arrived := [] } } := by
  obtain ⟨starts, -, hr | hr⟩ := State.release_complete hl hb h
  · rw [hr]
    exact AMap.find?_put_same _ _ _
  · rw [hr, State.requestStarts_launches]
    exact AMap.find?_put_same _ _ _

end

end Sys2Proof.Machine

/-! SUPPORT. Barriers as a whole (R178 to R182): a tile's own instructions, BARSET, and the release. -/

namespace Sys2Proof.Machine

/-- Settles O40: a tile's own instructions, BARSET, and the release, each by the lemmas about its outcomes. -/
theorem barriers : Obligations.Barriers := by
  unfold Obligations.Barriers
  refine ⟨?_, ?_, ?_⟩
  · intro s k d n sc a ho ha hp b fault here
    rw [exec_bara, exec_barw, exec_baraw]
    have faults {t : TrapI} (ht : s.barCheck n.toNat = some t) : execBara n sc s = .next (s.raise t) ∧ execBarw d n s = .next (s.raise t) ∧
        execBaraw d n sc s = .next (s.raise t) := ⟨execBara_faults ho hp ht, execBarw_faults ho hp ht, execBaraw_faults ho hp ht⟩
    have hhere : s.updMe (Tile.arrives n.toNat) = here :=
      (ho.updMe_const (Tile.arrives n.toNat)).symm.trans
        (ho.updMe_const (fun t => { t with bst := AMap.put t.bst n.toNat { b with arr := true, rel := false } }))
    have hplain : here.plainAt a := State.plainAt_updMe ha ho _ rfl rfl
    refine ⟨fun hc => faults (ho.barCheck_some.mpr (.inl ⟨hc, rfl⟩)), fun hc hm => faults (ho.barCheck_some.mpr (.inr ⟨hc, hm, rfl⟩)),
      fun hc hm h => ⟨execBara_held ho hp hc hm h, execBaraw_held ho hp hc hm h, s.waitBar n.toNat, execBarw_held ho hp hc hm h,
        fun hm' => (execBaraw_marked ho hp hm').trans (execBarw_held ho hp hc hm h), ho.waitBar_cur _, rfl, ?_, ?_⟩,
      fun hc hm h => ⟨execBarw_passes ho hp hc hm h ha, execBaraw_marked ho hp, fun hl => ?_, fun l i hb hl hn => ?_,
        execBaraw_arrives ho hp hc hm h⟩⟩
    · rw [ho.waitBar_tile]
      rfl
    · rw [ho.waitBar_tile]
      rfl
    · have hgo := execBara_arrives (sc := sc) (a := a) ho hp hc hm h
      rw [ho.arrive_unheld hl, hhere] at hgo
      exact hgo hplain
    · intro p
      have hgo := execBara_arrives (sc := sc) (a := a) ho hp hc hm h
      rw [ho.arrive_held hb hl hn, hhere] at hgo
      exact hgo (State.plainAt_congr hplain rfl rfl rfl)
  · intro s k i l x n a ho ha hp hb hl hg v x0 y0 lw lh w h inside differs fault isIn
    rw [exec_barset]
    have hk := Launch.keepsBar_iff (l := l) (n := n.toNat) (b := l.barRect v) rfl
    have hbusy := Launch.busyBar_iff (l := l) (n := n.toNat)
    refine ⟨execBarset_outside ho hp hb hl, fun hin hd => ?_, fun hin hd hnd hlen => ?_⟩
    · obtain ⟨o, ho', hdiff, harr⟩ := hd
      refine execBarset_busy ho hp hb hl hin (Bool.eq_false_iff.mpr fun hs => ?_) (hbusy.mpr ⟨o, ho', harr⟩)
      obtain ⟨o', hf, hsame⟩ := hk.mp hs
      exact hdiff (Option.some.inj (hf.symm.trans ho') ▸ hsame)
    · have hset : l.keepsBar n.toNat (l.barRect v) = true ∨ l.busyBar n.toNat = false := by
        refine or_iff_not_imp_right.mpr fun hbz => ?_
        obtain ⟨o, hf, harr⟩ := hbusy.mp (Bool.not_eq_false _ ▸ hbz)
        exact hk.mpr ⟨o, hf, not_not.mp fun hd' => harr (hd o hf hd')⟩
      obtain ⟨hcur, hplain⟩ := ho.barredAll_plainAt (n := n.toNat) (b := l.barRect v) ha hl
      obtain ⟨c, hc, ⟨hcx, hcy, hcw, hch⟩, hkept, hnew⟩ := Launch.withBar_set (l := l) (n := n.toNat) (b := l.barRect v) rfl
      refine ⟨_, execBarset_sets ho hp hb hl hin hset hplain, State.barredAll_mem _ _ _ _ _, hcur, fun ltn g ht => ?_, fun g => ?_,
        fun g hg => ?_, fun g j hj => ?_, l.withBar n.toNat (l.barRect v), c, State.barredAll_launch _ _ _ _ _, hc, hcx, hcy,
        hcw, hch, Launch.withBar_bars _ _ _, fun j hj => Launch.withBar_other hj,
        fun o hf hs => hkept o hf (not_not.mp hs), hnew⟩
      · obtain ⟨-, -, hwide, -⟩ := hin
        exact State.barredAll_bar hnd hwide ht decide_eq_true_iff
      · exact State.barredAll_tile s i l _ _ g
      · exact State.barredAll_outside s i _ _ hg
      · exact State.barredAll_bar_other s i l _ hj g
  · intro s i n l b hl hb ms here
    refine ⟨State.release_awaited hl hb, fun h hn => ⟨fun g hm => ?_, ⟨_, State.release_launch hl hb h, _, AMap.find?_put_same _ _ _,
      rfl, rfl, rfl, rfl, rfl⟩, fun g => State.release_other hl hb h, State.release_mem hl hb h⟩⟩
    exact ⟨(State.release_member hl hb h (fun t => t.bar n) (fun _ => rfl) (fun _ => rfl) hn hm).trans (Tile.released_bar n _),
      (State.release_member hl hb h (fun t => t.tcc.latches.getLsbD 3) (fun _ => rfl) (fun _ => rfl) hn hm).trans
        (Tile.released_latch n _)⟩

end Sys2Proof.Machine

/-! SUPPORT. A matrix command alone at the head of XQ (O58): what its effects may change, and how it completes, goes on or faults
(R26, R171). -/

namespace Sys2Proof.Machine

/-! ### The scaled drains' LFSR through a completion (R86) -/

theorem Tile.pushes_seed (t : Tile) (q : Q) (cmd : Word) : (t.pushes q cmd).seed = t.seed ∧ (t.pushes q cmd).seedNext = t.seedNext := by
  unfold Tile.pushes
  rw [pushesOf_eq]
  cases q <;> cases cmd.getLsbD 34 <;> cases cmd.getLsbD 35 <;> exact ⟨rfl, rfl⟩

theorem Tile.tagComplete_seed (t : Tile) (i : Nat) : (t.tagComplete i).seed = t.seed ∧ (t.tagComplete i).seedNext = t.seedNext := by
  unfold Tile.tagComplete
  dsimp only
  split <;> exact ⟨rfl, rfl⟩

theorem Tile.setQueue_seed (t : Tile) (q : Q) (x : Queue) : (t.setQueue q x).seed = t.seed ∧ (t.setQueue q x).seedNext = t.seedNext := by
  cases q <;> exact ⟨rfl, rfl⟩

theorem Tile.marked_seed (t : Tile) (q : Q) (e : QEntry) : (t.marked q e).seed = t.seed ∧ (t.marked q e).seedNext = t.seedNext := by
  obtain ⟨p1, p2⟩ := t.pushes_seed q e.cmd
  unfold Tile.marked Tile.paid
  dsimp only
  rw [(Tile.setQueue_seed _ _ _).1, (Tile.setQueue_seed _ _ _).2]
  cases tagOf e.cmd with
  | none => exact ⟨p1, p2⟩
  | some i =>
    obtain ⟨t1, t2⟩ := ((t.pushes q e.cmd).bump (131 + q.code)).tagComplete_seed i
    exact ⟨t1.trans p1, t2.trans p2⟩

theorem Tile.settleSeed_none {t : Tile} (h : t.seedNext = []) : t.settleSeed = t := by
  unfold Tile.settleSeed
  simp [h]

theorem Tile.settledAs_seed {t : Tile} (h : t.seedNext = []) (q : Q) : (t.settledAs q).seed = t.seed := by
  unfold Tile.settledAs
  rw [Tile.settleSeed_none ((Tile.setQueue_seed _ _ _).2.trans h), (Tile.setQueue_seed _ _ _).1]

/-- A completion leaves the LFSR where no MTS to SEED waits for it. -/
theorem State.complete_seed {s : State} {g : Nat} {q : Q} {en : QEntry} {rest : List QEntry} (h : ((s.tile g).queue q).AtHead en rest)
    (hp : (s.tile g).pushRoom q en.cmd) (hn : (s.tile g).seedNext = []) :
    ((s.complete g q en.isn).tile g).seed = (s.tile g).seed := by
  have hpaid := (s.tile g).paid_fields q en
  have hmq : ((s.tile g).marked q en).queue q = Queue.mpcIdle en.isn { (s.tile g).queue q with
      ents := updWhere (fun k => decide (k.isn = en.isn)) (fun k => { k with st := .done }) ((s.tile g).queue q).ents } := by
    rw [Tile.marked]
    dsimp only
    rw [Tile.queue_setQueue_same, hpaid.queue]
  have hhead : (((s.tile g).marked q en).queue q).AtHead { en with st := .done } rest := by
    rw [hmq]
    exact (h.updated (f := fun k => { k with st := .done }) rfl).mpcIdle _
  obtain ⟨_, _, _, _, hsegs⟩ := hhead.settle rfl
  obtain ⟨m1, m2⟩ := (s.tile g).marked_seed q en
  have hs := ((s.tile g).marked q en).settledAs_seed (m2.trans hn) q
  rw [State.complete_eq h.entry ((Tile.canPush_iff _ _ _).mpr hp), State.batchSettle, State.tile_updTile_same,
    State.settleQueue_eq (by rw [State.tile_setTile_same]; exact hsegs)]
  split
  · rw [State.tile_setTile_same, State.tile_setTile_same]
    exact hs.trans m1
  · rw [State.mirror_tile, State.tile_setTile_same, State.tile_setTile_same]
    exact hs.trans m1

/-! ### The command and its effects -/

/-- The command en stands begun and alone at the head of XQ of tile g, with no push-after bit, no mirror and room in XRET; no MTS to
SEED waits, and no storage error stands or is armed. -/
structure State.MatHead (s : State) (g : Nat) (en : QEntry) : Prop where
  ents : (s.tile g).xq.ents = [en]
  st : en.st = .begun
  sub : en.sub = 0
  made : en.made = false
  runs : (s.tile g).qRuns .x = true
  segs : (s.tile g).xq.segs = []
  isn : (s.tile g).xq.isn = en.isn
  seqw : (s.tile g).seqw = 0
  pal : en.cmd.getLsbD 34 = false
  par : en.cmd.getLsbD 35 = false
  xret : (s.tile g).xret.length < 16
  seed : (s.tile g).seedNext = []
  clean : s.clean

/-- The effects of a matrix command leave in s' memory m, the matrix engine x and the LFSR sd; of the tile nothing else has changed but
what R388, R435 and R483 count. -/
structure State.MatStep (s s' : State) (g : Nat) (m : Memory) (x : Mxe) (sd : BitVec 32) : Prop where
  mem : s'.mem = m
  tile : ∃ n c k, s'.tile g = { s.tile g with mxe := x, seed := sd, stall := n, counters := c, mcapNext := k }

theorem State.MatStep.refl (s : State) (g : Nat) : s.MatStep s g s.mem (s.tile g).mxe (s.tile g).seed := ⟨rfl, _, _, _, rfl⟩

theorem State.MatStep.trans {s s' s'' : State} {g : Nat} {m m' : Memory} {x x' : Mxe} {d d' : BitVec 32} (h : s.MatStep s' g m x d)
    (h' : s'.MatStep s'' g m' x' d') : s.MatStep s'' g m' x' d' := by
  obtain ⟨n, c, k, ht⟩ := h.tile
  obtain ⟨n', c', k', ht'⟩ := h'.tile
  exact ⟨h'.mem, n', c', k', by rw [ht', ht]⟩

/-- The memory alone is another one. -/
theorem State.MatStep.setMem (s : State) (g : Nat) (m : Memory) :
    s.MatStep { s with mem := m } g m (s.tile g).mxe (s.tile g).seed := ⟨rfl, _, _, _, rfl⟩

theorem State.MatStep.updMxe (s : State) (g : Nat) (f : Mxe → Mxe) :
    s.MatStep (s.updMxe g f) g s.mem (f (s.tile g).mxe) (s.tile g).seed :=
  ⟨rfl, _, _, _, State.tile_updTile_same _ _ _⟩

theorem State.MatStep.updZt (s : State) (g n : Nat) (f : ZTile → ZTile) :
    s.MatStep (s.updZt g n f) g s.mem ((s.tile g).mxe.setZt n (f ((s.tile g).mxe.zt n))) (s.tile g).seed :=
  ⟨rfl, _, _, _, State.tile_updTile_same _ _ _⟩

/-- An instruction of the matrix engine: no copy, no vector instruction and no routine call. -/
structure MatrixInstr (i : Instr) : Prop where
  copy : i.isCopy = false
  vector : i.isVector = false
  call : ∀ x, i ≠ .xcall x

/-- An entry whose effects are made, with flags that it has raised. -/
def QEntry.endedWith (fl : BitVec 5) (e : QEntry) : QEntry := { e with made := true, park := none, held := false, flags := e.flags ||| fl }

section
variable {s : State} {g : Nat} {en : QEntry} {i : Instr} (h : s.MatHead g en)
include h

theorem State.MatHead.atHead : ((s.tile g).queue .x).AtHead en [] where
  ents := h.ents
  segs := h.segs
  last _ := h.isn
  undone _ hr := absurd hr List.not_mem_nil
  next _ hr := absurd hr (by simp)

/-- XQ stands as it stood once the effects are made, with the same room. -/
theorem State.MatHead.step {s' : State} {m : Memory} {x : Mxe} {sd : BitVec 32} (hs : s.MatStep s' g m x sd) :
    ((s'.tile g).queue .x).AtHead en [] := by
  obtain ⟨_, _, _, ht⟩ := hs.tile
  rw [ht]
  exact h.atHead

/-- The end of a unit whose push-after tokens are none: its entry leaves the queue, its flags are in FSTAT. -/
theorem State.MatHead.madeUnit_ends {s' : State} (ha : ((s'.tile g).queue .x).AtHead en []) (hw : (s'.tile g).seqw = 0)
    (hn : (s'.tile g).seedNext = []) (fl : BitVec 5) :
    let u := s'.madeUnit g .x en fl none
    (u.tile g).xq.ents = [] ∧ (u.tile g).xq.seq = en.isn ∧ (u.tile g).fstat = ((s'.tile g).fstat ||| (en.flags ||| fl)) ∧
    (u.tile g).xret = (s'.tile g).xret ∧ u.mem = s'.mem ∧ (u.tile g).mxe = (s'.tile g).mxe ∧ (u.tile g).seed = (s'.tile g).seed := by
  have hr : en.inRoutine = false := by
    rw [QEntry.inRoutine, h.sub]
    rfl
  have hu : s'.madeUnit g .x en fl none = (s'.updEntry g .x en.isn (QEntry.endedWith fl)).complete g .x (en.endedWith fl).isn := by
    simp only [State.madeUnit, Option.isSome_none, State.endUnit, hr, Bool.not_false, Bool.false_eq_true, if_false, if_true]
    rfl
  have ht : (s'.updEntry g .x en.isn (QEntry.endedWith fl)).tile g = { s'.tile g with xq := { (s'.tile g).xq with ents := [en.endedWith fl] } } := by
    rw [State.updEntry_head ha, State.tile_setTile_same]
    rfl
  have hh : (((s'.updEntry g .x en.isn (QEntry.endedWith fl)).tile g).queue .x).AtHead (en.endedWith fl) [] := by
    rw [ht]
    exact ⟨rfl, ha.segs, ha.last, fun _ hr => absurd hr List.not_mem_nil, fun _ hr => absurd hr (by simp)⟩
  have hp : ((s'.updEntry g .x en.isn (QEntry.endedWith fl)).tile g).pushRoom .x (en.endedWith fl).cmd :=
    ⟨fun hq => Q.noConfusion hq, fun _ hb => absurd (h.pal.symm.trans hb) Bool.false_ne_true,
      fun _ hb => absurd (h.par.symm.trans hb) Bool.false_ne_true, fun hq => Q.noConfusion hq⟩
  have hc := State.complete_head hh hp
  have hpaid := ((s'.updEntry g .x en.isn (QEntry.endedWith fl)).tile g).paid_fields .x (en.endedWith fl)
  have hseed := State.complete_seed hh hp (by rw [ht]; exact hn)
  have ha := hc.apart
  simp only [Tile.apart, Prod.mk.injEq] at ha
  obtain ⟨_, ax, _, af, _, _, am⟩ := ha
  dsimp only
  rw [hu]
  refine ⟨hc.ents, hc.seq, ?_, ?_, ?_, ?_, ?_⟩
  · exact (af.trans hpaid.fstat).trans (by rw [ht]; rfl)
  · exact (ax.trans hpaid.xret).trans (by rw [ht])
  · exact hc.mem.1 (.inl (by rw [ht]; exact hw))
  · exact (am.trans hpaid.mxe).trans (by rw [ht])
  · exact hseed.trans (by rw [ht])

variable (hi : en.instr = some i) (hm : MatrixInstr i)
include hi hm

theorem State.MatHead.exec : exec (.engineCommandCompletion g .x en.isn) s = .next (s.applyUnit g .x en i) :=
  exec_completion_head h.atHead h.st h.sub h.runs hi hm.copy hm.call

/-- A command whose effects are made completes, and what it pushes stands last in XRET. -/
theorem State.MatHead.done {s' : State} {fl : BitVec 5} {push : Option Word} {m : Memory} {x : Mxe} {sd : BitVec 32}
    (hu : s.unitRun g en i = .done s' fl push) (hs : s.MatStep s' g m x sd) :
    ∃ u, Machine.exec (.engineCommandCompletion g .x en.isn) s = .next u ∧ (u.tile g).xq.ents = [] ∧ (u.tile g).xq.seq = en.isn ∧
      (u.tile g).fstat = ((s.tile g).fstat ||| (en.flags ||| fl)) ∧ (u.tile g).xret = (s.tile g).xret ++ push.toList ∧
      u.mem = m ∧ (u.tile g).mxe = x ∧ (u.tile g).seed = sd := by
  obtain ⟨n, c, k, ht⟩ := hs.tile
  have ha := h.step hs
  rw [h.exec hi hm]
  cases push with
  | none =>
    have hv : s.applyUnit g .x en i = s'.madeUnit g .x en fl none := by
      unfold State.applyUnit
      rw [hu]
      simp only [h.made, hm.vector, Bool.false_eq_true, if_false, Bool.false_and]
    have he := h.madeUnit_ends ha (by rw [ht]; exact h.seqw) (by rw [ht]; exact h.seed) fl
    rw [hv, Option.toList_none, List.append_nil]
    rw [ht, hs.mem] at he
    exact ⟨_, rfl, he⟩
  | some v =>
    have hx : (s'.tile g).pushXret v = some ({ s'.tile g with xret := (s'.tile g).xret ++ [v] }.latch 2) :=
      if_neg (by rw [ht]; exact Nat.not_le.mpr h.xret)
    have hv : s.applyUnit g .x en i =
        (s'.setTile g ({ s'.tile g with xret := (s'.tile g).xret ++ [v] }.latch 2)).madeUnit g .x en fl none := by
      unfold State.applyUnit
      rw [hu]
      simp only [h.made, hm.vector, Bool.false_eq_true, if_false, Bool.false_and, hx]
    have he := h.madeUnit_ends (s' := s'.setTile g ({ s'.tile g with xret := (s'.tile g).xret ++ [v] }.latch 2))
      (by rw [State.tile_setTile_same]; exact ha) (by rw [State.tile_setTile_same, ht]; exact h.seqw)
      (by rw [State.tile_setTile_same, ht]; exact h.seed) fl
    rw [State.tile_setTile_same, State.setTile_mem, ht, hs.mem] at he
    rw [hv]
    rw [ht]
    exact ⟨_, rfl, he⟩

/-- A command that meets a fault stops the queue with it. -/
theorem State.MatHead.fault {s' : State} {f : TrapI} (hu : s.unitRun g en i = .fault f s') :
    Machine.exec (.engineCommandCompletion g .x en.isn) s = .next (s'.engineFault g .x en f) := by
  rw [h.exec hi hm, State.applyUnit, hu]
  simp only [h.made, Bool.false_eq_true, if_false]

/-- A command that waits stays as it was but for its mark. -/
theorem State.MatHead.hold (hu : s.unitRun g en i = .hold) :
    ∃ u, Machine.exec (.engineCommandCompletion g .x en.isn) s = .next u ∧ u.mem = s.mem ∧ (u.tile g).mxe = (s.tile g).mxe ∧
      (u.tile g).xq.ents = [{ en with held := tableWait i }] := by
  rw [h.exec hi hm, State.applyUnit_hold h.made hu, State.setHeld_head h.atHead]
  refine ⟨_, rfl, rfl, ?_, ?_⟩ <;> rw [State.tile_setTile_same] <;> rfl

/-- A command that has made a step goes on, its entry as the step has left it. -/
theorem State.MatHead.more {s' : State} {en' : QEntry} (hu : s.unitRun g en i = .more s') (he : (s'.tile g).xq.ents = [en'])
    (hn : en'.isn = en.isn) :
    ∃ u, Machine.exec (.engineCommandCompletion g .x en.isn) s = .next u ∧ u.mem = s'.mem ∧ (u.tile g).mxe = (s'.tile g).mxe ∧
      (u.tile g).xq.ents = [{ en' with held := false }] := by
  have hv : s.applyUnit g .x en i = (s'.setHeld g .x en false).updTile g (fun t => { t with stall := 0 }) := by
    unfold State.applyUnit
    rw [hu]
    simp only [h.made, Bool.false_eq_true, if_false]
  have ht : (s'.setHeld g .x en false).tile g = { s'.tile g with xq := { (s'.tile g).xq with ents := [{ en' with held := false }] } } := by
    have hw : updWhere (fun e => decide (e.isn = en.isn)) (fun e => { e with held := false }) ((s'.tile g).queue .x).ents =
        [{ en' with held := false }] := by
      have he' : ((s'.tile g).queue .x).ents = [en'] := he
      rw [he', updWhere, List.map_cons, if_pos (decide_eq_true hn), List.map_nil]
    rw [State.setHeld, State.updEntry_eq, State.tile_setTile_same, hw]
    rfl
  rw [h.exec hi hm, hv]
  refine ⟨_, rfl, rfl, ?_, ?_⟩ <;> rw [State.tile_updTile_same, ht]

end

/-- The command completes: it leaves XQ, FSTAT takes its flags, XRET is as given, and P holds of the state. -/
def State.CompletesAs (s : State) (g : Nat) (en : QEntry) (fl : BitVec 5) (xret : List Word) (P : State → Prop) : Prop :=
  ∃ u : State, Machine.exec (.engineCommandCompletion g .x en.isn) s = .next u ∧ (u.tile g).xq.ents = [] ∧
    (u.tile g).xq.seq = en.isn ∧ (u.tile g).fstat = ((s.tile g).fstat ||| (en.flags ||| fl)) ∧ (u.tile g).xret = xret ∧ P u

theorem State.MatHead.completes {s s' : State} {g : Nat} {en : QEntry} {i : Instr} (h : s.MatHead g en) (hi : en.instr = some i)
    (hm : MatrixInstr i) {fl : BitVec 5} {push : Option Word} {m : Memory} {x : Mxe} {sd : BitVec 32}
    (hu : s.unitRun g en i = .done s' fl push) (hs : s.MatStep s' g m x sd) {P : State → Prop}
    (hP : ∀ u : State, u.mem = m → (u.tile g).mxe = x → (u.tile g).seed = sd → P u) :
    s.CompletesAs g en fl ((s.tile g).xret ++ push.toList) P := by
  obtain ⟨u, h1, h2, h3, h4, h5, h6, h7, h8⟩ := h.done hi hm hu hs
  exact ⟨u, h1, h2, h3, h4, h5, hP u h6 h7 h8⟩

/-- A command that pushes no word leaves XRET. -/
theorem State.MatHead.completes_silent {s s' : State} {g : Nat} {en : QEntry} {i : Instr} (h : s.MatHead g en) (hi : en.instr = some i)
    (hm : MatrixInstr i) {fl : BitVec 5} {m : Memory} {x : Mxe} {sd : BitVec 32} (hu : s.unitRun g en i = .done s' fl none)
    (hs : s.MatStep s' g m x sd) {P : State → Prop} (hP : ∀ u : State, u.mem = m → (u.tile g).mxe = x → (u.tile g).seed = sd → P u) :
    s.CompletesAs g en fl (s.tile g).xret P := by
  have hc := h.completes hi hm hu hs hP
  rw [Option.toList_none, List.append_nil] at hc
  exact hc

end Sys2Proof.Machine

/-! SUPPORT. Local reads and writes of clean storage, bytes written one piece after another, and the rows of a z tile (R40, R44, R76). -/

namespace Sys2Proof.Machine

/-! ### Clean storage -/

theorem State.localRead_clean {s : State} (hs : s.clean) (g off n : Nat) :
    s.localRead g off n = (.ok (s.mem.getN (localKey g off) n), s) := by
  unfold State.localRead
  generalize localKey g off = k
  rw [State.readHome_clean hs]

theorem State.spRead_clean {s : State} (hs : s.clean) (g off n : Nat) :
    s.spRead g off n = .ok (s.mem.getN (localKey g off) n, s) := by
  unfold State.spRead
  rw [State.localRead_clean hs]

theorem State.localWrite_clean {s : State} (hs : s.clean) (g off : Nat) (bs : List Byte) :
    s.localWrite g off bs = .ok { s with mem := s.mem.setN (localKey g off) bs } := by
  unfold State.localWrite
  generalize localKey g off = k
  rw [State.writeHome_clean _ _ _ hs.1]

theorem State.laneWrites_clean {s : State} (hs : s.clean) (g : Nat) (ws : List (Nat × List Byte)) :
    s.laneWrites g ws = .ok { s with mem := ws.foldl (fun (m : Memory) (p : Nat × List Byte) => m.setN (localKey g p.1) p.2) s.mem } := by
  obtain ⟨hb, _⟩ := hs
  unfold State.laneWrites
  simp [hb]

/-! ### Pieces of one length, one after another -/

/-- The pieces b 0 to b (n - 1). -/
def joined (b : Nat → List Byte) (n : Nat) : List Byte := (List.range n).flatMap b

section
variable {b : Nat → List Byte} {w : Nat} (hb : ∀ j, (b j).length = w)
include hb

theorem length_joined (n : Nat) : (joined b n).length = w * n := by
  rw [joined, List.length_flatMap, List.map_congr_left fun j _ => hb j, List.map_const', List.sum_replicate, List.length_range,
    smul_eq_mul, Nat.mul_comm]

omit hb in
theorem joined_succ (n : Nat) : joined b (n + 1) = joined b n ++ b n := by
  rw [joined, List.range_succ, List.flatMap_append, List.flatMap_singleton, joined]

/-- Piece q of the pieces joined. -/
theorem joined_piece {n q : Nat} (h : q < n) : ((joined b n).drop (w * q)).take w = b q := by
  induction n with
  | zero => exact absurd h (Nat.not_lt_zero q)
  | succ n ih =>
    have hl := length_joined hb n
    rw [joined_succ]
    rcases Nat.lt_succ_iff_lt_or_eq.mp h with hq | rfl
    · have hle : w * q + w ≤ w * n := by
        have := Nat.mul_le_mul_left w (Nat.succ_le_of_lt hq)
        rwa [Nat.mul_succ] at this
      rw [List.drop_append_of_le_length (by omega), List.take_append_of_le_length (by rw [List.length_drop]; omega), ih hq]
    · rw [List.drop_left' hl, List.take_of_length_le (le_of_eq (hb q))]

/-- Each piece is read back where it was written. -/
theorem Memory.getN_setN_joined {m : Memory} (wf : m.wf = true) (k : Nat) {n q : Nat} (h : q < n) :
    (m.setN k (joined b n)).getN (k + w * q) w = b q := by
  have hle : w * q + w ≤ w * n := by
    have := Nat.mul_le_mul_left w (Nat.succ_le_of_lt h)
    rwa [Nat.mul_succ] at this
  rw [Memory.getN_setN_part m k wf (by rw [length_joined hb]; exact hle), joined_piece hb h]

/-- Pieces written one by one stand as they would written at once. -/
theorem Memory.foldl_setN_joined (m : Memory) (k n : Nat) :
    (List.range n).foldl (fun m j => m.setN (k + w * j) (b j)) m = m.setN k (joined b n) := by
  induction n with
  | zero => rfl
  | succ n ih =>
    rw [List.range_succ, List.foldl_append, ih, joined_succ, Memory.setN_append, length_joined hb]
    rfl

end

theorem Memory.get_setN_joined_other {b : Nat → List Byte} {w : Nat} (hb : ∀ j, (b j).length = w) {m : Memory} (wf : m.wf = true)
    {k n q : Nat} (h : q < k ∨ k + w * n ≤ q) : (m.setN k (joined b n)).get q = m.get q :=
  Memory.get_setN_other _ _ _ _ wf (by rw [length_joined hb]; exact h)

/-! ### Accumulator words -/

/-- The address of word (i, j) of z tile z. -/
def zPlace (g z i j : Nat) : Nat := tileBase g + 0x600000 + z * 0x28000 + i * 1280 + j * 10

/-- Word (i, j) of z tile z. -/
def zWord (m : Memory) (g z i j : Nat) : Int := (BitVec.ofNat 80 (ofBytes (m.getN (zPlace g z i j) 10))).toInt

theorem localKey_zOff (g z i j : Nat) : localKey g (zOff z i j) = zPlace g z i j := by
  simp only [localKey, zOff, zBase, zPlace]
  omega

theorem wrapN_eq (w : Nat) (v : Int) : wrapN w v = (BitVec.ofInt w v).toNat := (BitVec.toNat_ofInt ..).symm

theorem accVal_getN (m : Memory) (k : Nat) (n : Nat) : accVal (m.getN k (10 + n)) = (BitVec.ofNat 80 (ofBytes (m.getN k 10))).toInt := by
  rw [accVal, Memory.getN_add, List.take_left' (Memory.length_getN m k 10), sextN_eq_toInt (by decide)]

/-- The words of a byte string read from memory. -/
theorem accWords_getN (m : Memory) (n k : Nat) : accWords n (m.getN k (10 * n)) =
    (List.range n).map (fun j => (BitVec.ofNat 80 (ofBytes (m.getN (k + j * 10) 10))).toInt) := by
  induction n generalizing k with
  | zero => rfl
  | succ n ih =>
    have hn : 10 * (n + 1) = 10 + 10 * n := by omega
    rw [accWords, hn, accVal_getN, Memory.getN_add, List.drop_left' (Memory.length_getN m k 10), ih, List.range_succ_eq_map,
      List.map_cons, List.map_map, Nat.zero_mul, Nat.add_zero]
    refine congrArg (List.cons _) (List.map_congr_left fun j _ => ?_)
    have hj : k + 10 + j * 10 = k + (j + 1) * 10 := by omega
    simp only [Function.comp_apply, Nat.succ_eq_add_one, hj]

/-- The words lo to hi - 1 of row i of a z tile, the others as 0. -/
def zRow (m : Memory) (g z i lo hi : Nat) : List Int :=
  List.replicate lo 0 ++ (List.range (hi - lo)).map (fun j => zWord m g z i (lo + j)) ++ List.replicate (128 - hi) 0

theorem zRow_getD (m : Memory) (g z i lo hi j : Nat) :
    (zRow m g z i lo hi).getD j 0 = if lo ≤ j ∧ j < hi then zWord m g z i j else 0 := by
  rw [zRow, List.getD_eq_getElem?_getD]
  by_cases h : lo ≤ j ∧ j < hi
  · obtain ⟨h1, h2⟩ := h
    have hlen : j - lo < ((List.range (hi - lo)).map (fun j => zWord m g z i (lo + j))).length := by simp; omega
    rw [if_pos ⟨h1, h2⟩, List.append_assoc, List.getElem?_append_right (by simpa using h1), List.length_replicate,
      List.getElem?_append_left hlen, List.getElem?_eq_getElem hlen]
    simp [Nat.add_sub_cancel' h1]
  · rw [if_neg h, List.append_assoc, List.getElem?_append, List.getElem?_append]
    simp only [List.length_replicate, List.length_map, List.length_range, List.getElem?_replicate]
    split
    · rfl
    · split
      · omega
      · split <;> rfl

/-- Rows of a z tile read from clean storage. -/
theorem State.zRows_clean {s : State} (hs : s.clean) (g z : Nat) (want : Nat → Nat × Nat) (n i0 : Nat) :
    s.zRows g z want n i0 =
      (.ok ((List.range n).map (fun i => zRow s.mem g z (i0 + i) (want (i0 + i)).1 (want (i0 + i)).2)), s, false) := by
  induction n generalizing i0 with
  | zero => rfl
  | succ n ih =>
    have hrow : List.replicate (want i0).1 0 ++ accWords ((want i0).2 - (want i0).1)
        (s.mem.getN (localKey g (zOff z i0 (want i0).1)) (10 * ((want i0).2 - (want i0).1))) ++ List.replicate (128 - (want i0).2) 0 =
        zRow s.mem g z i0 (want i0).1 (want i0).2 := by
      rw [zRow, accWords_getN, localKey_zOff]
      refine congrArg (fun l => _ ++ l ++ _) (List.map_congr_left fun j _ => ?_)
      have hj : zPlace g z i0 (want i0).1 + j * 10 = zPlace g z i0 ((want i0).1 + j) := by
        simp only [zPlace]
        omega
      rw [hj, zWord]
    have hrest (i : Nat) : i0 + 1 + i = i0 + (i + 1) := by omega
    rw [State.zRows]
    dsimp only
    rw [State.readHome_clean hs]
    dsimp only
    rw [ih (i0 + 1), hrow, List.range_succ_eq_map, List.map_cons, List.map_map]
    simp only [hrest, Nat.add_zero]
    rfl

/-- The rows of a whole z tile. -/
def zTileRows (m : Memory) (g z : Nat) (want : Nat → Nat × Nat) : List (List Int) :=
  (List.range 128).map (fun i => zRow m g z i (want i).1 (want i).2)

theorem State.zRows_whole {s : State} (hs : s.clean) (g z : Nat) (want : Nat → Nat × Nat) :
    s.zRows g z want 128 0 = (.ok (zTileRows s.mem g z want), s, false) := by
  rw [State.zRows_clean hs]
  simp only [Nat.zero_add]
  rfl

theorem zTileRows_wordOf (m : Memory) (g z : Nat) {i j : Nat} (hi : i < 128) (hj : j < 128) :
    wordOf (zTileRows m g z (fun _ => (0, 128))) i j = zWord m g z i j := by
  have hrow : (zTileRows m g z (fun _ => (0, 128))).getD i [] = zRow m g z i 0 128 := by
    rw [zTileRows, List.getD_eq_getElem?_getD, List.getElem?_map, List.getElem?_range hi]
    rfl
  rw [wordOf, hrow, zRow_getD, if_pos ⟨Nat.zero_le j, hj⟩]

/-! ### Sums -/

theorem isum_eq (l : List Int) : isum l = l.sum := by
  rw [isum, List.sum_eq_foldl]

theorem isum_filter {α : Type} (l : List α) (p : α → Bool) (f : α → Int) :
    isum ((l.filter p).map f) = (l.map (fun a => if p a then f a else 0)).sum := by
  rw [isum_eq]
  induction l with
  | nil => rfl
  | cons a r ih =>
    by_cases h : p a = true
    · simp [h, ih]
    · simp [h, ih]

/-- Entry i of a list built for 128 places. -/
theorem getD_map_range {α : Type} (f : Nat → α) (d : α) {i n : Nat} (h : i < n) : ((List.range n).map f).getD i d = f i := by
  rw [List.getD_eq_getElem?_getD, List.getElem?_map, List.getElem?_range h]
  rfl

/-- The sum of one column, and of one row, of the rows of a z tile over unprivileged columns (R223). -/
theorem zSums_col (bm : BitVec 128) (m : Memory) (g z : Nat) (want : Nat → Nat × Nat) {j : Nat} (h : j < 128) :
    (zSums bm (zTileRows m g z want)).1.getD j 0 = if bm.getLsbD j then 0 else
      ((List.range 128).map (fun i => if (want i).1 ≤ j ∧ j < (want i).2 then zWord m g z i j else 0)).sum := by
  rw [zSums]
  dsimp only
  rw [getD_map_range _ _ h, zTileRows, List.map_map, isum_eq]
  simp only [Function.comp_def, zRow_getD]

theorem zSums_row (bm : BitVec 128) (m : Memory) (g z : Nat) (want : Nat → Nat × Nat) {i : Nat} (h : i < 128) :
    (zSums bm (zTileRows m g z want)).2.getD i 0 = ((List.range 128).map (fun j => if bm.getLsbD j then 0 else
      if (want i).1 ≤ j ∧ j < (want i).2 then zWord m g z i j else 0)).sum := by
  rw [zSums]
  dsimp only
  rw [zTileRows, List.map_map, getD_map_range _ _ h]
  simp only [Function.comp_apply]
  rw [isum_filter]
  refine congrArg List.sum (List.map_congr_left fun j _ => ?_)
  rw [zRow_getD]
  cases bm.getLsbD j <;> rfl

end Sys2Proof.Machine

/-! SUPPORT. Operand loads (R59 to R65, R218): what a load reads for the shape in force, its checks, and the slot it fills. -/

namespace Sys2Proof.Machine

/-! ### What a load reads -/

/-- The shape of the operand that a load reads. -/
structure LoadForm where
  cnt : Nat
  kb : Nat
  fmt : Nat
  spn : Nat

/-- The form of operand A (false) or B (true) under the shape in force (Table 6.2). -/
def Mxe.form (x : Mxe) (isB : Bool) : LoadForm where
  cnt := if isB then x.dims.2.1 else x.dims.1
  kb := x.dims.2.2
  fmt := if isB then fld x.shape 25 23 else fld x.shape 22 20
  spn := if isB then fld x.shape 27 26 else 0

namespace LoadForm

/-- Elements kept of each group of 16 of a sparse operand. -/
def kept (f : LoadForm) : Nat := spnKept f.spn
/-- Mantissas of a block. -/
def elems (f : LoadForm) : Nat := if f.spn = 0 then 48 else 3 * f.kept
/-- Bytes of a block's mantissas. -/
def bytes (f : LoadForm) : Nat := cdiv (f.elems * bsiWidth f.fmt) 8
/-- Bytes of a sparse block's indices. -/
def ixBytes (f : LoadForm) : Nat := cdiv (3 * f.kept) 2
/-- Blocks. -/
def blocks (f : LoadForm) : Nat := f.cnt * f.kb
/-- Scale groups. -/
def groups (f : LoadForm) : Nat := groupsOf f.blocks

/-- Mantissa i of block b, of blocks that stand at k. -/
def field (f : LoadForm) (m : Memory) (k b i : Nat) : Int :=
  (BitVec.ofNat (bsiWidth f.fmt) (ofBytes (m.getN (k + b * f.bytes) f.bytes) / 2 ^ (bsiWidth f.fmt * i))).toInt

/-- Index i of block b, of indices that stand at k. -/
def index (f : LoadForm) (m : Memory) (k b i : Nat) : Nat := ofBytes (m.getN (k + b * f.ixBytes) f.ixBytes) / 16 ^ i % 16

/-- Index lists of the blocks, of bytes read. -/
def indices (f : LoadForm) (xb : List Byte) : List (List Nat) :=
  (List.range f.blocks).map (fun b => sparseIdx f.kept (slice xb (b * f.ixBytes) f.ixBytes))

/-- Block b, of mantissas, scale groups and indices read. -/
def block (f : LoadForm) (mb sb xb : List Byte) (b : Nat) : Block :=
  let ms := mantissas (bsiWidth f.fmt) f.elems (slice mb (b * f.bytes) f.bytes)
  if f.spn ≠ 0 then sparseBlock (scaleAt sb b) f.kept ms ((f.indices xb).getD b []) else denseBlock (scaleAt sb b) ms

/-- The slot that a load fills. -/
def slot (f : LoadForm) (mb sb xb : List Byte) : Slot :=
  { full := true, cnt := f.cnt, kb := f.kb, fmt := f.fmt, spn := f.spn, blocks := (List.range f.blocks).map (f.block mb sb xb) }

/-- The first block whose indices do not rise within a group (R65). -/
def badIndex (f : LoadForm) (xb : List Byte) : Option Nat :=
  (List.range f.blocks).find? (fun b => decide (f.spn ≠ 0) && !idxOk f.kept ((f.indices xb).getD b []))

/-- What a load does with the bytes that it has read (R218). -/
def fill (f : LoadForm) (s : State) (g : Nat) (isB : Bool) (e : Eng) (mb sb xb : List Byte) : XRes :=
  match badGroup (e.w1 19 12) sb f.blocks, badScale sb f.blocks, f.badIndex xb with
  | some t, _, _ => .fault t s
  | none, some t, _ => .fault t s
  | none, none, some b => .fault (ixFault 28 b) s
  | none, none, none => .done (s.updMxe g (fun x => x.setSlot isB (fld e.f7 0 0) (f.slot mb sb xb))) 0 none

end LoadForm

theorem of_ite_some {α : Type} {c : Prop} [Decidable c] {x : Option α} {a : α} (h : (if c then x else none) = some a) : c ∧ x = some a := by
  by_cases hc : c
  · rw [if_pos hc] at h
    exact ⟨hc, h⟩
  · rw [if_neg hc] at h
    exact absurd h (by simp)

theorem fld_low8 (v : Word) : fld v 7 0 = v.toNat % 2 ^ 8 := by simp [fld, bitsN]

section
variable {s : State} {g : Nat} {isB : Bool} {e : Eng} {r0 r1 r2 : Word} {f : LoadForm} (hf : f = (s.tile g).mxe.form isB)
  (hgc : isB = true → f.spn = 0 → e.gc = 0)
include hf hgc

/-- Mantissas that do not stand at a multiple of 4 are the alignment fault. -/
theorem mldRun_misaligned (h0 : r0.toNat % 4 ≠ 0) : mldRun s g isB e r0 r1 r2 = .fault (TrapI.mk3 6 0 r0) s := by
  unfold mldRun
  have hg : ¬ (isB && decide (f.spn = 0) && decide (e.gc ≠ 0)) = true := by
    simp only [Bool.and_eq_true, decide_eq_true_eq]
    rintro ⟨⟨h1, h2⟩, h3⟩
    exact h3 (hgc h1 h2)
  subst hf
  dsimp only
  refine (if_neg hg).trans ?_
  rw [List.findSome?_cons, if_pos h0]
  rfl

/-- A load whose bytes all stand in the scratchpad reads them. -/
theorem mldRun_read (hs : s.clean) (h0 : r0.toNat % 4 = 0) (h1 : r1.toNat % 16 = 0)
    (hm : r0.toNat + f.blocks * f.bytes ≤ (s.tile g).spBytes) (hsc : r1.toNat + 16 * f.groups ≤ (s.tile g).spBytes)
    (hx : f.spn ≠ 0 → r2.toNat % 4 = 0 ∧ r2.toNat + f.blocks * f.ixBytes ≤ (s.tile g).spBytes) :
    mldRun s g isB e r0 r1 r2 = f.fill s g isB e (s.mem.getN (localKey g r0.toNat) (f.blocks * f.bytes))
      (s.mem.getN (localKey g r1.toNat) (16 * f.groups))
      (s.mem.getN (localKey g r2.toNat) (if f.spn ≠ 0 then f.blocks * f.ixBytes else 0)) := by
  have hg : ¬ (isB && decide (f.spn = 0) && decide (e.gc ≠ 0)) = true := by
    simp only [Bool.and_eq_true, decide_eq_true_eq]
    rintro ⟨⟨h1, h2⟩, h3⟩
    exact h3 (hgc h1 h2)
  subst hf
  unfold mldRun
  dsimp only [Mxe.dims]
  refine (if_neg hg).trans ?_
  generalize hck : List.findSome? id [_, _, _, _, _, _] = ck
  cases ck with
  | some t =>
    obtain ⟨a, ha, hat⟩ := List.exists_of_findSome?_eq_some hck
    rw [id_eq] at hat
    simp only [List.mem_cons, List.not_mem_nil, or_false] at ha
    rcases ha with rfl | rfl | rfl | rfl | rfl | rfl
    · exact absurd h0 (of_ite_some hat).1
    · exact absurd h1 (of_ite_some hat).1
    · obtain ⟨hn, ht⟩ := of_ite_some hat
      exact absurd (hx hn).1 (of_ite_some ht).1
    · exact absurd hm (Nat.not_le.mpr (of_ite_some hat).1)
    · exact absurd hsc (Nat.not_le.mpr (of_ite_some hat).1)
    · obtain ⟨hn, ht⟩ := of_ite_some hat
      exact absurd (hx hn).2 (Nat.not_le.mpr (of_ite_some ht).1)
  | none =>
    simp only [State.spRead_clean hs, Except.bind]
    rfl

end

/-! ### Checks of the bytes read (R61, R63, R65) -/

theorem find?_range_only {p : Nat → Bool} {n k : Nat} (hk : k < n) (hp : p k = true) (h : ∀ i, i < n → p i = true → i = k) :
    (List.range n).find? p = some k := by
  refine List.find?_range_eq_some.mpr ⟨hp, List.mem_range.mpr hk, fun j hj => ?_⟩
  rw [Bool.not_eq_true', Bool.eq_false_iff]
  intro hpj
  have := h j (by omega) hpj
  omega

theorem badGroup_some {base n q : Nat} {bs : List Byte} (hq : q < groupsOf n)
    (hb : (bs.getD (16 * q) 0).toNat ≠ (base + 15 * q) % 256)
    (hp : ∀ p, p < q → (bs.getD (16 * p) 0).toNat = (base + 15 * p) % 256) : badGroup base bs n = some (ixFault 26 q) := by
  have hf : (List.range (groupsOf n)).find? (fun g => decide ((bs.getD (16 * g) 0).toNat ≠ (base + 15 * g) % 256)) = some q :=
    List.find?_range_eq_some.mpr ⟨decide_eq_true hb, List.mem_range.mpr hq, fun j hj => by simp only [hp j hj]; simp⟩
  rw [badGroup, hf]

theorem badGroup_none {base n : Nat} {bs : List Byte} (h : ∀ q, q < groupsOf n → (bs.getD (16 * q) 0).toNat = (base + 15 * q) % 256) :
    badGroup base bs n = none := by
  have hf : (List.range (groupsOf n)).find? (fun g => decide ((bs.getD (16 * g) 0).toNat ≠ (base + 15 * g) % 256)) = none :=
    List.find?_eq_none.mpr fun q hq => by simp only [h q (List.mem_range.mp hq)]; simp
  rw [badGroup, hf]

theorem badScale_some {n b : Nat} {bs : List Byte} (hb : b < n) (h : scaleAt bs b = 0xFF) (hp : ∀ p, p < b → scaleAt bs p ≠ 0xFF) :
    badScale bs n = some (ixFault 27 b) := by
  have hf : (List.range n).find? (fun b => decide (scaleAt bs b = 0xFF)) = some b :=
    List.find?_range_eq_some.mpr ⟨decide_eq_true h, List.mem_range.mpr hb, fun j hj => by simpa using hp j hj⟩
  rw [badScale, hf]

theorem badScale_none {n : Nat} {bs : List Byte} (h : ∀ b, b < n → scaleAt bs b ≠ 0xFF) : badScale bs n = none := by
  have hf : (List.range n).find? (fun b => decide (scaleAt bs b = 0xFF)) = none :=
    List.find?_eq_none.mpr fun b hb => by simpa using h b (List.mem_range.mp hb)
  rw [badScale, hf]

/-! ### Elements of a block (R59, R64) -/

theorem bsiWidth_pos (f : Nat) : 0 < bsiWidth f := by
  unfold bsiWidth
  split <;> decide

/-- Mantissa i of a packed block. -/
theorem mantissas_getD {w c i : Nat} (hw : 0 < w) (hi : i < c) (bs : List Byte) :
    (mantissas w c bs).getD i 0 = (BitVec.ofNat w (ofBytes bs / 2 ^ (w * i))).toInt := by
  have hm : BitVec.ofNat w (ofBytes bs / 2 ^ (w * i) % 2 ^ w) = BitVec.ofNat w (ofBytes bs / 2 ^ (w * i)) := by
    apply BitVec.eq_of_toNat_eq
    rw [BitVec.toNat_ofNat, BitVec.toNat_ofNat, Nat.mod_mod]
  rw [mantissas, getD_map_range _ _ hi, sextN_eq_toInt hw, packed, hm]

/-- Index i of a sparse block. -/
theorem sparseIdx_getD {n i : Nat} (hi : i < 3 * n) (bs : List Byte) : (sparseIdx n bs).getD i 0 = ofBytes bs / 16 ^ i % 16 := by
  have hp : 2 ^ (4 * i) = 16 ^ i := by rw [Nat.pow_mul]
  rw [sparseIdx, getD_map_range _ _ hi, packed, hp]
  rfl

/-- Indices rise within each group of a sparse block. -/
def Rises (n : Nat) (ix : Nat → Nat) : Prop := ∀ i, i < 3 * n → i % n ≠ 0 → ix (i - 1) < ix i

theorem idxOk_of_rises {n : Nat} {ix : List Nat} (h : Rises n (fun i => ix.getD i 0)) : idxOk n ix = true := by
  rw [idxOk, List.all_eq_true]
  intro i hi
  rw [List.mem_range] at hi
  by_cases h0 : i % n = 0
  · simp [h0]
  · have := h i hi h0
    simp only [decide_eq_true this, Bool.or_true]

/-- Within a group a later index is a greater one. -/
theorem Rises.lt {n : Nat} {ix : Nat → Nat} (h : Rises n ix) {i d : Nat} (hj : i + (d + 1) < 3 * n) (hg : (i + (d + 1)) / n = i / n) :
    ix i < ix (i + (d + 1)) := by
  have step {j : Nat} (hj : j + 1 < 3 * n) (hg : (j + 1) / n = j / n) : ix j < ix (j + 1) := by
    have hm : (j + 1) % n ≠ 0 := by
      intro h0
      have h1 := Nat.div_add_mod (j + 1) n
      have h2 := Nat.div_add_mod j n
      rw [hg, h0] at h1
      omega
    simpa using h (j + 1) hj hm
  induction d with
  | zero => exact step hj hg
  | succ d ih =>
    have hm1 : i / n ≤ (i + (d + 1)) / n := Nat.div_le_div_right (by omega)
    have hm2 : (i + (d + 1)) / n ≤ (i + (d + 1 + 1)) / n := Nat.div_le_div_right (by omega)
    have hmid : (i + (d + 1)) / n = i / n := le_antisymm (by omega) hm1
    exact (ih (by omega) hmid).trans (step (j := i + (d + 1)) (by omega) (by rw [hmid]; exact hg))

/-- No two kept elements of a block have one place. -/
theorem Rises.place_inj {n : Nat} {ix : Nat → Nat} (h : Rises n ix) (h16 : ∀ i, ix i < 16) {i j : Nat} (hi : i < 3 * n) (hj : j < 3 * n)
    (he : i / n * 16 + ix i = j / n * 16 + ix j) : i = j := by
  have hi16 := h16 i
  have hj16 := h16 j
  have hg : i / n = j / n := by omega
  have hx : ix i = ix j := by omega
  rcases Nat.lt_trichotomy i j with hlt | heq | hgt
  · obtain ⟨d, rfl⟩ := Nat.exists_eq_add_of_lt hlt
    have := h.lt (i := i) (d := d) hj hg.symm
    rw [Nat.add_assoc] at hx
    omega
  · exact heq
  · obtain ⟨d, rfl⟩ := Nat.exists_eq_add_of_lt hgt
    have := h.lt (i := j) (d := d) hi hg
    rw [Nat.add_assoc] at hx
    omega

/-- A dense block holds its 48 mantissas, all kept. -/
theorem denseBlock_getD (e : Byte) (ms : List Int) {i : Nat} (hi : i < 48) :
    (denseBlock e ms).m.getD i 0 = ms.getD i 0 ∧ (denseBlock e ms).kept.getD i false = true := by
  refine ⟨rfl, ?_⟩
  rw [denseBlock, List.getD_eq_getElem?_getD, List.getElem?_replicate, if_pos hi]
  rfl

section
variable {n : Nat} {ix : List Nat} (hr : Rises n (fun i => ix.getD i 0)) (h16 : ∀ i, ix.getD i 0 < 16) (e : Byte) (ms : List Int)
include hr h16

/-- A sparse block holds each mantissa at its place (R64). -/
theorem sparseBlock_kept {i : Nat} (hi : i < 3 * n) : (sparseBlock e n ms ix).m.getD (i / n * 16 + ix.getD i 0) 0 = ms.getD i 0 ∧
    (sparseBlock e n ms ix).kept.getD (i / n * 16 + ix.getD i 0) false = true := by
  have hn : 0 < n := by omega
  have h3 : i / n < 3 := Nat.div_lt_of_lt_mul (by rwa [Nat.mul_comm] at hi)
  have hp : i / n * 16 + ix.getD i 0 < 48 := by
    have := h16 i
    omega
  have hf : (List.range (3 * n)).find? (fun k => decide (k / n * 16 + ix.getD k 0 = i / n * 16 + ix.getD i 0)) = some i :=
    find?_range_only hi (decide_eq_true rfl) fun k hk hd => hr.place_inj h16 hk hi (of_decide_eq_true hd)
  constructor
  · simp only [sparseBlock, getD_map_range _ _ hp, hf]
  · simp only [sparseBlock, getD_map_range _ _ hp, hf, Option.isSome_some]

omit hr h16 in
/-- Elsewhere it holds 0, dropped. -/
theorem sparseBlock_dropped {p : Nat} (hp : p < 48) (h : ∀ i, i < 3 * n → i / n * 16 + ix.getD i 0 ≠ p) :
    (sparseBlock e n ms ix).m.getD p 0 = 0 ∧ (sparseBlock e n ms ix).kept.getD p false = false := by
  have hf : (List.range (3 * n)).find? (fun k => decide (k / n * 16 + ix.getD k 0 = p)) = none :=
    List.find?_eq_none.mpr fun i hi => by simpa using h i (List.mem_range.mp hi)
  constructor
  · simp only [sparseBlock, getD_map_range _ _ hp, hf]
  · simp only [sparseBlock, getD_map_range _ _ hp, hf, Option.isSome_none]

end

/-! ### The slot filled -/

namespace LoadForm
variable {f : LoadForm} {m : Memory} {km ks kx : Nat}

theorem ixLength : ∀ b, b < f.blocks → b * f.ixBytes + f.ixBytes ≤ f.blocks * f.ixBytes := fun b hb => by
  have := Nat.mul_le_mul_right f.ixBytes (Nat.succ_le_of_lt hb)
  rwa [Nat.succ_mul] at this

theorem msLength : ∀ b, b < f.blocks → b * f.bytes + f.bytes ≤ f.blocks * f.bytes := fun b hb => by
  have := Nat.mul_le_mul_right f.bytes (Nat.succ_le_of_lt hb)
  rwa [Nat.succ_mul] at this

/-- The indices of a block read from kx. -/
theorem indices_getD {b i : Nat} (hb : b < f.blocks) (hi : i < 3 * f.kept) :
    ((f.indices (m.getN kx (f.blocks * f.ixBytes))).getD b []).getD i 0 = f.index m kx b i := by
  rw [indices, getD_map_range _ _ hb, slice_getN m kx (ixLength b hb), sparseIdx_getD hi, index]

theorem indices_lt (xb : List Byte) {b : Nat} (hb : b < f.blocks) (i : Nat) : ((f.indices xb).getD b []).getD i 0 < 16 := by
  rw [indices, getD_map_range _ _ hb]
  by_cases hi : i < 3 * f.kept
  · rw [sparseIdx_getD hi]
    exact Nat.mod_lt _ (by decide)
  · rw [List.getD_eq_getElem?_getD, List.getElem?_eq_none (by simp only [sparseIdx, List.length_map, List.length_range]; omega)]
    decide

/-- The mantissas of a block read from km. -/
theorem mantissas_getD {b i : Nat} (hb : b < f.blocks) (hi : i < f.elems) :
    (Machine.mantissas (bsiWidth f.fmt) f.elems (slice (m.getN km (f.blocks * f.bytes)) (b * f.bytes) f.bytes)).getD i 0 =
      f.field m km b i := by
  rw [slice_getN m km (msLength b hb), Machine.mantissas_getD (bsiWidth_pos _) hi, field]

/-- The indices of every block of a sparse operand rise within each group (R65). -/
def Rising (f : LoadForm) (m : Memory) (kx : Nat) : Prop := f.spn ≠ 0 → ∀ b, b < f.blocks → Rises f.kept (f.index m kx b)

theorem Rising.rises (h : f.Rising m kx) (hn : f.spn ≠ 0) {b : Nat} (hb : b < f.blocks) :
    Rises f.kept (fun i => ((f.indices (m.getN kx (f.blocks * f.ixBytes))).getD b []).getD i 0) := by
  intro i hi h0
  dsimp only
  rw [indices_getD hb hi, indices_getD hb (by omega)]
  exact h hn b hb i hi h0

theorem badIndex_none (h : f.Rising m kx) : f.badIndex (m.getN kx (if f.spn ≠ 0 then f.blocks * f.ixBytes else 0)) = none := by
  refine List.find?_eq_none.mpr fun b hb => ?_
  by_cases hn : f.spn ≠ 0
  · rw [if_pos hn, idxOk_of_rises (h.rises hn (List.mem_range.mp hb))]
    simp
  · simp [hn]

/-- The slot that a load from km, ks and kx fills. -/
def loaded (f : LoadForm) (m : Memory) (km ks kx : Nat) : Slot :=
  f.slot (m.getN km (f.blocks * f.bytes)) (m.getN ks (16 * f.groups)) (m.getN kx (if f.spn ≠ 0 then f.blocks * f.ixBytes else 0))

theorem length_loaded : (f.loaded m km ks kx).blocks.length = f.blocks := by
  rw [loaded, slot, List.length_map, List.length_range]

theorem loaded_block {b : Nat} (hb : b < f.blocks) : (f.loaded m km ks kx).block b = f.block (m.getN km (f.blocks * f.bytes))
    (m.getN ks (16 * f.groups)) (m.getN kx (if f.spn ≠ 0 then f.blocks * f.ixBytes else 0)) b := by
  rw [loaded, slot, Slot.block]
  exact getD_map_range _ _ hb

theorem loaded_scale {b : Nat} (hb : b < f.blocks) : ((f.loaded m km ks kx).block b).e = scaleAt (m.getN ks (16 * f.groups)) b := by
  rw [loaded_block hb, block]
  split <;> rfl

theorem loaded_dense (hn : f.spn = 0) {b i : Nat} (hb : b < f.blocks) (hi : i < 48) :
    ((f.loaded m km ks kx).block b).m.getD i 0 = f.field m km b i ∧ ((f.loaded m km ks kx).block b).kept.getD i false = true := by
  have he : f.elems = 48 := if_pos hn
  rw [loaded_block hb, block]
  rw [if_neg (not_not.mpr hn), (denseBlock_getD _ _ hi).1, (denseBlock_getD _ _ hi).2, mantissas_getD hb (by rw [he]; exact hi)]
  exact ⟨rfl, rfl⟩

theorem loaded_sparse (hn : f.spn ≠ 0) (h : f.Rising m kx) {b : Nat} (hb : b < f.blocks) :
    (∀ i, i < 3 * f.kept → ((f.loaded m km ks kx).block b).m.getD (i / f.kept * 16 + f.index m kx b i) 0 = f.field m km b i ∧
      ((f.loaded m km ks kx).block b).kept.getD (i / f.kept * 16 + f.index m kx b i) false = true) ∧
    (∀ p, p < 48 → (∀ i, i < 3 * f.kept → i / f.kept * 16 + f.index m kx b i ≠ p) →
      ((f.loaded m km ks kx).block b).m.getD p 0 = 0 ∧ ((f.loaded m km ks kx).block b).kept.getD p false = false) := by
  have he : f.elems = 3 * f.kept := if_neg hn
  rw [loaded_block hb, block]
  rw [if_pos hn, if_pos hn]
  refine ⟨fun i hi => ?_, fun p hp hd => sparseBlock_dropped _ _ hp fun i hi => ?_⟩
  · have hk := sparseBlock_kept (h.rises hn hb) (indices_lt _ hb) (scaleAt (m.getN ks (16 * f.groups)) b)
      (Machine.mantissas (bsiWidth f.fmt) f.elems (slice (m.getN km (f.blocks * f.bytes)) (b * f.bytes) f.bytes)) hi
    rw [indices_getD hb hi, mantissas_getD hb (by rw [he]; exact hi)] at hk
    exact hk
  · rw [indices_getD hb hi]
    exact hd i hi

end LoadForm

/-! ### The command -/

theorem State.unitRun_load (s : State) (g : Nat) (en : QEntry) (e : Eng) (isB : Bool) :
    s.unitRun g en (if isB then .mldb e else .mlda e) = mldRun s g isB e en.r0 en.r1 en.r2 ∧
    MatrixInstr (if isB then .mldb e else .mlda e) := by
  cases isB <;> exact ⟨rfl, rfl, rfl, fun _ => Instr.noConfusion⟩

/-- CHK of scale group q is as R63 has it. -/
def chkOk (e : Eng) (sb : List Byte) (q : Nat) : Prop := (sb.getD (16 * q) 0).toNat = ((e.ext.extractLsb' 0 8).toNat + 15 * q) % 256

theorem fld_low1 (e : Eng) : fld e.f7 0 0 = e.f7.toNat % 2 := by simp [fld, bitsN]

theorem chkBase (e : Eng) : e.w1 19 12 = (e.ext.extractLsb' 0 8).toNat := by
  simp [Eng.w1, fld, bitsN]

section
variable {s : State} {g : Nat} {en : QEntry} {e : Eng} {isB : Bool} {f : LoadForm} (h : s.MatHead g en)
  (hi : en.instr = some (if isB then .mldb e else .mlda e)) (hf : f = (s.tile g).mxe.form isB) (hgc : isB = true → f.spn = 0 → e.gc = 0)
include h hi hf hgc

theorem State.MatHead.load_misaligned (h0 : en.r0.toNat % 4 ≠ 0) :
    Machine.exec (.engineCommandCompletion g .x en.isn) s = .next (s.engineFault g .x en (TrapI.mk3 6 0 (BitVec.ofNat 64 en.r0.toNat))) := by
  obtain ⟨hu, hm⟩ := s.unitRun_load g en e isB
  rw [BitVec.ofNat_toNat, BitVec.setWidth_eq]
  exact h.fault hi hm (hu.trans (mldRun_misaligned hf hgc h0))

variable (h0 : en.r0.toNat % 4 = 0) (h1 : en.r1.toNat % 16 = 0)
  (hm : en.r0.toNat + f.blocks * f.bytes ≤ (s.tile g).spBytes) (hsc : en.r1.toNat + 16 * f.groups ≤ (s.tile g).spBytes)
  (hx : f.spn ≠ 0 → en.r2.toNat % 4 = 0 ∧ en.r2.toNat + f.blocks * f.ixBytes ≤ (s.tile g).spBytes)
include h0 h1 hm hsc hx

omit hi in
theorem State.MatHead.load_run : s.unitRun g en (if isB then .mldb e else .mlda e) = f.fill s g isB e
      (s.mem.getN (localKey g en.r0.toNat) (f.blocks * f.bytes)) (s.mem.getN (localKey g en.r1.toNat) (16 * f.groups))
      (s.mem.getN (localKey g en.r2.toNat) (if f.spn ≠ 0 then f.blocks * f.ixBytes else 0)) :=
  (s.unitRun_load g en e isB).1.trans (mldRun_read hf hgc h.clean h0 h1 hm hsc hx)

/-- The first bad CHK is fault 26. -/
theorem State.MatHead.load_badChk {q : Nat} (hq : q < f.groups) (hb : ¬ chkOk e (s.mem.getN (localKey g en.r1.toNat) (16 * f.groups)) q)
    (hp : ∀ p, p < q → chkOk e (s.mem.getN (localKey g en.r1.toNat) (16 * f.groups)) p) :
    Machine.exec (.engineCommandCompletion g .x en.isn) s = .next (s.engineFault g .x en (ixFault 26 q)) := by
  refine h.fault hi (s.unitRun_load g en e isB).2 ((h.load_run hf hgc h0 h1 hm hsc hx).trans ?_)
  rw [LoadForm.fill, chkBase, badGroup_some hq hb hp]

/-- The first invalid scale is fault 27. -/
theorem State.MatHead.load_badScale {b : Nat} (hc : ∀ q, q < f.groups → chkOk e (s.mem.getN (localKey g en.r1.toNat) (16 * f.groups)) q)
    (hb : b < f.blocks) (hv : scaleAt (s.mem.getN (localKey g en.r1.toNat) (16 * f.groups)) b = 0xFF)
    (hp : ∀ p, p < b → scaleAt (s.mem.getN (localKey g en.r1.toNat) (16 * f.groups)) p ≠ 0xFF) :
    Machine.exec (.engineCommandCompletion g .x en.isn) s = .next (s.engineFault g .x en (ixFault 27 b)) := by
  refine h.fault hi (s.unitRun_load g en e isB).2 ((h.load_run hf hgc h0 h1 hm hsc hx).trans ?_)
  rw [LoadForm.fill, chkBase, badGroup_none hc, badScale_some hb hv hp]

omit hi in
/-- Without a fault the slot is filled. -/
theorem State.MatHead.load_fills (hc : ∀ q, q < f.groups → chkOk e (s.mem.getN (localKey g en.r1.toNat) (16 * f.groups)) q)
    (hv : ∀ b, b < f.blocks → scaleAt (s.mem.getN (localKey g en.r1.toNat) (16 * f.groups)) b ≠ 0xFF)
    (hr : f.Rising s.mem (localKey g en.r2.toNat)) : s.unitRun g en (if isB then .mldb e else .mlda e) =
      .done (s.updMxe g (fun x => x.setSlot isB (e.f7.toNat % 2)
        (f.loaded s.mem (localKey g en.r0.toNat) (localKey g en.r1.toNat) (localKey g en.r2.toNat)))) 0 none := by
  rw [h.load_run hf hgc h0 h1 hm hsc hx, LoadForm.fill, chkBase, badGroup_none hc, badScale_none hv, LoadForm.badIndex_none hr, fld_low1]
  rfl

end

/-! ### The form of a load in numbers (Table 6.2) -/

/-- M, N and K-blocks of the shape in force. -/
theorem Mxe.dims_eq (x : Mxe) :
    x.dims = (x.shape.toNat % 2 ^ 8 + 1, x.shape.toNat / 2 ^ 8 % 2 ^ 8 + 1, x.shape.toNat / 2 ^ 16 % 2 ^ 4 + 1) := by
  rw [Mxe.dims, fld_low8]
  rfl

namespace LoadForm

/-- What a load of shape word v reads, as numbers: elements w bits wide, blocks, bytes of a block and of its indices. -/
theorem form_numbers (x : Mxe) (isB : Bool) :
    (x.form isB).cnt = (if isB then x.shape.toNat / 2 ^ 8 % 2 ^ 8 + 1 else x.shape.toNat % 2 ^ 8 + 1) ∧
    (x.form isB).kb = x.shape.toNat / 2 ^ 16 % 2 ^ 4 + 1 ∧
    (x.form isB).fmt = (if isB then x.shape.toNat / 2 ^ 23 % 8 else x.shape.toNat / 2 ^ 20 % 8) ∧
    (x.form isB).spn = (if isB then x.shape.toNat / 2 ^ 26 % 4 else 0) := by
  unfold Mxe.form
  rw [Mxe.dims_eq]
  cases isB <;> exact ⟨rfl, rfl, rfl, rfl⟩

theorem kept_eq {f : LoadForm} (h : f.spn ≠ 0) : f.kept = 2 ^ f.spn := if_neg h

theorem bytes_eq (f : LoadForm) : f.bytes = ((if f.spn = 0 then 48 else 3 * 2 ^ f.spn) * bsiWidth f.fmt + 7) / 8 := by
  rw [bytes, elems, cdiv]
  split
  · rfl
  · rename_i h
    rw [kept_eq h]
    rfl

theorem ixBytes_eq {f : LoadForm} (h : f.spn ≠ 0) : f.ixBytes = (3 * 2 ^ f.spn + 1) / 2 := by
  rw [ixBytes, kept_eq h]
  rfl

end LoadForm

end Sys2Proof.Machine

/-! SUPPORT. Matrix products (R77 to R84, R219 to R224): the words of a row, the predictions they go on from, and the change they make
in them. -/

namespace Sys2Proof.Machine

/-! ### A word (R77, R79, R82 to R84) -/

/-- An accumulator word holds v (R79). -/
def accRange (v : Int) : Prop := -(2 ^ 79 : Int) ≤ v ∧ v < 2 ^ 79

theorem accFits_iff (v : Int) : accFits v = true ↔ accRange v := by
  rw [accFits, accRange, Bool.and_eq_true, decide_eq_true_eq, decide_eq_true_eq]
  omega

/-- What K-block k adds to word (i, j): the corrected block sum, shifted. -/
def kTerm (a b : Slot) (za zb anc : Int) (i j k : Nat) : Int :=
  ((List.range 48).map (fun h => if (b.block (j * b.kb + k)).kept.getD h false then
    ((a.block (i * a.kb + k)).m.getD h 0 - za) * ((b.block (j * b.kb + k)).m.getD h 0 - zb) else 0)).sum *
  2 ^ (((a.block (i * a.kb + k)).e.toNat : Int) + (b.block (j * b.kb + k)).e.toNat - 254 - anc).toNat

/-- Word (i, j) after k K-blocks, from w on. -/
def kSum (a b : Slot) (za zb anc : Int) (w : Int) (i j k : Nat) : Int := w + ((List.range k).map (kTerm a b za zb anc i j)).sum

theorem kSum_succ (a b : Slot) (za zb anc w : Int) (i j k : Nat) :
    kSum a b za zb anc w i j (k + 1) = kSum a b za zb anc w i j k + kTerm a b za zb anc i j k := by
  rw [kSum, List.range_succ, List.map_append, List.sum_append, List.map_singleton, List.sum_singleton, kSum, Int.add_assoc]

theorem kTerm_eq (a b : Slot) (za zb anc : Int) (i j k : Nat) :
    blockSum (a.block (i * a.kb + k)) (b.block (j * b.kb + k)) za zb *
      2 ^ (shiftOf (a.block (i * a.kb + k)) (b.block (j * b.kb + k)) anc).toNat = kTerm a b za zb anc i j k := by
  rw [blockSum, isum_eq, shiftOf, kTerm]

section
variable (a b : Slot) (za zb anc w : Int) (i j : Nat)

/-- While every sum fits, the K-blocks add up. -/
theorem intWord_fits {k n : Nat} (h : ∀ l, k < l → l ≤ k + n → accRange (kSum a b za zb anc w i j l)) :
    intWord a b i j za zb anc (List.range' k n) (kSum a b za zb anc w i j k) = some (kSum a b za zb anc w i j (k + n)) := by
  induction n generalizing k with
  | zero => rfl
  | succ n ih =>
    rw [List.range'_succ, intWord]
    rw [kTerm_eq, ← kSum_succ, if_pos ((accFits_iff _).mpr (h (k + 1) (by omega) (by omega))),
      ih (fun l h1 h2 => h l (by omega) (by omega)), Nat.add_assoc, Nat.add_comm 1 n]

/-- The first sum that does not ends the word. -/
theorem intWord_overflow {k n : Nat} (h : ∃ l, k < l ∧ l ≤ k + n ∧ ¬ accRange (kSum a b za zb anc w i j l)) :
    intWord a b i j za zb anc (List.range' k n) (kSum a b za zb anc w i j k) = none := by
  induction n generalizing k with
  | zero =>
    obtain ⟨l, h1, h2, _⟩ := h
    omega
  | succ n ih =>
    obtain ⟨l, h1, h2, hl⟩ := h
    rw [List.range'_succ, intWord]
    rw [kTerm_eq, ← kSum_succ]
    by_cases hk : accRange (kSum a b za zb anc w i j (k + 1))
    · rw [if_pos ((accFits_iff _).mpr hk)]
      refine ih ⟨l, ?_, by omega, hl⟩
      by_contra hc
      obtain rfl : l = k + 1 := by omega
      exact hl hk
    · rw [if_neg (fun hf => hk ((accFits_iff _).mp hf))]

end

/-- Zero points of row i of A and of column j of B that a product of form f subtracts (R213, R82). -/
def Mxe.zaOf (x : Mxe) (f i : Nat) : Int := if 2 ≤ f then x.za.getD i 0 else 0
/-- That of column j of B. -/
def Mxe.zbOf (x : Mxe) (f j : Nat) : Int := if 2 ≤ f then x.zb.getD j 0 else 0

/-- The fp32 word of a privileged column, from w on, with its flags (R84). -/
def Mxe.fpWord (x : Mxe) (a b : Slot) (f : Nat) (w : Int) (i j : Nat) : Nat × BitVec 5 :=
  (List.range a.kb).foldl (fun v k => privBlock (a.block (i * a.kb + k)) (b.block (j * b.kb + k)) (x.zaOf f i) (x.zbOf f j) v)
    ((BitVec.ofInt 32 w).toNat, 0)

/-- What a product makes of word (i, j), from w on. -/
def Mxe.newWord (x : Mxe) (a b : Slot) (f : Nat) (anc w : Int) (i j : Nat) : Int :=
  if f = 3 ∧ x.bitmap.getLsbD j = true then ((x.fpWord a b f w i j).1 : Int)
  else kSum a b (x.zaOf f i) (x.zbOf f j) anc w i j a.kb

/-- Word (i, j) is privileged, or none of its sums leaves 80 bits. -/
def Mxe.GoodWord (x : Mxe) (a b : Slot) (f : Nat) (anc w : Int) (i j : Nat) : Prop :=
  (f = 3 ∧ x.bitmap.getLsbD j = true) ∨ ∀ k, 0 < k → k ≤ a.kb → accRange (kSum a b (x.zaOf f i) (x.zbOf f j) anc w i j k)

/-! ### The words of a row (R220, R221) -/

section
variable {x : Mxe} {a b : Slot} {f : Nat} {acc : Bool} {anc : Int} {row : List Int} {i : Nat} {old : Nat → Int}

theorem prodWord_good {o : ProdOut} {j : Nat} (ho : o.ovf = none) (hj : j < 128) (hw : (if acc then row.getD j 0 else 0) = old j)
    (hg : x.GoodWord a b f anc (old j) i j) : ∃ fl, prodWord x a b f acc anc row o (i * 128 + j) =
      { ws := (i * 128 + j, old j, x.newWord a b f anc (old j) i j) :: o.ws, flags := fl, ovf := none } ∧ (f ≠ 3 → fl = o.flags) := by
  have hi : (i * 128 + j) / 128 = i := by omega
  have hm : (i * 128 + j) % 128 = j := by omega
  unfold prodWord
  rw [ho, hi, hm]
  dsimp only
  rw [hw]
  by_cases hp : f = 3 ∧ x.bitmap.getLsbD j = true
  · have hc : (decide (f = 3) && x.bitmap.getLsbD j) = true := by simp [hp]
    refine ⟨o.flags ||| (x.fpWord a b f (old j) i j).2, (if_neg (by simp)).trans ((if_pos hc).trans ?_), fun h3 => absurd hp.1 h3⟩
    rw [Mxe.newWord, if_pos hp, wrapN_eq]
    rfl
  · have hc : ¬ (decide (f = 3) && x.bitmap.getLsbD j) = true := by simpa using hp
    have hs := intWord_fits a b (x.zaOf f i) (x.zbOf f j) anc (old j) i j (k := 0) (n := a.kb)
      (fun l h1 h2 => (hg.resolve_left hp) l h1 (by omega))
    rw [Nat.zero_add, ← List.range_eq_range'] at hs
    refine ⟨o.flags, (if_neg (by simp)).trans ((if_neg hc).trans ?_), fun _ => rfl⟩
    rw [kSum, List.range_zero, List.map_nil, List.sum_nil, Int.add_zero] at hs
    simp only [Mxe.zaOf, Mxe.zbOf] at hs
    rw [hs, Mxe.newWord, if_neg hp]
    rfl

theorem prodWord_bad {o : ProdOut} {j : Nat} (ho : o.ovf = none) (hj : j < 128) (hw : (if acc then row.getD j 0 else 0) = old j)
    (hg : ¬ x.GoodWord a b f anc (old j) i j) :
    prodWord x a b f acc anc row o (i * 128 + j) = { o with ovf := some (i * 128 + j) } := by
  have hi : (i * 128 + j) / 128 = i := by omega
  have hm : (i * 128 + j) % 128 = j := by omega
  have hp : ¬ (f = 3 ∧ x.bitmap.getLsbD j = true) := fun hp => hg (.inl hp)
  have hc : ¬ (decide (f = 3) && x.bitmap.getLsbD j) = true := by simpa using hp
  have hs := intWord_overflow a b (x.zaOf f i) (x.zbOf f j) anc (old j) i j (k := 0) (n := a.kb) (by
    by_contra hn
    refine hg (.inr fun k h1 h2 => ?_)
    by_contra hk
    exact hn ⟨k, h1, by omega, hk⟩)
  rw [← List.range_eq_range', kSum, List.range_zero, List.map_nil, List.sum_nil, Int.add_zero] at hs
  simp only [Mxe.zaOf, Mxe.zbOf] at hs
  unfold prodWord
  rw [ho, hi, hm]
  dsimp only
  rw [hw]
  refine (if_neg (by simp)).trans ((if_neg hc).trans ?_)
  rw [hs]

theorem prodWord_stopped (o : ProdOut) (h : o.ovf.isSome = true) (ix : Nat) : prodWord x a b f acc anc row o ix = o := if_pos h

/-- The words of the first n columns of row i, newest last. -/
def Mxe.rowWords (x : Mxe) (a b : Slot) (f : Nat) (anc : Int) (old : Nat → Int) (i n : Nat) : List (Nat × Int × Int) :=
  (List.range n).map (fun j => (i * 128 + j, old j, x.newWord a b f anc (old j) i j))

variable {n : Nat} (hn : n ≤ 128) (hw : ∀ j, j < n → (if acc then row.getD j 0 else 0) = old j)
include hn hw

theorem prodWords_good (hg : ∀ j, j < n → x.GoodWord a b f anc (old j) i j) :
    ∃ fl, ((List.range n).map (fun j => i * 128 + j)).foldl (prodWord x a b f acc anc row) { ws := [], flags := 0, ovf := none } =
      { ws := (x.rowWords a b f anc old i n).reverse, flags := fl, ovf := none } ∧ (f ≠ 3 → fl = 0) := by
  induction n with
  | zero => exact ⟨0, rfl, fun _ => rfl⟩
  | succ n ih =>
    obtain ⟨fl, hf, h3⟩ := ih (by omega) (fun j hj => hw j (by omega)) (fun j hj => hg j (by omega))
    obtain ⟨fl', hf', h3'⟩ := prodWord_good (o := { ws := (x.rowWords a b f anc old i n).reverse, flags := fl, ovf := none }) rfl
      (by omega) (hw n (by omega)) (hg n (by omega))
    refine ⟨fl', ?_, fun h => (h3' h).trans (h3 h)⟩
    rw [List.range_succ, List.map_append, List.foldl_append, hf, List.map_singleton, List.foldl_cons, List.foldl_nil, hf',
      Mxe.rowWords, Mxe.rowWords, List.range_succ, List.map_append, List.reverse_append]
    rfl

theorem prodWords_overflow {k : Nat} (hk : k < n) (hg : ∀ j, j < k → x.GoodWord a b f anc (old j) i j)
    (hb : ¬ x.GoodWord a b f anc (old k) i k) :
    ∃ fl, ((List.range n).map (fun j => i * 128 + j)).foldl (prodWord x a b f acc anc row) { ws := [], flags := 0, ovf := none } =
      { ws := (x.rowWords a b f anc old i k).reverse, flags := fl, ovf := some (i * 128 + k) } := by
  induction n with
  | zero => exact absurd hk (Nat.not_lt_zero k)
  | succ n ih =>
    rw [List.range_succ, List.map_append, List.foldl_append, List.map_singleton, List.foldl_cons, List.foldl_nil]
    rcases Nat.lt_succ_iff_lt_or_eq.mp hk with hlt | rfl
    · obtain ⟨fl, hf⟩ := ih (by omega) (fun j hj => hw j (by omega)) hlt
      exact ⟨fl, by rw [hf]; exact prodWord_stopped _ rfl _⟩
    · obtain ⟨fl, hf, _⟩ := prodWords_good (by omega) (fun j hj => hw j (by omega)) hg
      exact ⟨fl, by rw [hf]; exact prodWord_bad rfl (by omega) (hw k (by omega)) hb⟩

end

/-! ### The changes of the sums (R224) -/

theorem sum_range_single (v : Nat → Int) (n k : Nat) :
    ((List.range n).map (fun j => if j = k then v j else 0)).sum = if k < n then v k else 0 := by
  induction n with
  | zero => rfl
  | succ n ih =>
    rw [List.range_succ, List.map_append, List.sum_append, ih, List.map_singleton, List.sum_singleton]
    by_cases h1 : n = k
    · subst h1
      simp
    · by_cases h2 : k < n
      · simp [h1, h2, Nat.lt_succ_of_lt h2]
      · simp [h1, h2, show ¬ k < n + 1 by omega]

/-- What word (i, j) adds to its predictions. -/
def Mxe.wordChange (x : Mxe) (a b : Slot) (f : Nat) (anc : Int) (old : Nat → Int) (i j : Nat) : Int :=
  if x.bitmap.getLsbD j then 0 else x.newWord a b f anc (old j) i j - old j

section
variable (x : Mxe) (a b : Slot) (f : Nat) (anc : Int) (old : Nat → Int) (i : Nat) {n : Nat} (hn : n ≤ 128)
include hn

/-- The sum of the changes of those words of a row that a test picks. -/
theorem rowWords_sum (p : Nat × Int × Int → Bool) (q : Nat → Bool)
    (hp : ∀ j, j < n → p (i * 128 + j, old j, x.newWord a b f anc (old j) i j) = q j) :
    isum (((((x.rowWords a b f anc old i n).reverse).filter (fun p => !x.bitmap.getLsbD (p.1 % 128))).filter p).map
      (fun p => p.2.2 - p.2.1)) = ((List.range n).map (fun j => if q j then x.wordChange a b f anc old i j else 0)).sum := by
  rw [List.filter_filter, isum_filter, List.map_reverse, List.sum_reverse, Mxe.rowWords, List.map_map]
  refine congrArg List.sum (List.map_congr_left fun j hj => ?_)
  have hj' := List.mem_range.mp hj
  have hm : (i * 128 + j) % 128 = j := by omega
  simp only [Function.comp_apply, hp j hj', hm, Mxe.wordChange]
  cases q j <;> cases x.bitmap.getLsbD j <;> rfl

theorem prodDelta_col {k : Nat} (hk : k < 128) : (prodDelta x.bitmap (x.rowWords a b f anc old i n).reverse).1.getD k 0 =
    if k < n then x.wordChange a b f anc old i k else 0 := by
  rw [prodDelta, ← sum_range_single (x.wordChange a b f anc old i)]
  dsimp only
  rw [getD_map_range _ _ hk, rowWords_sum x a b f anc old i hn _ (fun j => decide (j = k)) (fun j hj => ?_)]
  · simp only [decide_eq_true_eq]
  · have hm : (i * 128 + j) % 128 = j := by omega
    simp only [hm]

theorem prodDelta_row {k : Nat} (hk : k < 128) : (prodDelta x.bitmap (x.rowWords a b f anc old i n).reverse).2.getD k 0 =
    if k = i then ((List.range n).map (x.wordChange a b f anc old i)).sum else 0 := by
  rw [prodDelta]
  dsimp only
  rw [getD_map_range _ _ hk, rowWords_sum x a b f anc old i hn _ (fun _ => decide (k = i)) (fun j hj => ?_)]
  · by_cases h : k = i <;> simp [h]
  · have hm : (i * 128 + j) / 128 = i := by omega
    simp only [hm, eq_comm]

end

theorem predAdd_getD (l r : List Int) {k : Nat} (hk : k < 128) : (predAdd l r).getD k 0 = l.getD k 0 + r.getD k 0 := by
  rw [predAdd, getD_map_range _ _ hk, predAt, predAt]

/-! ### The steps of a product (R220, R221, R224) -/

theorem Eng.zn_eq (e : Eng) : e.zn = e.f7.toNat / 8 := by
  have := e.f7.isLt
  simp only [Eng.zn, fld, bitsN]
  omega

/-- The old word that a product goes on from. -/
def oldWord (acc : Bool) (m : Memory) (g z i j : Nat) : Int := if acc then zWord m g z i j else 0

/-- An entry n words further, with flags that they have raised. -/
def QEntry.advanced (n : Nat) (fl : BitVec 5) (k : QEntry) : QEntry := { k with beat := k.beat + n, flags := k.flags ||| fl }

/-- A z tile with row i done, its predictions moved by d where they hold. -/
def ZTile.rowDone (i : Nat) (d : List Int × List Int) (z : ZTile) : ZTile :=
  { z with wm := i + 1, cr := if z.cvalid then predAdd z.cr d.1 else z.cr, cc := if z.cvalid then predAdd z.cc d.2 else z.cc }

theorem ZTile.rowDone_void {z : ZTile} (h : z.cvalid = false) (i : Nat) (d : List Int × List Int) :
    z.rowDone i d = { z with wm := i + 1 } := by
  simp [ZTile.rowDone, h]

/-- A z tile closed, its predictions void. -/
def ZTile.voided (z : ZTile) : ZTile := { z with wm := 128, cvalid := false }

/-- Memory with n words of row i of a z tile in place. -/
def rowMem (m : Memory) (g z i : Nat) (new : Nat → Int) (n : Nat) : Memory :=
  m.setN (zPlace g z i 0) (joined (fun j => accBytes (new j)) n)

theorem length_accBytes (a : Int) : (accBytes a).length = 10 := length_leBytes _ _

theorem zPlace_add (g z i j : Nat) : zPlace g z i 0 + 10 * j = zPlace g z i j := by
  simp only [zPlace]
  omega

theorem rowMem_word {m : Memory} (wf : m.wf = true) (g z i : Nat) (new : Nat → Int) {n j : Nat} (h : j < n) :
    (rowMem m g z i new n).getN (zPlace g z i j) 10 = leBytes 10 (BitVec.ofInt 80 (new j)).toNat := by
  have hj := Memory.getN_setN_joined (b := fun j => accBytes (new j)) (fun j => length_accBytes (new j)) wf (zPlace g z i 0) h
  rw [zPlace_add] at hj
  rw [rowMem, hj, accBytes, wrapN_eq]

theorem rowMem_other {m : Memory} (wf : m.wf = true) (g z i : Nat) (new : Nat → Int) {n q : Nat}
    (h : q < zPlace g z i 0 ∨ zPlace g z i n ≤ q) : (rowMem m g z i new n).get q = m.get q := by
  rw [← zPlace_add g z i n] at h
  exact Memory.get_setN_joined_other (fun j => length_accBytes (new j)) wf h

section
variable {s : State} {g : Nat} {en : QEntry} (h : s.MatHead g en)
include h

/-- Memory, the entry and a z tile changed in turn. -/
theorem State.MatHead.advance (m : Memory) (F : QEntry → QEntry) (n : Nat) (G : ZTile → ZTile) :
    let s' := (({ s with mem := m } : State).updEntry g .x en.isn F).updZt g n G
    s'.mem = m ∧ (s'.tile g).mxe = (s.tile g).mxe.setZt n (G ((s.tile g).mxe.zt n)) ∧ (s'.tile g).xq.ents = [F en] := by
  have ha : ((({ s with mem := m } : State).tile g).queue .x).AtHead en [] := h.atHead
  dsimp only
  rw [State.updEntry_head ha, State.updZt, State.tile_updTile_same, State.tile_setTile_same]
  exact ⟨rfl, rfl, rfl⟩

/-- A z tile and the entry changed in turn. -/
theorem State.MatHead.advance_entry (F : QEntry → QEntry) (n : Nat) (G : ZTile → ZTile) :
    let s' := (s.updZt g n G).updEntry g .x en.isn F
    s'.mem = s.mem ∧ (s'.tile g).mxe = (s.tile g).mxe.setZt n (G ((s.tile g).mxe.zt n)) ∧ (s'.tile g).xq.ents = [F en] := by
  have ha := h.step (State.MatStep.updZt s g n G)
  dsimp only
  rw [State.updEntry_head ha, State.tile_setTile_same, State.updZt, State.tile_updTile_same]
  exact ⟨rfl, rfl, rfl⟩

end

section
variable {s : State} {g : Nat} {en : QEntry} {e : Eng} {f i : Nat} {anc : Int} {x : Mxe} {a b : Slot} {old : Nat → Int}

/-- Words of a row, once computed, are written. -/
theorem State.laneWrites_row (hs : s.clean) {n : Nat} (hn : n ≤ 128) :
    s.laneWrites g ((x.rowWords a b f anc old i n).reverse.reverse.map (fun p => (zOff e.zn (p.1 / 128) (p.1 % 128), accBytes p.2.2))) =
      .ok { s with mem := rowMem s.mem g e.zn i (fun j => x.newWord a b f anc (old j) i j) n } := by
  have hl : (x.rowWords a b f anc old i n).reverse.reverse.map (fun p => (zOff e.zn (p.1 / 128) (p.1 % 128), accBytes p.2.2)) =
      (List.range n).map (fun j => (zOff e.zn i j, accBytes (x.newWord a b f anc (old j) i j))) := by
    rw [List.reverse_reverse, Mxe.rowWords, List.map_map]
    refine List.map_congr_left fun j hj => ?_
    have hj' := List.mem_range.mp hj
    have hi : (i * 128 + j) / 128 = i := by omega
    have hm : (i * 128 + j) % 128 = j := by omega
    simp only [Function.comp_apply, hi, hm]
  rw [State.laneWrites_clean hs, hl, List.foldl_map, rowMem,
    ← Memory.foldl_setN_joined (fun j => length_accBytes (x.newWord a b f anc (old j) i j))]
  simp only [localKey_zOff, zPlace_add]

variable (hx : x = (s.tile g).mxe) (ha : a = x.prodA e) (hb : b = x.prodB e)
include hx ha hb

/-- A row's words as computed, then what follows of them. -/
theorem prodRow_out (hs : s.clean) (hbeat : en.beat = i * b.cnt) (h0 : 0 < b.cnt) {n : Nat} (hn : n ≤ 128)
    {fl : BitVec 5} {ov : Option Nat} (ho : ((List.range b.cnt).map (fun j => i * 128 + j)).foldl
      (prodWord x a b f e.acc anc (zRow s.mem g e.zn i 0 (if e.acc then b.cnt else 0))) { ws := [], flags := 0, ovf := none } =
      { ws := (x.rowWords a b f anc old i n).reverse, flags := fl, ovf := ov }) :
    let s' := ({ s with mem := rowMem s.mem g e.zn i (fun j => x.newWord a b f anc (old j) i j) n } : State).updEntry g .x en.isn
      (QEntry.advanced n fl)
    prodRow s g en e f anc = ov.elim (.more (s'.updZt g e.zn (ZTile.rowDone i (prodDelta x.bitmap (x.rowWords a b f anc old i n).reverse))))
      (fun ix => .fault (ixFault 25 ix) (s'.updZt g e.zn ZTile.voided)) := by
  have hdiv : en.beat / b.cnt = i := by rw [hbeat, Nat.mul_div_cancel _ h0]
  have hmod : en.beat % b.cnt = 0 := by rw [hbeat, Nat.mul_mod_left]
  have hlen : (x.rowWords a b f anc old i n).reverse.length = n := by
    rw [List.length_reverse, Mxe.rowWords, List.length_map, List.length_range]
  have hrow : zRow s.mem g e.zn i (if e.acc = true then (0, b.cnt) else (0, 0)).1 (if e.acc = true then (0, b.cnt) else (0, 0)).2 =
      zRow s.mem g e.zn i 0 (if e.acc then b.cnt else 0) := by
    cases e.acc <;> rfl
  unfold prodRow
  subst hx ha hb
  dsimp only
  rw [hdiv, hmod, State.zRows_clean hs]
  dsimp only
  simp only [List.range_one, List.map_singleton, List.headD_cons, List.drop_zero, Nat.add_zero, hrow]
  rw [ho]
  dsimp only
  rw [State.laneWrites_row hs hn]
  dsimp only
  rw [hlen]
  cases ov <;> rfl

end

/-- The forms of a product, by number (R219). -/
def products (e : Eng) : List Instr := [.mma e, .mmas e, .mmaq e, .mmap e]

theorem State.unitRun_product {s : State} {g : Nat} {en : QEntry} {e : Eng} {f : Nat} (hi : en.instr = (products e)[f]?)
    (hn : en.instr ≠ none) :
    ∃ i, en.instr = some i ∧ MatrixInstr i ∧ s.unitRun g en i = prodRun s g en e f en.anc := by
  match f with
  | 0 => exact ⟨_, hi, ⟨rfl, rfl, fun _ => Instr.noConfusion⟩, rfl⟩
  | 1 => exact ⟨_, hi, ⟨rfl, rfl, fun _ => Instr.noConfusion⟩, rfl⟩
  | 2 => exact ⟨_, hi, ⟨rfl, rfl, fun _ => Instr.noConfusion⟩, rfl⟩
  | 3 => exact ⟨_, hi, ⟨rfl, rfl, fun _ => Instr.noConfusion⟩, rfl⟩
  | k + 4 => exact absurd hi hn

/-- The anchor that a command captured when it began. -/
theorem QEntry.anc_eq (en : QEntry) : en.anc = ((en.cap.headD 0).truncate 16 : BitVec 16).toInt := by
  rw [QEntry.anc, sextN_eq_toInt (by decide)]
  simp

/-- The word that a product leaves or adds to (R224). -/
def leftWord (acc : Bool) (m n : Nat) (mem : Memory) (g z i j : Nat) : Int :=
  if !acc && decide (i < m) && decide (j < n) then 0 else zWord mem g z i j

/-- The columns of row i that a product into a tile reads for its predictions. -/
def leftCols (acc : Bool) (m n i : Nat) : Nat × Nat := (if decide (i < m) && !acc then n else 0, 128)

theorem leftCols_word {acc : Bool} {m n : Nat} {mem : Memory} {g z : Nat} (i : Nat) {j : Nat} (hj : j < 128) :
    (if (leftCols acc m n i).1 ≤ j ∧ j < (leftCols acc m n i).2 then zWord mem g z i j else 0) = leftWord acc m n mem g z i j := by
  rw [leftWord, leftCols]
  cases acc
  · by_cases hi : i < m <;> by_cases hn : j < n <;> simp [hi, hj, hn, Nat.not_le.mpr, Nat.not_lt.mp]
  · simp [hj]

section
variable {s : State} {g : Nat} {e : Eng} {x : Mxe} {zt : ZTile}

/-- A product goes on from predictions that hold under its bitmap. -/
def ZTile.Holds (zt : ZTile) (x : Mxe) (e : Eng) : Prop := e.acc = true ∧ zt.cvalid = true ∧ (zt.bm = none ∨ zt.bm = some x.bitmap)

/-- A z tile with predictions taken from the words that a product leaves or adds to. -/
def ZTile.seeded (zt : ZTile) (x : Mxe) (e : Eng) (mem : Memory) (g : Nat) : ZTile :=
  let sums := zSums x.bitmap (zTileRows mem g e.zn (leftCols e.acc (x.prodA e).cnt (x.prodB e).cnt))
  { zt with bm := some x.bitmap, cvalid := decide (x.csMode ≠ 0), cr := sums.1, cc := sums.2 }

variable (hx : x = (s.tile g).mxe) (hz : zt = x.zt e.zn)
include hx hz

/-- Predictions stay as they are where the mode is OFF or they hold. -/
theorem prodSeed_kept (hk : x.csMode = 0 ∨ zt.Holds x e) : prodSeed s g e =
    .ok (s.updZt g e.zn (fun _ => { zt with bm := some x.bitmap, cvalid := decide (x.csMode ≠ 0) })) := by
  subst hz hx
  unfold prodSeed
  dsimp only
  refine if_pos ?_
  rcases hk with h | ⟨h1, h2, h3⟩
  · simp [h]
  · simp [h1, h2, h3]

/-- Else they are the sums of the words that the product leaves or adds to. -/
theorem prodSeed_sums (hs : s.clean) (h0 : x.csMode ≠ 0) (hk : ¬ zt.Holds x e) : ∃ zt',
    prodSeed s g e = .ok (s.updZt g e.zn (fun _ => zt')) ∧
    zt' = { zt with bm := some x.bitmap, cvalid := decide (x.csMode ≠ 0), cr := zt'.cr, cc := zt'.cc } ∧
    (∀ j, j < 128 → zt'.cr.getD j 0 = if x.bitmap.getLsbD j then 0 else
      ((List.range 128).map (fun i => leftWord e.acc (x.prodA e).cnt (x.prodB e).cnt s.mem g e.zn i j)).sum) ∧
    (∀ i, i < 128 → zt'.cc.getD i 0 = ((List.range 128).map (fun j => if x.bitmap.getLsbD j then 0 else
      leftWord e.acc (x.prodA e).cnt (x.prodB e).cnt s.mem g e.zn i j)).sum) := by
  have hw := @leftCols_word e.acc (x.prodA e).cnt (x.prodB e).cnt s.mem g e.zn
  refine ⟨zt.seeded x e s.mem g, ?_, rfl, fun j hj => ?_, fun i hi => ?_⟩
  · subst hz hx
    unfold prodSeed
    dsimp only
    refine (if_neg ?_).trans ?_
    · simp only [Bool.or_eq_true, Bool.and_eq_true, decide_eq_true_eq]
      rintro (h | ⟨⟨h1, h2⟩, h3⟩)
      · exact h0 h
      · exact hk ⟨h1, h2, h3⟩
    · rw [State.zRows_whole hs]
      rfl
  · rw [ZTile.seeded]
    dsimp only
    rw [zSums_col _ _ _ _ _ hj]
    refine congrArg (fun v => if x.bitmap.getLsbD j = true then 0 else List.sum v) (List.map_congr_left fun i _ => hw i hj)
  · rw [ZTile.seeded]
    dsimp only
    rw [zSums_row _ _ _ _ _ hi]
    refine congrArg List.sum (List.map_congr_left fun j hj => ?_)
    rw [← hw i (List.mem_range.mp hj)]

end

section
variable {s : State} {g : Nat} {en : QEntry} {e : Eng} {f : Nat} (h : s.MatHead g en) (hi : en.instr = (products e)[f]?)
  (hn : en.instr ≠ none)
include h hi hn

/-- The first step of a product takes its predictions. -/
theorem State.MatHead.product_seeds (hc : en.cap.length < 2) {zt' : ZTile} (hp : prodSeed s g e = .ok (s.updZt g e.zn (fun _ => zt'))) :
    ∃ u : State, Machine.exec (.engineCommandCompletion g .x en.isn) s = .next u ∧ u.mem = s.mem ∧
      (u.tile g).mxe = (s.tile g).mxe.setZt e.zn zt' ∧ (u.tile g).xq.ents = [{ en with cap := en.cap ++ [1], held := false }] := by
  obtain ⟨i, hi', hm, hu⟩ := State.unitRun_product (s := s) (g := g) hi hn
  obtain ⟨a1, a2, a3⟩ := h.advance_entry (fun k => { k with cap := k.cap ++ [1] }) e.zn (fun _ => zt')
  have hr : s.unitRun g en i = .more ((s.updZt g e.zn (fun _ => zt')).updEntry g .x en.isn (fun k => { k with cap := k.cap ++ [1] })) := by
    rw [hu, prodRun, if_pos hc, hp]
  obtain ⟨u, h1, h2, h3, h4⟩ := h.more hi' hm hr a3 rfl
  exact ⟨u, h1, h2.trans a1, h3.trans a2, h4⟩

omit h in
/-- The last step of a product closes its tile (R42, R212). -/
theorem State.product_ends (hc : 2 ≤ en.cap.length)
    (hb : ((s.tile g).mxe.prodA e).cnt * ((s.tile g).mxe.prodB e).cnt ≤ en.beat) : ∃ i, en.instr = some i ∧ MatrixInstr i ∧
    s.unitRun g en i =
      .done (s.updZt g e.zn (fun z => { z with wm := 128, zanc := if e.acc then z.zanc else BitVec.ofInt 16 en.anc })) 0 none := by
  obtain ⟨i, hi', hm, hu⟩ := State.unitRun_product (s := s) (g := g) hi hn
  refine ⟨i, hi', hm, ?_⟩
  rw [hu, prodRun, if_neg (Nat.not_lt.mpr hc), if_neg (Nat.not_lt.mpr hb)]
  rfl

variable {i : Nat} {x : Mxe} {a b : Slot} {old : Nat → Int} (hc : 2 ≤ en.cap.length) (hx : x = (s.tile g).mxe) (ha : a = x.prodA e)
  (hb : b = x.prodB e) (hia : i < a.cnt) (h0 : 0 < b.cnt) (h128 : b.cnt ≤ 128) (hbeat : en.beat = i * b.cnt)
  (hold : old = oldWord e.acc s.mem g e.zn i)
include hc hx ha hb hia h0 hbeat

omit h in
theorem State.product_row : ∃ c, en.instr = some c ∧ MatrixInstr c ∧ s.unitRun g en c = prodRow s g en e f en.anc := by
  obtain ⟨c, hi', hm, hu⟩ := State.unitRun_product (s := s) (g := g) hi hn
  have hlt : en.beat < (x.prodA e).cnt * (x.prodB e).cnt := by
    rw [hbeat, ← ha, ← hb]
    exact Nat.mul_lt_mul_of_pos_right hia h0
  subst hx
  refine ⟨c, hi', hm, ?_⟩
  rw [hu, prodRun, if_neg (Nat.not_lt.mpr hc), if_pos hlt]

include h128 hold

omit h hi hn hc hx ha hb hia h0 hbeat h128 in
theorem zRow_old {n j : Nat} (hj : j < n) :
    (if e.acc then (zRow s.mem g e.zn i 0 (if e.acc then n else 0)).getD j 0 else 0) = old j := by
  rw [hold, oldWord, zRow_getD]
  cases e.acc
  · rw [if_neg Bool.false_ne_true, if_neg Bool.false_ne_true]
  · simp [hj]

/-- A row none of whose sums leaves 80 bits is written whole, and its change moves valid predictions. -/
theorem State.MatHead.product_row_good (hg : ∀ j, j < b.cnt → x.GoodWord a b f en.anc (old j) i j) :
    ∃ (u : State) (fl : BitVec 5), Machine.exec (.engineCommandCompletion g .x en.isn) s = .next u ∧
      u.mem = rowMem s.mem g e.zn i (fun j => x.newWord a b f en.anc (old j) i j) b.cnt ∧
      (u.tile g).mxe = x.setZt e.zn ((x.zt e.zn).rowDone i (prodDelta x.bitmap (x.rowWords a b f en.anc old i b.cnt).reverse)) ∧
      (u.tile g).xq.ents = [{ en with beat := en.beat + b.cnt, flags := fl, held := false }] ∧ (f ≠ 3 → fl = en.flags) := by
  obtain ⟨c, hi', hm, hu⟩ := State.product_row hi hn hc hx ha hb hia h0 hbeat
  obtain ⟨fl, ho, h3⟩ := prodWords_good (acc := e.acc) (row := zRow s.mem g e.zn i 0 (if e.acc then b.cnt else 0)) h128
    (fun j hj => zRow_old hold hj) hg
  have hr := prodRow_out (en := en) hx ha hb h.clean hbeat h0 h128 ho
  obtain ⟨a1, a2, a3⟩ := h.advance (rowMem s.mem g e.zn i (fun j => x.newWord a b f en.anc (old j) i j) b.cnt)
    (QEntry.advanced b.cnt fl) e.zn (ZTile.rowDone i (prodDelta x.bitmap (x.rowWords a b f en.anc old i b.cnt).reverse))
  obtain ⟨u, h1, h2, h3', h4⟩ := h.more hi' hm (hu.trans hr) a3 rfl
  refine ⟨u, en.flags ||| fl, h1, h2.trans a1, h3'.trans (by rw [a2, hx]), h4, fun hf => ?_⟩
  rw [h3 hf]
  exact BitVec.or_zero

/-- A sum that leaves 80 bits stops the product at its word, those before it written, the predictions void (R79, R221). -/
theorem State.MatHead.product_row_overflow {k : Nat} (hk : k < b.cnt) (hg : ∀ j, j < k → x.GoodWord a b f en.anc (old j) i j)
    (hbad : ¬ x.GoodWord a b f en.anc (old k) i k) :
    ∃ v : State, Machine.exec (.engineCommandCompletion g .x en.isn) s = .next (v.engineFault g .x en (ixFault 25 (i * 128 + k))) ∧
      v.mem = rowMem s.mem g e.zn i (fun j => x.newWord a b f en.anc (old j) i j) k ∧
      (v.tile g).mxe = x.setZt e.zn (x.zt e.zn).voided := by
  obtain ⟨c, hi', hm, hu⟩ := State.product_row hi hn hc hx ha hb hia h0 hbeat
  obtain ⟨fl, ho⟩ := prodWords_overflow (acc := e.acc) (row := zRow s.mem g e.zn i 0 (if e.acc then b.cnt else 0)) h128
    (fun j hj => zRow_old hold hj) hk hg hbad
  have hr := prodRow_out (en := en) hx ha hb h.clean hbeat h0 (n := k) (by omega) ho
  obtain ⟨a1, a2, _⟩ := h.advance (rowMem s.mem g e.zn i (fun j => x.newWord a b f en.anc (old j) i j) k) (QEntry.advanced k fl) e.zn
    ZTile.voided
  exact ⟨_, h.fault hi' hm (hu.trans hr), a1, a2.trans (by rw [hx])⟩

end

/-- A row's change of valid predictions. -/
theorem ZTile.rowDone_sums {zt : ZTile} (hv : zt.cvalid = true) (x : Mxe) (a b : Slot) (f : Nat) (anc : Int) (old : Nat → Int) (i : Nat)
    {n : Nat} (hn : n ≤ 128) : let zt' := zt.rowDone i (prodDelta x.bitmap (x.rowWords a b f anc old i n).reverse)
    (∀ j, j < 128 → zt'.cr.getD j 0 = zt.cr.getD j 0 + if j < n then x.wordChange a b f anc old i j else 0) ∧
    (∀ k, k < 128 → zt'.cc.getD k 0 = zt.cc.getD k 0 +
      if k = i then ((List.range n).map (x.wordChange a b f anc old i)).sum else 0) := by
  refine ⟨fun j hj => ?_, fun k hk => ?_⟩
  · simp only [ZTile.rowDone, if_pos hv]
    rw [predAdd_getD _ _ hj, prodDelta_col x a b f anc old i hn hj]
  · simp only [ZTile.rowDone, if_pos hv]
    rw [predAdd_getD _ _ hk, prodDelta_row x a b f anc old i hn hk]

end Sys2Proof.Machine

/-! SUPPORT. The check of a z tile (R223, R225, R228) and its log record (R451, R492). -/

namespace Sys2Proof.Machine

/-! ### The record of a correction -/

/-- With the error ring off a record is dropped and counted. -/
theorem State.sendRecord_off {s : State} (h : s.ring.en = false) (r : ErrRec) :
    (s.sendRecord r).tiles = s.tiles ∧ (s.sendRecord r).mem = s.mem := by
  unfold State.sendRecord
  simp [h]

/-- u has the memory of s, and its tile g but for the lines that MCAP will lose at the next launch (R235). -/
def State.SameButLines (s u : State) (g : Nat) : Prop := u.mem = s.mem ∧ ∃ k, u.tile g = { s.tile g with mcapNext := k }

theorem State.SameButLines.refl (s : State) (g : Nat) : s.SameButLines s g := ⟨rfl, _, rfl⟩

theorem State.SameButLines.trans {s u v : State} {g : Nat} (h : s.SameButLines u g) (h' : u.SameButLines v g) : s.SameButLines v g := by
  obtain ⟨hm, k, ht⟩ := h
  obtain ⟨hm', k', ht'⟩ := h'
  exact ⟨hm'.trans hm, k', by rw [ht', ht]⟩

theorem State.SameButLines.ite {s u v : State} {g : Nat} (c : Prop) [Decidable c] (hu : s.SameButLines u g) (hv : s.SameButLines v g) :
    s.SameButLines (if c then u else v) g := by
  split
  · exact hu
  · exact hv

theorem State.SameButLines.sendRecord {s : State} (h : s.ring.en = false) (r : ErrRec) (g : Nat) : s.SameButLines (s.sendRecord r) g := by
  obtain ⟨ht, hm⟩ := State.sendRecord_off h r
  exact ⟨hm, (s.tile g).mcapNext, by rw [State.tile, ht, State.tile]⟩

/-- A line of a matrix engine is retired. -/
theorem State.SameButLines.retireUnit (s : State) (g : Nat) {r : LogRec} (hr : r.kind = 4) (row : Bool) :
    s.SameButLines (s.retireUnit 2 g r row) g := by
  unfold State.retireUnit
  rw [if_pos (le_refl 2), if_pos hr]
  dsimp only
  split
  · exact .refl s g
  · exact ⟨rfl, _, State.tile_updTile_same _ _ _⟩

theorem State.SameButLines.logEvent {s : State} (h : s.ring.en = false) (g : Nat) (loc : Word) (inj : Bool) (src : Nat) :
    s.SameButLines (s.logEvent 2 g loc 4 inj src) g := by
  have check {u : State} (hu : u.ring.en = false) (c : Prop) [Decidable c] (er : ErrRec) {r : LogRec} (hr : r.kind = 4) (row : Bool) :
      u.SameButLines (if c then (u.sendRecord er).retireUnit 2 g r row else u) g :=
    .ite c ((State.SameButLines.sendRecord hu er g).trans (.retireUnit _ _ hr _)) (.refl _ _)
  have quiet {u : State} (hu : u.ring.en = false) (c : Prop) [Decidable c] (er : ErrRec) (r : LogRec) (hr : r.kind = 4) (row : Bool) :
      (if c then (u.sendRecord er).retireUnit 2 g r row else u).ring.en = false := by
    have hsend : (u.sendRecord er).ring.en = false := by
      unfold State.sendRecord
      simp [hu]
    split
    · unfold State.retireUnit
      rw [if_pos (le_refl 2), if_pos hr]
      dsimp only
      split
      · exact hsend
      · exact hsend
    · exact hu
  unfold State.logEvent
  dsimp only
  generalize hu : ({ s with logs := _ } : State) = u
  have hs : s.SameButLines u g := by
    subst hu
    exact ⟨rfl, _, rfl⟩
  have hru : u.ring.en = false := by
    subst hu
    exact h
  refine hs.trans (.ite _ (.sendRecord hru _ g) (.ite _ (.refl _ _) ?_))
  by_cases h255 : (decide (4 = 4) && decide (fld loc 7 0 = 255)) = true
  · rw [if_pos h255]
    exact .ite _ (check hru _ _ rfl _) (.refl _ _)
  · rw [if_neg h255]
    exact .ite _ ((check hru _ _ rfl _).trans (check (quiet hru _ _ _ rfl _) _ _ rfl _)) (check hru _ _ rfl _)

theorem State.SameButLines.matStep {s u : State} {g : Nat} (h : s.SameButLines u g) :
    s.MatStep u g s.mem (s.tile g).mxe (s.tile g).seed := by
  obtain ⟨hm, k, ht⟩ := h
  exact ⟨hm, _, _, k, ht⟩

/-- A correction is counted and logged. -/
theorem State.MatStep.correction {s : State} (h : s.ring.en = false) (g z verd row col : Nat) (inj : Bool) :
    s.MatStep (s.correction g z verd row col inj) g s.mem { (s.tile g).mxe with cscor := satInc (s.tile g).mxe.cscor } (s.tile g).seed := by
  unfold State.correction
  dsimp only
  generalize hu : s.updTile g _ = u
  have hstep : s.MatStep u g s.mem { (s.tile g).mxe with cscor := satInc (s.tile g).mxe.cscor } (s.tile g).seed := by
    subst hu
    exact ⟨rfl, _, _, _, State.tile_updTile_same _ _ _⟩
  have hr : u.ring.en = false := by
    subst hu
    exact h
  obtain ⟨_, _, _, ht⟩ := hstep.tile
  have hlog := (State.SameButLines.logEvent hr g
    (BitVec.ofNat 64 ((u.tile g).physLine g true row + (u.tile g).physLine g false col * 256 + z * 65536)) inj 3).matStep
  rw [ht, hstep.mem] at hlog
  rw [ht]
  exact hstep.trans hlog

/-! ### Differences of the sums -/

/-- The column sum of a z tile less its prediction, over unprivileged columns. -/
def colOff (m : Memory) (g z : Nat) (zt : ZTile) (j : Nat) : Int :=
  (if (zt.bm.getD 0).getLsbD j then 0 else ((List.range 128).map (fun i => zWord m g z i j)).sum) - zt.cr.getD j 0

/-- The row sum of a z tile less its prediction. -/
def rowOff (m : Memory) (g z : Nat) (zt : ZTile) (i : Nat) : Int :=
  ((List.range 128).map (fun j => if (zt.bm.getD 0).getLsbD j then 0 else zWord m g z i j)).sum - zt.cc.getD i 0

/-- All of the 128 differences are 0. -/
def NoneOff (d : Nat → Int) : Prop := ∀ i, i < 128 → d i = 0
/-- Difference k alone is not 0. -/
def OnlyOff (d : Nat → Int) (k : Nat) : Prop := k < 128 ∧ d k ≠ 0 ∧ ∀ i, i < 128 → i ≠ k → d i = 0
/-- Two differences are not 0. -/
def TwoOff (d : Nat → Int) : Prop := ∃ i k, i < k ∧ k < 128 ∧ d i ≠ 0 ∧ d k ≠ 0

theorem diffs_eq {act pred : List Int} {d : Nat → Int} (h : ∀ i, i < 128 → predAt act i - predAt pred i = d i) :
    diffs act pred = ((List.range 128).filter (fun i => decide (d i ≠ 0))).map (fun i => (i, d i)) := by
  rw [diffs, List.map_congr_left (g := fun i => (i, d i)) fun i hi => by rw [h i (List.mem_range.mp hi)], List.filter_map]
  rfl

theorem filter_range_only {p : Nat → Bool} {n k : Nat} (hk : k < n) (hp : p k = true) (h : ∀ i, i < n → i ≠ k → p i = false) :
    (List.range n).filter p = [k] := by
  induction n with
  | zero => exact absurd hk (Nat.not_lt_zero k)
  | succ n ih =>
    rw [List.range_succ, List.filter_append]
    rcases Nat.lt_succ_iff_lt_or_eq.mp hk with hlt | rfl
    · rw [ih hlt fun i hi => h i (by omega), List.filter_singleton, h n (by omega) (by omega)]
      rfl
    · have hnone : (List.range k).filter p = [] := List.filter_eq_nil_iff.mpr fun i hi => by
        have := List.mem_range.mp hi
        simp [h i (by omega) (by omega)]
      rw [hnone, List.filter_singleton, hp]
      rfl

section
variable {act pred : List Int} {d : Nat → Int} (hd : ∀ i, i < 128 → predAt act i - predAt pred i = d i)
include hd

theorem diffs_none (h : NoneOff d) : diffs act pred = [] := by
  rw [diffs_eq hd, List.filter_eq_nil_iff.mpr fun i hi => by simp [h i (List.mem_range.mp hi)], List.map_nil]

theorem diffs_only {k : Nat} (h : OnlyOff d k) : diffs act pred = [(k, d k)] := by
  obtain ⟨hk, h0, hn⟩ := h
  rw [diffs_eq hd, filter_range_only hk (decide_eq_true h0) fun i hi hik => by simp [hn i hi hik], List.map_singleton]

theorem diffs_two (h : TwoOff d) : ∃ a b r, diffs act pred = a :: b :: r := by
  obtain ⟨i, k, hik, hk, hi0, hk0⟩ := h
  have hi : (i, d i) ∈ diffs act pred := by
    rw [diffs_eq hd]
    exact List.mem_map_of_mem (List.mem_filter.mpr ⟨List.mem_range.mpr (by omega), decide_eq_true hi0⟩)
  have hk : (k, d k) ∈ diffs act pred := by
    rw [diffs_eq hd]
    exact List.mem_map_of_mem (List.mem_filter.mpr ⟨List.mem_range.mpr hk, decide_eq_true hk0⟩)
  cases hl : diffs act pred with
  | nil =>
    rw [hl] at hi
    exact absurd hi List.not_mem_nil
  | cons a r =>
    cases r with
    | nil =>
      rw [hl, List.mem_singleton] at hi hk
      have := congrArg Prod.fst (hi.trans hk.symm)
      exact absurd this (by simp only; omega)
    | cons b r => exact ⟨a, b, r, rfl⟩

end

/-! ### The verdict (R225, Table 6.8) -/

theorem statusWord_eq (verd row col : Nat) (d : Int) :
    statusWord verd row col d = BitVec.ofNat 64 (verd + row * 2 ^ 8 + col * 2 ^ 16) + (BitVec.ofInt 64 d <<< 32) := by
  apply BitVec.eq_of_toNat_eq
  rw [statusWord, wrapN, BitVec.toNat_add, BitVec.toNat_shiftLeft, BitVec.toNat_ofNat, BitVec.toNat_ofNat, BitVec.toNat_ofInt,
    Nat.shiftLeft_eq]
  omega

/-- The rows that a check of a z tile reads. -/
def checkRows (m : Memory) (g z : Nat) : List (List Int) := zTileRows m g z (fun _ => (0, 128))

theorem checkRows_col (s : State) (g z : Nat) (zt : ZTile) {i : Nat} (hi : i < 128) :
    predAt (zSums (zt.bm.getD 0) (checkRows s.mem g z)).1 i - predAt zt.cr i = colOff s.mem g z zt i := by
  rw [predAt, predAt, checkRows, zSums_col _ _ _ _ _ hi, colOff]
  simp [hi]

theorem checkRows_row (s : State) (g z : Nat) (zt : ZTile) {i : Nat} (hi : i < 128) :
    predAt (zSums (zt.bm.getD 0) (checkRows s.mem g z)).2 i - predAt zt.cc i = rowOff s.mem g z zt i := by
  rw [predAt, predAt, checkRows, zSums_row _ _ _ _ _ hi, rowOff]
  refine congrArg (fun l => List.sum l - _) (List.map_congr_left fun j hj => ?_)
  simp [List.mem_range.mp hj]

/-- A check with the fault of a sub-code. -/
def checkFault (s : State) (g z sub : Nat) : Except TrapI CheckOut × State :=
  (.error (TrapI.mk3 23 sub (BitVec.ofNat 64 z)),
    s.updTile g (fun t => { t with mxe := { t.mxe with csflt := satInc t.mxe.csflt } }.bump 141))

/-- What a check makes of the differences it has found, in a mode that is on. -/
def zVerdict (s : State) (g z : Nat) (sr sc : List Int) : (dc dr : List (Nat × Int)) → Except TrapI CheckOut × State
  | [], [] => (.ok { rows := checkRows s.mem g z, status := 0 }, s)
  | [(j, d)], [(i, d')] =>
    if d ≠ d' then checkFault s g z 2
    else if (s.tile g).mxe.csMode = 1 then checkFault s g z 1
    else
      let v := wordOf (checkRows s.mem g z) i j - d
      (match s.localWrite g (zOff z i j) (accBytes v) with
        | .error t => (.error t, s)
        | .ok u => (.ok { rows := applyWords (checkRows s.mem g z) [(i * 128 + j, 0, v)], status := statusWord 1 i j d },
            u.correction g z 1 i j false))
  | [(j, _)], [] =>
    if (s.tile g).mxe.csMode = 1 then checkFault s g z 1
    else (.ok { rows := checkRows s.mem g z, status := statusWord 2 255 j 0 },
      (s.updZt g z (fun t => { t with cr := (List.range 128).map (fun k => if k = j then predAt sr j else predAt t.cr k) })).correction
        g z 2 255 j false)
  | [], [(i, _)] =>
    if (s.tile g).mxe.csMode = 1 then checkFault s g z 1
    else (.ok { rows := checkRows s.mem g z, status := statusWord 2 i 255 0 },
      (s.updZt g z (fun t => { t with cc := (List.range 128).map (fun k => if k = i then predAt sc i else predAt t.cc k) })).correction
        g z 2 i 255 false)
  | _, _ => checkFault s g z 2

/-- A check without a mode or without valid predictions says so. -/
theorem zCheck_off {s : State} (hs : s.clean) {g z : Nat} (h : (s.tile g).mxe.csMode = 0 ∨ ((s.tile g).mxe.zt z).cvalid = false) :
    zCheck s g z = (.ok { rows := checkRows s.mem g z, status := statusWord 3 0 0 0 }, s) := by
  have hc : (decide ((s.tile g).mxe.csMode = 0) || !((s.tile g).mxe.zt z).cvalid) = true := by
    rcases h with h | h <;> simp [h]
  unfold zCheck
  dsimp only
  rw [State.zRows_whole hs]
  exact if_pos hc

section
variable {s : State} {g z : Nat} {x : Mxe} {zt : ZTile} (hs : s.clean) (hx : x = (s.tile g).mxe) (hz : zt = x.zt z)
  (hm : x.csMode ≠ 0) (hv : zt.cvalid = true)
include hs hx hz hm hv

/-- A check in a mode that is on goes by the differences of the sums. -/
theorem zCheck_on : zCheck s g z =
    let sums := zSums (zt.bm.getD 0) (checkRows s.mem g z)
    zVerdict s g z sums.1 sums.2 (diffs sums.1 zt.cr) (diffs sums.2 zt.cc) := by
  have hoff : ¬ (decide (x.csMode = 0) || !zt.cvalid) = true := by simp [hm, hv]
  subst hz hx
  unfold zCheck
  dsimp only
  rw [State.zRows_whole hs]
  refine (if_neg hoff).trans ?_
  rw [checkRows]
  rfl

end

/-! ### The status word pushed -/

/-- XRET with the status word of a command, where XR asks for it. -/
theorem xrPush_append (e : Eng) (l : List Word) (v : Word) : l ++ (xrPush e v).toList = if e.f7.getLsbD 0 then l ++ [v] else l := by
  rw [xrPush]
  split
  · rfl
  · exact List.append_nil l

theorem statusWord_none : statusWord 3 0 0 0 = 3 := by decide

/-! ### MCHK (R228) -/

theorem MatrixInstr.mchk (e : Eng) : MatrixInstr (.mchk e) := ⟨rfl, rfl, fun _ => Instr.noConfusion⟩

section
variable {s : State} {g : Nat} {en : QEntry} {e : Eng} (h : s.MatHead g en) (hi : en.instr = some (.mchk e))
include h hi

theorem State.MatHead.mchk_done {c : CheckOut} {s' : State} (hz : zCheck s g e.zn = (.ok c, s')) {v : Word}
    (hv : c.status = v) {m : Memory} {x : Mxe} {sd : BitVec 32}
    (hs : s.MatStep s' g m x sd) {P : State → Prop}
    (hP : ∀ u : State, u.mem = m → (u.tile g).mxe = x → (u.tile g).seed = sd → P u) :
    s.CompletesAs g en 0 (if e.f7.getLsbD 0 then (s.tile g).xret ++ [v] else (s.tile g).xret) P := by
  have hu : s.unitRun g en (.mchk e) = .done s' 0 (xrPush e c.status) := by
    show mchkRun s g e = _
    rw [mchkRun, hz]
  have hc := h.completes hi (.mchk e) hu hs hP
  rw [xrPush_append, hv] at hc
  exact hc

theorem State.MatHead.mchk_fault {sub : Nat} (hz : zCheck s g e.zn = checkFault s g e.zn sub) :
    ∃ v : State, Machine.exec (.engineCommandCompletion g .x en.isn) s =
        .next (v.engineFault g .x en (TrapI.mk3 23 sub (BitVec.ofNat 64 e.zn))) ∧
      v.mem = s.mem ∧ (v.tile g).mxe = { (s.tile g).mxe with csflt := satInc (s.tile g).mxe.csflt } := by
  have hu : s.unitRun g en (.mchk e) = .fault (TrapI.mk3 23 sub (BitVec.ofNat 64 e.zn)) (checkFault s g e.zn sub).2 := by
    show mchkRun s g e = _
    rw [mchkRun, hz]
    rfl
  refine ⟨_, h.fault hi (.mchk e) hu, rfl, ?_⟩
  rw [checkFault, State.tile_updTile_same]
  rfl

end

theorem Mxe.setZt_cscor (x : Mxe) (z : Nat) (zt : ZTile) : (x.setZt z zt).cscor = x.cscor := by
  unfold Mxe.setZt
  split <;> rfl

theorem State.MatStep.updZt_correction {s : State} (hring : s.ring.en = false) (g z : Nat) (G : ZTile → ZTile) (verd row col : Nat) :
    s.MatStep ((s.updZt g z G).correction g z verd row col false) g s.mem
      { (s.tile g).mxe.setZt z (G ((s.tile g).mxe.zt z)) with cscor := satInc (s.tile g).mxe.cscor } (s.tile g).seed := by
  have h := State.MatStep.updZt s g z G
  obtain ⟨_, _, _, ht⟩ := h.tile
  have hstep := State.MatStep.correction (s := s.updZt g z G) hring g z verd row col false
  rw [ht, h.mem] at hstep
  dsimp only at hstep
  rw [Mxe.setZt_cscor] at hstep
  exact h.trans hstep

/-- A word written is read back. -/
theorem Memory.getN_setN_word {m : Memory} (wf : m.wf = true) (k : Nat) (v : Int) :
    (m.setN k (accBytes v)).getN k 10 = leBytes 10 (BitVec.ofInt 80 v).toNat := by
  have h := Memory.getN_setN (accBytes v) m k wf
  rw [length_accBytes] at h
  rw [h, accBytes, wrapN_eq]

/-- A list of sums with entry k moved by its difference. -/
theorem moved_getD (act l : List Int) (d : Int) (k : Nat) (hd : predAt act k - predAt l k = d) {i : Nat} (hi : i < 128) :
    ((List.range 128).map (fun i => if i = k then predAt act k else predAt l i)).getD i 0 = l.getD i 0 + if i = k then d else 0 := by
  rw [getD_map_range _ _ hi, ← hd]
  split
  · rename_i h
    subst h
    simp only [predAt]
    omega
  · simp only [predAt, Int.add_zero]

/-- A correction after memory has changed. -/
theorem State.MatStep.setMem_correction {s : State} (hring : s.ring.en = false) (g z : Nat) (m : Memory) (verd row col : Nat) :
    s.MatStep (({ s with mem := m } : State).correction g z verd row col false) g m
      { (s.tile g).mxe with cscor := satInc (s.tile g).mxe.cscor } (s.tile g).seed := by
  have h := State.MatStep.setMem s g m
  generalize hu : ({ s with mem := m } : State) = u at h ⊢
  have hr : u.ring.en = false := by
    subst hu
    exact hring
  have ht : u.tile g = s.tile g := by
    subst hu
    rfl
  have hstep := State.MatStep.correction hr g z verd row col false
  rw [ht, h.mem] at hstep
  exact h.trans hstep

section
variable {s : State} {g z : Nat} {x : Mxe} {zt : ZTile} (hs : s.clean) (hx : x = (s.tile g).mxe) (hz : zt = x.zt z)
  (hm : x.csMode ≠ 0) (hv : zt.cvalid = true)
include hs hx hz hm hv

theorem zCheck_pass (hc : NoneOff (colOff s.mem g z zt)) (hr : NoneOff (rowOff s.mem g z zt)) :
    zCheck s g z = (.ok { rows := checkRows s.mem g z, status := 0 }, s) := by
  rw [zCheck_on hs hx hz hm hv]
  dsimp only
  rw [diffs_none (fun i hi => checkRows_col s g z zt hi) hc, diffs_none (fun i hi => checkRows_row s g z zt hi) hr]
  rfl

/-- More than one row or column off is sub-code 2. -/
theorem zCheck_two (h2 : TwoOff (colOff s.mem g z zt) ∨ TwoOff (rowOff s.mem g z zt)) : zCheck s g z = checkFault s g z 2 := by
  rw [zCheck_on hs hx hz hm hv]
  dsimp only
  rcases h2 with h2 | h2
  · obtain ⟨a, b, r, hd⟩ := diffs_two (fun i hi => checkRows_col s g z zt hi) h2
    rw [hd]
    rfl
  · obtain ⟨a, b, r, hd⟩ := diffs_two (fun i hi => checkRows_row s g z zt hi) h2
    rw [hd]
    unfold zVerdict
    generalize diffs (zSums (zt.bm.getD 0) (checkRows s.mem g z)).1 zt.cr = l
    rcases l with _ | ⟨p, _ | ⟨q, l⟩⟩ <;> rfl

section
variable {i j : Nat} (hc : OnlyOff (colOff s.mem g z zt) j) (hr : OnlyOff (rowOff s.mem g z zt) i)
include hc hr

theorem zCheck_differ (hd : colOff s.mem g z zt j ≠ rowOff s.mem g z zt i) : zCheck s g z = checkFault s g z 2 := by
  rw [zCheck_on hs hx hz hm hv]
  dsimp only
  rw [diffs_only (fun i hi => checkRows_col s g z zt hi) hc, diffs_only (fun i hi => checkRows_row s g z zt hi) hr]
  exact if_pos hd

theorem zCheck_word_detect (hd : colOff s.mem g z zt j = rowOff s.mem g z zt i) (h1 : x.csMode = 1) :
    zCheck s g z = checkFault s g z 1 := by
  rw [zCheck_on hs hx hz hm hv]
  dsimp only
  rw [diffs_only (fun i hi => checkRows_col s g z zt hi) hc, diffs_only (fun i hi => checkRows_row s g z zt hi) hr]
  subst hx
  exact (if_neg (not_not.mpr hd)).trans (if_pos h1)

/-- One row and one column off by the same: their word is corrected. -/
theorem zCheck_word (hring : s.ring.en = false) (hd : colOff s.mem g z zt j = rowOff s.mem g z zt i) (h1 : x.csMode ≠ 1) :
    ∃ (c : CheckOut) (u : State), zCheck s g z = (.ok c, u) ∧ c.status = statusWord 1 i j (colOff s.mem g z zt j) ∧
      s.MatStep u g (s.mem.setN (zPlace g z i j) (accBytes (zWord s.mem g z i j - colOff s.mem g z zt j)))
        { x with cscor := satInc x.cscor } (s.tile g).seed := by
  rw [zCheck_on hs hx hz hm hv]
  dsimp only
  rw [diffs_only (fun i hi => checkRows_col s g z zt hi) hc, diffs_only (fun i hi => checkRows_row s g z zt hi) hr]
  subst hx
  refine ⟨{ rows := applyWords (checkRows s.mem g z) [(i * 128 + j, 0, zWord s.mem g z i j - colOff s.mem g z zt j)],
            status := statusWord 1 i j (colOff s.mem g z zt j) },
    State.correction { s with mem := s.mem.setN (zPlace g z i j) (accBytes (zWord s.mem g z i j - colOff s.mem g z zt j)) } g z 1 i j false,
    (if_neg (not_not.mpr hd)).trans ((if_neg h1).trans ?_), rfl, ?_⟩
  · dsimp only
    rw [State.localWrite_clean hs, localKey_zOff, checkRows, zTileRows_wordOf _ _ _ hr.1 hc.1]
  · exact State.MatStep.setMem_correction hring g z _ 1 i j

end

section
variable {k : Nat} (hring : s.ring.en = false)

/-- One side alone off is found at once in mode DETECT. -/
theorem zCheck_side_detect (h1 : x.csMode = 1) (ho : OnlyOff (colOff s.mem g z zt) k ∧ NoneOff (rowOff s.mem g z zt) ∨
    OnlyOff (rowOff s.mem g z zt) k ∧ NoneOff (colOff s.mem g z zt)) : zCheck s g z = checkFault s g z 1 := by
  rw [zCheck_on hs hx hz hm hv]
  dsimp only
  subst hx
  rcases ho with ⟨hc, hr⟩ | ⟨hr, hc⟩
  · rw [diffs_only (fun i hi => checkRows_col s g z zt hi) hc, diffs_none (fun i hi => checkRows_row s g z zt hi) hr]
    exact if_pos h1
  · rw [diffs_none (fun i hi => checkRows_col s g z zt hi) hc, diffs_only (fun i hi => checkRows_row s g z zt hi) hr]
    exact if_pos h1

include hring

/-- A column alone off has its prediction replaced. -/
theorem zCheck_col (hc : OnlyOff (colOff s.mem g z zt) k) (hr : NoneOff (rowOff s.mem g z zt)) (h1 : x.csMode ≠ 1) :
    ∃ (c : CheckOut) (u : State) (zt' : ZTile), zCheck s g z = (.ok c, u) ∧ c.status = statusWord 2 255 k 0 ∧
      s.MatStep u g s.mem { x.setZt z zt' with cscor := satInc x.cscor } (s.tile g).seed ∧ zt' = { zt with cr := zt'.cr } ∧
      ∀ i, i < 128 → zt'.cr.getD i 0 = zt.cr.getD i 0 + if i = k then colOff s.mem g z zt k else 0 := by
  rw [zCheck_on hs hx hz hm hv]
  dsimp only
  rw [diffs_only (fun i hi => checkRows_col s g z zt hi) hc, diffs_none (fun i hi => checkRows_row s g z zt hi) hr]
  subst hz hx
  exact ⟨_, _, _, if_neg h1, rfl, State.MatStep.updZt_correction hring g z _ 2 255 k, rfl,
    fun i hi => moved_getD _ _ _ k (checkRows_col s g z _ hc.1) hi⟩

/-- A row alone off has its prediction replaced. -/
theorem zCheck_row (hr : OnlyOff (rowOff s.mem g z zt) k) (hc : NoneOff (colOff s.mem g z zt)) (h1 : x.csMode ≠ 1) :
    ∃ (c : CheckOut) (u : State) (zt' : ZTile), zCheck s g z = (.ok c, u) ∧ c.status = statusWord 2 k 255 0 ∧
      s.MatStep u g s.mem { x.setZt z zt' with cscor := satInc x.cscor } (s.tile g).seed ∧ zt' = { zt with cc := zt'.cc } ∧
      ∀ i, i < 128 → zt'.cc.getD i 0 = zt.cc.getD i 0 + if i = k then rowOff s.mem g z zt k else 0 := by
  rw [zCheck_on hs hx hz hm hv]
  dsimp only
  rw [diffs_none (fun i hi => checkRows_col s g z zt hi) hc, diffs_only (fun i hi => checkRows_row s g z zt hi) hr]
  subst hz hx
  exact ⟨_, _, _, if_neg h1, rfl, State.MatStep.updZt_correction hring g z _ 2 k 255, rfl,
    fun i hi => moved_getD _ _ _ k (checkRows_row s g z _ hr.1) hi⟩

end

end

end Sys2Proof.Machine

/-! SUPPORT. Drains (R85, R229 to R231): the elements of a region in their order, the factors, and what CLR leaves. -/

namespace Sys2Proof.Machine

/-! ### The region -/

/-- The index of an element of a region. -/
theorem region_index {m n i j : Nat} (hi : i < m) (hj : j < n) : i * n + j < m * n ∧ (i * n + j) / n = i ∧ (i * n + j) % n = j := by
  refine ⟨?_, ?_, ?_⟩
  · have := Nat.mul_le_mul_right n (Nat.succ_le_of_lt hi)
    rw [Nat.succ_mul] at this
    omega
  · rw [Nat.mul_comm, Nat.mul_add_div (by omega), Nat.div_eq_of_lt hj, Nat.add_zero]
  · rw [Nat.mul_comm, Nat.mul_add_mod, Nat.mod_eq_of_lt hj]

/-- The words of a region of n columns, in order. -/
theorem regionIx_eq (m n : Nat) : regionIx m n = (List.range (m * n)).map (fun q => q / n * 128 + q % n) := by
  induction m with
  | zero =>
    rw [Nat.zero_mul]
    rfl
  | succ m ih =>
    have hsucc : regionIx (m + 1) n = regionIx m n ++ (List.range n).map (fun j => m * 128 + j) := by
      rw [regionIx, List.range_succ, List.flatMap_append, List.flatMap_singleton, regionIx]
    rw [hsucc, ih, Nat.succ_mul, List.range_add, List.map_append, List.map_map]
    refine congrArg (_ ++ ·) (List.map_congr_left fun j hj => ?_)
    obtain ⟨_, hd, hm⟩ := region_index (lt_add_one m) (List.mem_range.mp hj)
    simp only [Function.comp_apply, hd, hm]

/-- Row and column of an element of a region, from its index. -/
theorem region_place {m n q : Nat} (hm : m ≤ 128) (hn : n ≤ 128) (hq : q < m * n) :
    q / n < 128 ∧ q % n < 128 ∧ (q / n * 128 + q % n) / 128 = q / n ∧ (q / n * 128 + q % n) % 128 = q % n := by
  have h0 : 0 < n := Nat.pos_of_ne_zero fun h => by simp [h] at hq
  have h1 : q / n < m := Nat.div_lt_of_lt_mul (by rwa [Nat.mul_comm] at hq)
  have h2 := Nat.mod_lt q h0
  omega

/-! ### The elements, one after another (R86, R229) -/

section
variable (one : Nat → BitVec 32 → Nat × BitVec 5 × BitVec 32) (sd : BitVec 32)

/-- The LFSR before element q. -/
def elemSeed (q : Nat) : BitVec 32 := (List.range q).foldl (fun sd k => (one k sd).2.2) sd

/-- The flags of the first n elements. -/
def elemFlags (n : Nat) : BitVec 5 := (List.range n).foldl (fun fl q => fl ||| (one q (elemSeed one sd q)).2.1) 0

/-- The bytes of element q. -/
def elemBytes (size q : Nat) : List Byte := leBytes size (one q (elemSeed one sd q)).1

theorem elems_fold (size n : Nat) : (List.range n).foldl (fun (a : List (List Byte) × BitVec 5 × BitVec 32) q =>
      (leBytes size (one q a.2.2).1 :: a.1, a.2.1 ||| (one q a.2.2).2.1, (one q a.2.2).2.2)) ([], 0, sd) =
    (((List.range n).map (elemBytes one sd size)).reverse, elemFlags one sd n, elemSeed one sd n) := by
  induction n with
  | zero => rfl
  | succ n ih =>
    rw [List.range_succ, List.foldl_append, ih, List.map_append, List.reverse_append]
    simp only [List.foldl_cons, List.foldl_nil, elemFlags, elemSeed, List.range_succ, List.foldl_append]
    rfl

end

/-! ### The factors (R229) -/

/-- The factor of column j. -/
def drainFactor (m : Memory) (g : Nat) (e : Eng) (r2 : Word) (j : Nat) : Nat :=
  if e.f7.getLsbD 1 then ofBytes (m.getN (localKey g r2.toNat + 4 * j) 4) else r2.toNat % 2 ^ 32

/-- The factors stand in the scratchpad where they are read from it. -/
def Tile.factorsStand (t : Tile) (e : Eng) (r2 : Word) : Prop :=
  e.f7.getLsbD 1 = true → r2.toNat % 4 = 0 ∧ r2.toNat + 4 * t.mxe.dims.2.1 ≤ t.spBytes

section
variable {s : State} {g : Nat} {e : Eng} {r2 : Word} (hs : s.clean) (hf : (s.tile g).factorsStand e r2)
include hs hf

theorem mdrainFactors_eq : mdrainFactors s g e r2 =
    (let fs := (List.range (s.tile g).mxe.dims.2.1).map (drainFactor s.mem g e r2)
    if fs.all (fun f => (fpVal 24 f).isFin) then .ok (fs, s) else .error (mxFault 22 7, s)) := by
  unfold mdrainFactors
  dsimp only
  cases hb : e.f7.getLsbD 1 with
  | false =>
    have hl : List.replicate (s.tile g).mxe.dims.2.1 (fld r2 31 0) =
        (List.range (s.tile g).mxe.dims.2.1).map (drainFactor s.mem g e r2) := by
      have hc : drainFactor s.mem g e r2 = fun _ => fld r2 31 0 := funext fun j => by
        rw [drainFactor, if_neg (by rw [hb]; exact Bool.false_ne_true)]
        simp [fld, bitsN]
      rw [hc, List.map_const', List.length_range]
    rw [if_neg Bool.false_ne_true, hl]
  | true =>
    obtain ⟨h4, hsp⟩ := hf hb
    have hpad : (s.tile g).spad r2 (4 * (s.tile g).mxe.dims.2.1) 4 false = none := by
      rw [Tile.spad, if_neg (not_not.mpr h4), if_neg (Nat.not_lt.mpr hsp)]
      rfl
    have hl : (List.range (s.tile g).mxe.dims.2.1).map
        (fun j => leAt (s.mem.getN (localKey g r2.toNat) (4 * (s.tile g).mxe.dims.2.1)) (4 * j) 4) =
        (List.range (s.tile g).mxe.dims.2.1).map (drainFactor s.mem g e r2) := List.map_congr_left fun j hj => by
      have := List.mem_range.mp hj
      rw [leAt_getN _ _ (by omega), drainFactor, if_pos hb]
    rw [if_pos rfl, hpad, State.spRead_clean hs]
    dsimp only [Except.bind]
    rw [hl]

theorem mdrainFactors_finite (hfin : ∀ j, j < (s.tile g).mxe.dims.2.1 → (fpVal 24 (drainFactor s.mem g e r2 j)).isFin = true) :
    mdrainFactors s g e r2 = .ok ((List.range (s.tile g).mxe.dims.2.1).map (drainFactor s.mem g e r2), s) := by
  rw [mdrainFactors_eq hs hf]
  refine if_pos (List.all_eq_true.mpr fun v hv => ?_)
  obtain ⟨j, hj, rfl⟩ := List.mem_map.mp hv
  exact hfin j (List.mem_range.mp hj)

theorem mdrainFactors_infinite (hfin : ∃ j, j < (s.tile g).mxe.dims.2.1 ∧ (fpVal 24 (drainFactor s.mem g e r2 j)).isFin = false) :
    mdrainFactors s g e r2 = .error (mxFault 22 7, s) := by
  rw [mdrainFactors_eq hs hf]
  refine if_neg fun hall => ?_
  obtain ⟨j, hj, hinf⟩ := hfin
  have := List.all_eq_true.mp hall _ (List.mem_map_of_mem (List.mem_range.mpr hj))
  exact Bool.false_ne_true (hinf.symm.trans this)

end

/-! ### The end (R229 to R231) -/

/-- Memory after a drain: its output, and z tile z zeroed under CLR. -/
def drained (m : Memory) (g off z : Nat) (clr : Bool) (out : List Byte) : Memory :=
  if clr then (m.setN (localKey g off) out).clear (zPlace g z 0 0) 0x28000 else m.setN (localKey g off) out

/-- The engine after a drain. -/
def Mxe.drained (x : Mxe) (z : Nat) (clr : Bool) (anc : BitVec 16) : Mxe :=
  if clr then x.setZt z { ZTile.reset with zanc := anc } else x

theorem Memory.getN_clear_away (m : Memory) {k n a w : Nat} (h : a + w ≤ k) : (m.clear k n).getN a w = m.getN a w := by
  induction w generalizing a with
  | zero => rfl
  | succ w ih => rw [Memory.getN, Memory.getN, ih (by omega), Memory.get_clear, if_neg (by omega)]

theorem zPlace_row (g z i : Nat) : zPlace g z i 0 = zPlace g z 0 0 + i * 1280 := by
  simp only [zPlace]
  omega

section
variable {b : Nat → List Byte} {w : Nat} (hb : ∀ q, (b q).length = w) {m : Memory} (wf : m.wf = true) (g : Nat) {off n : Nat} (z : Nat)
  (clr : Bool)
include hb wf

theorem drained_piece (h6 : off + w * n ≤ 0x600000) {q : Nat} (hq : q < n) :
    (drained m g off z clr (joined b n)).getN (tileBase g + off + w * q) w = b q := by
  have hset := Memory.getN_setN_joined hb wf (localKey g off) hq
  have hle : w * q + w ≤ w * n := by
    have := Nat.mul_le_mul_left w (Nat.succ_le_of_lt hq)
    rwa [Nat.mul_succ] at this
  rw [drained]
  cases clr with
  | false => exact (congrArg (fun m => Memory.getN m _ _) (if_neg Bool.false_ne_true)).trans hset
  | true =>
    rw [if_pos rfl, Memory.getN_clear_away _ (by rw [zPlace]; omega)]
    exact hset

theorem drained_rest {q : Nat} (hq : q < tileBase g + off ∨ tileBase g + off + w * n ≤ q) :
    (drained m g off z clr (joined b n)).get q = if clr = true ∧ zPlace g z 0 0 ≤ q ∧ q < zPlace g z 128 0 then 0 else m.get q := by
  have hset : (m.setN (localKey g off) (joined b n)).get q = m.get q := Memory.get_setN_joined_other hb wf hq
  rw [drained]
  cases clr with
  | false => exact (congrArg (fun m => Memory.get m _) (if_neg Bool.false_ne_true)).trans (hset.trans (if_neg (by simp)).symm)
  | true =>
    rw [if_pos rfl, Memory.get_clear, hset, zPlace_row g z 128]
    simp only [true_and]

end

theorem State.MatStep.zeroTile (s : State) (g z : Nat) (anc : Int) : s.MatStep (s.zeroTile g z anc) g (s.mem.clear (zPlace g z 0 0) 0x28000)
    ((s.tile g).mxe.setZt z { ZTile.reset with zanc := BitVec.ofInt 16 anc }) (s.tile g).seed := by
  rw [← localKey_zOff]
  exact ⟨rfl, _, _, _, State.tile_updTile_same _ _ _⟩

theorem drainEnd_done {s : State} (hs : s.clean) (g : Nat) (e : Eng) (off : Nat) (out : List Byte) (sd : BitVec 32) (fl : BitVec 5) (anc : Int)
    (v : Word) : ∃ s' : State, drainEnd s g e off out sd fl anc v = .done s' fl (xrPush e v) ∧
      s.MatStep s' g (drained s.mem g off e.zn e.clr out) ((s.tile g).mxe.drained e.zn e.clr (BitVec.ofInt 16 anc)) sd := by
  unfold drainEnd drained Mxe.drained
  rw [State.localWrite_clean hs]
  dsimp only
  generalize hu : State.updTile _ g _ = u
  have hstep : s.MatStep u g (s.mem.setN (localKey g off) out) (s.tile g).mxe sd := by
    subst hu
    exact ⟨rfl, _, _, _, State.tile_updTile_same _ _ _⟩
  cases e.clr with
  | false => exact ⟨u, rfl, hstep⟩
  | true =>
    obtain ⟨_, _, _, ht⟩ := hstep.tile
    have hz := State.MatStep.zeroTile u g e.zn anc
    rw [hstep.mem, ht] at hz
    exact ⟨_, rfl, hstep.trans hz⟩

/-! ### The two drains with the checksums off -/

/-- Element q of a scaled drain of n columns (R229). -/
def drainElem (e : Eng) (x : Mxe) (mem : Memory) (g n : Nat) (factor : Nat → Nat) (q : Nat) (sd : BitVec 32) : Nat × BitVec 5 × BitVec 32 :=
  drainOne (e.ext.toNat / 4 % 4) (e.ext.toNat / 16 % 32) (e.ext.toNat % 4) (x.bitmap.getLsbD (q % n)) (zWord mem g e.zn (q / n) (q % n))
    (x.zt e.zn).zanc.toInt (factor (q % n)) sd

/-- Bytes of word q of an unscaled drain of n columns (R230). -/
def drainxElem (x : Mxe) (mem : Memory) (g z n q : Nat) : List Byte :=
  if x.bitmap.getLsbD (q % n) then leBytes 16 (BitVec.ofInt 80 (zWord mem g z (q / n) (q % n))).toNat
  else leBytes 16 (BitVec.ofInt 128 (zWord mem g z (q / n) (q % n))).toNat

theorem length_drainxElem (x : Mxe) (mem : Memory) (g z n q : Nat) : (drainxElem x mem g z n q).length = 16 := by
  rw [drainxElem]
  split <;> exact length_leBytes _ _

theorem drainxElem_at {n j : Nat} (hj : j < n) (x : Mxe) (mem : Memory) (g z i : Nat) : drainxElem x mem g z n (i * n + j) =
    leBytes 16 (if x.bitmap.getLsbD j then (BitVec.ofInt 80 (zWord mem g z i j)).toNat else (BitVec.ofInt 128 (zWord mem g z i j)).toNat) := by
  obtain ⟨_, hd, hm⟩ := region_index (lt_add_one i) hj
  rw [drainxElem, hd, hm]
  split <;> rfl

theorem drainFields (e : Eng) : e.w1 15 14 = e.ext.toNat / 4 % 4 ∧ e.w1 20 16 = e.ext.toNat / 16 % 32 ∧ e.w1 13 12 = e.ext.toNat % 4 := by
  simp [Eng.w1, fld, bitsN]

section
variable {s : State} {g : Nat} {e : Eng} {r0 r2 : Word} {anc : Int} {x : Mxe} {m n kb : Nat} (hs : s.clean) (hx : x = (s.tile g).mxe)
  (hd : x.dims = (m, n, kb)) (h0 : x.csMode = 0) (hm : m ≤ 128) (hn : n ≤ 128) (hn0 : 0 < n)
include hs hx hd h0

theorem mdrainRun_infinite (hf : (s.tile g).factorsStand e r2)
    (hfin : ∃ j, j < n ∧ (fpVal 24 (drainFactor s.mem g e r2 j)).isFin = false) (hc : e.clr = false) :
    mdrainRun s g e r0 r2 anc = .fault (mxFault 22 7) s := by
  subst hx
  unfold mdrainRun
  rw [mdrainFactors_infinite hs hf (by rw [hd]; exact hfin), hc]
  rfl

include hm hn hn0

theorem mdrainRun_finite (hf : (s.tile g).factorsStand e r2) (hfin : ∀ j, j < n → (fpVal 24 (drainFactor s.mem g e r2 j)).isFin = true)
    {one : Nat → BitVec 32 → Nat × BitVec 5 × BitVec 32} (ho : one = drainElem e x s.mem g n (drainFactor s.mem g e r2)) :
    mdrainRun s g e r0 r2 anc = drainEnd s g e r0.toNat
      (joined (elemBytes one (s.tile g).seed (drainSize (e.ext.toNat / 4 % 4))) (m * n)) (elemSeed one (s.tile g).seed (m * n))
      (elemFlags one (s.tile g).seed (m * n)) anc (statusWord 3 0 0 0) := by
  obtain ⟨w1, w2, w3⟩ := drainFields e
  subst hx
  have hfold : (regionIx m n).foldl (fun (a : List (List Byte) × BitVec 5 × BitVec 32) ix =>
      let o := drainOne (e.ext.toNat / 4 % 4) (e.ext.toNat / 16 % 32) (e.ext.toNat % 4) ((s.tile g).mxe.bitmap.getLsbD (ix % 128))
        (wordOf (checkRows s.mem g e.zn) (ix / 128) (ix % 128)) ((s.tile g).mxe.zt e.zn).zanc.toInt
        (((List.range n).map (drainFactor s.mem g e r2)).getD (ix % 128) 0) a.2.2
      (leBytes (drainSize (e.ext.toNat / 4 % 4)) o.1 :: a.1, a.2.1 ||| o.2.1, o.2.2)) ([], 0, (s.tile g).seed) =
      (((List.range (m * n)).map (elemBytes one (s.tile g).seed (drainSize (e.ext.toNat / 4 % 4)))).reverse,
        elemFlags one (s.tile g).seed (m * n), elemSeed one (s.tile g).seed (m * n)) := by
    rw [← elems_fold, regionIx_eq, List.foldl_map]
    refine List.foldl_ext _ _ _ fun a q hq => ?_
    obtain ⟨p1, p2, p3, p4⟩ := region_place hm hn (List.mem_range.mp hq)
    dsimp only
    rw [p3, p4, checkRows, zTileRows_wordOf _ _ _ p1 p2, getD_map_range _ _ (Nat.mod_lt q hn0), ho, drainElem]
  unfold mdrainRun
  rw [mdrainFactors_finite hs hf (by rw [hd]; exact hfin)]
  dsimp only
  rw [zCheck_off hs (.inl h0)]
  dsimp only
  rw [hd]
  dsimp only
  rw [w1, w2, w3]
  have hfold' := congrArg (fun o : List (List Byte) × BitVec 5 × BitVec 32 =>
    drainEnd s g e r0.toNat o.1.reverse.flatten o.2.2 o.2.1 anc (statusWord 3 0 0 0)) hfold
  dsimp only at hfold'
  rw [List.reverse_reverse] at hfold'
  exact hfold'

omit hn0 in
theorem mdrainxRun_eq : mdrainxRun s g e r0 anc =
    drainEnd s g e r0.toNat (joined (drainxElem x s.mem g e.zn n) (m * n)) (s.tile g).seed 0 anc (statusWord 3 0 0 0) := by
  subst hx
  have hout : (regionIx m n).flatMap (fun ix => if (s.tile g).mxe.bitmap.getLsbD (ix % 128) then
      leBytes 16 (wrapN 80 (wordOf (checkRows s.mem g e.zn) (ix / 128) (ix % 128))) else
      slotBytes (wordOf (checkRows s.mem g e.zn) (ix / 128) (ix % 128))) = joined (drainxElem (s.tile g).mxe s.mem g e.zn n) (m * n) := by
    rw [regionIx_eq, List.flatMap_map, joined]
    refine List.flatMap_congr fun q hq => ?_
    obtain ⟨p1, p2, p3, p4⟩ := region_place hm hn (List.mem_range.mp hq)
    rw [p3, p4, checkRows, zTileRows_wordOf _ _ _ p1 p2, drainxElem, slotBytes, wrapN_eq, wrapN_eq]
  unfold mdrainxRun
  rw [zCheck_off hs (.inl h0)]
  dsimp only
  rw [hd]
  dsimp only
  rw [hout]

end

end Sys2Proof.Machine

/-! SUPPORT. The commands MDRAIN and MDRAINX (R229, R230), MSTAT (R234) and SMVW (R239). -/

namespace Sys2Proof.Machine

/-! ### Drains -/

theorem MatrixInstr.mdrain (e : Eng) : MatrixInstr (.mdrain e) := ⟨rfl, rfl, fun _ => Instr.noConfusion⟩
theorem MatrixInstr.mdrainx (e : Eng) : MatrixInstr (.mdrainx e) := ⟨rfl, rfl, fun _ => Instr.noConfusion⟩

/-- The pieces b 0 to b (n - 1), of w bytes each, stand in u at off of tile g; the other bytes are as in s, but z tile z is zero under
CLR. -/
structure State.DrainedTo (s u : State) (g off z : Nat) (clr : Bool) (b : Nat → List Byte) (w n : Nat) : Prop where
  piece : ∀ q, q < n → u.mem.getN (tileBase g + off + w * q) w = b q
  rest : ∀ q, q < tileBase g + off ∨ tileBase g + off + w * n ≤ q →
    u.mem.get q = if clr = true ∧ zPlace g z 0 0 ≤ q ∧ q < zPlace g z 128 0 then 0 else s.mem.get q

section
variable {s : State} {g : Nat} {en : QEntry} {e : Eng} {i : Instr} (h : s.MatHead g en) (wf : s.mem.wf = true) (hi : en.instr = some i)
  (hm : MatrixInstr i)
include h wf hi hm

/-- A drain whose output stands below the z tiles completes. -/
theorem State.MatHead.drain_done {b : Nat → List Byte} {w n : Nat} (hb : ∀ q, (b q).length = w) (h6 : en.r0.toNat + w * n ≤ 0x600000)
    {sd : BitVec 32} {fl : BitVec 5} {v : Word}
    (hu : s.unitRun g en i = drainEnd s g e en.r0.toNat (joined b n) sd fl en.anc v) :
    s.CompletesAs g en fl (if e.f7.getLsbD 0 then (s.tile g).xret ++ [v] else (s.tile g).xret) (fun u =>
      s.DrainedTo u g en.r0.toNat e.zn e.clr b w n ∧
      (u.tile g).mxe = (s.tile g).mxe.drained e.zn e.clr ((en.cap.headD 0).truncate 16) ∧ (u.tile g).seed = sd) := by
  obtain ⟨s', hd, hstep⟩ := drainEnd_done h.clean g e en.r0.toNat (joined b n) sd fl en.anc v
  rw [en.anc_eq, BitVec.ofInt_toInt] at hstep
  rw [← xrPush_append]
  refine h.completes hi hm (hu.trans hd) hstep fun u um ux us => ⟨⟨fun q hq => ?_, fun q hq => ?_⟩, ux, us⟩
  · rw [um, drained_piece hb wf g e.zn e.clr h6 hq]
  · rw [um, drained_rest hb wf g e.zn e.clr hq]

end

/-! ### MSTAT -/

theorem MatrixInstr.mstat (e : Eng) : MatrixInstr (.mstat e) := ⟨rfl, rfl, fun _ => Instr.noConfusion⟩

theorem b2n_le (b : Bool) : b2n b ≤ 1 := by cases b <;> decide

theorem decide_b2n (b : Bool) : decide (b2n b = 1) = b := by cases b <;> rfl

/-- Bits of a word built from a number. -/
theorem ofNat_extract (v a w : Nat) (h : a + w ≤ 64) : ((BitVec.ofNat 64 v).extractLsb' a w).toNat = v / 2 ^ a % 2 ^ w := by
  rw [BitVec.extractLsb'_toNat, BitVec.toNat_ofNat, Nat.shiftRight_eq_div_pow]
  obtain ⟨d, hd⟩ := Nat.exists_eq_add_of_le h
  rw [hd, Nat.pow_add, Nat.pow_add, Nat.mul_assoc, Nat.mod_mul_right_div_self, Nat.mod_mul_right_mod]

theorem ofNat_bit {v k : Nat} {b : Bool} (hk : k < 64) (h : v / 2 ^ k % 2 = b2n b) : (BitVec.ofNat 64 v).getLsbD k = b := by
  rw [BitVec.getLsbD_ofNat, Nat.testBit_eq_decide_div_mod_eq, h, decide_b2n, decide_eq_true hk, Bool.true_and]

section
variable {x : Mxe} {e : Eng}

theorem mstat_selector (e : Eng) : fld e.f7 2 0 = e.f7.toNat % 8 := by simp [fld, bitsN]

theorem mstatWord_shape (h : e.f7.toNat % 8 = 0) : mstatWord x e = x.shape := by
  simp only [mstatWord, mstat_selector, h]

/-- The modes in force (Table 6.10). -/
theorem mstatWord_modes (h : e.f7.toNat % 8 = 1) (hm : x.csMode < 4) :
    (mstatWord x e).extractLsb' 0 2 = BitVec.ofNat 2 x.csMode ∧ (mstatWord x e).getLsbD 2 = x.coding.getLsbD 0 ∧
    (mstatWord x e).extractLsb' 4 11 = x.coding.extractLsb' 4 11 ∧ (mstatWord x e).extractLsb' 16 4 = x.coding.extractLsb' 16 4 ∧
    (mstatWord x e).getLsbD 20 = decide (x.bitmap ≠ 0) := by
  have hc := b2n_le x.coded
  have hb := b2n_le (decide (x.bitmap ≠ 0))
  simp only [mstatWord, mstat_selector, h]
  simp only [fld, bitsN, Nat.reduceAdd, Nat.reduceSub, Nat.reducePow]
  refine ⟨BitVec.eq_of_toNat_eq ?_, ofNat_bit (by decide) (b := x.coded) ?_, BitVec.eq_of_toNat_eq ?_, BitVec.eq_of_toNat_eq ?_,
    ofNat_bit (by decide) ?_⟩
  · rw [ofNat_extract _ _ _ (by decide), BitVec.toNat_ofNat]
    omega
  · omega
  · rw [ofNat_extract _ _ _ (by decide), BitVec.extractLsb'_toNat, Nat.shiftRight_eq_div_pow]
    omega
  · rw [ofNat_extract _ _ _ (by decide), BitVec.extractLsb'_toNat, Nat.shiftRight_eq_div_pow]
    omega
  · omega

/-- The states of the four tickets, two bits each. -/
theorem ticketBits (x : Mxe) : (List.finRange 4).foldl (fun (a : Nat) k => a + (x.tickets[k]).st * 4 ^ k.val) 0 =
    (x.tickets[(0 : Fin 4)]).st + (x.tickets[(1 : Fin 4)]).st * 4 +
      (x.tickets[(2 : Fin 4)]).st * 16 + (x.tickets[(3 : Fin 4)]).st * 64 := by
  have hl : List.finRange 4 = [0, 1, 2, 3] := by decide
  rw [hl]
  simp only [List.foldl_cons, List.foldl_nil]
  norm_num

/-- The state of a z tile, of the slots and of the tickets (Table 6.10). -/
theorem mstatWord_tile {zt : ZTile} (hz : zt = x.zt e.zn) (h : e.f7.toNat % 8 = 2) (hw : zt.wm ≤ 128)
    (ht : ∀ k : Fin 4, (x.tickets[k]).st < 4) :
    (mstatWord x e).extractLsb' 0 16 = zt.zanc ∧ (mstatWord x e).getLsbD 16 = zt.cvalid ∧
    ((mstatWord x e).extractLsb' 24 8).toNat = zt.wm ∧ (mstatWord x e).getLsbD 32 = x.a0.full ∧ (mstatWord x e).getLsbD 33 = x.a1.full ∧
    (mstatWord x e).getLsbD 34 = x.b0.full ∧ (mstatWord x e).getLsbD 35 = x.b1.full ∧
    ∀ k : Fin 4, ((mstatWord x e).extractLsb' (36 + 2 * k.val) 2).toNat = (x.tickets[k]).st := by
  have hanc := zt.zanc.isLt
  have hv := b2n_le zt.cvalid
  have ha0 := b2n_le x.a0.full
  have ha1 := b2n_le x.a1.full
  have hb0 := b2n_le x.b0.full
  have hb1 := b2n_le x.b1.full
  have t0 := ht 0
  have t1 := ht 1
  have t2 := ht 2
  have t3 := ht 3
  simp only [mstatWord, mstat_selector, h]
  rw [ticketBits, ← hz]
  refine ⟨BitVec.eq_of_toNat_eq ?_, ofNat_bit (by decide) ?_, ?_, ofNat_bit (by decide) ?_, ofNat_bit (by decide) ?_,
    ofNat_bit (by decide) ?_, ofNat_bit (by decide) ?_, fun k => ?_⟩
  · rw [ofNat_extract _ _ _ (by decide)]
    omega
  · omega
  · rw [ofNat_extract _ _ _ (by decide)]
    omega
  · omega
  · omega
  · omega
  · omega
  · rw [ofNat_extract _ _ _ (by omega)]
    match k with
    | 0 =>
      show _ / 2 ^ 36 % 4 = _
      omega
    | 1 =>
      show _ / 2 ^ 38 % 4 = _
      omega
    | 2 =>
      show _ / 2 ^ 40 % 4 = _
      omega
    | 3 =>
      show _ / 2 ^ 42 % 4 = _
      omega

theorem mstatWord_counts (h : e.f7.toNat % 8 = 3) : mstatWord x e = x.csflt ++ x.cscor := by
  have hs := x.cscor.isLt
  have hf := x.csflt.isLt
  simp only [mstatWord, mstat_selector, h]
  apply BitVec.eq_of_toNat_eq
  rw [BitVec.toNat_append, ← Nat.shiftLeft_add_eq_or_of_lt hs, Nat.shiftLeft_eq, BitVec.toNat_ofNat]
  omega

end

theorem State.MatHead.mstat {s : State} {g : Nat} {en : QEntry} {e : Eng} (h : s.MatHead g en) (hi : en.instr = some (.mstat e)) :
    s.CompletesAs g en 0 ((s.tile g).xret ++ [mstatWord (s.tile g).mxe e]) (fun u => u.mem = s.mem ∧ (u.tile g).mxe = (s.tile g).mxe) :=
  h.completes hi (.mstat e) (push := some (mstatWord (s.tile g).mxe e)) rfl (State.MatStep.refl s g) fun _ um ux _ => ⟨um, ux⟩

/-! ### SMVW -/

theorem MatrixInstr.smvw (e : Eng) : MatrixInstr (.smvw e) := ⟨rfl, rfl, fun _ => Instr.noConfusion⟩

theorem length_slotBytes (v : Int) : (slotBytes v).length = 16 := length_leBytes _ _

/-- The result words of a ticket, in 16 bytes each. -/
theorem flatMap_slotBytes (l : List Int) : l.flatMap slotBytes = joined (fun i => slotBytes (l.getD i 0)) l.length := by
  have hl : l = (List.range l.length).map (fun i => l.getD i 0) := by
    refine List.ext_getElem (by simp) fun i h1 h2 => ?_
    rw [List.getElem_map, List.getElem_range, List.getD_eq_getElem?_getD, List.getElem?_eq_getElem h1, Option.getD_some]
  conv_lhs => rw [hl]
  rw [List.flatMap_map, joined]

section
variable {s : State} {g : Nat} {en : QEntry} {e : Eng} {tk : Ticket} (h : s.MatHead g en) (hi : en.instr = some (.smvw e))
  (ht : tk = (s.tile g).mxe.tk e.ticket)
include h hi ht

theorem State.MatHead.smvw_idle (h0 : tk.st = 0) :
    Machine.exec (.engineCommandCompletion g .x en.isn) s = .next (s.engineFault g .x en (mxFault 22 8)) := by
  subst ht
  exact h.fault hi (.smvw e) (if_pos h0)

theorem State.MatHead.smvw_busy (h1 : tk.st = 1) : ∃ u : State, Machine.exec (.engineCommandCompletion g .x en.isn) s = .next u ∧
    u.mem = s.mem ∧ (u.tile g).mxe = (s.tile g).mxe ∧ (u.tile g).xq.ents = [{ en with held := false }] := by
  subst ht
  exact h.hold hi (.smvw e) ((if_neg (by omega)).trans (if_pos h1))

variable (h2 : 1 < tk.st)
include h2

omit h hi in
/-- A ticket that is done gives its fault or its words. -/
theorem State.smvw_run : s.unitRun g en (.smvw e) = (match tk.err with
    | some (c, sub, info) => .fault (TrapI.mk3 c sub info) (s.updMxe g (fun x => x.setTk e.ticket Ticket.idle))
    | none =>
      if (s.tile g).inQueues tk.yoff (16 * tk.n) then .fault (TrapI.mk3 12 0 (BitVec.ofNat 64 tk.yoff)) s
      else match s.localWrite g tk.yoff (tk.res.flatMap slotBytes) with
        | .error f => .fault f s
        | .ok s => .done (s.updMxe g (fun x => x.setTk e.ticket Ticket.idle)) 0 none) := by
  subst ht
  exact (if_neg (by omega)).trans (if_neg (by omega))

theorem State.MatHead.smvw_error {c sub : Nat} {info : Word} (he : tk.err = some (c, sub, info)) :
    ∃ v : State, Machine.exec (.engineCommandCompletion g .x en.isn) s = .next (v.engineFault g .x en (TrapI.mk3 c sub info)) ∧
      v.mem = s.mem ∧ (v.tile g).mxe = (s.tile g).mxe.setTk e.ticket Ticket.idle := by
  have hu := State.smvw_run (en := en) ht h2
  rw [he] at hu
  have hstep := State.MatStep.updMxe s g (fun x => x.setTk e.ticket Ticket.idle)
  obtain ⟨_, _, _, hx⟩ := hstep.tile
  exact ⟨_, h.fault hi (.smvw e) hu, rfl, by rw [hx]⟩

theorem State.MatHead.smvw_writes (wf : s.mem.wf = true) (he : tk.err = none) (hl : tk.res.length = tk.n)
    (hq : (s.tile g).inQueues tk.yoff (16 * tk.n) = false) : s.CompletesAs g en 0 (s.tile g).xret (fun u =>
      (∀ i, i < tk.n → u.mem.getN (tileBase g + tk.yoff + 16 * i) 16 = leBytes 16 (BitVec.ofInt 128 (tk.res.getD i 0)).toNat) ∧
      (∀ q, q < tileBase g + tk.yoff ∨ tileBase g + tk.yoff + 16 * tk.n ≤ q → u.mem.get q = s.mem.get q) ∧
      (u.tile g).mxe = (s.tile g).mxe.setTk e.ticket Ticket.idle) := by
  have hb (i : Nat) := length_slotBytes (tk.res.getD i 0)
  have hu := State.smvw_run (en := en) ht h2
  rw [he, hq, State.localWrite_clean h.clean, flatMap_slotBytes, hl] at hu
  have hw := State.MatStep.setMem s g (s.mem.setN (localKey g tk.yoff) (joined (fun i => slotBytes (tk.res.getD i 0)) tk.n))
  obtain ⟨_, _, _, hx⟩ := hw.tile
  have hidle := State.MatStep.updMxe { s with mem := s.mem.setN (localKey g tk.yoff) (joined (fun i => slotBytes (tk.res.getD i 0)) tk.n) } g
    (fun x => x.setTk e.ticket Ticket.idle)
  refine h.completes_silent hi (.smvw e) hu (hw.trans hidle) fun u um ux _ => ⟨fun i hi' => ?_, fun q hq' => ?_, ux⟩
  · rw [um]
    exact (Memory.getN_setN_joined hb wf _ hi').trans (by rw [slotBytes, wrapN_eq])
  · rw [um]
    exact Memory.get_setN_joined_other hb wf hq'

end

end Sys2Proof.Machine

/-! SUPPORT. The matrix instructions as a whole (R218 to R239). -/

namespace Sys2Proof.Machine

/-- Settles O58: each clause is one of the lemmas above about its command, at the head of XQ and alone there. -/
theorem matrixResults : Obligations.MatrixResults := by
  unfold Obligations.MatrixResults
  intro s g en e
  rw [← Eng.zn_eq e]
  intro t hents hst hsub hmade _ hruns hsegs hisn hseqw hpal hpar hxret hseed hclean hring wf x sp m n kb z zt place word fits outcome
    faults completes status verdict
  have h : s.MatHead g en := ⟨hents, hst, hsub, hmade, hruns, hsegs, hisn, hseqw, hpal, hpar, hxret, hseed, hclean⟩
  refine ⟨?loads, ?products, ?mchk, ?drains, ?mstat, ?smvw⟩
  case loads =>
    intro isB hi cnt fmt spn kn c w nb bb ib groups sb scale field index chk hgc
    obtain ⟨hcnt, hkb, hfmt, hspn⟩ := LoadForm.form_numbers x isB
    generalize hf : x.form isB = f at hcnt hkb hfmt hspn
    have hnb : nb = f.blocks := by
      rw [LoadForm.blocks, hcnt, hkb]
    have hbb : bb = f.bytes := by
      rw [f.bytes_eq, hspn, hfmt]
    have hgroups : groups = f.groups := by
      rw [LoadForm.groups, ← hnb]
      rfl
    have hkept : f.spn ≠ 0 → f.kept = kn := fun hn => (LoadForm.kept_eq hn).trans (congrArg _ hspn)
    have hib : f.spn ≠ 0 → f.ixBytes = ib := fun hn => by
      rw [LoadForm.ixBytes_eq hn, hspn]
    have hindex : f.spn ≠ 0 → f.index s.mem (localKey g en.r2.toNat) = index := fun hn => by
      funext b i
      rw [LoadForm.index, hib hn]
      rfl
    have hfield : field = f.field s.mem (localKey g en.r0.toNat) := by
      funext b i
      rw [LoadForm.field, ← hbb, hfmt]
      rfl
    have hspn' : spn = f.spn := hspn.symm
    clear_value index field groups nb bb ib spn
    subst hnb hbb hgroups hfield hspn'
    refine ⟨h.load_misaligned hi hf.symm hgc, fun h0 h1 hm hsc hx => ?_⟩
    have hx' : f.spn ≠ 0 → en.r2.toNat % 4 = 0 ∧ en.r2.toNat + f.blocks * f.ixBytes ≤ t.spBytes := fun hn => by
      rw [hib hn]
      exact hx hn
    refine ⟨fun q => h.load_badChk hi hf.symm hgc h0 h1 hm hsc hx', fun hc b => h.load_badScale hi hf.symm hgc h0 h1 hm hsc hx' hc,
      fun hc hv hr => ?_⟩
    have hrise : f.Rising s.mem (localKey g en.r2.toNat) := fun hn => by
      rw [hindex hn, hkept hn]
      exact hr hn
    refine h.completes_silent hi (s.unitRun_load g en e isB).2 (h.load_fills hf.symm hgc h0 h1 hm hsc hx' hc hv hrise)
      (State.MatStep.updMxe s g _) fun u um ux _ => ⟨um, _, ux, rfl, hcnt, hkb, hfmt, rfl, ?_, fun b hb =>
        ⟨LoadForm.loaded_scale hb, fun hs i => LoadForm.loaded_dense hs hb, fun hn => ?_⟩⟩
    · exact LoadForm.length_loaded
    · have hk := LoadForm.loaded_sparse (km := localKey g en.r0.toNat) (ks := localKey g en.r1.toNat) hn hrise hb
      rw [hindex hn, hkept hn] at hk
      exact hk
  case products =>
    intro f hi hn a b acc anc old left za zb term upTo priv fp new good change frame only
    have hanc : en.anc = anc := en.anc_eq
    refine ⟨fun hcap => ?_, fun i hcap hia ha h0 hb hbeat => ⟨fun hg => ?_, fun k hk hbad hg => ?_⟩, fun hcap hend => ?_⟩
    · by_cases hk : x.csMode = 0 ∨ zt.Holds x e
      · obtain ⟨u, h1, h2, h3, h4⟩ := h.product_seeds hi hn hcap (prodSeed_kept rfl rfl hk)
        exact ⟨u, _, h1, h2, h3, rfl, h4, fun _ => ⟨rfl, rfl⟩, fun h0 hh => absurd hk (not_or.mpr ⟨h0, hh⟩)⟩
      · obtain ⟨h0, hh⟩ := not_or.mp hk
        obtain ⟨zt', hp, hz, hcr, hcc⟩ := prodSeed_sums rfl rfl hclean h0 hh
        obtain ⟨u, h1, h2, h3, h4⟩ := h.product_seeds hi hn hcap hp
        exact ⟨u, zt', h1, h2, h3, hz, h4, fun hk' => absurd hk' hk, fun _ _ => ⟨hcr, hcc⟩⟩
    · obtain ⟨u, fl, h1, h2, h3, h4, h5⟩ := h.product_row_good hi hn hcap rfl rfl rfl hia h0 hb hbeat rfl (by rw [hanc]; exact hg)
      rw [hanc] at h2 h3
      refine ⟨u, _, h1, h3, fun j hj => ?_, fun q hq => ?_, ⟨fl, h4, h5⟩, rfl, fun hv => ?_, fun hv => ?_⟩
      · rw [h2]
        exact rowMem_word wf g e.zn i _ hj
      · rw [h2]
        exact rowMem_other wf g e.zn i _ hq
      · exact ZTile.rowDone_void hv i _
      · exact ZTile.rowDone_sums hv x a b f anc (oldWord e.acc s.mem g e.zn i) i hb
    · obtain ⟨v, h1, h2, h3⟩ := h.product_row_overflow hi hn hcap rfl rfl rfl hia h0 hb hbeat rfl hk
        (by rw [hanc]; exact hg) (by rw [hanc]; exact hbad)
      rw [hanc] at h2
      refine ⟨v, h1, fun j hj => ?_, fun q hq => ?_, h3⟩
      · rw [h2]
        exact rowMem_word wf g e.zn i _ hj
      · rw [h2]
        exact rowMem_other wf g e.zn i _ hq
    · obtain ⟨i, hi', hm, hu⟩ := State.product_ends hi hn hcap hend
      rw [hanc] at hu
      exact h.completes_silent hi' hm hu (State.MatStep.updZt s g e.zn _) fun u um ux _ => ⟨um, ux⟩
  case mchk =>
    intro hi bm off off' only1 none' two bad
    refine ⟨fun hoff => ?_, fun hmode hv => ⟨fun hc hr => ?_, fun i j hc hr => ⟨fun hd => ?_, fun hd h1 => ?_, fun hd h1 => ?_⟩,
      fun j hc hr => ⟨fun h1 => ?_, fun h1 => ?_⟩, fun i hr hc => ⟨fun h1 => ?_, fun h1 => ?_⟩, fun h2 => ?_⟩⟩
    · exact h.mchk_done hi (zCheck_off hclean hoff) statusWord_none (State.MatStep.refl s g) fun u um ux _ => ⟨um, ux⟩
    · exact h.mchk_done hi (zCheck_pass hclean rfl rfl hmode hv hc hr) rfl (State.MatStep.refl s g) fun u um ux _ => ⟨um, ux⟩
    · exact h.mchk_fault hi (zCheck_differ hclean rfl rfl hmode hv hc hr hd)
    · exact h.mchk_fault hi (zCheck_word_detect hclean rfl rfl hmode hv hc hr hd h1)
    · obtain ⟨o, u, hz, hst, hstep⟩ := zCheck_word hclean rfl rfl hmode hv hc hr hring hd h1
      refine h.mchk_done hi hz (hst.trans (statusWord_eq _ _ _ _)) hstep fun u um ux _ => ⟨ux, ?_, fun q hq => ?_⟩
      · rw [um]
        exact Memory.getN_setN_word wf _ _
      · rw [um]
        exact Memory.get_setN_other _ _ _ _ wf (by rwa [length_accBytes])
    · exact h.mchk_fault hi (zCheck_side_detect hclean rfl rfl hmode hv h1 (.inl ⟨hc, hr⟩))
    · obtain ⟨o, u, zt', hz, hst, hstep, hzt, hcr⟩ := zCheck_col hclean rfl rfl hmode hv hring hc hr h1
      exact h.mchk_done hi hz (hst.trans (statusWord_eq _ _ _ _)) hstep fun u um ux _ => ⟨um, zt', ux, hzt, hcr⟩
    · exact h.mchk_fault hi (zCheck_side_detect hclean rfl rfl hmode hv h1 (.inr ⟨hr, hc⟩))
    · obtain ⟨o, u, zt', hz, hst, hstep, hzt, hcc⟩ := zCheck_row hclean rfl rfl hmode hv hring hr hc h1
      exact h.mchk_done hi hz (hst.trans (statusWord_eq _ _ _ _)) hstep fun u um ux _ => ⟨um, zt', ux, hzt, hcc⟩
    · exact h.mchk_fault hi (zCheck_two hclean rfl rfl hmode hv h2)
  case drains =>
    intro hoff clr size factor one seed cleared tileAfter rest hstand
    have hd : x.dims = (m, n, kb) := x.dims_eq
    have hn0 : 0 < n := Nat.succ_pos _
    have hf : (s.tile g).factorsStand e en.r2 := fun hb => hstand 0 hb hn0
    refine ⟨fun hi hm hn h6 => ⟨fun hfin hc => ?_, fun hfin => ?_⟩, fun hi hm hn h6 => ?_⟩
    · exact h.fault hi (.mdrain e) (mdrainRun_infinite hclean rfl hd hoff hf hfin hc)
    · have hc := h.drain_done wf hi (.mdrain e) (fun q => length_leBytes _ _) (by rwa [Nat.mul_comm] at h6)
        (mdrainRun_finite (r0 := en.r0) (anc := en.anc) hclean rfl hd hoff hm hn hn0 hf hfin rfl)
      rw [statusWord_none] at hc
      obtain ⟨u, h1, h2, h3, h4, h5, hp, hx, hs⟩ := hc
      exact ⟨u, h1, h2, h3, h4, h5, hp.piece, fun q hq => hp.rest q (by rwa [Nat.mul_comm] at hq), hx, hs⟩
    · rw [Nat.mul_assoc] at h6
      have hc := h.drain_done wf hi (.mdrainx e) (length_drainxElem x s.mem g e.zn n) h6
        (mdrainxRun_eq (r0 := en.r0) (anc := en.anc) hclean rfl hd hoff hm hn)
      rw [statusWord_none] at hc
      obtain ⟨u, h1, h2, h3, h4, h5, hp, hx, hs⟩ := hc
      refine ⟨u, h1, h2, h3, h4, h5, fun i j hi hj => ?_, fun q hq => hp.rest q (by rwa [Nat.mul_assoc] at hq), hx, hs⟩
      exact (hp.piece (i * n + j) (region_index hi hj).1).trans (drainxElem_at hj x s.mem g e.zn i)
  case mstat =>
    intro hi hw ht
    exact ⟨_, h.mstat hi, mstatWord_shape, mstatWord_modes, fun hs => mstatWord_tile rfl hs hw ht, mstatWord_counts⟩
  case smvw =>
    intro hi k tk
    exact ⟨h.smvw_idle hi rfl, h.smvw_busy hi rfl, fun h2 =>
      ⟨fun c sub info => h.smvw_error hi rfl h2, fun he hl hq => h.smvw_writes hi rfl h2 wf he hl hq⟩⟩

end Sys2Proof.Machine
